-- ==== Sys2Proof/Word.lean ====
section
/-! DEFINITION. The word types of the machine and the codec of a word as a row of bit fields.
R1: bit 0 is the least significant bit of every field; values are stored least significant byte first. -/

namespace Sys2Proof

/-- One byte of memory. -/
abbrev Byte := BitVec 8

/-- A 32-bit register or lane. -/
abbrev Word := BitVec 32

/-- A 64-bit value: a register pair, an address, a logical time. -/
abbrev DWord := BitVec 64

/-- A whole instruction (R68): three words, word 0 in the low bits. -/
abbrev InstrWord := BitVec 96

/-- A row of fields is packed from bit 0 upward: each field has a width and a value. -/
def packFields : List (Nat × Nat) → Nat
  | [] => 0
  | (w, v) :: rest => v % 2 ^ w + 2 ^ w * packFields rest

/-- The values of the fields of the given widths, read from bit 0 upward. -/
def unpackFields : List Nat → Nat → List Nat
  | [], _ => []
  | w :: rest, n => n % 2 ^ w :: unpackFields rest (n / 2 ^ w)

/-- The bytes of `n`, least significant first (R1). -/
def leBytes : Nat → Nat → List Byte
  | 0, _ => []
  | k + 1, n => BitVec.ofNat 8 n :: leBytes k (n / 256)

/-- The number that bytes hold, least significant first (R1). -/
def leNat : List Byte → Nat
  | [] => 0
  | b :: rest => b.toNat + 256 * leNat rest

end Sys2Proof
end

