-- ==== Sys2Proof/Config.lean ====
section
/-! DEFINITION. What an implementation fixes and the free values: constants without a body, of which nothing in
Lean can evaluate or prove a value. -/

namespace Sys2Proof.Config

/-- The encoding a special function offers for an operand (R61): free within the bound of its accuracy class, one
for each function and operand ("one result on every core of every H36"). -/
opaque sfuFree : Nat → BitVec 32 → BitVec 32

/-- A free choice between two allowed outcomes, such as old or new before WAITC (R90), numbered by the free-value
counter of the state. -/
opaque freeBool : Nat → Bool

/-- A free 32-bit value, numbered by the free-value counter of the state. -/
opaque freeWord : Nat → BitVec 32

/-- A free 256-bit value, numbered: a measurement, a serial number, a signature digest. -/
opaque freeWide : Nat → BitVec 256

/-- The signature of a report's bytes under a leaf of the identity key (R457, R461): the leaf, the bytes as a number, and the
2,820 bytes of the signature as a number. -/
opaque signature : Nat → Nat → Nat

/-- How a save image hides what it holds beyond the fields the spec lays out (R322, R351). -/
opaque imageMask : BitVec 192

/-- Whether the adapter reports the access to a host address as failed (R227), at a number of the free-value counter. -/
opaque hostFails : Nat → Nat → Bool

/-- The CRC-64 of a flit (R446), of its bytes 0 to 247 as a number; the spec does not name the polynomial. -/
opaque crc64 : Nat → BitVec 64

/-- The home slice of a line on its die (R229). -/
opaque homeSlice : Nat → Nat

/-- How many items the firmware can make a context's spill area hold on a comb (R333), numbered by the free-value counter. -/
opaque spillCap : Nat → Nat

end Sys2Proof.Config
end

