-- ==== Sys2Proof/Syntax.lean ====
section
/-! DEFINITION. The instructions and the events of the machine as syntax: one constructor of `Instr` per row of
the opcode table. An instruction row carries the body of its word's form (R71 to R73); an event row carries what
names the event (95_what_each_step_holds.md). -/

namespace Sys2Proof

/-- The types of the TYPE field (R82). -/
inductive Ty where
  | b32 | u8 | s8 | u16 | s16 | u32 | s32 | u64 | s64
  | f32 | f16 | bf16 | f16x2 | bf16x2 | e4m3 | e5m2 | e3m2 | e2m3 | e2m1 | e8m0 | qn4 | s16x2 | s8x4 | u8x4
  deriving DecidableEq, Repr

/-- The type a code names; the other codes are reserved (R82). -/
def Ty.ofCode : Nat → Option Ty
  | 0x00 => some .b32 | 0x01 => some .u8 | 0x02 => some .s8 | 0x03 => some .u16 | 0x04 => some .s16
  | 0x05 => some .u32 | 0x06 => some .s32 | 0x07 => some .u64 | 0x08 => some .s64
  | 0x10 => some .f32 | 0x11 => some .f16 | 0x12 => some .bf16 | 0x13 => some .f16x2 | 0x14 => some .bf16x2
  | 0x15 => some .e4m3 | 0x16 => some .e5m2 | 0x17 => some .e3m2 | 0x18 => some .e2m3 | 0x19 => some .e2m1
  | 0x1A => some .e8m0 | 0x1B => some .qn4 | 0x1C => some .s16x2 | 0x1D => some .s8x4 | 0x1E => some .u8x4
  | _ => none

/-- The special registers, in the order of their codes 0xD0 to 0xDF (R80). -/
inductive Special where
  | lid | em | lm | gid | tid | role | comb | die | tlo | thi | mode | fstat | clk | lk | targ | slot
  deriving DecidableEq, Repr

/-- The constants, in the order of their codes 0xE0 to 0xEC (R80). -/
inductive Const where
  | zero | one | minusOne | two | half | oneF | twoF | minusOneF | plusInf | minusInf | nan | smax | smin
  deriving DecidableEq, Repr

/-- What a register specifier names (R79). -/
inductive Spec where
  | v (n : Fin 128)
  | s (n : Fin 64)
  | p (n : Fin 8)
  | q (n : Fin 8)
  | special (x : Special)
  | const (x : Const)
  | reserved (n : Fin 18)
  | sink
  deriving DecidableEq, Repr

/-- A guard term: a predicate and whether it is inverted (R76). -/
structure Guard where
  neg : Bool
  idx : Fin 8
  deriving DecidableEq, Repr

/-- The fields every form carries beside OP, D and A (R71). -/
structure Head where
  g1 : Guard
  g2 : Guard
  stall : Fin 16
  endRun : Bool
  land : Bool
  yld : Bool
  deriving DecidableEq, Repr

/-- The body of the R form, and of the I form when `imm` holds IMM32 (R73). In the I form B, E, the patterns,
SAT2 and HINT do not exist and stand at 0 (R72). -/
structure RForm where
  h : Head
  d : Spec
  a : Spec
  b : Spec
  c : Spec
  e : Spec
  ty : BitVec 6
  apat : BitVec 5
  bpat : BitVec 5
  flags : BitVec 4
  sat2 : BitVec 2
  hint : BitVec 3
  imm : Option Word
  deriving DecidableEq, Repr

/-- The body of the M form (R73). -/
structure MForm where
  h : Head
  d : Spec
  a : Spec
  b : Spec
  c : Spec
  size : BitVec 4
  ord : BitVec 2
  scope : BitVec 3
  hint : BitVec 3
  inv : Bool
  aop : BitVec 5
  offs : BitVec 16
  deriving DecidableEq, Repr

/-- The body of the B form (R73). -/
structure BForm where
  h : Head
  d : Spec
  a : Spec
  disp : BitVec 24
  aux : BitVec 26
  deriving DecidableEq, Repr

/-- The body of the S form (R73). -/
structure SForm where
  h : Head
  d : Spec
  a : Spec
  b : Spec
  c : Spec
  e : Spec
  sub : BitVec 6
  imm : BitVec 20
  deriving DecidableEq, Repr

/-- A body of any form. -/
inductive Form where
  | r (f : RForm)
  | m (f : MForm)
  | b (f : BForm)
  | s (f : SForm)
  deriving DecidableEq, Repr

/-- Who fetches and issues instructions: a group in its slot, a comb's steward, or a matrix sequencer's stream.
Dies and combs are physical indices (R10, R14). -/
inductive Agent where
  | group (die comb slot : Nat)
  | steward (die comb : Nat)
  | stream (die comb seq : Nat)
  deriving DecidableEq, Repr

/-- The kind of access a translation is made for (R197, R198). -/
inductive Access where
  | read
  | write
  | exec
  deriving DecidableEq, Repr

/-- A Redex flit: the header fields of R446, the address where it has one, the payload, and the CRC-64 of bytes 248 to 255. -/
structure Flit where
  kind : Nat
  seq : Nat
  tag : Nat
  len : Nat
  addr : Nat
  payload : List Byte
  crc : BitVec 64
  deriving DecidableEq, Repr

/-- A firmware image (R459): the component (0 hive controller, 1 steward, 2 die manager), the security version and the digest
that its header holds, its body, and whether the vendor's signature verifies. -/
structure FwImage where
  component : Nat
  version : BitVec 32
  digest : BitVec 256
  body : List Byte
  signed : Bool
  deriving DecidableEq, Repr

/-- An error that ECC has met in a comb's SRAM in the last second (R248, R249, R455): the class of its structure, the context
whose data it was, if any, whether it was corrected, and whether it has been counted and acted on. -/
structure SramErr where
  cls : Nat
  ctx : Option Nat
  corrected : Bool
  handled : Bool
  deriving DecidableEq, Repr

/-- What ECC has met in a comb's SRAM since the last such event (R455): the comb, how many of the errors met before are now more
than a second old, and the new ones. -/
structure CombErrors where
  comb : Nat
  aged : Nat
  errs : List SramErr
  deriving DecidableEq, Repr

/-- What a start finds of the firmware and the hardware (R454, R459): the firmware images; the dies that fail training; and the
combs the self-test fails, as pairs of a die and a physical comb. -/
structure StartFindings where
  images : List FwImage
  failedDies : List Nat
  failedCombs : List (Nat × Nat)
  deriving DecidableEq, Repr

/-- One step of the machine: an instruction of an agent (rows 0 to 201 of the opcode table) or an event
(rows 202 to 276). -/
inductive Instr where
  /-- NOP (R176). Does nothing. -/
  | nop (f : SForm)
  /-- EXIT (R176). Retires the group; in a task it acts as TRET. -/
  | exit (f : SForm)
  /-- YIELD (R176). Ends the run; the group rejoins arbitration with its wait reset to 0. -/
  | yield (f : SForm)
  /-- TRAP (R178). Faults TRAPI with TVAL = n and TMASK = em. -/
  | trap (f : SForm)
  /-- BRK (R178). Faults BRK with TVAL = n; the firmware dispatches it as a debug or user trap. -/
  | brk (f : SForm)
  /-- RDSR (R177). Copies a special register into an s register or pair. -/
  | rdsr (f : SForm)
  /-- WRSR (R177). Writes an s register, pair or immediate to an RW special register. -/
  | wrsr (f : SForm)
  /-- IADD (R117). Integer add, wrapping or saturating. -/
  | iadd (f : RForm)
  /-- ISUB (R117). Integer subtract, wrapping or saturating. -/
  | isub (f : RForm)
  /-- IMUL (R117). Integer multiply, low bits. -/
  | imul (f : RForm)
  /-- IMULHI (R117). High w bits of the integer product. -/
  | imulhi (f : RForm)
  /-- IMAD (R117). Integer multiply-add. -/
  | imad (f : RForm)
  /-- IMIN (R117). Integer minimum. -/
  | imin (f : RForm)
  /-- IMAX (R117). Integer maximum. -/
  | imax (f : RForm)
  /-- IABS (R117). Integer absolute value. -/
  | iabs (f : RForm)
  /-- IADDC (R118). 32-bit add with carry-in and carry-out predicate. -/
  | iaddc (f : RForm)
  /-- LEA (R119). Forms a 64-bit address as base plus shifted offset, PC-relative with A = 0xFF in the I form. -/
  | lea (f : RForm)
  /-- IDP4 (R120). Four-element 8-bit integer dot product with accumulation. -/
  | idp4 (f : RForm)
  /-- IDP2 (R120). Two-element 16-bit integer dot product with accumulation. -/
  | idp2 (f : RForm)
  /-- AND (R121). Bitwise AND. -/
  | and (f : RForm)
  /-- OR (R121). Bitwise OR. -/
  | or (f : RForm)
  /-- XOR (R121). Bitwise exclusive or. -/
  | xor (f : RForm)
  /-- ANDN (R121). Bitwise AND with the complement of B. -/
  | andn (f : RForm)
  /-- LOP3 (R122). Arbitrary three-input bitwise function given by an 8-bit table. -/
  | lop3 (f : RForm)
  /-- SHL (R123). Shift left, wrapping or saturating. -/
  | shl (f : RForm)
  /-- SHR (R123). Logical shift right. -/
  | shr (f : RForm)
  /-- SAR (R123). Arithmetic shift right. -/
  | sar (f : RForm)
  /-- FSHL (R124). Funnel shift of the 64-bit concatenation of A and B. -/
  | fshl (f : RForm)
  /-- BFE (R125). Extracts a bit field, zero- or sign-extended. -/
  | bfe (f : RForm)
  /-- BFI (R125). Inserts a bit field into C. -/
  | bfi (f : RForm)
  /-- POPC (R126). Counts the 1 bits. -/
  | popc (f : RForm)
  /-- CLZ (R126). Counts the leading 0 bits. -/
  | clz (f : RForm)
  /-- BREV (R126). Reverses the bit order. -/
  | brev (f : RForm)
  /-- ISETP (R128). Integer compare combined with a predicate into a predicate. -/
  | isetp (f : RForm)
  /-- FSETP (R128). Floating-point compare combined with a predicate into a predicate, raising NV as stated. -/
  | fsetp (f : RForm)
  /-- SEL (R129). Selects A or B per lane by a predicate. -/
  | sel (f : RForm)
  /-- PLOP (R130). Three-input predicate function given by a table. -/
  | plop (f : RForm)
  /-- PMOV (R131). Moves between predicates and registers, by operand classes. -/
  | pmov (f : RForm)
  /-- MOV (R132). Copies its source, with an optional lane pattern. -/
  | mov (f : RForm)
  /-- XPERM (R134). Arbitrary lane permutation through the crossbar port, counted in LD. -/
  | xperm (f : RForm)
  /-- VOTE (R136). Combines a predicate across active lanes: any, all, ballot or same. -/
  | vote (f : RForm)
  /-- GREDI (R137). Integer reduction across active lanes. -/
  | gredi (f : RForm)
  /-- GREDF (R138). F32 reduction across active lanes in a fixed tree. -/
  | gredf (f : RForm)
  /-- GSCAN (R139). Inclusive or exclusive prefix operation across active lanes. -/
  | gscan (f : RForm)
  /-- MATCH (R140). Per lane, the mask of active lanes holding an equal value. -/
  | matchEq (f : RForm)
  /-- FADD (R147). Floating-point add. -/
  | fadd (f : RForm)
  /-- FSUB (R147). Floating-point subtract. -/
  | fsub (f : RForm)
  /-- FMUL (R147). Floating-point multiply. -/
  | fmul (f : RForm)
  /-- FFMA (R147). Fused multiply-add. -/
  | ffma (f : RForm)
  /-- FFMS (R147). Fused multiply-subtract. -/
  | ffms (f : RForm)
  /-- FNFMA (R147). Negated fused multiply plus C. -/
  | fnfma (f : RForm)
  /-- FDIV (R147). Correctly rounded F32 division. -/
  | fdiv (f : RForm)
  /-- FMIN (R148). Floating-point minimum. -/
  | fmin (f : RForm)
  /-- FMAX (R148). Floating-point maximum. -/
  | fmax (f : RForm)
  /-- FABS (R149). Clears the sign bit. -/
  | fabs (f : RForm)
  /-- FNEG (R149). Inverts the sign bit. -/
  | fneg (f : RForm)
  /-- FCPSGN (R149). Copies the sign of B onto A. -/
  | fcpsgn (f : RForm)
  /-- FRND (R150). Rounds to an integral value in the same format. -/
  | frnd (f : RForm)
  /-- FCLASS (R151). Writes one bit naming the class of each element. -/
  | fclass (f : RForm)
  /-- RCP (R152). Reciprocal within 1 ulp. -/
  | rcp (f : RForm)
  /-- RSQ (R152). Reciprocal square root within 1 ulp. -/
  | rsq (f : RForm)
  /-- SQRT (R152). Correctly rounded square root. -/
  | sqrt (f : RForm)
  /-- EXP2 (R152). Base-2 exponential. -/
  | exp2 (f : RForm)
  /-- LOG2 (R152). Base-2 logarithm. -/
  | log2 (f : RForm)
  /-- SINPI (R152). sin(pi a). -/
  | sinpi (f : RForm)
  /-- COSPI (R152). cos(pi a). -/
  | cospi (f : RForm)
  /-- TANH (R152). Hyperbolic tangent. -/
  | tanh (f : RForm)
  /-- CVT (R153). Converts one value between two types. -/
  | cvt (f : RForm)
  /-- PACK2 (R154). Rounds two F32 values into packed 16-bit or FP8 elements. -/
  | pack2 (f : RForm)
  /-- UNPK2 (R155). Widens element N of a packed value exactly to F32. -/
  | unpk2 (f : RForm)
  /-- CVTMX (R156). Converts active lanes to one MX block with its shared E8M0 scale. -/
  | cvtmx (f : RForm)
  /-- CVTQN (R157). Selects the nearest QN4 code under given scales. -/
  | cvtqn (f : RForm)
  /-- QNDEC (R158). Decodes a QN4 nibble under given scales. -/
  | qndec (f : RForm)
  /-- BRA (R164). Direct branch when the guard holds. -/
  | bra (f : BForm)
  /-- BRZ (R164). Branch when A is zero, optionally setting em. -/
  | brz (f : BForm)
  /-- BRNZ (R164). Branch when A is nonzero, optionally setting em. -/
  | brnz (f : BForm)
  /-- BRANY (R164). Branch when any lane of em has the predicate set. -/
  | brany (f : BForm)
  /-- BRALL (R164). Branch when every lane of em has the predicate set. -/
  | brall (f : BForm)
  /-- CALL (R165). Direct or indirect call: sets lk and increments cd. -/
  | call (f : BForm)
  /-- RET (R165). Returns to lk, decrements cd and pops deeper loop entries; at cd 0 acts as EXIT. -/
  | ret (f : BForm)
  /-- JMPI (R166). Indirect jump to a LAND-marked target. -/
  | jmpi (f : BForm)
  /-- JMPV (R167). Divergent indirect jump serving the lanes of the lowest active lane's target. -/
  | jmpv (f : BForm)
  /-- EMAND (R169). ANDs a mask into em, returning the old em. -/
  | emand (f : BForm)
  /-- EMANDN (R169). ANDs the complement of a mask into em, returning the old em. -/
  | emandn (f : BForm)
  /-- EMSET (R169). Sets em to a mask cut to lm. -/
  | emset (f : BForm)
  /-- EMGET (R169). Reads em. -/
  | emget (f : BForm)
  /-- EXITL (R170). Retires the active lanes; the group retires if lm becomes 0. -/
  | exitl (f : BForm)
  /-- LOOP (R171). Pushes a counted loop onto the loop stack. -/
  | loop (f : BForm)
  /-- LBRK (R172). Pops the innermost loop at the current depth and leaves it. -/
  | lbrk (f : BForm)
  /-- LCNT (R172). Reads the innermost loop's remaining count. -/
  | lcnt (f : BForm)
  /-- RGIVE (R173). Returns the top n vector registers to the role's pool. -/
  | rgive (f : BForm)
  /-- RCLAIM (R174). Claims n registers from the role's pool, waiting in order until they are available. -/
  | rclaim (f : BForm)
  /-- WINSEL (R187). Selects a group slot for the window and returns its state. -/
  | winsel (f : SForm)
  /-- WINRD (R189). Reads a stopped group's state through the window. -/
  | winrd (f : SForm)
  /-- WINWR (R189). Writes a stopped group's state through the window. -/
  | winwr (f : SForm)
  /-- GRESUME_REPLAY (R190). Restarts a trapped group at TPC. -/
  | gresumeReplay (f : SForm)
  /-- GRESUME_SKIP (R190). Restarts a trapped group as though the instruction at TPC had completed. -/
  | gresumeSkip (f : SForm)
  /-- GKILL (R191). Ends the selected group as by EXIT. -/
  | gkill (f : SForm)
  /-- BANKCFG_OFF (R240). Sets a comb-store bank to OFF. -/
  | bankcfgOff (f : SForm)
  /-- BANKCFG_CACHE (R240). Sets a bank to CACHE, dropping its lines. -/
  | bankcfgCache (f : SForm)
  /-- BANKCFG_SCRATCH (R240). Sets a bank to SCRATCH with all granules free. -/
  | bankcfgScratch (f : SForm)
  /-- BANKCFG_FIFO (R240). Sets a bank to an empty plain or ordered FIFO owned by a context. -/
  | bankcfgFifo (f : SForm)
  /-- TLBINV_PAGE (R202). Removes a page's translations from every TLB of the package and waits for all dies. -/
  | tlbinvPage (f : SForm)
  /-- TLBINV_PAGE_PURGE (R204). Removes a page's translations and purges the frame's lines and replicas at its home. -/
  | tlbinvPagePurge (f : SForm)
  /-- TLBINV_CTX (R202). Removes every translation of a context. -/
  | tlbinvCtx (f : SForm)
  /-- TLBINV_ALL (R202). Removes every translation. -/
  | tlbinvAll (f : SForm)
  /-- CTXSAVE_FREEZE (R346). Freezes a context on every comb of every live die. -/
  | ctxsaveFreeze (f : SForm)
  /-- CTXSAVE_COPIES (R347). Saves the comb's cancelled copy records. -/
  | ctxsaveCopies (f : SForm)
  /-- CTXSAVE_GROUP (R351). Saves a group image and frees its slot and budget. -/
  | ctxsaveGroup (f : SForm)
  /-- CTXSAVE_TEAM (R351). Saves a team's scratch, barriers, pools and matrix image and frees them. -/
  | ctxsaveTeam (f : SForm)
  /-- CTXSAVE_QUEUES (R351). Saves the task table and ready queue of a context. -/
  | ctxsaveQueues (f : SForm)
  /-- CTXSAVE_FIFO (R351). Saves a FIFO bank. -/
  | ctxsaveFifo (f : SForm)
  /-- CTXLOAD_THAW (R348). Releases a context on every die and delivers its parked items. -/
  | ctxloadThaw (f : SForm)
  /-- CTXLOAD_COPIES (R347). Re-registers cancelled copies in their issuers' CP order. -/
  | ctxloadCopies (f : SForm)
  /-- CTXLOAD_GROUP (R352). Restores a group image into a free slot of its saved core. -/
  | ctxloadGroup (f : SForm)
  /-- CTXLOAD_TEAM (R352). Restores a team image, including its matrix image. -/
  | ctxloadTeam (f : SForm)
  /-- CTXLOAD_QUEUES (R352). Restores the task table and ready queue. -/
  | ctxloadQueues (f : SForm)
  /-- CTXLOAD_FIFO (R352). Restores a FIFO bank. -/
  | ctxloadFifo (f : SForm)
  /-- LD (R285). Global load per lane, counted in LD. -/
  | ld (f : MForm)
  /-- ST (R285). Global store per lane, uncounted. -/
  | st (f : MForm)
  /-- LDSC (R285). Scratch load per lane. -/
  | ldsc (f : MForm)
  /-- STSC (R285). Scratch store per lane. -/
  | stsc (f : MForm)
  /-- LDP (R287). Reads the parameters of the running grid or task. -/
  | ldp (f : MForm)
  /-- PRF (R288). Prefetches linear lines into the L2 and optionally the L1. -/
  | prf (f : MForm)
  /-- LDTE (R289). Reads one tensor element per lane through a descriptor. -/
  | ldte (f : MForm)
  /-- STTE (R289). Writes one tensor element per lane through a descriptor. -/
  | stte (f : MForm)
  /-- CCTL_ICINV (R245). Release, then drops every instruction-cache line of the combs in scope. -/
  | cctlIcinv (f : MForm)
  /-- CCTL_L1INV (R245). Drops every line of the issuing comb's L1. -/
  | cctlL1inv (f : MForm)
  /-- CCTL_WB (R245). Writes back a linear line's dirty words at its home. -/
  | cctlWb (f : MForm)
  /-- CCTL_WBINV (R245). Writes back and drops a linear line. -/
  | cctlWbinv (f : MForm)
  /-- CCTL_PIN (R247). Pins a linear line at its home, reporting success. -/
  | cctlPin (f : MForm)
  /-- CCTL_UNPIN (R247). Removes a pin. -/
  | cctlUnpin (f : MForm)
  /-- FENCE_ACQ (R276). Acquire fence at a scope. -/
  | fenceAcq (f : MForm)
  /-- FENCE_REL (R276). Release fence at a scope. -/
  | fenceRel (f : MForm)
  /-- FENCE_ACQREL (R276). Acquire-release fence at a scope. -/
  | fenceAcqrel (f : MForm)
  /-- FENCE_SC (R268). SC fence taking a place in the scope instance's total order. -/
  | fenceSc (f : MForm)
  /-- FENCE_I (R276). Discards fetched instructions and the loop buffer. -/
  | fenceI (f : MForm)
  /-- TSYNC (R277). Writes back and drops a tensor's tile lines in scope. -/
  | tsync (f : MForm)
  /-- TSYNC_ALL (R277). Writes back and drops every tile line of the context in scope. -/
  | tsyncAll (f : MForm)
  /-- TDINV (R208). Drops one cached descriptor in scope. -/
  | tdinv (f : MForm)
  /-- TDINV_ALL (R208). Drops every cached descriptor of the context in scope. -/
  | tdinvAll (f : MForm)
  /-- ATOM (R292). Global atomic read-modify-write returning the old value. -/
  | atom (f : MForm)
  /-- ATOMCAS (R293). Global compare and swap. -/
  | atomcas (f : MForm)
  /-- RED (R292). Global atomic reduction without return. -/
  | red (f : MForm)
  /-- ATOMSC (R292). Scratch atomic read-modify-write. -/
  | atomsc (f : MForm)
  /-- CASSC (R293). Scratch compare and swap. -/
  | cassc (f : MForm)
  /-- COPY (R294). Starts a copy of one tensor tile into scratch, counted in CP. -/
  | copy (f : MForm)
  /-- COPYO (R294). Starts a copy of one tile from scratch to a tensor. -/
  | copyo (f : MForm)
  /-- COPYM (R299). Starts a multicast of one tensor tile to up to 16 receivers. -/
  | copym (f : MForm)
  /-- GATHER (R296). Starts a copy of one row per lane into scratch. -/
  | gather (f : MForm)
  /-- COPYL (R295). Starts a linear byte copy between global and scratch. -/
  | copyl (f : MForm)
  /-- CCANCEL (R300). Cancels every outstanding CP operation of the group. -/
  | ccancel (f : MForm)
  /-- PUTV (R301). Remote vector store grouped by home die, counted in RM. -/
  | putv (f : MForm)
  /-- GETV (R301). Remote vector load grouped by home die, counted in LD. -/
  | getv (f : MForm)
  /-- REDV (R301). Remote vector reduction grouped by home die, counted in RM. -/
  | redv (f : MForm)
  /-- MMA (R315). Posts one matrix multiply-accumulate pass. -/
  | mma (f : SForm)
  /-- MZERO (R316). Posts a pass clearing an accumulator tile. -/
  | mzero (f : SForm)
  /-- MST (R316). Posts a pass storing an accumulator to memory. -/
  | mst (f : SForm)
  /-- MLD (R316). Posts a pass loading an accumulator from memory. -/
  | mld (f : SForm)
  /-- MROWS (R317). Posts a pass scaling each accumulator row by a vector. -/
  | mrows (f : SForm)
  /-- MROWMAX (R317). Posts a pass folding row maxima into a vector. -/
  | mrowmax (f : SForm)
  /-- MROWSUM (R317). Posts a pass folding row sums into a vector. -/
  | mrowsum (f : SForm)
  /-- MBAR (R318). Stream arrival at a named barrier, at once or after earlier passes, optionally waiting. -/
  | mbar (f : SForm)
  /-- MWAITB (R319). Stream waits for and consumes the next completed phase of a named barrier. -/
  | mwaitb (f : SForm)
  /-- SPAWN (R337). Creates a task from a record after its release, counting +1 at its station. -/
  | spawn (f : SForm)
  /-- TRET (R338). Waits for the task's pushes, commits if atomic, closes its batch with -1 and retires. -/
  | tret (f : SForm)
  /-- REFILL (R344). Fills vacant lanes with entries from a plain FIFO bank. -/
  | refill (f : SForm)
  /-- WQPUSH (R343). Pushes one 16-byte entry per lane into a plain FIFO bank. -/
  | wqpush (f : SForm)
  /-- SEND (R367). Sends a counted message that creates a task at a station. -/
  | send (f : SForm)
  /-- FPUSH (R364). Pushes one entry per lane into a plain or ordered FIFO bank. -/
  | fpush (f : SForm)
  /-- FPOP (R365). Pops released entries of one time into vacant lanes. -/
  | fpop (f : SForm)
  /-- EVPOP (R358). Steward pops the oldest event record, optionally waiting. -/
  | evpop (f : SForm)
  /-- PRIMEMIT (R370). Emits one keyed primitive per lane to the die's bin router. -/
  | primemit (f : SForm)
  /-- VTWR (R219). Writes one word of a view or view-set table, locally or on every die. -/
  | vtwr (f : SForm)
  /-- OWNWR (R219). Writes one ownership-table word, locally or on every die. -/
  | ownwr (f : SForm)
  /-- PSWR (R403). Loads a flow's image into its frontier units with a start hold. -/
  | pswr (f : SForm)
  /-- BARI (R381). Abandons any open phase of a named barrier. -/
  | bari (f : SForm)
  /-- BARA (R380). Arrives at a named barrier without waiting. -/
  | bara (f : SForm)
  /-- BARW (R380). Arrives at a named barrier and waits for the phase to complete. -/
  | barw (f : SForm)
  /-- TBINIT (R384). Initialises a transaction barrier with an expected arrival count. -/
  | tbinit (f : SForm)
  /-- TBEXP (R384). Adds or subtracts expected sectors, optionally arriving. -/
  | tbexp (f : SForm)
  /-- TBARR (R384). Arrives at a transaction barrier and returns the phase joined. -/
  | tbarr (f : SForm)
  /-- TBWAIT (R386). Waits until a transaction barrier's phase differs from p. -/
  | tbwait (f : SForm)
  /-- WAITC (R388). Waits until the chosen outstanding classes hold at most n. -/
  | waitc (f : SForm)
  /-- DEPSET (R389). Sets a waiting task's dependency counter by handle. -/
  | depset (f : SForm)
  /-- DEPDEC (R389). Decrements a waiting task's dependency counter by handle. -/
  | depdec (f : SForm)
  /-- OWAIT (R391). Waits until a region order counter equals a value. -/
  | owait (f : SForm)
  /-- ORELS (R391). Adds 1 to a region order counter. -/
  | orels (f : SForm)
  /-- ORELS_SET (R391). Writes a value to a region order counter. -/
  | orelsSet (f : SForm)
  /-- TIMEW (R417). Moves the task's pointstamp forward and sends its open batches. -/
  | timew (f : SForm)
  /-- CREST (R418). Tests at once whether a time is complete at a location. -/
  | crest (f : SForm)
  /-- CWAIT (R418). Waits until a time is complete at a location, or the flow fails. -/
  | cwait (f : SForm)
  /-- CSUB (R415). Makes a crest subscription on the issuing die. -/
  | csub (f : SForm)
  /-- CSUB_CANCEL (R415). Cancels an armed crest subscription. -/
  | csubCancel (f : SForm)
  /-- PCNT (R419). Steward adds d to a progress count in its open batch. -/
  | pcnt (f : SForm)
  /-- PFLUSH (R420). Sends open batches for acknowledgement and waits for every replica. -/
  | pflush (f : SForm)
  /-- NRED (R428). Contributes to a reduction-tree round and later receives its result. -/
  | nred (f : SForm)
  /-- WRING (R432). Creates a member's side of a waggle ring. -/
  | wring (f : SForm)
  /-- WRING_CLOSE (R432). Closes a waggle ring on the issuing die. -/
  | wringClose (f : SForm)
  /-- WPOST (R435). Fills an origin step of a ring once its grant is held. -/
  | wpost (f : SForm)
  /-- WTAKE (R436). Waits until a ring step is present and returns its slot address. -/
  | wtake (f : SForm)
  /-- WDONE (R436). Marks one consumption of a ring step after earlier operations complete. -/
  | wdone (f : SForm)
  /-- INSTRUCTION_FETCH (R68). Fetches the next instruction, faulting IPAGE if its translation fails. -/
  | instructionFetch (a : Agent)
  /-- ISSUE_ARBITRATION (R335). When a run ends or the slot is free, the core picks the next ready group by effective priority and age. -/
  | issueArbitration (die comb core : Nat)
  /-- OPERATION_COMPLETION (R270). An asynchronous operation completes in its outstanding class, landing its data and freeing waiters. -/
  | operationCompletion (die comb idx : Nat)
  /-- TLBINV_ACKNOWLEDGE (R203). A die acknowledges a TLBINV once its TLBs, walks and accesses in range are done. -/
  | tlbinvAcknowledge (die : Nat)
  /-- STORE_AT_HOME_SLICE (R231). A store reaches its home slice and writes whole words, allocating or fetching as needed. -/
  | storeAtHomeSlice (idx : Nat)
  /-- MERGING_FILL (R232). A sector fill arrives and fills only invalid words, serving waiting reads. -/
  | mergingFill (idx : Nat)
  /-- REPLICA_UPDATE (R226). A replica-update copy invalidates every replica, then writes the owner's bytes. -/
  | replicaUpdate (die comb idx : Nat)
  /-- REMOTE_WRITE_ACK (R257). The acknowledgement of a remote write arrives, letting PKG and SYS releases complete. -/
  | remoteWriteAck (idx : Nat)
  /-- COPY_SECTOR_WRITE (R297). A copy's sector is written and counted at its transaction barrier. -/
  | copySectorWrite (die comb idx sector : Nat)
  /-- COPY_RESUME (R298). A paused copy resumes at its faulting sector after the firmware maps the page. -/
  | copyResume (die comb idx : Nat)
  /-- FIRST_ROUTER_CHECK (R20). A message at its first router is discarded with STALE if its generation is stale, else translated and routed. -/
  | firstRouterCheck (idx : Nat)
  /-- MESSAGE_DELIVERY (R216). A message at its destination die is checked against the comb map and delivered or discarded as stale. -/
  | messageDelivery (idx : Nat)
  /-- TASK_ARRIVAL (R337). A remote SPAWN record arrives and creates a task, returning its handle. -/
  | taskArrival (die comb : Nat)
  /-- MESSAGE_CONSUMPTION (R368). A comb consumes a counted message, creating its task and moving its count from channel to station. -/
  | messageConsumption (die comb : Nat)
  /-- PARKED_ENTRY (R333). Parked arrivals in the spill area enter the comb in arrival order as room frees. -/
  | parkedEntry (die comb : Nat)
  /-- TASK_DEQUEUE (R331). The comb dequeues the first fitting ready task into a slot, budget and granule. -/
  | taskDequeue (die comb : Nat)
  /-- FORAGE_CLAIM (R393). A comb claims a range of a grid's teams from a forage counter and starts them. -/
  | forageClaim (die comb grid : Nat)
  /-- TEAM_RETIREMENT (R28). A team retires once its groups, stream and outstanding operations are done, freeing its resources. -/
  | teamRetirement (die comb team : Nat)
  /-- COMMIT_PERFORM (R341). The commit engine performs an atomic task's buffered actions after the commit mark. -/
  | commitPerform (idx : Nat)
  /-- DEPENDENCY_OP_ARRIVAL (R389). A DEPSET or DEPDEC reaches its slot and is applied or faults, possibly releasing the task. -/
  | dependencyOpArrival (die comb : Nat)
  /-- PUSH_DELIVERY (R363). An FPUSH or WQPUSH message reaches its bank and is appended, spilled or dropped. -/
  | pushDelivery (die comb : Nat)
  /-- PACKET_DELIVERY (R372). A primitive packet reaches its ordered bank and is acknowledged to the emitter. -/
  | packetDelivery (die comb : Nat)
  /-- SPILL_RELOAD (R362). Spilled FIFO entries are reloaded into the bank as room frees. -/
  | spillReload (die comb bank : Nat)
  /-- PRIMITIVE_BINNING (R371). The bin router takes one primitive, transforms it per view and sends region packets. -/
  | primitiveBinning (die : Nat)
  /-- BOUND_ADVANCE (R361). A crest action raises an ordered bank's release bound or sets release-all. -/
  | boundAdvance (die comb : Nat)
  /-- EVENT_RECORD_ARRIVAL (R357). A record from the mesh or hive controller enters the event queue or overflow ring under credits. -/
  | eventRecordArrival (die comb : Nat)
  /-- BATCH_APPLY (R410). A frontier unit applies arrived batches in order, recomputes frontiers and fires crests. -/
  | batchApply (die : Nat)
  /-- CSUB_REQUEST_ARRIVAL (R415). A CSUB request reaches the frontier unit and registers or cancels a subscription. -/
  | csubRequestArrival (die : Nat)
  /-- BATCH_ACKNOWLEDGEMENT (R407). A replica acknowledges a batch, letting the sender drop it and PFLUSH return. -/
  | batchAcknowledgement (die : Nat)
  /-- PENDING_TIME_MERGE (R408). Spilled pending-time entries are merged back as room frees. -/
  | pendingTimeMerge (die : Nat)
  /-- PASS_GRANT (R309). The matrix arbiter grants the highest-priority eligible pass. -/
  | passGrant (die comb : Nat)
  /-- PASS_COMPLETION (R315). A matrix pass completes, updating MSTAT and deferred arrivals. -/
  | passCompletion (die comb : Nat)
  /-- PASS_RESUME (R314). A paused pass becomes eligible again once its page is mapped. -/
  | passResume (die comb seq : Nat)
  /-- REDUCTION_PARTIAL (R427). A tree node forms its partial once every expected input has arrived and sends it on. -/
  | reductionPartial (die tree : Nat)
  /-- REDUCTION_RESULT (R428). A round's result arrives and is written at the NRED destination with its status. -/
  | reductionResult (die tree : Nat)
  /-- RING_TRANSFER (R434). A ring transfer lands a step in the successor's slot, making it present. -/
  | ringTransfer (die ring : Nat)
  /-- RING_FORWARD_COMPLETE (R433). A member's forward of a step is locally complete, removing its count. -/
  | ringForwardComplete (die ring step : Nat)
  /-- RING_GRANT (R434). A grant for a step arrives at a member, allowing its forward or WPOST. -/
  | ringGrant (die : Nat)
  /-- TRAP_RECORD_DISPATCH (R181). The steward firmware dispatches a TRAP record: resolves it, holds it for debug, calls the handler or ends the context. -/
  | trapRecordDispatch (die comb : Nat)
  /-- HANDLER_TIME_LIMIT (R184). A handler running past 2,097,152 clk is ended and the trapped group killed. -/
  | handlerTimeLimit (die comb : Nat)
  /-- CONTEXT_TEARDOWN (R356). STEWMSG code 4 makes each steward remove a context's groups, tasks, records and banks. -/
  | contextTeardown (die comb : Nat)
  /-- BROADCAST_ACKNOWLEDGE (R219). A live die acknowledges a broadcast VTWR/OWNWR, TDINV, TSYNC, CCTL.icinv, PSWR, freeze or thaw once it has applied it, letting the waiting instruction complete. -/
  | broadcastAcknowledge (die : Nat)
  /-- DEBUG_CONTINUE (R181). STEWMSG code 5 from the driver resumes a debug-held group by replay or skip. -/
  | debugContinue (die comb : Nat)
  /-- GRANT_RESEND (R434). Grants refused for an uncreated ring are resent every 10 microseconds. -/
  | grantResend
  /-- PAGE_WALK (R198). A walker completes a four-level translation, filling TLBs or faulting. -/
  | pageWalk (die comb ctx : Nat) (acc : Access) (va : BitVec 64)
  /-- RELEASE_COMPLETE (R465). When a release's wait completes, the stalled synchronising instruction makes its whole effect. -/
  | releaseComplete (a : Agent)
  /-- WRITE_BACK (R233). A line's dirty words are written to HBM under a word mask, as on eviction. -/
  | writeBack (tile : Bool) (idx : Nat)
  /-- REPLICA_READ (R225). A read of a REPLICATED frame is served locally or by the owner, which sets the presence bit. -/
  | replicaRead (die : Nat) (pa : Nat)
  /-- QTAIL_WRITE (R448). The host's doorbell write advances QTAIL and posts STEWMSG code 1, or is ignored with an overrun notice. -/
  | qtailWrite (v : BitVec 64)
  /-- QBASE_WRITE (R447). Sets the host queue base, resetting QHEAD and QTAIL, or is refused. -/
  | qbaseWrite (v : BitVec 64)
  /-- QSIZE_WRITE (R447). Sets the host queue size, resetting QHEAD and QTAIL, or is refused. -/
  | qsizeWrite (v : BitVec 64)
  /-- NBASE_WRITE (R447). Sets the notice ring base, or is refused. -/
  | nbaseWrite (v : BitVec 64)
  /-- NSIZE_NHEAD_WRITE (R447). Changes the notice ring size with reset, or moves NHEAD. -/
  | nsizeNheadWrite (v : BitVec 64)
  /-- FACCEPT_WRITE (R452). Accepts the feature vector once per start. -/
  | facceptWrite (v : BitVec 128)
  /-- REGISTER_WRITE (R451). A register write to the hive controller with no behaviour of its own. -/
  | registerWrite (off : Nat) (v : BitVec 64)
  /-- ERROR_COUNT_CLEAR (R248). A write of 0 to an error-block word clears that count. -/
  | errorCountClear (die word : Nat)
  /-- REPORT_REQUEST (R461). The driver requests a signed attestation report over a nonce. -/
  | reportRequest (nonce : BitVec 256)
  /-- FLIT_RECEIVE (R446). A Redex flit is received in sequence order, or replayed on CRC failure. -/
  | flitReceive (link : Nat) (f : Flit)
  /-- COLD_START (R454). Verifies firmware, self-tests, trains links, numbers dies and combs and zeroes HBM. -/
  | coldStart (c : StartFindings)
  /-- WARM_START (R454). Re-hashes firmware, reuses calibration, renumbers and advances the generation. -/
  | warmStart (c : StartFindings)
  /-- HEARTBEAT (R455). A die manager sends its heartbeat every 100 microseconds. -/
  | heartbeat (die : Nat)
  /-- HEARTBEAT_MISS (R455). After three missed heartbeats the controller probes the die's router. -/
  | heartbeatMiss (die : Nat) (probeOk : Bool)
  /-- COMB_ERROR_RETIREMENT (R455). A comb with 16 uncorrectable SRAM errors in one second is retired: the event brings what ECC has
  met there. -/
  | combErrorRetirement (die : Nat) (met : CombErrors)
  /-- RETIRE_REQUEST (R455). The driver requests retirement of a comb or die. -/
  | retireRequest (die : Nat) (comb : Option Nat)
  /-- CLOCK_STRETCH (R456). A die manager stretches the clock at 105 C junction or above its power cap. -/
  | clockStretch (die temp power : Nat)
  /-- THERMAL_TRIP (R456). At 120 C junction the hive controller removes package power and records the trip. -/
  | thermalTrip (die temp : Nat)
  /-- SECURITY_ALARM (R462). A sensor alarm of level 1 to 3 posts a notice, extends slot 5 and may erase keys and halt. -/
  | securityAlarm (level sensor die : Nat)
  /-- FABRIC_PORT_DOWN (R453). A fabric port that loses lock for 1 ms is declared down and its rings post RINGEVT. -/
  | fabricPortDown (port : Nat)
  /-- RETIREMENT (R455). Retires a comb or die: tree edits, batch repair, forage moves, ownership rewrite and generation advance. -/
  | retirement
  /-- CTXNEW (R450). The launch station creates a context from a launch record. -/
  | ctxnew
  /-- GRID (R450). The launch station launches a grid over its die ring. -/
  | grid
  /-- CTXEND (R450). The launch station ends a context on every comb. -/
  | ctxend
  /-- TREE (R426). The launch station writes a reduction tree through the hive controller, if accepted. -/
  | tree
  /-- REPORT_COMPLETE (R461). The hive controller finishes signing an attestation report, releases it with status 0 and starts the next queued request. -/
  | reportComplete
  /-- POWER_LOSS (R458). The package's supply is lost, ending all work while the monotonic store keeps any leaf index already written. -/
  | powerLoss
  deriving DecidableEq, Repr

end Sys2Proof
end

