-- ==== Sys2Proof/WellFormed.lean ====
section
/-! DEFINITION. Which instructions have a valid encoding: the checks of step 1 of R81, all of which fault ILLOP.
They look at the instruction alone: reserved codes, fields an entry does not use (R74), types, patterns, IMM. -/

namespace Sys2Proof

/-- The specifier of an unused field: 0x00, which names no register there (R74). -/
def Spec.unused : Spec := .v 0

/-- What an entry of the R form uses beyond OP, D and the guards. -/
structure RInfo where
  tys : List Ty
  a : Bool := true
  b : Bool := true
  c : Bool := false
  e : Bool := false
  iform : Bool := true
  flags : BitVec 4 → Bool := fun x => x = 0
  sat2 : Bool := false
  hint : BitVec 3 → Bool := fun x => x = 0

/-- Whether a specifier names a v register. -/
def Spec.isV : Spec → Bool
  | .v _ => true
  | _ => false

/-- A pattern value that R85 defines. -/
def patDefined (p : BitVec 5) : Bool :=
  p.toNat / 8 = 0 || p.toNat / 8 = 2 || p.toNat % 8 ≤ 4

/-- A pattern stands only on a v register the entry uses, and has a defined value (R81, R85). -/
def patOk (used : Bool) (x : Spec) (p : BitVec 5) : Bool :=
  p = 0 || (used && x.isV && patDefined p)

/-- An R or I form against its entry (R72, R74, R81). -/
def rOk (i : RInfo) (f : RForm) : Bool :=
  (match Ty.ofCode f.ty.toNat with
    | some t => i.tys.contains t
    | none => false) &&
  (i.a || f.a = .unused) && (i.b || f.b = .unused) && (i.c || f.c = .unused) && (i.e || f.e = .unused) &&
  patOk i.a f.a f.apat && patOk i.b f.b f.bpat &&
  i.flags f.flags && (i.sat2 || f.sat2 = 0) && i.hint f.hint &&
  (f.imm.isNone ||
    (i.iform && f.b = .unused && f.e = .unused && f.apat = 0 && f.bpat = 0 && f.sat2 = 0 && f.hint = 0))

/-- FLAGS of an entry that saturates: S alone (R84). -/
def flagsS (x : BitVec 4) : Bool := x = 0 || x = 8

/-- FLAGS of an entry that rounds without S. RND 6 and 7 are BADRM, not ILLOP (R81). -/
def flagsRnd (x : BitVec 4) : Bool := x.toNat < 8

/-- FLAGS of an entry that rounds and saturates. -/
def flagsAny (_ : BitVec 4) : Bool := true

def intTys : List Ty := [.u32, .s32, .u64, .s64, .s16x2, .s8x4, .u8x4]
def int4Tys : List Ty := [.u32, .s32, .u64, .s64]
def bitTys : List Ty := [.b32, .u64]
def fpTys : List Ty := [.f32, .f16, .bf16, .f16x2, .bf16x2]
def movTys : List Ty := [.b32, .u32, .s32, .f32, .u64, .s64]
def cvtTys : List Ty :=
  [.f32, .f16, .bf16, .e4m3, .e5m2, .e3m2, .e2m3, .e2m1, .e8m0, .u8, .s8, .u16, .s16, .u32, .s32, .u64, .s64]

/-- The integer types of CVT (R153). -/
def Ty.isInt : Ty → Bool
  | .u8 | .s8 | .u16 | .s16 | .u32 | .s32 | .u64 | .s64 => true
  | _ => false

/-- The type an R form carries, when its code is defined. -/
def RForm.tyIs (f : RForm) (t : Ty) : Bool := Ty.ofCode f.ty.toNat = some t

/-- CVT: the source type in E, never equal to the destination's; S and SAT2 by destination (R153). -/
def cvtOk (f : RForm) (srcCode : Nat) : Bool :=
  match Ty.ofCode f.ty.toNat, Ty.ofCode srcCode with
  | some d, some s =>
    cvtTys.contains s && d != s &&
    (f.flags.toNat < 8 || !(d.isInt && !s.isInt)) &&
    (f.sat2 = 0 || !(d.isInt || d == .e8m0))
  | _, _ => false

/-- The operation and type pairs of GREDI and GSCAN; S with add alone (R137, R139). R139 takes over GREDI's types and does not
repeat the bound on S, which the model holds for GSCAN too (DESIGN CHOICE, log entry 52). -/
def redOk (f : RForm) (maxOp : Nat) : Bool :=
  let op := f.flags.toNat % 8
  op ≤ maxOp && (if op ≤ 2 then !f.tyIs .b32 else f.tyIs .b32) && (f.flags.toNat < 8 || op = 0)

/-- The number a specifier field holds (R79): the code an encoder writes. -/
def Special.code : Special → Nat
  | .lid => 0 | .em => 1 | .lm => 2 | .gid => 3 | .tid => 4 | .role => 5 | .comb => 6 | .die => 7
  | .tlo => 8 | .thi => 9 | .mode => 10 | .fstat => 11 | .clk => 12 | .lk => 13 | .targ => 14 | .slot => 15

/-- The special of a code, 0 to 15. -/
def Special.ofCode : Nat → Special
  | 0 => .lid | 1 => .em | 2 => .lm | 3 => .gid | 4 => .tid | 5 => .role | 6 => .comb | 7 => .die
  | 8 => .tlo | 9 => .thi | 10 => .mode | 11 => .fstat | 12 => .clk | 13 => .lk | 14 => .targ | _ => .slot

def Const.code : Const → Nat
  | .zero => 0 | .one => 1 | .minusOne => 2 | .two => 3 | .half => 4 | .oneF => 5 | .twoF => 6
  | .minusOneF => 7 | .plusInf => 8 | .minusInf => 9 | .nan => 10 | .smax => 11 | .smin => 12

def Const.ofCode : Nat → Const
  | 0 => .zero | 1 => .one | 2 => .minusOne | 3 => .two | 4 => .half | 5 => .oneF | 6 => .twoF
  | 7 => .minusOneF | 8 => .plusInf | 9 => .minusInf | 10 => .nan | 11 => .smax | _ => .smin

/-- The code of a specifier (R79). -/
def Spec.code : Spec → Nat
  | .v n => n
  | .s n => 0x80 + n
  | .p n => 0xC0 + n
  | .q n => 0xC8 + n
  | .special x => 0xD0 + x.code
  | .const x => 0xE0 + x.code
  | .reserved n => 0xED + n
  | .sink => 0xFF

/-- The specifier of a code below 256 (R79). -/
def Spec.ofCode (n : Nat) : Spec :=
  if n < 0x80 then .v (Fin.ofNat 128 n)
  else if n < 0xC0 then .s (Fin.ofNat 64 (n - 0x80))
  else if n < 0xC8 then .p (Fin.ofNat 8 (n - 0xC0))
  else if n < 0xD0 then .q (Fin.ofNat 8 (n - 0xC8))
  else if n < 0xE0 then .special (Special.ofCode (n - 0xD0))
  else if n < 0xED then .const (Const.ofCode (n - 0xE0))
  else if n < 0xFF then .reserved (Fin.ofNat 18 (n - 0xED))
  else .sink

/-- A B form with nothing beyond the fields named by the flags. -/
def bOk (f : BForm) (d a disp : Bool) (aux : Nat → Bool) : Bool :=
  (d || f.d = .unused) && (a || f.a = .unused) && (disp || f.disp = 0) && aux f.aux.toNat

/-- An S form with nothing beyond the fields named by the flags, SUB and IMM20 as the entry allows. -/
def sOk (f : SForm) (d a b c : Bool) (sub imm : Nat → Bool) : Bool :=
  (d || f.d = .unused) && (a || f.a = .unused) && (b || f.b = .unused) && (c || f.c = .unused) &&
  f.e = .unused && sub f.sub.toNat && imm f.imm.toNat

/-- What an entry of the M form uses. -/
structure MInfo where
  d : Bool := false
  a : Bool := true
  b : Bool := true
  c : Bool := false
  size : Nat → Bool := fun x => x = 0
  ord : Nat → Bool := fun x => x = 0
  scope : Nat → Bool := fun x => x ≤ 4
  hint : Nat → Bool := fun x => x = 0
  inv : Bool := false
  aop : Nat → Bool := fun x => x = 0
  offs : Bool := true

/-- An M form against its entry (R279). -/
def mOk (i : MInfo) (f : MForm) : Bool :=
  (i.d || f.d = .unused) && (i.a || f.a = .unused) && (i.b || f.b = .unused) && (i.c || f.c = .unused) &&
  i.size f.size.toNat && i.ord f.ord.toNat && i.scope f.scope.toNat && i.hint f.hint.toNat &&
  (!f.inv || (i.inv && f.ord = 0)) && i.aop f.aop.toNat && (i.offs || f.offs = 0)

/-- No value but 0. -/
def isZero (n : Nat) : Bool := n = 0

/-- A barrier number with, when I = 1, a count from 1 to 255 above it; when I = 0 no count (R378). -/
def barImm (f : SForm) : Bool :=
  f.imm.toNat < 4096 &&
  (if f.sub = 1 then f.a = .unused && f.imm.toNat / 16 ≠ 0 else f.imm.toNat < 16)

/-- The element types MLD and MST take (R316). -/
def mldTys : List Ty := [.b32, .s32, .f32, .bf16, .f16]

/-- A matrix-engine S form: TYPE stands in SUB, the tile and space fields in D, and B, C and E as the entry says
(R308). -/
def matOk (f : SForm) (ty : Nat → Bool) (imm : Nat → Bool) : Bool :=
  ty f.sub.toNat && imm f.imm.toNat

/-- `[A + B + OFFS]` loads with every SIZE to 6, stores without the sign-extending ones (R279, R285). -/
def ldSize (n : Nat) : Bool := n ≤ 6
def stSize (n : Nat) : Bool := n ≤ 6 && n ≠ 1 && n ≠ 3

/-- The operation and width of an atomic (R291). -/
def atomSize (f : MForm) : Bool :=
  f.size = 4 || (f.size = 5 && f.aop.toNat ≤ 8)

/-- WRSR: the source in A, or IMM20 when SUB<1> is set, which excludes W64 of a pair only through its value (R175). -/
def wrsrOk (f : SForm) : Bool :=
  sOk f true true false false (fun x => x < 4) (fun _ => true) &&
  (if f.sub.toNat / 2 = 1 then f.a = .unused else f.imm = 0)

/-- The window instructions: a register or IMM20 names the slot, index and lane (R186). -/
def winOk (f : SForm) (d c : Bool) : Bool :=
  sOk f d true true c (fun x => x < 4) (fun n => n < 2 ^ 17) &&
  (if f.sub.toNat % 2 = 1 then f.a = .unused && f.b = .unused else f.imm = 0)

/-- The element types MST takes (R316). -/
def mstTys : List Ty := [.b32, .s32, .f32, .bf16, .f16, .e4m3, .e5m2]

/-- RND of an MST is 1 to 5 for a rounding type and 0 otherwise; S only on a rounding type (R316). IMM20<1:0> is the
space, <4:2> RND and <5> S. -/
def mstImm (ty imm : Nat) : Bool :=
  let rounding := match Ty.ofCode ty with
    | some t => [Ty.bf16, .f16, .e4m3, .e5m2].contains t
    | none => false
  imm < 64 && imm % 4 ≠ 3 &&
  (if rounding then 1 ≤ imm / 4 % 8 && imm / 4 % 8 ≤ 5 else imm / 4 = 0)

/-- An MMA's IMM20: spaces of A and B in <1:0> and <3:2>, Z in <4>, BK in <5>; no BK with the 6-bit and 4-bit MX
pairs (R313, R315). -/
def mmaImm (pair imm : Nat) : Bool :=
  imm < 64 && imm % 4 ≠ 3 && imm / 4 % 4 ≠ 3 &&
  !(imm / 32 = 1 && (pair = 7 || pair = 8 || pair = 9))

/-- The steps 1 of R81 for every instruction: what its own word must satisfy. Events have no word. MBAR's SUB holds DONE and WAIT
(R318) where R83 wants a TYPE of 0: the values 0 to 3 are accepted (DEDUCED, log entry 52). -/
def staticOk : Instr → Bool
  | .nop f | .exit f | .yield f => sOk f false false false false isZero isZero
  | .trap f | .brk f => sOk f false false false false isZero (fun _ => true)
  | .rdsr f => sOk f true true false false (fun x => x < 2) isZero
  | .wrsr f => wrsrOk f
  | .iadd f | .isub f => rOk { tys := intTys, flags := flagsS } f
  | .imin f | .imax f => rOk { tys := intTys } f
  | .imul f => rOk { tys := [.u32, .s32, .u64, .s64, .s16x2], flags := flagsS } f
  | .imulhi f => rOk { tys := int4Tys } f
  | .imad f => rOk { tys := int4Tys, c := true, flags := flagsS } f
  | .iabs f => rOk { tys := [.s32, .s64, .s16x2, .s8x4], b := false, iform := false, flags := flagsS } f
  | .iaddc f => rOk { tys := [.u32], c := true, e := true, iform := false } f
  | .lea f => rOk { tys := [.u64, .s64], flags := flagsRnd } f
  | .idp4 f => rOk { tys := [.s8x4, .u8x4], c := true, flags := flagsS } f
  | .idp2 f => rOk { tys := [.s16x2], c := true, flags := flagsS } f
  | .and f | .or f | .xor f | .andn f => rOk { tys := bitTys } f
  | .lop3 f => rOk { tys := bitTys, c := true, e := true, iform := false } f
  | .shl f => rOk { tys := [.b32, .u32, .s32, .u64, .s64], flags := flagsS } f && !(f.tyIs .b32 && f.flags ≠ 0)
  | .shr f => rOk { tys := [.b32, .u32, .u64] } f
  | .sar f => rOk { tys := [.s32, .s64] } f
  | .fshl f => rOk { tys := [.b32], c := true } f
  | .bfe f => rOk { tys := int4Tys } f
  | .bfi f => rOk { tys := bitTys, c := true } f
  | .popc f | .clz f | .brev f => rOk { tys := bitTys, b := false, iform := false } f
  | .isetp f => rOk { tys := [.b32, .u32, .s32, .u64, .s64], c := true, hint := fun x => x.toNat < 3, flags := fun x => x.toNat ≤ 6 || x = 15 } f
  | .fsetp f => rOk { tys := [.f32, .f16, .bf16], c := true, hint := fun x => x.toNat < 3, flags := flagsAny } f &&
      (f.imm.isNone || f.tyIs .f32)
  | .sel f => rOk { tys := movTys, c := true } f
  | .plop f => rOk { tys := [.b32], c := true, e := true, iform := false } f
  | .pmov f => rOk { tys := [.b32], a := false } f
  | .mov f => rOk { tys := movTys, a := false } f
  | .xperm f => rOk { tys := [.b32] } f
  | .vote f => rOk { tys := [.b32], b := false, iform := false, flags := fun x => x.toNat < 4 } f
  | .gredi f => rOk { tys := [.s32, .u32, .b32], b := false, iform := false, flags := flagsAny } f && redOk f 6
  | .gredf f => rOk { tys := [.f32], b := false, iform := false, flags := flagsAny, hint := fun x => x.toNat < 3 } f
  | .gscan f => rOk { tys := [.s32, .u32, .b32], b := false, iform := false, flags := flagsAny, hint := fun x => x.toNat < 2 } f && redOk f 5
  | .matchEq f => rOk { tys := bitTys, b := false, iform := false } f
  | .fadd f | .fsub f | .fmul f => rOk { tys := fpTys, flags := flagsAny, sat2 := true } f
  | .ffma f | .ffms f | .fnfma f => rOk { tys := fpTys, c := true, flags := flagsAny, sat2 := true } f
  | .fdiv f => rOk { tys := [.f32], flags := flagsAny, sat2 := true } f
  | .fmin f | .fmax f | .fcpsgn f => rOk { tys := fpTys } f
  | .fabs f | .fneg f | .fclass f => rOk { tys := fpTys, b := false, iform := false } f
  | .frnd f => rOk { tys := fpTys, b := false, iform := false, flags := flagsRnd, sat2 := true } f
  | .rcp f | .rsq f | .exp2 f | .log2 f | .sinpi f | .cospi f | .tanh f =>
      rOk { tys := [.f32], b := false, flags := flagsS, sat2 := true } f && (f.imm.isNone || f.imm = some 0)
  | .sqrt f => rOk { tys := [.f32], b := false, flags := flagsAny, sat2 := true } f && (f.imm.isNone || f.imm = some 0)
  | .cvt f => rOk { tys := cvtTys, b := false, e := true, iform := false, flags := flagsAny, sat2 := true } f &&
      cvtOk f f.e.code
  | .pack2 f =>
      rOk { tys := [.f16x2, .bf16x2, .e4m3, .e5m2], c := true, flags := flagsAny, sat2 := true, hint := fun x => x.toNat < 2 } f &&
      (if f.tyIs .f16x2 || f.tyIs .bf16x2 then f.c = .unused && f.hint = 0 else f.imm.isNone)
  | .unpk2 f =>
      rOk { tys := [.f16x2, .bf16x2, .e4m3, .e5m2, .e2m1], b := false, iform := false, sat2 := true, hint := fun _ => true } f &&
      (if f.tyIs .f16x2 || f.tyIs .bf16x2 then f.hint.toNat < 2 else f.tyIs .e2m1 || f.hint.toNat < 4)
  | .cvtmx f => rOk { tys := [.e4m3, .e3m2, .e2m3, .e2m1, .s8], b := false, e := true, iform := false, flags := flagsRnd } f
  | .cvtqn f => rOk { tys := [.qn4], c := true } f
  | .qndec f => rOk { tys := [.f32, .bf16], c := true, flags := flagsAny, sat2 := true, hint := fun _ => true } f
  | .bra f => bOk f false false true isZero
  | .brz f | .brnz f => bOk f true true true (fun x => x < 2) && (f.aux = 1 || f.d = .unused)
  | .brany f | .brall f => bOk f false true true isZero
  | .call f => bOk f false true true (fun x => x < 2) && (if f.aux = 1 then f.disp = 0 else f.a = .unused)
  | .ret f => bOk f false false false isZero
  | .jmpi f => bOk f false true false isZero
  | .jmpv f => bOk f true true false isZero
  | .emand f | .emandn f | .emset f => bOk f true true false isZero
  | .emget f => bOk f true false false isZero
  | .exitl f => bOk f false false false isZero
  | .loop f => bOk f false true true (fun x => x < 2 ^ 24 || x / 2 ^ 24 = 2) && 3 ≤ f.disp.toNat &&
      (if f.aux.toNat / 2 ^ 25 = 1 then f.a = .unused else f.aux = 0)
  | .lbrk f => bOk f false false false isZero
  | .lcnt f => bOk f true false false isZero
  | .rgive f | .rclaim f => bOk f false false false (fun n => n % 8 = 0 && 8 ≤ n && n ≤ 120)
  | .winsel f => sOk f true true false false (fun x => x < 2) (fun n => n < 64) &&
      (if f.sub = 1 then f.a = .unused else f.imm = 0)
  | .winrd f => winOk f true false
  | .winwr f => winOk f false true
  | .gresumeReplay f => sOk f true false false false (fun x => x = 0) isZero
  | .gresumeSkip f => sOk f true false false false (fun x => x = 1) isZero
  | .gkill f => sOk f true false false false isZero isZero
  | .bankcfgOff f => sOk f false false false false (fun x => x = 0) (fun n => n < 16)
  | .bankcfgCache f => sOk f false false false false (fun x => x = 1) (fun n => n < 16)
  | .bankcfgScratch f => sOk f false false false false (fun x => x = 2) (fun n => n < 16)
  | .bankcfgFifo f => sOk f false true false false (fun x => x = 3 || x = 7) (fun n => n < 16)
  | .tlbinvPage f => sOk f false true true false (fun x => x = 0) isZero
  | .tlbinvPagePurge f => sOk f false true true false (fun x => x = 4) isZero
  | .tlbinvCtx f => sOk f false false true false (fun x => x = 1) isZero
  | .tlbinvAll f => sOk f false false false false (fun x => x = 2) isZero
  | .ctxsaveFreeze f => sOk f true false true false (fun x => x = 0) isZero
  | .ctxsaveCopies f => sOk f true true true false (fun x => x = 5) isZero
  | .ctxsaveGroup f => sOk f true true true false (fun x => x = 1) isZero
  | .ctxsaveTeam f => sOk f true true true false (fun x => x = 2) isZero
  | .ctxsaveQueues f => sOk f true true true false (fun x => x = 3) isZero
  | .ctxsaveFifo f => sOk f true true true false (fun x => x = 4) isZero
  | .ctxloadThaw f => sOk f true false true false (fun x => x = 0) isZero
  | .ctxloadCopies f => sOk f true true true false (fun x => x = 5) isZero
  | .ctxloadGroup f => sOk f true true true false (fun x => x = 1) isZero
  | .ctxloadTeam f => sOk f true true true false (fun x => x = 2) isZero
  | .ctxloadQueues f => sOk f true true true false (fun x => x = 3) isZero
  | .ctxloadFifo f => sOk f true true true false (fun x => x = 4) isZero
  | .ld f => mOk { d := true, size := ldSize, ord := fun x => x < 2, hint := fun x => x < 3, inv := true } f
  | .st f => mOk { c := true, size := stSize, ord := fun x => x = 0 || x = 2, hint := fun x => x < 3 } f
  | .ldsc f => mOk { d := true, size := ldSize, ord := fun x => x < 2, scope := fun x => x < 2 } f
  | .stsc f => mOk { c := true, size := stSize, ord := fun x => x = 0 || x = 2, scope := fun x => x < 2 } f
  | .ldp f => mOk { d := true, a := false, size := ldSize, scope := isZero } f
  | .prf f => mOk { scope := isZero, hint := fun x => x < 2 } f
  | .ldte f => mOk { d := true, ord := fun x => x < 2 } f
  | .stte f => mOk { c := true, ord := fun x => x = 0 || x = 2 } f
  | .cctlIcinv f => mOk { a := false, b := false, scope := fun x => 1 ≤ x && x ≤ 4, offs := false } f
  | .cctlL1inv f => mOk { a := false, b := false, scope := isZero, aop := fun x => x = 1, offs := false } f
  | .cctlWb f => mOk { scope := isZero, aop := fun x => x = 2 } f
  | .cctlWbinv f => mOk { scope := isZero, aop := fun x => x = 3 } f
  | .cctlPin f => mOk { d := true, scope := isZero, aop := fun x => x = 4 } f
  | .cctlUnpin f => mOk { scope := isZero, aop := fun x => x = 5 } f
  | .fenceAcq f => mOk { a := false, b := false, ord := fun x => x = 1, offs := false } f
  | .fenceRel f => mOk { a := false, b := false, ord := fun x => x = 2, offs := false } f
  | .fenceAcqrel f => mOk { a := false, b := false, ord := fun x => x = 3, offs := false } f
  | .fenceSc f => mOk { a := false, b := false, ord := fun x => x = 3, scope := fun x => 1 ≤ x && x ≤ 4, aop := fun x => x = 1, offs := false } f
  | .fenceI f => mOk { a := false, b := false, scope := isZero, aop := fun x => x = 2, offs := false } f
  | .tsync f | .tdinv f => mOk { b := false, scope := fun x => 1 ≤ x && x ≤ 4, offs := false } f
  | .tsyncAll f | .tdinvAll f => mOk { a := false, b := false, scope := fun x => 1 ≤ x && x ≤ 4, aop := fun x => x = 1, offs := false } f
  | .atom f => mOk { d := true, c := true, size := fun x => x = 4 || x = 5, ord := fun x => x < 4, aop := fun x => x ≤ 14 } f && atomSize f
  | .red f => mOk { c := true, size := fun x => x = 4 || x = 5, ord := fun x => x < 4, aop := fun x => x ≤ 14 } f && atomSize f
  | .atomsc f => mOk { d := true, c := true, size := fun x => x = 4 || x = 5, ord := fun x => x < 4, scope := fun x => x < 2, aop := fun x => x ≤ 14 } f && atomSize f
  | .atomcas f => mOk { d := true, c := true, size := fun x => x = 4 || x = 5, ord := fun x => x < 4 } f
  | .cassc f => mOk { d := true, c := true, size := fun x => x = 4 || x = 5, ord := fun x => x < 4, scope := fun x => x < 2 } f
  | .copy f => mOk { d := true, c := true, ord := fun x => x < 4, aop := fun x => x < 2, offs := false } f
  | .copyo f => mOk { c := true, ord := fun x => x < 4, aop := fun x => x < 4, offs := false } f
  | .copym f => mOk { c := true, size := fun _ => true, ord := fun x => x < 4, aop := fun x => x < 2, offs := false } f
  | .gather f => mOk { d := true, b := false, c := true, size := fun x => 2 ≤ x && x ≤ 7, ord := fun x => x < 4, offs := false } f
  | .copyl f => mOk { d := true, c := true, ord := fun x => x < 4, aop := fun x => x < 16, offs := false } f
  | .ccancel f => mOk { d := true, a := false, b := false, scope := isZero, offs := false } f
  | .putv f => mOk { c := true, size := stSize, ord := fun x => x = 0 || x = 2, hint := fun x => x < 3 } f
  | .getv f => mOk { d := true, size := ldSize, ord := fun x => x < 2, hint := fun x => x < 3 } f
  | .redv f => mOk { c := true, size := fun x => x = 4 || x = 5, ord := fun x => x < 4, aop := fun x => x ≤ 7 || (11 ≤ x && x ≤ 14) } f && atomSize f
  | .mma f => matOk f (fun t => t < 14) (mmaImm f.sub.toNat) && f.b = .unused && f.c = .unused && f.e = .unused
  | .mzero f => matOk f isZero isZero && f.a = .unused && f.b = .unused && f.c = .unused && f.e = .unused
  | .mst f => matOk f (fun t => match Ty.ofCode t with | some t => mstTys.contains t | none => false)
      (mstImm f.sub.toNat) && f.b = .unused && f.c = .unused && f.e = .unused
  | .mld f => matOk f (fun t => match Ty.ofCode t with | some t => mldTys.contains t | none => false)
      (fun n => n < 3) && f.b = .unused && f.c = .unused && f.e = .unused
  | .mrows f | .mrowmax f | .mrowsum f =>
      matOk f isZero isZero && f.b = .unused && f.c = .unused && f.e = .unused
  | .mbar f => sOk f false false false false (fun x => x < 4) (fun n => n < 4096 && n / 16 ≠ 0)
  | .mwaitb f => sOk f false false false false isZero (fun n => n < 16)
  | .spawn f => sOk f true true false false isZero isZero
  | .tret f => sOk f false false false false isZero isZero
  | .refill f => { f with e := .unused } |> fun g => sOk g true true false false (fun x => x < 2) isZero
  | .wqpush f => sOk f false true true true isZero isZero
  | .send f => sOk f false true true false isZero isZero
  | .fpush f => sOk f false true true true (fun x => x < 2) isZero
  | .fpop f => { f with e := .unused } |> fun g => sOk g true true false false isZero isZero
  | .evpop f => sOk f true false false false (fun x => x < 2) isZero
  | .primemit f => sOk f false true true true isZero isZero
  | .vtwr f | .ownwr f => sOk f false true true false (fun x => x < 2) isZero
  | .pswr f => sOk f true true true false isZero isZero
  | .bari f => sOk f false false false false isZero (fun n => n < 16)
  | .bara f | .barw f => sOk f false true false false (fun x => x < 2) (fun n => n < 4096) && barImm f
  | .tbinit f => sOk f false true false false isZero (fun n => 1 ≤ n)
  | .tbexp f => sOk f false true true false (fun x => x < 8) (fun _ => true) &&
      (if f.sub.toNat % 2 = 1 then f.b = .unused else f.imm = 0)
  | .tbarr f => sOk f true true false false isZero isZero
  | .tbwait f => sOk f true true true false (fun x => x < 2) (fun n => n < 16) &&
      (if f.sub = 1 then f.b = .unused else f.imm = 0)
  | .waitc f => sOk f false false false false isZero (fun n => n < 1024 && n % 16 ≠ 0)
  | .depset f => sOk f false true true false (fun x => x < 2) (fun n => n < 2 ^ 16) &&
      (if f.sub = 1 then f.b = .unused else f.imm = 0)
  | .depdec f => sOk f false true false false isZero (fun n => 1 ≤ n && n < 256)
  | .owait f => sOk f false true false false isZero (fun n => n < 64)
  | .orels f => sOk f false false false false (fun x => x = 0) (fun n => n < 64)
  | .orelsSet f => sOk f false true false false (fun x => x = 1) (fun n => n < 64)
  | .timew f => sOk f false true false false isZero isZero
  | .crest f | .cwait f => sOk f true true true false isZero isZero
  | .csub f => sOk f true true false false (fun x => x = 0) isZero
  | .csubCancel f => sOk f true true false false (fun x => x = 1) isZero
  | .pcnt f => sOk f false true true false isZero (fun n => 1 ≤ n && n < 2 ^ 16)
  | .pflush f => sOk f false false false false isZero isZero
  | .nred f => sOk f true true true false isZero (fun n => n < 16)
  | .wring f => sOk f true true false false (fun x => x = 0) (fun n => n < 8)
  | .wringClose f => sOk f true false false false (fun x => x = 1) (fun n => n < 8)
  | .wpost f => sOk f false true true false (fun x => x < 2) (fun n => n < 8)
  | .wtake f => sOk f true true false false isZero (fun n => n < 8)
  | .wdone f => sOk f false true false false isZero (fun n => n < 8)
  | .instructionFetch _ | .issueArbitration _ _ _ | .releaseComplete _ | .operationCompletion _ _ _
  | .pageWalk _ _ _ _ _ | .tlbinvAcknowledge _ | .storeAtHomeSlice _ | .mergingFill _
  | .writeBack _ _ | .replicaRead _ _ | .replicaUpdate _ _ _ | .remoteWriteAck _
  | .copySectorWrite _ _ _ _ | .copyResume _ _ _ | .firstRouterCheck _ | .messageDelivery _
  | .taskArrival _ _ | .messageConsumption _ _ | .parkedEntry _ _ | .taskDequeue _ _
  | .forageClaim _ _ _ | .teamRetirement _ _ _ | .commitPerform _ | .dependencyOpArrival _ _
  | .pushDelivery _ _ | .packetDelivery _ _ | .spillReload _ _ _ | .primitiveBinning _
  | .boundAdvance _ _ | .eventRecordArrival _ _ | .batchApply _ | .csubRequestArrival _
  | .batchAcknowledgement _ | .pendingTimeMerge _ | .passGrant _ _ | .passCompletion _ _
  | .passResume _ _ _ | .reductionPartial _ _ | .reductionResult _ _ | .ringTransfer _ _
  | .ringForwardComplete _ _ _ | .ringGrant _ | .grantResend | .trapRecordDispatch _ _
  | .handlerTimeLimit _ _ | .qtailWrite _ | .qbaseWrite _ | .qsizeWrite _
  | .nbaseWrite _ | .nsizeNheadWrite _ | .facceptWrite _ | .registerWrite _ _
  | .errorCountClear _ _ | .ctxnew | .grid | .ctxend
  | .tree | .debugContinue _ _ | .contextTeardown _ _ | .reportRequest _
  | .flitReceive _ _ | .coldStart _ | .warmStart _ | .heartbeat _
  | .heartbeatMiss _ _ | .retirement | .combErrorRetirement _ _ | .retireRequest _ _
  | .clockStretch _ _ _ | .thermalTrip _ _ | .securityAlarm _ _ _ | .fabricPortDown _
  | .reportComplete | .powerLoss | .broadcastAcknowledge _ => false
end Sys2Proof
end

