-- ==== Sys2Proof/Decode.lean ====
section
/-! DEFINITION. The codec of the instruction word (R68 to R73): the fields of each form from bit 0 upward, the
opcode map (R92), decoding, which refuses by name, and encoding. -/

namespace Sys2Proof

/-- Why a word is no instruction. Each is the ILLOP of R81 step 1. -/
inductive DecodeFault where
  /-- Fewer than 12 bytes. -/
  | shortFetch
  /-- Bits <95:92> are not 0. -/
  | reservedTail
  /-- Bit <83> of the R form is not 0. -/
  | reservedBit
  /-- The major is undefined. -/
  | undefinedMajor (major : Nat)
  /-- IMM = 1 under a major without an I form (R72). -/
  | immNotAllowed
  /-- The minor or the sub-operation is undefined (R92). -/
  | undefinedMinor (op : Nat)
  /-- A field has a value its entry does not allow (R74, R81). -/
  | badField (op : Nat)
  deriving DecidableEq, Repr

/-- The form a major selects (R72). -/
inductive FormKind where
  | r | m | b | s
  deriving DecidableEq, Repr

/-- R72. -/
def formOfMajor (major : Nat) : Option FormKind :=
  if 0x01 ≤ major ∧ major ≤ 0x07 then some .r
  else if major = 0x08 ∨ major = 0x09 then some .b
  else if 0x10 ≤ major ∧ major ≤ 0x13 then some .m
  else if major ∈ [0x00, 0x0A, 0x14, 0x18, 0x19, 0x1A, 0x1C, 0x1D, 0x1E] then some .s
  else none

/-- The widths of OP, G1, G2, D and A (R71): index and negate bit of a guard stand apart. -/
def headWidths : List Nat := [10, 3, 1, 3, 1, 8, 8]

/-- The widths of STALL, END, LAND, YLD, IMM and the reserved bits (R71). -/
def tailWidths : List Nat := [4, 1, 1, 1, 1, 4]

/-- The widths of the bodies (R73): R, I, M, B and S. -/
def widthsR : List Nat := headWidths ++ [8, 8, 8, 6, 5, 5, 4, 2, 3, 1] ++ tailWidths
def widthsI : List Nat := headWidths ++ [8, 6, 4, 32] ++ tailWidths
def widthsM : List Nat := headWidths ++ [8, 8, 4, 2, 3, 3, 1, 5, 16] ++ tailWidths
def widthsB : List Nat := headWidths ++ [24, 26] ++ tailWidths
def widthsS : List Nat := headWidths ++ [8, 8, 8, 6, 20] ++ tailWidths

/-- A bit as a number. -/
def bit (b : Bool) : Nat := if b then 1 else 0

/-- The fields below the body, as numbers. -/
def headVals (op : Nat) (h : Head) (d a : Spec) : List Nat :=
  [op, h.g1.idx, bit h.g1.neg, h.g2.idx, bit h.g2.neg, d.code, a.code]

/-- The fields above the body, as numbers. -/
def tailVals (h : Head) (imm : Bool) : List Nat :=
  [h.stall, bit h.endRun, bit h.land, bit h.yld, bit imm, 0]

/-- The fields of a form, as numbers, with their widths. -/
def formFields (op : Nat) : Form → List Nat × List Nat
  | .r f => match f.imm with
    | none => (widthsR, headVals op f.h f.d f.a ++
        [f.b.code, f.c.code, f.e.code, f.ty.toNat, f.apat.toNat, f.bpat.toNat, f.flags.toNat, f.sat2.toNat,
          f.hint.toNat, 0] ++ tailVals f.h false)
    | some w => (widthsI, headVals op f.h f.d f.a ++
        [f.c.code, f.ty.toNat, f.flags.toNat, w.toNat] ++ tailVals f.h true)
  | .m f => (widthsM, headVals op f.h f.d f.a ++
        [f.b.code, f.c.code, f.size.toNat, f.ord.toNat, f.scope.toNat, f.hint.toNat, bit f.inv, f.aop.toNat,
          f.offs.toNat] ++ tailVals f.h false)
  | .b f => (widthsB, headVals op f.h f.d f.a ++ [f.disp.toNat, f.aux.toNat] ++ tailVals f.h false)
  | .s f => (widthsS, headVals op f.h f.d f.a ++
        [f.b.code, f.c.code, f.e.code, f.sub.toNat, f.imm.toNat] ++ tailVals f.h false)

/-- The word of a form under an opcode. -/
def packForm (op : Nat) (f : Form) : Nat :=
  packFields ((formFields op f).1.zip (formFields op f).2)

/-- The common fields read back. -/
def mkHead (g1 n1 g2 n2 stall en land yld : Nat) : Head :=
  { g1 := ⟨n1 = 1, Fin.ofNat 8 g1⟩, g2 := ⟨n2 = 1, Fin.ofNat 8 g2⟩, stall := Fin.ofNat 16 stall,
    endRun := en = 1, land := land = 1, yld := yld = 1 }

/-- The R form of a word. -/
def readR (n : Nat) : Except DecodeFault Form :=
  match unpackFields widthsR n with
  | [_, g1, n1, g2, n2, d, a, b, c, e, ty, ap, bp, fl, s2, hi, z, st, en, la, yl, _, _] =>
    if z ≠ 0 then .error .reservedBit
    else .ok (.r { h := mkHead g1 n1 g2 n2 st en la yl, d := .ofCode d, a := .ofCode a, b := .ofCode b,
                   c := .ofCode c, e := .ofCode e, ty := BitVec.ofNat 6 ty, apat := BitVec.ofNat 5 ap,
                   bpat := BitVec.ofNat 5 bp, flags := BitVec.ofNat 4 fl, sat2 := BitVec.ofNat 2 s2,
                   hint := BitVec.ofNat 3 hi, imm := none })
  | _ => .error .reservedBit

/-- The I form of a word. -/
def readI (n : Nat) : Except DecodeFault Form :=
  match unpackFields widthsI n with
  | [_, g1, n1, g2, n2, d, a, c, ty, fl, im, st, en, la, yl, _, _] =>
    .ok (.r { h := mkHead g1 n1 g2 n2 st en la yl, d := .ofCode d, a := .ofCode a, b := .unused, c := .ofCode c,
              e := .unused, ty := BitVec.ofNat 6 ty, apat := 0, bpat := 0, flags := BitVec.ofNat 4 fl, sat2 := 0,
              hint := 0, imm := some (BitVec.ofNat 32 im) })
  | _ => .error .reservedBit

/-- The M form of a word. -/
def readM (n : Nat) : Except DecodeFault Form :=
  match unpackFields widthsM n with
  | [_, g1, n1, g2, n2, d, a, b, c, sz, od, sc, hi, iv, ao, off, st, en, la, yl, _, _] =>
    .ok (.m { h := mkHead g1 n1 g2 n2 st en la yl, d := .ofCode d, a := .ofCode a, b := .ofCode b, c := .ofCode c,
              size := BitVec.ofNat 4 sz, ord := BitVec.ofNat 2 od, scope := BitVec.ofNat 3 sc,
              hint := BitVec.ofNat 3 hi, inv := iv = 1, aop := BitVec.ofNat 5 ao, offs := BitVec.ofNat 16 off })
  | _ => .error .reservedBit

/-- The B form of a word. -/
def readB (n : Nat) : Except DecodeFault Form :=
  match unpackFields widthsB n with
  | [_, g1, n1, g2, n2, d, a, disp, aux, st, en, la, yl, _, _] =>
    .ok (.b { h := mkHead g1 n1 g2 n2 st en la yl, d := .ofCode d, a := .ofCode a, disp := BitVec.ofNat 24 disp,
              aux := BitVec.ofNat 26 aux })
  | _ => .error .reservedBit

/-- The S form of a word. -/
def readS (n : Nat) : Except DecodeFault Form :=
  match unpackFields widthsS n with
  | [_, g1, n1, g2, n2, d, a, b, c, e, sb, im, st, en, la, yl, _, _] =>
    .ok (.s { h := mkHead g1 n1 g2 n2 st en la yl, d := .ofCode d, a := .ofCode a, b := .ofCode b, c := .ofCode c,
              e := .ofCode e, sub := BitVec.ofNat 6 sb, imm := BitVec.ofNat 20 im })
  | _ => .error .reservedBit

/-- The form of a word (R71 to R73). -/
def readForm (n : Nat) : Except DecodeFault Form :=
  if n / 2 ^ 92 % 16 ≠ 0 then .error .reservedTail
  else
    let imm := n / 2 ^ 91 % 2 = 1
    match formOfMajor (n / 16 % 64) with
    | none => .error (.undefinedMajor (n / 16 % 64))
    | some .r => if imm then readI n else readR n
    | some .m => if imm then .error .immNotAllowed else readM n
    | some .b => if imm then .error .immNotAllowed else readB n
    | some .s => if imm then .error .immNotAllowed else readS n

/-- The opcode map (R92): the instruction of an opcode and a body, by form; rows that share an opcode are told apart
by the sub-operation field. -/
def buildR (op : Nat) (f : RForm) : Option Instr :=
  match op with
  | 0x010 => some (.iadd f)
  | 0x011 => some (.isub f)
  | 0x012 => some (.imul f)
  | 0x013 => some (.imulhi f)
  | 0x014 => some (.imad f)
  | 0x015 => some (.imin f)
  | 0x016 => some (.imax f)
  | 0x017 => some (.iabs f)
  | 0x018 => some (.iaddc f)
  | 0x019 => some (.lea f)
  | 0x01A => some (.idp4 f)
  | 0x01B => some (.idp2 f)
  | 0x020 => some (.and f)
  | 0x021 => some (.or f)
  | 0x022 => some (.xor f)
  | 0x023 => some (.andn f)
  | 0x024 => some (.lop3 f)
  | 0x025 => some (.shl f)
  | 0x026 => some (.shr f)
  | 0x027 => some (.sar f)
  | 0x028 => some (.fshl f)
  | 0x029 => some (.bfe f)
  | 0x02A => some (.bfi f)
  | 0x02B => some (.popc f)
  | 0x02C => some (.clz f)
  | 0x02D => some (.brev f)
  | 0x030 => some (.isetp f)
  | 0x031 => some (.fsetp f)
  | 0x032 => some (.sel f)
  | 0x033 => some (.plop f)
  | 0x034 => some (.pmov f)
  | 0x035 => some (.mov f)
  | 0x040 => some (.xperm f)
  | 0x041 => some (.vote f)
  | 0x042 => some (.gredi f)
  | 0x043 => some (.gredf f)
  | 0x044 => some (.gscan f)
  | 0x045 => some (.matchEq f)
  | 0x050 => some (.fadd f)
  | 0x051 => some (.fsub f)
  | 0x052 => some (.fmul f)
  | 0x053 => some (.ffma f)
  | 0x054 => some (.ffms f)
  | 0x055 => some (.fnfma f)
  | 0x05D => some (.fdiv f)
  | 0x056 => some (.fmin f)
  | 0x057 => some (.fmax f)
  | 0x058 => some (.fabs f)
  | 0x059 => some (.fneg f)
  | 0x05A => some (.fcpsgn f)
  | 0x05B => some (.frnd f)
  | 0x05C => some (.fclass f)
  | 0x060 => some (.rcp f)
  | 0x061 => some (.rsq f)
  | 0x062 => some (.sqrt f)
  | 0x063 => some (.exp2 f)
  | 0x064 => some (.log2 f)
  | 0x065 => some (.sinpi f)
  | 0x066 => some (.cospi f)
  | 0x067 => some (.tanh f)
  | 0x070 => some (.cvt f)
  | 0x071 => some (.pack2 f)
  | 0x072 => some (.unpk2 f)
  | 0x073 => some (.cvtmx f)
  | 0x074 => some (.cvtqn f)
  | 0x075 => some (.qndec f)
  | _ => none

/-- R92, the M forms. -/
def buildM (op : Nat) (f : MForm) : Option Instr :=
  match op with
  | 0x100 => some (.ld f)
  | 0x101 => some (.st f)
  | 0x102 => some (.ldsc f)
  | 0x103 => some (.stsc f)
  | 0x104 => some (.ldp f)
  | 0x105 => some (.prf f)
  | 0x106 => some (.ldte f)
  | 0x107 => some (.stte f)
  | 0x108 => match f.aop.toNat with | 0 => some (.cctlIcinv f) | 1 => some (.cctlL1inv f) | 2 => some (.cctlWb f) | 3 => some (.cctlWbinv f) | 4 => some (.cctlPin f) | 5 => some (.cctlUnpin f) | _ => none
  | 0x109 => match f.aop.toNat, f.ord.toNat with | 0, 1 => some (.fenceAcq f) | 0, 2 => some (.fenceRel f) | 0, 3 => some (.fenceAcqrel f) | 1, 3 => some (.fenceSc f) | 2, 0 => some (.fenceI f) | _, _ => none
  | 0x10A => match f.aop.toNat with | 0 => some (.tsync f) | 1 => some (.tsyncAll f) | _ => none
  | 0x10B => match f.aop.toNat with | 0 => some (.tdinv f) | 1 => some (.tdinvAll f) | _ => none
  | 0x110 => some (.atom f)
  | 0x111 => some (.atomcas f)
  | 0x112 => some (.red f)
  | 0x113 => some (.atomsc f)
  | 0x114 => some (.cassc f)
  | 0x120 => some (.copy f)
  | 0x121 => some (.copyo f)
  | 0x122 => some (.copym f)
  | 0x123 => some (.gather f)
  | 0x124 => some (.copyl f)
  | 0x125 => some (.ccancel f)
  | 0x130 => some (.putv f)
  | 0x131 => some (.getv f)
  | 0x132 => some (.redv f)
  | _ => none

/-- R92, the B forms. -/
def buildB (op : Nat) (f : BForm) : Option Instr :=
  match op with
  | 0x080 => some (.bra f)
  | 0x081 => some (.brz f)
  | 0x082 => some (.brnz f)
  | 0x083 => some (.brany f)
  | 0x084 => some (.brall f)
  | 0x085 => some (.call f)
  | 0x086 => some (.ret f)
  | 0x087 => some (.jmpi f)
  | 0x088 => some (.jmpv f)
  | 0x090 => some (.emand f)
  | 0x091 => some (.emandn f)
  | 0x092 => some (.emset f)
  | 0x093 => some (.emget f)
  | 0x094 => some (.exitl f)
  | 0x095 => some (.loop f)
  | 0x096 => some (.lbrk f)
  | 0x097 => some (.lcnt f)
  | 0x098 => some (.rgive f)
  | 0x099 => some (.rclaim f)
  | _ => none

/-- R92, the S forms. -/
def buildS (op : Nat) (f : SForm) : Option Instr :=
  match op with
  | 0x000 => some (.nop f)
  | 0x001 => some (.exit f)
  | 0x002 => some (.yield f)
  | 0x003 => some (.trap f)
  | 0x004 => some (.brk f)
  | 0x005 => some (.rdsr f)
  | 0x006 => some (.wrsr f)
  | 0x0A0 => some (.winsel f)
  | 0x0A1 => some (.winrd f)
  | 0x0A2 => some (.winwr f)
  | 0x0A3 => if f.sub = 0 then some (.gresumeReplay f) else if f.sub = 1 then some (.gresumeSkip f) else none
  | 0x0A4 => some (.gkill f)
  | 0x0A5 => match f.sub.toNat % 4 with | 0 => some (.bankcfgOff f) | 1 => some (.bankcfgCache f) | 2 => some (.bankcfgScratch f) | _ => some (.bankcfgFifo f)
  | 0x0A6 => match f.sub.toNat with | 0 => some (.tlbinvPage f) | 4 => some (.tlbinvPagePurge f) | 1 => some (.tlbinvCtx f) | 2 => some (.tlbinvAll f) | _ => none
  | 0x0A7 => match f.sub.toNat with | 0 => some (.ctxsaveFreeze f) | 1 => some (.ctxsaveGroup f) | 2 => some (.ctxsaveTeam f) | 3 => some (.ctxsaveQueues f) | 4 => some (.ctxsaveFifo f) | 5 => some (.ctxsaveCopies f) | _ => none
  | 0x0A8 => match f.sub.toNat with | 0 => some (.ctxloadThaw f) | 1 => some (.ctxloadGroup f) | 2 => some (.ctxloadTeam f) | 3 => some (.ctxloadQueues f) | 4 => some (.ctxloadFifo f) | 5 => some (.ctxloadCopies f) | _ => none
  | 0x140 => some (.mma f)
  | 0x141 => some (.mzero f)
  | 0x142 => some (.mst f)
  | 0x143 => some (.mld f)
  | 0x144 => some (.mrows f)
  | 0x145 => some (.mrowmax f)
  | 0x146 => some (.mrowsum f)
  | 0x147 => some (.mbar f)
  | 0x148 => some (.mwaitb f)
  | 0x180 => some (.spawn f)
  | 0x181 => some (.tret f)
  | 0x182 => some (.refill f)
  | 0x183 => some (.wqpush f)
  | 0x190 => some (.send f)
  | 0x191 => some (.fpush f)
  | 0x192 => some (.fpop f)
  | 0x193 => some (.evpop f)
  | 0x194 => some (.primemit f)
  | 0x1A0 => some (.vtwr f)
  | 0x1A1 => some (.ownwr f)
  | 0x1A2 => some (.pswr f)
  | 0x1C0 => some (.bari f)
  | 0x1C1 => some (.bara f)
  | 0x1C2 => some (.barw f)
  | 0x1C3 => some (.tbinit f)
  | 0x1C4 => some (.tbexp f)
  | 0x1C5 => some (.tbarr f)
  | 0x1C6 => some (.tbwait f)
  | 0x1C7 => some (.waitc f)
  | 0x1C8 => some (.depset f)
  | 0x1C9 => some (.depdec f)
  | 0x1CA => some (.owait f)
  | 0x1CB => match f.sub.toNat with | 0 => some (.orels f) | 1 => some (.orelsSet f) | _ => none
  | 0x1D0 => some (.timew f)
  | 0x1D1 => some (.crest f)
  | 0x1D2 => some (.cwait f)
  | 0x1D3 => match f.sub.toNat with | 0 => some (.csub f) | 1 => some (.csubCancel f) | _ => none
  | 0x1D4 => some (.pcnt f)
  | 0x1D5 => some (.pflush f)
  | 0x1E0 => some (.nred f)
  | 0x1E1 => match f.sub.toNat with | 0 => some (.wring f) | 1 => some (.wringClose f) | _ => none
  | 0x1E2 => some (.wpost f)
  | 0x1E3 => some (.wtake f)
  | 0x1E4 => some (.wdone f)
  | _ => none

/-- R92. -/
def build (op : Nat) : Form → Option Instr
  | .r f => buildR op f
  | .m f => buildM op f
  | .b f => buildB op f
  | .s f => buildS op f

/-- The opcode and the body of an instruction; an event has none. -/
def opForm : Instr → Option (Nat × Form)
  | .nop f => some (0x000, .s f)
  | .exit f => some (0x001, .s f)
  | .yield f => some (0x002, .s f)
  | .trap f => some (0x003, .s f)
  | .brk f => some (0x004, .s f)
  | .rdsr f => some (0x005, .s f)
  | .wrsr f => some (0x006, .s f)
  | .iadd f => some (0x010, .r f)
  | .isub f => some (0x011, .r f)
  | .imul f => some (0x012, .r f)
  | .imulhi f => some (0x013, .r f)
  | .imad f => some (0x014, .r f)
  | .imin f => some (0x015, .r f)
  | .imax f => some (0x016, .r f)
  | .iabs f => some (0x017, .r f)
  | .iaddc f => some (0x018, .r f)
  | .lea f => some (0x019, .r f)
  | .idp4 f => some (0x01A, .r f)
  | .idp2 f => some (0x01B, .r f)
  | .and f => some (0x020, .r f)
  | .or f => some (0x021, .r f)
  | .xor f => some (0x022, .r f)
  | .andn f => some (0x023, .r f)
  | .lop3 f => some (0x024, .r f)
  | .shl f => some (0x025, .r f)
  | .shr f => some (0x026, .r f)
  | .sar f => some (0x027, .r f)
  | .fshl f => some (0x028, .r f)
  | .bfe f => some (0x029, .r f)
  | .bfi f => some (0x02A, .r f)
  | .popc f => some (0x02B, .r f)
  | .clz f => some (0x02C, .r f)
  | .brev f => some (0x02D, .r f)
  | .isetp f => some (0x030, .r f)
  | .fsetp f => some (0x031, .r f)
  | .sel f => some (0x032, .r f)
  | .plop f => some (0x033, .r f)
  | .pmov f => some (0x034, .r f)
  | .mov f => some (0x035, .r f)
  | .xperm f => some (0x040, .r f)
  | .vote f => some (0x041, .r f)
  | .gredi f => some (0x042, .r f)
  | .gredf f => some (0x043, .r f)
  | .gscan f => some (0x044, .r f)
  | .matchEq f => some (0x045, .r f)
  | .fadd f => some (0x050, .r f)
  | .fsub f => some (0x051, .r f)
  | .fmul f => some (0x052, .r f)
  | .ffma f => some (0x053, .r f)
  | .ffms f => some (0x054, .r f)
  | .fnfma f => some (0x055, .r f)
  | .fdiv f => some (0x05D, .r f)
  | .fmin f => some (0x056, .r f)
  | .fmax f => some (0x057, .r f)
  | .fabs f => some (0x058, .r f)
  | .fneg f => some (0x059, .r f)
  | .fcpsgn f => some (0x05A, .r f)
  | .frnd f => some (0x05B, .r f)
  | .fclass f => some (0x05C, .r f)
  | .rcp f => some (0x060, .r f)
  | .rsq f => some (0x061, .r f)
  | .sqrt f => some (0x062, .r f)
  | .exp2 f => some (0x063, .r f)
  | .log2 f => some (0x064, .r f)
  | .sinpi f => some (0x065, .r f)
  | .cospi f => some (0x066, .r f)
  | .tanh f => some (0x067, .r f)
  | .cvt f => some (0x070, .r f)
  | .pack2 f => some (0x071, .r f)
  | .unpk2 f => some (0x072, .r f)
  | .cvtmx f => some (0x073, .r f)
  | .cvtqn f => some (0x074, .r f)
  | .qndec f => some (0x075, .r f)
  | .bra f => some (0x080, .b f)
  | .brz f => some (0x081, .b f)
  | .brnz f => some (0x082, .b f)
  | .brany f => some (0x083, .b f)
  | .brall f => some (0x084, .b f)
  | .call f => some (0x085, .b f)
  | .ret f => some (0x086, .b f)
  | .jmpi f => some (0x087, .b f)
  | .jmpv f => some (0x088, .b f)
  | .emand f => some (0x090, .b f)
  | .emandn f => some (0x091, .b f)
  | .emset f => some (0x092, .b f)
  | .emget f => some (0x093, .b f)
  | .exitl f => some (0x094, .b f)
  | .loop f => some (0x095, .b f)
  | .lbrk f => some (0x096, .b f)
  | .lcnt f => some (0x097, .b f)
  | .rgive f => some (0x098, .b f)
  | .rclaim f => some (0x099, .b f)
  | .winsel f => some (0x0A0, .s f)
  | .winrd f => some (0x0A1, .s f)
  | .winwr f => some (0x0A2, .s f)
  | .gresumeReplay f => some (0x0A3, .s f)
  | .gresumeSkip f => some (0x0A3, .s f)
  | .gkill f => some (0x0A4, .s f)
  | .bankcfgOff f => some (0x0A5, .s f)
  | .bankcfgCache f => some (0x0A5, .s f)
  | .bankcfgScratch f => some (0x0A5, .s f)
  | .bankcfgFifo f => some (0x0A5, .s f)
  | .tlbinvPage f => some (0x0A6, .s f)
  | .tlbinvPagePurge f => some (0x0A6, .s f)
  | .tlbinvCtx f => some (0x0A6, .s f)
  | .tlbinvAll f => some (0x0A6, .s f)
  | .ctxsaveFreeze f => some (0x0A7, .s f)
  | .ctxsaveCopies f => some (0x0A7, .s f)
  | .ctxsaveGroup f => some (0x0A7, .s f)
  | .ctxsaveTeam f => some (0x0A7, .s f)
  | .ctxsaveQueues f => some (0x0A7, .s f)
  | .ctxsaveFifo f => some (0x0A7, .s f)
  | .ctxloadThaw f => some (0x0A8, .s f)
  | .ctxloadCopies f => some (0x0A8, .s f)
  | .ctxloadGroup f => some (0x0A8, .s f)
  | .ctxloadTeam f => some (0x0A8, .s f)
  | .ctxloadQueues f => some (0x0A8, .s f)
  | .ctxloadFifo f => some (0x0A8, .s f)
  | .ld f => some (0x100, .m f)
  | .st f => some (0x101, .m f)
  | .ldsc f => some (0x102, .m f)
  | .stsc f => some (0x103, .m f)
  | .ldp f => some (0x104, .m f)
  | .prf f => some (0x105, .m f)
  | .ldte f => some (0x106, .m f)
  | .stte f => some (0x107, .m f)
  | .cctlIcinv f => some (0x108, .m f)
  | .cctlL1inv f => some (0x108, .m f)
  | .cctlWb f => some (0x108, .m f)
  | .cctlWbinv f => some (0x108, .m f)
  | .cctlPin f => some (0x108, .m f)
  | .cctlUnpin f => some (0x108, .m f)
  | .fenceAcq f => some (0x109, .m f)
  | .fenceRel f => some (0x109, .m f)
  | .fenceAcqrel f => some (0x109, .m f)
  | .fenceSc f => some (0x109, .m f)
  | .fenceI f => some (0x109, .m f)
  | .tsync f => some (0x10A, .m f)
  | .tsyncAll f => some (0x10A, .m f)
  | .tdinv f => some (0x10B, .m f)
  | .tdinvAll f => some (0x10B, .m f)
  | .atom f => some (0x110, .m f)
  | .atomcas f => some (0x111, .m f)
  | .red f => some (0x112, .m f)
  | .atomsc f => some (0x113, .m f)
  | .cassc f => some (0x114, .m f)
  | .copy f => some (0x120, .m f)
  | .copyo f => some (0x121, .m f)
  | .copym f => some (0x122, .m f)
  | .gather f => some (0x123, .m f)
  | .copyl f => some (0x124, .m f)
  | .ccancel f => some (0x125, .m f)
  | .putv f => some (0x130, .m f)
  | .getv f => some (0x131, .m f)
  | .redv f => some (0x132, .m f)
  | .mma f => some (0x140, .s f)
  | .mzero f => some (0x141, .s f)
  | .mst f => some (0x142, .s f)
  | .mld f => some (0x143, .s f)
  | .mrows f => some (0x144, .s f)
  | .mrowmax f => some (0x145, .s f)
  | .mrowsum f => some (0x146, .s f)
  | .mbar f => some (0x147, .s f)
  | .mwaitb f => some (0x148, .s f)
  | .spawn f => some (0x180, .s f)
  | .tret f => some (0x181, .s f)
  | .refill f => some (0x182, .s f)
  | .wqpush f => some (0x183, .s f)
  | .send f => some (0x190, .s f)
  | .fpush f => some (0x191, .s f)
  | .fpop f => some (0x192, .s f)
  | .evpop f => some (0x193, .s f)
  | .primemit f => some (0x194, .s f)
  | .vtwr f => some (0x1A0, .s f)
  | .ownwr f => some (0x1A1, .s f)
  | .pswr f => some (0x1A2, .s f)
  | .bari f => some (0x1C0, .s f)
  | .bara f => some (0x1C1, .s f)
  | .barw f => some (0x1C2, .s f)
  | .tbinit f => some (0x1C3, .s f)
  | .tbexp f => some (0x1C4, .s f)
  | .tbarr f => some (0x1C5, .s f)
  | .tbwait f => some (0x1C6, .s f)
  | .waitc f => some (0x1C7, .s f)
  | .depset f => some (0x1C8, .s f)
  | .depdec f => some (0x1C9, .s f)
  | .owait f => some (0x1CA, .s f)
  | .orels f => some (0x1CB, .s f)
  | .orelsSet f => some (0x1CB, .s f)
  | .timew f => some (0x1D0, .s f)
  | .crest f => some (0x1D1, .s f)
  | .cwait f => some (0x1D2, .s f)
  | .csub f => some (0x1D3, .s f)
  | .csubCancel f => some (0x1D3, .s f)
  | .pcnt f => some (0x1D4, .s f)
  | .pflush f => some (0x1D5, .s f)
  | .nred f => some (0x1E0, .s f)
  | .wring f => some (0x1E1, .s f)
  | .wringClose f => some (0x1E1, .s f)
  | .wpost f => some (0x1E2, .s f)
  | .wtake f => some (0x1E3, .s f)
  | .wdone f => some (0x1E4, .s f)
  | .instructionFetch _ | .issueArbitration _ _ _ | .releaseComplete _ | .operationCompletion _ _ _
  | .pageWalk _ _ _ _ _ | .tlbinvAcknowledge _ | .storeAtHomeSlice _ | .mergingFill _
  | .writeBack _ _ | .replicaRead _ _ | .replicaUpdate _ _ _ | .remoteWriteAck _
  | .copySectorWrite _ _ _ _ | .copyResume _ _ _ | .firstRouterCheck _ | .messageDelivery _
  | .taskArrival _ _ | .messageConsumption _ _ | .parkedEntry _ _ | .taskDequeue _ _
  | .forageClaim _ _ _ | .teamRetirement _ _ _ | .commitPerform _ | .dependencyOpArrival _ _
  | .pushDelivery _ _ | .packetDelivery _ _ | .spillReload _ _ _ | .primitiveBinning _
  | .boundAdvance _ _ | .eventRecordArrival _ _ | .batchApply _ | .csubRequestArrival _
  | .batchAcknowledgement _ | .pendingTimeMerge _ | .passGrant _ _ | .passCompletion _ _
  | .passResume _ _ _ | .reductionPartial _ _ | .reductionResult _ _ | .ringTransfer _ _
  | .ringForwardComplete _ _ _ | .ringGrant _ | .grantResend | .trapRecordDispatch _ _
  | .handlerTimeLimit _ _ | .qtailWrite _ | .qbaseWrite _ | .qsizeWrite _
  | .nbaseWrite _ | .nsizeNheadWrite _ | .facceptWrite _ | .registerWrite _ _
  | .errorCountClear _ _ | .ctxnew | .grid | .ctxend
  | .tree | .debugContinue _ _ | .contextTeardown _ _ | .reportRequest _
  | .flitReceive _ _ | .coldStart _ | .warmStart _ | .heartbeat _
  | .heartbeatMiss _ _ | .retirement | .combErrorRetirement _ _ | .retireRequest _ _
  | .clockStretch _ _ _ | .thermalTrip _ _ | .securityAlarm _ _ _ | .fabricPortDown _
  | .reportComplete | .powerLoss | .broadcastAcknowledge _ => none

/-- An instruction that has a word: its fields pass R81's first step, and its sub-operation field names it. -/
def WellFormed (i : Instr) : Prop :=
  staticOk i = true ∧ ∃ p, opForm i = some p ∧ build p.1 p.2 = some i

/-- Whether `WellFormed` holds, as a computation. -/
def wellFormed (i : Instr) : Bool :=
  staticOk i && (match opForm i with
    | some p => decide (build p.1 p.2 = some i)
    | none => false)

/-- The instruction of a 96-bit word, word 0 in the low bits (R68). -/
def decodeWord (n : Nat) : Except DecodeFault Instr :=
  match readForm n with
  | .error e => .error e
  | .ok f =>
    match build (n % 1024) f with
    | none => .error (.undefinedMinor (n % 1024))
    | some i => if staticOk i then .ok i else .error (.badField (n % 1024))

/-- The instruction at the front of the bytes, and the bytes behind it. -/
def decode (bs : List Byte) : Except DecodeFault (Instr × List Byte) :=
  if bs.length < 12 then .error .shortFetch
  else match decodeWord (leNat (bs.take 12)) with
    | .ok i => .ok (i, bs.drop 12)
    | .error e => .error e

/-- The instruction the decoder reads from table-numbered bits: bit 0 is bit 0 of word 0, and the bits above
`nbits` are 0. -/
def decodeTableWord (nbits w : Nat) : Option Instr :=
  match decode (leBytes 12 (w % 2 ^ nbits)) with
  | .ok p => some p.1
  | .error _ => none

/-- The word of an instruction; an event has none, and 0 stands there. -/
def encodeWord (i : Instr) : Nat :=
  match opForm i with
  | some p => packForm p.1 p.2
  | none => 0

/-- The 12 bytes of an instruction, in increasing addresses (R68). -/
def encode (i : Instr) : List Byte := leBytes 12 (encodeWord i)

end Sys2Proof
end

