-- ==== Sys2Proof/Machine/Float.lean ====
section
/-! DEFINITION. Floating-point values and their rounding (R40 to R60): formats, exact values, the rounding of an
exact value into a format with its flags, overflow, flushing, clamping, and conversions. Everything is exact integer
arithmetic; one place rounds.
Model's choices in this file: log entry 38. -/

namespace Sys2Proof.Machine

/-- The five exception flags in the layout of `fstat` (R106): NV, DZ, OF, UF, NX from bit 0. -/
abbrev Exc := BitVec 5

/-- Invalid operation. -/
def excNV : Exc := 1
/-- Division by zero. -/
def excDZ : Exc := 2
/-- Overflow. -/
def excOF : Exc := 4
/-- Underflow. -/
def excUF : Exc := 8
/-- Inexact. -/
def excNX : Exc := 16

/-- What a format does with its largest exponent (R41): infinities and NaNs, the one NaN of E4M3, or neither. -/
inductive FKind where
  | ieee
  | oneNan
  | allNum
  deriving DecidableEq, Repr

/-- A floating-point format (R40, R41): exponent bits, mantissa bits, bias, kind, and whether MODE.FTZ acts on
it (R54). -/
structure Fmt where
  eb : Nat
  mb : Nat
  bias : Nat
  kind : FKind
  flushes : Bool
  deriving DecidableEq, Repr

def fmtF32 : Fmt := ⟨8, 23, 127, .ieee, true⟩
def fmtF16 : Fmt := ⟨5, 10, 15, .ieee, true⟩
def fmtBF16 : Fmt := ⟨8, 7, 127, .ieee, true⟩
def fmtE5M2 : Fmt := ⟨5, 2, 15, .ieee, false⟩
def fmtE4M3 : Fmt := ⟨4, 3, 7, .oneNan, false⟩
def fmtE3M2 : Fmt := ⟨3, 2, 3, .allNum, false⟩
def fmtE2M3 : Fmt := ⟨2, 3, 1, .allNum, false⟩
def fmtE2M1 : Fmt := ⟨2, 1, 1, .allNum, false⟩

/-- The width of an encoding. -/
def Fmt.width (f : Fmt) : Nat := 1 + f.eb + f.mb

/-- The exponent of the smallest normal number, 1 minus the bias. -/
def Fmt.emin (f : Fmt) : Int := 1 - (f.bias : Int)

/-- The encoding of the largest finite magnitude (R41). -/
def Fmt.maxBits (f : Fmt) : Nat :=
  match f.kind with
  | .ieee => (2 ^ f.eb - 1) * 2 ^ f.mb - 1
  | .oneNan => 2 ^ (f.eb + f.mb) - 2
  | .allNum => 2 ^ (f.eb + f.mb) - 1

/-- The encoding of positive infinity in a format that has one. -/
def Fmt.infBits (f : Fmt) : Nat := (2 ^ f.eb - 1) * 2 ^ f.mb

/-- The sign bit of an encoding. -/
def Fmt.signBit (f : Fmt) (neg : Bool) : Nat := if neg then 2 ^ (f.eb + f.mb) else 0

/-- The canonical NaN (R42). A format without a NaN has none; 0 stands there (R52). -/
def Fmt.canonNan (f : Fmt) : Nat :=
  match f.kind with
  | .ieee => f.infBits + 2 ^ (f.mb - 1)
  | .oneNan => 2 ^ (f.eb + f.mb) - 1
  | .allNum => 0

/-- A value of a format: a NaN with its sign, whether it is signalling and its mantissa field; an infinity; or
the number (-1)^neg × mant × 2^ex. -/
inductive FV where
  | nan (neg signalling : Bool) (m : Nat)
  | inf (neg : Bool)
  | num (neg : Bool) (mant : Nat) (ex : Int)
  deriving DecidableEq, Repr

/-- The value an encoding stands for (R40 to R42). -/
def Fmt.decode (f : Fmt) (bits : Nat) : FV :=
  let neg := bits / 2 ^ (f.eb + f.mb) % 2 = 1
  let e := bits / 2 ^ f.mb % 2 ^ f.eb
  let m := bits % 2 ^ f.mb
  if f.kind = .ieee ∧ e = 2 ^ f.eb - 1 then
    if m = 0 then .inf neg else .nan neg (m < 2 ^ (f.mb - 1)) m
  else if f.kind = .oneNan ∧ e = 2 ^ f.eb - 1 ∧ m = 2 ^ f.mb - 1 then .nan neg false m
  else if e = 0 then .num neg m (f.emin - f.mb)
  else .num neg (2 ^ f.mb + m) ((e : Int) - f.bias - f.mb)

/-- `quiet` of a NaN of the format (R7, R42). -/
def Fmt.quiet (f : Fmt) (neg : Bool) (m : Nat) : Nat :=
  match f.kind with
  | .ieee => f.signBit neg + f.infBits + (if m < 2 ^ (f.mb - 1) then m + 2 ^ (f.mb - 1) else m)
  | .oneNan => f.signBit neg + f.canonNan
  | .allNum => 0

/-- The encoding of an infinity; the largest number where the format has none. -/
def Fmt.encInf (f : Fmt) (neg : Bool) : Nat :=
  f.signBit neg + (if f.kind = .ieee then f.infBits else f.maxBits)

/-- The rounding modes (R50). -/
inductive RMode where
  | rne | rtz | rdn | rup | rna
  deriving DecidableEq, Repr

/-- The mode a nonreserved RND value names (R84). -/
def RMode.ofCode : Nat → Option RMode
  | 1 => some .rne
  | 2 => some .rtz
  | 3 => some .rdn
  | 4 => some .rup
  | 5 => some .rna
  | _ => none

/-- Whether a magnitude between `q` and `q + 1` goes up (R50): `rem` of `unit` parts lie above `q`, and `sticky`
says that still something smaller than one part does. -/
def RMode.up (r : RMode) (neg : Bool) (q rem unit : Nat) (sticky : Bool) : Bool :=
  let inexact := rem ≠ 0 ∨ sticky
  let above := 2 * rem > unit ∨ (2 * rem = unit ∧ sticky)
  let tie := 2 * rem = unit ∧ ¬ sticky
  match r with
  | .rne => above ∨ (tie ∧ q % 2 = 1)
  | .rtz => false
  | .rdn => neg ∧ inexact
  | .rup => !neg ∧ inexact
  | .rna => above ∨ tie

/-- `mant × 2^ex` as a count of 2^q, rounded, and whether it was inexact. -/
def roundAt (r : RMode) (neg : Bool) (mant : Nat) (ex : Int) (sticky : Bool) (q : Int) : Nat × Bool :=
  if q ≤ ex then (mant * 2 ^ (ex - q).toNat, sticky)
  else
    let unit := 2 ^ (q - ex).toNat
    let n := mant / unit
    let rem := mant % unit
    (if r.up neg n rem unit sticky then n + 1 else n, decide (rem ≠ 0) || sticky)

/-- How an instruction delivers its result: rounding mode, MODE.FTZ, FLAGS.S and SAT2 (R145). -/
structure FOpt where
  rm : RMode
  ftz : Bool
  sat : Bool
  sat2 : Nat
  deriving DecidableEq, Repr

/-- The exponent of the leading bit of a nonzero mantissa. -/
def topExp (mant : Nat) (ex : Int) : Int := (Nat.log2 mant : Int) + ex

/-- The result of an overflow (R51, R52). -/
def Fmt.overflow (f : Fmt) (o : FOpt) (neg : Bool) : Nat :=
  match f.kind with
  | .allNum => f.signBit neg + f.maxBits
  | .oneNan => f.signBit neg + (if o.sat then f.maxBits else f.canonNan)
  | .ieee =>
    if o.sat then f.signBit neg + f.maxBits
    else
      let toInf := match o.rm with
        | .rne | .rna => true
        | .rtz => false
        | .rdn => neg
        | .rup => !neg
      f.signBit neg + (if toInf then f.infBits else f.maxBits)

/-- The encoding of `n × 2^q` for a magnitude already rounded to the format. -/
def Fmt.encMag (f : Fmt) (n : Nat) (q : Int) : Nat :=
  if n < 2 ^ f.mb then n
  else
    let (n, q) := if n = 2 ^ (f.mb + 1) then (2 ^ f.mb, q + 1) else (n, q)
    (q + f.mb + f.bias).toNat * 2 ^ f.mb + (n - 2 ^ f.mb)

/-- Whether the magnitude, rounded to the format's precision with unbounded exponent, lies below the smallest
normal number (R53). -/
def Fmt.tiny (f : Fmt) (r : RMode) (neg : Bool) (mant : Nat) (ex : Int) (sticky : Bool) : Bool :=
  let e := topExp mant ex
  if e ≥ f.emin then false
  else
    let (n, _) := roundAt r neg mant ex sticky (e - f.mb)
    !(e + 1 = f.emin ∧ n = 2 ^ (f.mb + 1))

/-- The delivery of a nonzero exact magnitude (R50 to R54): the encoding and the flags. The value lies between
`mant × 2^ex` and the next unit when `sticky` is set, and `mant` then has more bits than the format. -/
def Fmt.round (f : Fmt) (o : FOpt) (neg : Bool) (mant : Nat) (ex : Int) (sticky : Bool) : Nat × Exc :=
  let e := topExp mant ex
  let q := max (e - f.mb) (f.emin - f.mb)
  let (n, inexact) := roundAt o.rm neg mant ex sticky q
  let mag := f.encMag n q
  if mag > f.maxBits then (f.overflow o neg, excOF ||| excNX)
  else
    let tiny := f.tiny o.rm neg mant ex sticky
    if tiny && o.ftz && f.flushes then (f.signBit neg, excUF ||| excNX)
    else (f.signBit neg + mag,
      (if inexact then excNX else 0) ||| (if tiny && inexact then excUF else 0))

/-- SAT2 acts on a delivered encoding (R55). -/
def Fmt.clamp (f : Fmt) (sat2 : Nat) (bits : Nat) : Nat :=
  let one := f.bias * 2 ^ f.mb
  match sat2, f.decode bits with
  | 1, .inf neg => f.signBit neg + f.maxBits
  | 2, .nan _ _ _ => 0
  | 2, .inf neg => if neg then 0 else one
  | 2, .num neg mant _ => if neg && mant ≠ 0 then 0 else if !neg && bits > one then one else bits
  | 3, .nan _ _ _ => 0
  | 3, .inf neg => f.signBit neg + one
  | 3, .num neg _ _ => if bits % 2 ^ (f.eb + f.mb) > one then f.signBit neg + one else bits
  | _, _ => bits

/-- The delivery of a value that is not a NaN (R145). An exact infinity keeps no flag (R147). -/
def Fmt.deliver (f : Fmt) (o : FOpt) : FV → Nat × Exc
  | .nan neg _ m => (f.clamp o.sat2 (f.quiet neg m), 0)
  | .inf neg => (f.clamp o.sat2 (f.encInf neg), 0)
  | .num neg mant ex =>
    if mant = 0 then (f.clamp o.sat2 (f.signBit neg), 0)
    else
      let (b, x) := f.round o neg mant ex false
      (f.clamp o.sat2 b, x)

/-- A source under MODE.FTZ: a subnormal is read as zero of the same sign (R54). -/
def Fmt.flushIn (f : Fmt) (ftz : Bool) (bits : Nat) : Nat :=
  if ftz && f.flushes && decide (bits / 2 ^ f.mb % 2 ^ f.eb = 0) then bits / 2 ^ (f.eb + f.mb) % 2 * 2 ^ (f.eb + f.mb)
  else bits % 2 ^ f.width

/-- Whether a value is a signalling NaN. -/
def FV.isSignalling : FV → Bool
  | .nan _ s _ => s
  | _ => false

/-- Whether a value is a NaN. -/
def FV.isNan : FV → Bool
  | .nan _ _ _ => true
  | _ => false

/-- `nanpick` (R7): the quiet first NaN among the operands, or the canonical NaN. -/
def Fmt.nanpick (f : Fmt) : List FV → Nat
  | [] => f.canonNan
  | .nan neg _ m :: _ => f.quiet neg m
  | _ :: rest => f.nanpick rest

/-- NV when an operand is a signalling NaN (R57). -/
def nvOfSignalling (vs : List FV) : Exc := if vs.any FV.isSignalling then excNV else 0

/-- The sum of two numbers on the finer exponent, as a signed integer and an exponent. -/
def addExact (n1 : Bool) (m1 : Nat) (e1 : Int) (n2 : Bool) (m2 : Nat) (e2 : Int) : Int × Int :=
  let e := min e1 e2
  let a : Int := (m1 * 2 ^ (e1 - e).toNat : Nat)
  let b : Int := (m2 * 2 ^ (e2 - e).toNat : Nat)
  ((if n1 then -a else a) + (if n2 then -b else b), e)

/-- The exact sum of two values that are no NaN; `none` is the invalid sum of opposite infinities (R57). The sign
of an exact zero follows R147. -/
def addV (rdn : Bool) : FV → FV → Option FV
  | .inf a, .inf b => if a = b then some (.inf a) else none
  | .inf a, _ => some (.inf a)
  | _, .inf b => some (.inf b)
  | .num n1 m1 e1, .num n2 m2 e2 =>
    let (x, e) := addExact n1 m1 e1 n2 m2 e2
    if x = 0 then
      some (.num (if n1 = n2 && m1 = 0 && m2 = 0 then n1 else rdn) 0 0)
    else some (.num (x < 0) x.natAbs e)
  | _, _ => none

/-- The exact product of two values that are no NaN; `none` is the invalid 0 × ∞ (R57). -/
def mulV : FV → FV → Option FV
  | .inf a, .inf b => some (.inf (a != b))
  | .inf a, .num b m _ => if m = 0 then none else some (.inf (a != b))
  | .num a m _, .inf b => if m = 0 then none else some (.inf (a != b))
  | .num a m e, .num b n g => some (.num (a != b) (m * n) (e + g))
  | _, _ => none

/-- The value with its sign inverted; a NaN is left alone (R147). -/
def FV.negate : FV → FV
  | .inf a => .inf (!a)
  | .num a m e => .num (!a) m e
  | x => x

/-- The result of an operation on operands `vs` of one format: a NaN operand decides first, then an invalid
operation, then the exact value is delivered (R147). -/
def Fmt.finish (f : Fmt) (o : FOpt) (vs : List FV) (x : Option FV) : Nat × Exc :=
  if vs.any FV.isNan then (f.clamp o.sat2 (f.nanpick vs), nvOfSignalling vs)
  else match x with
    | none => (f.clamp o.sat2 f.canonNan, excNV)
    | some v => f.deliver o v

def Fmt.add (f : Fmt) (o : FOpt) (a b : FV) : Nat × Exc := f.finish o [a, b] (addV (o.rm = .rdn) a b)
def Fmt.sub (f : Fmt) (o : FOpt) (a b : FV) : Nat × Exc := f.finish o [a, b] (addV (o.rm = .rdn) a b.negate)
def Fmt.mul (f : Fmt) (o : FOpt) (a b : FV) : Nat × Exc := f.finish o [a, b] (mulV a b)

/-- The fused family (R147): `(±(a × b)) ± c` with one rounding. 0 × ∞ with a NaN c raises NV (R59). -/
def Fmt.fma (f : Fmt) (o : FOpt) (negProd negC : Bool) (a b c : FV) : Nat × Exc :=
  let prod := mulV a b
  let x := match prod with
    | none => none
    | some p => addV (o.rm = .rdn) (if negProd then p.negate else p) (if negC then c.negate else c)
  let (r, e) := f.finish o [a, b, c] x
  (r, e ||| (if !a.isNan && !b.isNan && prod.isNone then excNV else 0))

/-- Division (R147): the quotient to 64 bits beyond the divisor's width, with the rest in the sticky bit. -/
def Fmt.div (f : Fmt) (o : FOpt) (a b : FV) : Nat × Exc :=
  match a, b with
  | .num n m e, .num n' m' e' =>
    if m' = 0 then
      if m = 0 then (f.clamp o.sat2 f.canonNan, excNV) else (f.clamp o.sat2 (f.encInf (n != n')), excDZ)
    else if m = 0 then (f.clamp o.sat2 (f.signBit (n != n')), 0)
    else
      let k := 64 + Nat.log2 m'
      let (r, x) := f.round o (n != n') (m * 2 ^ k / m') (e - e' - k) (m * 2 ^ k % m' ≠ 0)
      (f.clamp o.sat2 r, x)
  | .num n _ _, .inf n' => f.finish o [a, b] (some (.num (n != n') 0 0))
  | .inf n, .num n' _ _ => f.finish o [a, b] (some (.inf (n != n')))
  | _, _ => f.finish o [a, b] none

/-- The integer square root, bit by bit from bit `k` down: the largest r with r² ≤ n that extends `r`. -/
def isqrtAux (n : Nat) : Nat → Nat → Nat
  | 0, r => r
  | k + 1, r =>
    let r' := r + 2 ^ k
    isqrtAux n k (if r' * r' ≤ n then r' else r)

/-- The integer square root. -/
def isqrt (n : Nat) : Nat := isqrtAux n (Nat.log2 n / 2 + 1) 0

/-- The square root (R152), correctly rounded. -/
def Fmt.sqrt (f : Fmt) (o : FOpt) (a : FV) : Nat × Exc :=
  match a with
  | .num neg m e =>
    if m = 0 then (f.clamp o.sat2 (f.signBit neg), 0)
    else if neg then (f.clamp o.sat2 f.canonNan, excNV)
    else
      let (m, e) := if e % 2 = 0 then (m, e) else (2 * m, e - 1)
      let n := m * 2 ^ 128
      let r := isqrt n
      let (b, x) := f.round o false r (e / 2 - 64) (r * r ≠ n)
      (f.clamp o.sat2 b, x)
  | .inf neg => if neg then (f.clamp o.sat2 f.canonNan, excNV) else f.deliver o a
  | .nan _ _ _ => f.finish o [a] none

/-- FMIN and FMAX (R148): a NaN loses to a number, and −0 orders below +0. -/
def Fmt.minmax (f : Fmt) (isMax : Bool) (abits bbits : Nat) : Nat × Exc :=
  let a := f.decode abits
  let b := f.decode bbits
  let nv := nvOfSignalling [a, b]
  let key (bits : Nat) : Int :=
    let mag : Int := (bits % 2 ^ (f.eb + f.mb) : Nat)
    if bits / 2 ^ (f.eb + f.mb) % 2 = 1 then -mag - 1 else mag
  if a.isNan && b.isNan then (f.nanpick [a, b], nv)
  else if a.isNan then (bbits, nv)
  else if b.isNan then (abits, nv)
  else ((if isMax then (if key bbits > key abits then bbits else abits)
         else (if key bbits < key abits then bbits else abits)), nv)

/-- The integer a magnitude rounds to, and whether it differs (R50, R150). -/
def roundInt (r : RMode) (neg : Bool) (mant : Nat) (ex : Int) : Nat × Bool := roundAt r neg mant ex false 0

/-- FRND (R150): an integral value in the same format. -/
def Fmt.rnd (f : Fmt) (o : FOpt) (a : FV) : Nat × Exc :=
  match a with
  | .num neg m e =>
    let (n, inexact) := roundInt o.rm neg m e
    let b := if n = 0 then f.signBit neg
      else f.signBit neg + f.encMag (roundAt .rtz neg n 0 false (topExp n 0 - f.mb)).1 (topExp n 0 - f.mb)
    (f.clamp o.sat2 b, if inexact then excNX else 0)
  | _ => f.finish o [a] (some a)

/-- FCLASS (R151): the bit that names the class. -/
def Fmt.fclass (f : Fmt) (bits : Nat) : Nat :=
  match f.decode bits with
  | .inf true => 1
  | .num true m _ => if m = 0 then 8 else if m < 2 ^ f.mb then 4 else 2
  | .num false m _ => if m = 0 then 16 else if m < 2 ^ f.mb then 32 else 64
  | .inf false => 128
  | .nan _ s _ => if s then 256 else 512

/-- A NaN of one format carried into another (R52, R56, R58). For an E4M3 NaN into E5M2, which is neither a widening to F32, F16
or BF16 nor a narrowing with a payload, the result is E5M2's canonical NaN with the sign, and no flag is raised (DESIGN CHOICE,
log entry 52). -/
def Fmt.convNan (src dst : Fmt) (neg signalling : Bool) (m : Nat) : Nat × Exc :=
  match dst.kind, src.kind with
  | .allNum, _ => (0, excNV)
  | .oneNan, _ => (dst.signBit neg + dst.canonNan, if signalling then excNV else 0)
  | .ieee, .ieee =>
    let pay := m % 2 ^ (src.mb - 1)
    let pay' := if dst.mb ≥ src.mb then pay * 2 ^ (dst.mb - src.mb) else pay / 2 ^ (src.mb - dst.mb)
    (dst.signBit neg + dst.infBits + 2 ^ (dst.mb - 1) + pay', if signalling then excNV else 0)
  | .ieee, _ => (dst.signBit neg + dst.canonNan, 0)

/-- A conversion between floating-point formats (R153, R52, R58). -/
def Fmt.conv (src dst : Fmt) (o : FOpt) (a : FV) : Nat × Exc :=
  match a with
  | .nan neg s m =>
    let (b, x) := src.convNan dst neg s m
    (dst.clamp o.sat2 b, x)
  | .inf neg =>
    match dst.kind with
    | .ieee => (dst.clamp o.sat2 (dst.encInf neg), 0)
    | .oneNan =>
      if o.sat then (dst.clamp o.sat2 (dst.signBit neg + dst.maxBits), 0)
      else (dst.clamp o.sat2 (dst.signBit neg + dst.canonNan), excNV)
    | .allNum => (dst.clamp o.sat2 (dst.signBit neg + dst.maxBits), excNV)
  | .num _ _ _ => dst.deliver o a

/-- A conversion to an integer of the range [lo, hi] (R56). -/
def toIntConv (r : RMode) (lo hi : Int) : FV → Int × Exc
  | .nan _ _ _ => (0, excNV)
  | .inf neg => (if neg then lo else hi, excNV)
  | .num neg m e =>
    let (n, inexact) := roundInt r neg m e
    let x : Int := if neg then -(n : Int) else n
    if x < lo then (lo, excNV) else if x > hi then (hi, excNV)
    else (x, if inexact then excNX else 0)

/-- A conversion from an integer (R56): NX when inexact, OF with NX on overflow. -/
def Fmt.ofInt (f : Fmt) (o : FOpt) (x : Int) : Nat × Exc :=
  if x = 0 then (f.clamp o.sat2 0, 0)
  else
    let (b, e) := f.round o (x < 0) x.natAbs 0 false
    (f.clamp o.sat2 b, e)

/-- A conversion to E8M0 (R56): the power of two the mode selects, judged after rounding. -/
def toE8M0 (r : RMode) (sat : Bool) : FV → Nat × Exc
  | .nan _ _ _ => (0xFF, excNV)
  | .inf neg => if neg then (0xFF, excNV) else if sat then (0xFE, 0) else (0xFF, excNV)
  | .num neg m e =>
    if neg || m = 0 then (0xFF, excNV)
    else
      let k := topExp m e
      let low : Nat := 2 ^ Nat.log2 m
      let exact := m = low
      let code : Int := k + 127
      let up := match r with
        | .rne => decide (2 * m > 3 * low) || (decide (2 * m = 3 * low) && decide (code % 2 ≠ 0))
        | .rna => decide (2 * m ≥ 3 * low)
        | .rup => !exact
        | .rtz | .rdn => false
      let c : Int := if up then code + 1 else code
      if c < 0 then (0, excUF ||| excNX)
      else if c > 254 then (if sat then 0xFE else 0xFF, excOF ||| excNX)
      else (c.toNat, if exact then 0 else excNX)

/-- The value of an E8M0 code (R43): a power of two, or `none` for its NaN. -/
def ofE8M0 (code : Nat) : Option FV :=
  if code = 0xFF then none else some (.num false 1 ((code : Int) - 127))

/-- The levels of the QN4 codebook over 256 (R46). -/
def qn4Level : Nat → Int
  | 0 => 0 | 1 => 11 | 2 => 33 | 3 => 55 | 4 => 80 | 5 => 107 | 6 => 139 | 7 => 181
  | 8 => 256 | 9 => -33 | 10 => -55 | 11 => -80 | 12 => -107 | 13 => -139 | 14 => -181
  | _ => -256

end Sys2Proof.Machine
end

