-- ==== Sys2Proof/Machine/Sparse.lean ====
section
/-! DEFINITION. Maps as lists of key and value pairs in rising key order. A map with a default value holds no entry at
the default, so equal maps are equal lists; a map of things that may be absent holds what is present. -/

namespace Sys2Proof.Machine.Sparse

universe u
variable {α : Type u}

/-- What the map holds at a key, if anything. -/
def find? : List (Nat × α) → Nat → Option α
  | [], _ => none
  | (k, v) :: m, i => if i = k then some v else find? m i

/-- The value at a key of a map with a default. -/
def get (d : α) (m : List (Nat × α)) (i : Nat) : α :=
  match find? m i with
  | some v => v
  | none => d

/-- The map with a value put at a key. -/
def put : List (Nat × α) → Nat → α → List (Nat × α)
  | [], i, x => [(i, x)]
  | (k, v) :: m, i, x =>
    if i = k then (i, x) :: m else if i < k then (i, x) :: (k, v) :: m else (k, v) :: put m i x

/-- The map without a key. -/
def erase (m : List (Nat × α)) (i : Nat) : List (Nat × α) := m.filter fun p => decide (p.1 ≠ i)

/-- The map of a default with a value at a key; a value at the default is not listed. -/
def set [DecidableEq α] (d : α) (m : List (Nat × α)) (i : Nat) (x : α) : List (Nat × α) :=
  if x = d then erase m i else put m i x

/-- Every key is above `b`, keys rise, and no value is the default. -/
def wfFrom [DecidableEq α] (d : α) : Nat → List (Nat × α) → Bool
  | _, [] => true
  | b, (k, v) :: m => decide (b ≤ k) && decide (v ≠ d) && wfFrom d (k + 1) m

/-- The canonical form of a map with a default. -/
def wf [DecidableEq α] (d : α) (m : List (Nat × α)) : Bool := wfFrom d 0 m

/-- Puts a run of values at consecutive keys. -/
def setRun [DecidableEq α] (d : α) (m : List (Nat × α)) (i : Nat) : List α → List (Nat × α)
  | [] => m
  | x :: xs => setRun d (set d m i x) (i + 1) xs

/-- The values at `n` consecutive keys. -/
def getRun (d : α) (m : List (Nat × α)) (i : Nat) : Nat → List α
  | 0 => []
  | n + 1 => get d m i :: getRun d m (i + 1) n

end Sys2Proof.Machine.Sparse
end

