-- ==== Sys2Proof/Machine/State.lean ====
section
/-! DEFINITION. The state of the package as plain data (R10 to R37, R98 to R113, R194 and the chapters that own
each part), the fault and refusal reasons, and the state after reset. A map is a list of key and value pairs in
rising key order without entries at the default value. -/

namespace Sys2Proof.Machine

/-! ## Registers of a thread -/

/-- A loop-stack entry (R108). -/
structure LoopEnt where
  start : Word
  endPc : Word
  valid : Bool
  depth : BitVec 4
  count : BitVec 24
  deriving DecidableEq, Repr

/-- An invalid entry (R98). -/
def LoopEnt.reset : LoopEnt := ⟨0, 0, false, 0, 0⟩

/-- The trap registers (R110). -/
structure TrapRegs where
  tcause : Word
  tpc : DWord
  tmask : Word
  tval : Word
  tval2 : Word
  deriving DecidableEq, Repr

/-- The writes of one register in flight: its specifier code, and a value for each lane written; lane 0 alone for a
scalar or a q register. -/
structure RegWrite where
  code : Nat
  lanes : List (Nat × Word)
  deriving DecidableEq, Repr

/-- A fixed-latency result in flight (R88, R89, R107): when it lands, what it writes, the flags it raises and whether
its instruction rounds or raises flags. -/
structure Flight where
  due : Nat
  writes : List RegWrite
  exc : BitVec 5
  fp : Bool
  deriving DecidableEq, Repr

/-- A register whose asynchronous result no WAITC has covered yet (R90): the operation, the register's code, the
value each lane held before, whether the result has landed, and the lanes whose data met an uncorrectable error
with the address of each (R284). -/
structure Uncov where
  op : Nat
  cls : Nat
  code : Nat
  old : List (Nat × Word)
  landed : Bool
  bad : List (Nat × Nat)
  deriving DecidableEq, Repr

/-- The last instruction issued in the run, as R91 looks at it for fusion; `dst` is the code of its destination. -/
structure FuseInfo where
  op : Nat
  pc : DWord
  issued : Nat
  due : Nat
  dst : Nat
  ty : BitVec 6
  g1 : Guard
  g2 : Guard
  vec : Bool
  stall : Nat
  deriving DecidableEq, Repr

/-- What a thread waits for. The instruction at its PC carries on when it is issued again. -/
inductive Wait where
  /-- Nothing: the thread issues. -/
  | none
  /-- A full resource or a condition the instruction tests again. -/
  | again
  /-- The release of R257 at a scope, before the instruction's effect (R465). -/
  | release (scope : Nat)
  /-- The release is complete; the effect comes next. -/
  | released
  /-- Named barrier b has been arrived at in phase ph (R380, R318). -/
  | phase (b ph : Nat)
  /-- A deferred arrival (MBAR with DONE and WAIT) has been queued (R318). -/
  | deferred (uid : Nat)
  /-- An answer from another unit, under a request number. -/
  | answer (uid : Nat)
  /-- The answer: a status, or a fault code with TVAL and TVAL2. -/
  | answered (value : Nat)
  | refusedAnswer (cause tval tval2 : Nat)
  /-- A place in the order of waiting RCLAIMs (R174). -/
  | rclaim (n : Nat)
  /-- The acknowledgements PFLUSH waits for (R420). -/
  | flush
  /-- The sends, the commit and the release of a task that has ended by its own instruction, at a clk (R192, R338). -/
  | ending (clk : Nat)
  deriving DecidableEq, Repr

/-- A task record (R326). -/
structure TaskRec where
  entry : DWord
  time : DWord
  target : Word
  ctrl : Word
  place : Word
  args : List Word
  deriving DecidableEq, Repr

/-- One entry of a batch of counts (R406): location, time, side and signed change. -/
structure CountEnt where
  loc : Nat
  time : DWord
  note : Bool
  delta : Int
  deriving DecidableEq, Repr

/-- The open batch of a thread for one flow of a context (R183, R405). -/
structure OpenBatch where
  flow : Nat
  ctx : Nat
  ents : List CountEnt
  deriving DecidableEq, Repr

/-- A buffered action of an atomic task (R339, R340): its OP, the bytes it takes, the PC of its instruction, and its
operands as numbers: the address or target and the payload, as the action reads them at the commit. -/
structure CommitEnt where
  op : Nat
  bytes : Nat
  pc : DWord
  nums : List Nat
  payload : List Nat
  deriving DecidableEq, Repr

/-- Where a thread runs and for whom (R24 to R31, R103). -/
structure Place where
  ctx : Option Nat
  /-- The key of its team on the comb; a task is a team of one. -/
  team : Nat
  gid : Nat
  role : Nat
  tid : Word
  isTask : Bool
  atomic : Bool
  prio : Nat
  /-- The record of a task. -/
  record : Option TaskRec
  deriving DecidableEq, Repr

/-- The registers and the control state of a group, a steward or a matrix stream (R98, R103 to R113, R160, R304). -/
structure Thread where
  v : List (Nat × Word)
  s : List (Nat × Word)
  p : List (Nat × Word)
  q : BitVec 7
  x : List (Nat × DWord)
  pc : DWord
  em : Word
  lm : Word
  lk : DWord
  cd : BitVec 4
  loops : List LoopEnt
  lbuf : List (DWord × InstrWord)
  mode : Word
  fstat : Word
  budget : Nat
  trap : TrapRegs
  stopped : Bool
  /-- its TRAP record has not been dispatched yet (R180, R192). -/
  undisp : Bool
  /-- the LAND bit of its first instruction is still to be looked at (R327). -/
  entryLand : Bool
  /-- the clk at which GKILL named it while its run was under way: it ends with the run (R191, R192). -/
  doomed : Option Nat
  flights : List Flight
  uncov : List Uncov
  issueAt : Nat
  runLen : Nat
  readyAt : Nat
  fuse : Option FuseInfo
  wait : Wait
  /-- whether its next instruction would increment a class that holds 63 operations, as the machine last looked (R335). -/
  full : Bool
  /-- the words of the instruction that waits (R86, R351). -/
  held : Option InstrWord
  batches : List OpenBatch
  /-- (context × 16 + flow, the last SEQ sent) of each flow this thread has sent a batch for (R420). -/
  sentSeq : List (Nat × Nat)
  ordinal : Nat
  commit : List CommitEnt

  /-- the accesses before its last release fence: those with a lower number (R276). -/
  fenced : Nat
  place : Place
  uid : Nat
  deriving DecidableEq, Repr

/-- The place of a thread of no context. -/
def Place.none : Place := ⟨Option.none, 0, 0, 0, 0, false, false, 0, Option.none⟩

/-- A thread before its first instruction (R98, R105): registers 0, masks full, MODE.RM = 1. -/
def Thread.reset : Thread :=
  { v := [], s := [], p := [], q := 0, x := [], pc := 0, em := 0xFFFFFFFF, lm := 0xFFFFFFFF, lk := 0, cd := 0,
    loops := List.replicate 4 LoopEnt.reset, lbuf := [], mode := 1, fstat := 0, budget := 0,
    trap := ⟨0, 0, 0, 0, 0⟩, stopped := false, undisp := false, entryLand := false, doomed := none, flights := [], uncov := [],
    issueAt := 0, runLen := 0, readyAt := 0, fuse := Option.none, wait := Wait.none, full := false, held := Option.none,
    batches := [], sentSeq := [], ordinal := 0, commit := [], fenced := 0,
    place := Place.none, uid := 0 }

/-! ## Comb -/

/-- A mode of a comb-store bank (R236). -/
inductive BankMode where
  | off | cache | scratch | fifo
  deriving DecidableEq, Repr

/-- An entry of a FIFO bank: its words, and for an ordered bank its key (R360). -/
structure FifoEnt where
  words : List Word
  time : DWord
  ordinal : Nat
  deriving DecidableEq, Repr

/-- A comb-store bank: its mode, and as a FIFO its kind, owner, resident and spilled entries in arrival order,
accepted pushes still to be written, release bound and release-all state (R236, R240, R360 to R362). -/
structure Bank where
  mode : BankMode
  ord : Bool
  owner : Nat
  ents : List FifoEnt
  spilled : List FifoEnt
  bound : DWord
  releaseAll : Bool
  deriving DecidableEq, Repr

/-- A bank of a mode with an empty FIFO side. -/
def Bank.ofMode (m : BankMode) : Bank := ⟨m, false, 0, [], [], 0, false⟩

/-- A translation held in a TLB (R200): context, page base, page size, the leaf entry. -/
structure TlbEnt where
  ctx : Nat
  base : Nat
  size : Nat
  leaf : Nat
  deriving DecidableEq, Repr

/-- A cached descriptor (R207): context, number, the 64 bytes. -/
structure DescEnt where
  ctx : Nat
  n : Nat
  bytes : List Byte
  deriving DecidableEq, Repr

/-- A tile of a context's tensor (R230): tensor id and tile coordinates, and for a REPL descriptor the die whose copy its
line is filled from, 36 otherwise (R234). -/
structure TileRef where
  die : Nat
  ctx : Nat
  tensor : Nat
  coords : List Nat
  deriving DecidableEq, Repr

/-- An L1 line (R242): the CACHE bank that holds it (R240), the physical line number, or the sector of a tile, and its
bytes. -/
structure L1Line where
  bank : Nat
  line : Nat
  tile : Option (TileRef × Nat)
  bytes : List Byte
  deriving DecidableEq, Repr

/-- A line of the instruction cache (R244): its number, the number of the fill that brought it, its bytes, and its words that
had an uncorrectable error in memory, which it does not hold (R249). -/
structure IcLine where
  line : Nat
  gen : Nat
  bytes : List Byte
  bad : List Nat
  deriving DecidableEq, Repr

/-- An event record (R354, R355): its four words, whether it came from the mesh or the hive controller, and the clk at
which it was posted. -/
structure EvRec where
  w0 : Word
  w1 : Word
  w2 : Word
  w3 : Word
  remote : Bool
  clk : Nat
  /-- For COPYDONE and CREST, the scope of the acquire an EVPOP makes (R359). -/
  acq : Option Nat
  deriving DecidableEq, Repr

/-- A ready-queue entry (R330): the record, context, clk of entry and the tie rank of that clk. -/
structure ReadyEnt where
  uid : Nat
  task : TaskRec
  ctx : Nat
  entered : Nat
  rank : Nat
  deriving DecidableEq, Repr

/-- What a task-table slot holds (R329, R389): the sequence number, and the task with its counter; a task with
`roomOnly` waits only for room in the ready queue. -/
structure TaskSlot where
  uid : Nat
  seq : Nat
  task : Option TaskRec
  ctx : Nat
  counter : Nat
  roomOnly : Bool
  entered : Nat
  deriving DecidableEq, Repr

/-- A named barrier (R379): expected count (0 unset), arrivals, completed phases. -/
structure Barrier where
  expect : Nat
  arrivals : Nat
  phases : Nat
  deriving DecidableEq, Repr

/-- A team on a comb (R26 to R28, R307): a task is a team of one group. -/
structure Team where
  ctx : Nat
  grid : Option Nat
  index : Nat
  isTask : Bool
  groups : Nat
  live : Nat
  granules : List Nat
  barriers : List Barrier
  /-- (core × 4 + role, registers) of the role pools (R100, R173). -/
  pools : List (Nat × Nat)
  tiles : List Nat
  seq : Option Nat
  param : DWord
  prio : Nat
  deriving DecidableEq, Repr

/-- What a lane of a load reads: its virtual address, the location of each byte with the bits taken from them, the
tile and the offset in it for a tile access, the memory type code of the page, bytes it takes from its task's commit
buffer instead (R282), and for a lane outside a tensor its FILL value (R289). -/
structure LaneRead where
  lane : Nat
  va : Nat
  locs : List Nat
  bitOff : Nat
  bits : Nat
  tile : Option (TileRef × Nat)
  mtype : Nat
  /-- (byte, value, bit mask). -/
  patch : List (Nat × Byte × Byte)
  fill : Option Nat
  deriving DecidableEq, Repr

/-- How a loaded value is laid into registers: the width its sign is extended from, or 0, and the destination registers. -/
structure LoadShape where
  sext : Nat
  dst : Nat
  regs : Nat
  deriving DecidableEq, Repr

/-- The receiver of a COPYM (R299): the name it was listed under, the die and the logical comb that named at issue, the
scratch addresses of the tile and of a barrier, and whether it has failed. -/
structure CopyRecv where
  name : Word
  die : Option Nat
  lcomb : Nat
  addr : Nat
  barrier : Option Nat
  failed : Bool
  deriving DecidableEq, Repr

/-- A copy as issued and as far as it has come (R294 to R300, R347): its instruction's OP, the operand values it
copied, NTF and RU, its transaction barrier, how many sectors it has and which are done, the receivers of a COPYM, the
address at which it pauses, whether it has ended by a fault or been cancelled, and whether its replicas are
invalidated. -/
structure CopyOp where
  op : Nat
  nums : List Nat
  ntf : Bool
  ru : Bool
  barrier : Option Nat
  sectors : Nat
  done : List Nat
  recvs : List CopyRecv
  paused : Option Nat
  ended : Bool
  ruDone : Bool
  deriving DecidableEq, Repr

/-- The kind of an asynchronous operation. -/
inductive OpKind where
  /-- A load, atomic with return, GETV or LDTE: the shape, the lanes not served yet, the values of served lanes,
  whether its lanes are served at one instant (R264), whether it may use and fill the L1, whether it is an acquire,
  and the atomic lanes still to be performed. -/
  | load (shape : LoadShape) (pending : List LaneRead) (got : List (Nat × Nat)) (together l1 acq : Bool) (atoms : Nat)
  /-- Values that land as they are: XPERM, FPOP, TBARR. -/
  | values (writes : List RegWrite)
  /-- A copy. -/
  | copy (c : CopyOp)
  /-- PUTV and REDV: complete once the stores of this number are performed or captured. -/
  | remote (items : List Nat)
  /-- A message or a push counted in SN, complete once captured, or once answered when a register waits for it. -/
  | message (dst : Option Nat) (answer : Option Nat)
  /-- A primitive emission: complete when the router has taken its primitives. -/
  | emit (left : Nat)
  /-- An NRED on a tree and round: the scratch addresses of its contribution and its result, its status register, and
  its status once it has ended. -/
  | nred (tree round src result : Nat) (dst : Option Nat) (status : Option Nat)
  /-- A WPOST of a step; done once the step is present. -/
  | wpost (ring step : Nat) (src : Nat) (scratch : Bool) (present : Bool)
  deriving DecidableEq, Repr

/-- An asynchronous operation in its outstanding class (R270, R387): 0 LD, 1 CP, 2 RM, 3 SN. -/
structure AsyncOp where
  uid : Nat
  owner : Agent
  ownerUid : Nat
  ctx : Nat
  team : Nat
  cls : Nat
  scope : Nat
  release : Option Nat
  /-- its issuer's accesses that happen before it: those with a lower number (R269, R276). -/
  after : Nat
  /-- it is an engine operation, an agent of its own (R252); it is a load with INV = 1 (R267). -/
  engine : Bool
  inv : Bool
  kind : OpKind
  /-- the clk before which its result does not land (R135, R286). -/
  due : Nat
  bad : List (Nat × Nat)
  deriving DecidableEq, Repr

/-- A posted pass (R308, R311): the opcode, the physical tile, TYPE or pair code, IMM20, the copied registers, the
descriptors of its tensors as they were checked, the stream PC, and its progress: KSTEP, whether it has been granted the
array, the number of its grant and whether its work is done, the address at which it pauses, when it became eligible, and
the MSTAT bits it will set. -/
structure Pass where
  uid : Nat
  seq : Nat
  op : Nat
  tile : Nat
  ty : Nat
  imm : Nat
  regs : List DWord
  descs : List (List Nat)
  pc : DWord
  kstep : Nat
  running : Bool
  grant : Nat
  fin : Bool
  paused : Option Nat
  eligibleAt : Nat
  excs : BitVec 2
  deriving DecidableEq, Repr

/-- A deferred arrival of a stream (R318, R436): after all passes posted before it. -/
structure Deferred where
  uid : Nat
  seq : Nat
  passes : List Nat
  pc : DWord
  barrier : Nat
  count : Nat
  /-- A ring step of a deferred WDONE instead of a barrier. -/
  wdone : Option (Nat × Nat)
  deriving DecidableEq, Repr

/-- A matrix sequencer held by a team (R111 to R113, R304, R306): its thread, whose `fstat` holds MSTAT, the team,
the seen-phase counts, whether it has executed EXIT, and the deferred arrivals. -/
structure Seq where
  th : Thread
  team : Nat
  seen : List Nat
  ended : Bool
  deferred : List Deferred
  deriving DecidableEq, Repr

/-- A user handler in progress (R182, R184): the trapped slot and its group, its context, TCAUSE and TPC, and the clk it
began. -/
structure Handler where
  slot : Nat
  uid : Nat
  ctx : Nat
  tcause : Nat
  tpc : DWord
  began : Nat
  saved : List Word
  /-- what `lk` held at the call: the firmware's dispatch loop, to which a RET transfers (R165, R182). -/
  ret : DWord
  deriving DecidableEq, Repr

/-- The steward of a comb (R16, R182, R183, R187), and the records its firmware has popped and keeps until their context is
restored (R359). -/
structure Steward where
  th : Thread
  winsel : Option Nat
  ctx : Option Nat
  handler : Option Handler
  kept : List EvRec
  deriving DecidableEq, Repr

/-- A message in flight or parked: what it carries. -/
inductive MsgBody where
  /-- A task record of SPAWN (no channel) or SEND; an answer number when a handle is awaited. -/
  | task (r : TaskRec) (channel : Option Nat) (answer : Option Nat)
  /-- DEPSET (`set`) or DEPDEC on a task-table slot, with the number of the request, or for a committed one with the PC
  of its instruction (R390). -/
  | dep (set : Bool) (handle : Word) (value : Nat) (answer commit : Option Nat)
  /-- FPUSH or WQPUSH entries for a bank. -/
  | push (ord : Bool) (bank : Nat) (ents : List FifoEnt)
  /-- A primitive packet for an ordered bank. -/
  | packet (bank : Nat) (ent : FifoEnt)
  /-- An event record for the comb's queue. -/
  | record (r : EvRec)
  /-- A crest's bound advance for an ordered bank (R414). -/
  | advance (bank : Nat) (time : DWord)
  deriving DecidableEq, Repr

/-- Where a message is: in its sender's outbound buffer before the first router, travelling to a die, or at the
comb. -/
inductive MsgStage where
  | outbound
  | mesh (die : Nat)
  | arrived (die comb : Nat)
  deriving DecidableEq, Repr

/-- A message (R20, R214 to R216, R374). -/
structure Msg where
  uid : Nat
  op : Nat
  ctx : Nat
  srcDie : Nat
  srcComb : Nat
  /-- The sending thread, for TRET's wait and the open batch of R21. -/
  sender : Option Nat
  name : Word
  carriesGen : Bool
  stage : MsgStage
  body : MsgBody
  deriving DecidableEq, Repr

/-- A task that has ended without a TRET of its own, whose last batch has not left (R191): its thread as it was. -/
structure Killed where
  th : Thread
  deriving DecidableEq, Repr


/-- A waiting RCLAIM (R174): the group, the team with its core and role, and a number that rises with the claims' issue. -/
structure Claim where
  uid : Nat
  tag : Nat
  num : Nat
  deriving DecidableEq, Repr

/-- A comb (R15). -/
structure Comb where
  clk : Nat
  /-- the clk from which each core's issue slot is free (R78, R87), and its port into the comb store (R135, R286). -/
  slotFree : List (Nat × Nat)
  port : List (Nat × Nat)
  /-- the TRAP records that wait on their slots' pending-trap bits (R180). -/
  pendTraps : List (Nat × EvRec)
  /-- the clk from which the comb may dequeue its next task (R331). -/
  deqAt : Nat
  banks : List Bank
  scratch : List Host.Cell
  /-- granule (bank × 16 + index) to a bit for each of its 2,048 words: written since it was allocated (R237, R351). -/
  written : List (Nat × Nat)
  /-- granule (bank × 16 + index) to the key of the team that holds it, plus 1. -/
  alloc : List (Nat × Nat)
  l1 : List L1Line
  icache : List IcLine
  dtlb : List TlbEnt
  itlb : List TlbEnt
  dcache : List DescEnt
  evq : List EvRec
  overflow : List EvRec
  ready : List ReadyEnt
  table : List (Nat × TaskSlot)
  /-- freed slots, each with the clk at which it was freed, in the order of reuse, and the next slot never used yet. -/
  freed : List (Nat × Nat)
  freshSlot : Nat
  rorder : List (Nat × Nat)
  groups : List (Nat × Thread)
  steward : Steward
  seqs : List (Nat × Seq)
  teams : List (Nat × Team)
  ops : List AsyncOp
  rclaims : List Claim
  passes : List Pass
  acc : List (Nat × Word)
  tileOwner : List (Nat × Nat)
  /-- copies and WPOSTs of frozen contexts, cancelled and not yet saved (R347). -/
  cancelled : List AsyncOp
  /-- slots freed by CTXSAVE.group, with the key of the team each belonged to, until the team is saved. -/
  savedSlots : List (Nat × Nat)
  killed : List Killed
  parked : List Msg
  /-- (context × 16 + flow, next SEQ) of the comb's batch sequences (R406). -/
  seqOut : List (Nat × Nat)
  errs : List SramErr
  /-- context × 2^64 + address of the lines or tiles whose dirty words an access found bad (R181, R249). -/
  lostData : List Nat
  /-- (grid, clk of its last admission here) (R332). -/
  admitted : List (Nat × Nat)
  deriving DecidableEq, Repr

/-- A steward at reset: registers 0 and MODE as R105 (log entry 3); it runs no program until its firmware calls one. -/
def Steward.reset : Steward := ⟨{ Thread.reset with stopped := true }, none, none, none, []⟩

/-- A comb after a start (R236, R329): banks 0 to 3 CACHE, 4 to 15 SCRATCH, everything empty. -/
def Comb.reset : Comb :=
  { clk := 0, slotFree := [], port := [], pendTraps := [], deqAt := 0, banks := List.replicate 4 (Bank.ofMode .cache) ++ List.replicate 12 (Bank.ofMode .scratch),
    scratch := [], written := [], alloc := [], l1 := [], icache := [], dtlb := [], itlb := [], dcache := [], evq := [],
    overflow := [], ready := [], table := [], freed := [], freshSlot := 0, rorder := [], groups := [],
    steward := Steward.reset, seqs := [], teams := [], ops := [], rclaims := [], passes := [],
    acc := [], tileOwner := [], cancelled := [], savedSlots := [], killed := [], parked := [], seqOut := [], errs := [], lostData := [], admitted := [] }

/-! ## Die -/

/-- A comb-map entry that differs from the numbering of an unbroken die (R212): physical comb, CHG, CV. -/
structure CombEnt where
  phys : Nat
  chg : Nat
  cv : Bool
  deriving DecidableEq, Repr

/-- A cairn entry (R209). -/
structure Cairn where
  dead : Bool
  field : Bool
  deriving DecidableEq, Repr

/-- A flow as a frontier unit holds it (R398, R399, R402). -/
structure Flow where
  ctx : Nat
  num : Nat
  widths : List Nat
  chan : Nat
  nloc : Nat
  dieset : List Nat
  failed : Bool
  /-- location M × 64 + L to the summary byte. -/
  summ : List (Nat × Nat)
  /-- counts resident in the pending-time table, and spilled ones (R408). -/
  counts : List CountEnt
  spilled : List CountEnt
  deriving DecidableEq, Repr

/-- What a subscription does when its crest fires (R414); targets as a die and a logical comb. -/
inductive SubAction where
  | post (die lcomb : Nat)
  | spawn (r : TaskRec) (die lcomb : Nat)
  | fifo (die lcomb bank : Nat)
  | ring (num : Nat)
  deriving DecidableEq, Repr

/-- A crest subscription (R413): armed for a location and a time of a flow by an agent of a comb. -/
structure Sub where
  ctx : Nat
  flow : Nat
  loc : Nat
  time : DWord
  action : SubAction
  ck : Nat
  /-- for a standing subscription, the last frontier acted on, with `none` above every time; `none` before the first. -/
  last : Option (Option Nat)
  deriving DecidableEq, Repr

/-- A batch (R406) with the dies that still have to acknowledge it. -/
structure Batch where
  ctx : Nat
  flow : Nat
  sender : Nat
  seq : Nat
  kind : Nat
  ents : List CountEnt
  /-- dies the batch has not reached yet, and dies whose acknowledgement is awaited. -/
  toReach : List Nat
  toAck : List Nat
  deriving DecidableEq, Repr

/-- A CSUB request on its way to the frontier unit (R415), or the registration of a ring's subscription under its entry,
which waits for the batch that carries the ring's hold, named by its place in `applied` and its SEQ (R432). -/
structure CsubReq where
  uid : Nat
  agent : Agent
  cancel : Option Nat
  sub : Option Sub
  holdsPoint : Bool
  ring : Option (Nat × Nat × Nat)
  /-- the number of the thread that asked. -/
  issuer : Nat
  deriving DecidableEq, Repr

/-- A primitive handed to the bin router (R370). -/
structure Prim where
  ctx : Nat
  rset : Nat
  comb : Nat
  sender : Nat
  opUid : Nat
  verts : List Word
  attr : Word
  set : Nat
  time : DWord
  ordinal : Nat
  deriving DecidableEq, Repr

/-- An input of a tree's node (R427): its direction (0 LOCAL to 4 W), its round, its words and its contributions; none where it
stands for a child whose partial went another way (R429). -/
structure TreeIn where
  dir : Nat
  round : Nat
  words : List Word
  n : Nat
  deriving DecidableEq, Repr

/-- A reduction-tree entry (R425). -/
structure Tree where
  ctx : Nat
  parent : Nat
  mask : Nat
  op : Nat
  ty : Nat
  count : Nat
  round : Nat
  /-- the inputs that have arrived, of rounds whose result has not. -/
  inputs : List TreeIn
  /-- the round whose partial this node has sent on, while its result has not come. -/
  sent : Option Nat
  /-- a result on its way down: round, words, contributions. -/
  result : Option (Nat × List Word × Nat)
  deriving DecidableEq, Repr

/-- A waggle ring at a member (R431 to R437): the fields of its record, with `pk` for its step counter, a peer as a
physical die or 2^31 + a fabric port, and the entry of its subscription. -/
structure Ring where
  ctx : Nat
  num : Nat
  /-- the physical comb that created it. -/
  comb : Nat
  key : Nat
  members : Nat
  idx : Nat
  slots : Nat
  cons : Nat
  bytes : Nat
  nstep : Nat
  base : Nat
  t0 : DWord
  flow : Nat
  loc : Nat
  pk : Nat
  succ : Nat
  pred : Nat
  sub : Nat
  /-- steps present and not finished, the first step whose entries have not been sent, the lowest unfinished step. -/
  present : List Nat
  counted : Nat
  lo : Nat
  /-- WDONEs of a step; grants held; steps forwarded and posted; transfers captured by the predecessor and on their way;
  grants to the predecessor that found no place. -/
  dones : List (Nat × Nat)
  grants : List Nat
  forwarded : List Nat
  posted : List Nat
  inbound : List (Nat × List Byte)
  refused : List Nat
  /-- peers lost, and whether the whole ring has ended. -/
  lost : List Nat
  stopped : Bool
  deriving DecidableEq, Repr

/-- A forage counter (R392). -/
structure Forage where
  prio : Nat
  nextDie : Nat
  ctx : Nat
  grid : Nat
  limit : Nat
  next : Nat
  deriving DecidableEq, Repr

/-- A Zhevkai die: its tables and its die-level units. -/
structure Die where
  live : Bool
  gen : BitVec 4
  /-- logical die number to physical index. -/
  lmap : List Nat
  /-- combs in a logical row: 12, or 11 on a graded die (R14). -/
  grade : Nat
  /-- logical combs that differ from 13 × row + column, with CHG and CV. -/
  cmap : List (Nat × CombEnt)
  cairn : List (Nat × Cairn)
  /-- the PORT entries that differ from X-then-Y: destination die to port (R212, R213). -/
  ovr : List (Nat × Nat)
  dtlb : List TlbEnt
  dcache : List DescEnt
  /-- replica directory: frame number to presence mask without the owner's bit (R225). -/
  replicas : List (Nat × Nat)
  /-- render-set tables: set × 4096 + address to word (R217, R218). -/
  views : List (Nat × Word)
  viewSets : List (Nat × Word)
  owners : List (Nat × Word)
  router : List Prim
  drops : Nat
  trees : List (Nat × Tree)
  flows : List Flow
  /-- entry number to the subscription. -/
  subs : List (Nat × Sub)
  /-- (context × 16 + flow) × 2^16 + sender, to the next SEQ to apply. -/
  applied : List (Nat × Nat)
  batchIn : List Batch
  csubs : List CsubReq
  rings : List Ring
  /-- grants on their way or waiting for their ring: key × 256 + context, and the step. -/
  grantsWaiting : List (Nat × Nat)
  /-- the counters in use among the 64 (R392), by their places. -/
  forage : List (Nat × Forage)
  errCounts : List (Nat × Nat)
  stretched : Bool
  /-- the power cap in watts (R456). -/
  cap : Nat
  /-- heartbeats missed in a row (R455). -/
  missed : Nat
  /-- next SEQ of the batches of this die's frontier unit, by context × 16 + flow. -/
  seqOut : List (Nat × Nat)
  /-- contexts frozen on the die's combs (R346). -/
  frozen : List Nat
  deriving DecidableEq, Repr

/-- A die after a cold start of a package without dead parts (log entry 5). -/
def Die.reset : Die :=
  { live := true, gen := 0, lmap := List.range 36, grade := 12, cmap := [], cairn := [], ovr := [], dtlb := [],
    dcache := [], replicas := [], views := [], viewSets := [], owners := [], router := [], drops := 0, trees := [],
    flows := [], subs := [], applied := [], batchIn := [], csubs := [], rings := [], grantsWaiting := [],
    forage := [], errCounts := [], stretched := false, cap := 360, missed := 0, seqOut := [], frozen := [] }

/-! ## Memory -/

/-- The memory type of a page (R228). -/
inductive MType where
  | normal | wc | device | strong
  deriving DecidableEq, Repr

/-- A linear L2 line (R230): valid and dirty bits and data per word, the context that last dirtied it, pin with the
context that set it. -/
structure Line where
  valid : BitVec 32
  dirty : BitVec 32
  words : List (Nat × Word)
  dirtier : Nat
  pin : Option Nat
  deriving DecidableEq, Repr

/-- A tile line (R230, R234): its tile, the physical page filled from, the location of each word (`none` for a FILL
word), valid, dirty, data, whether the descriptor is REPL, and the context that last dirtied it. -/
structure TileLine where
  tile : TileRef
  page : Nat
  addrs : List (Option Nat)
  valid : BitVec 256
  dirty : BitVec 256
  words : List (Nat × Word)
  dirtier : Nat
  deriving DecidableEq, Repr

/-- What a pending write does at its home. -/
inductive StoreKind where
  /-- Bytes with a bit mask each: (location, value, mask). -/
  | bytes (items : List (Nat × Byte × Byte))
  /-- Bits of a tile line's words: the line as it is allocated on a miss, and (word, value, mask). -/
  | tile (line : TileLine) (items : List (Nat × Word × Word))
  /-- An atomic on the bytes of a lane: the operation (15: compare and swap), the locations, the datum and the
  compared value. -/
  | atomic (op : Nat) (lane va : Nat) (locs : List Nat) (datum cmp : Nat)
  deriving DecidableEq, Repr

/-- A write or atomic on its way to its home slice (R257, R261, R285, R291). -/
structure Store where
  uid : Nat
  /-- the agent it belongs to: a thread, or an engine operation, which is an agent of its own, with its issuer (R252). -/
  agentUid : Nat
  issuer : Nat
  ctx : Nat
  die : Nat
  comb : Nat
  /-- the scope of a release that must complete first, and the scope of its acquire. -/
  release : Option Nat
  acq : Option Nat
  /-- its issuer's accesses that happen before an engine operation's write: those with a lower number (R269, R276). -/
  after : Nat
  mtype : Nat
  kind : StoreKind
  /-- the operation that receives an atomic's old value, or that the write belongs to. -/
  op : Option Nat
  deriving DecidableEq, Repr

/-- A performed remote write whose acknowledgement is on its way (R257). -/
structure AckWait where
  uid : Nat
  agentUid : Nat
  issuer : Nat
  die : Nat
  host : Bool
  deriving DecidableEq, Repr

/-- A merging fill in progress (R232): a linear sector by line number, or a tile line and sector, which is read after the
writes sent before the access it is for: those with a lower number (R274). -/
structure Fill where
  line : Nat
  tile : Option (TileRef × Nat)
  before : Nat
  deriving DecidableEq, Repr

/-! ## Contexts, grids, hive controller, adapter -/

/-- A context record (R181, R195). -/
structure CtxRec where
  ptroot : Nat
  dtbase : DWord
  dtcount : Nat
  iset : List Nat
  rset : Nat
  dbg : Bool
  handler : DWord
  arg : DWord
  causes : DWord
  /-- how many items the firmware can make its spill area hold on a comb (R333). -/
  spillCap : Nat
  /-- while it ends: the combs that have not torn it down, as a die and a physical comb. -/
  ending : Option (List (Nat × Nat))
  /-- CTXEND records accepted for it: address, DONEADDR, DONEVAL. -/
  endRecs : List (Nat × DWord × DWord)
  deriving DecidableEq, Repr

/-- What a kernel's directives declare (R26, R27, R97), by context and entry address. -/
structure Kernel where
  ctx : Nat
  entry : DWord
  roles : List (Nat × Nat)
  scratch : Nat
  macc : Nat
  mstream : Option DWord
  deriving DecidableEq, Repr

/-- A grid that a launch record started (R29, R30, R449, R450). -/
structure Grid where
  num : Nat
  ctx : Nat
  entry : DWord
  param : DWord
  prio : Nat
  count : Nat
  ring : List Nat
  doneAddr : DWord
  doneVal : DWord
  recAddr : Nat
  /-- accepted, and waiting for free forage counters; its number is then above 255. -/
  waiting : Bool
  retired : Nat
  lost : Nat
  launched : Nat
  deriving DecidableEq, Repr

/-- The Redex adapter (R446, R447, R451, R452). -/
structure Adapter where
  faccept : BitVec 128
  accepted : Bool
  qbase : DWord
  qsize : Nat
  qbaseOk : Bool
  qsizeOk : Bool
  qtail : Nat
  qhead : Nat
  nbase : DWord
  nbaseOk : Bool
  nsize : Nat
  nsizeOk : Bool
  nhead : Nat
  ntail : Nat
  held : List (List Word)
  dropped : Bool
  /-- sequence number expected next on each link, and flits received in order. -/
  rxSeq : List Nat
  /-- the sequence number of the next flit sent on each link, and the replay buffers: the flits sent and not yet acknowledged,
  with their links (R446). -/
  txSeq : List Nat
  replay : List (Nat × Flit)
  deriving DecidableEq, Repr

/-- An attestation request (R461): its number since the start, its nonce, its leaf once one is taken, and what the report gives of
the moment of the request: the slots, the start count, the applied features, GEN, NLIVE, ERR and the highest alarm. -/
structure Report where
  num : Nat
  nonce : BitVec 256
  leaf : Option Nat
  slots : List (BitVec 256)
  starts : Nat
  features : BitVec 128
  gen : Nat
  nlive : Nat
  err : Nat
  alarm : Nat
  deriving DecidableEq, Repr

/-- What the hive controller was given at manufacture (R457): the vendor's public keys, the public root of the identity key,
the package serial number, and the certificate that binds the two. -/
structure Identity where
  vendorKey : BitVec 512
  idRoot : BitVec 512
  serial : Nat
  cert : List Byte
  deriving DecidableEq, Repr

/-- The shadow tables of a die, as the hive controller last wrote them (R215, R251): its generation, LMAP, the combs of a
logical row, the comb map, and the PORT overrides. -/
structure Shadow where
  gen : BitVec 4
  lmap : List Nat
  grade : Nat
  cmap : List (Nat × CombEnt)
  ovr : List (Nat × Nat)
  deriving DecidableEq, Repr

/-- The hive controller (R447, R454 to R463). -/
structure Hive where
  state : Nat
  err : Nat
  foffer : BitVec 128
  nextLeaf : Nat
  floors : List Nat
  starts : Nat
  meas : List (BitVec 256)
  stored : List (BitVec 256)
  reports : List Report
  /-- the status of each request since the start, by its number. -/
  statuses : List Nat
  released : List Report
  /-- the private seeds of the identity key, until they are erased; the volatile keys of the current start (R457, R462). -/
  seeds : Option (BitVec 256)
  session : Option (BitVec 256)
  identity : Identity
  /-- die to its shadow tables, where they differ from those of an unbroken package at generation 0. -/
  shadow : List (Nat × Shadow)
  coldOnly : Bool
  alarm : Nat
  /-- what the firmware has reported to the driver of traps that ended their contexts: the context and the trap registers
  (R181); the notice has no place for TVAL (R451). -/
  trapReports : List (Nat × TrapRegs)
  /-- the ownership entries cleared at retirements, as reported to the driver: a die, and the set and entry (R218). -/
  ownerReports : List (Nat × Nat)
  /-- the index ranges of the teams lost at retirements, as reported to the driver: the grid, the first index and the first one
  after (R394). -/
  teamReports : List (Nat × Nat × Nat)
  tripErr : Bool
  /-- retirements found and not yet applied: (die, comb or none, cause). -/
  pending : List (Nat × Option Nat × Nat)
  /-- the retired list: dies retired since the last cold start (R454), and the dies that failed its training. -/
  retired : List Nat
  untrained : List Nat
  portDown : List Nat
  /-- fabric-port pairing: port to peer identifier. -/
  pairing : List (Nat × Nat)
  /-- registers without behaviour of their own. -/
  regs : List (Nat × DWord)
  power : Bool
  deriving DecidableEq, Repr

/-! ## Package -/

/-- The mirror of an atomic task (R342): the task's number, its record as created, its context, its comb as a die and a
logical index, its clk of entry, and the die that holds the mirror. -/
structure JournalEnt where
  uid : Nat
  task : TaskRec
  ctx : Nat
  die : Nat
  lcomb : Nat
  entered : Nat
  home : Nat
  deriving DecidableEq, Repr

/-- An atomic task past its commit mark (R341): its comb, the logical index of that comb, its thread as it stood, the entries
still to perform, and the number of the engine operation that performs them (R252). -/
structure Commit where
  key : Nat
  lcomb : Nat
  th : Thread
  ents : List CommitEnt
  uid : Nat
  deriving DecidableEq, Repr

/-- What a broadcast asks of every die: TLBINV with its range and the frame it purges as place, frame, size and
interleave set (R203, R204); a word of a view (0), view-set (1) or ownership (2) table (R219); TDINV (R208); TSYNC
with its scope and comb (R277); CCTL.icinv (R245); freeze and thaw (R346); a flow's image (R403). -/
inductive BcastBody where
  | tlbinv (ctx page : Option Nat) (purge : Option (Nat × Nat × Nat × List Nat))
  | table (kind key : Nat) (x : Word)
  | tdinv (ctx : Nat) (n : Option Nat)
  | tsync (ctx : Nat) (n : Option Nat) (scope ck : Nat)
  | icinv
  | freeze (ctx : Nat)
  | thaw (ctx : Nat)
  | flow (f : Flow)
  deriving DecidableEq, Repr

/-- A broadcast under way: who waits for it, and the dies that have not acknowledged it. -/
structure Bcast where
  uid : Nat
  agent : Agent
  agentUid : Nat
  dies : List Nat
  body : BcastBody
  deriving DecidableEq, Repr

/-- What a save image holds beyond its stated bytes (R349, R351; log entry 25). -/
inductive ImageBody where
  /-- A group, its slot, its waiting RCLAIM, and whether its TRAP record is still to be dispatched. -/
  | group (th : Thread) (slot : Nat) (claim : Option Claim) (trap : Bool)
  /-- A team under its key, its sequencer, its cells by (place of the tile, cell), its passes. -/
  | team (key : Nat) (t : Team) (seq : Option Seq) (acc : List (Nat × Nat × Word)) (passes : List Pass)
  /-- The context's task-table slots, its ready queue and the clk of the save. -/
  | queues (slots : List (Nat × TaskSlot)) (ready : List ReadyEnt) (clk : Nat)
  | fifo (bank : Nat) (b : Bank)
  | copies (ops : List AsyncOp)
  deriving DecidableEq, Repr

/-- A save image by its number: the context, the die and logical comb it was saved from, and whether it has been loaded
again. -/
structure Image where
  num : Nat
  ctx : Nat
  die : Nat
  lcomb : Nat
  loaded : Bool
  body : ImageBody
  deriving DecidableEq, Repr

/-- The machine. -/
structure State where
  /-- the model's own: events that take the next steps, and the agent that issues when there is none (log entry 1). -/
  agenda : List Instr
  cur : Option Agent
  /-- the model's own: the number of the next free value (log entry 2). -/
  freeN : Nat
  /-- the model's own: the next number of an operation, message or thread. -/
  nextUid : Nat
  /-- die × 256 + physical comb. -/
  combs : List (Nat × Comb)
  dies : List (Nat × Die)
  hbm : List Host.Cell
  host : List Host.Cell
  /-- words with an uncorrectable error (R249): bit 0 in HBM, bit 1 in their linear L2 line, bit 2 in their tile line. -/
  badWords : List (Nat × Nat)
  l2 : List (Nat × Line)
  tiles : List TileLine
  fills : List Fill
  stores : List Store
  acks : List AckWait
  msgs : List Msg
  batches : List Batch
  bcasts : List Bcast
  ctxs : List (Nat × CtxRec)
  kernels : List Kernel
  grids : List Grid
  adapter : Adapter
  hive : Hive
  journal : List JournalEnt
  commits : List Commit
  images : List Image
  deriving DecidableEq, Repr

/-- The stops of the machine. -/
inductive Fault where
  /-- The package has no power (R456, R458) and nothing is on its agenda. Raised by `step`. Safe: only a start goes on. -/
  | unpowered
  /-- The package is not in STATE 3 (R447, R454, R462) and nothing is on its agenda. Raised by `step`. Safe: it is
  halted until a start. -/
  | halted
  deriving DecidableEq, Repr

/-- Instructions without a meaning. -/
inductive Refusal where
  /-- The instruction has no meaning in this model yet. Raised by `exec`. Safe: nothing is claimed of it. -/
  | notModelled (mnemonic : String)
  deriving DecidableEq, Repr

/-- The shadow tables of a die of an unbroken package at generation 0. -/
def Shadow.reset : Shadow := ⟨0, List.range 36, 12, [], []⟩

/-- The adapter after a start (R447). -/
def Adapter.reset : Adapter :=
  { faccept := 0, accepted := false, qbase := 0, qsize := 0, qbaseOk := false, qsizeOk := false, qtail := 0,
    qhead := 0, nbase := 0, nbaseOk := false, nsize := 0, nsizeOk := false, nhead := 0, ntail := 0, held := [],
    dropped := false, rxSeq := [0, 0], txSeq := [0, 0], replay := [] }

/-- The measurements of the firmware images after reset (R460): those of images with version 0 and an empty body (log entry 3). -/
def imageSlots : List (BitVec 256) :=
  [0x35f3f81d3346e4989a576949644df41f7053680da1c3b6bc4a47e8fbb741e9c1, 0x6368614f5596e95159bf84af5b40adaadf3f6e77ec6f2f281287788a9f958735,
   0x1bbdd7d49febc41e7faa647f24570d1db1dd38226bb7ed0b9923ed57213ee8e8]

/-- The measurement of the cairn tables of a package without dead parts and of an empty retired list (R460). -/
def partSlot : BitVec 256 := 0xe0de3b014caa462e7d1f8c2f129c7470be1dc17cd6b9f6953ee7c402ffe0a06d

/-- The hive controller after a cold start (R454, R460): the six features offered, slots as measured (log entry 3). -/
def Hive.reset : Hive :=
  { state := 3, err := 0, foffer := 0x3F, nextLeaf := 0, floors := [0, 0, 0], starts := 1,
    meas := imageSlots ++ [partSlot, 0, 0, 0, 0], stored := imageSlots, reports := [], statuses := [], released := [],
    seeds := some 0, session := some 0, identity := ⟨0, 0, 0, []⟩, shadow := [], coldOnly := false, alarm := 0, trapReports := [], ownerReports := [], teamReports := [], tripErr := false, pending := [], retired := [], untrained := [],
    portDown := [], pairing := [], regs := [], power := true }

/-- The machine right after a cold start of a package without dead parts: 36 live dies, STATE 3, generation 0, HBM
zero, nothing running (R4, R454; log entries 1 to 5). -/
def State.reset : State :=
  { agenda := [], cur := none, freeN := 0, nextUid := 1, combs := [], dies := [], hbm := [], host := [],
    badWords := [], l2 := [], tiles := [], fills := [], stores := [], acks := [], msgs := [], batches := [], bcasts := [],
    ctxs := [], kernels := [], grids := [], adapter := Adapter.reset, hive := Hive.reset, journal := [], commits := [], images := [] }

end Sys2Proof.Machine
end

