-- ==== Sys2Proof/Machine/Report.lean ====
section
/-! DEFINITION. Combs and dies by their keys, names and generations (R10 to R20, R212), event records (R354 to R357),
notices to the host (R451), and the end of a context (R181, R356).
Model's choices in this file: log entries 12, 15, 33, 51. -/

namespace Sys2Proof.Machine

/-! ## Combs and dies -/

/-- The comb and the die with a key. -/
def State.comb (s : State) (ck : Nat) : Comb := Sparse.get Comb.reset s.combs ck
def State.setComb (s : State) (ck : Nat) (c : Comb) : State := { s with combs := Sparse.set Comb.reset s.combs ck c }
def State.die (s : State) (d : Nat) : Die := Sparse.get Die.reset s.dies d
def State.setDie (s : State) (d : Nat) (x : Die) : State := { s with dies := Sparse.set Die.reset s.dies d x }
def State.modComb (s : State) (ck : Nat) (f : Comb → Comb) : State := s.setComb ck (f (s.comb ck))
def State.modDie (s : State) (d : Nat) (f : Die → Die) : State := s.setDie d (f (s.die d))

/-- The key of a comb, and its parts. -/
def combKey (die comb : Nat) : Nat := die * 256 + comb
def keyDie (ck : Nat) : Nat := ck / 256
def keyComb (ck : Nat) : Nat := ck % 256

/-! ## Names and generations (R10 to R20, R212) -/

/-- The number of combs of a die's logical grid (R14). -/
def Die.combs (d : Die) : Nat := 12 * d.grade

/-- The comb-map entry of a logical comb: by number on an unbroken die, otherwise as listed (R210, R212). -/
def Die.combEnt (d : Die) (l : Nat) : CombEnt :=
  match Sparse.find? d.cmap l with
  | some e => e
  | none => ⟨13 * (l / d.grade) + l % d.grade, 0, false⟩

/-- The logical index of a physical comb; 0xFF for a spare or dead one (R209). -/
def Die.lcomb (d : Die) (phys : Nat) : Nat :=
  match (List.range d.combs).find? fun l => (d.combEnt l).phys = phys with
  | some l => l
  | none => 0xFF

/-- The logical number of a physical die, on a die's tables (R11). -/
def Die.ldie (d : Die) (die : Nat) : Nat :=
  match d.lmap.findIdx? (· = die) with
  | some i => i
  | none => 0

/-- The name of a die and of a comb, as the die itself reads them (R17, R18). -/
def State.dieName (s : State) (die : Nat) : Nat := (s.die die).gen.toNat * 64 + (s.die die).ldie die
def State.combName (s : State) (ck : Nat) : Nat :=
  s.dieName (keyDie ck) * 256 + (s.die (keyDie ck)).lcomb (keyComb ck)

/-- What a die name or a comb name fails on a die: a name of nothing, or a stale generation (R18, R20). -/
inductive NameRes where
  | nothing
  | stale
  | ok (die lcomb : Nat)
  deriving DecidableEq, Repr

/-- A comb name checked at issue: what it names first (R328), then its generation (R20). -/
def State.nameRes (s : State) (die : Nat) (name : Nat) : NameRes :=
  let d := s.die die
  match d.lmap[name / 256 % 64]? with
  | none => .nothing
  | some phys =>
    if name / 2 ^ 18 ≠ 0 then .nothing
    else if (s.die phys).combs ≤ name % 256 then .nothing
    else if name / 2 ^ 14 % 16 ≠ d.gen.toNat then .stale
    else .ok phys (name % 256)

/-- The key of the physical comb that holds a logical index of a die. -/
def State.lkey (s : State) (die lcomb : Nat) : Nat := combKey die ((s.die die).combEnt lcomb).phys

/-- The physical indices of the live dies. -/
def State.liveDies (s : State) : List Nat := (List.range 36).filter fun d => (s.die d).live

/-- Whether a context is frozen on a comb (R346). -/
def State.isFrozen (s : State) (ck ctx : Nat) : Bool := (s.die (keyDie ck)).frozen.contains ctx

/-! ## Event records (R354 to R357) -/

/-- Word 0 of a record (R355). -/
def evHead (kind : Nat) (ctx : Option Nat) (src : Nat) : Word :=
  BitVec.ofNat 32 (kind + 2 ^ 16 * src + 2 ^ 24 * ctx.getD 0xFF)

/-- A record of a kind for a context. -/
def evRec (kind : Nat) (ctx : Option Nat) (src w1 w2 w3 : Nat) (remote : Bool) : EvRec :=
  ⟨evHead kind ctx src, BitVec.ofNat 32 w1, BitVec.ofNat 32 w2, BitVec.ofNat 32 w3, remote, 0, none⟩

/-- Whether a local source other than a trap may post now: the queue has room with nothing waiting, or the overflow
ring has an unreserved place (R357). Records from the mesh fill the reserved places first (log entry 51). -/
def Comb.canPost (c : Comb) : Bool :=
  (decide (c.evq.length < 512) && c.overflow.isEmpty) ||
  decide ((c.overflow.filter fun r => !r.remote).length + ((c.overflow.filter (·.remote)).length - 512) < 4096 - 512)

/-- Whether a record from the mesh or the hive controller finds a place (R357). -/
def Comb.canPostRemote (c : Comb) : Bool :=
  (decide (c.evq.length < 512) && c.overflow.isEmpty) || decide (c.overflow.length < 4096)

/-- The place of a record among those posted in one clk (R357): TRAP records by slot, engine records by the slot or the
sequencer of the issuer, the frontier unit's, then those from the mesh and the hive controller. -/
def EvRec.rank (r : EvRec) : Nat :=
  let kind := r.w0.toNat % 256
  let src := r.w0.toNat / 2 ^ 16 % 256
  if r.remote then 1024 else if kind = 1 then src else if src = 0xFF then 512 else 256 + src

/-- A record put behind those that stand before it (R354, R357); the list is in reverse order of posting. -/
def insertRecRev (r : EvRec) : List EvRec → List EvRec
  | [] => [r]
  | x :: xs => if x.clk = r.clk ∧ r.rank < x.rank then x :: insertRecRev r xs else r :: x :: xs

/-- A list of records with one more, in the order of R357. -/
def insertRec (r : EvRec) (l : List EvRec) : List EvRec := (insertRecRev r l.reverse).reverse

/-- A record put into the queue, or, while the queue is full or records wait there, into its place in the order of the queue and
the overflow ring behind it. -/
def Comb.post (c : Comb) (r : EvRec) : Comb :=
  let r := { r with clk := c.clk }
  if c.evq.length < 512 ∧ c.overflow.isEmpty then { c with evq := insertRec r c.evq }
  else
    let q := insertRec r (c.evq ++ c.overflow)
    { c with evq := q.take c.evq.length, overflow := q.drop c.evq.length }

/-- The TRAP record of a stopped group (R356). -/
def trapRecord (slot : Nat) (th : Thread) : EvRec :=
  evRec 1 th.place.ctx slot th.trap.tcause.toNat (th.trap.tpc.toNat % 2 ^ 32) th.trap.tmask.toNat false

/-- A pending TRAP record kept in slot order (R180). -/
def insertPend (slot : Nat) (r : EvRec) : List (Nat × EvRec) → List (Nat × EvRec)
  | [] => [(slot, r)]
  | x :: xs => if slot < x.1 then (slot, r) :: x :: xs else x :: insertPend slot r xs

/-- Whether a slot's pending-trap bit is set (R180). -/
def Comb.pendTrap (c : Comb) (slot : Nat) : Bool := c.pendTraps.any fun x => x.1 = slot

/-- Entries freed in the queue take pending TRAP records in slot order, then overflow records (R180, R357). -/
def Comb.refillEvq (c : Comb) : Comb :=
  let m := 512 - c.evq.length
  let evq := c.evq ++ (c.pendTraps.take m).map (·.2)
  let n := 512 - evq.length
  { c with evq := evq ++ c.overflow.take n, overflow := c.overflow.drop n, pendTraps := c.pendTraps.drop m }

/-- A record posted on a comb. -/
def State.post (s : State) (ck : Nat) (r : EvRec) : State := s.modComb ck fun c => c.post r

/-! ## Flits that the package sends (R446) -/

/-- The bytes 0 to 247 of a flit (R446): the header, the address unless it brings read data, and the payload; zeros fill the rest. -/
def flitBytes (f : Flit) : List Byte :=
  let head := leBytes 1 f.kind ++ leBytes 1 f.seq ++ leBytes 2 f.tag ++ leBytes 4 f.len
  head ++ ((if f.kind = 2 then [] else leBytes 8 f.addr) ++ f.payload ++ List.replicate 240 0).take 240

/-- The CRC-64 that a flit should have (R446). -/
def flitCrc (f : Flit) : BitVec 64 := Config.crc64 (leNat (flitBytes f))

/-- A flit sent on a link, with the next sequence number; it stays in the replay buffer until it is acknowledged (R446). -/
def State.sendFlit (s : State) (link kind tag addr : Nat) (payload : List Byte) : State :=
  let ad := s.adapter
  let seq := ad.txSeq.getD link 0
  let f : Flit := ⟨kind, seq, tag, payload.length, addr, payload, 0⟩
  { s with adapter := { ad with txSeq := ad.txSeq.set link ((seq + 1) % 256), replay := ad.replay ++ [(link, { f with crc := flitCrc f })] } }

/-- The link that carries what the package sends of itself: that of die (0,0) while it is live (R227, R454; log entry 34). -/
def State.hostLink (s : State) : Nat := if (s.die 0).live then 0 else 1

/-! ## Notices (R451) -/

/-- Whether the notice ring is set up and takes another entry: it is full when it holds all its entries but one, as the
host queue (R447, R451; log entry 12). -/
def Adapter.ringRoom (ad : Adapter) : Bool :=
  ad.nsizeOk && ad.nbaseOk && decide ((ad.ntail + 1) % ad.nsize ≠ ad.nhead)

/-- A notice written to the host ring, in a flit of its own; bit 31 of word 0 says that held ones have been dropped (R446, R451). -/
def State.putNotice (s : State) (words : List Word) : State :=
  let ad := s.adapter
  let w0 := (words.headD 0) ||| (if ad.dropped then 0x80000000 else 0)
  let bytes := ((w0 :: words.tail).flatMap fun (w : Word) => leBytes 4 w.toNat)
  let at' := ad.nbase.toNat + 16 * ad.ntail
  ({ s with host := Sparse.setRun 0 s.host at' bytes, adapter := { ad with ntail := (ad.ntail + 1) % ad.nsize, dropped := false } } : State).sendFlit s.hostLink 6 0 at' bytes

/-- A notice in its order: written, or held while the ring has no room; beyond 1,024 held ones the oldest is dropped
(R451). -/
def State.notice (s : State) (words : List Word) : State :=
  let ad := s.adapter
  if ad.ringRoom && ad.held.isEmpty then s.putNotice words
  else if ad.held.length < 1024 then { s with adapter := { ad with held := ad.held ++ [words] } }
  else { s with adapter := { ad with held := ad.held.drop 1 ++ [words], dropped := true } }

/-- The held notices written as far as the ring has room. -/
def State.drainNotices (s : State) : Nat → State
  | 0 => s
  | n + 1 =>
    match s.adapter.held with
    | [] => s
    | w :: rest =>
      if s.adapter.ringRoom then (({ s with adapter := { s.adapter with held := rest } } : State).putNotice w).drainNotices n
      else s

/-- A notice of a kind with three values. -/
def State.notify (s : State) (kind v1 v2 v3 : Nat) : State :=
  s.notice [BitVec.ofNat 32 kind, BitVec.ofNat 32 v1, BitVec.ofNat 32 v2, BitVec.ofNat 32 v3]

/-! ## Records sent to combs, and the end of a context (R356, R451) -/

/-- A record on its way to a comb from the mesh or the hive controller. -/
def State.sendRecord (s : State) (ck ctx : Nat) (r : EvRec) : State :=
  { s with nextUid := s.nextUid + 1, msgs := s.msgs ++ [⟨s.nextUid, 0, ctx, keyDie ck, keyComb ck, none, 0, false, .arrived (keyDie ck) (keyComb ck), .record r⟩] }

/-- A STEWMSG record: code, source and value (R356). -/
def stewMsg (code source val1 val2 : Nat) : EvRec := evRec 6 none 0xFF (code + 256 * source) val1 val2 true

/-- How many items a context's spill area can be made to hold on a comb (R333). -/
def State.spillCap (s : State) (ctx : Nat) : Nat :=
  match Sparse.find? s.ctxs ctx with
  | some c => c.spillCap
  | none => 0

/-- A forage counter of a die taken: the lowest free of the 64 (R392). -/
def Die.addForage (d : Die) (f : Forage) : Die :=
  match (List.range 64).find? fun k => (Sparse.find? d.forage k).isNone with
  | some k => { d with forage := Sparse.put d.forage k f }
  | none => d

/-- The grids of an ended context and their forage counters go; they never complete (log entry 33). -/
def State.dropGrids (s : State) (ctx : Nat) : State :=
  let s := s.liveDies.foldl (fun s d => s.modDie d fun x => { x with forage := x.forage.filter fun f => decide (f.2.ctx ≠ ctx) }) s
  { s with grids := s.grids.filter fun g => decide (g.ctx ≠ ctx) }

/-- One record on its way to each of a list of combs. -/
def State.sendRecords (s : State) (keys : List Nat) (ctx : Nat) (r : EvRec) : State :=
  { s with nextUid := s.nextUid + keys.length, msgs := s.msgs ++ ((List.range keys.length).zip keys).map fun x =>
      ⟨s.nextUid + x.1, 0, ctx, keyDie x.2, keyComb x.2, none, 0, false, .arrived (keyDie x.2) (keyComb x.2), .record r⟩ }

/-- Every numbered comb of every live die (log entry 15). -/
def State.allCombs (s : State) : List Nat := s.liveDies.flatMap fun d => (List.range (s.die d).combs).map fun l => s.lkey d l

/-- A context ends (R181, R356, R451): STEWMSG code 4 goes to every comb of every live die, and the driver is told with
notice kind 3. A context that is ending already ends once. -/
def State.endContext (s : State) (ctx reason cause pc : Nat) : State :=
  match Sparse.find? s.ctxs ctx with
  | none => s
  | some c =>
    if c.ending.isSome then s
    else
      let keys := s.allCombs
      let s := ({ s with ctxs := Sparse.put s.ctxs ctx { c with ending := some (keys.map fun ck => (keyDie ck, keyComb ck)) } } : State).dropGrids ctx
      (s.sendRecords keys ctx (stewMsg 4 1 ctx 0)).notify 3 ctx (reason + 256 * cause) pc

end Sys2Proof.Machine
end

