-- ==== Sys2Proof/Machine/Memory.lean ====
section
/-! DEFINITION. Memory: locations, home slices with their lines (R229 to R235), the walk of the page tables and the
TLBs (R196 to R204), placement (R221 to R227), the L1 (R242, R243), and when a read is served and a write performed
(R256, R257, R261). A location is a physical address, or a host address above `hostBase`.
Model's choices in this file: log entries 4, 8, 9, 53. -/

namespace Sys2Proof.Machine

/-- The key of an address of a context whose dirty data an access found bad (R181, R249). -/
def lostKey (ctx va : Nat) : Nat := ctx * 2 ^ 64 + va

/-! ## Locations and the bytes behind the caches -/

/-- Host addresses stand above every physical address, and scratch addresses of the combs above those: a location is
any of the three. -/
def hostBase : Nat := 2 ^ 60
def scratchBase : Nat := 2 ^ 62

/-- The location of a scratch address of a comb (R236). -/
def scratchLoc (ck addr : Nat) : Nat := scratchBase + ck * 2 ^ 21 + addr

/-- Whether a location lies in the host, or in scratch. -/
def isHost (loc : Nat) : Bool := decide (hostBase ≤ loc) && decide (loc < scratchBase)
def isScratch (loc : Nat) : Bool := decide (scratchBase ≤ loc)

/-- The die of a physical address (R221), or of a comb's scratch. -/
def locDie (loc : Nat) : Nat := if scratchBase ≤ loc then keyDie ((loc - scratchBase) / 2 ^ 21) else loc / 2 ^ 50

/-- The physical address of an offset on a die. -/
def dieLoc (die off : Nat) : Nat := die * 2 ^ 50 + off

/-- First offset of the firmware region, and the first offset that names nothing (R221). -/
def firmwareBase : Nat := 0xBC0000000
def hbmEnd : Nat := 0xC00000000

/-- The canonical form of a memory: addresses strictly rise, and no listed byte is 0, which is what an unlisted one reads as
(log entry 4). -/
def Memory.wf (m : List Host.Cell) : Bool := Sparse.wf 0 m

/-- The byte HBM, host memory or a comb's scratch holds. -/
def State.rawByte (s : State) (loc : Nat) : Byte :=
  if scratchBase ≤ loc then Sparse.get 0 (s.comb ((loc - scratchBase) / 2 ^ 21)).scratch ((loc - scratchBase) % 2 ^ 21)
  else if hostBase ≤ loc then Sparse.get 0 s.host (loc - hostBase) else Sparse.get 0 s.hbm loc

/-- A comb's scratch with some words from an address marked as written (R351). -/
def Comb.markWritten (c : Comb) (a : Nat) : Nat → Comb
  | 0 => c
  | n + 1 =>
    let w := a / 4 + n
    { c.markWritten a n with written := Sparse.set 0 (c.markWritten a n).written (w / 2048) (Sparse.get 0 (c.markWritten a n).written (w / 2048) ||| 2 ^ (w % 2048)) }

/-- A comb's scratch with bytes written from an address on. -/
def Comb.putScratch (c : Comb) (a : Nat) (bs : List Byte) : Comb :=
  { c.markWritten a ((a % 4 + bs.length + 3) / 4) with scratch := Sparse.setRun 0 c.scratch a bs }

/-- HBM, host memory or scratch with a byte written. -/
def State.setRaw (s : State) (loc : Nat) (b : Byte) : State :=
  if scratchBase ≤ loc then
    s.modComb ((loc - scratchBase) / 2 ^ 21) fun c =>
      { c.markWritten ((loc - scratchBase) % 2 ^ 21) 1 with scratch := Sparse.set 0 c.scratch ((loc - scratchBase) % 2 ^ 21) b }
  else if hostBase ≤ loc then { s with host := Sparse.set 0 s.host (loc - hostBase) b }
  else { s with hbm := Sparse.set 0 s.hbm loc b }

/-- The word of HBM with a number (its address divided by 4). -/
def State.hbmWord (s : State) (w : Nat) : Word :=
  BitVec.ofNat 32 (leNat (Sparse.getRun 0 s.hbm (4 * w) 4))

/-- HBM with a word written. -/
def State.setHbmWord (s : State) (w : Nat) (x : Word) : State :=
  { s with hbm := Sparse.setRun 0 s.hbm (4 * w) (leBytes 4 x.toNat) }

/-! ## Linear L2 lines -/

/-- A line just allocated: every word invalid (R231). -/
def Line.empty : Line := ⟨0, 0, [], 0, none⟩

/-- The word of a line. -/
def Line.word (l : Line) (i : Nat) : Word := Sparse.get 0 l.words i

/-- Whether a word number is valid in its linear line. -/
def State.wordValid (s : State) (w : Nat) : Bool :=
  match Sparse.find? s.l2 (w / 32) with
  | some l => l.valid.getLsbD (w % 32)
  | none => false

/-- The value of a word at its home: the linear line's word where valid, else HBM's (R232, R274). -/
def State.wordNow (s : State) (w : Nat) : Word :=
  match Sparse.find? s.l2 (w / 32) with
  | some l => if l.valid.getLsbD (w % 32) then l.word (w % 32) else s.hbmWord w
  | none => s.hbmWord w

/-- The byte at its home. -/
def State.byteNow (s : State) (loc : Nat) : Byte :=
  if hostBase ≤ loc then s.rawByte loc else BitVec.ofNat 8 ((s.wordNow (loc / 4)).toNat / 256 ^ (loc % 4))

/-- The bytes from a location upward, at their homes. -/
def State.bytesNow (s : State) (loc : Nat) : Nat → List Byte
  | 0 => []
  | n + 1 => s.byteNow loc :: s.bytesNow (loc + 1) n

/-! ## Uncorrectable errors (R248, R249) -/

/-- Whether a word carries an error where a bit of `badWords` says: 0 HBM, 1 its linear line, 2 its tile line. -/
def State.badAt (s : State) (w k : Nat) : Bool := (Sparse.get 0 s.badWords w).testBit k

/-- A word's error where a bit says put there or taken away. -/
def State.setBad (s : State) (w k : Nat) (b : Bool) : State :=
  let x := Sparse.get 0 s.badWords w
  { s with badWords := Sparse.set 0 s.badWords w (x - (if x.testBit k then 2 ^ k else 0) + (if b then 2 ^ k else 0)) }

/-- Whether a linear line holds a word dirty. -/
def State.wordDirty (s : State) (w : Nat) : Bool :=
  match Sparse.find? s.l2 (w / 32) with
  | some l => l.dirty.getLsbD (w % 32)
  | none => false

/-- The uncorrectable error that a read of a word at its home meets, and whether the word is lost by it: in its line where it is
dirty; a clean bad word of a line is fetched from HBM again, where its error counts (R249). -/
def State.wordErr (s : State) (w : Nat) : Option Bool :=
  if s.wordDirty w then (if s.badAt w 1 then some true else none)
  else if s.badAt w 0 && (!s.wordValid w || s.badAt w 1) then some false else none

/-- Whether a read of a word at its home meets an uncorrectable error. -/
def State.wordBad (s : State) (w : Nat) : Bool := (s.wordErr w).isSome

/-- Whether a read of a byte meets an uncorrectable error at its home. -/
def State.locBad (s : State) (loc : Nat) : Bool := decide (loc < hostBase) && s.wordBad (loc / 4)

/-- An error counted in a die's error block, whose counts saturate (R248). -/
def State.countErr (s : State) (die cls : Nat) (corrected : Bool) : State :=
  let k := 2 * cls + (if corrected then 0 else 1)
  s.modDie die fun d => { d with errCounts := Sparse.set 0 d.errCounts k (Nat.min (2 ^ 32 - 1) (Sparse.get 0 d.errCounts k + 1)) }

/-- An uncorrectable error that a read met counted on a die: as the L2's where dirty data is lost by it, else as HBM's. -/
def State.countLost (s : State) (die : Nat) (lost : Bool) : State := s.countErr die (if lost then 3 else 7) false

/-- The errors of some words at their homes counted. -/
def State.countWords (s : State) (ws : List Nat) : State :=
  ws.foldl (fun x w => match s.wordErr w with
    | some lost => x.countLost (w / 2 ^ 48) lost
    | none => x) s

/-- The eight bytes of a page-table entry, read as one access (R201). -/
def State.dwordNow (s : State) (loc : Nat) : Nat := leNat (s.bytesNow loc 8)

/-- The word with a byte merged under a bit mask. -/
def mergeByte (x : Word) (i : Nat) (v m : Byte) : Word :=
  let mw : Word := BitVec.ofNat 32 (m.toNat * 256 ^ i)
  let vw : Word := BitVec.ofNat 32 (v.toNat * 256 ^ i)
  (x &&& ~~~mw) ||| (vw &&& mw)

/-- A byte under a mask written to its linear line, which is allocated when absent (R231). The rest of a word that a fill found
bad is what HBM gives (log entry 9). -/
def State.putLine (s : State) (ctx : Nat) (it : Nat × Byte × Byte) : State :=
  let w := it.1 / 4
  let l := (Sparse.find? s.l2 (w / 32)).getD Line.empty
  let i := w % 32
  let old : Word := if l.valid.getLsbD i then l.word i else s.hbmWord w
  let bit : BitVec 32 := BitVec.ofNat 32 (2 ^ i)
  let x := mergeByte old (it.1 % 4) it.2.1 it.2.2
  let l' := { l with valid := l.valid ||| bit, dirty := l.dirty ||| bit, words := Sparse.set 0 l.words i x, dirtier := ctx }
  { s with l2 := Sparse.put s.l2 (w / 32) l' }

/-- A byte under a mask written without allocating a line: DEVICE, STRONG and HOST pages (R227, R228). -/
def State.putUncached (s : State) (ctx : Nat) (it : Nat × Byte × Byte) : State :=
  if decide (it.1 < hostBase) && s.wordValid (it.1 / 4) then s.putLine ctx it
  else s.setRaw it.1 ((s.rawByte it.1 &&& ~~~it.2.2) ||| (it.2.1 &&& it.2.2))

/-- Whether the items cover a word whole. -/
def coversWord (items : List (Nat × Byte × Byte)) (w : Nat) : Bool :=
  (List.range 4).all fun k => items.any fun it => decide (it.1 = 4 * w + k) && decide (it.2.2 = 0xFF)

/-- What a write does to the errors of its words where it is written: a word written whole is good again, and one written in
part stays as bad as it was there. No error travels from HBM into a line (R249, R250). -/
def State.rewrite (s : State) (mtype : Nat) (items : List (Nat × Byte × Byte)) : State :=
  if s.badWords.isEmpty then s
  else items.foldl (fun x it =>
    let w := it.1 / 4
    let whole := coversWord items w
    if decide (hostBase ≤ it.1) then x
    else if decide (2 ≤ mtype) && !s.wordValid w then (if whole then x.setBad w 0 false else x)
    else x.setBad w 1 (!whole && s.wordDirty w && s.badAt w 1)) s

/-- Bytes under masks written at their homes by an access of a memory type. -/
def State.putBytes (s : State) (ctx mtype : Nat) (items : List (Nat × Byte × Byte)) : State :=
  items.foldl (fun s it =>
    if decide (2 ≤ mtype) || decide (hostBase ≤ it.1) then s.putUncached ctx it else s.putLine ctx it) (s.rewrite mtype items)

/-- Whether a cacheable write can be performed now: a word written in part must be valid first (R231, R290), unless the fill
finds it bad. -/
def State.writable (s : State) (mtype : Nat) (items : List (Nat × Byte × Byte)) : Bool :=
  decide (2 ≤ mtype) || items.all fun it =>
    decide (hostBase ≤ it.1) || s.wordValid (it.1 / 4) || coversWord items (it.1 / 4) || s.badAt (it.1 / 4) 0

/-- The line after a merging fill: each invalid word takes HBM's, its D stays 0 (R232); a word that is bad there stays invalid
(R249, R250). -/
def fillWords (s : State) (base : Nat) (l : Line) : Nat → Line
  | 0 => l
  | n + 1 =>
    let l := fillWords s base l n
    if l.valid.getLsbD n || s.badAt (32 * base + n) 0 then l
    else { l with valid := l.valid ||| BitVec.ofNat 32 (2 ^ n), words := Sparse.set 0 l.words n (s.hbmWord (32 * base + n)) }

/-- A merging fill of a linear sector lands (R232). -/
def State.fillLine (s : State) (k : Nat) : State :=
  { s with l2 := Sparse.put s.l2 k (fillWords s k ((Sparse.find? s.l2 k).getD Line.empty) 32) }

/-- A word written back to HBM. -/
def State.wordBack (s : State) (w : Nat) (x : Word) : State :=
  let s := s.setHbmWord w x
  if s.badWords.isEmpty then s else (s.setBad w 0 false).setBad w 1 false

/-- The dirty words of a linear line go to HBM; D becomes 0 (R233). When one of them is bad, none of the line's words is
written, its dirty words are lost, and the context that last dirtied it ends (R249). -/
def State.writeBackLine (s : State) (k : Nat) : State :=
  match Sparse.find? s.l2 k with
  | none => s
  | some l =>
    let dirty := (List.range 32).filter fun i => l.dirty.getLsbD i
    if dirty.any fun i => s.badAt (32 * k + i) 1 then
      let s := dirty.foldl (fun s i => s.setBad (32 * k + i) 1 false) (s.countErr (k / 2 ^ 43) 3 false)
      ({ s with l2 := Sparse.put s.l2 k { l with valid := l.valid &&& ~~~l.dirty, dirty := 0 } } : State).endContext l.dirtier 2 0 0
    else
      let s := dirty.foldl (fun s i => s.wordBack (32 * k + i) (l.word i)) s
      { s with l2 := Sparse.put s.l2 k { l with dirty := 0 } }

/-- The line leaves the L2; nothing is kept of it. -/
def State.dropLine (s : State) (k : Nat) : State := { s with l2 := Sparse.erase s.l2 k }

/-! ## Tile lines -/

/-- The number of a tile line in the list of tile lines. -/
def State.tileIdx (s : State) (t : TileRef) : Option Nat := s.tiles.findIdx? fun l => l.tile = t

/-- The tile line of a tile. -/
def State.tileLine (s : State) (t : TileRef) : Option TileLine := s.tiles.find? fun l => l.tile = t

/-- The tile line replaced. -/
def State.setTile (s : State) (l : TileLine) : State :=
  { s with tiles := s.tiles.map fun x => if x.tile = l.tile then l else x }

/-- A tile line allocated if absent. -/
def State.allocTile (s : State) (l : TileLine) : State :=
  match s.tileLine l.tile with
  | some _ => s
  | none => { s with tiles := s.tiles ++ [l] }

/-- The word of a tile line. -/
def TileLine.word (l : TileLine) (i : Nat) : Word := Sparse.get 0 l.words i

/-- A tile line with bits of a word written: V and D are set; FILL words are never written back (R231, R234). -/
def TileLine.put (l : TileLine) (ctx : Nat) (it : Nat × Word × Word) : TileLine :=
  let i := it.1
  let old : Word := if l.valid.getLsbD i then l.word i else 0
  let bit : BitVec 256 := BitVec.ofNat 256 (2 ^ i)
  { l with valid := l.valid ||| bit, dirty := l.dirty ||| bit, words := Sparse.set 0 l.words i ((old &&& ~~~it.2.2) ||| (it.2.1 &&& it.2.2)), dirtier := ctx }

/-- The home of a tile line: that of its tile's first byte (R230). -/
def TileLine.home (l : TileLine) : Nat := ((l.addrs.find? (·.isSome)).join).getD 0

/-- The uncorrectable error that a read of the word of a tile line at an offset meets, with the die that counts it and whether
the word is lost: a dirty word of the line, or the word at its home (R249). -/
def State.tileErr (s : State) (t : TileRef) (off loc : Nat) : Option (Nat × Bool) :=
  let home : Option (Nat × Bool) := (s.wordErr (loc / 4)).map fun b => (locDie loc, b)
  match s.tileLine t with
  | none => home
  | some l =>
    if l.valid.getLsbD (off / 4) then
      if !s.badAt (loc / 4) 2 then none else if l.dirty.getLsbD (off / 4) then some (locDie l.home, true) else home
    else home

/-- A merging fill of a tile sector lands: each invalid word takes the value at its home (R232, R274); one that is bad there stays
invalid (R249, R250). -/
def State.fillTile (s : State) (t : TileRef) (sector : Nat) : State :=
  match s.tileLine t with
  | none => s
  | some l =>
    s.setTile ((List.range 32).foldl (fun l k =>
      let i := 32 * sector + k
      if l.valid.getLsbD i then l
      else match l.addrs.getD i none with
        | none => l
        | some a => if s.wordBad (a / 4) then l else { l with valid := l.valid ||| BitVec.ofNat 256 (2 ^ i), words := Sparse.set 0 l.words i (s.wordNow (a / 4)) }) l)

/-- A word written back by a tile line: to HBM, and into the linear line where that holds the word, whose D is
kept (R274). -/
def State.tileWordBack (s : State) (a : Nat) (x : Word) : State :=
  let w := a / 4
  let s := s.wordBack w x
  match Sparse.find? s.l2 (w / 32) with
  | none => s
  | some l => if l.valid.getLsbD (w % 32) then { s with l2 := Sparse.put s.l2 (w / 32) { l with words := Sparse.set 0 l.words (w % 32) x } } else s

/-- The dirty words of a tile line are written back (R233, R274); none of them when one is bad (R249). -/
def State.writeBackTile (s : State) (t : TileRef) : State :=
  match s.tileLine t with
  | none => s
  | some l =>
    let dirty := (List.range 256).filter fun i => l.dirty.getLsbD i && (l.addrs.getD i none).isSome
    let word (i : Nat) : Nat := ((l.addrs.getD i none).getD 0) / 4
    if dirty.any fun i => s.badAt (word i) 2 then
      let s := dirty.foldl (fun s i => s.setBad (word i) 2 false) (s.countLost (locDie l.home) true)
      (s.setTile { l with valid := l.valid &&& ~~~l.dirty, dirty := 0 }).endContext l.dirtier 2 0 0
    else
      let s := dirty.foldl (fun s i => s.tileWordBack (4 * word i) (l.word i)) s
      s.setTile { l with dirty := 0 }

/-- The tile line leaves the L2. -/
def State.dropTile (s : State) (t : TileRef) : State := { s with tiles := s.tiles.filter fun l => l.tile ≠ t }

/-! ## Translation -/

/-- A mapped page: its first virtual address, its size, and its leaf entry. -/
structure Leaf where
  base : Nat
  size : Nat
  bits : Nat
  deriving DecidableEq, Repr

/-- How a walk ends (R198). -/
inductive WalkRes where
  | nomap
  /-- an entry lies on an absent or dead place, or carries an uncorrectable error (R222, R249). -/
  | absent
  | firmware
  | leaf (l : Leaf)
  deriving DecidableEq, Repr

/-- The four fields of a leaf that its users read (R197). -/
def Leaf.place (l : Leaf) : Nat := l.bits / 2 ^ 6 % 4
def Leaf.mtype (l : Leaf) : Nat := l.bits / 2 ^ 4 % 4
def Leaf.exec (l : Leaf) : Bool := l.bits.testBit 3
def Leaf.writable (l : Leaf) : Bool := l.bits.testBit 2

/-- The physical address of the page's first byte, as the leaf gives it. -/
def Leaf.frame (l : Leaf) : Nat := l.bits / 2 ^ 16 % 2 ^ 40 * 2 ^ 16

/-- The canonical form of a virtual address (R196). -/
def canonical (va : Nat) : Bool := decide (va / 2 ^ 55 = 0) || decide (va / 2 ^ 55 = 511)

/-- The table index of a level (R196). -/
def vaIndex : Nat → Nat → Nat
  | 0, va => va / 2 ^ 43 % 8192
  | 1, va => va / 2 ^ 30 % 8192
  | 2, va => va / 2 ^ 21 % 512
  | _, va => va / 2 ^ 16 % 32

/-- The page a leaf maps at a level (R196). -/
def levelSize : Nat → Nat
  | 1 => 2 ^ 30
  | 2 => 2 ^ 21
  | _ => 2 ^ 16

/-- Whether any byte of a page would be homed in a firmware region (R198, R221, R224). -/
def firmwarePage (iset : List Nat) (l : Leaf) : Bool :=
  let o := l.frame % 2 ^ 50
  match l.place with
  | 1 =>
    let n := iset.length
    let lo := o / 4096 / n * 4096
    let hi := (o + l.size - 1) / 4096 / n * 4096 + 4095
    decide (firmwareBase ≤ hi) && decide (lo < hbmEnd)
  | 3 => false
  | _ => decide (firmwareBase ≤ o + l.size - 1) && decide (o < hbmEnd)

/-- Whether an access to a location fails: above the stack or on a dead die (R222), or on a host address that the adapter
reports as failed (R227), which is its free choice (log entry 53). -/
def State.noMemory (s : State) (loc : Nat) : Bool :=
  if loc < hostBase then decide (hbmEnd ≤ loc % 2 ^ 50) || !(s.die (locDie loc)).live || decide (36 ≤ locDie loc)
  else isHost loc && Config.hostFails s.freeN (loc - hostBase)

/-- The walk from a level on (R198). -/
def walkFrom (s : State) (iset : List Nat) (va : Nat) : Nat → Nat → Nat → WalkRes
  | 0, _, _ => .nomap
  | fuel + 1, lvl, t =>
    let at' := t + 8 * vaIndex lvl va
    let e := s.dwordNow at'
    if s.noMemory at' || s.locBad at' || s.locBad (at' + 4) then .absent
    else if e % 2 = 0 ∨ e / 2 ^ 56 ≠ 0 then .nomap
    else if e / 2 % 2 = 0 then
      if lvl = 3 ∨ e / 4 % 64 ≠ 0 then .nomap else walkFrom s iset va fuel (lvl + 1) (e / 2 ^ 8 % 2 ^ 48 * 2 ^ 8)
    else
      let size := levelSize lvl
      let l : Leaf := ⟨va / size * size, size, e⟩
      if lvl = 0 ∨ e / 2 ^ 8 % 2 ^ 8 ≠ 0 ∨ l.frame % size ≠ 0 then .nomap
      else if (l.place = 1 ∨ l.place = 3) ∧ e / 2 ^ 50 % 64 ≠ 0 then .nomap
      else if firmwarePage iset l then .firmware
      else .leaf l

/-- The entries a walk reads, from a level on. -/
def walkEntries (s : State) (va : Nat) : Nat → Nat → Nat → List Nat
  | 0, _, _ => []
  | fuel + 1, lvl, t =>
    let at' := t + 8 * vaIndex lvl va
    let e := s.dwordNow at'
    at' :: (if e % 4 = 1 ∧ lvl < 3 then walkEntries s va fuel (lvl + 1) (e / 2 ^ 8 % 2 ^ 48 * 2 ^ 8) else [])

/-- The walk for a context (R198). -/
def State.walk (s : State) (c : CtxRec) (va : Nat) : WalkRes :=
  if canonical va then walkFrom s c.iset va 4 0 c.ptroot else .nomap

/-- Trap codes of R185. -/
def codeILLOP : Nat := 0x01
def codeREGRANGE : Nat := 0x02
def codeBADSPEC : Nat := 0x03
def codeMISALIGNPC : Nat := 0x04
def codeLANDING : Nat := 0x05
def codeIPAGE : Nat := 0x06
def codeLOOPOVF : Nat := 0x07
def codeCALLOVF : Nat := 0x08
def codeSTALLSHORT : Nat := 0x09
def codePRIV : Nat := 0x0A
def codeBADRM : Nat := 0x0B
def codeFPEXC : Nat := 0x10
def codeDPAGE : Nat := 0x20
def codeDPROT : Nat := 0x21
def codeDALIGN : Nat := 0x22
def codeDERR : Nat := 0x23
def codeSCRANGE : Nat := 0x24
def codeBANKMODE : Nat := 0x25
def codeTDBAD : Nat := 0x26
def codeREPLWR : Nat := 0x27
def codeBANKBUSY : Nat := 0x28
def codeDEPUNDER : Nat := 0x30
def codeBARCOUNT : Nat := 0x31
def codeTBOVER : Nat := 0x32
def codeCOMMITOVF : Nat := 0x34
def codeTIMEBACK : Nat := 0x35
def codeSTALEGEN : Nat := 0x37
def codeRINGSEQ : Nat := 0x38
def codeNREDEXP : Nat := 0x39
def codeBRK : Nat := 0x3E
def codeTRAPI : Nat := 0x3F

/-- The fault of an access that finds no mapping. -/
def nomapCode : Access → Nat
  | .exec => codeIPAGE
  | _ => codeDPAGE

/-- The fault a leaf gives for an access, in the order of R198. -/
def Leaf.check (l : Leaf) : Access → Option Nat
  | .exec => if l.exec then none else some codeIPAGE
  | .write => if l.place = 2 then some codeREPLWR else if l.writable then none else some codeDPROT
  | .read => none

/-- A TLB's entry for an address of a context (R200). -/
def tlbFind (t : List TlbEnt) (ctx va : Nat) : Option Leaf :=
  match t.find? fun e => e.ctx = ctx && decide (e.base ≤ va) && decide (va < e.base + e.size) with
  | some e => some ⟨e.base, e.size, e.leaf⟩
  | none => none

/-- A TLB with a translation at its front, cut to its capacity (R200; log entry 9). -/
def tlbAdd (cap : Nat) (t : List TlbEnt) (ctx : Nat) (l : Leaf) : List TlbEnt :=
  let e : TlbEnt := ⟨ctx, l.base, l.size, l.bits⟩
  if t.contains e then t else (e :: t).take cap

/-- The leaf an access of a comb finds: in the comb's TLB, the die's, or by a walk (R200). -/
def State.lookup (s : State) (ck ctx va : Nat) (acc : Access) : WalkRes :=
  let c := s.comb ck
  match tlbFind (if acc = .exec then c.itlb else c.dtlb) ctx va with
  | some l => .leaf l
  | none =>
    match tlbFind (s.die (keyDie ck)).dtlb ctx va with
    | some l => .leaf l
    | none =>
      match Sparse.find? s.ctxs ctx with
      | some cr => s.walk cr va
      | none => .nomap

/-- Whether a feature bit is in force: offered, and accepted by the driver since the start (R452). -/
def State.feature (s : State) (k : Nat) : Bool :=
  s.adapter.accepted && (s.hive.foffer &&& s.adapter.faccept).getLsbD k

/-- `translate(va, acc)` for a context on a comb: the leaf, or the trap code (R198). Firmware regions give DPROT, or
IPAGE for a fetch (R222). -/
def State.translate (s : State) (ck : Nat) (ctx : Option Nat) (va : Nat) (acc : Access) : Except Nat Leaf :=
  match ctx with
  | none => .error (nomapCode acc)
  | some cx =>
    match s.lookup ck cx va acc with
    | .nomap => .error (nomapCode acc)
    | .absent => .error codeDERR
    | .firmware => .error (if acc = .exec then codeIPAGE else codeDPROT)
    | .leaf l =>
      if (l.place = 3 ∧ !s.feature 0) ∨ (l.place = 2 ∧ !s.feature 2) then .error (nomapCode acc)
      else match l.check acc with
      | some e => .error e
      | none => .ok l

/-- The TLBs of a comb and its die with a leaf (R200). The table entries that R200 also lets the die's TLB hold are not kept: a walk
reads each entry in memory (DESIGN CHOICE, log entry 9). -/
def State.tlbNote (s : State) (ck ctx : Nat) (acc : Access) (l : Leaf) : State :=
  let s := s.modComb ck fun c =>
    if acc = .exec then { c with itlb := tlbAdd 32 c.itlb ctx l } else { c with dtlb := tlbAdd 128 c.dtlb ctx l }
  s.modDie (keyDie ck) fun d => { d with dtlb := tlbAdd 16384 d.dtlb ctx l }

/-- The location of a byte of a page, for an access from a die (R223, R224, R225). -/
def State.leafLoc (s : State) (ctx die : Nat) (l : Leaf) (va : Nat) : Nat :=
  let pa := l.frame + va % l.size
  match l.place with
  | 1 =>
    let iset := match Sparse.find? s.ctxs ctx with
      | some c => c.iset
      | none => []
    let o := pa % 2 ^ 50
    let q := o / 4096
    dieLoc (iset.getD (q % iset.length) 0) (q / iset.length * 4096 + o % 4096)
  | 2 =>
    let owner := locDie pa
    if owner = die ∨ (Sparse.get 0 (s.die owner).replicas (pa / 2 ^ 16)).testBit die then dieLoc die (pa % 2 ^ 50) else pa
  | 3 => hostBase + pa % 2 ^ 50
  | _ => pa

/-- Reads of REPLICATED frames from a die, each a physical address and its frame: those of a frame without the die's bit go
to the owner, which sets the bit, and the die writes each 128-byte sector it received into its copy (R225). -/
def State.replicaFetch (s : State) (die : Nat) (reads : List (Nat × Nat)) : State :=
  let missed := reads.filter fun r => locDie r.1 ≠ die && !(Sparse.get 0 (s.die (locDie r.1)).replicas r.2).testBit die
  let s := missed.foldl (fun x r =>
    let sec := r.1 / 128 * 32
    (List.range 32).foldl (fun x k => x.tileWordBack (dieLoc die (4 * (sec + k) % 2 ^ 50)) (s.wordNow (sec + k))) x) s
  missed.foldl (fun x r => x.modDie (locDie r.1) fun d => { d with replicas := Sparse.set 0 d.replicas r.2 (Sparse.get 0 d.replicas r.2 ||| 2 ^ die) }) s

/-- What a read of a few bytes at an address touches of a REPLICATED page: the physical address of its first and of its last
sector, and the frame. -/
def Leaf.replicaReads (l : Leaf) (va n : Nat) : List (Nat × Nat) :=
  if l.place = 2 then
    [va, va + n - 1].filterMap fun a => if l.base ≤ a ∧ a < l.base + l.size then
      some (l.frame + a % l.size, (l.frame + a % l.size) / 2 ^ 16) else none
  else []

/-! ## The L1 -/

/-- Drops every L1 line of a comb. -/
def State.dropL1 (s : State) (ck : Nat) : State := s.modComb ck fun c => { c with l1 := [] }

/-- Drops the L1 lines of a comb that a test names. -/
def State.dropL1Where (s : State) (ck : Nat) (p : L1Line → Bool) : State :=
  s.modComb ck fun c => { c with l1 := c.l1.filter fun l => !p l }

/-- The banks in CACHE mode. -/
def Comb.cacheBanks (c : Comb) : List Nat := (List.range 16).filter fun b => (c.banks.getD b (Bank.ofMode .off)).mode = .cache

/-- The bank that takes a line or the sector of a tile (log entry 9), if any is in CACHE mode. -/
def Comb.l1Bank (c : Comb) (n : Nat) : Option Nat :=
  let bs := c.cacheBanks
  if bs.isEmpty then none else bs[n % bs.length]?

/-- The L1 with a line at its front; a bank holds 1,024 lines, and its oldest leaves (R242; log entry 9). -/
def Comb.addL1 (c : Comb) (l : L1Line) : Comb :=
  let rest := c.l1.filter fun x => !(decide (x.line = l.line) && decide (x.tile = l.tile))
  let mine := rest.filter fun x => x.bank = l.bank
  match (if mine.length < 1024 then none else mine.getLast?) with
  | none => { c with l1 := l :: rest }
  | some old => { c with l1 := l :: rest.filter fun x => !decide (x = old) }

/-- A byte of a linear line of the L1. -/
def Comb.l1Byte (c : Comb) (loc : Nat) : Option Byte :=
  match c.l1.find? fun l => l.tile = none && decide (l.line = loc / 128) with
  | some l => some (l.bytes.getD (loc % 128) 0)
  | none => none

/-- A byte of a tile sector of the L1, at its offset in the tile. -/
def Comb.l1TileByte (c : Comb) (t : TileRef) (off : Nat) : Option Byte :=
  match c.l1.find? fun l => l.tile = some (t, off / 128) with
  | some l => some (l.bytes.getD (off % 128) 0)
  | none => none

/-- A store as it is sent updates the L1 line it finds (R242). -/
def Comb.storeL1 (c : Comb) (items : List (Nat × Byte × Byte)) : Comb :=
  { c with l1 := c.l1.map fun l =>
      if l.tile = none then
        items.foldl (fun l it =>
          if it.1 / 128 = l.line then
            { l with bytes := l.bytes.modify (it.1 % 128) fun b => (b &&& ~~~it.2.2) ||| (it.2.1 &&& it.2.2) }
          else l) l
      else l }

/-- A tile store as it is sent updates the tile sector it finds. -/
def Comb.storeL1Tile (c : Comb) (t : TileRef) (items : List (Nat × Word × Word)) : Comb :=
  { c with l1 := c.l1.map fun l =>
      match l.tile with
      | none => l
      | some (t', sec) =>
        if t' = t then
          items.foldl (fun l it =>
            if it.1 / 32 = sec then
              { l with bytes := (List.range 4).foldl (fun bs k => bs.modify (4 * (it.1 % 32) + k) fun b =>
                let v : Byte := BitVec.ofNat 8 (it.2.1.toNat / 256 ^ k)
                let m : Byte := BitVec.ofNat 8 (it.2.2.toNat / 256 ^ k)
                (b &&& ~~~m) ||| (v &&& m)) l.bytes }
            else l) l
        else l }

/-! ## Fills -/

/-- A fill started, unless it is outstanding already (R232). -/
def State.startFill (s : State) (f : Fill) : State :=
  if s.fills.any fun g => decide (g.line = f.line) && decide (g.tile = f.tile) then s else { s with fills := s.fills ++ [f] }

/-- Fills started for the words of the items that a write needs valid (R231). -/
def State.fillsFor (s : State) (items : List (Nat × Byte × Byte)) : State :=
  items.foldl (fun s it =>
    if s.wordValid (it.1 / 4) || coversWord items (it.1 / 4) then s else s.startFill ⟨it.1 / 128, none, 0⟩) s

/-! ## Reading a lane at its home -/

/-- The value of the bits a lane takes from the bytes it read. -/
def LaneRead.value (r : LaneRead) (bytes : List Byte) : Nat := leNat bytes / 2 ^ r.bitOff % 2 ^ r.bits

/-- The bytes of a lane with those of the commit buffer in their places (R282). -/
def LaneRead.overlay (r : LaneRead) (bytes : List Byte) : List Byte :=
  r.patch.foldl (fun bs o => bs.modify o.1 fun b => (b &&& ~~~o.2.2) ||| (o.2.1 &&& o.2.2)) bytes

/-- The bytes a lane finds in the L1, when it finds all of them. -/
def Comb.laneL1 (c : Comb) (r : LaneRead) : Option (List Byte) :=
  match r.tile with
  | none => r.locs.mapM c.l1Byte
  | some (t, off) => (List.range r.locs.length).mapM fun k => c.l1TileByte t (off + k)

/-- A byte of a tile line, when its word is valid, or bad where a fill would read it; without the line, the byte at its home
(R249, R274). -/
def State.tileByte (s : State) (t : TileRef) (off loc : Nat) : Option Byte :=
  match s.tileLine t with
  | some l =>
    if l.valid.getLsbD (off / 4) then some (BitVec.ofNat 8 ((l.word (off / 4)).toNat / 256 ^ (off % 4)))
    else if s.wordBad (loc / 4) then some (s.byteNow loc) else none
  | none => some (s.byteNow loc)

/-- A byte at its home, when a read of its type is served without a fill, or its word is bad where the fill would read it
(R249). -/
def State.homeByte (s : State) (mtype loc : Nat) : Option Byte :=
  if decide (2 ≤ mtype) || decide (hostBase ≤ loc) || s.wordValid (loc / 4) || s.badAt (loc / 4) 0 then some (s.byteNow loc) else none

/-- The bytes a lane reads at the home, when all are there. -/
def State.laneHome (s : State) (r : LaneRead) : Option (List Byte) :=
  match r.tile with
  | none => r.locs.mapM (s.homeByte r.mtype)
  | some (t, off) => ((List.range r.locs.length).zip r.locs).mapM fun kl => s.tileByte t (off + kl.1) kl.2

/-- The fills a lane of an operation waits for (R232). -/
def State.laneFills (s : State) (uid : Nat) (r : LaneRead) : State :=
  match r.tile with
  | none => r.locs.foldl (fun s loc => if (s.homeByte r.mtype loc).isSome then s else s.startFill ⟨loc / 128, none, 0⟩) s
  | some (t, off) =>
    ((List.range r.locs.length).zip r.locs).foldl (fun s kl =>
      if (s.tileByte t (off + kl.1) kl.2).isSome then s else s.startFill ⟨0, some (t, (off + kl.1) / 128), uid⟩) s

/-- The locations a pending write touches. -/
def Store.locs (st : Store) : List Nat :=
  match st.kind with
  | .bytes items => items.map (·.1)
  | .tile l items => items.foldr (fun it acc => match l.addrs.getD it.1 none with
      | some a => a :: (a + 1) :: (a + 2) :: (a + 3) :: acc
      | none => acc) []
  | .atomic _ _ _ locs _ _ => locs

/-- Whether two lists of locations share one. -/
def overlaps (a b : List Nat) : Bool := a.any fun x => b.contains x

/-- The agent an operation belongs to in the ordering model: its thread, or itself (R252). -/
def AsyncOp.agent (op : AsyncOp) : Nat := if op.engine then op.uid else op.ownerUid

/-- Whether an access of a thread or an engine, with its number, is the operation's own or happens before it as its issuer's
(R252, R269). -/
def AsyncOp.follows (op : AsyncOp) (agent uid : Nat) : Bool :=
  decide (agent = op.agent) || (decide (agent = op.ownerUid) && decide (uid < op.after))

/-- The location whose home slice a write goes to: that of a tile's first byte for a tile line (R230). -/
def Store.home (st : Store) : Nat :=
  match st.kind with
  | .tile l _ => l.home
  | _ => st.locs.headD 0

/-- Whether two locations have one home slice (R229). -/
def sameSlice (a b : Nat) : Bool :=
  decide (a < hostBase) && decide (b < hostBase) && decide (locDie a = locDie b) &&
  (decide (a / 128 = b / 128) || decide (Config.homeSlice (a / 128) = Config.homeSlice (b / 128)))

/-- Whether INV takes a lane's read out of the order of its agent: it has no effect on DEVICE, STRONG and HOST pages (R267). -/
def AsyncOp.unordered (op : AsyncOp) (r : LaneRead) : Bool := op.inv && decide (r.mtype < 2) && !r.locs.any isHost

/-- The unserved lanes of a load. -/
def AsyncOp.pending (op : AsyncOp) : List LaneRead :=
  match op.kind with
  | .load _ p _ _ _ _ _ => p
  | _ => []

/-- Whether an operation still has reads to return. -/
def AsyncOp.unread (op : AsyncOp) : Bool :=
  match op.kind with
  | .load _ p _ _ _ _ n => !p.isEmpty || decide (0 < n)
  | _ => false

/-- The earlier accesses of an agent are performed for a scope (R257); `before` bounds them. At PKG scope and wider the
remote writes of its locally completed operations count with them; an operation that is still in its class does not
(R276). -/
def State.releaseDone (s : State) (ck agentUid scope before : Nat) : Bool :=
  let ops := (s.comb ck).ops
  let mine := s.stores.filter fun st => decide (st.agentUid = agentUid) && decide (st.uid < before)
  let left (who issuer : Nat) : Bool := decide (issuer = agentUid) && decide (who ≠ agentUid) && !(ops.any fun o => o.uid = who)
  let engines := s.stores.filter fun st => left st.agentUid st.issuer
  let read := ops.all fun op => !(decide (op.agent = agentUid) && decide (op.uid < before) && op.unread)
  let acks := s.acks.filter fun a => (decide (a.agentUid = agentUid) && decide (a.uid < before)) || left a.agentUid a.issuer
  match scope with
  | 0 => true
  | 1 => read && mine.all fun st => decide (st.release = none) && st.locs.all fun l => !isScratch l
  | 2 => read && mine.all fun st => st.locs.all fun l => decide (locDie l ≠ keyDie ck)
  | 3 => read && ((mine ++ engines).all fun st => st.locs.all isHost) && acks.all fun a => a.host
  | _ => read && mine.isEmpty && engines.isEmpty && acks.isEmpty

/-- The release of DONEVAL (R450): at SYS scope, of everything that the record's context has written. -/
def doneRelease : Nat := 5

/-- Whether a pending write has been sent from its comb: its release is complete (R257, R450). -/
def State.sent (s : State) (st : Store) : Bool :=
  match st.release with
  | some sc =>
    if sc = doneRelease then (s.stores.all fun x => decide (x.ctx ≠ st.ctx) || decide (st.uid ≤ x.uid)) && s.acks.all fun a => decide (st.uid ≤ a.uid)
    else s.releaseDone (combKey st.die st.comb) st.issuer sc st.uid
  | none => true

/-- Whether a pending write must be performed before a lane of an operation is served: an older write to a byte the
lane reads, by the same agent (R256), by the issuer of an engine operation that it precedes (R269), or sent before by the
same comb (R257); or, for DEVICE pages, an older DEVICE write of the agent to the die (R266). -/
def State.storeBlocksLane (s : State) (op : AsyncOp) (ck : Nat) (r : LaneRead) (st : Store) : Bool :=
  decide (st.uid < op.uid) &&
  ((overlaps st.locs r.locs && (op.follows st.agentUid st.uid || (decide (combKey st.die st.comb = ck) && s.sent st))) ||
   (decide (st.agentUid = op.agent) && decide (st.mtype = 2) && decide (r.mtype = 2) &&
      overlaps (st.locs.map locDie) (r.locs.map locDie)))

/-- Whether a lane of a load may be served now: after the writes before it, after an older load of its agent from a byte it
reads unless INV takes one of them out of the order (R256, R267), and on DEVICE pages after older DEVICE loads (R266). -/
def State.laneFree (s : State) (ck : Nat) (op : AsyncOp) (r : LaneRead) : Bool :=
  (s.stores.all fun st => !s.storeBlocksLane op ck r st) &&
  !((s.comb ck).ops.any fun o => decide (o.uid < op.uid) && op.follows o.agent o.uid && o.pending.any fun q =>
      (!o.unordered q && !op.unordered r && overlaps q.locs r.locs) ||
      (decide (q.mtype = 2) && decide (r.mtype = 2) && overlaps (q.locs.map locDie) (r.locs.map locDie)))

/-- Whether a write that its comb sent before goes to the home slice that a lane reads at: it is delivered there first
(R257). -/
def State.behindWrite (s : State) (ck : Nat) (op : AsyncOp) (r : LaneRead) : Bool :=
  let homes := match r.tile.bind fun t => s.tileLine t.1 with
    | some l => [l.home]
    | none => r.locs
  s.stores.any fun st => decide (st.uid < op.uid) && decide (combKey st.die st.comb = ck) && s.sent st && homes.any (sameSlice st.home)

/-- The uncorrectable errors of the words a lane reads at their homes: the word, the die that counts it, and whether it is
lost (R249). -/
def State.laneErrs (s : State) (r : LaneRead) : List (Nat × Nat × Bool) :=
  if s.badWords.isEmpty then []
  else (((List.range r.locs.length).zip r.locs).filterMap fun kl =>
    (match r.tile with
      | none => if kl.2 < hostBase then (s.wordErr (kl.2 / 4)).map fun b => (locDie kl.2, b) else none
      | some (t, off) => s.tileErr t (off + kl.1) kl.2).map fun x => (kl.2 / 4, x)).eraseDups

/-- Whether a lane meets an error at its home: one of its words is bad (R249), or it lies on an absent or failing place (R222,
R227). -/
def State.laneBad (s : State) (r : LaneRead) : Bool := r.locs.any s.noMemory || !(s.laneErrs r).isEmpty

/-- A byte of a tile line. -/
def TileLine.byte (l : TileLine) (off : Nat) : Byte := BitVec.ofNat 8 ((l.word (off / 4)).toNat / 256 ^ (off % 4))

/-- Whether an L1 line holds bytes that a lane reads. -/
def L1Line.holds (l : L1Line) (r : LaneRead) : Bool :=
  match r.tile with
  | none => l.tile = none && r.locs.any fun loc => decide (loc / 128 = l.line)
  | some (t, off) => (List.range r.locs.length).any fun k => l.tile = some (t, (off + k) / 128)

/-- The 128 bytes that the L1 takes for what a lane reads, when it takes any: a NORMAL line, or a tile sector with every
word valid (R242). A line with a bad word is not kept (R249). -/
def State.l1Fill (s : State) (ck : Nat) (r : LaneRead) : Option L1Line :=
  if r.mtype ≠ 0 then none
  else match r.tile, r.locs with
    | none, loc :: _ =>
      match (s.comb ck).l1Bank (loc / 128) with
      | none => none
      | some b =>
        if decide (hostBase ≤ loc) || (!s.badWords.isEmpty && (List.range 32).any fun k => s.wordBad (loc / 128 * 32 + k)) then none
        else some ⟨b, loc / 128, none, s.bytesNow (loc / 128 * 128) 128⟩
    | some (t, off), _ =>
      match (s.comb ck).l1Bank (off / 128), s.tileLine t with
      | some b, some l =>
        if (List.range 32).all fun k => l.valid.getLsbD (off / 128 * 32 + k) && (match l.addrs.getD (off / 128 * 32 + k) none with
            | some a => (s.tileErr t (off / 128 * 128 + 4 * k) a).isNone
            | none => true)
        then some ⟨b, 0, some (t, off / 128), (List.range 128).map fun k => l.byte (off / 128 * 128 + k)⟩
        else none
      | _, _ => none
    | none, [] => none

/-- One lane of a load served if it can be: the state with the L1 as it leaves it, the value, and whether it met an error. What
the home serves replaces the L1's older bytes of it, so that no later read of the comb finds those (R256, R260). -/
def State.serveLane (s : State) (ck : Nat) (op : AsyncOp) (useL1 acq : Bool) (r : LaneRead) : State × Option (Nat × Bool) :=
  match r.fill with
  | some x => (s, some (x, false))
  | none =>
    if !s.laneFree ck op r then (s, none)
    else match if useL1 && decide (r.mtype = 0) && !acq then (s.comb ck).laneL1 r else none with
    | some bs => (s, some (r.value (r.overlay bs), false))
    | none =>
      if s.behindWrite ck op r then (s, none)
      else match s.laneHome r with
        | none => (s.laneFills op.uid r, none)
        | some bs =>
          let bad := s.laneBad r
          let s := if acq then s.dropL1 ck else s.dropL1Where ck fun l => l.holds r
          let s := if useL1 then
              match s.l1Fill ck r with
              | some l => s.modComb ck fun c => c.addL1 l
              | none => s
            else s
          (s, some (r.value (r.overlay bs), bad))

/-- How far the lanes of a load have been served: those left, the values, and the lanes that met an error. -/
structure Served where
  left : List LaneRead
  got : List (Nat × Nat)
  bad : List LaneRead
  deriving DecidableEq, Repr

/-- The lanes of a load served as far as they can be. -/
def State.serveLanes (s : State) (ck : Nat) (op : AsyncOp) (useL1 acq : Bool) : List LaneRead → Served → State × Served
  | [], d => (s, d)
  | r :: rs, d =>
    match s.serveLane ck op useL1 acq r with
    | (s, some x) => s.serveLanes ck op useL1 acq rs { d with got := d.got ++ [(r.lane, x.1)], bad := if x.2 then d.bad ++ [r] else d.bad }
    | (s, none) => s.serveLanes ck op useL1 acq rs { d with left := d.left ++ [r] }

/-- What the served bad lanes of an operation leave behind: each bad word is counted, and an address whose dirty data is lost is
noted on the comb for the dispatch of its DERR (R181, R248, R249). -/
def State.noteBad (s : State) (ck ctx : Nat) (rs : List LaneRead) : State :=
  rs.foldl (fun x r =>
    let es := s.laneErrs r
    let x := if es.any fun e => e.2.2 then x.modComb ck fun c => { c with lostData := c.lostData ++ [lostKey ctx r.va] } else x
    es.foldl (fun x e => x.countLost e.2.1 e.2.2) x) s

/-- A load operation with its lanes served as far as they can be (R261). A coalesced load is served whole or not at
all (R264); a release at its scope comes first (R269). -/
def State.serveOp (s : State) (ck : Nat) (op : AsyncOp) : State × AsyncOp :=
  match op.kind with
  | .load sh p got tog l1 acq n =>
    let ready := match op.release with
      | some sc => s.releaseDone ck op.ownerUid sc op.uid
      | none => true
    if ready then
      match s.serveLanes ck op l1 (acq && decide (2 ≤ op.scope)) p ⟨[], got, []⟩ with
      | (s', d) =>
        if tog && !d.left.isEmpty then (s', op)
        else (s'.noteBad ck op.ctx d.bad, { op with kind := .load sh d.left d.got tog l1 acq n, bad := op.bad ++ d.bad.map fun r => (r.lane, r.va) })
    else (s, op)
  | _ => (s, op)

/-- An operation of a comb replaced. -/
def Comb.setOp (c : Comb) (op : AsyncOp) : Comb := { c with ops := c.ops.map fun o => if o.uid = op.uid then op else o }

/-- Every unserved load of a comb tried again, oldest first. -/
def State.serveComb (s : State) (ck : Nat) : State :=
  (s.comb ck).ops.foldl (fun s op =>
    match s.serveOp ck op with
    | (s', op') => s'.modComb ck fun c => c.setOp op') s

/-- Every unserved load of the package tried again. -/
def State.serveAll (s : State) : State := s.combs.foldl (fun s kc => s.serveComb kc.1) s

/-! ## Writes at their homes -/

/-- The value a number of bytes holds at their homes. -/
def State.valueNow (s : State) (locs : List Nat) : Nat := leNat (locs.map s.byteNow)

/-- Bytes with full masks from a value. -/
def byteItems (locs : List Nat) (x : Nat) : List (Nat × Byte × Byte) :=
  (locs.zip (leBytes locs.length x)).map fun lb => (lb.1, lb.2, 0xFF)

/-- Bits `bits` of a value at bit `off` of the first byte, as bytes under masks (R290). -/
def maskItems (locs : List Nat) (off bits x : Nat) : List (Nat × Byte × Byte) :=
  let v := leBytes locs.length (x % 2 ^ bits * 2 ^ off)
  let m := leBytes locs.length ((2 ^ bits - 1) * 2 ^ off)
  (locs.zip (v.zip m)).map fun t => (t.1, t.2.1, t.2.2)

/-- An F32 or BF16 operation of an atomic: round to nearest even, subnormals kept, no flags (R291). -/
def atomF (f : Fmt) (g : Fmt → FOpt → FV → FV → Nat × Exc) (a b : Nat) : Nat :=
  (g f ⟨.rne, false, false, 0⟩ (f.decode a) (f.decode b)).1

/-- The new value of an atomic on `w` bits (R291). -/
def atomNew (op w o d : Nat) : Nat :=
  let so := (BitVec.ofNat w o).toInt
  let sd := (BitVec.ofNat w d).toInt
  match op with
  | 0 => (o + d) % 2 ^ w
  | 1 => if so ≤ sd then o else d
  | 2 => Nat.min o d
  | 3 => if sd ≤ so then o else d
  | 4 => Nat.max o d
  | 5 => o &&& d
  | 6 => o ||| d
  | 7 => o ^^^ d
  | 8 => d
  | 9 => if d ≤ o then 0 else o + 1
  | 10 => if o = 0 ∨ d < o then d else o - 1
  | 11 => atomF fmtF32 Fmt.add o d
  | 12 => (fmtF32.minmax false o d).1
  | 13 => (fmtF32.minmax true o d).1
  | 14 => atomF fmtBF16 Fmt.add (o % 2 ^ 16) (d % 2 ^ 16) + 2 ^ 16 * atomF fmtBF16 Fmt.add (o / 2 ^ 16) (d / 2 ^ 16)
  | _ => o

/-- Whether an access of an agent, with its number, is of a write's agent or happens before it as its issuer's (R252, R269). -/
def Store.follows (st : Store) (agent uid : Nat) : Bool :=
  decide (agent = st.agentUid) || (decide (agent = st.issuer) && decide (uid < st.after))

/-- Whether a pending write waits for an older access: a write to a common byte by its agent, or sent before by its comb to a
common byte or to its home slice (R256, R257), a read of a common byte by its agent that is not served yet, or for DEVICE
pages any older DEVICE access of its agent to the die (R266). -/
def State.storeWaits (s : State) (st : Store) : Bool :=
  let dev (m : Nat) (locs : List Nat) : Bool := decide (st.mtype = 2) && decide (m = 2) && overlaps (locs.map locDie) (st.locs.map locDie)
  (s.stores.any fun o => decide (o.uid < st.uid) &&
      ((st.follows o.agentUid o.uid && (overlaps o.locs st.locs || dev o.mtype o.locs)) ||
       (decide (o.die = st.die) && decide (o.comb = st.comb) && s.sent o && (overlaps o.locs st.locs || sameSlice o.home st.home)))) ||
  ((s.comb (combKey st.die st.comb)).ops.any fun op => decide (op.uid < st.uid) && st.follows op.agent op.uid &&
      op.pending.any fun r => (!op.unordered r && overlaps r.locs st.locs) || dev r.mtype r.locs)

/-- Whether a compare and swap would fail on what its bytes hold: a failed one has no release effect (R293). -/
def State.casFails (s : State) (st : Store) : Bool :=
  match st.kind with
  | .atomic 15 _ _ locs _ cmp => (locs.all fun l => (s.homeByte st.mtype l).isSome) && decide (s.valueNow locs ≠ cmp)
  | _ => false

/-- A pending write whose release is complete and that no older access holds up (R257, R465). -/
def State.storeReady (s : State) (st : Store) : Bool := (s.sent st || s.casFails st) && !s.storeWaits st

/-- An atomic's result handed to the operation that waits for it (R292); a lane that met an error is bad (R284). -/
def AsyncOp.atomDone (op : AsyncOp) (lane va old : Nat) (bad : Bool) : AsyncOp :=
  match op.kind with
  | .load sh p got tog l1 acq n =>
    { op with kind := .load sh p (got ++ [(lane, old)]) tog l1 acq (n - 1), bad := op.bad ++ (if bad then [(lane, va)] else []) }
  | _ => op

/-- Whether an atomic's result is the last one its operation waits for, and the operation is an acquire at DIE scope or
wider. -/
def AsyncOp.acquires (op : AsyncOp) : Bool :=
  match op.kind with
  | .load _ _ _ _ _ acq n => acq && decide (n ≤ 1) && decide (2 ≤ op.scope)
  | _ => false

/-- Whether a write is an acquire that drops the L1: at DIE scope or wider (R257). -/
def Store.drops (st : Store) : Bool := st.acq.any fun sc => decide (2 ≤ sc)

/-- Whether a tile store's word can be written now: it is valid, written whole, or bad where a fill would read it (R231). -/
def State.tileReady (s : State) (l : TileLine) (it : Nat × Word × Word) : Bool :=
  l.valid.getLsbD it.1 || decide (it.2.2 = 0xFFFFFFFF) || (match l.addrs.getD it.1 none with
    | some a => s.wordBad (a / 4)
    | none => false)

/-- A tile line with bits of a word written; the rest of a word that a fill found bad is what its home gives (log entry 9). -/
def State.putTile (s : State) (ctx : Nat) (l : TileLine) (it : Nat × Word × Word) : TileLine :=
  match l.addrs.getD it.1 none with
  | some a => if l.valid.getLsbD it.1 then l.put ctx it
    else ({ l with valid := l.valid ||| BitVec.ofNat 256 (2 ^ it.1), words := Sparse.set 0 l.words it.1 (s.wordNow (a / 4)) } : TileLine).put ctx it
  | none => l.put ctx it

/-- The effect of a write at its home (R231, R290, R292, R293); the lines of its comb's L1 follow it, an atomic drops its
line, and an acquire the whole L1 (R242, R243, R257). An atomic that meets an uncorrectable error writes nothing (R249). `none`:
a fill comes first. -/
def State.performStore (s : State) (st : Store) : Option State :=
  let ck := combKey st.die st.comb
  match st.kind with
  | .bytes items =>
    if s.writable st.mtype items then
      let s := s.modComb ck fun c => if st.drops then { c with l1 := [] } else c.storeL1 items
      some (s.putBytes st.ctx st.mtype items)
    else none
  | .tile l items =>
    let t := (s.tileLine l.tile).getD l
    if items.all (s.tileReady t) then
      let s := s.modComb ck fun c => if st.drops then { c with l1 := [] } else c.storeL1Tile l.tile items
      let s' := if s.badWords.isEmpty then s else items.foldl (fun s it => match l.addrs.getD it.1 none with
        | some a => if (it.2.2 : Word) = 0xFFFFFFFF || !t.dirty.getLsbD it.1 then s.setBad (a / 4) 2 false else s
        | none => s) s
      some ((s'.allocTile l).setTile (items.foldl (s.putTile st.ctx) t))
    else none
  | .atomic op lane va locs d cmp =>
    if locs.all fun l => (s.homeByte st.mtype l).isSome then
      let bad := locs.any s.locBad
      let old := s.valueNow locs
      let new := if op = 15 then (if old = cmp then d else old) else atomNew op (8 * locs.length) old d
      let s := if bad then s.noteBad ck st.ctx [⟨lane, va, locs, 0, 0, none, st.mtype, [], none⟩]
        else if decide (op = 15) && decide (old ≠ cmp) then s else s.putBytes st.ctx st.mtype (byteItems locs new)
      let s := if st.drops then s.dropL1 ck else s.dropL1Where ck fun x => x.tile = none && decide (x.line = locs.headD 0 / 128)
      some (match st.op with
        | some u => s.modComb ck fun c =>
            { c with l1 := if c.ops.any fun o => o.uid = u && o.acquires then [] else c.l1
                     ops := c.ops.map fun o => if o.uid = u then o.atomDone lane va old bad else o }
        | none => s)
    else none

/-- The fills a write waits for. -/
def State.storeFills (s : State) (st : Store) : State :=
  match st.kind with
  | .bytes items => s.fillsFor items
  | .tile l items => items.foldl (fun s it => s.startFill ⟨0, some (l.tile, it.1 / 32), st.uid⟩) (s.allocTile l)
  | .atomic _ _ _ locs _ _ => locs.foldl (fun s loc => if (s.homeByte st.mtype loc).isSome then s else s.startFill ⟨loc / 128, none, 0⟩) s

/-- Whether a write leaves an acknowledgement to come: it is homed on another die or on the host (R257). -/
def Store.remote (st : Store) : Bool := st.locs.any fun l => decide (locDie l ≠ st.die)

/-- A pending write reaches its home: performed and off the list, with its acknowledgement on the way when it is
remote; or its fills started. -/
def State.storeHome (s : State) (st : Store) : State :=
  match s.performStore st with
  | some s' =>
    let s' := { s' with stores := s'.stores.filter fun o => decide (o.uid ≠ st.uid) }
    let s' := if st.remote then { s' with acks := s'.acks ++ [⟨st.uid, st.agentUid, st.issuer, locDie (st.locs.headD 0), st.locs.any isHost⟩] } else s'
    s'.serveAll
  | none => s.storeFills st

end Sys2Proof.Machine
end

