-- ==== Sys2Proof/Machine/Ops.lean ====
section
/-! DEFINITION. The named operations over the machine: threads and their registers, names and generations, event
records, batches of counts, the end of a group, taking a trap and returning from one, and the issue of an
instruction (R76 to R91, R160, R171, R179).
Model's choices in this file: log entries 7, 12, 13, 15, 16, 29, 33. -/

namespace Sys2Proof

/-- Whether an agent is a matrix stream. -/
def Agent.isStream : Agent → Bool
  | .stream _ _ _ => true
  | _ => false

/-- Whether an agent is a steward. -/
def Agent.isSteward : Agent → Bool
  | .steward _ _ => true
  | _ => false

/-- The SRC byte of an agent's records (R355). -/
def Agent.src : Agent → Nat
  | .group _ _ k => k
  | .stream _ _ q => 0x40 + q
  | .steward _ _ => 0xFF

/-- The kinds of a specifier (R79). -/
inductive Kind where
  | v | s | p | q | special | const | reserved | sink
  deriving DecidableEq, Repr

/-- The kind of a specifier. -/
def Spec.kind : Spec → Kind
  | .v _ => .v
  | .s _ => .s
  | .p _ => .p
  | .q _ => .q
  | .special _ => .special
  | .const _ => .const
  | .reserved _ => .reserved
  | .sink => .sink

/-- A constant's bits (R80). -/
def Const.bits : Const → Word
  | .zero => 0 | .one => 1 | .minusOne => 0xFFFFFFFF | .two => 2
  | .half => 0x3F000000 | .oneF => 0x3F800000 | .twoF => 0x40000000 | .minusOneF => 0xBF800000
  | .plusInf => 0x7F800000 | .minusInf => 0xFF800000 | .nan => 0x7FC00000
  | .smax => 0x7FFFFFFF | .smin => 0x80000000

/-- A constant as a 64-bit operand: codes 0xE0 to 0xE3 are sign-extended (R80). -/
def Const.bits64 : Const → DWord
  | .minusOne => 0xFFFFFFFFFFFFFFFF
  | c => c.bits.setWidth 64

end Sys2Proof

namespace Sys2Proof.Machine

/-! ## Threads -/

/-- The key of an agent's comb. -/
def agentKey : Agent → Nat
  | .group d c _ => combKey d c
  | .steward d c => combKey d c
  | .stream d c _ => combKey d c

/-- The number of a comb's steward as an agent: above those of groups and streams. -/
def stewardUid (ck : Nat) : Nat := 2 ^ 64 + ck

/-- The thread of an agent, if it exists. -/
def State.thread (s : State) (a : Agent) : Option Thread :=
  let c := s.comb (agentKey a)
  match a with
  | .group _ _ k => Sparse.find? c.groups k
  | .steward _ _ => some { c.steward.th with uid := stewardUid (agentKey a) }
  | .stream _ _ q =>
    match Sparse.find? c.seqs q with
    | some x => if x.ended then none else some x.th
    | none => none

/-- The thread of an agent replaced. -/
def State.setThread (s : State) (a : Agent) (th : Thread) : State :=
  s.modComb (agentKey a) fun c =>
    match a with
    | .group _ _ k => { c with groups := Sparse.put c.groups k th }
    | .steward _ _ => { c with steward := { c.steward with th := th } }
    | .stream _ _ q =>
      match Sparse.find? c.seqs q with
      | some x => { c with seqs := Sparse.put c.seqs q { x with th := th } }
      | none => c

/-- The context an agent acts for (R183). -/
def State.agentCtx (s : State) (a : Agent) : Option Nat :=
  match a with
  | .steward _ _ => (s.comb (agentKey a)).steward.ctx
  | _ => (s.thread a).bind (·.place.ctx)

/-- A thread's time (R103): its task's, or 0. -/
def Thread.time (th : Thread) : DWord :=
  match th.place.record with
  | some r => r.time
  | none => 0

/-- The flow and the station of a task (R326). -/
def TaskRec.flow (r : TaskRec) : Nat := r.place.toNat % 16
def TaskRec.station (r : TaskRec) : Nat := r.place.toNat / 256 % 64

/-- The fields of a record's CTRL (R326). -/
def TaskRec.regs (r : TaskRec) : Nat := r.ctrl.toNat % 32 * 8
def TaskRec.prio (r : TaskRec) : Nat := r.ctrl.toNat / 32 % 8
def TaskRec.argc (r : TaskRec) : Nat := r.ctrl.toNat / 256 % 16
def TaskRec.sel (r : TaskRec) : Nat := r.ctrl.toNat / 2 ^ 12 % 4
def TaskRec.isAtomic (r : TaskRec) : Bool := r.ctrl.getLsbD 14
def TaskRec.waits (r : TaskRec) : Bool := r.ctrl.getLsbD 15
def TaskRec.dcount (r : TaskRec) : Nat := r.ctrl.toNat / 2 ^ 16

/-- The outstanding operations of a thread in a class (R387). -/
def Comb.outstanding (c : Comb) (uid cls : Nat) : Nat :=
  (c.ops.filter fun o => decide (o.ownerUid = uid) && decide (o.cls = cls)).length

/-! ## Flows and batches (R398, R404 to R407) -/

/-- The flow of a context as a die holds it. -/
def Die.flow (d : Die) (ctx f : Nat) : Option Flow := d.flows.find? fun x => decide (x.ctx = ctx) && decide (x.num = f)

/-- The dies that hold replicas of a flow. -/
def State.flowDies (s : State) (ctx f : Nat) : List Nat :=
  (List.range 36).filter fun d => ((s.die d).flow ctx f).isSome && (s.die d).live

/-- Sends entries as one batch from a sender of a die: to every replica of the flow, in the sender's sequence (R406,
R407). `snd` is 0 to 155 for a comb and 0xFF for the frontier unit; answers the batch's SEQ. -/
def State.sendBatch (s : State) (die snd ctx f kind : Nat) (ents : List CountEnt) : State × Nat :=
  let ck := combKey die snd
  let key := ctx * 16 + f
  let seq := if snd = 0xFF then Sparse.get 0 (s.die die).seqOut key else Sparse.get 0 (s.comb ck).seqOut key
  let next := (seq + 1) % 2 ^ 32
  let s := if snd = 0xFF then s.modDie die fun d => { d with seqOut := Sparse.set 0 d.seqOut key next }
    else s.modComb ck fun c => { c with seqOut := Sparse.set 0 c.seqOut key next }
  let dies := s.flowDies ctx f
  -- no unit holds an UNLOADED flow: the counts are discarded as they arrive (R398)
  (if dies.isEmpty then s else { s with batches := s.batches ++ [⟨ctx, f, die + 64 * snd, seq, kind, ents, dies, dies⟩] }, seq)

/-- An entry merged into a batch: equal location, time and side add up, and a sum of 0 is removed (R405). -/
def mergeEnt : List CountEnt → CountEnt → List CountEnt
  | [], e => if e.delta = 0 then [] else [e]
  | x :: xs, e =>
    if x.loc = e.loc ∧ x.time = e.time ∧ x.note = e.note then
      if x.delta + e.delta = 0 then xs else { x with delta := x.delta + e.delta } :: xs
    else x :: mergeEnt xs e

/-- The place of an open batch among those of a thread: by flow number, and a steward's by context (R183, R405). -/
def OpenBatch.place (b : OpenBatch) : Nat := b.flow * 256 + b.ctx

/-- The open batch of a flow of a context. -/
def Thread.open (th : Thread) (ctx f : Nat) : List CountEnt :=
  match th.batches.find? fun b => b.flow = f ∧ b.ctx = ctx with
  | some b => b.ents
  | none => []

/-- The open batch of a flow replaced, kept in flow order. -/
def Thread.setOpen (th : Thread) (ctx f : Nat) (es : List CountEnt) : Thread :=
  let x : OpenBatch := ⟨f, ctx, es⟩
  { th with batches := (th.batches.filter fun b => decide (b.place < x.place)) ++ (if es.isEmpty then [] else [x]) ++ (th.batches.filter fun b => decide (x.place < b.place)) }

/-- The number of the last batch a thread sent for a flow noted (R420). -/
def Thread.noteSeq (th : Thread) (ctx f seq : Nat) : Thread :=
  { th with sentSeq := Sparse.put th.sentSeq (ctx * 16 + f) seq }

/-- Sends a thread's open batch of a flow, if it holds anything (R405). -/
def State.sendOpen (s : State) (ck ctx : Nat) (th : Thread) (f kind : Nat) : State × Thread :=
  match th.open ctx f with
  | [] => (s, th)
  | es =>
    let r := s.sendBatch (keyDie ck) (keyComb ck) ctx f kind es
    (r.1, (th.setOpen ctx f []).noteSeq ctx f r.2)

/-- Sends every open batch of a thread in increasing flow number, each for its own context (R183, R405). -/
def State.sendAll (s : State) (ck : Nat) (th : Thread) (kind : Nat) : State × Thread :=
  th.batches.foldl (fun p b => p.1.sendOpen ck b.ctx p.2 b.flow kind) (s, th)

/-- `count(loc, t, d)` (R7): the entry in the open batch of the flow; a batch that would exceed 64 entries or a delta
that would leave its range sends the batch as it stands first (R405). -/
def State.count (s : State) (ck ctx : Nat) (th : Thread) (f loc : Nat) (t : DWord) (note : Bool) (d : Int) : State × Thread :=
  let e : CountEnt := ⟨loc, t, note, d⟩
  let es := mergeEnt (th.open ctx f) e
  if es.length ≤ 64 ∧ es.all (fun x => decide (-32768 ≤ x.delta) && decide (x.delta ≤ 32767)) then (s, th.setOpen ctx f es)
  else
    let r := s.sendOpen ck ctx th f 0
    (r.1, r.2.setOpen ctx f (mergeEnt [] e))

/-! ## The end of a group (R34, R191, R338) -/

/-- Whether a thread's SN class has drained, everything it pushed has been delivered or parked (R338, R376), and its commit
has been performed (R341). -/
def State.sendsDone (s : State) (ck uid : Nat) : Bool :=
  decide ((s.comb ck).outstanding uid 3 = 0) && (s.commits.all fun c => decide (c.th.uid ≠ uid)) &&
  (s.msgs.all fun m => !(decide (m.sender = some uid) && (match m.body with
    | .push _ _ _ => true
    | .packet _ _ => true
    | _ => false))) &&
  (List.range 36).all fun d => (s.die d).router.all fun p => decide (p.sender ≠ uid)

/-- The −1 of a task's pointstamp closes its batch, and every open batch leaves (R338, R405). -/
def State.closeTask (s : State) (ck : Nat) (th : Thread) : State :=
  match th.place.ctx with
  | none => s
  | some ctx =>
    let r := match th.place.record with
      | some rec => s.count ck ctx th rec.flow rec.station rec.time false (-1)
      | none => (s, th)
    (r.1.sendAll ck r.2 0).1

/-- The last batches of ended tasks whose sends are done, and their release at PKG scope, leave now (R191, R273). -/
def State.flushKilled (s : State) (ck : Nat) : State :=
  (s.comb ck).killed.foldl (fun s k =>
    if s.sendsDone ck k.th.uid && s.releaseDone ck k.th.uid 3 s.nextUid then
      (s.closeTask ck k.th).modComb ck fun c => { c with killed := c.killed.filter fun x => decide (x.th.uid ≠ k.th.uid) }
    else s) s

/-- The same on every comb. -/
def State.flushAll (s : State) : State :=
  ((s.combs.filter fun c => !c.2.killed.isEmpty).map (·.1)).foldl (fun s ck => s.flushKilled ck) s

/-- Something done with the thread of a task of a comb: one that holds its slot, or one that has ended with a batch still to
leave; nothing when there is none. -/
def State.withTask (s : State) (ck uid : Nat) (f : Thread → State × Thread) : Option State :=
  match (s.comb ck).groups.find? fun g => g.2.uid = uid with
  | some g =>
    let r := f g.2
    some (r.1.modComb ck fun c => { c with groups := Sparse.put c.groups g.1 r.2 })
  | none =>
    match (s.comb ck).killed.find? fun k => k.th.uid = uid with
    | some k =>
      let r := f k.th
      some (r.1.modComb ck fun c => { c with killed := c.killed.map fun x => if x.th.uid = uid then ⟨r.2⟩ else x })
    | none => none

/-- A group leaves its slot: slot and budget return to the core, and its team has one group less (R34). -/
def State.freeSlot (s : State) (ck slot : Nat) (th : Thread) : State :=
  let s := s.modComb ck fun c =>
    let c := { c with groups := Sparse.erase c.groups slot, rclaims := c.rclaims.filter fun r => decide (r.uid ≠ th.uid) }
    match Sparse.find? c.teams th.place.team with
    | some t => { c with teams := Sparse.put c.teams th.place.team { t with live := t.live - 1 } }
    | none => c
  match s.cur with
  | some (.group d c k) => if combKey d c = ck ∧ k = slot then { s with cur := none } else s
  | _ => s

/-- A group retires by EXIT or TRET (R34, R338): its batches leave and its slot is freed. -/
def State.retire (s : State) (ck slot : Nat) (th : Thread) : State :=
  (s.closeTask ck th).freeSlot ck slot th

/-- A group ends by a kill (R191): its slot is freed at once, its last batch leaves when its sends are done, the mirror of
an atomic task is dropped (R342), and its release stores that have not been performed never are (R278). -/
def State.kill (s : State) (ck slot : Nat) (th : Thread) : State :=
  let s := s.freeSlot ck slot { th with commit := [] }
  let s := { s with journal := s.journal.filter fun j => decide (j.uid ≠ th.uid),
                    stores := s.stores.filter fun st => !(decide (st.agentUid = th.uid) && st.release.isSome) }
  (s.modComb ck fun c => { c with killed := c.killed ++ [⟨{ th with commit := [] }⟩] }).flushKilled ck

/-! ## Traps (R8, R110, R179, R184, R306) -/

/-- What a fault writes into the trap registers (R110, R185). -/
structure TrapInfo where
  cause : Nat
  mask : Word
  tval : Nat
  tval2 : Nat
  deriving DecidableEq, Repr

/-- The trap registers of a fault at an address. -/
def TrapInfo.regs (f : TrapInfo) (pc : DWord) : TrapRegs :=
  ⟨BitVec.ofNat 32 f.cause, pc, f.mask, BitVec.ofNat 32 f.tval, BitVec.ofNat 32 f.tval2⟩

/-- A thread stopped by a fault: its trap registers are written and its run is over (R179). -/
def Thread.stop (th : Thread) (f : TrapInfo) : Thread :=
  { th with trap := f.regs th.pc, stopped := true, wait := .none, held := none, runLen := 0, fuse := none }

/-- A group's TRAP record: posted, or left pending while the queue is full (R179, R180). In a full queue it still goes before a
record of the same clk that stands behind it in R357's order, which waits in its stead. -/
def Comb.postTrap (c : Comb) (slot : Nat) (th : Thread) : Comb :=
  let r := { trapRecord slot th with clk := c.clk }
  if c.evq.length < 512 then { c with evq := insertRec r c.evq, groups := Sparse.put c.groups slot th }
  else
    let c := { c with groups := Sparse.put c.groups slot th }
    match c.evq.getLast? with
    | some x =>
      if x.clk = r.clk ∧ r.rank < x.rank then
        let c := { c with evq := insertRec r c.evq.dropLast }
        if x.w0.toNat % 256 = 1 then { c with pendTraps := insertPend (x.w0.toNat / 2 ^ 16 % 256) x c.pendTraps } else { c with overflow := x :: c.overflow }
      else { c with pendTraps := insertPend slot r c.pendTraps }
    | none => { c with pendTraps := insertPend slot r c.pendTraps }

/-- A group killed at once, or with its run where that is under way (R191). -/
def State.killRun (s : State) (ck slot : Nat) (th : Thread) : State :=
  if !th.stopped && decide (0 < th.runLen) then s.setThread (.group (keyDie ck) (keyComb ck) slot) { th with doomed := some (s.comb ck).clk }
  else s.kill ck slot th

/-- The end of a user handler by a fault or the time limit: the trapped group is killed, the context's cause mask
cleared, and the driver told (R184). `how` is 1 for a fault with its code and PC, 2 for the time limit. -/
def State.endHandler (s : State) (ck : Nat) (how cause pc : Nat) : State :=
  let st := (s.comb ck).steward
  match st.handler with
  | none => s
  | some hd =>
    let s := match Sparse.find? (s.comb ck).groups hd.slot with
      | some th => if th.uid = hd.uid then s.killRun ck hd.slot th else s
      | none => s
    let s := { s with ctxs := match Sparse.find? s.ctxs hd.ctx with
      | some c => Sparse.put s.ctxs hd.ctx { c with causes := 0 }
      | none => s.ctxs }
    let s := s.modComb ck fun c => { c with steward := { c.steward with handler := none, ctx := none, th := { c.steward.th with cd := 0, stopped := true } } }
    s.notify 8 hd.ctx (how + 256 * cause) pc

/-- The passes of a sequencer stopped at the boundary they have come to: they leave the array (R306, R314). `first` is the one
that has begun; the later ones are granted again when their turn comes. -/
def Comb.haltPasses (c : Comb) (seq : Nat) (first : Option Nat) : Comb :=
  { c with passes := c.passes.map fun p =>
      if p.seq = seq ∧ p.fin = false then { p with running := false, grant := if first = some p.uid ∨ 0 < p.kstep then p.grant else 0 } else p }

/-- Taking a trap (R179 to R180): a group stops and posts its TRAP record; a stream stops and posts ENGFAULT of source
3, and the passes of a stopped stream stop too (R306); a steward ends its user handler (R184), and outside one stops (log entry 13). -/
def State.takeTrap (s : State) (a : Agent) (th : Thread) (f : TrapInfo) : State :=
  let s := if s.cur = some a then { s with cur := none } else s
  let ck := agentKey a
  match a with
  | .group _ _ k =>
    if th.doomed.isSome then s.kill ck k th else s.modComb ck fun c => c.postTrap k { th.stop f with undisp := true }
  | .stream _ _ q =>
    ((s.setThread a (th.stop f)).modComb ck fun c => c.haltPasses q ((c.passes.find? fun p => p.seq = q && p.running).map (·.uid))).post ck
      (evRec 8 th.place.ctx (0x40 + q) (f.cause + 256 * 3) (th.pc.toNat % 2 ^ 32) f.tval false)
  | .steward _ _ =>
    let s := s.setThread a (th.stop f)
    if (s.comb ck).steward.handler.isSome then s.endHandler ck 1 f.cause (th.pc.toNat % 2 ^ 32) else s

/-- The trap of an agent's instruction: a stream's waits until its record finds a place (R357). -/
def State.trapAgent (s : State) (a : Agent) (th : Thread) (f : TrapInfo) : State :=
  if a.isStream && !(s.comb (agentKey a)).canPost then
    { (s.setThread a { th with wait := if th.wait = .none then .again else th.wait }) with cur := none }
  else s.takeTrap a th f

/-! ## Loops and the next PC (R108, R162, R171) -/

/-- `end_step` over the loop stack, innermost entry first: the stack, and the START to replay from (R171). -/
def endStepRev (cd : BitVec 4) (pc : Word) : List LoopEnt → List LoopEnt × Option Word
  | [] => ([], none)
  | e :: rest =>
    if e.valid then
      if e.depth = cd ∧ e.endPc = pc then
        if 1 < e.count.toNat then ({ e with count := e.count - 1 } :: rest, some e.start)
        else
          let r := endStepRev cd pc rest
          ({ e with valid := false } :: r.1, r.2)
      else (e :: rest, none)
    else
      let r := endStepRev cd pc rest
      (e :: r.1, r.2)

/-- The loop stack and the PC after the instruction at `pc` completes without a transfer (R171). -/
def endStep (cd : BitVec 4) (loops : List LoopEnt) (pc : DWord) : List LoopEnt × DWord :=
  let r := endStepRev cd (pc.setWidth 32) loops.reverse
  (r.1.reverse, match r.2 with
    | some st => BitVec.ofNat 64 (pc.toNat / 2 ^ 32 * 2 ^ 32 + st.toNat)
    | none => pc + 12)

/-- Pops the entries of the current depth whose range does not hold the target (R162). -/
def popOutside (cd : BitVec 4) (target : Word) : List LoopEnt → List LoopEnt
  | [] => []
  | e :: rest =>
    if e.valid then
      if e.depth = cd ∧ ¬(e.start ≤ target ∧ target ≤ e.endPc) then { e with valid := false } :: popOutside cd target rest
      else e :: rest
    else e :: popOutside cd target rest

/-- Pops the entries deeper than the call depth (R109). -/
def popDeeper (cd : BitVec 4) (loops : List LoopEnt) : List LoopEnt :=
  loops.map fun e => if decide (e.valid) && decide (cd < e.depth) then { e with valid := false } else e

/-- The innermost valid entry of a depth, with its index (R172). -/
def innermost (cd : BitVec 4) (loops : List LoopEnt) : Option (Nat × LoopEnt) :=
  ((List.range loops.length).zip loops).reverse.find? fun p => p.2.valid && decide (p.2.depth = cd)

/-- Whether a loop entry's body is short enough for the loop buffer and holds an address (R171). -/
def LoopEnt.buffers (e : LoopEnt) (cd : BitVec 4) (pc : Word) : Bool :=
  e.valid && decide (e.depth = cd) && decide (e.start ≤ pc) && decide (pc ≤ e.endPc) && decide ((e.endPc.toNat - e.start.toNat) / 12 < 16)

/-- What the loop buffer keeps: the instructions of the bodies that are still entered, at whatever call depth (R171). -/
def keepBuf (loops : List LoopEnt) (lbuf : List (DWord × InstrWord)) : List (DWord × InstrWord) :=
  lbuf.filter fun x => loops.any fun e => e.buffers e.depth (x.1.setWidth 32)

/-- A thread that transfers to a target (R162); the loop buffer is left when the loop is. -/
def Thread.take (th : Thread) (target : DWord) : Thread :=
  let loops := (popOutside th.cd (target.setWidth 32) th.loops.reverse).reverse
  { th with pc := target, loops := loops, lbuf := keepBuf loops th.lbuf }

/-- A thread that goes on behind the instruction at its PC (R171). -/
def Thread.advance (th : Thread) : Thread :=
  let r := endStep th.cd th.loops th.pc
  { th with pc := r.2, loops := r.1, lbuf := keepBuf r.1 th.lbuf }

/-! ## Where the next instruction lies (R68, R171, R244) -/

/-- The 12 locations of an instruction at an address for a context of a comb, or the fault code of its translation:
IPAGE, or DERR on an absent or dead place (R68, R222). -/
def State.fetchLocs (s : State) (ck : Nat) (ctx : Option Nat) (va : Nat) : Except Nat (List Nat) :=
  match s.translate ck ctx va .exec with
  | .error c => .error c
  | .ok l =>
    match s.translate ck ctx (va + 11) .exec with
    | .error c => .error c
    | .ok m =>
      let cx := ctx.getD 0
      let locs := (List.range 12).map fun k =>
        if va + k < l.base + l.size then s.leafLoc cx (keyDie ck) l (va + k) else s.leafLoc cx (keyDie ck) m (va + k)
      if locs.any s.noMemory then .error codeDERR else .ok locs

/-- A line of the comb's instruction cache; its lines stand in the order in which they were filled. -/
def Comb.icLine (c : Comb) (line : Nat) : Option IcLine := c.icache.find? fun x => x.line = line

/-- A byte of the comb's instruction cache. -/
def Comb.icByte (c : Comb) (loc : Nat) : Option Byte :=
  (c.icLine (loc / 128)).bind fun x => if x.bad.contains (loc % 128 / 4) then none else some (x.bytes.getD (loc % 128) 0)

/-- The distinct lines of the locations of one instruction: the first byte's and the last's. -/
def lineHeads (locs : List Nat) : List Nat :=
  let a := locs.headD 0
  let b := locs.getLastD 0
  if a / 128 = b / 128 then [a] else [a, b]

/-- The instruction word the cache holds for some locations, when it holds all of them by one fill: an instruction that
lies in two lines is seen as one fill brought both (R244). -/
def Comb.icWord (c : Comb) (locs : List Nat) : Option InstrWord :=
  let gens := (lineHeads locs).map fun l => (c.icLine (l / 128)).map (·.gen)
  if gens.all fun g => g = gens.headD none then (locs.mapM c.icByte).map fun bs => BitVec.ofNat 96 (leNat bs)
  else none

/-- Whether the PC lies in the innermost loop of the call depth and its body is short enough for the loop buffer
(R171). -/
def Thread.inShortLoop (th : Thread) : Bool :=
  match innermost th.cd th.loops with
  | some (_, e) => e.buffers th.cd (th.pc.setWidth 32)
  | none => false

/-- The word the loop buffer holds for the PC. -/
def Thread.buffered (th : Thread) : Option InstrWord :=
  if th.inShortLoop then (th.lbuf.find? fun e => e.1 = th.pc).map (·.2) else none

/-- The words of the instruction that a thread waits in (R86). -/
def Thread.waiting (th : Thread) : Option InstrWord := if th.wait = .none then none else th.held

/-- The words at a thread's PC that it can issue without a fill: those of an instruction that waits, the loop buffer's or the
instruction cache's. -/
def State.nextWord (s : State) (a : Agent) (th : Thread) : Option InstrWord :=
  match th.waiting.or th.buffered with
  | some w => some w
  | none =>
    match s.fetchLocs (agentKey a) (s.agentCtx a) th.pc.toNat with
    | .ok locs => (s.comb (agentKey a)).icWord locs
    | .error _ => none

/-- Whether a thread has nothing to wait for: it is not blocked, and the class of its next instruction is not full (R335). -/
def Thread.ready (th : Thread) : Bool := decide (th.wait = .none) && !th.full

/-- Whether a thread is ready to issue but for the clk: its next instruction is at hand (R335). -/
def State.nextReady (s : State) (a : Agent) (th : Thread) : Bool := th.ready && (s.nextWord a th).isSome

/-- The clk at which a thread may start its next run: its STALL has passed and its last results have landed (R87,
R335). -/
def Thread.mayStart (th : Thread) : Nat := Nat.max th.issueAt th.readyAt

/-! ## Registers -/

/-- The registers as they stand, by specifier code: v, s (or the words of x in a stream), p and q. -/
def Thread.raw (th : Thread) (code lane : Nat) : Word :=
  if code < 0x80 then (if code < th.budget then Sparse.get 0 th.v (code * 32 + lane) else 0)
  else if code < 0xC0 then Sparse.get 0 th.s (code - 0x80)
  else if code < 0xC8 then (if code = 0xC7 then 1 else BitVec.ofBool ((Sparse.get 0 th.p (code - 0xC0)).getLsbD lane) |>.setWidth 32)
  else if code < 0xD0 then (if code = 0xCF then 1 else BitVec.ofBool (th.q.getLsbD (code - 0xC8)) |>.setWidth 32)
  else 0

/-- A bit of a word set or cleared. -/
def setBit {w : Nat} (x : BitVec w) (i : Nat) (b : Bool) : BitVec w :=
  if b then x ||| BitVec.ofNat w (2 ^ i) else x &&& ~~~(BitVec.ofNat w (2 ^ i))

/-- One lane of a register written; p7, q7 and registers at or above the budget take nothing (R76, R99). -/
def Thread.putLane (th : Thread) (code lane : Nat) (x : Word) : Thread :=
  if code < 0x80 then
    (if code < th.budget then { th with v := Sparse.set 0 th.v (code * 32 + lane) x } else th)
  else if code < 0xC0 then { th with s := Sparse.set 0 th.s (code - 0x80) x }
  else if code < 0xC7 then
    { th with p := Sparse.set 0 th.p (code - 0xC0) (setBit (Sparse.get 0 th.p (code - 0xC0)) lane (x.getLsbD 0)) }
  else if 0xC8 ≤ code ∧ code < 0xCF then { th with q := setBit th.q (code - 0xC8) (x.getLsbD 0) }
  else th

/-- The lanes of a register write put in place. -/
def Thread.putReg (th : Thread) (w : RegWrite) : Thread :=
  w.lanes.foldl (fun th lx => th.putLane w.code lx.1 lx.2) th

/-- A register write of a stream: lanes 0 and 1 are the words of an x register (R304). -/
def Thread.putX (th : Thread) (w : RegWrite) : Thread :=
  if 0x80 ≤ w.code ∧ w.code < 0xA0 then
    let lo := match w.lanes.find? fun l => l.1 = 0 with
      | some l => l.2
      | none => 0
    let hi := match w.lanes.find? fun l => l.1 = 1 with
      | some l => l.2
      | none => 0
    { th with x := Sparse.set 0 th.x (w.code - 0x80) (hi ++ lo) }
  else if w.code = 0xDB then
    { th with fstat := (match w.lanes with
      | l :: _ => l.2
      | [] => 0) &&& 3 }
  else th.putReg w

/-- What an uncovered register may still read as, after a younger write of some lanes of it has landed (R90): before the
operation's own result that write is the old value; behind it, it is the only one. -/
def Uncov.after (u : Uncov) (th : Thread) (code : Nat) (lanes : List Nat) : Uncov :=
  if u.code = code then
    { u with old := if u.landed then u.old.filter fun o => !lanes.contains o.1
                    else u.old.map fun o => if lanes.contains o.1 then (o.1, th.raw code o.1) else o }
  else u

/-- A register write that lands last (R89, R90). -/
def Thread.putLast (th : Thread) (w : RegWrite) : Thread :=
  let th := th.putReg w
  if th.uncov.isEmpty then th else { th with uncov := th.uncov.map fun u => u.after th w.code (w.lanes.map (·.1)) }

/-- A result lands: its registers are written and its flags ORed into `fstat` (R89, R107). -/
def Thread.land (th : Thread) (f : Flight) : Thread :=
  let th := f.writes.foldl Thread.putLast th
  { th with fstat := th.fstat ||| f.exc.setWidth 32 }

/-- Results in flight in the order in which they land: by clk, the older of one clk first (R89). -/
def insertFlight (f : Flight) : List Flight → List Flight
  | [] => [f]
  | g :: gs => if f.due < g.due then f :: g :: gs else g :: insertFlight f gs

/-- The results that have landed by a clk are in place (R88). -/
def Thread.settleAux (t : Nat) : List Flight → Thread → Thread
  | [], th => { th with flights := [] }
  | f :: fs, th => if f.due ≤ t then Thread.settleAux t fs (th.land f) else { th with flights := f :: fs }

/-- R88. -/
def Thread.settle (th : Thread) (t : Nat) : Thread := Thread.settleAux t th.flights th

/-- The registers a result in flight writes. -/
def Flight.codes (f : Flight) : List Nat := f.writes.map (·.code)

/-- What an instruction sees at its issue. `rv` is the thread its operands are read from: in a fused pair it holds the
first result already (R91). -/
structure Env where
  s : State
  ag : Agent
  ck : Nat
  th : Thread
  rv : Thread
  t : Nat
  vec : Bool
  act : Word
  imm : Option Word
  deriving DecidableEq, Repr

/-- The lanes in `act`; a uniform instruction has the one instance 0 (R7). -/
def Env.lanes (e : Env) : List Nat := if e.vec then (List.range 32).filter fun i => e.act.getLsbD i else [0]

/-- A register lane as an instruction reads it. A result that has landed but that no WAITC covers may still read as the
old value: a free choice for each lane (R90; log entry 29). -/
def Env.reg (e : Env) (code lane : Nat) : Word :=
  match e.rv.uncov.find? fun u => u.landed && decide (u.code = code) && (u.old.any fun o => o.1 = lane) with
  | none => e.rv.raw code lane
  | some u =>
    if Config.freeBool (e.s.freeN * 2 ^ 16 + code * 32 + lane) then e.rv.raw code lane
    else match u.old.find? fun o => o.1 = lane with
      | some o => o.2
      | none => e.rv.raw code lane

/-- The scratch address of a team's first granule, or 0 (R31, R103). -/
def Comb.teamBase (c : Comb) (team : Nat) : Nat :=
  match Sparse.find? c.teams team with
  | some t => (t.granules.head?.getD 0) * 8192
  | none => 0

/-- A special register as a 64-bit operand (R103, R104); what a steward or a stream does not have reads 0 (R177,
R304). -/
def Env.special (e : Env) (lane : Nat) : Special → DWord
  | .comb => BitVec.ofNat 64 (e.s.combName e.ck)
  | .die => BitVec.ofNat 64 (e.s.dieName (keyDie e.ck))
  | .mode => e.th.mode.setWidth 64
  | .fstat => e.th.fstat.setWidth 64
  | .clk => BitVec.ofNat 64 e.t
  | .lk => e.th.lk
  | .lid => BitVec.ofNat 64 lane
  | .em => if e.ag.isSteward then 0 else e.th.em.setWidth 64
  | .lm => if e.ag.isSteward then 0 else e.th.lm.setWidth 64
  | .gid => BitVec.ofNat 64 e.th.place.gid
  | .tid => e.th.place.tid.setWidth 64
  | .role => BitVec.ofNat 64 e.th.place.role
  | .tlo => (e.th.time.setWidth 32).setWidth 64
  | .thi => (e.th.time >>> 32)
  | .targ => if e.ag.isSteward then 0 else BitVec.ofNat 64 ((e.s.comb e.ck).teamBase e.th.place.team)
  | .slot => match e.ag with
    | .group _ _ k => BitVec.ofNat 64 k
    | _ => 0

/-- An x register of a stream. -/
def Env.xreg (e : Env) (n : Nat) : DWord := Sparse.get 0 e.rv.x n

/-- An operand at 64 bits: an even:odd pair, one x register in a stream, or a special or constant (R80, R104, R304). -/
def Env.read64 (e : Env) (sp : Spec) (lane : Nat) : DWord :=
  match sp with
  | .v n => e.reg (n + 1) lane ++ e.reg n lane
  | .s n => if e.ag.isStream then e.xreg n else e.reg (0x81 + n) 0 ++ e.reg (0x80 + n) 0
  | .p n => (e.reg (0xC0 + n) lane).setWidth 64
  | .q n => (e.reg (0xC8 + n) 0).setWidth 64
  | .special x => e.special lane x
  | .const c => c.bits64
  | .reserved _ => 0
  | .sink => 0

/-- An operand at 32 bits. -/
def Env.read32 (e : Env) (sp : Spec) (lane : Nat) : Word :=
  match sp with
  | .v n => e.reg n lane
  | .s n => if e.ag.isStream then (e.xreg n).setWidth 32 else e.reg (0x80 + n) 0
  | .p n => e.reg (0xC0 + n) lane
  | .q n => e.reg (0xC8 + n) 0
  | .special x => (e.special lane x).setWidth 32
  | .const c => c.bits
  | .reserved _ => 0
  | .sink => 0

/-- A p register as the word of its lane bits (R160). -/
def Env.mask (e : Env) (n : Nat) : Word :=
  (List.range 32).foldl (fun m i => setBit m i ((e.reg (0xC0 + n) i).getLsbD 0)) 0

/-- Writes of 32-bit values to a destination, by lane. A stream extends the value into an x register as its type says
(R304); the sink takes nothing. -/
def Env.write32 (e : Env) (d : Spec) (signed : Bool) (vals : List (Nat × Word)) : List RegWrite :=
  match d with
  | .sink => []
  | .s n =>
    if e.ag.isStream then
      [⟨0x80 + n, vals.flatMap fun lx => [(0, lx.2), (1, if signed && lx.2.msb then 0xFFFFFFFF else 0)]⟩]
    else [⟨0x80 + n, vals⟩]
  | d => [⟨d.code, vals⟩]

/-- The high word of a 64-bit value. -/
def hiWord (x : DWord) : Word := (x >>> 32).setWidth 32

/-- Writes of 64-bit values to a pair, or to one x register in a stream. -/
def Env.write64 (e : Env) (d : Spec) (vals : List (Nat × DWord)) : List RegWrite :=
  match d with
  | .sink => []
  | .s n =>
    if e.ag.isStream then [⟨0x80 + n, vals.flatMap fun lx => [(0, lx.2.setWidth 32), (1, hiWord lx.2)]⟩]
    else [⟨0x80 + n, vals.map fun lx => (lx.1, lx.2.setWidth 32)⟩, ⟨0x81 + n, vals.map fun lx => (lx.1, hiWord lx.2)⟩]
  | d => [⟨d.code, vals.map fun lx => (lx.1, lx.2.setWidth 32)⟩, ⟨d.code + 1, vals.map fun lx => (lx.1, hiWord lx.2)⟩]

/-! ## Issue (R76 to R91) -/

/-- One operand of an instruction as decode checks it (R79, R81): the specifier, how many consecutive registers it
names, the multiple its number must be, whether it is a destination, and the kinds its entry allows. -/
structure Use where
  sp : Spec
  regs : Nat
  align : Nat
  dst : Bool
  kinds : List Kind
  deriving DecidableEq, Repr

/-- What an instruction's entry fixes about its issue. -/
structure Rule where
  /-- OP, the head of the word, and the type code fusion looks at. -/
  op : Nat
  h : Head
  ty : BitVec 6
  /-- the class by R78 or by the entry. -/
  vec : Bool
  /-- the contexts that accept it (R116, R144, R160, R282, R305, R339, R378, R416). -/
  core : Bool
  steward : Bool
  stream : Bool
  atomic : Bool
  team : Bool
  task : Bool
  /-- major 0x0A, or as if it were. -/
  priv : Bool
  /-- a privileged entry that leaves its class to R78. -/
  byFields : Bool
  uses : List Use
  /-- the latency of its results (R88). -/
  lat : Nat
  /-- it rounds or raises flags (R107), and RND when it rounds (R81). -/
  fp : Bool
  rnd : Option Nat
  /-- the outstanding class it counts in. -/
  cls : Option Nat
  /-- it accesses memory, and waits for an acquire before it (R256). -/
  mem : Bool
  /-- it ends the run (R86). -/
  ends : Bool
  /-- it waits for results of instructions that round (R107). -/
  drains : Bool
  imm : Option Word
  /-- its lanes are the vacant ones the guard allows (R344). -/
  vacant : Bool

/-- A rule with the common values: a core instruction of class A. -/
def Rule.basic (op : Nat) (h : Head) (vec : Bool) (uses : List Use) : Rule :=
  { op := op, h := h, ty := 0, vec := vec, core := true, steward := false, stream := false, atomic := true, team := true, task := true, priv := false, byFields := false, uses := uses, lat := 4, fp := false, rnd := none, cls := none, mem := false, ends := false, drains := false, imm := none, vacant := false }

/-- Where an instruction goes on. -/
inductive Next where
  /-- Behind it, by `end_step` (R171). -/
  | seq
  /-- Where the thread given back already stands: a taken transfer, or a PC set by the effect. -/
  | taken
  /-- Nowhere: the thread has ended and is off the machine. -/
  | gone
  deriving DecidableEq, Repr

/-- The result of an instruction's effect: the machine and the thread after it, the register writes that land after the
latency, the flags raised, a trap of R9 that follows the effect, and where it goes on. -/
structure Out where
  s : State
  th : Thread
  writes : List RegWrite
  exc : BitVec 5
  trap : Option TrapInfo
  next : Next

/-- How an instruction ends: with its effect, with a fault that cancels it (R8), or waiting (R86). -/
inductive Eff where
  | ok (o : Out)
  | fault (f : TrapInfo)
  | wait (s : State) (th : Thread)

/-- The effect that only writes registers. -/
def Env.done (e : Env) (ws : List RegWrite) : Eff := .ok ⟨e.s, e.th, ws, 0, none, .seq⟩

/-- The effect on the machine and the thread, without register writes. -/
def Env.out (_e : Env) (s : State) (th : Thread) : Eff := .ok ⟨s, th, [], 0, none, .seq⟩

/-- TMASK of a fault of an instruction: `act` for a vector one, `em` for a uniform one (R185). -/
def Env.tmask (e : Env) : Word := if e.vec then e.act else e.th.em

/-- A fault of the instruction itself. -/
def Env.fault (e : Env) (cause tval tval2 : Nat) : Eff := .fault ⟨cause, e.tmask, tval, tval2⟩

/-- The instruction waits, and carries on once what it waits for has come (R86). -/
def Env.block (e : Env) (w : Wait) : Eff := .wait e.s { e.th with wait := w }

/-- The instruction stalls on a class that holds 63 operations, and issues again (R86, R387). -/
def Env.stall (e : Env) : Eff := e.block .none

/-- Whether a specifier makes an instruction a vector instruction: a v or p register, or `lid` (R78). -/
def vecSpec (x : Spec) : Bool :=
  match x with
  | .v _ => true
  | .p _ => true
  | .special .lid => true
  | _ => false

/-- Whether a use makes its instruction a vector one where the entry leaves the class to R78: a v or p register, or `lid` where
it is read. -/
def Use.makesVec (u : Use) : Bool := vecSpec u.sp && !(u.dst && decide (u.sp = .special .lid))

/-- Whether a use names a register that decode refuses (R81 step 4); in a stream R304 gives the specifiers, and no v or p
register and no `lid` is one of them. -/
def Use.bad (u : Use) (stream : Bool) : Bool :=
  if u.sp.kind = .reserved then true
  else if stream && vecSpec u.sp then true
  else if !(u.kinds.contains u.sp.kind || (stream && u.dst && u.kinds.contains .v && decide (u.sp.kind = .s))) then true
  else match u.sp with
    | .v n => decide (n.val % u.align ≠ 0)
    | .s n => if stream then decide (32 < n.val + (if u.regs ≤ 2 then 1 else u.regs)) else decide (n.val % u.align ≠ 0) || decide (64 < n.val + u.regs)
    | .p _ => stream
    | .special x => stream && !(if u.dst then decide (x = .fstat) else [Special.tid, .comb, .die, .clk, .fstat].contains x)
    | _ => false

/-- Whether a use names a v register at or above the budget (R81 step 5). -/
def Use.range (u : Use) (budget : Nat) : Bool :=
  match u.sp with
  | .v n => decide (budget < n.val + u.regs)
  | _ => false

/-- The register codes a use covers; p7, q7 and what is no register cover none. -/
def Use.codes (u : Use) : List Nat :=
  match u.sp with
  | .v n => (List.range u.regs).map (n.val + ·)
  | .s n => (List.range u.regs).map (0x80 + n.val + ·)
  | .p n => if n.val = 7 then [] else [0xC0 + n.val]
  | .q n => if n.val = 7 then [] else [0xC8 + n.val]
  | _ => []

/-- The guard of an instruction: a lane mask for a vector instruction, all lanes or none for a uniform one (R76). -/
def guardMask (rv : Thread) (h : Head) (vec : Bool) : Word :=
  let term (g : Guard) (isP : Bool) : Word :=
    let m : Word := if isP then (if g.idx.val = 7 then 0xFFFFFFFF else Sparse.get 0 rv.p g.idx.val)
      else if g.idx.val = 7 then 0xFFFFFFFF else if rv.q.getLsbD g.idx.val then 0xFFFFFFFF else 0
    if g.neg then ~~~m else m
  term h.g1 vec &&& term h.g2 false

/-- The guard registers as uses, for the scoreboard. -/
def guardUses (h : Head) (vec : Bool) : List Use :=
  [⟨if vec then .p h.g1.idx else .q h.g1.idx, 1, 1, false, []⟩, ⟨.q h.g2.idx, 1, 1, false, []⟩]

/-- The first register of the uses that the scoreboard refuses with MODE.CHK = 1 (R88 to R90): read or written while an
asynchronous result is uncovered, read while a write is in flight, or written by an older write that lands at or after
this one. An asynchronous result of the instruction itself counts as landing after the latency of its rule (DESIGN CHOICE,
log entry 52). -/
def hazard (rv : Thread) (due : Nat) (uses : List Use) : Option Spec :=
  let bad (u : Use) : Bool := u.codes.any fun c =>
    (rv.uncov.any fun x => x.code = c) ||
    (if u.dst then rv.flights.any fun f => f.codes.contains c && decide (due ≤ f.due)
     else rv.flights.any fun f => f.codes.contains c)
  (uses.find? bad).map (·.sp)

/-- The lanes with an uncorrectable error of a register that a use reads (R284). -/
def badLanes (rv : Thread) (uses : List Use) : List (Nat × Nat) :=
  (rv.uncov.filter fun u => uses.any fun x => !x.dst && x.codes.contains u.code).flatMap (·.bad)

/-- The errors that a use of a register has met are told once (R284). -/
def Thread.clearBad (th : Thread) (uses : List Use) : Thread :=
  { th with uncov := th.uncov.map fun u => if uses.any fun x => !x.dst && x.codes.contains u.code then { u with bad := [] } else u }

/-- A mask of lanes. -/
def laneMask (ls : List Nat) : Word := ls.foldl (fun m i => setBit m i true) 0

/-- The trap of R284 for failing lanes: the lowest one's address. -/
def derrTrap (bad : List (Nat × Nat)) : TrapInfo :=
  let low := bad.foldl (fun b x => if x.1 < b.1 then x else b) (bad.headD (0, 0))
  ⟨codeDERR, laneMask (bad.map (·.1)), low.2 % 2 ^ 32, low.2 / 2 ^ 32⟩

/-- Whether the second of two instructions fuses with the first (R91). -/
def fusible (fi : FuseInfo) (r : Rule) (pc : DWord) : Bool :=
  decide (fi.stall = 0) && decide (pc = fi.pc + 12) && decide (fi.g1 = r.h.g1) && decide (fi.g2 = r.h.g2) &&
  decide (fi.vec = r.vec) && (r.uses.any fun u => !u.dst && (decide (u.sp.code = fi.dst) || u.codes.contains fi.dst)) &&
  ((decide (fi.op = 0x052) && decide (r.op = 0x050) && decide (fi.ty = r.ty)) ||
   (decide (fi.op = 0x030) && decide (r.op = 0x032)) ||
   (decide (fi.op = 0x025) && decide (r.op = 0x010) && decide (fi.ty = r.ty)) ||
   (decide (fi.op = 0x070) && decide (r.op = 0x052) && decide (fi.ty = r.ty)))

/-- The core whose issue slot an agent uses; a steward and a stream have their own. -/
def agentCore : Agent → Option Nat
  | .group _ _ k => some (k / 16)
  | _ => none

/-- The clk from which an agent's issue slot is free (R78). -/
def Comb.slotAt (c : Comb) (a : Agent) : Nat :=
  match agentCore a with
  | some k => Sparse.get 0 c.slotFree k
  | none => 0

/-- The first clk at which a thread's next run can start: not before the comb's clock, and with its slot free. -/
def Comb.startClk (c : Comb) (a : Agent) (th : Thread) : Nat := Nat.max (Nat.max th.mayStart c.clk) (c.slotAt a)

/-- The issue clk: within a run exactly when R87 says, at a run's start the first clk at which it can. An instruction that has
waited carries on without the slot. -/
def issueClk (c : Comb) (a : Agent) (th : Thread) (r : Rule) : Nat :=
  let t := if th.wait ≠ .none then Nat.max th.issueAt c.clk else if th.runLen = 0 then c.startClk a th else th.issueAt
  if r.drains then (th.flights.filter (·.fp)).foldl (fun t f => Nat.max t f.due) t else t

/-- Whether another group of the core is ready to issue at a clk (R86, R335). -/
def State.otherReady (s : State) (die comb slot t : Nat) : Bool :=
  (s.comb (combKey die comb)).groups.any fun g =>
    decide (g.1 / 16 = slot / 16) && decide (g.1 ≠ slot) && !g.2.stopped && s.nextReady (.group die comb g.1) g.2 && decide (g.2.mayStart ≤ t) &&
      (match g.2.place.ctx with
        | some ctx => !s.isFrozen (combKey die comb) ctx
        | none => true)

/-- The occupancy of an issue slot until a clk noted. -/
def Comb.occupy (c : Comb) (a : Agent) (until' : Nat) : Comb :=
  match agentCore a with
  | some k => { c with slotFree := Sparse.put c.slotFree k until' }
  | none => c

/-- Whether the instruction an agent issues has waited: it carries on without the issue slot, and its run ended there (R86). -/
def State.waited (s : State) (a : Agent) : Bool :=
  match s.thread a with
  | some old => decide (old.wait ≠ .none)
  | none => false

/-- Stores a thread after its instruction, with its run and its core's clock advanced (R86, R87, R335). What acts next is decided
anew. -/
def State.endIssue (s : State) (a : Agent) (th : Thread) (r : Rule) (t due : Nat) : State :=
  let waited := s.waited a
  let n := if r.vec then 2 else 1
  let at' := if waited then t + 1 else t + n + r.h.stall.val
  let leaves := if a.isStream then false
    else waited || r.ends || r.h.endRun || decide (24 ≤ th.runLen + 1) || (r.h.yld && match a with
      | .group d c k => s.otherReady d c k (t + n)
      | _ => false)
  let th := { th with held := none }
  let th' := if leaves then { th with runLen := 0, fuse := none, issueAt := Nat.max at' due, readyAt := Nat.max at' due }
    else { th with runLen := if a.isStream then 0 else th.runLen + 1, issueAt := at' }
  let s := (s.setThread a th').modComb (agentKey a) fun c => { (if waited = true then c else c.occupy a (t + n)) with clk := Nat.max c.clk t }
  let s := { s with cur := none, freeN := s.freeN + 1 }
  match a with
  | .group _ _ k => if leaves && th'.doomed.isSome then s.kill (agentKey a) k th' else s
  | _ => s

/-- Stores a thread that waits, or stalls on a full class with nothing to wait for: its run is over (R86). What waits carries on
once what it waits for has come; what stalls issues again. The first attempt takes the issue slot. A group that GKILL has named
ends here (R191). -/
def State.endWait (s : State) (a : Agent) (th : Thread) (t : Nat) : State :=
  let waited := s.waited a
  let stalls := decide (th.wait = .none)
  let th := { th with runLen := 0, fuse := none, issueAt := t, readyAt := t + 1, full := stalls, held := if stalls then none else th.held }
  let s := (s.setThread a th).modComb (agentKey a) fun c => { (if waited = true then c else c.occupy a (t + 1)) with clk := Nat.max c.clk t }
  let s := { s with cur := none, freeN := s.freeN + 1 }
  match a with
  | .group _ _ k => if th.doomed.isSome then s.kill (agentKey a) k th else s
  | _ => s

/-- The thread after an effect: results in flight, or in place in a stream, which interlocks (R305). -/
def Thread.commitWrites (th : Thread) (stream : Bool) (due : Nat) (o : Out) (fp : Bool) : Thread :=
  if stream then o.writes.foldl Thread.putX th
  else if o.writes.isEmpty ∧ o.exc = 0 ∧ fp = false then th
  else { th with flights := insertFlight ⟨due, o.writes, o.exc, fp⟩ th.flights }

/-- What the next instruction may fuse with, guarded off or not (R91). -/
def fuseOf (r : Rule) (pc : DWord) (t due : Nat) : Option FuseInfo :=
  match r.uses.find? fun u => u.dst && decide (u.sp ≠ .sink) with
  | some u =>
    if decide (r.h.stall.val = 0) && [0x052, 0x030, 0x025, 0x070].contains r.op then
      some ⟨r.op, pc, t, due, u.sp.code, r.ty, r.h.g1, r.h.g2, r.vec, 0⟩ else none
  | none => none

/-- What the issue of an instruction has worked out before any check: what its effect sees, the first instruction of a
fused pair, the clk its results land at, and TMASK of its faults (R76 to R91, R185). -/
structure Issue where
  env : Env
  fused : Option FuseInfo
  due : Nat
  tmask : Word

/-- The first instruction of a pair that this one fuses with (R91). -/
def Thread.fusedWith (th : Thread) (a : Agent) (r : Rule) : Option FuseInfo :=
  match th.fuse with
  | some fi => if decide (0 < th.runLen) && !a.isStream && fusible fi r th.pc then some fi else none
  | none => none

/-- The thread a fused pair's second instruction reads from: the first one's result is in place (R91). -/
def Thread.withFused (th : Thread) (fi : Option FuseInfo) : Thread :=
  match fi with
  | some fi => match th.flights.find? fun f => f.codes.contains fi.dst && decide (f.due = fi.due) with
    | some f => { th.land f with flights := th.flights.filter fun g => !(decide (g = f)), fstat := th.fstat }
    | none => th
  | none => th

/-- The issue of an instruction of a thread. -/
def State.issueOf (s : State) (a : Agent) (th0 : Thread) (r : Rule) : Issue :=
  let fi := th0.fusedWith a r
  let t := match fi with
    | some fi => fi.issued
    | none => issueClk (s.comb (agentKey a)) a th0 r
  let th := th0.settle t
  let rv := th.withFused fi
  let g := guardMask rv r.h r.vec
  let act := if r.vacant then g &&& ~~~th.lm else if r.vec then g &&& th.em else g
  { env := ⟨s, a, agentKey a, th, rv, t, r.vec, act, r.imm⟩
    fused := fi
    due := (match fi with
      | some fi => fi.due
      | none => t) + r.lat
    tmask := if r.vec then act else if act = 0 then 0 else th.em }

/-- Why an instruction that issues has no effect. -/
inductive Halt where
  /-- a fault of R81 from step 2 on, or the scoreboard's (R88). -/
  | trap (f : TrapInfo)
  /-- the guard leaves no lane (R76). -/
  | off
  /-- a source lane met an uncorrectable error (R284). -/
  | derr (f : TrapInfo)
  /-- its class is full (R270), or an acquire before it is open (R256). -/
  | wait
  deriving DecidableEq, Repr

/-- Whether an agent's kind accepts the instruction (R116, R144, R160, R282, R305, R339, R378, R416). -/
def Rule.accepts (r : Rule) (a : Agent) (th : Thread) : Bool :=
  match a with
  | .group _ _ _ => r.core && (r.atomic || !th.place.atomic) && (if th.place.isTask then r.task else r.team)
  | .steward _ _ => r.steward && !r.vec && !(r.byFields && r.uses.any Use.makesVec)
  | .stream _ _ _ => r.stream

/-- The code and TVAL of the rounding mode's fault: RND 6 or 7, or MODE.RM at RND 0 (R81). -/
def badRound (rnd : Option Nat) (mode : Word) : Option Nat :=
  let rm := mode.toNat % 8
  match rnd with
  | some 6 => some 6
  | some 7 => some 7
  | some 0 => if rm = 0 ∨ rm = 6 ∨ rm = 7 then some rm else none
  | _ => none

/-- The decode faults of R81 from step 2 on, in their order: code and TVAL. -/
def Issue.decodeFault (x : Issue) (r : Rule) : Option (Nat × Nat) :=
  let e := x.env
  let stream := e.ag.isStream
  if r.priv && !e.ag.isSteward && !stream then some (codePRIV, 0)
  else if !r.accepts e.ag e.th then some (codeILLOP, 0)
  else match r.uses.find? fun u => u.bad stream with
  | some u => some (codeBADSPEC, u.sp.code)
  | none =>
  match r.uses.find? fun u => u.range e.th.budget with
  | some u => some (codeREGRANGE, u.sp.code)
  | none => (badRound r.rnd e.th.mode).map fun v => (codeBADRM, v)

/-- Whether the outstanding class of an instruction holds 63 operations (R270, R387). -/
def Issue.classFull (x : Issue) (r : Rule) : Bool :=
  match r.cls with
  | some k => decide (63 ≤ (x.env.s.comb x.env.ck).outstanding x.env.th.uid k)
  | none => false

/-- Whether the instruction must wait before its effect: its outstanding class is full, or its memory access stands behind
an acquire of its thread (R256, R270, R387). -/
def Issue.mustWait (x : Issue) (r : Rule) : Bool :=
  let e := x.env
  let c := e.s.comb e.ck
  x.classFull r ||
  (r.mem && ((c.ops.any fun o => decide (o.ownerUid = e.th.uid) && o.unread && (match o.kind with
      | .load _ _ _ _ _ acq _ => acq
      | _ => false)) ||
    e.s.stores.any fun st => decide (st.agentUid = e.th.uid) && st.acq.isSome))

/-- The checks of an issue in their order: decode, guard, scoreboard, errors in the sources, resources. The guard is read
as the registers stand: an instruction whose guard leaves no lane is guarded off even where MODE.CHK = 1 and a guard
register is in flight (DESIGN CHOICE, log entry 52). -/
def Issue.halt (x : Issue) (r : Rule) : Option Halt :=
  let e := x.env
  match x.decodeFault r with
  | some f => some (.trap ⟨f.1, x.tmask, f.2, 0⟩)
  | none =>
  if e.act = 0 then some .off
  else
  match (if e.th.mode.getLsbD 4 && !e.ag.isStream then hazard e.rv x.due (guardUses r.h r.vec ++ r.uses) else none) with
  | some sp => some (.trap ⟨codeSTALLSHORT, x.tmask, sp.code, 0⟩)
  | none =>
  match badLanes e.rv r.uses with
  | b :: bs => some (.derr (derrTrap (b :: bs)))
  | [] => if x.mustWait r then some .wait else none

/-- The clock of a comb at the issue of an instruction. -/
def State.tick (s : State) (ck t : Nat) : State := s.modComb ck fun c => { c with clk := Nat.max c.clk t }

/-- The words that an uncorrectable error in a table or a descriptor can have met, for an address whose translation or whose 64
bytes a descriptor's read took (R201, R207). -/
def State.tableWords (s : State) (ck ctx va : Nat) (acc : Access) : List Nat :=
  match Sparse.find? s.ctxs ctx with
  | none => []
  | some c =>
    let entries := (walkEntries s va 4 0 c.ptroot).flatMap fun a => [a / 4, a / 4 + 1]
    let o := va - c.dtbase.toNat
    let desc : List Nat := match s.lookup ck ctx va acc with
      | .leaf l => if c.dtbase.toNat ≤ va ∧ o % 64 = 0 ∧ o / 64 < c.dtcount then
          (List.range 16).map fun k => s.leafLoc ctx (keyDie ck) l (va + 4 * k) / 4 else []
      | _ => []
    (match s.lookup ck ctx va acc with
      | .leaf _ => []
      | _ => entries) ++ desc

/-- The errors of a page-table entry or a descriptor that a DERR reports counted (R248). -/
def State.countTables (s : State) (ck : Nat) (ctx : Option Nat) (code va : Nat) : State :=
  if s.badWords.isEmpty || decide (code ≠ codeDERR) then s else s.countWords (s.tableWords ck (ctx.getD 0) va .read)

/-- A trap of the issuing instruction. -/
def Issue.trap (x : Issue) (f : TrapInfo) : State :=
  ((x.env.s.countTables x.env.ck (x.env.s.agentCtx x.env.ag) f.cause (f.tval + 2 ^ 32 * f.tval2)).tick x.env.ck x.env.t).trapAgent x.env.ag x.env.th f

/-- The machine after an instruction without effect. -/
def Issue.halted (x : Issue) (r : Rule) : Halt → State
  | .trap f => x.trap f
  | .off =>
    let fz := if x.fused.isSome then none else fuseOf r x.env.th.pc x.env.t x.due
    x.env.s.endIssue x.env.ag { x.env.th.advance with fuse := fz } { r with ends := false } x.env.t 0
  | .derr f => (x.env.s.tick x.env.ck x.env.t).trapAgent x.env.ag (x.env.th.clearBad r.uses) f
  | .wait => x.env.s.endWait x.env.ag { x.env.th with wait := if x.classFull r then .none else .again } x.env.t

/-- The machine after an instruction's effect: its writes in flight, its trap of R9, or its way on. -/
def Issue.done (x : Issue) (r : Rule) (o : Out) : State :=
  let e := x.env
  let th1 := { o.th.commitWrites e.ag.isStream x.due o r.fp with wait := .none }
  match o.trap with
  | some f => (o.s.tick e.ck e.t).takeTrap e.ag th1 f
  | none =>
    match o.next with
    | .gone => o.s.modComb e.ck fun c => { c with clk := Nat.max c.clk e.t }
    | .taken => o.s.endIssue e.ag { th1 with fuse := none } r e.t (if o.writes.isEmpty then 0 else x.due)
    | .seq =>
      let fz := if x.fused.isSome then none else fuseOf r e.th.pc e.t x.due
      o.s.endIssue e.ag { th1.advance with fuse := fz } r e.t (if o.writes.isEmpty then 0 else x.due)

/-- The machine after an instruction's end. -/
def Issue.finish (x : Issue) (r : Rule) : Eff → State
  | .fault f => x.trap f
  | .wait s th => s.endWait x.env.ag th x.env.t
  | .ok o => x.done r o

/-- Issues the instruction of the current agent (R76 to R91): the decode faults of R81 from step 2 on, the scoreboard,
the guard, the effect, and what follows it. -/
def issue (s : State) (r : Rule) (body : Env → Eff) : Host.Outcome State Fault Refusal :=
  match s.cur with
  | none => .next s
  | some a =>
    match s.thread a with
    | none => .next { s with cur := none }
    | some th =>
      if th.stopped then .next { s with cur := none }
      else
        let x := s.issueOf a th r
        match x.halt r with
        | some h => .next (x.halted r h)
        | none => .next (x.finish r (body x.env))

/-! ## Asynchronous operations (R90, R270) -/

/-- A register of an asynchronous result that no WAITC covers yet, with what its lanes hold now. -/
def Env.uncover (e : Env) (uid cls code : Nat) (lanes : List Nat) : Uncov :=
  ⟨uid, cls, code, lanes.map fun i => (i, e.rv.raw code i), false, []⟩

/-- Whether operations of a kind are agents of their own (R252). -/
def OpKind.engine : OpKind → Bool
  | .load _ _ _ _ _ _ _ => false
  | .values _ => false
  | _ => true

/-- Registers an operation of the instruction in a class on a machine, with the registers it will write and the clk before
which it does not land; `inv` says INV = 1 (R267), `engine` that it is an agent of its own. What the issuer did before a
release, or for an engine before its last release fence, happens before it (R269, R276). The machine and the thread after it. -/
def Env.async (e : Env) (s : State) (th : Thread) (cls scope : Nat) (release : Option Nat) (kind : OpKind) (dsts : List (Nat × List Nat))
    (due : Nat := 0) (inv : Bool := false) (engine : Bool := kind.engine) : State × Thread :=
  let after := if release.isSome then s.nextUid else if engine then th.fenced else 0
  let op : AsyncOp := ⟨s.nextUid, e.ag, th.uid, (e.s.agentCtx e.ag).getD 0xFF, th.place.team, cls, scope, release, after, engine, inv, kind, due, []⟩
  let s := { s with nextUid := s.nextUid + 1 }
  (s.modComb e.ck fun c => { c with ops := c.ops ++ [op] },
   { th with uncov := th.uncov ++ dsts.map fun d => e.uncover op.uid cls d.1 d.2 })

/-- The core's port into the comb store taken for some clk, behind the requests that reached it before (R135, R286): the
machine, and the clk at which the request takes it. A steward's accesses use no core's port. -/
def Env.takePort (e : Env) (s : State) (n : Nat) : State × Nat :=
  match agentCore e.ag with
  | none => (s, e.t)
  | some k =>
    let t := Nat.max e.t (Sparse.get 0 (s.comb e.ck).port k)
    (s.modComb e.ck fun c => { c with port := Sparse.put c.port k (t + n) }, t)

/-! ## Waiting for a release and for an answer (R465, R203) -/

/-- The instruction's effect once the release's wait at a scope is complete (R465). -/
def Env.afterRelease (e : Env) (scope : Nat) (k : Unit → Eff) : Eff :=
  if e.s.releaseDone e.ck e.th.uid scope e.s.nextUid then k () else e.block (.release scope)

/-- A broadcast to every live die, after whose last acknowledgement the instruction completes. -/
def Env.broadcast (e : Env) (body : BcastBody) (fin : Nat → Eff) : Eff :=
  match e.th.wait with
  | .answered v => fin v
  | .answer u => e.block (.answer u)
  | _ =>
    let u := e.s.nextUid
    .wait { e.s with nextUid := u + 1, bcasts := e.s.bcasts ++ [⟨u, e.ag, e.th.uid, e.s.liveDies, body⟩] } { e.th with wait := .answer u }

/-- An answer handed to the thread that waits for it, if it still does. -/
def State.answer (s : State) (a : Agent) (agentUid u : Nat) (w : Wait) : State :=
  match s.thread a with
  | some th => if th.uid = agentUid ∧ th.wait = .answer u then s.setThread a { th with wait := w } else s
  | none => s

/-! ## The end of a thread by its own instruction (R34, R176, R338) -/

/-- EXIT, TRET, RET at depth 0 and `lm` = 0: a team group retires at once; a stream ends; a task waits until its sends
are delivered, performs its commit (R341), waits for its release at PKG scope (R273), and then retires with its −1.
`th` is the thread as the instruction leaves it, `s` the machine. -/
def Env.endGroup (e : Env) (s : State) (th : Thread) : Eff :=
  let old := { e.th with wait := match e.th.wait with
    | .ending c => .ending c
    | _ => .ending e.t }
  match e.ag with
  | .group _ _ k =>
    if th.place.isTask then
      if e.th.doomed.any (· < e.t) then .wait e.s old
      else if th.place.atomic && (!th.commit.isEmpty || s.journal.any fun j => j.uid = th.uid) then
        .wait { s with journal := s.journal.filter (fun j => decide (j.uid ≠ th.uid)), nextUid := s.nextUid + 1,
                       commits := s.commits ++ [⟨e.ck, (s.die (keyDie e.ck)).lcomb (keyComb e.ck), th, th.commit, s.nextUid⟩] }
          { old with commit := [], doomed := none }
      else if !s.sendsDone e.ck th.uid || !s.releaseDone e.ck th.uid 3 s.nextUid then
        .wait e.s { old with doomed := none }
      else .ok ⟨s.retire e.ck k th, th, [], 0, none, .gone⟩
    else .ok ⟨s.retire e.ck k th, th, [], 0, none, .gone⟩
  | .stream _ _ q =>
    .ok ⟨{ (s.modComb e.ck fun c => match Sparse.find? c.seqs q with
        | some x => { c with seqs := Sparse.put c.seqs q { x with th := th, ended := true } }
        | none => c) with cur := none }, th, [], 0, none, .gone⟩
  | .steward _ _ => e.out s th

end Sys2Proof.Machine
end

