-- ==== Sys2Proof/Machine/Arbitrate.lean ====
section
/-! DEFINITION. Which group a core issues from next (R36, R86, R87, R335).
Model's choices in this file: log entries 1, 48. -/

namespace Sys2Proof.Machine

/-- Priority after waiting (R36, R37). -/
def aged (base since now : Nat) : Nat := Nat.min 7 (base + (now - since) / 4096)

/-- Whether a thread may be given the issue slot: it is not stopped, and starts no run while its context is frozen
(R346). -/
def State.issuable (s : State) (ck : Nat) (th : Thread) : Bool :=
  !th.stopped && (decide (0 < th.runLen) || match th.place.ctx with
    | some ctx => !s.isFrozen ck ctx
    | none => true)

/-- The group agent of a slot. -/
def slotAgent (ck slot : Nat) : Agent := .group (keyDie ck) (keyComb ck) slot

/-- The groups of a core that may issue, by slot. -/
def State.coreGroups (s : State) (ck core : Nat) : List (Nat × Thread) :=
  (s.comb ck).groups.filter fun g => decide (g.1 / 16 = core) && s.issuable ck g.2

/-- The first clk at which a group's next run can start. -/
def State.groupClk (s : State) (ck : Nat) (g : Nat × Thread) : Nat := (s.comb ck).startClk (slotAgent ck g.1) g.2

/-- Whether group a goes before group b: by effective priority, then by the clk of readiness (R36, R335). -/
def Thread.before (now : Nat) (a b : Thread) : Bool :=
  let pa := aged a.place.prio a.readyAt now
  let pb := aged b.place.prio b.readyAt now
  decide (pb < pa) || (decide (pa = pb) && decide (a.readyAt < b.readyAt))

/-- The group that wins the slot among some; the lowest slot breaks a tie. -/
def firstGroup (now : Nat) (gs : List (Nat × Thread)) : Option (Nat × Thread) :=
  gs.foldl (fun b g => match b with
    | some x => if g.2.before now x.2 || (!x.2.before now g.2 && decide (g.1 < x.1)) then some g else some x
    | none => some g) none

/-- The groups of a core that are ready to issue, each from its own clk on (R335). -/
def State.readyGroups (s : State) (ck core : Nat) : List (Nat × Thread) :=
  (s.coreGroups ck core).filter fun g => s.nextReady (slotAgent ck g.1) g.2

/-- The first clk at which any of some groups is ready and the slot is free. -/
def State.firstClk (s : State) (ck : Nat) : List (Nat × Thread) → Option Nat
  | [] => none
  | g :: gs =>
    match s.firstClk ck gs with
    | some t => some (Nat.min t (s.groupClk ck g))
    | none => some (s.groupClk ck g)

/-- The group a core issues from: the one in the middle of its run, or of those ready in the first clk in which any is, the
one that wins (R36, R335). -/
def State.arbitrate (s : State) (ck core : Nat) : Option Nat :=
  let ready := s.readyGroups ck core
  match ready.find? fun g => decide (0 < g.2.runLen) with
  | some g => some g.1
  | none => (s.firstClk ck ready).bind fun t => (firstGroup t (ready.filter fun g => decide (s.groupClk ck g ≤ t))).map (·.1)

end Sys2Proof.Machine
end

