-- ==== Sys2Proof/Machine/Fetch.lean ====
section
/-! DEFINITION. Instruction fetch (R68, R244): the translation of the PC, the instruction cache of the comb, the loop
buffer (R171), and the words that indirect transfers look at (R70).
Model's choices in this file: log entry 14. -/

namespace Sys2Proof.Machine

/-- The words of a line that have an uncorrectable error at their homes. -/
def State.badOf (s : State) (line : Nat) : List Nat :=
  if s.badWords.isEmpty then [] else (List.range 32).filter fun k => s.locBad (128 * line + 4 * k)

/-- The instruction cache with the lines of some locations filled from their homes by one fill; the lines filled longest
ago go when it holds more than 512 (R244; log entry 9). A bad word is not kept (R249). -/
def State.icFill (s : State) (ck : Nat) (locs : List Nat) : State :=
  let gen := s.nextUid
  let new := locs.map fun loc => (⟨loc / 128, gen, s.bytesNow (loc / 128 * 128) 128, s.badOf (loc / 128)⟩ : IcLine)
  { (s.modComb ck fun c =>
      let old := c.icache.filter fun x => !(new.any fun n => n.line = x.line)
      { c with icache := old.drop (old.length + new.length - 512) ++ new }) with nextUid := gen + 1 }

/-- The word at a target as an indirect transfer sees it (R70): from the instruction cache, else from memory. -/
def State.peekWord (s : State) (ck : Nat) (ctx : Option Nat) (va : Nat) : Except Nat InstrWord :=
  match s.fetchLocs ck ctx va with
  | .error c => .error c
  | .ok locs =>
    match (s.comb ck).icWord locs with
    | some w => .ok w
    | none => if locs.any s.locBad then .error codeDERR else .ok (BitVec.ofNat 96 (leNat (locs.map s.byteNow)))

/-- The LAND bit of an instruction word (R71). -/
def landBit (w : InstrWord) : Bool := w.getLsbD 89

/-- The trap of a task's first instruction: MISALIGNPC for its ENTRY, or LANDING for a word there without LAND (R327). -/
def Thread.entryTrap (th : Thread) (w : Option InstrWord) : Option TrapInfo :=
  let trap (c : Nat) : Option TrapInfo := some ⟨c, th.em, th.pc.toNat % 2 ^ 32, th.pc.toNat / 2 ^ 32⟩
  if th.entryLand && th.place.record.any fun r => decide (r.entry = th.pc) then
    if th.pc.toNat % 4 ≠ 0 then trap codeMISALIGNPC
    else match w with
      | some w => if landBit w then none else trap codeLANDING
      | none => none
  else none

/-- A thread whose next instruction is in hand; after a fill its run is over, and it is ready from the next clk on (R68, R335). -/
def Thread.fetched (th : Thread) (w : InstrWord) (hit : Bool) (clk : Nat) : Thread :=
  let th := if th.inShortLoop && !th.lbuf.any fun e => e.1 = th.pc then { th with lbuf := th.lbuf ++ [(th.pc, w)] } else th
  let th := if hit then th else { th with runLen := 0, fuse := none, readyAt := Nat.max th.readyAt (clk + 1) }
  { th with entryLand := false, held := some w }

/-- What a fill at an address leaves behind: its translations in the TLBs, and what it read of REPLICATED pages (R200, R225). -/
def State.fetchNote (s : State) (ck : Nat) (ctx : Option Nat) (va : Nat) : State :=
  match ctx with
  | none => s
  | some cx =>
    [va, va + 11].foldl (fun x a => match s.translate ck ctx a .exec with
      | .ok l => (x.tlbNote ck cx .exec l).replicaFetch (keyDie ck) (l.replicaReads a 1)
      | .error _ => x) s

/-- The words behind a fetch that fails on an uncorrectable error counted (R248). -/
def State.countFetch (s : State) (ck : Nat) (ctx : Option Nat) (va code : Nat) : State :=
  if s.badWords.isEmpty || decide (code ≠ codeDERR) then s
  else match s.fetchLocs ck ctx va with
    | .ok locs => s.countWords (locs.map (· / 4)).eraseDups
    | .error _ => s.countWords (s.tableWords ck (ctx.getD 0) va .exec)

/-- The fetch of the next instruction of an agent: its word with the caches as the fetch leaves them, or the trap of a
failed translation (R68, R244), or of a task's entry (R327). An instruction that waits is not fetched again (R86). -/
def State.fetch (s : State) (a : Agent) (th : Thread) : Except TrapInfo (State × InstrWord) :=
  match th.waiting, th.buffered with
  | some w, _ => .ok (s, w)
  | none, some w => .ok (s.setThread a (th.fetched w true 0), w)
  | none, none =>
    let ck := agentKey a
    let ctx := s.agentCtx a
    match th.entryTrap none, s.fetchLocs ck ctx th.pc.toNat with
    | some f, _ => .error f
    | none, .error c => .error ⟨c, th.em, th.pc.toNat % 2 ^ 32, th.pc.toNat / 2 ^ 32⟩
    | none, .ok locs =>
      let hit := ((s.comb ck).icWord locs).isSome
      if !hit && locs.any s.locBad then .error ⟨codeDERR, th.em, th.pc.toNat % 2 ^ 32, th.pc.toNat / 2 ^ 32⟩
      else
        let s := if hit then s else (s.fetchNote ck ctx th.pc.toNat).icFill ck (lineHeads locs)
        let w := ((s.comb ck).icWord locs).getD 0
        match th.entryTrap (some w) with
        | some f => .error f
        | none => .ok (s.setThread a (th.fetched w hit (s.comb ck).clk), w)

/-- The operands that make an instruction of an opcode a vector one when they name a v or p register or `lid`, among D, A,
B and C as bits 0 to 3 (R78, R281); bit 4 for an opcode whose entry makes it one whatever they name (R133, R156, R160,
R294, R343, R344, R368, R370). An undefined minor of the majors 0x01, 0x02, 0x04, 0x05 and 0x06 is read as its neighbours are
(DESIGN CHOICE, log entry 14). -/
def vecFields (op : Nat) : Nat :=
  if [0x014, 0x018, 0x01A, 0x01B, 0x024, 0x028, 0x02A, 0x030, 0x031, 0x032, 0x033, 0x053, 0x054, 0x055, 0x074, 0x075].contains op then 15
  else if [0x017, 0x02B, 0x02C, 0x02D, 0x058, 0x059, 0x05B, 0x05C, 0x070, 0x072].contains op || decide (op / 16 = 6) then 3
  else if [0x034, 0x035].contains op then 5
  else if [0x073, 0x088, 0x094, 0x123, 0x182, 0x183, 0x191, 0x192, 0x194].contains op || decide (op / 16 = 4) then 16
  else if op / 16 = 1 ∨ op / 16 = 2 ∨ op / 16 = 5 then 7
  else if [0x071, 0x100, 0x102, 0x131].contains op then 7
  else if [0x101, 0x103, 0x112, 0x130, 0x132].contains op then 14
  else if [0x104, 0x106].contains op then 5
  else if op = 0x105 then 6
  else if op = 0x107 then 12
  else if [0x110, 0x111, 0x113, 0x114].contains op then 15
  else 0

/-- Whether a word that decode refuses would be a vector instruction, by its opcode and the specifiers its entry reads; an undefined
minor of a major of data instructions is read as its neighbours are, any other word of no defined opcode is taken as uniform (R78,
R81; DESIGN CHOICE, log entry 14). -/
def wordVec (w : Nat) : Bool :=
  let op := w % 1024
  let imm := w / 2 ^ 91 % 2 = 1
  let m := vecFields op
  let is (k n : Nat) : Bool := m.testBit k && vecSpec (Spec.ofCode (w / 2 ^ n % 256))
  let memory := decide (0x10 ≤ op / 16) && decide (op / 16 ≤ 0x13)
  let dst := m.testBit 0 && (match Spec.ofCode (w / 2 ^ 18 % 256) with
    | .v _ => true
    | .p _ => !memory
    | _ => false)
  m.testBit 4 || dst || is 1 26 || (!imm && is 2 34) || is 3 (if imm then 34 else 42)

/-- The lanes a word that is no instruction would act in: TMASK of its ILLOP (R81; log entry 14). -/
def illopMask (th : Thread) (w : InstrWord) : Word :=
  let g (n : Nat) : Guard := ⟨decide (n / 8 % 2 = 1), Fin.ofNat 8 n⟩
  let h : Head := ⟨g (w.toNat / 2 ^ 10), g (w.toNat / 2 ^ 14), 0, false, false, false⟩
  if wordVec w.toNat then
    let m := guardMask th h true
    if w.toNat % 1024 = 0x182 then m &&& ~~~th.lm else m &&& th.em
  else if guardMask th h false = 0 then 0 else th.em

/-- The trap of a word that decode refuses (R81 step 1). -/
def State.illop (s : State) (a : Agent) (th : Thread) (w : InstrWord) : State :=
  let t := if th.runLen = 0 then (s.comb (agentKey a)).startClk a th else th.issueAt
  let th := th.settle t
  (s.tick (agentKey a) t).trapAgent a th ⟨codeILLOP, illopMask th w, 0, 0⟩

/-- INSTRUCTION_FETCH (R68): the fetch of an agent's next instruction as an event of its own. A group's brings the
instruction to hand, for R335; a stream and a steward, which have an issue slot of their own, issue next. A failed
translation traps; a stream's trap waits until its record finds a place (R357). -/
def execInstructionFetch (a : Agent) (s : State) : Host.Outcome State Fault Refusal :=
  match s.thread a with
  | none => .next s
  | some th =>
    if th.stopped then .next s
    else match s.fetch a th with
      | .error f => .next ((s.countFetch (agentKey a) (s.agentCtx a) th.pc.toNat f.cause).trapAgent a th f)
      | .ok (s', _) => .next (match a with
        | .group _ _ _ => s'
        | _ => { s' with cur := some a })

end Sys2Proof.Machine
end

