-- ==== Sys2Proof/Machine/Operands.lean ====
section
/-! DEFINITION. Operand forms: what each kind of operand of an entry may name (R79, R81), the class of an instruction
(R78), lane patterns (R85), immediates (R75), and the rules of issue of each form.
Model's choices in this file: log entries 18, 26. -/

namespace Sys2Proof.Machine

/-! ## Uses -/

/-- A source s register, or a pair of them. -/
def useS (x : Spec) : Use := ⟨x, 1, 1, false, [.s]⟩
def useSPair (x : Spec) : Use := ⟨x, 2, 2, false, [.s]⟩

/-- A destination s register, or 0xFF. -/
def useSD (x : Spec) : Use := ⟨x, 1, 1, true, [.s, .sink]⟩

/-- A destination s register alone. -/
def useSDOnly (x : Spec) : Use := ⟨x, 1, 1, true, [.s]⟩

/-- An s register where 0xFF reads 0. -/
def useSOrSink (x : Spec) : Use := ⟨x, 1, 1, false, [.s, .sink]⟩

/-- An s register where 0xFF reads 0, in the forms without an immediate in its place. -/
def useSUnless (imm : Bool) (x : Spec) : List Use := if imm then [] else [useSOrSink x]

/-- A run of consecutive v registers. -/
def useV (x : Spec) (n align : Nat) (dst : Bool) : Use := ⟨x, n, align, dst, [.v]⟩

/-! ## Lane patterns (R85) -/

/-- `pat(P, i)`: the lane that lane `i` reads under a pattern. -/
def patLane (p : BitVec 5) (i : Nat) : Nat :=
  let k := p.toNat % 8
  match p.toNat / 8 with
  | 0 =>
    match k with
    | 0 => i
    | 1 => 31 - i
    | 2 => i / 8 * 8 + (7 - i % 8)
    | _ => i ^^^ 2 ^ (k - 3)
  | 1 => (i + 32 - 2 ^ k % 32) % 32
  | 2 => i / 8 * 8 + k
  | _ => (i + 2 ^ k) % 32

/-! ## Classes and the rule of an R form -/


/-- The class of an instruction by its operands (R78). -/
def isVec (d : Spec) (srcs : List Spec) : Bool := srcs.any vecSpec || (match d with
  | .v _ => true
  | .p _ => true
  | _ => false)

/-- The rule of an R or I form of a class: cores and the uniform forms elsewhere as told. -/
def ruleR (op : Nat) (f : RForm) (vec : Bool) (uses : List Use) (steward stream : Bool) (lat : Nat) : Rule :=
  { Rule.basic op f.h vec uses with ty := f.ty, steward := steward, stream := stream, lat := lat, imm := f.imm }

/-- The rule of a uniform S form for cores alone. -/
def ruleS (op : Nat) (f : SForm) (uses : List Use) : Rule := Rule.basic op f.h false uses

/-- The rule of a uniform B form for cores alone. -/
def ruleB (op : Nat) (f : BForm) (uses : List Use) : Rule := Rule.basic op f.h false uses

/-- Operand A of an R form for a lane, at 32 and at 64 bits, with its pattern. -/
def Env.a32 (e : Env) (f : RForm) (i : Nat) : Word := e.read32 f.a (patLane f.apat i)
def Env.a64 (e : Env) (f : RForm) (i : Nat) : DWord := e.read64 f.a (patLane f.apat i)

/-- Operand B of an R form, or IMM32 in its place (R75). -/
def Env.b32 (e : Env) (f : RForm) (i : Nat) : Word :=
  match f.imm with
  | some x => x
  | none => e.read32 f.b (patLane f.bpat i)
def Env.b64 (e : Env) (f : RForm) (signed : Bool) (i : Nat) : DWord :=
  match f.imm with
  | some x => if signed then x.signExtend 64 else x.setWidth 64
  | none => e.read64 f.b (patLane f.bpat i)

/-- Operand C of an R form. -/
def Env.c32 (e : Env) (f : RForm) (i : Nat) : Word := e.read32 f.c i
def Env.c64 (e : Env) (f : RForm) (i : Nat) : DWord := e.read64 f.c i

/-- A value for every lane in `act`. -/
def Env.each {α : Type} (e : Env) (g : Nat → α) : List (Nat × α) := e.lanes.map fun i => (i, g i)

end Sys2Proof.Machine
end

