-- ==== Sys2Proof/Machine/Flags.lean ====
section
/-! DEFINITION. Flags: the exceptions lanes raise, `fstat`, `mode`, and the trap that follows an enabled one
(R9, R105 to R107, R146).
Model's choices in this file: log entry 16. -/

namespace Sys2Proof.Machine

/-- The writable bits of `mode` (R105) and of `fstat` (R106). -/
def modeMask : Word := 0x1F1F
def fstatMask : Word := 0x1F

/-- The flags MODE enables to trap, in the layout of `fstat` (R105). -/
def trapEnables (mode : Word) : BitVec 5 := (mode >>> 8).setWidth 5

/-- The flags of all lanes together. -/
def excAll (l : List (Nat × BitVec 5)) : BitVec 5 := l.foldl (fun x p => x ||| p.2) 0

/-- The lanes that `raise` marks faulting: one of their flags is enabled (R7, R9). -/
def faulting (mode : Word) (l : List (Nat × BitVec 5)) : List (Nat × BitVec 5) :=
  l.filter fun p => p.2 &&& trapEnables mode ≠ 0

/-- The trap of R9 for faulting lanes: TMASK the lanes, TVAL the destination, TVAL2 their flags. A uniform instruction's
single instance puts `em` into TMASK (log entry 16). -/
def fpTrap (e : Env) (d : Spec) (bad : List (Nat × BitVec 5)) : TrapInfo :=
  ⟨codeFPEXC, if e.vec then laneMask (bad.map (·.1)) else e.th.em, d.code, (excAll bad).toNat⟩

/-- The effect of an instruction that raises flags: lanes that fault keep their old destination, the others are
written, all flags go to `fstat`, and the trap follows (R9). `mk` makes the writes of the lanes that are written. -/
def Env.fpDone (e : Env) (d : Spec) (res : List (Nat × BitVec 5)) (mk : List Nat → List RegWrite) : Eff :=
  let bad := faulting e.th.mode res
  let good := (res.filter fun p => !(bad.any fun b => b.1 = p.1)).map (·.1)
  .ok ⟨e.s, e.th, mk good, excAll res, if bad.isEmpty then none else some (fpTrap e d bad), .seq⟩

/-- `rm()`: the rounding mode of FLAGS.RND, or MODE.RM when it is DYN (R50, R84). -/
def Env.rmode (e : Env) (rnd : Nat) : RMode :=
  (RMode.ofCode (if rnd = 0 then e.th.mode.toNat % 8 else rnd)).getD .rne

/-- Whether MODE.FTZ is set (R54, R105). -/
def Env.ftz (e : Env) : Bool := e.th.mode.getLsbD 3

/-- How an instruction with FLAGS and SAT2 delivers its results (R145). -/
def Env.fopt (e : Env) (flags : BitVec 4) (sat2 : Nat) : FOpt := ⟨e.rmode (flags.toNat % 8), e.ftz, flags.getLsbD 3, sat2⟩

end Sys2Proof.Machine
end

