-- ==== Sys2Proof/Machine/Integer.lean ====
section
/-! DEFINITION. Integer arithmetic and logic: majors 0x01 and 0x02 (R114 to R126).
Model's choices in this file: log entries 18, 19. -/

namespace Sys2Proof

/-- The elements of an integer type: how many, of what width, and whether signed (R39, R115). -/
def Ty.elems : Ty → Nat × Nat × Bool
  | .s32 => (1, 32, true)
  | .u64 => (1, 64, false)
  | .s64 => (1, 64, true)
  | .s16x2 => (2, 16, true)
  | .s8x4 => (4, 8, true)
  | .u8x4 => (4, 8, false)
  | _ => (1, 32, false)

/-- Whether a type is 64 bits wide. -/
def Ty.wide (t : Ty) : Bool := t = .u64 || t = .s64

/-- The type of an R form. -/
def RForm.typ (f : RForm) : Ty := (Ty.ofCode f.ty.toNat).getD .b32

end Sys2Proof

namespace Sys2Proof.Machine

/-! ## Elements (R38, R39, R115) -/

/-- A field of `w` bits as an integer. -/
def toInt (signed : Bool) (w n : Nat) : Int :=
  let m := n % 2 ^ w
  if signed && decide (2 ^ w ≤ 2 * m) then (m : Int) - (2 ^ w : Nat) else m

/-- The range of a signed or unsigned field (R38). -/
def intLo (signed : Bool) (w : Nat) : Int := if signed then -((2 ^ (w - 1) : Nat) : Int) else 0
def intHi (signed : Bool) (w : Nat) : Int := if signed then ((2 ^ (w - 1) : Nat) : Int) - 1 else ((2 ^ w : Nat) : Int) - 1

/-- `sat(x, lo, hi)` (R38). -/
def satInt (lo hi x : Int) : Int := if x < lo then lo else if hi < x then hi else x

/-- An exact integer reduced modulo 2^w, saturated first where S asks for it (R115). -/
def narrow (signed sat : Bool) (w : Nat) (x : Int) : Nat :=
  ((if sat then satInt (intLo signed w) (intHi signed w) x else x) % ((2 ^ w : Nat) : Int)).toNat

/-- An operation of a type on each element of three operands (R39, R117). -/
def elementwise (t : Ty) (sat : Bool) (g : Int → Int → Int → Int) (a b c : Nat) : Nat :=
  let (n, w, sg) := t.elems
  let at' (x k : Nat) : Int := toInt sg w (x / 2 ^ (w * k))
  (List.range n).foldl (fun r k => r + 2 ^ (w * k) * narrow sg sat w (g (at' a k) (at' b k) (at' c k))) 0

/-! ## The rule and the shape of an operation -/

/-- What a data source may name (R79, R142; log entry 18). -/
def srcKinds : List Kind := [.v, .s, .q, .special, .const, .sink]

/-- A source that may also be a p register, read as each lane's bit: operand C of an arithmetic or logic entry, and the
operands of entries that are neither (R79, R142). -/
def srcP (wide : Bool) (x : Spec) : Use := ⟨x, if wide then 2 else 1, if wide then 2 else 1, false, .p :: srcKinds⟩

/-- A source of one register, or of a pair. -/
def src (wide : Bool) (x : Spec) : Use := ⟨x, if wide then 2 else 1, if wide then 2 else 1, false, srcKinds⟩

/-- A destination: a v register in a vector instruction, an s register in a uniform one, or 0xFF (R78, R116). R79 lists p
and q registers as destinations too, and only some entries give a bit to write there: the others refuse them (DESIGN
CHOICE, log entry 52). -/
def dst (wide vec : Bool) (x : Spec) : Use := ⟨x, if wide then 2 else 1, if wide then 2 else 1, true, if vec then [.v, .sink] else [.s, .sink]⟩

/-- A predicate operand. -/
def predSrc (x : Spec) : Use := ⟨x, 1, 1, false, [.p, .q]⟩

/-- Operand B as a use; an immediate names no register. -/
def useB (f : RForm) (wide : Bool) : List Use := if f.imm.isSome then [] else [src wide f.b]

/-- The registers an R form reads, for its class. -/
def readsAB (f : RForm) : List Spec := [f.a] ++ (if f.imm.isSome then [] else [f.b])

/-- Writes of 32-bit values of a type. In a stream they are extended as R304 says for U32, B32 and S32; for the other
types the spec states no upper word, and it is a free value (log entry 19). -/
def Env.writeTy (e : Env) (t : Ty) (d : Spec) (vals : List (Nat × Word)) : List RegWrite :=
  if e.ag.isStream && !(t = .u32 || t = .b32 || t = .s32) then
    e.write64 d (vals.map fun x => (x.1, Config.freeWord (e.s.freeN * 2 ^ 16) ++ x.2))
  else e.write32 d (t = .s32) vals

/-- Results of a type for every lane in `act`: pairs for the 64-bit types. -/
def Env.results (e : Env) (t : Ty) (d : Spec) (g : Nat → Nat) : List RegWrite :=
  if t.wide then e.write64 d (e.each fun i => BitVec.ofNat 64 (g i)) else e.writeTy t d (e.each fun i => BitVec.ofNat 32 (g i))

/-- Operands of a type as numbers. -/
def Env.aN (e : Env) (f : RForm) (i : Nat) : Nat := if f.typ.wide then (e.a64 f i).toNat else (e.a32 f i).toNat
def Env.bN (e : Env) (f : RForm) (i : Nat) : Nat := if f.typ.wide then (e.b64 f (f.typ = .s64) i).toNat else (e.b32 f i).toNat
def Env.cN (e : Env) (f : RForm) (i : Nat) : Nat := if f.typ.wide then (e.c64 f i).toNat else (e.c32 f i).toNat

/-- The issue of `dataOp`. -/
def dataOpRule (op : Nat) (f : RForm) (one three bNarrow stream : Bool) : Rule :=
  let t := f.typ
  let vec := isVec f.d (if one then [f.a] else readsAB f ++ (if three then [f.c] else []))
  let uses := [dst t.wide vec f.d, src t.wide f.a] ++ (if one then [] else useB f (t.wide && !bNarrow)) ++ (if three then [srcP t.wide f.c] else [])
  ruleR op f vec uses true stream 4

/-- An operation of majors 0x01 and 0x02 on A, B and, when `three`, C, all of the instruction's type; `bNarrow` reads
B at 32 bits whatever the type. -/
def dataOp (s : State) (op : Nat) (f : RForm) (one three bNarrow stream : Bool) (g : Nat → Nat → Nat → Nat) : Host.Outcome State Fault Refusal :=
  let t := f.typ
  issue s (dataOpRule op f one three bNarrow stream) fun e =>
    e.done (e.results t f.d fun i => g (e.aN f i) (if bNarrow then (e.b32 f i).toNat else e.bN f i) (e.cN f i))

/-- An integer operation of R117. -/
def intOp (s : State) (op : Nat) (f : RForm) (one three : Bool) (g : Int → Int → Int → Int) : Host.Outcome State Fault Refusal :=
  dataOp s op f one three false true fun a b c => elementwise f.typ (f.flags.getLsbD 3) g a b c

/-! ## Major 0x01 -/

/-- IADD (R117). -/
def execIadd (f : RForm) (s : State) : Host.Outcome State Fault Refusal := intOp s 0x010 f false false fun a b _ => a + b

/-- ISUB (R117). -/
def execIsub (f : RForm) (s : State) : Host.Outcome State Fault Refusal := intOp s 0x011 f false false fun a b _ => a - b

/-- IMUL (R117). -/
def execImul (f : RForm) (s : State) : Host.Outcome State Fault Refusal := intOp s 0x012 f false false fun a b _ => a * b

/-- IMULHI (R117): the high w bits of the product. -/
def execImulhi (f : RForm) (s : State) : Host.Outcome State Fault Refusal :=
  intOp s 0x013 f false false fun a b _ => a * b / ((2 ^ f.typ.elems.2.1 : Nat) : Int)

/-- IMAD (R117). -/
def execImad (f : RForm) (s : State) : Host.Outcome State Fault Refusal := intOp s 0x014 f false true fun a b c => a * b + c

/-- IMIN (R117). -/
def execImin (f : RForm) (s : State) : Host.Outcome State Fault Refusal := intOp s 0x015 f false false fun a b _ => if b < a then b else a

/-- IMAX (R117). -/
def execImax (f : RForm) (s : State) : Host.Outcome State Fault Refusal := intOp s 0x016 f false false fun a b _ => if a < b then b else a

/-- IABS (R117). -/
def execIabs (f : RForm) (s : State) : Host.Outcome State Fault Refusal := intOp s 0x017 f true false fun a _ _ => if a < 0 then -a else a

/-- The issue of IADDC. D = 0xFF faults BADSPEC (R118), where R142 has the result discarded (DESIGN CHOICE, log entry 52). -/
def ruleIaddc (f : RForm) : Rule :=
  let vec := isVec f.d [f.a, f.b, f.c]
  ruleR 0x018 f vec [⟨f.d, 1, 1, true, if vec then [.v] else [.s]⟩, src false f.a, src false f.b,
      ⟨f.c, 1, 1, false, [.p, .q, .sink]⟩, ⟨f.e, 1, 1, true, if vec then [.p, .sink] else [.q, .sink]⟩] true true 4

/-- IADDC (R118): a carry in from C, a carry out to E: a p register of a vector instruction, a q of a uniform one. -/
def execIaddc (f : RForm) (s : State) : Host.Outcome State Fault Refusal :=
  issue s (ruleIaddc f) fun e =>
    let sum (i : Nat) : Nat := (e.a32 f i).toNat + (e.b32 f i).toNat + (e.c32 f i).toNat
    e.done (e.write32 f.d false (e.each fun i => BitVec.ofNat 32 (sum i)) ++
      e.write32 f.e false (e.each fun i => BitVec.ofNat 32 (sum i / 2 ^ 32)))

/-- The issue of LEA. -/
def ruleLea (f : RForm) : Rule :=
  let vec := isVec f.d (readsAB f)
  ruleR 0x019 f vec ([dst true vec f.d, src true f.a] ++ useB f false) true true 4

/-- LEA (R119): base plus a shifted offset of 32 bits; in the I form a base of 0xFF is the instruction's address. -/
def execLea (f : RForm) (s : State) : Host.Outcome State Fault Refusal :=
  issue s (ruleLea f) fun e =>
    e.done (e.write64 f.d (e.each fun i =>
      let base := if f.imm.isSome ∧ f.a = .sink then e.th.pc else e.a64 f i
      let off := if f.typ = .s64 then (e.b32 f i).signExtend 64 else (e.b32 f i).setWidth 64
      base + off <<< (f.flags.toNat % 8)))

/-- The issue of `dotOp`. -/
def dotOpRule (op : Nat) (f : RForm) : Rule :=
  let vec := isVec f.d (readsAB f ++ [f.c])
  ruleR op f vec ([dst false vec f.d, src false f.a] ++ useB f false ++ [srcP false f.c]) true false 4

/-- A dot product of the elements of A and B added to C, saturated to C's type or reduced (R120). -/
def dotOp (s : State) (op : Nat) (f : RForm) : Host.Outcome State Fault Refusal :=
  let (n, w, sg) := f.typ.elems
  issue s (dotOpRule op f) fun e =>
    e.done (e.write32 f.d sg (e.each fun i =>
      let at' (x k : Nat) : Int := toInt sg w (x / 2 ^ (w * k))
      let x := (List.range n).foldl (fun (r : Int) k => r + at' (e.a32 f i).toNat k * at' (e.b32 f i).toNat k) (toInt sg 32 (e.c32 f i).toNat)
      BitVec.ofNat 32 (narrow sg (f.flags.getLsbD 3) 32 x)))

/-- IDP4 (R120). -/
def execIdp4 (f : RForm) (s : State) : Host.Outcome State Fault Refusal := dotOp s 0x01A f

/-- IDP2 (R120). -/
def execIdp2 (f : RForm) (s : State) : Host.Outcome State Fault Refusal := dotOp s 0x01B f

/-! ## Major 0x02 -/

/-- The width of a type's registers. -/
def typeWidth (t : Ty) : Nat := if t.wide then 64 else 32

/-- A bitwise operation (R121). -/
def bitOp (s : State) (op : Nat) (f : RForm) (g : Nat → Nat → Nat) : Host.Outcome State Fault Refusal :=
  dataOp s op f false false false true fun a b _ => g a b

/-- AND (R121). -/
def execAnd (f : RForm) (s : State) : Host.Outcome State Fault Refusal := bitOp s 0x020 f fun a b => a &&& b

/-- OR (R121). -/
def execOr (f : RForm) (s : State) : Host.Outcome State Fault Refusal := bitOp s 0x021 f fun a b => a ||| b

/-- XOR (R121). -/
def execXor (f : RForm) (s : State) : Host.Outcome State Fault Refusal := bitOp s 0x022 f fun a b => a ^^^ b

/-- ANDN (R121). -/
def execAndn (f : RForm) (s : State) : Host.Outcome State Fault Refusal :=
  bitOp s 0x023 f fun a b => a &&& (2 ^ 64 - 1 - b)

/-- The bit a table gives for three bits, A's the lowest of the index (R122). -/
def lutBit (lut : Nat) (a b c : Bool) : Bool := lut.testBit (a.toNat + 2 * b.toNat + 4 * c.toNat)

/-- LOP3 (R122). -/
def execLop3 (f : RForm) (s : State) : Host.Outcome State Fault Refusal :=
  dataOp s 0x024 f false true false true fun a b c =>
    (List.range (typeWidth f.typ)).foldl (fun r j => r + (lutBit f.e.code (a.testBit j) (b.testBit j) (c.testBit j)).toNat * 2 ^ j) 0

/-- SHL (R123): a × 2^n, saturated with S. A count of 64 or more leaves no bit of any type, and at such a count the
exact product is out of range unless a is 0, so the shift stops there. -/
def execShl (f : RForm) (s : State) : Host.Outcome State Fault Refusal :=
  dataOp s 0x025 f false false true true fun a n _ =>
    elementwise f.typ (f.flags.getLsbD 3) (fun x _ _ => x * ((2 ^ (Nat.min n 64) : Nat) : Int)) a 0 0

/-- SHR (R123). -/
def execShr (f : RForm) (s : State) : Host.Outcome State Fault Refusal :=
  dataOp s 0x026 f false false true true fun a n _ => a >>> Nat.min n 64

/-- SAR (R123). -/
def execSar (f : RForm) (s : State) : Host.Outcome State Fault Refusal :=
  dataOp s 0x027 f false false true true fun a n _ =>
    elementwise f.typ false (fun x _ _ => x / ((2 ^ (Nat.min n 64) : Nat) : Int)) a 0 0

/-- FSHL (R124): bits 63:32 of the concatenation shifted left by C's low six bits. -/
def execFshl (f : RForm) (s : State) : Host.Outcome State Fault Refusal :=
  dataOp s 0x028 f false true true true fun a b c => (a * 2 ^ 32 + b) * 2 ^ (c % 64) / 2 ^ 32 % 2 ^ 32

/-- The field control of BFE and BFI: position and clipped length (R125). -/
def fieldOf (w b : Nat) : Nat × Nat :=
  let pos := b % 256
  (pos, if pos < w then Nat.min (b / 256 % 256) (w - pos) else 0)

/-- BFE (R125). -/
def execBfe (f : RForm) (s : State) : Host.Outcome State Fault Refusal :=
  let w := typeWidth f.typ
  dataOp s 0x029 f false false true true fun a b _ =>
    let (pos, len) := fieldOf w b
    if len = 0 then 0 else narrow false false w (toInt f.typ.elems.2.2 len (a / 2 ^ pos))

/-- BFI (R125). -/
def execBfi (f : RForm) (s : State) : Host.Outcome State Fault Refusal :=
  dataOp s 0x02A f false true true true fun a b c =>
    let (pos, len) := fieldOf (typeWidth f.typ) b
    c - c / 2 ^ pos % 2 ^ len * 2 ^ pos + a % 2 ^ len * 2 ^ pos

/-- The issue of `countOp`. -/
def countOpRule (op : Nat) (f : RForm) : Rule :=
  let vec := isVec f.d [f.a]
  ruleR op f vec [dst false vec f.d, src f.typ.wide f.a] true true 4

/-- A count of bits, written as 32 bits whatever the type (R126). -/
def countOp (s : State) (op : Nat) (f : RForm) (g : Nat → Nat) : Host.Outcome State Fault Refusal :=
  issue s (countOpRule op f) fun e =>
    e.done (e.write32 f.d false (e.each fun i => BitVec.ofNat 32 (g (e.aN f i))))

/-- POPC (R126). -/
def execPopc (f : RForm) (s : State) : Host.Outcome State Fault Refusal :=
  countOp s 0x02B f fun a => ((List.range 64).filter fun j => a.testBit j).length

/-- CLZ (R126). -/
def execClz (f : RForm) (s : State) : Host.Outcome State Fault Refusal :=
  countOp s 0x02C f fun a => if a = 0 then typeWidth f.typ else typeWidth f.typ - 1 - Nat.log2 a

/-- BREV (R126). -/
def execBrev (f : RForm) (s : State) : Host.Outcome State Fault Refusal :=
  let w := typeWidth f.typ
  dataOp s 0x02D f true false false true fun a _ _ =>
    (List.range w).foldl (fun r j => r + (a.testBit (w - 1 - j)).toNat * 2 ^ j) 0

end Sys2Proof.Machine
end

