-- ==== Sys2Proof/Machine/Compare.lean ====
section
/-! DEFINITION. Compare, select and move: major 0x03 (R127 to R132).
Model's choices in this file: log entry 28. -/

namespace Sys2Proof.Machine

/-- A condition code between two values in an order: `lt`, `eq`, and whether they compare at all (R127). -/
def condHolds (code : Nat) (lt eq ordered : Bool) : Bool :=
  match code with
  | 0 => false
  | 1 => ordered && lt
  | 2 => ordered && eq
  | 3 => ordered && (lt || eq)
  | 4 => ordered && !(lt || eq)
  | 5 => ordered && !eq
  | 6 => ordered && !lt
  | 7 => ordered
  | 8 => !ordered
  | 9 => !ordered || lt
  | 10 => !ordered || eq
  | 11 => !ordered || lt || eq
  | 12 => !ordered || !(lt || eq)
  | 13 => !ordered || !eq
  | 14 => !ordered || !lt
  | _ => true

/-- The combine of a compare with operand C (R128). -/
def combine (hint : Nat) (r c : Bool) : Bool :=
  match hint with
  | 0 => r && c
  | 1 => r || c
  | _ => r != c

/-- A predicate destination: p in a vector instruction, q in a uniform one, or 0xFF (R128). -/
def predDst (vec : Bool) (x : Spec) : Use := ⟨x, 1, 1, true, if vec then [.p, .sink] else [.q, .sink]⟩

/-- A bit as a predicate is written. -/
def bitWord (b : Bool) : Word := if b then 1 else 0

/-- Operand B of an entry that is neither arithmetic nor logic. -/
def useBP (f : RForm) (wide : Bool) : List Use := if f.imm.isSome then [] else [srcP wide f.b]

/-- The issue of ISETP. -/
def ruleIsetp (f : RForm) : Rule :=
  let t := f.typ
  let vec := isVec f.d (readsAB f ++ [f.c])
  ruleR 0x030 f vec ([predDst vec f.d, srcP t.wide f.a] ++ useBP f t.wide ++ [predSrc f.c]) true true 4

/-- ISETP (R128): TYPE B32 compares as unsigned. -/
def execIsetp (f : RForm) (s : State) : Host.Outcome State Fault Refusal :=
  let t := f.typ
  issue s (ruleIsetp f) fun e =>
    let val (x : Nat) : Int := toInt t.elems.2.2 t.elems.2.1 x
    e.done (e.write32 f.d false (e.each fun i =>
      bitWord (combine (f.hint.toNat % 4) (condHolds f.flags.toNat (val (e.aN f i) < val (e.bN f i)) (val (e.aN f i) = val (e.bN f i)) true)
        ((e.c32 f i).getLsbD 0))))

/-- The format of a floating-point type (R40, R41). -/
def fmtOf (t : Ty) : Fmt :=
  match t with
  | .f16 | .f16x2 => fmtF16
  | .bf16 | .bf16x2 => fmtBF16
  | .e4m3 => fmtE4M3
  | .e5m2 => fmtE5M2
  | .e3m2 => fmtE3M2
  | .e2m3 => fmtE2M3
  | .e2m1 => fmtE2M1
  | _ => fmtF32

/-- An encoding's place in the order of numbers; −0 and +0 have one place. -/
def Fmt.order (f : Fmt) (bits : Nat) : Int :=
  let mag : Int := (bits % 2 ^ (f.eb + f.mb) : Nat)
  if bits / 2 ^ (f.eb + f.mb) % 2 = 1 then -mag else mag

/-- FSETP's bit before the combine, and its flag (R128): NV for a signalling NaN, and for any NaN under an ordered
condition other than equality. MODE.FTZ does not act. -/
def fcompare (f : Fmt) (code a b : Nat) : Bool × Exc :=
  let x := a % 2 ^ f.width
  let y := b % 2 ^ f.width
  let nan := (f.decode x).isNan || (f.decode y).isNan
  let snan := (f.decode x).isSignalling || (f.decode y).isSignalling
  (condHolds code (f.order x < f.order y) (f.order x = f.order y) (!nan),
   if snan || (nan && [1, 3, 4, 6].contains code) then excNV else 0)

/-- The issue of FSETP. -/
def ruleFsetp (f : RForm) : Rule :=
  let vec := isVec f.d (readsAB f ++ [f.c])
  { ruleR 0x031 f vec ([predDst vec f.d, srcP false f.a] ++ useBP f false ++ [predSrc f.c]) true true 4 with fp := true }

/-- FSETP (R128). -/
def execFsetp (f : RForm) (s : State) : Host.Outcome State Fault Refusal :=
  issue s (ruleFsetp f) fun e =>
    let r (i : Nat) : Bool × Exc := fcompare (fmtOf f.typ) f.flags.toNat (e.a32 f i).toNat (e.b32 f i).toNat
    e.fpDone f.d (e.each fun i => (r i).2) fun good =>
      e.write32 f.d false (good.map fun i => (i, bitWord (combine (f.hint.toNat % 4) (r i).1 ((e.c32 f i).getLsbD 0))))

/-- The issue of SEL. -/
def ruleSel (f : RForm) : Rule :=
  let t := f.typ
  let vec := isVec f.d (readsAB f ++ [f.c])
  ruleR 0x032 f vec ([dst t.wide vec f.d, src t.wide f.a] ++ useB f t.wide ++ [predSrc f.c]) true true 4

/-- SEL (R129). -/
def execSel (f : RForm) (s : State) : Host.Outcome State Fault Refusal :=
  let t := f.typ
  issue s (ruleSel f) fun e =>
    e.done (e.results t f.d fun i => if (e.c32 f i).getLsbD 0 then e.aN f i else e.bN f i)

/-- The issue of PLOP. -/
def rulePlop (f : RForm) : Rule :=
  let vec := isVec f.d [f.a, f.b, f.c]
  ruleR 0x033 f vec [predDst vec f.d, predSrc f.a, predSrc f.b, predSrc f.c] true true 4

/-- PLOP (R130). -/
def execPlop (f : RForm) (s : State) : Host.Outcome State Fault Refusal :=
  issue s (rulePlop f) fun e =>
    e.done (e.write32 f.d false (e.each fun i =>
      bitWord (lutBit f.e.code ((e.a32 f i).getLsbD 0) ((e.b32 f i).getLsbD 0) ((e.c32 f i).getLsbD 0))))

/-- The pairs of classes PMOV takes (R131). -/
def pmovOk (f : RForm) : Bool :=
  let word (x : Spec) : Bool := f.imm.isSome || (match x with
    | .s _ => true
    | .const _ => true
    | .special y => y ≠ .lid
    | _ => false)
  let lanes (x : Spec) : Bool := f.imm.isNone && (match x with
    | .v _ => true
    | .special .lid => true
    | _ => false)
  let pr (x : Spec) : Bool := f.imm.isNone && (x.kind = .p || x.kind = .q)
  match f.d with
  | .p _ => word f.b || lanes f.b || pr f.b
  | .q _ => word f.b || (f.imm.isNone && decide (f.b.kind = .q))
  | .s _ => pr f.b
  | .v _ => pr f.b
  | _ => false

/-- The issue of PMOV. -/
def rulePmov (f : RForm) : Rule :=
  let vec := isVec f.d (if f.imm.isSome then [] else [f.b])
  let kinds : List Kind := if pmovOk f then [f.d.kind] else []
  ruleR 0x034 f vec ([⟨f.d, 1, 1, true, kinds⟩] ++ (if f.imm.isSome then [] else [⟨f.b, 1, 1, false, [.v, .s, .p, .q, .special, .const]⟩])) true false 4

/-- PMOV (R131). -/
def execPmov (f : RForm) (s : State) : Host.Outcome State Fault Refusal :=
  let vec := isVec f.d (if f.imm.isSome then [] else [f.b])
  issue s (rulePmov f) fun e =>
    let perLane : Bool := f.imm.isNone && (match f.b with
      | .v _ => true
      | .special .lid => true
      | _ => false)
    let isPred : Bool := f.imm.isNone && (f.b.kind = .p || f.b.kind = .q)
    match f.d with
    | .p _ => e.done (e.write32 f.d false (e.each fun i =>
        if perLane then bitWord (e.b32 f i ≠ 0) else if isPred then e.b32 f i else bitWord ((e.b32 f i).getLsbD i)))
    | .q _ => e.done (e.write32 f.d false [(0, bitWord (e.b32 f 0 ≠ 0))])
    | .s _ => e.done (e.write32 f.d false [(0, if vec then laneMask (e.lanes.filter fun i => (e.b32 f i).getLsbD 0) else e.b32 f 0)])
    | _ => e.done (e.write32 f.d false (e.each fun i => e.b32 f i))

/-- The issue of MOV. -/
def ruleMov (f : RForm) (s : State) : Rule :=
  let t := f.typ
  let vec := isVec f.d (if f.imm.isSome then [] else [f.b])
  let stream := match s.cur with
    | some a => a.isStream
    | none => false
  let d : Use := if stream && decide (f.d = .special .fstat) then ⟨f.d, 1, 1, true, [.special]⟩ else dst t.wide vec f.d
  let b : List Use := if f.imm.isSome then [] else [{ src t.wide f.b with kinds := Kind.p :: srcKinds }]
  ruleR 0x035 f vec ([d] ++ b) true true 4

/-- MOV (R132): in a stream D may be `mstat` (R304). -/
def execMov (f : RForm) (s : State) : Host.Outcome State Fault Refusal :=
  let t := f.typ
  issue s (ruleMov f s) fun e => e.done (e.results t f.d fun i => e.bN f i)

end Sys2Proof.Machine
end

