-- ==== Sys2Proof/Machine/Access.lean ====
section
/-! DEFINITION. What memory instructions share: addresses, translation of all lanes, the order of faults, scratch
addresses, the commit buffer's overlay, and the issue of loads, stores and atomics (R199, R237, R279 to R286, R292).
Model's choices in this file: log entries 11, 42. -/

namespace Sys2Proof.Machine

/-! ## SIZE (R279) -/

/-- The width of a SIZE in bytes. -/
def sizeBytes (size : Nat) : Nat :=
  match size with
  | 0 | 1 => 1
  | 2 | 3 => 2
  | 4 => 4
  | 5 => 8
  | _ => 16

/-- The width a SIZE extends the sign from, or 0. -/
def sizeSext (size : Nat) : Nat := if size = 1 then 8 else if size = 3 then 16 else 0

/-- The registers a SIZE fills. -/
def sizeRegs (size : Nat) : Nat := if size = 5 then 2 else if size = 6 then 4 else 1

/-! ## Operands (R280, R281) -/

/-- Whether an operand names a v register: the class of memory instructions looks at nothing else (R281). -/
def namesV (x : Spec) : Bool := x.kind = .v

/-- The class of an M form by the operands it uses. -/
def memVec (xs : List Spec) : Bool := xs.any namesV

/-- A global base address: a pair, or 0xFF for 0. -/
def useBase (x : Spec) : Use := ⟨x, 2, 2, false, [.s, .v, .sink]⟩

/-- An offset register, or 0xFF; also a scratch base. -/
def useOffset (x : Spec) : Use := ⟨x, 1, 1, false, [.s, .v, .sink]⟩

/-- A data destination of some registers. -/
def useData (x : Spec) (n : Nat) (vec : Bool) : Use := ⟨x, n, n, true, if vec then [.v, .sink] else [.s, .sink]⟩

/-- A data source of some registers, or 0xFF for 0 (R79). -/
def useDatum (x : Spec) (n : Nat) : Use := ⟨x, n, n, false, [.v, .s, .sink]⟩

/-- The signed byte offset. -/
def offs64 (f : MForm) : DWord := f.offs.signExtend 64

/-- `ea(i)` of a global operand `[A + B + OFFS]` (R280). -/
def Env.ea (e : Env) (f : MForm) (i : Nat) : Nat :=
  (e.read64 f.a i + (e.read32 f.b i).signExtend 64 + offs64 f).toNat

/-- `ea(i)` of a scratch operand (R280). -/
def Env.eaScratch (e : Env) (f : MForm) (i : Nat) : Nat :=
  (e.read32 f.a i + e.read32 f.b i + (offs64 f).setWidth 32).toNat

/-- `n` consecutive registers of a lane as a number of 32n bits. -/
def Env.readWide (e : Env) (x : Spec) (n lane : Nat) : Nat :=
  match x with
  | .v _ => (List.range n).foldl (fun r k => r + (e.reg (x.code + k) lane).toNat * 2 ^ (32 * k)) 0
  | .s _ => (List.range n).foldl (fun r k => r + (e.reg (x.code + k) 0).toNat * 2 ^ (32 * k)) 0
  | _ => (e.read32 x lane).toNat

/-- The datum of a SIZE in a source operand. -/
def Env.datum (e : Env) (x : Spec) (size lane : Nat) : Nat := e.readWide x (sizeRegs size) lane % 2 ^ (8 * sizeBytes size)

/-! ## Faults across lanes (R199, R283) -/

/-- The trap of some failing lanes with their addresses: the lowest one's address (R185, R199). -/
def Env.laneFault (e : Env) (code : Nat) (bad : List (Nat × Nat)) : Option TrapInfo :=
  match bad with
  | [] => none
  | b :: bs =>
    let low := bs.foldl (fun x y => if y.1 < x.1 then y else x) b
    some ⟨code, if e.vec then laneMask ((b :: bs).map (·.1)) else e.th.em, low.2 % 2 ^ 32, low.2 / 2 ^ 32⟩

/-- The first of several checks that fails. -/
def firstFault : List (Option TrapInfo) → Option TrapInfo
  | [] => none
  | some f :: _ => some f
  | none :: rest => firstFault rest

/-- The translation of `n` bytes at an address: the leaves of the first and of the last byte; of two faults the one
that R199 prefers. -/
def State.transBytes (s : State) (ck : Nat) (ctx : Option Nat) (va n : Nat) (acc : Access) : Except Nat (Leaf × Leaf) :=
  match s.translate ck ctx va acc, s.translate ck ctx ((va + n - 1) % 2 ^ 64) acc with
  | .ok a, .ok b => .ok (a, b)
  | .error x, .error y => .error (Nat.min x y)
  | .error x, .ok _ => .error x
  | .ok _, .error y => .error y

/-- The locations of `n` bytes at an address under its leaves, for an access from a die. -/
def State.leafLocs (s : State) (ctx die : Nat) (ls : Leaf × Leaf) (va n : Nat) : List Nat :=
  (List.range n).map fun k =>
    let a := (va + k) % 2 ^ 64
    if ls.1.base ≤ a ∧ a < ls.1.base + ls.1.size then s.leafLoc ctx die ls.1 a else s.leafLoc ctx die ls.2 a

/-- One translated lane access. An access over two pages has the memory type of the stricter one: with a DEVICE or STRONG page
among them it faults, so that only NORMAL and WC ones are left, and WC is never cached (R228, R265). -/
structure LaneAcc where
  lane : Nat
  va : Nat
  locs : List Nat
  mtype : Nat
  place : Nat
  leaf : Leaf
  /-- the leaf of its last byte. -/
  last : Leaf
  deriving DecidableEq, Repr

/-- The lane accesses of an instruction, `n` bytes a lane, or its fault by R283 steps 3 to 5. `atomic` needs alignment everywhere and
faults on HOST pages (R265, R292). -/
def Env.laneAccs (e : Env) (acc : Access) (n : Nat → Nat) (align : Nat) (atomic : Bool) (lanes : List (Nat × Nat)) : Except TrapInfo (List LaneAcc) :=
  let ctx := e.s.agentCtx e.ag
  let cx := ctx.getD 0
  let tr : List ((Nat × Nat) × Except Nat (Leaf × Leaf)) := lanes.map fun l => (l, match e.s.transBytes e.ck ctx l.2 (n l.1) acc with
    | .ok ls => if atomic && (ls.1.place = 3 || ls.2.place = 3) then .error codeDPROT else .ok ls
    | .error c => .error c)
  let failing (c : Nat) : List (Nat × Nat) := (tr.filter fun t => match t.2 with
    | .error x => x = c
    | .ok _ => false).map (·.1)
  let accs : List LaneAcc := tr.filterMap fun t => match t.2 with
    | .error _ => none
    | .ok ls => some ⟨t.1.1, t.1.2, e.s.leafLocs cx (keyDie e.ck) ls t.1.2 (n t.1.1), Nat.max ls.1.mtype ls.2.mtype, ls.1.place, ls.1, ls.2⟩
  let misaligned := (accs.filter fun a => decide (a.va % align ≠ 0) && (atomic || decide (2 ≤ a.mtype))).map fun a => (a.lane, a.va)
  let absent := failing codeDERR ++ (accs.filter fun a => a.locs.any e.s.noMemory).map fun a => (a.lane, a.va)
  match firstFault [e.laneFault codeDPAGE (failing codeDPAGE), e.laneFault codeDPROT (failing codeDPROT),
      e.laneFault codeREPLWR (failing codeREPLWR), e.laneFault codeDALIGN misaligned, e.laneFault codeDERR absent] with
  | some f => .error f
  | none => .ok accs

/-- The TLBs with the translations of some lane accesses, and for reads the replica directories (R200, R225). -/
def State.noteAccs (s : State) (ck ctx : Nat) (acc : Access) (as : List LaneAcc) : State :=
  let s := as.foldl (fun s a => (s.tlbNote ck ctx acc a.leaf).tlbNote ck ctx acc a.last) s
  if acc = .read then
    s.replicaFetch (keyDie ck) (as.flatMap fun a => a.leaf.replicaReads a.va a.locs.length ++ (if a.last = a.leaf then [] else a.last.replicaReads a.va a.locs.length))
  else s

/-! ## Scratch (R236 to R238) -/

/-- The granules a thread may address: its team's. -/
def Comb.granulesOf (c : Comb) (th : Thread) : List Nat :=
  match Sparse.find? c.teams th.place.team with
  | some t => t.granules
  | none => []

/-- Whether a scratch address is out of range for an agent (R237, R282, R340). -/
def Env.scRange (e : Env) (a : Nat) : Bool :=
  decide (2 ^ 21 ≤ a) ||
  (!e.ag.isSteward &&
    (!((e.s.comb e.ck).granulesOf e.th).contains (a / 8192) || (e.th.place.atomic && decide (4096 ≤ a % 8192))))

/-- The mode code of a bank (R236). -/
def BankMode.code : BankMode → Nat
  | .off => 0
  | .cache => 1
  | .scratch => 2
  | .fifo => 3

/-- The bank with a number. -/
def Comb.bank (c : Comb) (b : Nat) : Bank := c.banks.getD b (Bank.ofMode .off)

/-- The trap of scratch accesses of `n` bytes: SCRANGE, BANKMODE, then DALIGN to `align` (R283). -/
def Env.scratchFault (e : Env) (n align : Nat) (lanes : List (Nat × Nat)) : Option TrapInfo :=
  let out := lanes.filter fun l => e.scRange l.2 || e.scRange (l.2 + n - 1)
  let mode (l : Nat × Nat) : BankMode := ((e.s.comb e.ck).bank (l.2 / 2 ^ 17 % 16)).mode
  let wrong := lanes.filter fun l => mode l ≠ .scratch
  let bm : Option TrapInfo := match e.laneFault codeBANKMODE wrong with
    | some f => some { f with tval := f.tval / 2 ^ 17 % 16, tval2 := ((e.s.comb e.ck).bank (f.tval / 2 ^ 17 % 16)).mode.code }
    | none => none
  firstFault [e.laneFault codeSCRANGE out, bm, e.laneFault codeDALIGN (lanes.filter fun l => l.2 % align ≠ 0)]

/-- The clk for which a scratch access of an instruction holds its core's port: two for a vector one, one for a uniform one,
and one more for each further row of 128 B in one bank (R286). -/
def Env.portClks (e : Env) (lanes : List (Nat × Nat)) : Nat × Nat :=
  let rows := (lanes.map fun l => l.2 / 128).eraseDups
  let r := (List.range 16).foldl (fun m b => Nat.max m (rows.filter fun x => x / 1024 % 16 = b).length) 1
  (if e.vec then 2 else 1, r - 1)

/-- A scratch access takes its core's port: the machine, and the clk at which its result lands (R286). -/
def Env.scratchPort (e : Env) (s : State) (lanes : List (Nat × Nat)) : State × Nat :=
  let k := e.portClks lanes
  let p := e.takePort s (k.1 + k.2)
  (p.1, p.2 + 12 + k.2)

/-- The locations of `n` bytes of the issuing comb's scratch. -/
def scratchLocs (ck a n : Nat) : List Nat := (List.range n).map fun k => scratchLoc ck (a + k)

/-! ## The commit buffer (R282, R339, R340) -/

/-- Codes of the buffered actions. -/
def commitStore : Nat := 0x101

/-- Whether a buffered store covers a bit, and the bit's value. -/
def CommitEnt.bit (c : CommitEnt) (b : Nat) : Option Bool :=
  match c.op, c.nums with
  | 0x101, at' :: w :: _ | 0x107, at' :: w :: _ => if at' ≤ b ∧ b < at' + w then some ((c.payload.headD 0).testBit (b - at')) else none
  | _, _ => none

/-- The bits of a byte that a task has buffered, as a value and a mask. -/
def commitByte (cs : List CommitEnt) (va : Nat) : Byte × Byte :=
  (List.range 8).foldl (fun r k =>
    match (cs.filterMap fun c => c.bit (8 * va + k)).getLast? with
    | some v => (setBit r.1 k v, setBit r.2 k true)
    | none => r) (0, 0)

/-- What a load takes from the commit buffer instead of memory. -/
def commitOver (cs : List CommitEnt) (va n : Nat) : List (Nat × Byte × Byte) :=
  if cs.isEmpty then []
  else (List.range n).filterMap fun k =>
    let r := commitByte cs (va + k)
    if r.2 = 0 then none else some (k, r.1, r.2)

/-- The bytes in use in a commit buffer. -/
def commitUsed (cs : List CommitEnt) : Nat := cs.foldl (fun n c => n + c.bytes) 0

/-- Buffers the entries of one action, or faults COMMITOVF with nothing buffered (R340). -/
def Env.buffer (e : Env) (s : State) (es : List CommitEnt) (k : State → Thread → Eff) : Eff :=
  let need := commitUsed es
  let used := commitUsed e.th.commit
  if 4096 < used + need then e.fault codeCOMMITOVF need used else k s { e.th with commit := e.th.commit ++ es }

/-! ## Loads -/

/-- Whether lane accesses form a fully coalesced group access (R264). -/
def coalesced (e : Env) (n : Nat) (as : List LaneAcc) : Bool :=
  e.vec && decide (e.act = 0xFFFFFFFF) && decide (n = 4) && (match as with
    | a :: _ => decide (a.va % 128 = 0) && as.all fun x => decide (x.va = a.va + 4 * x.lane) && decide (x.mtype ≤ 1)
    | [] => false)

/-- The registers of a load or an atomic that stay uncovered, with their lanes; one without a register keeps its place for the
errors that its WAITC reports (R284). -/
def loadRegs (dst regs : Nat) (lanes : List Nat) : List (Nat × List Nat) :=
  if dst = 0xFF then [(0xFF, lanes)] else (List.range regs).map fun k => (dst + k, lanes)

/-- A load issued: the operation in the LD class with its lanes served as far as they can be (R261, R269). STRONG
pages make it acq_rel at SYS scope (R266). `inv` says INV = 1, `engine` that it is an agent of its own, with its release, and
`due` when a scratch access lands. -/
def Env.load (e : Env) (s : State) (shape : LoadShape) (reads : List LaneRead) (together l1 acq : Bool) (scope : Nat)
    (inv : Bool := false) (engine : Option (Option Nat) := none) (due : Nat := 0) : Eff :=
  let strong := reads.any fun r => r.mtype = 3
  let lanes := reads.map (·.lane)
  let dsts := loadRegs shape.dst shape.regs lanes
  let r := e.async s e.th 0 (if strong then 4 else scope) (if strong then some 4 else engine.join)
    (.load shape reads [] together (l1 && !strong) (acq || strong) 0) dsts due inv engine.isSome
  e.out (r.1.serveComb e.ck) r.2

/-- A lane's read of `n` whole bytes. -/
def LaneAcc.read (a : LaneAcc) (cs : List CommitEnt) : LaneRead :=
  ⟨a.lane, a.va, a.locs, 0, 8 * a.locs.length, none, a.mtype, commitOver cs a.va a.locs.length, none⟩

/-- A global load of `n` bytes a lane. -/
def Env.loadGlobal (e : Env) (lanes : List (Nat × Nat)) (size dst : Nat) (l1 acq : Bool) (scope : Nat)
    (inv : Bool := false) (engine : Option (Option Nat) := none) : Eff :=
  let n := sizeBytes size
  match e.laneAccs .read (fun _ => n) n false lanes with
  | .error f => .fault f
  | .ok as =>
    let s := e.s.noteAccs e.ck ((e.s.agentCtx e.ag).getD 0) .read as
    e.load s ⟨sizeSext size, dst, sizeRegs size⟩ (as.map fun a => a.read e.th.commit) (coalesced e n as) l1 acq scope inv engine

/-- A scratch load of `n` bytes a lane. -/
def Env.loadScratch (e : Env) (lanes : List (Nat × Nat)) (size dst scope : Nat) (acq : Bool) : Eff :=
  let n := sizeBytes size
  match e.scratchFault n n lanes with
  | some f => .fault f
  | none =>
    let p := e.scratchPort e.s lanes
    e.load p.1 ⟨sizeSext size, dst, sizeRegs size⟩
      (lanes.map fun l => ⟨l.1, l.2, scratchLocs e.ck l.2 n, 0, 8 * n, none, 1, [], none⟩) false false acq scope (due := p.2)

/-! ## Stores -/

/-- Who makes a write: the agent it belongs to and the issuer of that, the scope of an acquire (R252, R257), and the number below
which the issuer's accesses happen before it (R269). -/
structure Writer where
  agent : Nat
  issuer : Nat
  acq : Option Nat
  after : Nat
  deriving DecidableEq, Repr

/-- A thread's own write. -/
def Writer.thread (uid : Nat) : Writer := ⟨uid, uid, none, 0⟩

/-- A write on its way, with a number of its own; one to a STRONG page is an acquire (R266). -/
def State.addStore (s : State) (ck ctx : Nat) (w : Writer) (release : Option Nat) (mtype : Nat) (kind : StoreKind) (op : Option Nat) : State :=
  { s with nextUid := s.nextUid + 1, stores := s.stores ++ [⟨s.nextUid, w.agent, w.issuer, ctx, keyDie ck, keyComb ck, release, if mtype = 3 then some 4 else w.acq, w.after, mtype, kind, op⟩] }

/-- The write just added performed at once when nothing holds it up: scratch lies at the comb. -/
def State.performLast (s : State) : State :=
  match s.stores.getLast? with
  | some st => if s.storeReady st then s.storeHome st else s
  | none => s

/-- The release of a store: its own scope, or SYS on a STRONG page (R266). -/
def storeRelease (rel : Bool) (scope mtype : Nat) : Option Nat := if mtype = 3 then some 4 else if rel then some scope else none

/-- One lane's write: natural alignment makes it one write, misalignment one for each byte (R265). The L1 line it finds
is updated as it is sent (R242). -/
def Env.storeLane (e : Env) (s : State) (who : Writer) (rel : Bool) (scope : Nat) (a : LaneAcc) (x : Nat) : State :=
  let ctx := (e.s.agentCtx e.ag).getD 0
  let r := storeRelease rel scope a.mtype
  let items := byteItems a.locs x
  let s := if r.isNone then s.modComb e.ck fun c => c.storeL1 items else s
  if a.va % a.locs.length = 0 then s.addStore e.ck ctx who r a.mtype (.bytes items) none
  else items.foldl (fun s it => s.addStore e.ck ctx who r a.mtype (.bytes [it]) none) s

/-- A group's write of one value a lane: one write when fully coalesced (R264). -/
def Env.storeLanes (e : Env) (s : State) (who : Writer) (rel : Bool) (scope n : Nat) (as : List LaneAcc) (x : Nat → Nat) : State :=
  if coalesced e n as then
    let items := as.flatMap fun a => byteItems a.locs (x a.lane)
    let mtype := (as.head?.map (·.mtype)).getD 0
    let r := storeRelease rel scope mtype
    let s := if r.isNone then s.modComb e.ck fun c => c.storeL1 items else s
    s.addStore e.ck ((e.s.agentCtx e.ag).getD 0) who r mtype (.bytes items) none
  else as.foldl (fun s a => e.storeLane s who rel scope a (x a.lane)) s

/-! ## Atomics (R292, R293) -/

/-- The lanes of an atomic sent to their homes; those of an instruction with a result hand their old values to its
operation. -/
def Env.atomLanes (e : Env) (s : State) (who : Writer) (op : Option Nat) (rel : Bool) (scope code : Nat) (as : List LaneAcc) (d cmp : Nat → Nat) : State :=
  as.foldl (fun s a =>
    s.addStore e.ck ((e.s.agentCtx e.ag).getD 0) who (storeRelease rel scope a.mtype) a.mtype
      (.atomic code a.lane a.va a.locs (d a.lane) (cmp a.lane)) op) s

/-- An atomic with a result: an operation in LD that waits for each lane's old value; one on scratch is performed at the bank
and lands by its port (R286). -/
def Env.atomOp (e : Env) (s : State) (size dst : Nat) (acq rel : Bool) (scope code : Nat) (as : List LaneAcc) (d cmp : Nat → Nat) (now : Bool) : Eff :=
  let regs := sizeRegs size
  let strong := as.any fun a => a.mtype = 3
  let dsts := loadRegs dst regs (as.map (·.lane))
  let p := if now then e.scratchPort s (as.map fun a => (a.lane, a.va)) else (s, 0)
  let uid := p.1.nextUid
  let who := Writer.thread e.th.uid
  let r := e.async p.1 e.th 0 (if strong then 4 else scope) none (.load ⟨0, dst, regs⟩ [] [] false false (acq || strong) as.length) dsts p.2
  let s' := if now then as.foldl (fun s a => (e.atomLanes s who (some uid) rel scope code [a] d cmp).performLast) r.1
    else e.atomLanes r.1 who (some uid) rel scope code as d cmp
  e.out s' r.2

end Sys2Proof.Machine
end

