-- ==== Sys2Proof/Machine/Barriers.lean ====
section
/-! DEFINITION. Named barriers, transaction barriers, outstanding-operation counters and region order counters:
major 0x1C without the dependency counters (R378 to R388, R391).
Model's choices in this file: log entry 26. -/

namespace Sys2Proof.Machine

/-- The rule of a counter instruction (R378). -/
def ruleC (op : Nat) (f : SForm) (uses : List Use) : Rule := Rule.basic op f.h false uses

/-! ## Named barriers (R379 to R381) -/

/-- A comb with a team changed. -/
def Comb.modTeam (c : Comb) (k : Nat) (g : Team → Team) : Comb :=
  match Sparse.find? c.teams k with
  | some t => { c with teams := Sparse.put c.teams k (g t) }
  | none => c

/-- The barrier of a team with a number. -/
def Team.barrier (t : Team) (b : Nat) : Barrier := t.barriers.getD b ⟨0, 0, 0⟩

/-- The completed-phase count of a thread's barrier. -/
def Comb.phases (c : Comb) (team b : Nat) : Nat :=
  match Sparse.find? c.teams team with
  | some t => (t.barrier b).phases
  | none => 0

/-- An arrival of count `n`: the barrier after it and the phase joined, or E, 0 when unset, of a BARCOUNT (R380). -/
def Barrier.arrive (x : Barrier) (n : Nat) : Except Nat (Barrier × Nat) :=
  if n < 1 ∨ 255 < n ∨ (x.expect ≠ 0 ∧ n ≠ x.expect) then .error x.expect
  else if x.arrivals + 1 = n then .ok (⟨0, 0, (x.phases + 1) % 2 ^ 16⟩, x.phases)
  else .ok (⟨n, x.arrivals + 1, x.phases⟩, x.phases)

/-- An arrival at a barrier of a team. -/
def Comb.arrive (c : Comb) (team b n : Nat) : Except Nat (Comb × Nat) :=
  match Sparse.find? c.teams team with
  | none => .error 0
  | some t =>
    match (t.barrier b).arrive n with
    | .error x => .error x
    | .ok (x, ph) => .ok ({ c with teams := Sparse.put c.teams team { t with barriers := t.barriers.set b x } }, ph)

/-- The count of BARA and BARW. -/
def Env.barCount (e : Env) (f : SForm) : Nat :=
  if f.sub.getLsbD 0 then f.imm.toNat / 16 % 256 else (e.read32 f.a 0).toNat

/-- The arrival of BARA and BARW, and what comes after it with the phase joined. -/
def Env.bar (e : Env) (f : SForm) (k : State → Nat → Eff) : Eff :=
  let b := f.imm.toNat % 16
  e.afterRelease 1 fun _ =>
    match (e.s.comb e.ck).arrive e.th.place.team b (e.barCount f) with
    | .error x => .fault ⟨codeBARCOUNT, e.th.em, b, x⟩
    | .ok (c, ph) => k (e.s.setComb e.ck c) ph

/-- The issue of BARI. -/
def ruleBari (f : SForm) : Rule :=
  ruleC 0x1C0 f []

/-- BARI (R381). -/
def execBari (f : SForm) (s : State) : Host.Outcome State Fault Refusal :=
  issue s (ruleBari f) fun e =>
    let b := f.imm.toNat % 16
    e.out (e.s.modComb e.ck fun c => c.modTeam e.th.place.team fun t =>
      { t with barriers := t.barriers.set b { t.barrier b with arrivals := 0, expect := 0 } }) e.th

/-- The issue of BARA. -/
def ruleBara (f : SForm) : Rule :=
  ruleC 0x1C1 f (useSUnless (f.sub.getLsbD 0) f.a)

/-- BARA (R380). -/
def execBara (f : SForm) (s : State) : Host.Outcome State Fault Refusal :=
  issue s (ruleBara f) fun e => e.bar f fun s _ => e.out s e.th

/-- The issue of BARW. -/
def ruleBarw (f : SForm) : Rule :=
  { ruleC 0x1C2 f (useSUnless (f.sub.getLsbD 0) f.a) with ends := true }

/-- BARW (R380). -/
def execBarw (f : SForm) (s : State) : Host.Outcome State Fault Refusal :=
  issue s (ruleBarw f) fun e =>
    let b := f.imm.toNat % 16
    let go (s : State) (ph : Nat) : Eff :=
      if (s.comb e.ck).phases e.th.place.team b ≠ ph then e.out s e.th else .wait s { e.th with wait := .phase b ph }
    match e.th.wait with
    | .phase _ ph => go e.s ph
    | _ => e.bar f go

/-! ## Transaction barriers (R382 to R386) -/

/-- A transaction barrier's fields. -/
structure TxBar where
  expect : Nat
  err : Bool
  sect : Nat
  arr : Nat
  phase : Nat
  deriving DecidableEq, Repr

/-- The barrier 128 bits hold; reserved bits read as 0 (R383). -/
def TxBar.ofNat (x : Nat) : TxBar := ⟨x / 2 ^ 64 % 2 ^ 20, x.testBit 48, x / 2 ^ 24 % 2 ^ 24, x / 2 ^ 4 % 2 ^ 20, x % 16⟩

/-- The 128 bits of a barrier. -/
def TxBar.toNat (t : TxBar) : Nat := t.phase + t.arr * 2 ^ 4 + t.sect * 2 ^ 24 + t.err.toNat * 2 ^ 48 + t.expect * 2 ^ 64

/-- The flip test (R384). -/
def TxBar.flip (t : TxBar) : TxBar := if t.arr = 0 ∧ t.sect = 0 then { t with phase := (t.phase + 1) % 16, arr := t.expect } else t

/-- `arrive()` without its flip test (R384). -/
def TxBar.arrive (t : TxBar) : TxBar := if t.arr = 0 then { t with err := true } else { t with arr := t.arr - 1 }

/-- A counted sector (R385). -/
def TxBar.sector (t : TxBar) : TxBar := (if t.sect = 0 then { t with err := true } else { t with sect := t.sect - 1 }).flip

/-- The sectors a copy will not deliver (R298, R300, R385). -/
def TxBar.lose (t : TxBar) (n : Nat) : TxBar := { t with sect := t.sect - n, err := true }.flip

/-- The barrier at a scratch address of a comb. -/
def Comb.txBar (c : Comb) (a : Nat) : TxBar := TxBar.ofNat (leNat (Sparse.getRun 0 c.scratch a 16))

/-- The barrier at a scratch address changed in one read-modify-write (R383). -/
def Comb.modTxBar (c : Comb) (a : Nat) (g : TxBar → TxBar) : Comb :=
  c.putScratch a (leBytes 16 (g (c.txBar a)).toNat)

/-- The address of a barrier operand, checked (R283, R383). -/
def Env.txAddr (e : Env) (a : Spec) (k : Nat → Eff) : Eff :=
  let x := (e.read32 a 0).toNat
  match e.scratchFault 16 16 [(0, x)] with
  | some t => .fault t
  | none => k x

/-- Whether an older store or atomic to scratch must reach its bank before a barrier operation of the comb (R383). -/
def Env.txBusy (e : Env) (x : Nat) : Bool :=
  e.s.stores.any fun st => decide (st.agentUid = e.th.uid) && overlaps st.locs (scratchLocs e.ck x 16)

/-- The issue of TBINIT. -/
def ruleTbinit (f : SForm) : Rule :=
  { ruleC 0x1C3 f [useSOrSink f.a] with steward := true }

/-- TBINIT (R384). -/
def execTbinit (f : SForm) (s : State) : Host.Outcome State Fault Refusal :=
  issue s (ruleTbinit f) fun e =>
    e.txAddr f.a fun x =>
      if e.txBusy x then e.block .again
      else e.out (e.s.modComb e.ck fun c => c.modTxBar x fun _ => (⟨f.imm.toNat, false, 0, f.imm.toNat, 0⟩ : TxBar).flip) e.th

/-- The issue of TBEXP. -/
def ruleTbexp (f : SForm) : Rule :=
  ruleC 0x1C4 f (useSOrSink f.a :: useSUnless (f.sub.getLsbD 0) f.b)

/-- TBEXP (R384): with `.arr` a release (R465). -/
def execTbexp (f : SForm) (s : State) : Host.Outcome State Fault Refusal :=
  issue s (ruleTbexp f) fun e =>
    e.txAddr f.a fun x =>
      let go (_ : Unit) : Eff :=
        if e.txBusy x then e.block .again
        else
          let k := if f.sub.getLsbD 0 then f.imm.toNat else (e.read32 f.b 0).toNat % 2 ^ 24
          let t := (e.s.comb e.ck).txBar x
          let under := f.sub.getLsbD 1 && decide (t.sect < k)
          let above := !f.sub.getLsbD 1 && decide (2 ^ 24 ≤ t.sect + k)
          if under || above then .fault ⟨codeTBOVER, e.th.em, x, 0⟩
          else
            let sect := if f.sub.getLsbD 1 then t.sect - k else t.sect + k
            e.out (e.s.modComb e.ck fun c => c.modTxBar x fun t =>
              let t := { t with sect := sect }
              (if f.sub.getLsbD 2 then t.arrive else t).flip) e.th
      if f.sub.getLsbD 2 then e.afterRelease 1 go else go ()

/-- The issue of TBARR. -/
def ruleTbarr (f : SForm) : Rule :=
  { ruleC 0x1C5 f [useSD f.d, useSOrSink f.a] with cls := some 0 }

/-- TBARR (R383, R384): the phase joined lands as a scratch load does. -/
def execTbarr (f : SForm) (s : State) : Host.Outcome State Fault Refusal :=
  issue s (ruleTbarr f) fun e =>
    e.txAddr f.a fun x =>
      e.afterRelease 1 fun _ =>
        if e.txBusy x then e.block .again
        else
          let ph := ((e.s.comb e.ck).txBar x).phase
          let ws := e.write32 f.d false [(0, BitVec.ofNat 32 ph)]
          let p := e.takePort (e.s.modComb e.ck fun c => c.modTxBar x fun t => t.arrive.flip) 1
          let r := e.async p.1 e.th 0 0 none (.values ws) (ws.map fun w => (w.code, [0])) (p.2 + 12)
          e.out r.1 r.2

/-- The issue of TBWAIT. -/
def ruleTbwait (f : SForm) : Rule :=
  { ruleC 0x1C6 f ([useSD f.d, useSOrSink f.a] ++ useSUnless (f.sub.getLsbD 0) f.b) with ends := true }

/-- TBWAIT (R386). -/
def execTbwait (f : SForm) (s : State) : Host.Outcome State Fault Refusal :=
  issue s (ruleTbwait f) fun e =>
    e.txAddr f.a fun x =>
      let p := if f.sub.getLsbD 0 then f.imm.toNat % 16 else (e.read32 f.b 0).toNat % 16
      let t := (e.s.comb e.ck).txBar x
      if e.txBusy x || decide (t.phase = p) then e.block .again
      else e.done (e.write32 f.d false [(0, BitVec.ofNat 32 (t.phase + 16 * t.err.toNat))])

/-! ## Outstanding operations (R387, R388) -/

/-- The issue of WAITC. -/
def ruleWaitc (f : SForm) : Rule :=
  { ruleC 0x1C7 f [] with steward := true, ends := true }

/-- WAITC (R388): an acquire over the completed operations, whose L1 effect each of them had as it completed (R270);
the errors of covered loads are taken here (R284). -/
def execWaitc (f : SForm) (s : State) : Host.Outcome State Fault Refusal :=
  issue s (ruleWaitc f) fun e =>
    let mask := f.imm.toNat % 16
    let n := f.imm.toNat / 16
    let c := e.s.comb e.ck
    if (List.range 4).any fun k => mask.testBit k && decide (n < c.outstanding e.th.uid k) then e.block .again
    else
      let covers (u : Uncov) : Bool := u.landed && mask.testBit u.cls
      let bad := (e.th.uncov.filter covers).flatMap (·.bad)
      let th := { e.th with uncov := e.th.uncov.filter fun u => !covers u }
      .ok ⟨e.s, th, [], 0, if bad.isEmpty then none else some (derrTrap bad), .seq⟩

/-! ## Region order counters (R391) -/

/-- A region order counter. -/
def Comb.order (c : Comb) (r : Nat) : Nat := Sparse.get 0 c.rorder r

/-- The issue of OWAIT. -/
def ruleOwait (f : SForm) : Rule :=
  { ruleC 0x1CA f [useSOrSink f.a] with atomic := false, ends := true }

/-- OWAIT (R391): its return is an acquire at DIE scope. -/
def execOwait (f : SForm) (s : State) : Host.Outcome State Fault Refusal :=
  issue s (ruleOwait f) fun e =>
    if (e.s.comb e.ck).order (f.imm.toNat % 64) = (e.read32 f.a 0).toNat % 2 ^ 16 then e.out (e.s.dropL1 e.ck) e.th
    else e.block .again

/-- A region order counter written, after the release at DIE scope. -/
def Env.orels (e : Env) (f : SForm) (g : Nat → Nat) : Eff :=
  e.afterRelease 2 fun _ =>
    let r := f.imm.toNat % 64
    e.out (e.s.modComb e.ck fun c => { c with rorder := Sparse.set 0 c.rorder r (g (c.order r) % 2 ^ 16) }) e.th

/-- The issue of ORELS. -/
def ruleOrels (f : SForm) : Rule :=
  { ruleC 0x1CB f [] with atomic := false }

/-- ORELS (R391). -/
def execOrels (f : SForm) (s : State) : Host.Outcome State Fault Refusal :=
  issue s (ruleOrels f) fun e => e.orels f (· + 1)

/-- The issue of ORELSSET. -/
def ruleOrelsSet (f : SForm) : Rule :=
  { ruleC 0x1CB f [useSOrSink f.a] with atomic := false }

/-- ORELS.set (R391). -/
def execOrelsSet (f : SForm) (s : State) : Host.Outcome State Fault Refusal :=
  issue s (ruleOrelsSet f) fun e => e.orels f fun _ => (e.read32 f.a 0).toNat

end Sys2Proof.Machine
end

