-- ==== Sys2Proof/Machine/Desc.lean ====
section
/-! DEFINITION. Tensor descriptors: their layout and rules, the descriptor caches, and the elements and tiles they
place in memory (R205 to R207, R230, R234, R289).
Model's choices in this file: log entry 42. -/

namespace Sys2Proof

/-- The width of an element in bits (R38 to R43). -/
def Ty.bits : Ty → Nat
  | .u8 | .s8 | .e4m3 | .e5m2 | .e8m0 => 8
  | .u16 | .s16 | .f16 | .bf16 => 16
  | .u64 | .s64 => 64
  | .e3m2 | .e2m3 => 6
  | .e2m1 | .qn4 => 4
  | _ => 32

end Sys2Proof

namespace Sys2Proof.Machine

/-- A descriptor (R205): strides of dimensions 1 to 4. -/
structure Desc where
  base : Nat
  sizes : List Nat
  strides : List Nat
  fill : Nat
  ctrl : Nat
  scale : Nat
  deriving DecidableEq, Repr

/-- The fields of CTRL. -/
def Desc.tyCode (d : Desc) : Nat := d.ctrl % 2 ^ 6
def Desc.ndim (d : Desc) : Nat := d.ctrl / 2 ^ 6 % 8
def Desc.trows (d : Desc) : Nat := d.ctrl / 2 ^ 9 % 8
def Desc.sfmt (d : Desc) : Nat := d.ctrl / 2 ^ 12 % 8
def Desc.bdim (d : Desc) : Nat := d.ctrl / 2 ^ 15 % 8
def Desc.w (d : Desc) : Bool := d.ctrl.testBit 18
def Desc.tl (d : Desc) : Bool := d.ctrl.testBit 19
def Desc.repl (d : Desc) : Bool := d.ctrl.testBit 20
def Desc.valid (d : Desc) : Bool := d.ctrl.testBit 21

/-- The element type and its width. -/
def Desc.ty (d : Desc) : Ty := (Ty.ofCode d.tyCode).getD .b32
def Desc.ebits (d : Desc) : Nat := d.ty.bits

/-- The size of a dimension, and its stride. -/
def Desc.size (d : Desc) (k : Nat) : Nat := d.sizes.getD k 1
def Desc.stride (d : Desc) (k : Nat) : Nat := if k = 0 then 0 else d.strides.getD (k - 1) 0

/-- The descriptor 64 bytes hold. -/
def Desc.ofBytes (bs : List Byte) : Desc :=
  let at' (o n : Nat) : Nat := leNat ((bs.drop o).take n)
  { base := at' 0 8, sizes := (List.range 5).map fun k => at' (8 + 4 * k) 4, strides := (List.range 4).map fun k => at' (28 + 5 * k) 5, fill := at' 48 4, ctrl := at' 52 4, scale := at' 56 8 }

/-- Whether a TYPE code is reserved in a descriptor (R205). -/
def badElemType (code : Nat) : Bool :=
  match Ty.ofCode code with
  | none => true
  | some t => [Ty.f16x2, .bf16x2, .s16x2, .s8x4, .u8x4].contains t

/-- The rules checked as a descriptor is read into a cache, in the order of their reasons (R206). -/
def Desc.badReason (d : Desc) : Option Nat :=
  let used := List.range d.ndim
  let unused := (List.range 5).filter fun k => decide (d.ndim ≤ k)
  let six := d.ty = .e3m2 ∨ d.ty = .e2m3
  if !d.valid then some 1
  else if d.ctrl / 2 ^ 22 ≠ 0 ∨ badElemType d.tyCode = true ∨ 2 < d.sfmt ∨ 5 < d.trows ∨ d.ndim = 0 ∨ 5 < d.ndim ∨
      (unused.any fun k => decide (d.size k ≠ 1) || decide (d.stride k ≠ 0)) then some 3
  else if used.any fun k => d.size k = 0 then some 4
  else if (six ∧ d.size 0 % 4 ≠ 0) ∨ (d.ty = .qn4 ∧ d.size 0 % 256 ≠ 0) ∨
      (d.sfmt = 1 ∧ ¬ [Ty.e4m3, .e3m2, .e2m3, .e2m1, .s8].contains d.ty) ∨ ((d.ty = .qn4) ≠ (d.sfmt = 2)) ∨
      (d.sfmt = 2 ∧ d.bdim ≠ 0) ∨ d.ndim ≤ d.bdim ∨ (d.tl ∧ (six ∨ d.ty = .qn4)) then some 5
  else if (d.base :: d.strides).any fun x => decide (x % (if d.tl then 32 else 4) ≠ 0) then some 6
  else if (d.sfmt = 1 ∧ (d.scale = 0 ∨ ¬ canonical d.scale)) ∨ (d.sfmt ≠ 1 ∧ d.scale ≠ 0) then some 9
  else none

/-- What the use of a descriptor finds: the descriptor, or a fault with TVAL and TVAL2 (R206, R207). -/
inductive DescRes where
  | ok (s : State) (d : Desc)
  | fault (code tval tval2 : Nat)

/-- A TDBAD of a descriptor (R206). -/
def tdbad (n reason : Nat) : DescRes := .fault codeTDBAD n reason

/-- Descriptor n of a context for a user on a comb: from the comb's cache, the die's, or memory (R206, R207). -/
def State.descriptor (s : State) (ck : Nat) (ctx : Option Nat) (n : Nat) : DescRes :=
  match ctx.bind fun c => Sparse.find? s.ctxs c with
  | none => tdbad n 2
  | some cr =>
    if cr.dtcount ≤ n then tdbad n 2
    else
      let cx := ctx.getD 0
      let hit (l : List DescEnt) : Option (List Byte) := (l.find? fun e => decide (e.ctx = cx) && decide (e.n = n)).map (·.bytes)
      match hit (s.comb ck).dcache with
      | some bs => .ok s (Desc.ofBytes bs)
      | none =>
        let note (s : State) (bs : List Byte) : State :=
          s.modComb ck fun c => { c with dcache := (⟨cx, n, bs⟩ :: c.dcache).take 32 }
        match hit (s.die (keyDie ck)).dcache with
        | some bs => .ok (note s bs) (Desc.ofBytes bs)
        | none =>
          let va := (cr.dtbase.toNat + 64 * n) % 2 ^ 64
          match s.translate ck ctx va .read with
          | .error c => .fault c (va % 2 ^ 32) (va / 2 ^ 32)
          | .ok l =>
            let locs := s.leafLocs cx (keyDie ck) (l, l) va 64
            if locs.any fun x => s.noMemory x || s.locBad x then .fault codeDERR (va % 2 ^ 32) (va / 2 ^ 32)
            else
              let bs := locs.map s.byteNow
              let s := s.replicaFetch (keyDie ck) (l.replicaReads va 64)
              let d := Desc.ofBytes bs
              match d.badReason with
              | some r => tdbad n r
              | none => .ok ((note (s.tlbNote ck cx .read l) bs).modDie (keyDie ck) fun x => { x with dcache := (⟨cx, n, bs⟩ :: x.dcache).take 512 }) d

/-! ## Elements (R289, R312) -/

/-- Whether coordinates lie inside the tensor. -/
def Desc.inside (d : Desc) (cs : List Int) : Bool :=
  (List.range d.ndim).all fun k => decide (0 ≤ cs.getD k 0) && decide (cs.getD k 0 < (d.size k : Int))

/-- The byte address of the row that coordinates 1 and up name. -/
def Desc.rowVa (d : Desc) (cs : List Nat) : Nat :=
  (List.range 5).foldl (fun a k => if k = 0 then a else a + cs.getD k 0 * d.stride k) d.base

/-- The bit address of an element inside the tensor (R289). -/
def Desc.bitAddr (d : Desc) (cs : List Nat) : Nat :=
  let c0 := cs.getD 0 0
  if d.ty = .qn4 then 8 * (d.rowVa cs + 136 * (c0 / 256)) + 4 * (c0 % 256)
  else 8 * d.rowVa cs + c0 * d.ebits

/-- The FILL value of an element: its low bits, with 0 in the upper word of a 64-bit one (R205, R289). -/
def Desc.fillElem (d : Desc) : Nat := d.fill % 2 ^ (Nat.min d.ebits 32)

/-! ## Tiles (R205, R230) -/

/-- The rows of a tile, its width in bytes and in elements. -/
def Desc.rows (d : Desc) : Nat := 2 ^ d.trows
def Desc.width (d : Desc) : Nat := 1024 / d.rows
def Desc.perRow (d : Desc) : Nat := 8 * d.width / d.ebits

/-- The tile coordinates of an element, and its bit offset in the tile. -/
def Desc.tileOf (d : Desc) (cs : List Nat) : List Nat :=
  [cs.getD 0 0 / d.perRow, cs.getD 1 0 / d.rows, cs.getD 2 0, cs.getD 3 0, cs.getD 4 0]
def Desc.tileBit (d : Desc) (cs : List Nat) : Nat :=
  cs.getD 1 0 % d.rows * (8 * d.width) + cs.getD 0 0 % d.perRow * d.ebits

/-- The byte address of word i of a tile, or `none` for a word that lies outside the tensor. -/
def Desc.tileWordVa (d : Desc) (tc : List Nat) (i : Nat) : Option Nat :=
  let r := 4 * i / d.width
  let b := tc.getD 0 0 * d.width + 4 * i % d.width
  let c1 := tc.getD 1 0 * d.rows + r
  if c1 < d.size 1 ∧ 8 * b < d.size 0 * d.ebits then
    some (d.rowVa [0, c1, tc.getD 2 0, tc.getD 3 0, tc.getD 4 0] + b)
  else none

/-- A word of the FILL pattern. -/
def Desc.fillWord (d : Desc) (i : Nat) : Word :=
  if d.ebits = 64 then (if i % 2 = 0 then BitVec.ofNat 32 d.fill else 0)
  else (List.range (32 / d.ebits)).foldl (fun w k => w ||| BitVec.ofNat 32 (d.fillElem * 2 ^ (k * d.ebits))) 0

/-- A page frame as tile lines record it: PLACE and the frame (R204, R230). -/
def Leaf.frameTag (l : Leaf) : Nat := l.place * 2 ^ 56 + l.frame

/-- The tile line of a tile as it is allocated: words outside the tensor hold FILL, valid and clean (R234); the others
are invalid at their homes. -/
def Desc.newTile (d : Desc) (s : State) (ctx die n : Nat) (l : Leaf) (tc : List Nat) : TileLine :=
  let vas := (List.range 256).map (d.tileWordVa tc)
  let out := (List.range 256).filter fun i => (vas.getD i none).isNone
  { tile := ⟨if d.repl then die else 36, ctx, n, tc⟩
    page := l.frameTag
    addrs := vas.map fun v => v.map fun va => s.leafLoc ctx die l va
    valid := out.foldl (fun m i => m ||| BitVec.ofNat 256 (2 ^ i)) 0
    dirty := 0
    words := out.foldl (fun ws i => Sparse.set 0 ws i (d.fillWord i)) []
    dirtier := 0 }

/-- The tile that coordinates of a descriptor name, as a die uses it (R230, R234). -/
def Desc.tileRef (d : Desc) (ctx die n : Nat) (tc : List Nat) : TileRef := ⟨if d.repl then die else 36, ctx, n, tc⟩

/-- What the fill of a tile's sector reads of a REPLICATED page (R225, R234). -/
def Desc.sectorReads (d : Desc) (l : Leaf) (tc : List Nat) (sector : Nat) : List (Nat × Nat) :=
  (List.range 32).flatMap fun k => match d.tileWordVa tc (32 * sector + k) with
    | some va => l.replicaReads va 4
    | none => []

/-- The reason a tile access with TL = 1 is refused: its tile line would straddle pages (7), or the page is DEVICE or STRONG (10)
(R206). On HOST pages the access is linear and no tile is touched, so that only the second applies: R206 names DEVICE and
STRONG pages without exception, and R227 waives nothing of it (log entry 42). -/
def Desc.tileReason (d : Desc) (l : Leaf) (tc : List Nat) : Option Nat :=
  if decide (l.place ≠ 3) && (List.range 256).any fun i => match d.tileWordVa tc i with
    | some va => !(decide (l.base ≤ va) && decide (va < l.base + l.size))
    | none => false
  then some 7
  else if 2 ≤ l.mtype then some 10
  else none

end Sys2Proof.Machine
end

