-- ==== Sys2Proof/Machine/LoadStore.lean ====
section
/-! DEFINITION. Loads, stores, tensor elements, atomics and remote vector operations: majors 0x10, 0x11 and 0x13
(R279 to R293, R301 to R303).
Model's choices in this file: log entries 8, 26, 43. -/

namespace Sys2Proof.Machine

/-- The rule of a memory instruction (R281, R282). -/
def ruleM (op : Nat) (f : MForm) (vec : Bool) (uses : List Use) (steward atomic : Bool) (cls : Option Nat) : Rule :=
  { Rule.basic op f.h vec uses with steward := steward, atomic := atomic, cls := cls, mem := true }


/-- Acquire and release of ORD (R279). -/
def isAcq (f : MForm) : Bool := f.ord.getLsbD 0
def isRel (f : MForm) : Bool := f.ord.getLsbD 1

/-! ## Plain accesses (R285 to R288) -/

/-- The issue of LD. -/
def ruleLd (f : MForm) : Rule :=
  let vec := memVec [f.d, f.a, f.b]
  ruleM 0x100 f vec [useData f.d (sizeRegs f.size.toNat) vec, useBase f.a, useOffset f.b] true true (some 0)

/-- LD (R285): HINT 2 allocates no L1 line; INV takes it out of the order of its group (R267). -/
def execLd (f : MForm) (s : State) : Host.Outcome State Fault Refusal :=
  issue s (ruleLd f) fun e =>
    e.loadGlobal (e.each (e.ea f)) f.size.toNat f.d.code (decide (f.hint ≠ 2)) (isAcq f) f.scope.toNat (inv := f.inv)

/-- Eight bytes at a time. -/
def round8 (n : Nat) : Nat := (n + 7) / 8 * 8

/-- The issue of ST. -/
def ruleSt (f : MForm) : Rule :=
  let vec := memVec [f.a, f.b, f.c]
  ruleM 0x101 f vec [useBase f.a, useOffset f.b, useDatum f.c (sizeRegs f.size.toNat)] true true none

/-- ST (R285): performed at its home afterwards; in an atomic task buffered (R339). -/
def execSt (f : MForm) (s : State) : Host.Outcome State Fault Refusal :=
  let n := sizeBytes f.size.toNat
  issue s (ruleSt f) fun e =>
    match e.laneAccs .write (fun _ => n) n false (e.each (e.ea f)) with
    | .error t => .fault t
    | .ok as =>
      let s := e.s.noteAccs e.ck ((e.s.agentCtx e.ag).getD 0) .write as
      if e.th.place.atomic then
        e.buffer s (as.map fun a => ⟨0x101, 16 + round8 n, e.th.pc, [8 * a.va, 8 * n, f.ord.toNat, f.scope.toNat], [e.datum f.c f.size.toNat a.lane]⟩)
          fun s th => e.out s th
      else e.out (e.storeLanes s (Writer.thread e.th.uid) (isRel f) f.scope.toNat n as (e.datum f.c f.size.toNat)) e.th

/-- The issue of LDSC. -/
def ruleLdsc (f : MForm) : Rule :=
  let vec := memVec [f.d, f.a, f.b]
  ruleM 0x102 f vec [useData f.d (sizeRegs f.size.toNat) vec, useOffset f.a, useOffset f.b] true true (some 0)

/-- LDSC (R285). -/
def execLdsc (f : MForm) (s : State) : Host.Outcome State Fault Refusal :=
  issue s (ruleLdsc f) fun e =>
    e.loadScratch (e.each (e.eaScratch f)) f.size.toNat f.d.code f.scope.toNat (isAcq f)

/-- Scratch lane accesses. -/
def scratchAccs (ck n : Nat) (lanes : List (Nat × Nat)) : List LaneAcc :=
  lanes.map fun l => ⟨l.1, l.2, scratchLocs ck l.2 n, 1, 0, ⟨0, 0, 0⟩, ⟨0, 0, 0⟩⟩

/-- The issue of STSC. -/
def ruleStsc (f : MForm) : Rule :=
  let vec := memVec [f.a, f.b, f.c]
  ruleM 0x103 f vec [useOffset f.a, useOffset f.b, useDatum f.c (sizeRegs f.size.toNat)] true true none

/-- STSC (R285): through the core's port (R286). -/
def execStsc (f : MForm) (s : State) : Host.Outcome State Fault Refusal :=
  let n := sizeBytes f.size.toNat
  issue s (ruleStsc f) fun e =>
    let lanes := e.each (e.eaScratch f)
    match e.scratchFault n n lanes with
    | some t => .fault t
    | none =>
      e.out ((scratchAccs e.ck n lanes).foldl (fun s a =>
        (e.storeLane s (Writer.thread e.th.uid) (isRel f) f.scope.toNat a (e.datum f.c f.size.toNat a.lane)).performLast) (e.scratchPort e.s lanes).1) e.th

/-- The issue of LDP. -/
def ruleLdp (f : MForm) : Rule :=
  let vec := memVec [f.d, f.b]
  ruleM 0x104 f vec [useData f.d (sizeRegs f.size.toNat) vec, useOffset f.b] false true (some 0)

/-- LDP (R287): the parameters of the grid by an invariant load, of the task from its granule. -/
def execLdp (f : MForm) (s : State) : Host.Outcome State Fault Refusal :=
  issue s (ruleLdp f) fun e =>
    let off (i : Nat) : DWord := (e.read32 f.b i).signExtend 64 + offs64 f
    let c := e.s.comb e.ck
    if e.th.place.isTask then
      let targ := BitVec.ofNat 32 (c.teamBase e.th.place.team)
      e.loadScratch (e.each fun i => (targ + (off i).setWidth 32).toNat) f.size.toNat f.d.code 0 false
    else
      let p : DWord := match Sparse.find? c.teams e.th.place.team with
        | some t => t.param
        | none => 0
      let lanes := e.each fun i => (p + off i).toNat
      if p = 0 then
        match e.laneFault codeDPAGE lanes with
        | some t => .fault t
        | none => e.done []
      else e.loadGlobal lanes f.size.toNat f.d.code true false 0 (inv := true)

/-- The issue of PRF. -/
def rulePrf (f : MForm) : Rule :=
  let vec := memVec [f.a, f.b]
  { ruleM 0x105 f vec [useBase f.a, useOffset f.b] true true none with mem := false }

/-- PRF (R288): each lane's line fetched; lanes it cannot fetch are dropped. -/
def execPrf (f : MForm) (s : State) : Host.Outcome State Fault Refusal :=
  issue s (rulePrf f) fun e =>
    let ctx := e.s.agentCtx e.ag
    e.out (e.lanes.foldl (fun s i =>
      match s.translate e.ck ctx (e.ea f i) .read with
      | .error _ => s
      | .ok l =>
        let loc := s.leafLoc (ctx.getD 0) (keyDie e.ck) l (e.ea f i)
        if 2 ≤ l.mtype ∨ l.place = 3 ∨ s.noMemory loc then s
        else
          let s := (s.tlbNote e.ck (ctx.getD 0) .read l).replicaFetch (keyDie e.ck) (l.replicaReads (e.ea f i) 1)
          let full := (List.range 32).all fun k => s.wordValid (loc / 128 * 32 + k)
          if f.hint = 1 ∧ l.mtype = 0 then
            let s := if full then s else s.fillLine (loc / 128)
            match s.l1Fill e.ck ⟨i, 0, [loc], 0, 8, none, 0, [], none⟩ with
            | some x => s.modComb e.ck fun c => c.addL1 x
            | none => s
          else if full then s else s.startFill ⟨loc / 128, none, 0⟩) e.s) e.th

/-! ## Tensor elements (R289, R290) -/

/-- Register k of a run of coordinates, in a lane. -/
def Env.runReg (e : Env) (x : Spec) (k lane : Nat) : Int :=
  (match x with
    | .v _ => e.reg (x.code + k) lane
    | _ => e.reg (x.code + k) 0).toInt

/-- The checks on registers whose number the descriptor gives: coordinates past the budget or past s63, a 64-bit datum
at an odd register, and the scoreboard on them (R81, R289). -/
def Env.runFault (e : Env) (b : Spec) (nd : Nat) (data : List (Spec × Bool)) (wide : Bool) : Option TrapInfo :=
  let trap (c tv : Nat) : Option TrapInfo := some ⟨c, e.tmask, tv, 0⟩
  let odd := data.find? fun x => wide && (match x.1 with
    | .v n => decide (n.val % 2 = 1)
    | .s n => decide (n.val % 2 = 1)
    | _ => false)
  let past := (List.range nd).find? fun k => match b with
    | .s n => decide (63 < n.val + k)
    | _ => false
  let above := (List.range nd).find? fun k => match b with
    | .v n => decide (e.th.budget ≤ n.val + k)
    | _ => false
  let high := data.find? fun x => wide && (match x.1 with
    | .v n => decide (e.th.budget < n.val + 2)
    | _ => false)
  let uses : List Use := ⟨b, nd, 1, false, []⟩ :: data.map fun x => ⟨x.1, if wide then 2 else 1, 1, x.2, []⟩
  match odd, past, above, high with
  | some x, _, _, _ => trap codeBADSPEC x.1.code
  | _, some k, _, _ => trap codeBADSPEC (b.code + k)
  | _, _, some k, _ => trap codeREGRANGE (b.code + k)
  | _, _, _, some x => trap codeREGRANGE x.1.code
  | _, _, _, _ =>
    match (if e.th.mode.getLsbD 4 then hazard e.rv e.t uses else none) with
    | some x => trap codeSTALLSHORT x.code
    | none =>
      match badLanes e.rv uses with
      | [] => none
      | bs => some (derrTrap bs)

/-- The lanes of a tensor access that lie inside the tensor, with their coordinates. -/
def Env.insideLanes (e : Env) (f : MForm) (d : Desc) : List (Nat × List Nat) :=
  e.lanes.filterMap fun i =>
    let cs := (List.range d.ndim).map fun k => e.runReg f.b k i + (if k = 0 then f.offs.toInt else 0)
    if d.inside cs then some (i, cs.map (·.toNat)) else none

/-- The bytes a lane's element spans. -/
def Desc.span (d : Desc) (bit : Nat) : Nat := (bit % 8 + d.ebits + 7) / 8

/-- The lane accesses of a tensor instruction, each with its coordinates and the leaf of its page; TDBAD of a tile
before the translation faults (R206, R283). -/
def Env.elemAccs (e : Env) (d : Desc) (n : Nat) (acc : Access) (ins : List (Nat × List Nat)) : Except TrapInfo (List LaneAcc) :=
  let ctx := e.s.agentCtx e.ag
  let bit (i : Nat) : Nat := match ins.find? fun x => x.1 = i with
    | some x => d.bitAddr x.2
    | none => 0
  let reason (x : Nat × List Nat) : Option Nat :=
    if d.tl then
      match e.s.transBytes e.ck ctx (d.bitAddr x.2 / 8) (d.span (d.bitAddr x.2)) .read with
      | .ok ls => d.tileReason ls.1 (d.tileOf x.2)
      | .error _ => none
    else none
  let td (r : Nat) : Option TrapInfo := if ins.any fun x => reason x = some r then some ⟨codeTDBAD, e.tmask, n, r⟩ else none
  match firstFault [td 7, td 10] with
  | some t => .error t
  | none =>
    e.laneAccs acc (fun i => d.span (bit i)) (if d.ebits % 8 = 0 then d.ebits / 8 else 1) false
      (ins.map fun x => (x.1, d.bitAddr x.2 / 8 % 2 ^ 64))

/-- Whether a lane goes through a tile line (R227, R289). -/
def Desc.viaTile (d : Desc) (a : LaneAcc) : Bool := d.tl && decide (a.place ≠ 3)

/-- The issue of LDTE. -/
def ruleLdte (f : MForm) : Rule :=
  let vec := memVec [f.d, f.a, f.b]
  ruleM 0x106 f vec [useData f.d 1 vec, useS f.a, ⟨f.b, 1, 1, false, [.v, .s]⟩] false true (some 0)

/-- LDTE (R289). -/
def execLdte (f : MForm) (s : State) : Host.Outcome State Fault Refusal :=
  issue s (ruleLdte f) fun e =>
    let n := (e.read32 f.a 0).toNat % 4096
    let ctx := e.s.agentCtx e.ag
    match e.s.descriptor e.ck ctx n with
    | .fault c v v2 => e.fault c v v2
    | .ok s d =>
      let wide := decide (d.ebits = 64)
      match e.runFault f.b d.ndim [(f.d, true)] wide with
      | some t => .fault t
      | none =>
        let ins := e.insideLanes f d
        match { e with s := s }.elemAccs d n .read ins with
        | .error t => .fault t
        | .ok as =>
          let cx := ctx.getD 0
          let cs (i : Nat) : List Nat := match ins.find? fun x => x.1 = i with
            | some x => x.2
            | none => []
          let s := s.replicaFetch (keyDie e.ck) (as.flatMap fun a =>
            if d.viaTile a then d.sectorReads a.leaf (d.tileOf (cs a.lane)) (d.tileBit (cs a.lane) / 1024)
            else a.leaf.replicaReads a.va a.locs.length)
          let s := s.noteAccs e.ck cx .read as
          let s := as.foldl (fun s a =>
            if d.viaTile a then s.allocTile (d.newTile s cx (keyDie e.ck) n a.leaf (d.tileOf (cs a.lane))) else s) s
          let reads := e.lanes.map fun i =>
            match as.find? fun a => a.lane = i with
            | none => (⟨i, 0, [], 0, d.ebits, none, 0, [], some d.fillElem⟩ : LaneRead)
            | some a =>
              let bit := d.bitAddr (cs i)
              let tile := if d.viaTile a then some (d.tileRef cx (keyDie e.ck) n (d.tileOf (cs i)), d.tileBit (cs i) / 8) else none
              ⟨i, a.va, a.locs, bit % 8, d.ebits, tile, a.mtype, commitOver e.th.commit a.va a.locs.length, none⟩
          e.load s ⟨0, f.d.code, if wide then 2 else 1⟩ reads false true (isAcq f) f.scope.toNat

/-- The words of a tile line an element's bits fall in, as (word, value, mask). -/
def tileItems (bit w x : Nat) : List (Nat × Word × Word) :=
  if w = 64 then [(bit / 32, BitVec.ofNat 32 x, 0xFFFFFFFF), (bit / 32 + 1, BitVec.ofNat 32 (x / 2 ^ 32), 0xFFFFFFFF)]
  else [(bit / 32, BitVec.ofNat 32 (x % 2 ^ w * 2 ^ (bit % 32)), BitVec.ofNat 32 ((2 ^ w - 1) * 2 ^ (bit % 32)))]

/-- One element written: through its tile line, or as masked bytes; a 6-bit element across two words as two writes
(R289, R290). -/
def State.storeElem (s : State) (ck ctx : Nat) (who : Writer) (rel : Bool) (scope n : Nat) (d : Desc) (a : LaneAcc) (cs : List Nat) (x : Nat) : State :=
  let r := storeRelease rel scope a.mtype
  if d.viaTile a then
    let items := tileItems (d.tileBit cs) d.ebits x
    let line := d.newTile s ctx (keyDie ck) n a.leaf (d.tileOf cs)
    let s := if r.isNone then s.modComb ck fun c => c.storeL1Tile line.tile items else s
    s.addStore ck ctx who r a.mtype (.tile line items) none
  else
    let items := maskItems a.locs (d.bitAddr cs % 8) d.ebits x
    let s := if r.isNone then s.modComb ck fun c => c.storeL1 items else s
    let w0 := (a.locs.headD 0) / 4
    let first := items.filter fun it => it.1 / 4 = w0
    let rest := items.filter fun it => it.1 / 4 ≠ w0
    if d.ebits = 6 ∧ rest ≠ [] then
      (s.addStore ck ctx who r a.mtype (.bytes first) none).addStore ck ctx who r a.mtype (.bytes rest) none
    else if d.ebits % 8 = 0 ∧ a.va % (d.ebits / 8) ≠ 0 then
      items.foldl (fun s it => s.addStore ck ctx who r a.mtype (.bytes [it]) none) s
    else s.addStore ck ctx who r a.mtype (.bytes items) none

/-- The issue of STTE. -/
def ruleStte (f : MForm) : Rule :=
  let vec := memVec [f.a, f.b, f.c]
  ruleM 0x107 f vec [useS f.a, ⟨f.b, 1, 1, false, [.v, .s]⟩, useDatum f.c 1] false true none

/-- STTE (R289, R290): lanes outside the tensor write nothing; in an atomic task it is buffered (R339). -/
def execStte (f : MForm) (s : State) : Host.Outcome State Fault Refusal :=
  issue s (ruleStte f) fun e =>
    let n := (e.read32 f.a 0).toNat % 4096
    let ctx := e.s.agentCtx e.ag
    match e.s.descriptor e.ck ctx n with
    | .fault c v v2 => e.fault c v v2
    | .ok s d =>
      let wide := decide (d.ebits = 64)
      match e.runFault f.b d.ndim [(f.c, false)] wide with
      | some t => .fault t
      | none =>
        if !d.w then e.fault codeTDBAD n 8
        else
          let ins := e.insideLanes f d
          match { e with s := s }.elemAccs d n .write ins with
          | .error t => .fault t
          | .ok as =>
            let cx := ctx.getD 0
            let s := s.noteAccs e.ck cx .write as
            let cs (i : Nat) : List Nat := match ins.find? fun x => x.1 = i with
              | some x => x.2
              | none => []
            let x (i : Nat) : Nat := e.readWide f.c (if wide then 2 else 1) i % 2 ^ d.ebits
            if e.th.place.atomic then
              e.buffer s (as.map fun a => ⟨0x107, 16 + round8 ((d.ebits + 7) / 8), e.th.pc, [d.bitAddr (cs a.lane), d.ebits, f.ord.toNat, f.scope.toNat, n] ++ cs a.lane, [x a.lane]⟩)
                fun s th => e.out s th
            else
              e.out (as.foldl (fun s a => s.storeElem e.ck cx (Writer.thread e.th.uid) (isRel f) f.scope.toNat n d a (cs a.lane) (x a.lane)) s) e.th

/-! ## Atomics (R291 to R293) -/

/-- An atomic on global memory with its old value returned. -/
def Env.atomGlobal (e : Env) (f : MForm) (code : Nat) (lanes : List (Nat × Nat)) (d cmp : Nat → Nat) : Eff :=
  let n := sizeBytes f.size.toNat
  match e.laneAccs .write (fun _ => n) n true lanes with
  | .error t => .fault t
  | .ok as =>
    let s := e.s.noteAccs e.ck ((e.s.agentCtx e.ag).getD 0) .write as
    e.atomOp s f.size.toNat f.d.code (isAcq f) (isRel f) f.scope.toNat code as d cmp false

/-- An atomic on scratch, performed at the bank. -/
def Env.atomScratch (e : Env) (f : MForm) (code : Nat) (lanes : List (Nat × Nat)) (d cmp : Nat → Nat) : Eff :=
  let n := sizeBytes f.size.toNat
  match e.scratchFault n n lanes with
  | some t => .fault t
  | none => e.atomOp e.s f.size.toNat f.d.code (isAcq f) (isRel f) f.scope.toNat code (scratchAccs e.ck n lanes) d cmp true

/-- The issue of ATOM. -/
def ruleAtom (f : MForm) : Rule :=
  let vec := memVec [f.d, f.a, f.b, f.c]
  let r := sizeRegs f.size.toNat
  ruleM 0x110 f vec [useData f.d r vec, useBase f.a, useOffset f.b, useDatum f.c r] true false (some 0)

/-- ATOM (R292). -/
def execAtom (f : MForm) (s : State) : Host.Outcome State Fault Refusal :=
  issue s (ruleAtom f) fun e =>
    e.atomGlobal f f.aop.toNat (e.each (e.ea f)) (e.datum f.c f.size.toNat) (fun _ => 0)

/-- The address of a compare and swap: no offset register (R293). -/
def Env.eaCas (e : Env) (f : MForm) (i : Nat) : Nat := (e.read64 f.a i + offs64 f).toNat
def Env.eaCasScratch (e : Env) (f : MForm) (i : Nat) : Nat := (e.read32 f.a i + (offs64 f).setWidth 32).toNat

/-- The issue of ATOMCAS. -/
def ruleAtomcas (f : MForm) : Rule :=
  let vec := memVec [f.d, f.a, f.b, f.c]
  let r := sizeRegs f.size.toNat
  ruleM 0x111 f vec [useData f.d r vec, useBase f.a, useDatum f.b r, useDatum f.c r] true false (some 0)

/-- ATOMCAS (R293). -/
def execAtomcas (f : MForm) (s : State) : Host.Outcome State Fault Refusal :=
  issue s (ruleAtomcas f) fun e =>
    e.atomGlobal f 15 (e.each (e.eaCas f)) (e.datum f.b f.size.toNat) (e.datum f.c f.size.toNat)

/-- The issue of RED. -/
def ruleRed (f : MForm) : Rule :=
  let vec := memVec [f.a, f.b, f.c]
  ruleM 0x112 f vec [useBase f.a, useOffset f.b, useDatum f.c (sizeRegs f.size.toNat)] true false none

/-- RED (R292): no result; an acquire one is over once it has been performed (R257). -/
def execRed (f : MForm) (s : State) : Host.Outcome State Fault Refusal :=
  let n := sizeBytes f.size.toNat
  issue s (ruleRed f) fun e =>
    match e.laneAccs .write (fun _ => n) n true (e.each (e.ea f)) with
    | .error t => .fault t
    | .ok as =>
      let s := e.s.noteAccs e.ck ((e.s.agentCtx e.ag).getD 0) .write as
      e.out (e.atomLanes s ⟨e.th.uid, e.th.uid, if isAcq f then some f.scope.toNat else none, 0⟩ none (isRel f) f.scope.toNat f.aop.toNat as (e.datum f.c f.size.toNat) (fun _ => 0)) e.th

/-- The issue of ATOMSC. -/
def ruleAtomsc (f : MForm) : Rule :=
  let vec := memVec [f.d, f.a, f.b, f.c]
  let r := sizeRegs f.size.toNat
  ruleM 0x113 f vec [useData f.d r vec, useOffset f.a, useOffset f.b, useDatum f.c r] true false (some 0)

/-- ATOMSC (R292). -/
def execAtomsc (f : MForm) (s : State) : Host.Outcome State Fault Refusal :=
  issue s (ruleAtomsc f) fun e =>
    e.atomScratch f f.aop.toNat (e.each (e.eaScratch f)) (e.datum f.c f.size.toNat) (fun _ => 0)

/-- The issue of CASSC. -/
def ruleCassc (f : MForm) : Rule :=
  let vec := memVec [f.d, f.a, f.b, f.c]
  let r := sizeRegs f.size.toNat
  ruleM 0x114 f vec [useData f.d r vec, useOffset f.a, useDatum f.b r, useDatum f.c r] true false (some 0)

/-- CASSC (R293). -/
def execCassc (f : MForm) (s : State) : Host.Outcome State Fault Refusal :=
  issue s (ruleCassc f) fun e =>
    e.atomScratch f 15 (e.each (e.eaCasScratch f)) (e.datum f.b f.size.toNat) (e.datum f.c f.size.toNat)

/-! ## Remote vector operations (R301) -/

/-- A remote operation registered in RM, an agent of its own whose writes `put` makes: complete once those on this die are
performed and the others captured, which one that waits for its release is behind that (R252, R270, R301). -/
def Env.remoteOp (e : Env) (f : MForm) (s : State) (put : State → Writer → State) : Eff :=
  let u := s.nextUid
  let r := e.async s e.th 2 f.scope.toNat none (.remote []) []
  let s' := put r.1 ⟨u, e.th.uid, none, if isRel f then u else e.th.fenced⟩
  let items := (s'.stores.filter fun st => decide (st.agentUid = u)).map (·.uid)
  e.out (s'.modComb e.ck fun c => { c with ops := c.ops.map fun o => if o.uid = u then { o with kind := .remote items } else o }) r.2

/-- The issue of PUTV. -/
def rulePutv (f : MForm) : Rule :=
  let vec := memVec [f.a, f.b, f.c]
  ruleM 0x130 f vec [useBase f.a, useOffset f.b, useDatum f.c (sizeRegs f.size.toNat)] false false (some 2)

/-- PUTV (R301). -/
def execPutv (f : MForm) (s : State) : Host.Outcome State Fault Refusal :=
  let n := sizeBytes f.size.toNat
  issue s (rulePutv f) fun e =>
    match e.laneAccs .write (fun _ => n) n false (e.each (e.ea f)) with
    | .error t => .fault t
    | .ok as =>
      let s := e.s.noteAccs e.ck ((e.s.agentCtx e.ag).getD 0) .write as
      e.remoteOp f s fun s w => e.storeLanes s w (isRel f) f.scope.toNat n as (e.datum f.c f.size.toNat)

/-- The issue of GETV. -/
def ruleGetv (f : MForm) : Rule :=
  let vec := memVec [f.d, f.a, f.b]
  ruleM 0x131 f vec [useData f.d (sizeRegs f.size.toNat) vec, useBase f.a, useOffset f.b] false true (some 0)

/-- GETV (R301): never served from an L1; the acquire half of ORD is WAITC's (R269). -/
def execGetv (f : MForm) (s : State) : Host.Outcome State Fault Refusal :=
  issue s (ruleGetv f) fun e =>
    e.loadGlobal (e.each (e.ea f)) f.size.toNat f.d.code false false f.scope.toNat
      (engine := some (if isRel f then some f.scope.toNat else none))

/-- The issue of REDV. -/
def ruleRedv (f : MForm) : Rule :=
  let vec := memVec [f.a, f.b, f.c]
  ruleM 0x132 f vec [useBase f.a, useOffset f.b, useDatum f.c (sizeRegs f.size.toNat)] false false (some 2)

/-- REDV (R301). -/
def execRedv (f : MForm) (s : State) : Host.Outcome State Fault Refusal :=
  let n := sizeBytes f.size.toNat
  issue s (ruleRedv f) fun e =>
    match e.laneAccs .write (fun _ => n) n true (e.each (e.ea f)) with
    | .error t => .fault t
    | .ok as =>
      let s := e.s.noteAccs e.ck ((e.s.agentCtx e.ag).getD 0) .write as
      e.remoteOp f s fun s w => e.atomLanes s w none (isRel f) f.scope.toNat f.aop.toNat as (e.datum f.c f.size.toNat) (fun _ => 0)

end Sys2Proof.Machine
end

