-- ==== Sys2Proof/Machine/Copies.lean ====
section
/-! DEFINITION. Copies: major 0x12, and the sectors the copy engine moves (R226, R294 to R300). A copy holds its
operands as issued; each sector is translated, read and written as the engine reaches it.
Model's choices in this file: log entries 11, 39. -/

namespace Sys2Proof.Machine

/-! ## Operands of a copy -/

/-- The numbers a descriptor is held by, and back. -/
def Desc.nums (d : Desc) : List Nat := d.base :: d.sizes ++ d.strides ++ [d.fill, d.ctrl, d.scale]
def Desc.ofNums (l : List Nat) : Desc :=
  { base := l.getD 0 0, sizes := (l.drop 1).take 5, strides := (l.drop 6).take 4, fill := l.getD 10 0, ctrl := l.getD 11 0, scale := l.getD 12 0 }

/-- An operand of a copy. -/
def CopyOp.num (c : CopyOp) (i : Nat) : Nat := c.nums.getD i 0

/-- A tile copy (R294, R299) holds n, the scratch address, the first-element coordinates as words, and the
descriptor. -/
def CopyOp.desc (c : CopyOp) : Desc := Desc.ofNums (c.nums.drop 7)
def CopyOp.coords (c : CopyOp) : List Int := ((c.nums.drop 2).take 5).map fun x => (BitVec.ofNat 32 x).toInt

/-- Whether five coordinates lie inside the tensor; unused dimensions have size 1 (R205). -/
def Desc.inside5 (d : Desc) (cs : List Int) : Bool :=
  (List.range 5).all fun k => decide (0 ≤ cs.getD k 0) && decide (cs.getD k 0 < (d.size k : Int))

/-- The bit address of bit `q` of row `r` of the tile at some coordinates, or `none` outside the tensor (R294). A row of
QN4 data is a run of its superblocks' bytes. -/
def Desc.copyBit (d : Desc) (cs : List Int) (r q : Nat) : Option Nat :=
  let c0 := cs.getD 0 0
  let rest : List Int := (cs.getD 1 0 + (r : Int)) :: (cs.drop 2)
  if d.ty = .qn4 then
    let o : Int := 136 * (c0 / 256) + c0 % 256 / 2 + ((q / 8 : Nat) : Int)
    if 0 ≤ o ∧ o < ((136 * d.size 0 / 256 : Nat) : Int) ∧ d.inside5 (0 :: rest) then
      some (8 * (d.rowVa (0 :: rest.map (·.toNat)) + o.toNat) + q % 8)
    else none
  else
    let at' : List Int := (c0 + ((q / d.ebits : Nat) : Int)) :: rest
    if d.inside5 at' then some (d.bitAddr (at'.map (·.toNat)) + q % d.ebits) else none

/-- A bit of the FILL pattern (R205). -/
def Desc.fillBit (d : Desc) (q : Nat) : Bool := d.fillElem.testBit (q % d.ebits)

/-- The bit of a tensor that bit `b` of byte `j` of a tile is, or `none`. -/
def CopyOp.tileBit (c : CopyOp) (j b : Nat) : Option Nat :=
  let d := c.desc
  d.copyBit c.coords (j / d.width) (8 * (j % d.width) + b)

/-- The byte addresses a sector of a tile copy touches in the tensor. -/
def CopyOp.tileVas (c : CopyOp) (k : Nat) : List Nat :=
  ((List.range 128).flatMap fun j => (List.range 8).filterMap fun b => (c.tileBit (128 * k + j) b).map (· / 8)).eraseDups

/-- Whether a tile copy may go through the tile line: TL = 1 and a tile-aligned position (R294). COPYO.ru goes through the linear
lines of the owner all the same, since a REPL tile line is never dirty (R234, R294; DESIGN CHOICE, log entry 39). -/
def CopyOp.aligned (c : CopyOp) : Bool :=
  let d := c.desc
  d.tl && decide (c.coords.getD 0 0 % (d.perRow : Int) = 0) && decide (c.coords.getD 1 0 % (d.rows : Int) = 0) && !c.ru

/-- The tile coordinates of an aligned tile copy that touches the tensor. -/
def CopyOp.tileCoords (c : CopyOp) : List Nat := c.desc.tileOf (c.coords.map (·.toNat))

/-- The tiles of the tensor that a sector of a tile copy touches, each with an address in it. -/
def CopyOp.tilesAt (c : CopyOp) (k : Nat) : List (List Nat × Nat) :=
  let d := c.desc
  ((List.range 128).flatMap fun j => [0, 7].filterMap fun b =>
    let r := (128 * k + j) / d.width
    let at' : List Int := (c.coords.getD 0 0 + (((8 * ((128 * k + j) % d.width) + b) / d.ebits : Nat) : Int)) :: (c.coords.getD 1 0 + (r : Int)) :: c.coords.drop 2
    if d.inside5 at' then (c.tileBit (128 * k + j) b).map fun x => (d.tileOf (at'.map (·.toNat)), x / 8) else none).eraseDups

/-- The bytes of a COPYL that its sector k covers: from an offset up to an offset, cut where the destination meets a
multiple of 128. -/
def CopyOp.lineSpan (c : CopyOp) (k : Nat) : Nat × Nat :=
  let a := c.num 0 % 128
  (128 * k - a, Nat.min (c.num 2) (128 * (k + 1) - a))

/-- The rows of a GATHER: lane and address, by twos after the length and the scratch base. -/
def gatherRows : List Nat → List (Nat × Nat)
  | i :: va :: rest => (i, va) :: gatherRows rest
  | _ => []

/-- The scratch sectors a GATHER writes, in lane order. -/
def CopyOp.gatherSectors (c : CopyOp) : List Nat :=
  ((gatherRows (c.nums.drop 2)).flatMap fun r => [(c.num 1 + r.1 * c.num 0) / 128, (c.num 1 + r.1 * c.num 0 + c.num 0 - 1) / 128]).eraseDups

/-- Whether a copy writes into scratch, so that its barrier counts sectors (R297). -/
def CopyOp.counts (c : CopyOp) : Bool := decide (c.op ≠ 0x121) && !(decide (c.op = 0x124) && decide (c.num 3 = 0))

/-- The scratch sectors of a receiver's tile at an address, and those whose writes are all done once some sectors of the
tile are (R297). -/
def recvSectors (addr : Nat) : Nat := if addr % 128 = 0 then 8 else 9
def recvDone (addr : Nat) (done : List Nat) : Nat :=
  if addr % 128 = 0 then done.length
  else ((List.range 9).filter fun j => (decide (j = 0) || done.contains (j - 1)) && (decide (j = 8) || done.contains j)).length

/-! ## The engine's accesses -/

/-- A fault of a copy or a pass after its issue: its code, the TDBAD reason, the address, and for an uncorrectable error
the die that counts it and whether data is lost (R249, R298). -/
structure CopyFault where
  code : Nat
  reason : Nat
  va : Nat
  bad : Option (Nat × Bool)
  deriving DecidableEq, Repr

/-- The uncorrectable error that a read of an address through linear lines meets. -/
def State.linearBad (s : State) (_va loc : Nat) : Option (Nat × Bool) :=
  if loc < hostBase then (s.wordErr (loc / 4)).map fun lost => (locDie loc, lost) else none

/-- The one that a read through a tile line meets, whose offset of an address is given. -/
def State.tileLineBad (s : State) (t : TileRef) (off : Nat → Option Nat) (va loc : Nat) : Option (Nat × Bool) :=
  match off va with
  | none => none
  | some o => s.tileErr t o loc

/-- No error is met: an access that writes. -/
def noBad (_va _loc : Nat) : Option (Nat × Bool) := none

/-- The leaf an engine access finds; RU asks for a REPLICATED page (R295). -/
def State.engineLeaf (s : State) (ck ctx va : Nat) (acc : Access) (ru : Bool) : Except Nat Leaf :=
  if ru then
    match s.translate ck (some ctx) va .read with
    | .error c => .error c
    | .ok l => if l.place = 2 ∧ l.writable then .ok l else .error codeDPROT
  else s.translate ck (some ctx) va acc

/-- The leaves and locations of some bytes, or the first fault with its address (R298); `bad` gives the error a read meets.
RU writes at the owner. -/
def State.engineLocs (s : State) (ck ctx : Nat) (acc : Access) (ru : Bool) (bad : Nat → Nat → Option (Nat × Bool)) :
    List Nat → Except CopyFault (List (Nat × Leaf × Nat))
  | [] => .ok []
  | va :: vas =>
    match s.engineLeaf ck ctx va acc ru with
    | .error c => .error ⟨c, 0, va, none⟩
    | .ok l =>
      let loc := if ru then l.frame + va % l.size else s.leafLoc ctx (keyDie ck) l va
      if s.noMemory loc || (bad va loc).isSome then .error ⟨codeDERR, 0, va, bad va loc⟩
      else match s.engineLocs ck ctx acc ru bad vas with
        | .error x => .error x
        | .ok rest => .ok ((va, l, loc) :: rest)

/-- The TLBs and the replica directories after an engine's accesses (R200, R225). -/
def State.engineNote (s : State) (ck ctx : Nat) (acc : Access) (as : List (Nat × Leaf × Nat)) : State :=
  let s := as.foldl (fun s a => s.tlbNote ck ctx acc a.2.1) s
  if acc = .read then s.replicaFetch (keyDie ck) (as.flatMap fun a => a.2.1.replicaReads a.1 1) else s

/-- The location of a byte among those translated. -/
def engineLoc (as : List (Nat × Leaf × Nat)) (va : Nat) : Nat :=
  match as.find? fun a => a.1 = va with
  | some a => a.2.2
  | none => 0

/-- The memory type of the bytes of a line. -/
def engineType (as : List (Nat × Leaf × Nat)) (line : Nat) : Nat :=
  match as.find? fun a => a.2.2 / 128 = line with
  | some a => a.2.1.mtype
  | none => 0

/-- An engine operation as the agent of its writes (R252). -/
def AsyncOp.writer (op : AsyncOp) : Writer := ⟨op.uid, op.ownerUid, none, op.after⟩

/-- Writes of a copy to memory, one for each line they touch (R265, R270). -/
def State.engineStore (s : State) (ck : Nat) (op : AsyncOp) (as : List (Nat × Leaf × Nat)) (items : List (Nat × Byte × Byte)) : State :=
  ((items.map fun it => it.1 / 128).eraseDups).foldl (fun s line =>
    s.addStore ck op.ctx op.writer none (engineType as line) (.bytes (items.filter fun it => it.1 / 128 = line)) (some op.uid)) s

/-- Whether a tile copy goes through its tile line: it is aligned, and its page is not in HOST (R227, R294). -/
def CopyOp.viaTile (c : CopyOp) (as : List (Nat × Leaf × Nat)) : Bool := c.aligned && as.head?.any fun a => decide (a.2.1.place ≠ 3)

/-- The tile line that a sector of a tile copy goes through, allocated, or `none` when it goes through linear lines; or TDBAD of
a tile it touches (R206, R227, R294). -/
def State.copyTile (s : State) (ck : Nat) (op : AsyncOp) (c : CopyOp) (k : Nat) (as : List (Nat × Leaf × Nat)) : Except CopyFault (State × Option TileRef) :=
  let refused (x : List Nat × Nat) : Option CopyFault :=
    (as.find? fun a => a.1 = x.2).bind fun a => (c.desc.tileReason a.2.1 x.1).map fun r => ⟨codeTDBAD, r, a.1, none⟩
  match if c.desc.tl then (c.tilesAt k).findSome? refused else none with
  | some f => .error f
  | none =>
    match as with
    | [] => .ok (s, none)
    | a :: _ =>
      if c.viaTile as then
        let t := c.desc.tileRef op.ctx (keyDie ck) (c.num 0) c.tileCoords
        let s := if (s.tileLine t).isSome then s else s.replicaFetch (keyDie ck) (c.desc.sectorReads a.2.1 c.tileCoords k)
        .ok (s.allocTile (c.desc.newTile s op.ctx (keyDie ck) (c.num 0) a.2.1 c.tileCoords), some t)
      else .ok (s, none)

/-- Bits, lowest first, as a byte. -/
def byteOfBits (bs : List Bool) : Byte := BitVec.ofNat 8 (bs.foldr (fun b n => b.toNat + 2 * n) 0)

/-- The 128 bytes of sector k of a tile (R294): tensor elements, and FILL outside. -/
def State.readTileSector (s : State) (ck : Nat) (op : AsyncOp) (c : CopyOp) (k : Nat) : Except CopyFault (State × List Byte) :=
  let off (va : Nat) : Option Nat := ((List.range 128).map (128 * k + ·)).find? fun j => (c.tileBit j 0).any fun x => decide (x / 8 = va)
  let bad := if c.aligned then s.tileLineBad (c.desc.tileRef op.ctx (keyDie ck) (c.num 0) c.tileCoords) off else s.linearBad
  match s.engineLocs ck op.ctx .read false bad (c.tileVas k) with
  | .error x => .error x
  | .ok as =>
    match s.copyTile ck op c k as with
    | .error x => .error x
    | .ok (s, t) =>
      let s := s.engineNote ck op.ctx (if t.isSome then .write else .read) as
      let s := match t with
        | some t => s.fillTile t k
        | none => s
      let bit (j b : Nat) : Bool :=
        match c.tileBit j b with
        | none => c.desc.fillBit (8 * (j % c.desc.width) + b)
        | some x =>
          match t.bind s.tileLine with
          | some l => (l.word (j / 4)).getLsbD (8 * (j % 4) + b)
          | none => (s.byteNow (engineLoc as (x / 8))).getLsbD (x % 8)
      .ok (s, (List.range 128).map fun j => byteOfBits ((List.range 8).map (bit (128 * k + j))))

/-- Sector k of a tile written from scratch bytes (R294): what lies outside the tensor is not written. -/
def State.writeTileSector (s : State) (ck : Nat) (op : AsyncOp) (c : CopyOp) (k : Nat) (bytes : List Byte) : Except CopyFault State :=
  match s.engineLocs ck op.ctx .write c.ru noBad (c.tileVas k) with
  | .error x => .error x
  | .ok as =>
    match s.copyTile ck op c k as with
    | .error x => .error x
    | .ok (s, t) =>
      let s := s.engineNote ck op.ctx .write as
      let src (j b : Nat) : Bool := (bytes.getD j 0).getLsbD b
      match t.bind s.tileLine with
      | some l =>
        let word (i : Nat) : Nat × Word × Word :=
          (32 * k + i, (List.range 32).foldl (fun (w : Word) q => setBit w q (src (4 * i + q / 8) (q % 8))) 0,
            (List.range 32).foldl (fun (w : Word) q => setBit w q (c.tileBit (128 * k + 4 * i + q / 8) (q % 8)).isSome) 0)
        .ok (s.addStore ck op.ctx op.writer none ((as.head?.map fun a => a.2.1.mtype).getD 0)
          (.tile l (((List.range 32).map word).filter fun w => decide (w.2.2 ≠ 0))) (some op.uid))
      | none =>
        let bits : List (Nat × Bool) := (List.range 128).flatMap fun j => (List.range 8).filterMap fun b =>
          (c.tileBit (128 * k + j) b).map fun x => (x, src j b)
        let items := as.map fun a =>
          (a.2.2, bits.foldl (fun (v : Byte) x => if x.1 / 8 = a.1 then setBit v (x.1 % 8) x.2 else v) 0,
            bits.foldl (fun (m : Byte) x => if x.1 / 8 = a.1 then setBit m (x.1 % 8) true else m) 0)
        .ok (s.engineStore ck op as items)

/-! ## Sectors -/

/-- Bytes written to a comb's scratch. -/
def State.putScratch (s : State) (ck a : Nat) (bytes : List Byte) : State :=
  s.modComb ck fun c => c.putScratch a bytes

/-- Bytes of a comb's scratch. -/
def State.getScratch (s : State) (ck a n : Nat) : List Byte := Sparse.getRun 0 (s.comb ck).scratch a n

/-- Sector k of a COPYL (R295). RU on a scratch destination is RU on no REPLICATED page (log entry 39). -/
def State.copylSector (s : State) (ck : Nat) (op : AsyncOp) (c : CopyOp) (k : Nat) : Except CopyFault State :=
  let sp := c.lineSpan k
  let n := sp.2 - sp.1
  if c.num 3 = 1 ∧ c.ru then .error ⟨codeDPROT, 0, c.num 0 + sp.1, none⟩ else
  let srcVas := (List.range n).map fun i => (c.num 1 + sp.1 + i) % 2 ^ 64
  let dstVas := (List.range n).map fun i => (c.num 0 + sp.1 + i) % 2 ^ 64
  let read : Except CopyFault (State × List Byte) :=
    if c.num 4 = 1 then .ok (s, s.getScratch ck (c.num 1 + sp.1) n)
    else match s.engineLocs ck op.ctx .read false s.linearBad srcVas with
      | .error x => .error x
      | .ok as => .ok (s.engineNote ck op.ctx .read as, as.map fun a => s.byteNow a.2.2)
  match read with
  | .error x => .error x
  | .ok (s, bytes) =>
    if c.num 3 = 1 then .ok (s.putScratch ck (c.num 0 + sp.1) bytes)
    else match s.engineLocs ck op.ctx .write c.ru noBad dstVas with
      | .error x => .error x
      | .ok as =>
        .ok ((s.engineNote ck op.ctx .write as).engineStore ck op as
          ((as.zip bytes).map fun ab => (ab.1.2.2, ab.2, 0xFF)))

/-- The bytes of a GATHER that fall into its sector k: scratch address and row byte's address. -/
def CopyOp.gatherBytes (c : CopyOp) (k : Nat) : List (Nat × Nat) :=
  let sec := c.gatherSectors.getD k 0
  (gatherRows (c.nums.drop 2)).flatMap fun r => (List.range (c.num 0)).filterMap fun i =>
    let a := c.num 1 + r.1 * c.num 0 + i
    if a / 128 = sec then some (a, (r.2 + i) % 2 ^ 64) else none

/-- Sector k of a GATHER (R296): the bytes of every row that fall into it, translated again (R302). -/
def State.gatherSector (s : State) (ck : Nat) (op : AsyncOp) (c : CopyOp) (k : Nat) : Except CopyFault State :=
  let bytes := c.gatherBytes k
  match s.engineLocs ck op.ctx .read false s.linearBad (bytes.map (·.2)) with
  | .error x => .error x
  | .ok as => .ok ((bytes.zip as).foldl (fun x b => x.putScratch ck b.1.1 [s.byteNow b.2.2.2]) (s.engineNote ck op.ctx .read as))

/-- Whether a logical comb moved since a generation (R216). -/
def State.movedSince (s : State) (die lcomb gen : Nat) : Bool :=
  let d := s.die die
  let e := d.combEnt lcomb
  e.cv && decide ((d.gen.toNat + 16 - e.chg % 16) % 16 < (d.gen.toNat + 16 - gen % 16) % 16)

/-- The key of a receiver's comb. -/
def State.recvKey (s : State) (r : CopyRecv) : Nat := s.lkey (r.die.getD 0) r.lcomb

/-- Whether a receiver's name still names a comb that can be reached (R216, R299). -/
def State.recvReach (s : State) (r : CopyRecv) : Bool :=
  match r.die with
  | none => false
  | some die => (s.die die).live && !s.movedSince die r.lcomb (r.name.toNat / 2 ^ 14) && decide (r.lcomb < (s.die die).combs)

/-- Whether a scratch address of a receiver's comb lies in a SCRATCH granule that the context holds there. -/
def State.recvOwn (s : State) (ctx : Nat) (r : CopyRecv) (a : Nat) : Bool :=
  let c := s.comb (s.recvKey r)
  decide (a < 2 ^ 21) && decide ((c.bank (a / 2 ^ 17)).mode = .scratch) &&
  c.teams.any fun t => decide (t.2.ctx = ctx) && t.2.granules.contains (a / 8192)

/-- Whether a receiver does not fail: it can be reached, and its range lies in SCRATCH granules that the context holds on its
comb (R299). -/
def State.recvOk (s : State) (ctx : Nat) (r : CopyRecv) : Bool :=
  s.recvReach r && s.recvOwn ctx r r.addr && s.recvOwn ctx r (r.addr + 1023)

/-- A receiver's barrier changed. One that is not aligned or lies outside the context's own granules is left alone: the spec
says nothing of it (DESIGN CHOICE, log entry 39). -/
def State.modRecvBar (s : State) (ctx : Nat) (r : CopyRecv) (f : TxBar → TxBar) : State :=
  match r.barrier with
  | some b => if s.recvReach r && decide (b % 16 = 0) && s.recvOwn ctx r b then s.modComb (s.recvKey r) fun c => c.modTxBar b f else s
  | none => s

/-- A receiver's barrier loses the sectors it will not get, after those counted for the sectors done (R298, R299). -/
def State.loseRecv (s : State) (ctx : Nat) (r : CopyRecv) (done : List Nat) : State :=
  s.modRecvBar ctx r fun t => t.lose (recvSectors r.addr - recvDone r.addr done)

/-- Sector k of a COPYM read once and delivered to each receiver that does not fail (R299); its barrier counts the scratch
sectors that are whole by it (R297). -/
def State.multicast (s : State) (ctx : Nat) (c : CopyOp) (k : Nat) (bytes : List Byte) : State × CopyOp :=
  c.recvs.foldl (fun p r =>
    if r.failed then (p.1, { p.2 with recvs := p.2.recvs ++ [r] })
    else if p.1.recvOk ctx r then
      let n := recvDone r.addr (k :: c.done) - recvDone r.addr c.done
      let s := (p.1.putScratch (p.1.recvKey r) (r.addr + 128 * k) bytes).modRecvBar ctx r fun t => (List.range n).foldl (fun t _ => t.sector) t
      (s, { p.2 with recvs := p.2.recvs ++ [r] })
    else (p.1.loseRecv ctx r c.done, { p.2 with recvs := p.2.recvs ++ [{ r with failed := true }] }))
    (s, { c with recvs := [] })

/-! ## Progress (R297, R298) -/

/-- An operation of a comb by its place. -/
def Comb.op (c : Comb) (i : Nat) : Option AsyncOp := c.ops[i]?

/-- A copy's barrier loses the sectors it will not deliver (R298, R300). -/
def State.loseSectors (s : State) (ck : Nat) (op : AsyncOp) (c : CopyOp) : State :=
  let n := if c.counts then c.sectors - c.done.length else 0
  let s := match c.barrier with
    | some b => s.modComb ck fun x => x.modTxBar b fun t => t.lose n
    | none => s
  c.recvs.foldl (fun s r => if r.failed then s else s.loseRecv op.ctx r c.done) s

/-- An error that an engine's read met is counted, and when dirty data is lost the context ends (R248, R249). -/
def State.engineError (s : State) (ck ctx : Nat) (f : CopyFault) : State :=
  match f.bad with
  | none => s.countTables ck (some ctx) f.code f.va
  | some (die, lost) => if lost then (s.countLost die lost).endContext ctx 2 0 0 else s.countLost die lost

/-- A copy ends by a fault with its COPYERR record, or pauses with ENGFAULT (R298). Whether a page without a mapping is
one the firmware will map is a free choice: the spec gives no mark of an absent page (DESIGN CHOICE, log entry 11). -/
def State.copyFault (s : State) (ck : Nat) (op : AsyncOp) (c : CopyOp) (f : CopyFault) : State :=
  if f.code = codeDPAGE ∧ Config.freeBool (s.freeN * 2 ^ 16) then
    let s := s.post ck (evRec 8 (some op.ctx) op.owner.src f.code (f.va % 2 ^ 32) (f.va / 2 ^ 32) false)
    { s.modComb ck fun x => x.setOp { op with kind := .copy { c with paused := some f.va } } with freeN := s.freeN + 1 }
  else
    let s := s.loseSectors ck op c
    let s := s.post ck (evRec 3 (some op.ctx) op.owner.src (f.code + 256 * f.reason) (f.va % 2 ^ 32) (f.va / 2 ^ 32) false)
    { (s.modComb ck fun x => x.setOp { op with kind := .copy { c with ended := true } }).engineError ck op.ctx f with freeN := s.freeN + 1 }

/-- Sector k of a copy moved: the machine, and the copy with its receivers. -/
def State.copySector (s : State) (ck : Nat) (op : AsyncOp) (c : CopyOp) (k : Nat) : Except CopyFault (State × CopyOp) :=
  match c.op with
  | 0x120 =>
    match s.readTileSector ck op c k with
    | .error x => .error x
    | .ok (s, bs) => .ok (s.putScratch ck (c.num 1 + 128 * k) bs, c)
  | 0x121 =>
    match s.writeTileSector ck op c k (s.getScratch ck (c.num 1 + 128 * k) 128) with
    | .error x => .error x
    | .ok s => .ok (s, c)
  | 0x122 =>
    match s.readTileSector ck op c k with
    | .error x => .error x
    | .ok (s, bs) => .ok (s.multicast op.ctx c k bs)
  | 0x123 =>
    match s.gatherSector ck op c k with
    | .error x => .error x
    | .ok s => .ok (s, c)
  | _ =>
    match s.copylSector ck op c k with
    | .error x => .error x
    | .ok s => .ok (s, c)

/-- Whether an engine operation may act on memory: its release is complete, and the accesses of its issuer that happen before it,
by its release or by a release fence, are performed: its accesses find them at every scope; at TEAM scope and wider also
those of the comb that are on their way (R269, R276). -/
def State.engineReleased (s : State) (ck : Nat) (op : AsyncOp) : Bool :=
  (match op.release with
    | none => true
    | some sc => s.releaseDone ck op.ownerUid sc op.uid &&
        !(decide (1 ≤ sc) && s.stores.any fun st => decide (st.uid < op.uid) && decide (combKey st.die st.comb = ck) && s.sent st)) &&
  !(s.stores.any fun st => decide (st.agentUid = op.ownerUid) && decide (st.uid < op.after)) &&
  !((s.comb ck).ops.any fun o => decide (o.agent = op.ownerUid) && decide (o.uid < op.after) && o.unread)

/-- Whether a copy's engine may act on it: its release is complete (R269), it neither pauses nor has ended, its replicas
are invalidated (R226), its context is not frozen (R346), and a record it may post finds a place (R357). -/
def State.copyReady (s : State) (ck : Nat) (op : AsyncOp) (c : CopyOp) : Bool :=
  s.engineReleased ck op && c.paused.isNone && !c.ended && (!c.ru || c.ruDone) && (s.comb ck).canPost &&
  !(s.die (keyDie ck)).frozen.contains op.ctx

/-- COPY_SECTOR_WRITE (R297): a sector not moved yet is written, and counted at the barrier of its scratch. -/
def execCopySectorWrite (die comb idx sector : Nat) (s : State) : Host.Outcome State Fault Refusal :=
  let ck := combKey die comb
  match (s.comb ck).op idx with
  | none => .next s
  | some op =>
    match op.kind with
    | .copy c =>
      if s.copyReady ck op c && decide (sector < c.sectors) && !c.done.contains sector then
        match s.copySector ck op c sector with
        | .error f => .next (s.copyFault ck op c f)
        | .ok (s, c) =>
          let s := match c.barrier with
            | some b => if c.counts then s.modComb ck fun x => x.modTxBar b TxBar.sector else s
            | none => s
          .next ((s.modComb ck fun x => x.setOp { op with kind := .copy { c with done := c.done ++ [sector] } }).serveComb ck)
      else .next s
    | _ => .next s

/-- COPY_RESUME (R298): the page at which a copy paused is mapped now. -/
def execCopyResume (die comb idx : Nat) (s : State) : Host.Outcome State Fault Refusal :=
  let ck := combKey die comb
  match (s.comb ck).op idx with
  | none => .next s
  | some op =>
    match op.kind with
    | .copy c =>
      match c.paused with
      | none => .next s
      | some va =>
        match s.translate ck (some op.ctx) va .read with
        | .error _ => .next s
        | .ok _ => .next (s.modComb ck fun x => x.setOp { op with kind := .copy { c with paused := none } })
    | _ => .next s

/-- The pages a replica-update copy writes: an address in each. -/
def CopyOp.dstPages (c : CopyOp) : List Nat :=
  if !c.counts && decide (c.op = 0x124) then
    (List.range (c.num 2 / 2 ^ 16 + 1)).map (fun k => (c.num 0 + k * 2 ^ 16) % 2 ^ 64) ++ [(c.num 0 + c.num 2 - 1) % 2 ^ 64]
  else if c.counts then []
  else (List.range 8).flatMap c.tileVas

/-- A frame's lines dropped on a die that holds a replica of it (R226 step 2): its linear lines and tile lines, and the L1 lines
of its combs that came from the replica or, before the die's bit was set, from the owner. An L1 sector of a tile whose line is
in the L2 no more may be of the frame, and is evicted. -/
def State.dropReplica (s : State) (die frame size : Nat) : State :=
  let here := dieLoc die (frame % 2 ^ 50)
  let within (base line : Nat) : Bool := decide (base ≤ line * 128) && decide (line * 128 < base + size)
  let ofFrame (l : TileLine) : Bool := l.addrs.any fun a => a.any fun x => within here (x / 128)
  let tiles := (s.tiles.filter ofFrame).map (·.tile)
  let s := { s with l2 := s.l2.filter fun l => !within here l.1, tiles := s.tiles.filter fun l => !ofFrame l }
  (s.combs.map (·.1)).foldl (fun s ck =>
    if keyDie ck = die then s.dropL1Where ck fun l => match l.tile with
      | none => within here l.line || within frame l.line
      | some (t, _) => tiles.contains t || (s.tileLine t).isNone
    else s) s

/-- Every replica of a frame invalidated, and its directory entries cleared (R204, R226 steps 1 and 2). The directory has an
entry for each 64 KiB of the frame. -/
def State.dropReplicas (s : State) (frame size : Nat) : State :=
  let owner := locDie frame
  let mine (e : Nat × Nat) : Bool := decide (frame / 2 ^ 16 ≤ e.1) && decide (e.1 < (frame + size) / 2 ^ 16)
  let m := ((s.die owner).replicas.filter mine).foldl (fun m e => m ||| e.2) 0
  let s := (List.range 36).foldl (fun s die => if m.testBit die then s.dropReplica die frame size else s) s
  s.modDie owner fun d => { d with replicas := d.replicas.filter fun e => !mine e }

/-- REPLICA_UPDATE (R226): every replica of the frames a copy with RU writes is invalidated before its first write. -/
def execReplicaUpdate (die comb idx : Nat) (s : State) : Host.Outcome State Fault Refusal :=
  let ck := combKey die comb
  match (s.comb ck).op idx with
  | none => .next s
  | some op =>
    match op.kind with
    | .copy c =>
      if c.ru ∧ c.ruDone = false ∧ c.ended = false then
        let s := c.dstPages.foldl (fun s va =>
          match s.engineLeaf ck op.ctx va .write true with
          | .ok l => s.dropReplicas l.frame l.size
          | .error _ => s) s
        .next (s.modComb ck fun x => x.setOp { op with kind := .copy { c with ruDone := true } })
      else .next s
    | _ => .next s

/-! ## The instructions -/

/-- The fault of some scratch ranges (address, length, alignment), in the order of R283; a range that names many granules is
checked in each. -/
def Env.scratchRanges (e : Env) (rs : List (Nat × Nat × Nat)) : Option TrapInfo :=
  let steps (r : Nat × Nat × Nat) : List Nat :=
    if r.2.1 = 0 then [] else if 2 ^ 21 < r.1 + r.2.1 then [2 ^ 21] else r.1 :: (List.range ((r.1 + r.2.1 - 1) / 8192 - r.1 / 8192)).map fun k => (r.1 / 8192 + k + 1) * 8192
  let at' (c a : Nat) : Option TrapInfo := some ⟨c, e.tmask, a, 0⟩
  match rs.find? fun r => (steps r).any e.scRange with
  | some r => at' codeSCRANGE r.1
  | none =>
    let off (a : Nat) : Bool := decide (((e.s.comb e.ck).bank (a / 2 ^ 17 % 16)).mode ≠ .scratch)
    match (rs.flatMap steps).find? off with
    | some a => some ⟨codeBANKMODE, e.tmask, a / 2 ^ 17 % 16, ((e.s.comb e.ck).bank (a / 2 ^ 17 % 16)).mode.code⟩
    | none =>
      match rs.find? fun r => r.1 % r.2.2 ≠ 0 with
      | some r => at' codeDALIGN r.1
      | none => none

/-- A cause among the faults of the rows that lanes write, `len` bytes each: the faulting lanes, and what the lowest one
reports (R185, R283). -/
def Env.rowFault (e : Env) (cause len : Nat) (rows : List (Nat × Nat)) : Option TrapInfo :=
  let bad (a : Nat) : Bool := (e.scratchRanges [(a, len, 1)]).any fun t => decide (t.cause = cause)
  match e.laneFault cause (rows.filter fun r => bad r.2) with
  | some f => (e.scratchRanges [(f.tval, len, 1)]).map fun t => { t with mask := f.mask }
  | none => none

/-- NTF, RU, DS and SS (R294, R295). -/
def copyNtf (f : MForm) : Bool := f.aop.getLsbD 0
def copyRu (f : MForm) : Bool := f.aop.getLsbD 1

/-- The rule of a copy (R282, R294). -/
def ruleCopy (op : Nat) (f : MForm) (vec : Bool) (uses : List Use) (steward : Bool) : Rule :=
  { ruleM op f vec uses steward false (some 1) with mem := false }

/-- The barrier a copy names, as a scratch range to check, and as its operation holds it. -/
def Env.copyBarrier (e : Env) (f : MForm) : Option Nat := if f.d = .sink then none else some (e.read32 f.d 0).toNat
def barrierRange (b : Option Nat) : List (Nat × Nat × Nat) :=
  match b with
  | some a => [(a, 16, 16)]
  | none => []

/-- The COPYDONE record (R356), whose EVPOP is an acquire at the copy's scope (R359). A COPYL from global to global has
no scratch address: the spec states none there, and the word is free (DESIGN CHOICE, log entry 39). -/
def copyDone (ctx : Nat) (owner : Agent) (scope : Nat) (c : CopyOp) (free : Word) : EvRec :=
  let w2 := if c.op ≠ 0x124 then BitVec.ofNat 32 (c.num 1) else if c.num 3 = 1 then BitVec.ofNat 32 (c.num 0) else if c.num 4 = 1 then BitVec.ofNat 32 (c.num 1) else free
  { evRec 2 (some ctx) owner.src c.op w2.toNat (if c.op = 0x124 then c.num 2 else c.num 0) false with acq := some scope }

/-- The barrier operand of a copy is read (R294). -/
def useBar (x : Spec) : Use := ⟨x, 1, 1, false, [.s, .sink]⟩

/-- The copy registered in CP. -/
def Env.copyStart (e : Env) (s : State) (f : MForm) (c : CopyOp) : Eff :=
  let r := e.async s e.th 1 f.scope.toNat (if isRel f then some f.scope.toNat else none) (.copy c) []
  e.out r.1 r.2

/-- A tile copy: its descriptor, coordinates and scratch checked, and its operands copied (R294). `range` gives the scratch ranges
for its scratch address. -/
def Env.tileCopy (e : Env) (f : MForm) (op : Nat) (bar : Option Nat) (range : Nat → List (Nat × Nat × Nat)) (recvs : State → List CopyRecv) : Eff :=
  let n := (e.read32 f.a 0).toNat % 4096
  match e.s.descriptor e.ck (e.s.agentCtx e.ag) n with
  | .fault c v v2 => e.fault c v v2
  | .ok s d =>
    match e.runFault f.b d.ndim [] false with
    | some t => .fault t
    | none =>
      if op = 0x121 ∧ !d.w then e.fault codeTDBAD n 8
      else
        let a := (e.read32 f.c 0).toNat
        match e.scratchRanges (range a) with
        | some t => .fault t
        | none =>
          let cs := (List.range 5).map fun k => if k < d.ndim then (BitVec.ofInt 32 (e.runReg f.b k 0)).toNat else 0
          e.copyStart s f { op := op, nums := n :: a :: cs ++ d.nums, ntf := copyNtf f, ru := decide (op = 0x121) && copyRu f, barrier := bar, sectors := 8, done := [], recvs := recvs s, paused := none, ended := false, ruDone := false }

/-- The uses of a tile copy. -/
def copyUses (f : MForm) : List Use := [useS f.a, useS f.b, useS f.c]

/-- The issue of COPY. -/
def ruleCopyOp (f : MForm) : Rule :=
  ruleCopy 0x120 f false (useBar f.d :: copyUses f) false

/-- COPY (R294). -/
def execCopy (f : MForm) (s : State) : Host.Outcome State Fault Refusal :=
  issue s (ruleCopyOp f) fun e =>
    e.tileCopy f 0x120 (e.copyBarrier f) (fun a => (a, 1024, 128) :: barrierRange (e.copyBarrier f)) fun _ => []

/-- The issue of COPYO. -/
def ruleCopyo (f : MForm) : Rule :=
  ruleCopy 0x121 f false (copyUses f) false

/-- COPYO (R294). -/
def execCopyo (f : MForm) (s : State) : Host.Outcome State Fault Refusal :=
  issue s (ruleCopyo f) fun e =>
    e.tileCopy f 0x121 none (fun a => [(a, 1024, 128)]) fun _ => []

/-- The receivers of a list in scratch (R299). A name of nothing names no die. -/
def Env.receivers (e : Env) (a n : Nat) (s : State) : List CopyRecv :=
  (List.range n).map fun k =>
    let w (i : Nat) : Nat := leNat (s.getScratch e.ck (a + 16 * k + 4 * i) 4)
    let name := w 0
    let die := if name / 2 ^ 18 ≠ 0 then none else (s.die (keyDie e.ck)).lmap[name / 256 % 64]?
    ⟨BitVec.ofNat 32 name, die, name % 256, w 1, if w 2 = 0xFFFFFFFF then none else some (w 2), false⟩

/-- The issue of COPYM. -/
def ruleCopym (f : MForm) : Rule :=
  ruleCopy 0x122 f false (copyUses f) false

/-- COPYM (R299): the list is read at issue. -/
def execCopym (f : MForm) (s : State) : Host.Outcome State Fault Refusal :=
  let n := f.size.toNat + 1
  issue s (ruleCopym f) fun e =>
    e.tileCopy f 0x122 none (fun a => [(a, 16 * n, 16)]) (e.receivers (e.read32 f.c 0).toNat n)

/-- The issue of GATHER. -/
def ruleGather (f : MForm) : Rule :=
  ruleCopy 0x123 f true [useBar f.d, ⟨f.a, 2, 2, false, [.v]⟩, useS f.c] false

/-- The scratch faults of a GATHER: those of its rows by lane, and those of its barrier; DALIGN of the barrier apart, which
comes after the translation of the rows (R283). -/
def Env.gatherFault (e : Env) (f : MForm) (b len : Nat) : Option TrapInfo :=
  let rows := e.lanes.map fun i => (i, b + i * len)
  let bar (c : Nat) : Option TrapInfo := match e.scratchRanges (barrierRange (e.copyBarrier f)) with
    | some t => if t.cause = c then some t else none
    | none => none
  firstFault [e.rowFault codeSCRANGE len rows, bar codeSCRANGE, e.rowFault codeBANKMODE len rows, bar codeBANKMODE]

/-- GATHER (R296): its rows are translated at issue. -/
def execGather (f : MForm) (s : State) : Host.Outcome State Fault Refusal :=
  let len := 2 ^ f.size.toNat
  issue s (ruleGather f) fun e =>
    let b := (e.read32 f.c 0).toNat
    match e.gatherFault f b len with
    | some t => .fault t
    | none =>
      let vas := e.each fun i => (e.read64 f.a i).toNat
      let unaligned := firstFault [e.laneFault codeDALIGN (vas.filter fun l => l.2 % len ≠ 0), e.scratchRanges (barrierRange (e.copyBarrier f))]
      match unaligned, e.laneAccs .read (fun _ => len) 1 false vas with
      | some t, .error x => if x.cause = codeDERR then .fault t else .fault x
      | some t, .ok _ => .fault t
      | none, .error x => .fault x
      | none, .ok as =>
        let s := e.s.noteAccs e.ck ((e.s.agentCtx e.ag).getD 0) .read as
        let c : CopyOp := { op := 0x123, nums := len :: b :: as.flatMap fun a => [a.lane, a.va], ntf := false, ru := false, barrier := e.copyBarrier f, sectors := 0, done := [], recvs := [], paused := none, ended := false, ruDone := false }
        e.copyStart s f { c with sectors := c.gatherSectors.length }

/-- The issue of COPYL. -/
def ruleCopyl (f : MForm) : Rule :=
  let ds := f.aop.getLsbD 2
  let ss := f.aop.getLsbD 3
  let addr (x : Spec) (scratch : Bool) : Use := if scratch then useS x else useSPair x
  ruleCopy 0x124 f false [useBar f.d, addr f.a ds, addr f.b ss, useS f.c] true

/-- COPYL (R295): a length of 0 completes at issue. -/
def execCopyl (f : MForm) (s : State) : Host.Outcome State Fault Refusal :=
  let ds := f.aop.getLsbD 2
  let ss := f.aop.getLsbD 3
  issue s (ruleCopyl f) fun e =>
    let at' (x : Spec) (scratch : Bool) : Nat := if scratch then (e.read32 x 0).toNat else (e.read64 x 0).toNat
    let dst := at' f.a ds
    let src := at' f.b ss
    let len := (e.read32 f.c 0).toNat
    let ranges := (if ds then [(dst, len, 1)] else []) ++ (if ss then [(src, len, 1)] else []) ++ barrierRange (e.copyBarrier f)
    match e.scratchRanges ranges with
    | some t => .fault t
    | none =>
      let c : CopyOp := { op := 0x124, nums := [dst, src, len, ds.toNat, ss.toNat], ntf := copyNtf f, ru := copyRu f, barrier := e.copyBarrier f, sectors := (dst % 128 + len + 127) / 128, done := [], recvs := [], paused := none, ended := false, ruDone := false }
      if len ≠ 0 then e.copyStart e.s f c
      else if !c.ntf then e.out e.s e.th
      else if (e.s.comb e.ck).canPost then
        let r := copyDone ((e.s.agentCtx e.ag).getD 0xFF) e.ag f.scope.toNat c (Config.freeWord (e.s.freeN * 2 ^ 16))
        e.out { e.s.post e.ck r with freeN := e.s.freeN + 1 } e.th
      else e.block .again

/-- The issue of CCANCEL. -/
def ruleCcancel (f : MForm) : Rule :=
  { Rule.basic 0x125 f.h false [useSD f.d] with steward := true, ends := true }

/-- CCANCEL (R300): every outstanding copy of the agent that has not ended stops between sectors, and completes like one that
ended by a fault, once its writes to the die are performed (R270), with no COPYDONE and no COPYERR. What it counts is a choice
(DESIGN CHOICE, log entry 39): the copies it stops. -/
def execCcancel (f : MForm) (s : State) : Host.Outcome State Fault Refusal :=
  issue s (ruleCcancel f) fun e =>
    let mine := (e.s.comb e.ck).ops.filterMap fun o => match o.kind with
      | .copy c => if o.ownerUid = e.th.uid ∧ c.ended = false then some (o, c) else none
      | _ => none
    let s := mine.foldl (fun s oc => (s.loseSectors e.ck oc.1 oc.2).modComb e.ck fun x => x.setOp { oc.1 with kind := .copy { oc.2 with ended := true } }) e.s
    .ok ⟨s, e.th, e.write32 f.d false [(0, BitVec.ofNat 32 mine.length)], 0, none, .seq⟩

end Sys2Proof.Machine
end

