-- ==== Sys2Proof/Machine/Matrix.lean ====
section
/-! DEFINITION. The matrix engine: major 0x14, the arithmetic of passes and the grant of a pass (R62 to R67, R304 to
R325). The pass that holds the array goes from boundary to boundary; at each it reads the operands of what comes next, does the
additions and sends its writes (log entry 21); its completion comes after its end.
Model's choices in this file: log entries 11, 21, 38, 39, 43. -/

namespace Sys2Proof.Machine

/-! ## Arithmetic (R62 to R66) -/

/-- The elements of a pair code: types of A and B, g, and the block that shares a scale, 0 for none (R62 to R65,
R83). -/
def pairInfo (p : Nat) : Ty × Ty × Nat × Nat :=
  match p with
  | 0x00 => (.bf16, .bf16, 1, 0)
  | 0x01 => (.f16, .f16, 1, 0)
  | 0x02 => (.e4m3, .e4m3, 2, 0)
  | 0x03 => (.e4m3, .e5m2, 2, 0)
  | 0x04 => (.e5m2, .e4m3, 2, 0)
  | 0x05 => (.e5m2, .e5m2, 2, 0)
  | 0x06 => (.e4m3, .e4m3, 2, 32)
  | 0x07 => (.e3m2, .e3m2, 2, 32)
  | 0x08 => (.e2m3, .e2m3, 2, 32)
  | 0x09 => (.e2m1, .e2m1, 4, 32)
  | 0x0A => (.qn4, .bf16, 1, 64)
  | 0x0B => (.qn4, .e4m3, 2, 64)
  | 0x0C => (.s8, .s8, 2, 0)
  | _ => (.s8, .s8, 2, 32)

/-- The value of an element without its scale: an S8 of MXINT8 counts 2⁻⁶, a QN4 code gives its level (R45, R46). -/
def elemV (mxint : Bool) (t : Ty) (bits : Nat) : FV :=
  match t with
  | .s8 =>
    let x := (BitVec.ofNat 8 bits).toInt
    .num (decide (x < 0)) x.natAbs (if mxint then -6 else 0)
  | .qn4 => .num (decide (qn4Level (bits % 16) < 0)) (qn4Level (bits % 16)).natAbs 0
  | t => (fmtOf t).decode bits

/-- The exact sum of the products of some pairs; `none` is an invalid operation. -/
def sumProducts : List (FV × FV) → Option FV
  | [] => some (.num false 0 0)
  | [p] => mulV p.1 p.2
  | p :: ps =>
    match mulV p.1 p.2, sumProducts ps with
    | some x, some y => addV false x y
    | _, _ => none

/-- How a pass delivers (R66, R315): to nearest even, subnormals kept. -/
def matOpt : FOpt := ⟨.rne, false, false, 0⟩

/-- The canonical NaN of a cell. -/
def nanCell : Word := 0x7FC00000

/-- Two MSTAT bits from flags: NV, OF. -/
def mstatOf (x : Exc) : BitVec 2 := BitVec.ofNat 2 ((x.getLsbD 0).toNat + 2 * (x.getLsbD 2).toNat)

/-- One rounding of a cell: `acc + s × scale` with s the exact sum of the products (R62 to R64, R66). A NaN among the
operands, the scales or in the accumulator gives the canonical NaN without NV even when another product of the step is
∞ × 0 or two of its terms are infinities of opposite signs: the spec does not say whether NV is set then (DESIGN CHOICE,
log entry 52). -/
def cellStep (acc : Word) (ab : List (FV × FV)) (scale : Option FV) : Word × BitVec 2 :=
  let accv := fmtF32.decode acc.toNat
  match scale with
  | none => (nanCell, 0)
  | some sc =>
    if accv.isNan || sc.isNan || ab.any (fun p => p.1.isNan || p.2.isNan) then (nanCell, 0)
    else match ((sumProducts ab).bind fun s => mulV s sc).bind fun x => addV false x accv with
      | none => (nanCell, 1)
      | some v =>
        let r := fmtF32.deliver matOpt v
        (BitVec.ofNat 32 r.1, mstatOf r.2)

/-- INT8·INT8 (R65). -/
def intStep (acc : Word) (ab : List (Int × Int)) : Word := acc + BitVec.ofInt 32 (ab.foldl (fun s p => s + p.1 * p.2) 0)

/-- The addition of a row pass (R66, R317). -/
def rowAdd (a b : Word) : Word × BitVec 2 :=
  let r := fmtF32.add matOpt (fmtF32.decode a.toNat) (fmtF32.decode b.toNat)
  if (fmtF32.decode r.1).isNan then (nanCell, if (fmtF32.decode a.toNat).isNan || (fmtF32.decode b.toNat).isNan then 0 else 1)
  else (BitVec.ofNat 32 r.1, mstatOf r.2)

/-- The multiplication of MROWS (R66, R317). -/
def rowMul (a b : Word) : Word × BitVec 2 :=
  let r := fmtF32.mul matOpt (fmtF32.decode a.toNat) (fmtF32.decode b.toNat)
  if (fmtF32.decode r.1).isNan then (nanCell, if (fmtF32.decode a.toNat).isNan || (fmtF32.decode b.toNat).isNan then 0 else 1)
  else (BitVec.ofNat 32 r.1, mstatOf r.2)

/-! ## Accumulators (R307) -/

/-- A cell of a physical tile. -/
def Comb.cell (c : Comb) (tile i j : Nat) : Word := Sparse.get 0 c.acc (tile * 2048 + i * 64 + j)
def Comb.setCell (c : Comb) (tile i j : Nat) (x : Word) : Comb := { c with acc := Sparse.set 0 c.acc (tile * 2048 + i * 64 + j) x }

/-- Every cell of the rows and columns below M and N. -/
def cells (m n : Nat) : List (Nat × Nat) := (List.range m).flatMap fun i => (List.range n).map fun j => (i, j)

/-- Cells changed one after the other, with the MSTAT bits they raise. -/
def Comb.mapCells (c : Comb) (tile : Nat) (ijs : List (Nat × Nat)) (g : Nat → Nat → Word → Word × BitVec 2) : Comb × BitVec 2 :=
  ijs.foldl (fun p ij =>
    let r := g ij.1 ij.2 (p.1.cell tile ij.1 ij.2)
    (p.1.setCell tile ij.1 ij.2 r.1, p.2 ||| r.2)) (c, 0)

/-! ## Operands (R311, R312) -/

/-- An operand of a pass: space, address, row stride, element width, whether its rows are QN4 superblocks, and its
descriptor. Elements are named by x along a row and y across rows. -/
structure Opnd where
  space : Nat
  addr : Nat
  stride : Nat
  bits : Nat
  qn : Bool
  desc : Desc
  deriving DecidableEq, Repr

/-- The fields of a tensor operand: tensor id and first coordinates. -/
def Opnd.tensor (o : Opnd) : Nat := o.addr % 2 ^ 12
def Opnd.c0 (o : Opnd) : Nat := o.addr / 2 ^ 12 % 2 ^ 20
def Opnd.c1 (o : Opnd) : Nat := o.addr / 2 ^ 32 % 2 ^ 20

/-- The coordinates of an element of a tensor operand. -/
def Opnd.coords (o : Opnd) (x y : Nat) : List Nat := [o.c0 + x, o.c1 + y, 0, 0, 0]

/-- Whether an element lies inside its tensor. -/
def Opnd.inside (o : Opnd) (x y : Nat) : Bool := decide (o.space ≠ 2) || o.desc.inside5 ((o.coords x y).map fun (k : Nat) => (k : Int))

/-- The bit address of an element, or `none` outside its tensor (R312). -/
def Opnd.bit (o : Opnd) (x y : Nat) : Option Nat :=
  if o.space = 2 then (if o.inside x y then some (o.desc.bitAddr (o.coords x y)) else none)
  else if o.qn then some (8 * (o.addr + y * o.stride + 136 * (x / 256)) + 4 * (x % 256))
  else some (8 * (o.addr + y * o.stride) + x * o.bits)

/-- The bytes from a bit on. -/
def bytesOf (bit w : Nat) : List Nat := (List.range ((bit % 8 + w + 7) / 8)).map fun k => bit / 8 + k

/-- The byte address of `n` bytes of a superblock's scales (R47): offset 128 + q for c, 132 for S. -/
def Opnd.superByte (o : Opnd) (x y off : Nat) : Option Nat :=
  if o.space = 2 then
    (if o.inside x y then some (o.desc.rowVa (o.coords x y) + 136 * ((o.c0 + x) / 256) + off) else none)
  else some (o.addr + y * o.stride + 136 * (x / 256) + off)

/-- The index of the block of 64 that holds an element, within its superblock. -/
def Opnd.block64 (o : Opnd) (x : Nat) : Nat := (if o.space = 2 then o.c0 + x else x) % 256 / 64

/-- The byte of a tensor's MX scale region for an element, or `none` outside (R205, R312). -/
def Opnd.scaleVa (o : Opnd) (x y : Nat) : Option Nat :=
  if o.inside x y then
    let b := o.desc.bdim
    let dim (k : Nat) : Nat := if k = b then (o.desc.size k + 31) / 32 else o.desc.size k
    let idx (k : Nat) : Nat := if k = b then (o.coords x y).getD k 0 / 32 else (o.coords x y).getD k 0
    some (o.desc.scale + (List.range 5).foldr (fun k r => idx k + dim k * r) 0)
  else none

/-- Whether an element of a translated operand is reached through a tile line (R227, R312). -/
def Opnd.tiled (o : Opnd) (as : List (Nat × Leaf × Nat)) (bit : Nat) : Bool :=
  decide (o.space = 2) && o.desc.tl && (match as.find? fun a => a.1 = bit / 8 with
    | some a => decide (a.2.1.place ≠ 3)
    | none => false)

/-- The uncorrectable error that the read of a byte of some elements meets, in the tile line where they go through one. -/
def State.matBad (s : State) (ck ctx : Nat) (o : Opnd) (xys : List (Nat × Nat)) (va loc : Nat) : Option (Nat × Bool) :=
  let holds (xy : Nat × Nat) : Bool := (o.bit xy.1 xy.2).any fun b => (bytesOf b o.bits).contains va
  match if o.space = 2 ∧ o.desc.tl then xys.find? holds else none with
  | some xy =>
    let at' := o.coords xy.1 xy.2
    s.tileLineBad (o.desc.tileRef ctx (keyDie ck) o.tensor (o.desc.tileOf at'))
      (fun va => some (o.desc.tileBit at' / 8 + (va - (o.bit xy.1 xy.2).getD 0 / 8))) va loc
  | none => s.linearBad va loc

/-- The bytes of a comb's scratch or of memory, read at their homes. -/
def State.matBytes (s : State) (ck : Nat) (o : Opnd) (as : List (Nat × Leaf × Nat)) (vas : List Nat) : Nat :=
  leNat (vas.map fun va => if o.space = 0 then (s.getScratch ck va 1).headD 0 else s.byteNow (engineLoc as va))

/-- An element as a pass reads it (R312). -/
def State.matElem (s : State) (ck ctx : Nat) (o : Opnd) (as : List (Nat × Leaf × Nat)) (x y : Nat) : Nat :=
  match o.bit x y with
  | none => o.desc.fillElem
  | some b =>
    if o.tiled as b then
      match s.tileLine (o.desc.tileRef ctx (keyDie ck) o.tensor (o.desc.tileOf (o.coords x y))) with
      | some l =>
        let tb := o.desc.tileBit (o.coords x y)
        (l.word (tb / 32)).toNat / 2 ^ (tb % 32) % 2 ^ o.bits
      | none => 0
    else s.matBytes ck o as (bytesOf b o.bits) / 2 ^ (b % 8) % 2 ^ o.bits

/-- The tile lines some elements are reached through, allocated and filled; or TDBAD of a tile (R206). -/
def State.matTiles (s : State) (ck ctx : Nat) (o : Opnd) (as : List (Nat × Leaf × Nat)) : List (Nat × Nat) → Except CopyFault State
  | [] => .ok s
  | xy :: rest =>
    match o.bit xy.1 xy.2 with
    | none => s.matTiles ck ctx o as rest
    | some b =>
      if o.tiled as b then
        match as.find? fun a => a.1 = b / 8 with
        | none => s.matTiles ck ctx o as rest
        | some a =>
          let tc := o.desc.tileOf (o.coords xy.1 xy.2)
          match o.desc.tileReason a.2.1 tc with
          | some r => .error ⟨codeTDBAD, r, b / 8, none⟩
          | none =>
            let sec := o.desc.tileBit (o.coords xy.1 xy.2) / 1024
            let s := if (s.tileLine (o.desc.tileRef ctx (keyDie ck) o.tensor tc)).isSome then s
              else s.replicaFetch (keyDie ck) (o.desc.sectorReads a.2.1 tc sec)
            let l := o.desc.newTile s ctx (keyDie ck) o.tensor a.2.1 tc
            ((s.allocTile l).fillTile l.tile sec).matTiles ck ctx o as rest
      else s.matTiles ck ctx o as rest

/-- Memory addresses an operand's elements need translated. -/
def Opnd.vas (o : Opnd) (xys : List (Nat × Nat)) : List Nat :=
  if o.space = 0 then [] else (xys.flatMap fun xy => match o.bit xy.1 xy.2 with
    | some b => bytesOf b o.bits
    | none => []).eraseDups

/-! ## The operands of an MMA -/

/-- The registers of a pass. -/
def Pass.reg (p : Pass) (k : Nat) : Nat := (p.regs.getD k 0).toNat
def Pass.desc (p : Pass) (k : Nat) : Desc := Desc.ofNums (p.descs.getD k [])

/-- K, M and N. -/
def Pass.dims (p : Pass) : Nat := p.reg (if p.op = 0x140 then 3 else 1)
def Pass.kk (p : Pass) : Nat := p.dims % 2 ^ 32
def Pass.mm (p : Pass) : Nat := p.dims / 2 ^ 32 % 256
def Pass.nn (p : Pass) : Nat := p.dims / 2 ^ 40 % 256

/-- Z and BK. -/
def Pass.bk (p : Pass) : Bool := p.imm.testBit 5

/-- The operands A and B of an MMA, and their MX scales outside tensors. -/
def Pass.opA (p : Pass) : Opnd := ⟨p.imm % 4, p.reg 0, p.reg 2 % 2 ^ 32, (pairInfo p.ty).1.bits, decide ((pairInfo p.ty).1 = .qn4), p.desc 0⟩
def Pass.opB (p : Pass) : Opnd := ⟨p.imm / 4 % 4, p.reg 1, p.reg 2 / 2 ^ 32, (pairInfo p.ty).2.1.bits, false, p.desc 1⟩
def Pass.scA (p : Pass) : Opnd := ⟨p.imm % 4, p.reg 4, (p.kk + 31) / 32, 8, false, p.desc 0⟩
def Pass.scB (p : Pass) : Opnd := ⟨p.imm / 4 % 4, p.reg 5, (p.kk + 31) / 32, 8, false, p.desc 1⟩

/-- The place of element (k, j) of B. -/
def Pass.xyB (p : Pass) (k j : Nat) : Nat × Nat := if p.bk then (j, k) else (k, j)

/-- The address of the scale of an operand's element: k along K, r its row or column. -/
def scaleAddr (o sc : Opnd) (xy : Nat × Nat) (k r : Nat) : Option Nat :=
  if o.space = 2 then o.scaleVa xy.1 xy.2 else some (sc.addr + r * sc.stride + k / 32)

/-- A scale byte as a pass reads it; outside the tensor FILL's low byte (R312). -/
def State.matScale (s : State) (ck : Nat) (o sc : Opnd) (as : List (Nat × Leaf × Nat)) (xy : Nat × Nat) (k r : Nat) : Nat :=
  match scaleAddr o sc xy k r with
  | some a => s.matBytes ck sc as [a]
  | none => o.desc.fill % 256

/-- A QN4 block's scale code and its superblock's S (R47, R312). -/
def State.matQn (s : State) (ck : Nat) (o : Opnd) (as : List (Nat × Leaf × Nat)) (x y : Nat) : Nat × Nat :=
  match o.superByte x y (128 + o.block64 x), o.superByte x y 132 with
  | some a, some b => (s.matBytes ck o as [a], s.matBytes ck o as ((List.range 4).map (b + ·)))
  | _, _ => (o.desc.fill % 256, o.desc.fill)

/-- The elements of A and of B that k from `k0` below `k1` need. -/
def Pass.elemsA (p : Pass) (k0 k1 : Nat) : List (Nat × Nat) :=
  (List.range p.mm).flatMap fun i => (List.range (k1 - k0)).map fun d => (k0 + d, i)
def Pass.elemsB (p : Pass) (k0 k1 : Nat) : List (Nat × Nat) :=
  (List.range p.nn).flatMap fun j => (List.range (k1 - k0)).map fun d => p.xyB (k0 + d) j

/-- The scale bytes a block needs translated. -/
def Pass.scaleVas (p : Pass) (k0 : Nat) : List Nat :=
  let mem (sp : Nat) (l : List (Option Nat)) : List Nat := if sp = 0 then [] else l.filterMap id
  let blk := (pairInfo p.ty).2.2.2
  if blk = 32 then
    mem p.opA.space ((List.range p.mm).map fun i => scaleAddr p.opA p.scA (k0, i) k0 i) ++
    mem p.opB.space ((List.range p.nn).map fun j => scaleAddr p.opB p.scB (p.xyB k0 j) k0 j)
  else if blk = 64 then
    mem p.opA.space ((List.range p.mm).flatMap fun i => p.opA.superByte k0 i (128 + p.opA.block64 k0) ::
      (List.range 4).map fun b => (p.opA.superByte k0 i 132).map (· + b))
  else []

/-- The cells after the elements k from `k0` below `k1` are added: one k-step, or one block (R62 to R65). -/
def State.matAdd (s : State) (ck ctx : Nat) (p : Pass) (as : List (Nat × Leaf × Nat)) (k0 k1 : Nat) : State × BitVec 2 :=
  let info := pairInfo p.ty
  let a (i k : Nat) : Nat := s.matElem ck ctx p.opA as k i
  let b (k j : Nat) : Nat := let xy := p.xyB k j; s.matElem ck ctx p.opB as xy.1 xy.2
  let ks := (List.range (k1 - k0)).map (k0 + ·)
  let pad : List (FV × FV) := if info.2.2.2 = 0 ∧ k1 - k0 < info.2.2.1 then [(.num false 0 0, .num false 0 0)] else []
  let mxint := decide (p.ty = 0x0D)
  let scale (i j : Nat) : Option FV :=
    if info.2.2.2 = 32 then
      match ofE8M0 (s.matScale ck p.opA p.scA as (k0, i) k0 i), ofE8M0 (s.matScale ck p.opB p.scB as (p.xyB k0 j) k0 j) with
      | some x, some y => mulV x y
      | _, _ => none
    else if info.2.2.2 = 64 then
      let q := s.matQn ck p.opA as k0 i
      match fmtF32.decode q.2 with
      | .nan _ _ _ => none
      | sv => match mulV (.num false q.1 (-16)) sv with
        | some x => some x
        | none => some (.inf false)
    else some (.num false 1 0)
  let r := (s.comb ck).mapCells p.tile (cells p.mm p.nn) fun i j acc =>
    if p.ty = 0x0C then
      (intStep acc (ks.map fun k => ((BitVec.ofNat 8 (a i k)).toInt, (BitVec.ofNat 8 (b k j)).toInt)), 0)
    else if info.2.2.2 = 64 ∧ (let q := s.matQn ck p.opA as k0 i; q.1 = 0 ∧ fmtF32.decode q.2 matches .inf _) then
      -- c × S is 0 × ∞, an invalid operation unless an operand is a NaN already
      (nanCell, if (fmtF32.decode acc.toNat).isNan || ks.any (fun k => (elemV mxint info.2.1 (b k j)).isNan) then 0 else 1)
    else cellStep acc (ks.map (fun k => (elemV mxint info.1 (a i k), elemV mxint info.2.1 (b k j))) ++ pad) (scale i j)
  (s.setComb ck r.1, r.2)

/-! ## Running a pass (R314 to R317) -/

/-- How far a step of a pass comes: to its next boundary, or to a fault at a KSTEP. -/
structure PassRun where
  s : State
  kstep : Nat
  excs : BitVec 2
  fault : Option CopyFault

/-- Whether a pass's reads wait for a write to one of their bytes that the comb sent before the pass was posted: what happens
before it at a barrier is found (R257, R320). -/
def State.passWaits (s : State) (ck : Nat) (p : Pass) (as : List (Nat × Leaf × Nat)) : Bool :=
  s.stores.any fun st => decide (st.uid < p.uid) && decide (combKey st.die st.comb = ck) && s.sent st && overlaps st.locs (as.map (·.2.2))

/-- The k-steps of an MMA from one boundary to the next (R314): a block's with MX and QN4 pairs. -/
def Pass.unit (p : Pass) : Nat :=
  let info := pairInfo p.ty
  if info.2.2.2 = 0 then 1 else info.2.2.2 / info.2.2.1

/-- The k-steps, rows or columns of a pass (R310, R314). -/
def Pass.total (p : Pass) : Nat :=
  match p.op with
  | 0x140 => (p.kk + (pairInfo p.ty).2.2.1 - 1) / (pairInfo p.ty).2.2.1
  | 0x141 => 1
  | 0x142 | 0x143 => p.mm
  | _ => p.nn

/-- An MMA to its next boundary (R314, R315); what Z asks comes before its first k-step. -/
def State.stepMma (s : State) (ck ctx : Nat) (p : Pass) : PassRun :=
  let g := (pairInfo p.ty).2.2.1
  let s := if p.imm.testBit 4 ∧ p.kstep = 0 then
      s.setComb ck ((s.comb ck).mapCells p.tile (cells p.mm p.nn) fun _ _ _ => (0, 0)).1
    else s
  if p.total ≤ p.kstep then ⟨s, p.kstep, 0, none⟩
  else
    let k0 := p.kstep * g
    let k1 := Nat.min p.kk ((p.kstep + p.unit) * g)
    let ea := p.elemsA k0 k1
    let eb := p.elemsB k0 k1
    let bad (va loc : Nat) : Option (Nat × Bool) :=
      if s.badWords.isEmpty then none
      else if (p.opA.vas ea).contains va then s.matBad ck ctx p.opA ea va loc else s.matBad ck ctx p.opB eb va loc
    match s.engineLocs ck ctx .read false bad (p.opA.vas ea ++ p.opB.vas eb ++ p.scaleVas k0) with
    | .error f => ⟨s, p.kstep, 0, some f⟩
    | .ok as =>
      if s.passWaits ck p as then ⟨s, p.kstep, 0, none⟩ else
      match s.matTiles ck ctx p.opA as ea with
      | .error f => ⟨s, p.kstep, 0, some f⟩
      | .ok s1 =>
        match s1.matTiles ck ctx p.opB as eb with
        | .error f => ⟨s1, p.kstep, 0, some f⟩
        | .ok s2 =>
          let r := (s2.engineNote ck ctx .read as).matAdd ck ctx p as k0 k1
          ⟨r.1, Nat.min p.total (p.kstep + p.unit), r.2, none⟩

/-- The operand of MLD and MST. -/
def Pass.opM (p : Pass) : Opnd := ⟨p.imm % 4, p.reg 0, p.reg 1 % 2 ^ 32, ((Ty.ofCode p.ty).getD .b32).bits, false, p.desc 0⟩

/-- The next row of an MLD (R316). -/
def State.stepMld (s : State) (ck ctx : Nat) (p : Pass) : PassRun :=
  let i := p.kstep
  let es := (List.range p.nn).map fun j => (j, i)
  match s.engineLocs ck ctx .read false (if s.badWords.isEmpty then noBad else s.matBad ck ctx p.opM es) (p.opM.vas es) with
  | .error f => ⟨s, i, 0, some f⟩
  | .ok as =>
    if s.passWaits ck p as then ⟨s, i, 0, none⟩ else
    match s.matTiles ck ctx p.opM as es with
    | .error f => ⟨s, i, 0, some f⟩
    | .ok s1 =>
      let s2 := s1.engineNote ck ctx .read as
      let t := (Ty.ofCode p.ty).getD .b32
      let r := (s2.comb ck).mapCells p.tile (es.map fun e => (i, e.1)) fun _ j _ =>
        let b := s2.matElem ck ctx p.opM as j i
        if t.bits = 32 then (BitVec.ofNat 32 b, 0)
        else
          let v := (fmtOf t).conv fmtF32 matOpt ((fmtOf t).decode b)
          (BitVec.ofNat 32 v.1, mstatOf v.2)
      ⟨s2.setComb ck r.1, i + 1, r.2, none⟩

/-- A cell as MST stores it, and the MSTAT bits of its rounding (R316). -/
def mstCell (p : Pass) (x : Word) : Nat × BitVec 2 :=
  let t := (Ty.ofCode p.ty).getD .b32
  if t.bits = 32 then (x.toNat, 0)
  else
    let r := fmtF32.conv (fmtOf t) ⟨(RMode.ofCode (p.imm / 4 % 8)).getD .rne, false, p.imm.testBit 5, 0⟩ (fmtF32.decode x.toNat)
    (r.1, mstatOf r.2)

/-- The next row of an MST (R316): scratch at once, memory as one write an element on its way, of the pass as an agent of
its own (R252). -/
def State.stepMst (s : State) (ck ctx owner : Nat) (p : Pass) : PassRun :=
  let i := p.kstep
  let o := p.opM
  let es := ((List.range p.nn).map fun j => (j, i)).filter fun e => o.inside e.1 e.2
  match s.engineLocs ck ctx .write false noBad (o.vas es) with
  | .error f => ⟨s, i, 0, some f⟩
  | .ok as =>
    match s.matTiles ck ctx o as es with
    | .error f => ⟨s, i, 0, some f⟩
    | .ok s1 =>
      let s2 := s1.engineNote ck ctx .write as
      let c := s2.comb ck
      let s3 := es.foldl (fun s e =>
        let v := (mstCell p (c.cell p.tile i e.1)).1
        match o.bit e.1 e.2 with
        | none => s
        | some b =>
          let type := engineType as (engineLoc as (b / 8) / 128)
          if o.space = 0 then s.putScratch ck (b / 8) (leBytes (o.bits / 8) v)
          else if o.tiled as b then
            match s.tileLine (o.desc.tileRef ctx (keyDie ck) o.tensor (o.desc.tileOf (o.coords e.1 e.2))) with
            | some l => s.addStore ck ctx ⟨p.uid, owner, none, 0⟩ none type (.tile l (tileItems (o.desc.tileBit (o.coords e.1 e.2)) o.bits v)) (some p.uid)
            | none => s
          else s.addStore ck ctx ⟨p.uid, owner, none, 0⟩ none type (.bytes (byteItems ((bytesOf b o.bits).map (engineLoc as)) v)) (some p.uid)) s2
      ⟨s3, i + 1, (List.range p.nn).foldl (fun m j => m ||| (mstCell p (c.cell p.tile i j)).2) 0, none⟩

/-- A row pass (R317): MROWS by columns; the others keep no partial result that a freeze could save, so that their end is
their one boundary (log entry 21). -/
def State.stepRow (s : State) (ck : Nat) (p : Pass) : PassRun :=
  let a := p.reg 0
  let v (i : Nat) : Word := BitVec.ofNat 32 (leNat (s.getScratch ck (a + 4 * i) 4))
  if p.op = 0x144 then
    let r := (s.comb ck).mapCells p.tile ((List.range p.mm).map fun i => (i, p.kstep)) fun i _ x => rowMul x (v i)
    ⟨s.setComb ck r.1, p.kstep + 1, r.2, none⟩
  else
    let c := s.comb ck
    let rows := (List.range p.mm).map fun i =>
      (List.range p.nn).foldl (fun (m : Word × BitVec 2) j =>
        let x := c.cell p.tile i j
        if p.op = 0x145 then (BitVec.ofNat 32 (fmtF32.minmax true m.1.toNat x.toNat).1, m.2)
        else let r := rowAdd m.1 x; (r.1, m.2 ||| r.2)) (v i, 0)
    ⟨s.putScratch ck a (rows.flatMap fun r => leBytes 4 r.1.toNat), p.nn, rows.foldl (fun m r => m ||| r.2) 0, none⟩

/-- A pass from its KSTEP to its next boundary (R314). -/
def State.stepPass (s : State) (ck ctx owner : Nat) (p : Pass) : PassRun :=
  match p.op with
  | 0x140 => s.stepMma ck ctx p
  | 0x141 => ⟨s.setComb ck ((s.comb ck).mapCells p.tile (cells 32 64) fun _ _ _ => (0, 0)).1, 1, 0, none⟩
  | 0x142 => s.stepMst ck ctx owner p
  | 0x143 => s.stepMld ck ctx p
  | _ => s.stepRow ck p

/-! ## The grant (R309, R314) -/

/-- The team of a sequencer. -/
def Comb.seqTeam (c : Comb) (q : Nat) : Option (Seq × Team) :=
  (Sparse.find? c.seqs q).bind fun x => (Sparse.find? c.teams x.team).map fun t => (x, t)

/-- Whether an entry is eligible: the oldest of its sequencer that has not been granted, after the writes of an
earlier MST, MROWMAX or MROWSUM, neither paused nor of a frozen context, and of a stream that no fault has stopped (R306, R309,
R321). -/
def Comb.eligible (c : Comb) (frozen : List Nat) (p : Pass) : Bool :=
  !p.running && p.paused.isNone &&
  (c.passes.all fun q => !(decide (q.seq = p.seq) && decide (q.uid < p.uid)) || (q.running && !([0x142, 0x145, 0x146].contains q.op))) &&
  (match c.seqTeam p.seq with
    | some x => !x.1.th.stopped && !frozen.contains x.2.ctx
    | none => true)

/-- A comb after a change, with the clk noted for the entries that have become eligible by it (R309). -/
def Comb.noteEligible (old : Comb) (frozen : List Nat) (c : Comb) : Comb :=
  { c with passes := c.passes.map fun p =>
      if c.eligible frozen p && !(old.passes.any fun q => decide (q.uid = p.uid) && old.eligible frozen q) then { p with eligibleAt := c.clk } else p }

/-- The pass that holds the array: the first granted of those whose work is not done. -/
def Comb.holder (c : Comb) : Option Pass :=
  (c.passes.filter fun p => p.running && !p.fin).foldl (fun b p => match b with
    | some x => if p.grant < x.grant then some p else some x
    | none => some p) none

/-- Whether the array takes another pass (R309): it is free, or it frees within 24 clk, at a k-step, row or column a clk, from a
pass whose writes no reader waits for. -/
def Comb.arrayFree (c : Comb) : Bool :=
  match c.passes.filter fun p => p.running && !p.fin with
  | [] => true
  | [p] => [0x140, 0x141, 0x143, 0x144].contains p.op && decide (p.total - p.kstep ≤ 24)
  | _ => false

/-- The effective priority of an entry (R309). -/
def Comb.passPrio (c : Comb) (p : Pass) : Nat :=
  Nat.min 7 ((match c.seqTeam p.seq with
    | some x => x.2.prio
    | none => 0) + (c.clk - p.eligibleAt) / 4096)

/-- The entry that is granted: the highest priority, then the oldest. -/
def Comb.nextPass (c : Comb) (frozen : List Nat) : Option Pass :=
  (c.passes.filter (c.eligible frozen)).foldl (fun b p => match b with
    | some x => if c.passPrio x < c.passPrio p then some p else some x
    | none => some p) none

/-- A comb with a pass replaced. -/
def Comb.setPass (c : Comb) (p : Pass) : Comb := { c with passes := c.passes.map fun x => if x.uid = p.uid then p else x }

/-- A pass that ends by a fault: two ENGFAULT records in one clk, and its stream stops, with an empty mask in its trap
registers, by which the firmware knows that it cannot go on (R306, R314). -/
def State.passFault (s : State) (ck ctx : Nat) (p : Pass) (f : CopyFault) : State :=
  let src := 0x40 + p.seq
  let s := s.post ck (evRec 8 (some ctx) src (f.code + 256) (f.va % 2 ^ 32) (f.va / 2 ^ 32) false)
  let s := s.post ck (evRec 8 (some ctx) src (f.code + 768) (p.pc.toNat % 2 ^ 32) (f.va % 2 ^ 32) false)
  let s := s.modComb ck fun c =>
    let c := { c with passes := c.passes.filter fun x => decide (x.uid ≠ p.uid) }
    match Sparse.find? c.seqs p.seq with
    | some x => { c.haltPasses p.seq none with seqs := Sparse.put c.seqs p.seq { x with th := { x.th with trap := ⟨BitVec.ofNat 32 f.code, p.pc, 0, BitVec.ofNat 32 f.va, BitVec.ofNat 32 (f.va / 2 ^ 32)⟩, stopped := true, wait := .none, held := none } } }
    | none => c
  s.engineError ck ctx f

/-- PASS_GRANT (R309): a pass takes the array, at once or behind the one that is about to leave it. -/
def execPassGrant (die comb : Nat) (s : State) : Host.Outcome State Fault Refusal :=
  let ck := combKey die comb
  let c := s.comb ck
  let frozen := (s.die die).frozen
  match (if c.arrayFree then c.nextPass frozen else none) with
  | none => .next s
  | some p =>
    match c.seqTeam p.seq with
    | none => .next (s.modComb ck fun c => { c with passes := c.passes.filter fun x => decide (x.uid ≠ p.uid) })
    | some _ => .next { s.modComb ck fun c => c.noteEligible frozen (c.setPass { p with running := true, grant := s.nextUid }) with nextUid := s.nextUid + 1 }

/-- The pass that holds the array goes on to its next boundary; a fault on its way pauses or ends it (R314). Whether a page
without a mapping is one the firmware will map is a free choice (log entry 11). -/
def State.advancePass (s : State) (ck : Nat) (p : Pass) : State :=
  match (s.comb ck).seqTeam p.seq with
  | none => s.modComb ck fun c => { c with passes := c.passes.filter fun x => decide (x.uid ≠ p.uid) }
  | some x =>
    let ctx := x.2.ctx
    let r := s.stepPass ck ctx x.1.th.uid p
    let p' := { p with kstep := r.kstep, excs := p.excs ||| r.excs }
    match r.fault with
    | none => r.s.modComb ck fun c => c.setPass { p' with fin := decide (p.total ≤ r.kstep) }
    | some f =>
      if f.code = codeDPAGE ∧ Config.freeBool (s.freeN * 2 ^ 16) then
        let s' := r.s.modComb ck fun c => (c.setPass { p' with paused := some f.va }).haltPasses p.seq (some p.uid)
        { s'.post ck (evRec 8 (some ctx) (0x40 + p.seq) (f.code + 256) (f.va % 2 ^ 32) (f.va / 2 ^ 32) false) with freeN := s.freeN + 1 }
      else { r.s.passFault ck ctx p' f with freeN := s.freeN + 1 }

/-- The running passes of a context leave the array at the boundary they have come to, with their KSTEP (R321). -/
def Comb.freezePasses (c : Comb) (ctx : Nat) : Comb :=
  { c with passes := c.passes.map fun p =>
      if p.running && !p.fin && (c.seqTeam p.seq).any fun x => decide (x.2.ctx = ctx) then { p with running := false } else p }

/-- PASS_RESUME (R314): a paused pass whose page is mapped now is eligible again. -/
def execPassResume (die comb seq : Nat) (s : State) : Host.Outcome State Fault Refusal :=
  let ck := combKey die comb
  let c := s.comb ck
  match c.passes.find? fun p => decide (p.seq = seq) && p.paused.isSome, c.seqTeam seq with
  | some p, some x =>
    match s.translate ck (some x.2.ctx) (p.paused.getD 0) .read with
    | .ok _ => .next (s.modComb ck fun c => c.noteEligible (s.die die).frozen (c.setPass { p with paused := none }))
    | .error _ => .next s
  | _, _ => .next s

/-! ## Posting (R308, R311, R313) -/

/-- The rule of a matrix instruction: streams alone (R305). -/
def ruleMat (op : Nat) (f : SForm) (uses : List Use) : Rule :=
  { Rule.basic op f.h false uses with core := false, stream := true }


/-- What a pass is posted with: its register block and its descriptors. -/
structure Posting where
  regs : List DWord
  descs : List (List Nat)

/-- The name of an accumulator in D and its physical tile, or the fault (R313 steps 2 and 3). -/
def Env.accTile (e : Env) (d : Spec) : Except TrapInfo Nat :=
  let trap (c tv : Nat) : Except TrapInfo Nat := .error ⟨c, e.tmask, tv, 0⟩
  match d with
  | .v n =>
    if 8 ≤ n.val then trap codeBADSPEC d.code
    else match Sparse.find? (e.s.comb e.ck).teams e.th.place.team with
      | none => trap codeREGRANGE n.val
      | some t => match t.tiles[n.val]? with
        | some x => .ok x
        | none => trap codeREGRANGE n.val
  | d => trap codeBADSPEC d.code

/-- The register block from the register in A (R311). -/
def Env.xblock (e : Env) (a : Spec) (n : Nat) : List DWord :=
  match a with
  | .s k => (List.range n).map fun i => e.xreg (k.val + i)
  | _ => []

/-- Bits of an address word that its space wants to be 0 (R311). -/
def badAddr (space x : Nat) : Bool :=
  match space with
  | 0 => decide (2 ^ 21 ≤ x)
  | 2 => decide (2 ^ 52 ≤ x)
  | _ => false

/-- Scratch runs (first byte, length) of a pass that its team does not hold, or in a bank of another mode (R313 step 7). -/
def Env.matScratch (e : Env) (runs : List (Nat × Nat)) : Option TrapInfo :=
  let c := e.s.comb e.ck
  let bytes := runs.flatMap fun r => if r.2 = 0 then [] else r.1 :: ((List.range ((r.1 + r.2 - 1) / 8192 - r.1 / 8192)).map fun k => (r.1 / 8192 + k + 1) * 8192)
  match bytes.find? fun a => decide (2 ^ 21 ≤ a) || !(c.granulesOf e.th).contains (a / 8192) with
  | some a => some ⟨codeSCRANGE, e.tmask, a % 2 ^ 32, a / 2 ^ 32⟩
  | none =>
    match bytes.find? fun a => decide ((c.bank (a / 2 ^ 17)).mode ≠ .scratch) with
    | some a => some ⟨codeBANKMODE, e.tmask, a / 2 ^ 17, (c.bank (a / 2 ^ 17)).mode.code⟩
    | none => none

/-- A tensor operand's descriptor checked (R312, R313 step 6): element type, scale format, block dimension, and the
alignment of the first coordinate along K. -/
def Env.matDesc (e : Env) (s : State) (addr : Nat) (ty : Ty) (sfmt bdim along align : Nat) (write : Bool) : Except TrapInfo (State × List Nat) :=
  let n := addr % 2 ^ 12
  let trap (c v v2 : Nat) : Except TrapInfo (State × List Nat) := .error ⟨c, e.tmask, v, v2⟩
  match s.descriptor e.ck (e.s.agentCtx e.ag) n with
  | .fault c v v2 => trap c v v2
  | .ok s d =>
    let same := decide (d.ty = ty) || ((decide (ty = .b32) || decide (d.ty = .b32)) && decide (ty.bits = 32) && decide (d.ty.bits = 32))
    if !same || decide (d.sfmt ≠ sfmt) || (decide (sfmt = 1) && decide (d.bdim ≠ bdim)) || (decide (0 < align) && decide (along % align ≠ 0)) then
      trap codeTDBAD n 5
    else if write && !d.w then trap codeTDBAD n 8
    else .ok (s, d.nums)

/-- A pass posted once the reservation table has an entry for its sequencer (R308). -/
def Env.post (e : Env) (s : State) (f : SForm) (op tile : Nat) (po : Posting) : Eff :=
  let c := s.comb e.ck
  let q := e.ag.src % 0x40
  if 16 ≤ c.passes.length ∨ 8 ≤ (c.passes.filter fun p => p.seq = q).length then e.block .again
  else
    let p : Pass := ⟨s.nextUid, q, op, tile, f.sub.toNat, f.imm.toNat, po.regs, po.descs, e.th.pc, 0, false, 0, false, none, e.t, 0⟩
    e.out ({ s with nextUid := s.nextUid + 1 }.modComb e.ck fun c => { c with passes := c.passes ++ [p] }) e.th

/-- The start of a posting: the block lies within x0 to x31, and the accumulator is the team's. -/
def Env.posting (e : Env) (f : SForm) (n : Nat) (k : Nat → List DWord → Eff) : Eff :=
  match f.a with
  | .s a =>
    if 32 < a.val + n then e.fault codeBADSPEC f.a.code 0
    else match e.accTile f.d with
      | .error t => .fault t
      | .ok tile => k tile (e.xblock f.a n)
  | _ => e.fault codeBADSPEC f.a.code 0

/-- Whether M and N lie outside their ranges. -/
def badMN (dims : Nat) : Bool :=
  let m := dims / 2 ^ 32 % 256
  let n := dims / 2 ^ 40 % 256
  decide (m < 1) || decide (32 < m) || decide (n < 1) || decide (64 < n)

/-- The first misaligned value of a list (R313 step 5). -/
def Env.misaligned (e : Env) (n : Nat) (xs : List Nat) : Option TrapInfo :=
  (xs.find? fun x => x % n ≠ 0).map fun x => ⟨codeDALIGN, e.tmask, x % 2 ^ 32, x / 2 ^ 32⟩

/-- A pass that is not posted yet: what the checks of R313 look at. -/
def Pass.draft (op tile : Nat) (f : SForm) (xs : List DWord) : Pass := ⟨0, 0, op, tile, f.sub.toNat, f.imm.toNat, xs, [], 0, 0, false, 0, false, none, 0, 0⟩

/-- Whether an MMA's pair has MX scales, and whether its A is QN4 (R311). -/
def Pass.mx (p : Pass) : Bool := decide ((pairInfo p.ty).2.2.2 = 32)
def Pass.qn (p : Pass) : Bool := decide ((pairInfo p.ty).1 = .qn4)

/-- The register of an MMA's block whose value its entry excludes (R313 step 4). -/
def Pass.mmaBad (p : Pass) : Option Nat :=
  let spA := p.imm % 4
  let spB := p.imm / 4 % 4
  let badK := decide (1048575 < p.kk) || (p.mx && decide (p.kk % 32 ≠ 0)) || (p.qn && decide (p.kk % 256 ≠ 0))
  if badMN (p.reg 3) || badK || decide (2 ^ 48 ≤ p.reg 3) then some 3
  else if badAddr spA (p.reg 0) then some 0
  else if badAddr spB (p.reg 1) then some 1
  else if p.mx && (badAddr spA (p.reg 4) || (decide (spA = 2) && decide (p.reg 4 ≠ 0))) then some 4
  else if p.mx && (badAddr spB (p.reg 5) || (decide (spB = 2) && decide (p.reg 5 ≠ 0))) then some 5
  else none

/-- The addresses and strides of an MMA that must be multiples of 16 (R313 step 5). -/
def Pass.mmaAligns (p : Pass) : List Nat :=
  let al (sp v : Nat) : List Nat := if sp = 2 then [] else [v]
  al (p.imm % 4) (p.reg 0) ++ al (p.imm / 4 % 4) (p.reg 1) ++ al (p.imm % 4) p.opA.stride ++ al (p.imm / 4 % 4) p.opB.stride

/-- The descriptors of an MMA's tensor operands, checked (R313 step 6). -/
def Env.mmaDescs (e : Env) (p : Pass) : Except TrapInfo (State × List (List Nat)) :=
  let info := pairInfo p.ty
  let da : Except TrapInfo (State × List Nat) :=
    if p.imm % 4 = 2 then e.matDesc e.s (p.reg 0) info.1 (if p.mx then 1 else if p.qn then 2 else 0) 0 p.opA.c0 (if p.mx then 32 else if p.qn then 64 else 0) false
    else .ok (e.s, [])
  match da with
  | .error t => .error t
  | .ok (s, dA) =>
    let db : Except TrapInfo (State × List Nat) :=
      if p.imm / 4 % 4 = 2 then e.matDesc s (p.reg 1) info.2.1 (if p.mx then 1 else 0) p.bk.toNat (if p.bk then p.opB.c1 else p.opB.c0) (if p.mx then 32 else 0) false
      else .ok (s, [])
    match db with
    | .error t => .error t
    | .ok (s, dB) => .ok (s, [dA, dB])

/-- The scratch runs (first byte, length) of an MMA's operands (R313 step 7). -/
def Pass.mmaRuns (p : Pass) : List (Nat × Nat) :=
  let info := pairInfo p.ty
  let rowA := if p.qn then 136 * ((p.kk + 255) / 256) else (p.kk * info.1.bits + 7) / 8
  let runs (sp addr stride rows len : Nat) : List (Nat × Nat) := if sp = 0 then (List.range rows).map fun r => (addr + r * stride, len) else []
  let b := if p.bk then runs (p.imm / 4 % 4) (p.reg 1) p.opB.stride p.kk ((p.nn * info.2.1.bits + 7) / 8)
    else runs (p.imm / 4 % 4) (p.reg 1) p.opB.stride p.nn ((p.kk * info.2.1.bits + 7) / 8)
  let scales := if p.mx then runs (p.imm % 4) (p.reg 4) 0 1 (p.mm * p.scA.stride) ++ runs (p.imm / 4 % 4) (p.reg 5) 0 1 (p.nn * p.scB.stride) else []
  runs (p.imm % 4) (p.reg 0) p.opA.stride p.mm rowA ++ b ++ scales

/-- The issue of MMA. -/
def ruleMma (f : SForm) : Rule :=
  ruleMat 0x140 f [⟨f.a, 1, 1, false, [.s]⟩]

/-- How many registers MMA's block has (R311). -/
def mmaBlock (f : SForm) : Nat := if decide ((pairInfo f.sub.toNat).2.2.2 = 32) then 6 else 4

/-- MMA (R315): the checks of R313 in their order, then a pass. -/
def execMma (f : SForm) (s : State) : Host.Outcome State Fault Refusal :=
  issue s (ruleMma f) fun e =>
    e.posting f (mmaBlock f) fun tile xs =>
      let p := Pass.draft 0x140 tile f xs
      match p.mmaBad with
      | some k => e.fault codeBADSPEC (f.a.code + k) 0
      | none =>
        match e.misaligned 16 p.mmaAligns with
        | some t => .fault t
        | none =>
          match e.mmaDescs p with
          | .error t => .fault t
          | .ok (s, ds) =>
            match e.matScratch p.mmaRuns with
            | some t => .fault t
            | none => e.post s f 0x140 tile ⟨xs, ds⟩

/-- The issue of MZERO. -/
def ruleMzero (f : SForm) : Rule :=
  ruleMat 0x141 f []

/-- MZERO (R316). -/
def execMzero (f : SForm) (s : State) : Host.Outcome State Fault Refusal :=
  issue s (ruleMzero f) fun e =>
    match e.accTile f.d with
    | .error t => .fault t
    | .ok tile => e.post e.s f 0x141 tile ⟨[], []⟩

/-- The issue of `matMove`. -/
def matMoveRule (op : Nat) (f : SForm) : Rule :=
  ruleMat op f [⟨f.a, 1, 1, false, [.s]⟩]

/-- The register of an MLD's or MST's block whose value its entry excludes (R313 step 4). -/
def Pass.moveBad (p : Pass) : Option Nat :=
  if badMN (p.reg 1) || decide (2 ^ 48 ≤ p.reg 1) then some 1 else if badAddr (p.imm % 4) (p.reg 0) then some 0 else none

/-- The descriptor of an MLD's or MST's tensor, checked (R313 step 6). -/
def Env.moveDescs (e : Env) (p : Pass) (write : Bool) : Except TrapInfo (State × List (List Nat)) :=
  if p.imm % 4 = 2 then
    match e.matDesc e.s (p.reg 0) ((Ty.ofCode p.ty).getD .b32) 0 0 0 0 write with
    | .error t => .error t
    | .ok (s, d) => .ok (s, [d])
  else .ok (e.s, [[]])

/-- The scratch runs of an MLD or MST (R313 step 7). -/
def Pass.moveRuns (p : Pass) : List (Nat × Nat) :=
  if p.imm % 4 = 0 then (List.range p.mm).map fun i => (p.reg 0 + i * p.opM.stride, p.nn * p.opM.bits / 8) else []

/-- MLD and MST posted (R316). -/
def matMove (op : Nat) (f : SForm) (s : State) (write : Bool) : Host.Outcome State Fault Refusal :=
  issue s (matMoveRule op f) fun e =>
    e.posting f 2 fun tile xs =>
      let p := Pass.draft op tile f xs
      match p.moveBad with
      | some k => e.fault codeBADSPEC (f.a.code + k) 0
      | none =>
        match e.misaligned 16 (if p.imm % 4 = 2 then [] else [p.reg 0, p.opM.stride]) with
        | some t => .fault t
        | none =>
          match e.moveDescs p write with
          | .error t => .fault t
          | .ok (s, ds) =>
            match e.matScratch p.moveRuns with
            | some t => .fault t
            | none => e.post s f op tile ⟨xs, ds⟩

/-- MLD (R316). -/
def execMld (f : SForm) (s : State) : Host.Outcome State Fault Refusal := matMove 0x143 f s false

/-- MST (R316). -/
def execMst (f : SForm) (s : State) : Host.Outcome State Fault Refusal := matMove 0x142 f s true

/-- The issue of `matRow`. -/
def matRowRule (op : Nat) (f : SForm) : Rule :=
  ruleMat op f [⟨f.a, 1, 1, false, [.s]⟩]

/-- A row pass posted (R317). -/
def matRow (op : Nat) (f : SForm) (s : State) : Host.Outcome State Fault Refusal :=
  issue s (matRowRule op f) fun e =>
    e.posting f 2 fun tile xs =>
      let x (k : Nat) : Nat := (xs.getD k 0).toNat
      if badMN (x 1) || decide (x 1 % 2 ^ 32 ≠ 0) then e.fault codeBADSPEC (f.a.code + 1) 0
      else if badAddr 0 (x 0) then e.fault codeBADSPEC f.a.code 0
      else match e.misaligned 4 [x 0] with
        | some t => .fault t
        | none =>
          match e.matScratch [(x 0, 128)] with
          | some t => .fault t
          | none => e.post e.s f op tile ⟨xs, []⟩

/-- MROWS (R317). -/
def execMrows (f : SForm) (s : State) : Host.Outcome State Fault Refusal := matRow 0x144 f s

/-- MROWMAX (R317). -/
def execMrowmax (f : SForm) (s : State) : Host.Outcome State Fault Refusal := matRow 0x145 f s

/-- MROWSUM (R317). -/
def execMrowsum (f : SForm) (s : State) : Host.Outcome State Fault Refusal := matRow 0x146 f s

/-! ## Barriers of a stream (R318, R319) -/

/-- A sequencer changed. -/
def Comb.modSeq (c : Comb) (q : Nat) (g : Seq → Seq) : Comb :=
  match Sparse.find? c.seqs q with
  | some x => { c with seqs := Sparse.put c.seqs q (g x) }
  | none => c

/-- A stream's seen-phase count of a barrier. -/
def Comb.seen (c : Comb) (q b : Nat) : Nat :=
  match Sparse.find? c.seqs q with
  | some x => x.seen.getD b 0
  | none => 0

/-- A stream's seen-phase count set. -/
def Comb.setSeen (c : Comb) (q b n : Nat) : Comb := c.modSeq q fun x => { x with seen := x.seen.set b n }

/-- A stream goes on once the phase its arrival joined has completed (R318). -/
def Env.mbarWait (e : Env) (s : State) (wait : Bool) (b ph : Nat) : Eff :=
  let q := e.ag.src % 0x40
  let now := (s.comb e.ck).phases e.th.place.team b
  if !wait then e.out s e.th
  else if now ≠ ph then
    -- the thread is stored by the issue, the count with the sequencer
    .ok ⟨s.modComb e.ck fun c => c.setSeen q b now, e.th, [], 0, none, .seq⟩
  else .wait s { e.th with wait := .phase b ph }

/-- The issue of MBAR. -/
def ruleMbar (f : SForm) : Rule :=
  { ruleMat 0x147 f [] with ends := f.sub.getLsbD 1 }

/-- MBAR (R318): with DONE the arrival follows every pass posted before it. -/
def execMbar (f : SForm) (s : State) : Host.Outcome State Fault Refusal :=
  issue s (ruleMbar f) fun e =>
    let b := f.imm.toNat % 16
    let n := f.imm.toNat / 16 % 256
    let wait := f.sub.getLsbD 1
    let q := e.ag.src % 0x40
    let c := e.s.comb e.ck
    match e.th.wait with
    | .phase b ph => e.mbarWait e.s wait b ph
    | .deferred u => e.block (.deferred u)
    | _ =>
      let earlier := (c.passes.filter fun p => p.seq = q).map (·.uid)
      let queued := match Sparse.find? c.seqs q with
        | some x => !x.deferred.isEmpty
        | none => false
      if f.sub.getLsbD 0 && (queued || !earlier.isEmpty) then
        let u := e.s.nextUid
        let s := { e.s with nextUid := u + 1 }.modComb e.ck fun c => c.modSeq q fun x => { x with deferred := x.deferred ++ [(⟨u, q, earlier, e.th.pc, b, n, none⟩ : Deferred)] }
        if wait then .wait s { e.th with wait := .deferred u } else e.out s e.th
      else match c.arrive e.th.place.team b n with
        | .error x => .fault ⟨codeBARCOUNT, e.tmask, b, x⟩
        | .ok (c, ph) => e.mbarWait (e.s.setComb e.ck c) wait b ph

/-- The issue of MWAITB. -/
def ruleMwaitb (f : SForm) : Rule :=
  { ruleMat 0x148 f [] with ends := true }

/-- MWAITB (R319). -/
def execMwaitb (f : SForm) (s : State) : Host.Outcome State Fault Refusal :=
  issue s (ruleMwaitb f) fun e =>
    let b := f.imm.toNat % 16
    let q := e.ag.src % 0x40
    let c := e.s.comb e.ck
    let done := c.phases e.th.place.team b
    if (done + 2 ^ 16 - c.seen q b) % 2 ^ 16 = 0 then e.block .again
    else e.out (e.s.modComb e.ck fun c => c.setSeen q b ((c.seen q b + 1) % 2 ^ 16)) e.th

end Sys2Proof.Machine
end

