-- ==== Sys2Proof/Machine/Frontier.lean ====
section
/-! DEFINITION. Logical time: time formats, path summaries, the counts of a replica and its frontiers (R397 to R402,
R408, R409). A frontier is `none` where it lies above every time.
Model's choices in this file: log entry 41. -/

namespace Sys2Proof.Machine

/-! ## Times and summaries (R397 to R400) -/

/-- `pk`: the widths of the counters deeper than ck. -/
def pOf (widths : List Nat) (k : Nat) : Nat := (widths.drop (k + 1)).foldl (· + ·) 0

/-- The fields of a summary (R399). -/
def summValid (x : Nat) : Bool := x.testBit 7
def summInc (x : Nat) : Nat := x / 8 % 2
def summK (x : Nat) : Nat := x % 8

/-- Whether a summary is reserved (R399). -/
def summBad (x : Nat) : Bool :=
  if summValid x then decide (x / 16 % 8 ≠ 0) || decide (4 < summK x) || (decide (summK x = 4) && decide (summInc x = 1)) else decide (x ≠ 0)

/-- `apply(S, t)` of a valid summary (R400); `none` is ∞. -/
def applyS (widths : List Nat) (x t : Nat) : Option Nat :=
  if summK x = 4 then some t
  else
    let r := (t / 2 ^ pOf widths (summK x) + summInc x) * 2 ^ pOf widths (summK x)
    if 2 ^ 64 ≤ r then none else some r

/-- `apply(S, t)` on a time that may be ∞. -/
def applyO (widths : List Nat) (x : Nat) (t : Option Nat) : Option Nat := t.bind (applyS widths x)

/-- S(M→L) as the unit uses it: the identity from a location to itself (R401). -/
def Flow.summary (f : Flow) (m l : Nat) : Nat := if m = l then 0x84 else Sparse.get 0 f.summ (m * 64 + l)

/-- The smaller of two times, `none` being ∞. -/
def minO (a b : Option Nat) : Option Nat :=
  match a, b with
  | none, x => x
  | x, none => x
  | some x, some y => some (Nat.min x y)

/-- Whether a frontier lies above a time. -/
def aboveO (a : Option Nat) (t : Nat) : Bool :=
  match a with
  | none => true
  | some x => decide (t < x)

/-! ## Frontiers (R409) -/

/-- The times that hold a location back: positive resident counts but the NOTE counts of exactly (L, u), and the
smallest spilled time of each location and side (R408, R409). -/
def Flow.holders (f : Flow) (l : Nat) (u : Option Nat) : List (Nat × Nat) :=
  let out (e : CountEnt) : Bool := e.note && decide (e.loc = l) && decide (some e.time.toNat = u)
  ((f.counts.filter fun e => decide (0 < e.delta) && !out e) ++ f.spilled.filter fun e => !out e).map fun e => (e.loc, e.time.toNat)

/-- F(L, u) (R409). -/
def Flow.frontier (f : Flow) (l : Nat) (u : Option Nat) : Option Nat :=
  (f.holders l u).foldl (fun r h =>
    if summValid (f.summary h.1 l) then minO r (applyS f.widths (f.summary h.1 l) h.2) else r) none

/-- Whether time t is complete at L for a subscription at (L, t): F(L, t) > t. -/
def Flow.complete (f : Flow) (l t : Nat) : Bool := !f.failed && aboveO (f.frontier l (some t)) t

/-! ## Counts of a replica (R407, R408) -/

/-- One entry added to a replica's counts; an entry at 0 frees. -/
def addCount : List CountEnt → CountEnt → List CountEnt
  | [], e => if e.delta = 0 then [] else [e]
  | x :: xs, e =>
    if x.loc = e.loc ∧ x.time = e.time ∧ x.note = e.note then
      if x.delta + e.delta = 0 then xs else { x with delta := x.delta + e.delta } :: xs
    else x :: addCount xs e

/-- A count with what has been spilled of it. -/
def Flow.total (f : Flow) (e : CountEnt) : Int :=
  (f.spilled.filter fun x => decide (x.loc = e.loc) && decide (x.time = e.time) && decide (x.note = e.note)).foldl (fun n x => n + x.delta) e.delta

/-- A batch's entries applied to a flow; a count outside 32 bits fails it (R408, R422). -/
def Flow.addAll (f : Flow) (es : List CountEnt) : Flow :=
  if f.failed then f
  else
    let cs := es.foldl addCount f.counts
    if cs.all fun e => decide (-2147483648 ≤ f.total e) && decide (f.total e ≤ 2147483647) then { f with counts := cs } else { f with failed := true }

/-- A flow of a die replaced. -/
def Die.setFlow (d : Die) (f : Flow) : Die :=
  { d with flows := d.flows.map fun x => if x.ctx = f.ctx ∧ x.num = f.num then f else x }

/-- The entries a die's pending-time table holds. -/
def Die.pending (d : Die) : Nat := (d.flows.map fun f => f.counts.length).foldl (· + ·) 0

/-- The largest time in a pending-time table, with its flow's place and entry. -/
def Die.largest (d : Die) : Option (Nat × CountEnt) :=
  ((List.range d.flows.length).zip d.flows).foldl (fun b p => p.2.counts.foldl (fun b e => match b with
    | some x => if x.2.time < e.time then some (p.1, e) else b
    | none => some (p.1, e)) b) none

/-- While the table holds more than 1,024 entries, one of the largest time spills (R408). -/
def Die.spillCounts (d : Die) : Nat → Die
  | 0 => d
  | n + 1 =>
    if d.pending ≤ 1024 then d
    else match d.largest with
      | none => d
      | some (i, e) =>
        { d with flows := d.flows.modify i fun f => { f with counts := f.counts.filter (fun x => !(decide (x = e))), spilled := f.spilled ++ [e] } }.spillCounts n

/-- The smallest spilled time of a die, with its flow's place and entry. -/
def Die.smallestSpilled (d : Die) : Option (Nat × CountEnt) :=
  ((List.range d.flows.length).zip d.flows).foldl (fun b p => p.2.spilled.foldl (fun b e => match b with
    | some x => if e.time < x.2.time then some (p.1, e) else b
    | none => some (p.1, e)) b) none

/-! ## What an issuer may reach (R404) -/

/-- The flow of a context as an issuer finds it: the replica of its own die, else any live one. -/
def State.findFlow (s : State) (die ctx f : Nat) : Option Flow :=
  match (s.die die).flow ctx f with
  | some x => some x
  | none => (s.liveDies.findSome? fun d => (s.die d).flow ctx f)

/-- Whether `t < summary(f, own station → L)(own time)`: an issuer without a pointstamp in the flow passes; a summary
that names no path does not (R404). -/
def Thread.timeBack (th : Thread) (f : Flow) (l t : Nat) : Bool :=
  match th.place.record with
  | none => false
  | some r =>
    if r.flow = f.num then
      let x := f.summary r.station l
      if summValid x then
        match applyS f.widths x r.time.toNat with
        | some b => decide (t < b)
        | none => true
      else true
    else false

/-- Whether an issuer holds a pointstamp in a flow. -/
def Thread.holds (th : Thread) (f : Nat) : Bool :=
  match th.place.record with
  | some r => decide (r.flow = f)
  | none => false

/-! ## Flow images (R401 to R403) -/

/-- The flow an image of 4,160 bytes describes. -/
def Flow.ofImage (ctx num : Nat) (bs : List Byte) : Flow :=
  let at' (o n : Nat) : Nat := leNat ((bs.drop o).take n)
  { ctx := ctx, num := num, widths := (List.range 4).map fun k => at' k 1, chan := at' 4 8, nloc := at' 12 1, dieset := (List.range 36).filter fun d => (at' 16 8).testBit d, failed := false, summ := ((List.range 4096).zip (bs.drop 64)).foldl (fun m kb => Sparse.set 0 m kb.1 kb.2.toNat) [], counts := [⟨at' 13 1, 0, false, 1⟩], spilled := [] }

/-- Whether an image breaks R399 or R402. -/
def badImage (bs : List Byte) : Bool :=
  let at' (o n : Nat) : Nat := leNat ((bs.drop o).take n)
  let nloc := at' 12 1
  decide ((List.range 4).foldl (fun n k => n + at' k 1) 0 ≠ 64) || decide (nloc = 0) || decide (64 < nloc) || decide (nloc ≤ at' 13 1) ||
  decide (at' 14 2 ≠ 0) || decide (at' 16 8 / 2 ^ 36 ≠ 0) || decide (at' 24 40 ≠ 0) || decide (at' 4 8 / 2 ^ nloc ≠ 0) ||
  ((List.range 4096).zip (bs.drop 64)).any fun kb =>
    summBad kb.2.toNat || (decide (kb.2 ≠ 0) && (decide (nloc ≤ kb.1 / 64) || decide (nloc ≤ kb.1 % 64)))

/-- The first pair (M, L) of a table that breaks the cycle rule (R401). -/
def Flow.badPair (f : Flow) : Option (Nat × Nat) :=
  let bad (p : Nat × Nat) : Bool :=
    let a := f.summary p.1 p.2
    let b := f.summary p.2 p.1
    decide (p.1 ≠ p.2) && summValid a && summValid b &&
    !((decide (summK a < summK b) && decide (summInc a = 1)) || (decide (summK b < summK a) && decide (summInc b = 1)) ||
      (decide (summK a = summK b) && decide (summK a < 4) && decide (1 ≤ summInc a + summInc b)))
  ((List.range f.nloc).flatMap fun m => (List.range f.nloc).map fun l => (m, l)).find? bad

/-! ## The end of a flow (R422) -/

/-- A FLOWFAIL record (R356). -/
def flowFail (ctx f lost : Nat) : EvRec := evRec 9 (some ctx) 0xFF (f + lost * 2 ^ 16) 0 0 true

/-- A flow fails on every replica: its subscriptions are freed, FLOWFAIL goes to each comb that had one armed, and to
logical comb 0 of logical die 0, and the driver gets notice kind 5 (R422, R451). `lost` is the logical die lost, 0x3F for none. -/
def State.failFlow (s : State) (ctx f lost : Nat) : State :=
  if (s.liveDies.any fun d => match (s.die d).flow ctx f with
    | some x => !x.failed
    | none => false) then
    let s := s.liveDies.foldl (fun s d =>
      match (s.die d).flow ctx f with
      | none => s
      | some x =>
        let mine (b : Nat × Sub) : Bool := decide (b.2.ctx = ctx) && decide (b.2.flow = f)
        let cks := (((s.die d).subs.filter mine).map fun b => b.2.ck).eraseDups
        let s := s.modDie d fun y => { y.setFlow { x with failed := true } with subs := y.subs.filter fun b => !mine b }
        cks.foldl (fun s ck => s.sendRecord ck ctx (flowFail ctx f lost)) s) s
    (match s.liveDies.head? with
    | some d => s.sendRecord (s.lkey d 0) ctx (flowFail ctx f lost)
    | none => s).notify 5 ctx f lost
  else s

end Sys2Proof.Machine
end

