-- ==== Sys2Proof/Machine/Tasks.lean ====
section
/-! DEFINITION. Tasks: records and handles, the task table and the ready queue, the messages that carry records, and
SPAWN, SEND, TRET, DEPSET and DEPDEC (R32, R326 to R333, R336 to R340, R367, R389).
Model's choices in this file: log entries 22, 40. -/

namespace Sys2Proof.Machine

/-! ## Records (R326, R327) -/

/-- A record from its 64 bytes. -/
def TaskRec.ofBytes (bs : List Byte) : TaskRec :=
  let w (k : Nat) : Word := BitVec.ofNat 32 (leNat ((bs.drop (4 * k)).take 4))
  ⟨w 1 ++ w 0, w 3 ++ w 2, w 4, w 5, w 6, (List.range 8).map fun k => w (8 + k)⟩

/-- The 64 bytes of a record. -/
def TaskRec.bytes (r : TaskRec) : List Byte :=
  leBytes 8 r.entry.toNat ++ leBytes 8 r.time.toNat ++ leBytes 4 r.target.toNat ++ leBytes 4 r.ctrl.toNat ++ leBytes 4 r.place.toNat ++ leBytes 4 0 ++
    r.args.flatMap fun a => leBytes 4 a.toNat

/-- Whether a record breaks R327 for a context: reserved values and bits, ARGC, REGS, DCOUNT, an undeclared flow, or
an ENTRY that is not canonical. An atomic record needs its feature (R452). -/
def State.recBad (s : State) (die ctx : Nat) (bs : List Byte) : Bool :=
  let r := TaskRec.ofBytes bs
  decide (r.sel = 3) || (decide (r.sel = 0) && decide (r.target ≠ 0)) || decide (leNat ((bs.drop 28).take 4) ≠ 0) ||
  decide (r.place.toNat / 16 % 16 ≠ 0) || decide (r.place.toNat / 2 ^ 14 ≠ 0) ||
  decide (8 < r.argc) || decide (r.ctrl.toNat % 32 = 0) || decide (16 < r.ctrl.toNat % 32) ||
  (!r.waits && decide (r.dcount ≠ 0)) || (r.isAtomic && !s.feature 4) ||
  (s.findFlow die ctx r.flow).isNone || !canonical r.entry.toNat

/-! ## Where a record goes (R326, R327) -/

/-- The tasks a comb's ready queue and task table hold. -/
def Comb.load (c : Comb) : Nat := c.ready.length + (c.table.filter fun t => t.2.task.isSome).length

/-- The logical comb of a die that holds the fewest tasks, the lowest of equal ones. -/
def State.leastLoaded (s : State) (die : Nat) : Nat :=
  let n (l : Nat) : Nat := (s.comb (s.lkey die l)).load
  ((List.range (s.die die).combs).foldl (fun b l => if n l < n b then l else b) 0)

/-- The target of a record: a name of nothing, a stale one, the issuing comb, or another comb under the name the
message carries and the die it lies on. -/
inductive Target where
  | nothing
  | stale
  | here
  | other (name : Nat) (die : Nat)
  deriving DecidableEq, Repr

/-- A comb name as the target of a message. -/
def State.nameTarget (s : State) (ck name : Nat) : Target :=
  match s.nameRes (keyDie ck) name with
  | .nothing => .nothing
  | .stale => .stale
  | .ok die lcomb => if s.lkey die lcomb = ck then .here else .other name die

/-- The target a record names. With SEL = 2 the comb is chosen on the die itself: here for the own die, at the delivery
for another, whose message carries LCOMB 0xFF. -/
def State.recTarget (s : State) (ck : Nat) (r : TaskRec) : Target :=
  match r.sel with
  | 0 => .here
  | 1 => s.nameTarget ck r.target.toNat
  | _ =>
    let d := s.die (keyDie ck)
    let name := r.target.toNat
    match d.lmap[name % 64]? with
    | none => .nothing
    | some phys =>
      if name / 2 ^ 10 ≠ 0 then .nothing
      else if name / 64 % 16 ≠ d.gen.toNat then .stale
      else if phys = keyDie ck then s.nameTarget ck (name * 256 + s.leastLoaded phys)
      else .other (name * 256 + 0xFF) phys

/-- The scope of the release of a message to a target (R273). -/
def Target.scope (t : Target) (ck : Nat) : Nat :=
  match t with
  | .other _ die => if die = keyDie ck then 2 else 3
  | _ => 2

/-! ## The task table and the ready queue (R328 to R330) -/

/-- A free slot with SEQ 0. -/
def TaskSlot.reset : TaskSlot := ⟨0, 0, none, 0, 0, false, 0⟩

/-- The slot of a comb's task table. -/
def Comb.slot (c : Comb) (k : Nat) : TaskSlot := Sparse.get TaskSlot.reset c.table k

/-- The first of some slots from one on that has never been used: a slot that a CTXLOAD took by its number is held, or stands
among the freed ones. -/
def Comb.freshFrom (c : Comb) : Nat → Nat → Option Nat
  | 0, _ => none
  | n + 1, k => if (c.slot k).task.isNone && !c.freed.any (fun x => x.1 = k) then some k else c.freshFrom n (k + 1)

/-- The next slot to be taken, and the table's order of reuse after it (R329). -/
def Comb.takeSlot (c : Comb) : Option (Nat × Comb) :=
  match c.freshFrom (1024 - c.freshSlot) c.freshSlot with
  | some k => some (k, { c with freshSlot := k + 1 })
  | none => match c.freed with
    | [] => none
    | k :: rest => some (k.1, { c with freed := rest, freshSlot := 1024 })

/-- A slot freed at a clk put into the order of reuse: those of one clk by slot number (R329). -/
def insertFreed (k clk : Nat) : List (Nat × Nat) → List (Nat × Nat)
  | [] => [(k, clk)]
  | x :: xs => if x.2 = clk ∧ k < x.1 then (k, clk) :: x :: xs else x :: insertFreed k clk xs

/-- A slot freed: its SEQ advances, and it joins the order of reuse (R328, R329). -/
def Comb.freeTableSlot (c : Comb) (k : Nat) : Comb :=
  { c with table := Sparse.set TaskSlot.reset c.table k { TaskSlot.reset with seq := ((c.slot k).seq + 1) % 16 }, freed := insertFreed k c.clk c.freed }

/-- The tie ranks of R330: tasks leaving a slot, then tasks spawned here in issue order, then arrivals by sending die in the
order of their arrival. -/
def rankSlot (k : Nat) : Nat := k
def rankLocal (uid : Nat) : Nat := 2 ^ 100 + uid
def rankMesh (die uid : Nat) : Nat := 2 ^ 101 + die * 2 ^ 80 + uid

/-- A handle (R328). -/
def State.handle (s : State) (ck slot seq : Nat) : Nat := seq * 2 ^ 28 + s.combName ck * 2 ^ 10 + slot

/-- The handle of a task that holds no slot. -/
def noHandle : Nat := 0xFFFFFFFF

/-- A task put into the ready queue. -/
def Comb.enqueue (c : Comb) (uid ctx rank : Nat) (r : TaskRec) : Comb :=
  { c with ready := c.ready ++ [⟨uid, r, ctx, c.clk, rank⟩] }

/-- A task in a slot goes to the ready queue when that has room, else it waits there for room (R32, R329, R330). -/
def Comb.releaseSlot (c : Comb) (k : Nat) : Comb :=
  let t := c.slot k
  match t.task with
  | none => c
  | some r =>
    if c.ready.length < 256 then (c.enqueue t.uid t.ctx (rankSlot k) r).freeTableSlot k
    else { c with table := Sparse.set TaskSlot.reset c.table k { t with roomOnly := true, counter := 0 } }

/-- Slots whose tasks wait only for room enter the ready queue in slot order as far as it has room (R32). -/
def Comb.admitRoom (c : Comb) : Comb :=
  c.table.foldl (fun (c : Comb) t => if t.2.roomOnly && t.2.task.isSome && decide (c.ready.length < 256) then c.releaseSlot t.1 else c) c

/-- The journal's entries of the tasks in a comb's ready queue carry their clk of entry there (R342). -/
def State.stampJournal (s : State) (ck : Nat) : State :=
  if s.journal.isEmpty then s
  else { s with journal := s.journal.map fun j => match (s.comb ck).ready.find? fun e => e.uid = j.uid with
    | some e => { j with entered := e.entered }
    | none => j }

/-- The tasks of a comb that wait only for room enter its ready queue as far as it has room (R32). -/
def State.admitRoom (s : State) (ck : Nat) : State := (s.modComb ck Comb.admitRoom).stampJournal ck

/-- The die that holds the journal of an atomic task of a die: the next live logical one (R342). -/
def State.journalDie (s : State) (die : Nat) : Nat :=
  let d := s.die die
  d.lmap.getD ((d.ldie die + 1) % d.lmap.length) die

/-- A task created on a comb (R32, R337): WAITING in a slot, READY in the queue, or in a slot waiting for room; the
machine and the task's handle, or nothing when neither has room. The record of an atomic task is mirrored (R342). -/
def State.create (s : State) (ck ctx : Nat) (r : TaskRec) (rank : Nat) : Option (State × Nat) :=
  let c := s.comb ck
  let u := s.nextUid
  let waits := r.waits && decide (0 < r.dcount)
  let put (c : Comb) : State :=
    let s := { s.setComb ck c with nextUid := u + 1 }
    if r.isAtomic then
      { s with journal := s.journal ++ [⟨u, r, ctx, keyDie ck, (s.die (keyDie ck)).lcomb (keyComb ck), c.clk, s.journalDie (keyDie ck)⟩] }
    else s
  if !waits && decide (c.ready.length < 256) then some (put (c.enqueue u ctx rank r), noHandle)
  else match c.takeSlot with
    | none => none
    | some (k, c) =>
      let t : TaskSlot := ⟨u, (c.slot k).seq, some r, ctx, if waits then r.dcount else 0, !waits, c.clk⟩
      some (put { c with table := Sparse.set TaskSlot.reset c.table k t }, s.handle ck k t.seq)

/-! ## Messages -/

/-- A message put into its sender's outbound buffer, or at the comb itself when it goes nowhere else. -/
def State.send (s : State) (op ck ctx : Nat) (sender : Option Nat) (t : Target) (body : MsgBody) : State :=
  let m : Msg := match t with
    | .other name _ => ⟨s.nextUid, op, ctx, keyDie ck, keyComb ck, sender, BitVec.ofNat 32 name, true, .outbound, body⟩
    | _ => ⟨s.nextUid, op, ctx, keyDie ck, keyComb ck, sender, 0, false, .arrived (keyDie ck) (keyComb ck), body⟩
  { s with nextUid := s.nextUid + 1, msgs := s.msgs ++ [m] }

/-! ## SPAWN, SEND and TRET (R336 to R338, R367) -/

/-- The record at a scratch address of the issuer, checked by R283, R327 and R18, with its target. -/
def Env.taskRec (e : Env) (a : Spec) (k : TaskRec → Target → Eff) : Eff :=
  let x := (e.read32 a 0).toNat
  match e.scratchFault 64 64 [(0, x)] with
  | some f => .fault f
  | none =>
    let bs := (List.range 64).map fun i => e.s.rawByte (scratchLoc e.ck (x + i))
    if e.s.recBad (keyDie e.ck) ((e.s.agentCtx e.ag).getD 0) bs then e.fault codeBADSPEC a.code 0
    else
      let r := TaskRec.ofBytes bs
      match e.s.recTarget e.ck r with
      | .nothing => e.fault codeBADSPEC a.code 0
      | .stale => e.fault codeSTALEGEN a.code 0
      | t => k r t

/-- The TIMEBACK check of a count at a location of the record's flow. -/
def Env.timeCheck (e : Env) (r : TaskRec) (l : Nat) (k : Unit → Eff) : Eff :=
  match e.s.findFlow (keyDie e.ck) ((e.s.agentCtx e.ag).getD 0) r.flow with
  | some f =>
    if e.th.timeBack f l r.time.toNat then e.fault codeTIMEBACK (r.time.toNat % 2 ^ 32) (r.time.toNat / 2 ^ 32) else k ()
  | none => k ()

/-- The bytes of a record as one number, as a buffered action keeps them. -/
def TaskRec.num (r : TaskRec) : Nat := leNat r.bytes

/-- The issue of SPAWN. -/
def ruleSpawn (f : SForm) : Rule :=
  { ruleS 0x180 f [useSD f.d, useS f.a] with mem := true }

/-- SPAWN (R336, R337). -/
def execSpawn (f : SForm) (s : State) : Host.Outcome State Fault Refusal :=
  issue s (ruleSpawn f) fun e =>
    let ctx := (e.s.agentCtx e.ag).getD 0
    e.taskRec f.a fun r t => e.timeCheck r r.station fun _ =>
      if e.th.place.atomic then
        -- The handle does not exist before the commit: a free value (log entry 22).
        e.buffer e.s [⟨0x180, 80, e.th.pc, [], [r.num]⟩] fun s th =>
          .ok ⟨s, th, e.write32 f.d false [(0, Config.freeWord (e.s.freeN * 2 ^ 16))], 0, none, .seq⟩
      else e.afterRelease (t.scope e.ck) fun _ =>
        match t with
        | .other _ _ =>
          if 63 ≤ (e.s.comb e.ck).outstanding e.th.uid 3 then e.stall
          else
            let c := e.s.count e.ck ctx e.th r.flow r.station r.time false 1
            let u := c.1.nextUid
            let keep := f.d != .sink
            let p := e.async c.1 c.2 3 3 none (.message (if keep then some f.d.code else none) (if keep then some u else none)) (if keep then [(f.d.code, [0])] else [])
            e.out (p.1.send 0x180 e.ck ctx (some e.th.uid) t (.task r none (some u))) p.2
        | _ =>
          match e.s.create e.ck ctx r (rankLocal e.s.nextUid) with
          | none => e.block .again
          | some (s, h) =>
            let c := s.count e.ck ctx e.th r.flow r.station r.time false 1
            .ok ⟨c.1, c.2, e.write32 f.d false [(0, BitVec.ofNat 32 h)], 0, none, .seq⟩

/-- The issue of SEND. -/
def ruleSend (f : SForm) : Rule :=
  { ruleS 0x190 f [useS f.a, useS f.b] with mem := true }

/-- SEND (R367): the record travels to its target, counted at the channel; to the issuing comb it arrives at once. -/
def execSend (f : SForm) (s : State) : Host.Outcome State Fault Refusal :=
  issue s (ruleSend f) fun e =>
    let ctx := (e.s.agentCtx e.ag).getD 0
    e.taskRec f.a fun r t =>
      let ch := (e.read32 f.b 0).toNat % 64
      let chan := match e.s.findFlow (keyDie e.ck) ctx r.flow with
        | some fl => fl.chan.testBit ch
        | none => false
      if !chan then e.fault codeBADSPEC f.b.code 0
      else e.timeCheck r ch fun _ =>
        if e.th.place.atomic then
          e.buffer e.s [⟨0x190, 16 + 64, e.th.pc, [ch], [r.num]⟩] fun s th => e.out s th
        else e.afterRelease (t.scope e.ck) fun _ =>
          let body : MsgBody := .task r (some ch) none
          match t with
          | .other _ _ =>
            if 63 ≤ (e.s.comb e.ck).outstanding e.th.uid 3 then e.stall
            else
              let c := e.s.count e.ck ctx e.th r.flow ch r.time false 1
              let p := e.async c.1 c.2 3 3 none (.message none none) []
              e.out (p.1.send 0x190 e.ck ctx (some e.th.uid) t body) p.2
          | _ =>
            let c := e.s.count e.ck ctx e.th r.flow ch r.time false 1
            e.out (c.1.send 0x190 e.ck ctx (some e.th.uid) t body) c.2

/-- The issue of TRET. -/
def ruleTret (f : SForm) : Rule :=
  { ruleS 0x181 f [] with ends := true }

/-- TRET (R338); in a team group it acts as EXIT. -/
def execTret (f : SForm) (s : State) : Host.Outcome State Fault Refusal :=
  issue s (ruleTret f) fun e => e.endGroup e.s e.th

/-! ## Dependency counters (R389) -/

/-- What a DEPSET or DEPDEC meets at its slot. -/
inductive DepRes where
  | done (s : State)
  | under
  | bad
  deriving DecidableEq, Repr

/-- DEPSET or DEPDEC at the slot of a handle on the comb it names. -/
def State.dep (s : State) (ck : Nat) (set : Bool) (handle : Word) (v : Nat) : DepRes :=
  let c := s.comb ck
  let k := handle.toNat % 1024
  let t := c.slot k
  if t.task.isNone then (if set then .bad else .under)
  else if handle.toNat / 2 ^ 28 ≠ t.seq then .bad
  else if t.roomOnly then .bad
  else if !set && decide (t.counter < v) then .under
  else
    let n := if set then v % 2 ^ 16 else t.counter - v
    let c := { c with table := Sparse.set TaskSlot.reset c.table k { t with counter := n } }
    .done (if n = 0 then (s.setComb ck (c.releaseSlot k)).stampJournal ck else s.setComb ck c)

/-- The comb name a handle carries. -/
def handleName (h : Word) : Nat := h.toNat / 2 ^ 10 % 2 ^ 18

/-- DEPSET or DEPDEC with its value (R389): checked at issue, applied at the slot, and answered before the group goes
on. An atomic task buffers it (R390). -/
def Env.dep (e : Env) (op : Nat) (a : Spec) (set : Bool) (v : Nat) : Eff :=
  let h := e.read32 a 0
  let under : Eff := e.fault codeDEPUNDER (handleName h) (h.toNat % 1024)
  match e.th.wait with
  | .answered _ => e.done []
  | .refusedAnswer c x y => if c = codeBADSPEC then e.fault c a.code 0 else e.fault c x y
  | .answer u => e.block (.answer u)
  | _ =>
    match e.s.nameTarget e.ck (handleName h) with
    | .nothing => e.fault codeBADSPEC a.code 0
    | .stale => e.fault codeSTALEGEN a.code 0
    | t =>
      if e.th.place.atomic then
        e.buffer e.s [⟨op, 16, e.th.pc, [h.toNat, v], []⟩] fun s th => e.out s th
      else e.afterRelease (t.scope e.ck) fun _ =>
        match t with
        | .other _ _ =>
          if 63 ≤ (e.s.comb e.ck).outstanding e.th.uid 3 then e.stall
          else
            let u := e.s.nextUid
            let p := e.async e.s e.th 3 3 none (.message none (some u)) []
            .wait (p.1.send op e.ck ((e.s.agentCtx e.ag).getD 0) (some e.th.uid) t (.dep set h v (some u) none)) { p.2 with wait := .answer u }
        | _ =>
          match e.s.dep e.ck set h v with
          | .done s => e.out s e.th
          | .under => under
          | .bad => e.fault codeBADSPEC a.code 0

/-- The issue of DEPSET. -/
def ruleDepset (f : SForm) : Rule :=
  { ruleC 0x1C8 f (useSOrSink f.a :: useSUnless (f.sub.getLsbD 0) f.b) with ends := true }

/-- DEPSET (R389). -/
def execDepset (f : SForm) (s : State) : Host.Outcome State Fault Refusal :=
  issue s (ruleDepset f) fun e =>
    e.dep 0x1C8 f.a true (if f.sub.getLsbD 0 then f.imm.toNat % 2 ^ 16 else (e.read32 f.b 0).toNat % 2 ^ 16)

/-- The issue of DEPDEC. -/
def ruleDepdec (f : SForm) : Rule :=
  { ruleC 0x1C9 f [useSOrSink f.a] with ends := true }

/-- DEPDEC (R389). -/
def execDepdec (f : SForm) (s : State) : Host.Outcome State Fault Refusal :=
  issue s (ruleDepdec f) fun e => e.dep 0x1C9 f.a false (f.imm.toNat % 256)

end Sys2Proof.Machine
end

