-- ==== Sys2Proof/Machine/Queues.lean ====
section
/-! DEFINITION. FIFO banks and the event queue: WQPUSH, REFILL, FPUSH, FPOP, EVPOP and PRIMEMIT (R343, R344, R354 to
R365, R369, R370).
Model's choices in this file: log entries 26, 40. -/

namespace Sys2Proof.Machine

/-! ## FIFO banks (R360 to R363) -/

/-- How many entries a bank holds resident (R360). -/
def Bank.capacity (b : Bank) : Nat := if b.ord then 2048 else 8192

/-- Entries appended in arrival order; those that find the bank full, or entries spilled before them, spill (R362). -/
def Bank.push (b : Bank) (es : List FifoEnt) : Bank :=
  es.foldl (fun b e =>
    if b.spilled.isEmpty && decide (b.ents.length < b.capacity) then { b with ents := b.ents ++ [e] } else { b with spilled := b.spilled ++ [e] }) b

/-- Why a push or a pop finds no bank of its kind (R363): the TVAL2 of its BANKMODE. -/
def Bank.refuse (b : Bank) (ord : Bool) (ctx : Nat) : Option Nat :=
  if b.mode = .fifo ∧ b.ord = ord ∧ b.owner = ctx then none else some b.mode.code

/-- A bank of a comb replaced. -/
def Comb.setBank (c : Comb) (k : Nat) (b : Bank) : Comb := { c with banks := c.banks.set k b }

/-- Entries pushed into a bank of a comb; when the firmware cannot extend the spill area they need, the context ends
(R333, R362). -/
def State.pushBank (s : State) (ck ctx k : Nat) (b : Bank) (es : List FifoEnt) : State :=
  let b' := b.push es
  let s := s.modComb ck fun c => c.setBank k b'
  if b'.spilled.length ≤ s.spillCap ctx ∨ b'.spilled.length ≤ b.spilled.length then s else s.endContext ctx 3 0 0

/-- Whether an entry of an ordered bank is released (R361). -/
def Bank.released (b : Bank) (e : FifoEnt) : Bool := b.releaseAll || decide (e.time < b.bound)

/-- The entry with the smallest key of a list, the first of equal keys. -/
def minEnt : List FifoEnt → Option FifoEnt
  | [] => none
  | x :: xs => match minEnt xs with
    | none => some x
    | some y => if y.time < x.time ∨ (y.time = x.time ∧ y.ordinal < x.ordinal) then some y else some x

/-- A bank without its first entry equal to one: from the resident ones, else from the spilled ones. -/
def Bank.remove (b : Bank) (e : FifoEnt) : Bank :=
  if b.ents.contains e then { b with ents := b.ents.erase e } else { b with spilled := b.spilled.erase e }

/-- Up to `n` released entries of time `t` in key order, and the bank without them (R365). -/
def Bank.popTime (t : DWord) : Nat → Bank → List FifoEnt × Bank
  | 0, b => ([], b)
  | n + 1, b =>
    match minEnt ((b.ents ++ b.spilled).filter fun e => b.released e && decide (e.time = t)) with
    | none => ([], b)
    | some e =>
      let r := Bank.popTime t n (b.remove e)
      (e :: r.1, r.2)

/-- The oldest entries of a plain bank, and the bank without them. -/
def Bank.popPlain (b : Bank) (n : Nat) : List FifoEnt × Bank :=
  ((b.ents ++ b.spilled).take n, { b with ents := b.ents.drop n, spilled := b.spilled.drop (n - b.ents.length) })

/-- One spilled entry brought back while there is room: the oldest of a plain bank, the smallest key of an ordered one
(R362). -/
def Bank.reload (b : Bank) : Bank :=
  if b.ents.length < b.capacity then
    if b.ord then match minEnt b.spilled with
      | some e => { b with ents := b.ents ++ [e], spilled := b.spilled.erase e }
      | none => b
    else { b with ents := b.ents ++ b.spilled.take 1, spilled := b.spilled.drop 1 }
  else b

/-! ## FPUSH and WQPUSH (R343, R364) -/

/-- The use of a comb-name operand: an s register, or `comb`. -/
def useName (x : Spec) : List Use := if x = .special .comb then [] else [useS x]

/-- The entries of a push, lane by lane. -/
def Env.pushEnts (e : Env) (c : Spec) (ord : Bool) : List FifoEnt :=
  e.lanes.map fun i =>
    let ws := (List.range (if ord then 16 else 4)).map fun k => e.reg (c.code + k) i
    ⟨ws, if ord then e.th.time else 0, if ord then (ws.getD 13 0).toNat % 2 ^ 16 else 0⟩

/-- A push of one entry a lane: buffered in an atomic task, performed at once on the issuing comb, otherwise one
message. -/
def Env.push (e : Env) (op : Nat) (f : SForm) (ord : Bool) : Eff :=
  let ctx := (e.s.agentCtx e.ag).getD 0
  let bank := (e.read32 f.b 0).toNat % 16
  let ents := e.pushEnts f.c ord
  let name := (e.read32 f.a 0).toNat
  match e.s.nameTarget e.ck name with
  | .nothing => e.fault codeBADSPEC f.a.code 0
  | .stale => e.fault codeSTALEGEN f.a.code 0
  | t =>
    let b := (e.s.comb e.ck).bank bank
    match (if t = .here then b.refuse ord ctx else none) with
    | some m => e.fault codeBANKMODE bank m
    | none =>
      if e.th.place.atomic then
        -- the entries of one push are told from those of another by what the buffer held before it (R364)
        e.buffer e.s (ents.map fun x => ⟨op, if ord then 80 else 32, e.th.pc, [name, bank, bit ord, x.ordinal, e.th.commit.length], x.words.map (·.toNat)⟩) fun s th => e.out s th
      else match t with
        | .other _ _ =>
          if 63 ≤ (e.s.comb e.ck).outstanding e.th.uid 3 then e.stall
          else
            let p := e.async e.s e.th 3 3 none (.message none none) []
            e.out (p.1.send op e.ck ctx (some e.th.uid) t (.push ord bank ents)) p.2
        | _ => e.out (e.s.pushBank e.ck ctx bank b ents) e.th

/-- The issue of WQPUSH. -/
def ruleWqpush (f : SForm) : Rule :=
  Rule.basic 0x183 f.h true (useName f.a ++ [useS f.b, useV f.c 4 1 false])

/-- WQPUSH (R343). -/
def execWqpush (f : SForm) (s : State) : Host.Outcome State Fault Refusal :=
  issue s (ruleWqpush f) fun e => e.push 0x183 f false

/-- The issue of FPUSH. -/
def ruleFpush (f : SForm) : Rule :=
  let ord := f.sub.getLsbD 0
  { Rule.basic 0x191 f.h true (useName f.a ++ [useS f.b, useV f.c (if ord then 16 else 4) 1 false]) with team := !ord }

/-- FPUSH (R364); the ordered form is for tasks. -/
def execFpush (f : SForm) (s : State) : Host.Outcome State Fault Refusal :=
  let ord := f.sub.getLsbD 0
  issue s (ruleFpush f) fun e => e.push 0x191 f ord

/-! ## REFILL and FPOP (R344, R365) -/

/-- The words of entries laid into the first lanes of a list, registers D upward. -/
def entWrites (d n : Nat) (lanes : List Nat) (es : List FifoEnt) : List RegWrite :=
  (List.range n).map fun k => ⟨d + k, (lanes.zip es).map fun x => (x.1, x.2.words.getD k 0)⟩

/-- The issue of REFILL. -/
def ruleRefill (f : SForm) : Rule :=
  { Rule.basic 0x182 f.h true [useV f.d 4 1 true, useS f.a, useSD f.e] with atomic := false, ends := true, vacant := true }

/-- REFILL (R344): vacant lanes take entries of a plain bank. -/
def execRefill (f : SForm) (s : State) : Host.Outcome State Fault Refusal :=
  issue s (ruleRefill f) fun e =>
    let bank := (e.read32 f.a 0).toNat % 16
    let b := (e.s.comb e.ck).bank bank
    match b.refuse false ((e.s.agentCtx e.ag).getD 0) with
    | some m => e.fault codeBANKMODE bank m
    | none =>
      let held := b.ents.length + b.spilled.length
      if 0 < (e.s.comb e.ck).outstanding e.th.uid 0 then e.block .again
      else if f.sub.getLsbD 0 && decide (held = 0) then e.block .again
      else
        let r := b.popPlain e.lanes.length
        let filled := e.lanes.take r.1.length
        let m := laneMask filled
        let ws := (if filled.isEmpty then [] else entWrites f.d.code 4 filled r.1) ++ e.write32 f.e false [(0, BitVec.ofNat 32 filled.length)]
        .ok ⟨e.s.modComb e.ck fun c => c.setBank bank r.2, { e.th with lm := e.th.lm ||| m, em := e.th.em ||| m }, ws, 0, none, .seq⟩

/-- The time of the smallest released key of an ordered bank. -/
def Bank.popAt (b : Bank) : Option DWord := (minEnt ((b.ents ++ b.spilled).filter b.released)).map (·.time)

/-- The issue of FPOP. -/
def ruleFpop (f : SForm) : Rule :=
  { Rule.basic 0x192 f.h true [useV f.d 4 1 true, useS f.a, ⟨f.e, 4, 4, true, [.s]⟩] with atomic := false, cls := some 0 }

/-- FPOP (R365): entries of one time into the lowest lanes of `act`; one that a crest released is an acquire (R273). BANKMODE is tested
before the REGRANGE of D + 15, which depends on the bank, and a guarded-off FPOP takes none for it (DESIGN CHOICE, log entry 26). -/
def execFpop (f : SForm) (s : State) : Host.Outcome State Fault Refusal :=
  issue s (ruleFpop f) fun e =>
    let bank := (e.read32 f.a 0).toNat % 16
    let b := (e.s.comb e.ck).bank bank
    match b.refuse b.ord ((e.s.agentCtx e.ag).getD 0) with
    | some m => e.fault codeBANKMODE bank m
    | none =>
      let n := if b.ord then 16 else 4
      let wide : List Use := [useV f.d n 1 true]
      if wide.any fun u => u.range e.th.budget then e.fault codeREGRANGE f.d.code 0
      else if e.th.mode.getLsbD 4 && (hazard e.rv (e.t + 4) wide).isSome then e.fault codeSTALLSHORT f.d.code 0
      else
        let r : List FifoEnt × Bank := if b.ord then (match b.popAt with
            | some t => b.popTime t e.lanes.length
            | none => ([], b)) else b.popPlain e.lanes.length
        let lanes := e.lanes.take r.1.length
        let rest := r.2.ents ++ r.2.spilled
        let held := rest.any fun x => !b.released x
        let more := rest.any b.released
        let t : DWord := if r.1.isEmpty then 0 else b.popAt.getD 0
        let tail : List Word := BitVec.ofNat 32 r.1.length ::
          (if b.ord then [BitVec.ofNat 32 (bit held + 2 * bit more), t.setWidth 32, hiWord t] else [])
        let ws := (if lanes.isEmpty then [] else entWrites f.d.code n lanes r.1) ++
          (((List.range tail.length).zip tail).map fun (x : Nat × Word) => (⟨f.e.code + x.1, [(0, x.2)]⟩ : RegWrite))
        let s := e.s.modComb e.ck fun c => c.setBank bank r.2
        -- an entry that a bound advance released carries the crest's acquire (R273)
        let s := if b.ord && !r.1.isEmpty then s.dropL1 e.ck else s
        -- the data land as those of a scratch load: after the core's port, which a vector access holds for 2 clk (R286)
        let q := e.takePort s 2
        let p := e.async q.1 e.th 0 0 none (.values ws) (ws.map fun w => (w.code, w.lanes.map (·.1))) (q.2 + 12)
        e.out p.1 p.2

/-! ## EVPOP (R358, R359) -/

/-- The issue of EVPOP. -/
def ruleEvpop (f : SForm) : Rule :=
  { Rule.basic 0x193 f.h false [⟨f.d, 4, 4, true, [.s]⟩] with core := false, steward := true, ends := f.sub.getLsbD 0 }

/-- EVPOP: the oldest record; those that close an acquire drop the L1 (R359). -/
def execEvpop (f : SForm) (s : State) : Host.Outcome State Fault Refusal :=
  issue s (ruleEvpop f) fun e =>
    let quad (r : List Word) : List RegWrite := ((List.range 4).zip r).map fun (x : Nat × Word) => (⟨f.d.code + x.1, [(0, x.2)]⟩ : RegWrite)
    match (e.s.comb e.ck).evq with
    | [] => if f.sub.getLsbD 0 then e.block .again else e.done (quad [0, 0, 0, 0])
    | r :: rest =>
      let s := e.s.modComb e.ck fun c => ({ c with evq := rest } : Comb).refillEvq
      let s := match r.acq with
        | some sc => if 2 ≤ sc then s.dropL1 e.ck else s
        | none => s
      .ok ⟨s, e.th, quad [r.w0, r.w1, r.w2, r.w3], 0, none, .seq⟩

/-! ## PRIMEMIT (R369, R370) -/

/-- The issue of PRIMEMIT. -/
def rulePrimemit (f : SForm) : Rule :=
  let src (x : Spec) : Use := ⟨x, 1, 1, false, [.v, .s]⟩
  { Rule.basic 0x194 f.h true [useV f.a 12 1 false, src f.b, src f.c] with team := false }

/-- PRIMEMIT: one primitive a lane handed to the die's bin router, in lane order. -/
def execPrimemit (f : SForm) (s : State) : Host.Outcome State Fault Refusal :=
  issue s (rulePrimemit f) fun e =>
    let ctx := (e.s.agentCtx e.ag).getD 0
    let rset := match Sparse.find? e.s.ctxs ctx with
      | some c => c.rset
      | none => 7
    let n := e.lanes.length
    if rset = 7 then e.fault codeILLOP 0 0
    else if 65536 < e.th.ordinal + n then e.fault codeILLOP 0 0
    else
      let th := { e.th with ordinal := e.th.ordinal + n }
      let prims : List Prim := ((List.range n).zip e.lanes).map fun (x : Nat × Nat) =>
        ⟨ctx, rset, e.ck, e.th.uid, e.s.nextUid, (List.range 12).map fun k => e.reg (f.a.code + k) x.2, e.read32 f.b x.2, (e.read32 f.c x.2).toNat % 64, e.th.time, e.th.ordinal + x.1⟩
      if e.th.place.atomic then
        e.buffer e.s (prims.map fun p => ⟨0x194, 80, e.th.pc, [p.ordinal, p.set], (p.verts ++ [p.attr]).map (·.toNat)⟩)
          fun s th' => e.out s { th' with ordinal := th.ordinal }
      else if 63 ≤ (e.s.comb e.ck).outstanding e.th.uid 3 then e.stall
      else
        let p := e.async e.s th 3 3 none (.emit n) []
        e.out (p.1.modDie (keyDie e.ck) fun d => { d with router := d.router ++ prims }) p.2

end Sys2Proof.Machine
end

