-- ==== Sys2Proof/Machine/Messages.lean ====
section
/-! DEFINITION. Messages on their way: the first router, the delivery at a die, the arrival at a comb of each kind, and
what is parked (R20 to R22, R214 to R216, R333, R348, R357, R361 to R363, R368, R372 to R376, R389).
Model's choices in this file: log entries 27, 40. -/

namespace Sys2Proof.Machine

/-! ## Answers to senders -/

/-- The key of a message's sending comb. -/
def Msg.src (m : Msg) : Nat := combKey m.srcDie m.srcComb

/-- An operation of a comb gets its answer: the registers it writes (R337). -/
def State.finishOp (s : State) (ck u : Nat) (val : Option Word) : State :=
  s.modComb ck fun c => { c with ops := c.ops.map fun o =>
    if o.uid = u then
      { o with kind := match o.kind with
        | .message (some d) _ => .values (match val with
          | some x => [⟨d, [(0, x)]⟩]
          | none => [])
        | .message none _ => .values []
        | k => k }
    else o }

/-- A thread of a comb that waits for an answer gets it. -/
def State.answerUid (s : State) (ck uid u : Nat) (w : Wait) : State :=
  s.modComb ck fun c => { c with groups := c.groups.map fun g =>
    if g.2.uid = uid ∧ g.2.wait = .answer u then (g.1, { g.2 with wait := w }) else g }

/-- A count in the open batch of a sender on its comb; a sender that has gone counts in a batch of its comb (R21). -/
def State.countFor (s : State) (ck uid ctx f loc : Nat) (t : DWord) (d : Int) : State :=
  match s.withTask ck uid fun th => s.count ck ctx th f loc t false d with
  | some s => s
  | none => (s.sendBatch (keyDie ck) (keyComb ck) ctx f 0 [⟨loc, t, false, d⟩]).1

/-- The operation of a message completes as R21 says: a SEND's and a SPAWN's count is cancelled, a handle reads
0xFFFFFFFF, a DEPSET or DEPDEC has no effect. -/
def State.completeDiscarded (s : State) (m : Msg) : State :=
  let ck := m.src
  match m.body with
  | .task r (some ch) _ => s.countFor ck (m.sender.getD 0) m.ctx r.flow ch r.time (-1)
  | .task r none a =>
    let s := match a with
      | some u => s.finishOp ck u (some 0xFFFFFFFF)
      | none => s
    s.countFor ck (m.sender.getD 0) m.ctx r.flow r.station r.time (-1)
  | .dep _ _ _ (some u) _ => (s.finishOp ck u none).answerUid ck (m.sender.getD 0) u (.answered 0)
  | _ => s

/-- A message discarded for its generation: STALE to the sender's comb, and its operation completes (R20, R21, R216). -/
def State.discardStale (s : State) (m : Msg) : State :=
  (s.sendRecord m.src m.ctx (evRec 7 (some m.ctx) 0xFF m.op m.name.toNat (s.die m.srcDie).gen.toNat true)).completeDiscarded m

/-- A message to a die that is dead: discarded without a record; the flow of a counted one fails, with the logical die that
was lost (R356, R375, R422). -/
def State.discardDead (s : State) (m : Msg) (lost : Nat) : State :=
  match m.body with
  | .task r _ (some u) => (s.finishOp m.src u (some 0xFFFFFFFF)).failFlow m.ctx r.flow lost
  | .task r _ none => s.failFlow m.ctx r.flow lost
  | .dep _ _ _ (some u) _ => (s.finishOp m.src u none).answerUid m.src (m.sender.getD 0) u (.answered 0)
  | _ => s

/-! ## Routers (R20, R215, R216) -/

/-- A message without the one at a place of the list. -/
def State.dropMsg (s : State) (i : Nat) : State := { s with msgs := s.msgs.eraseIdx i }

/-- A message of the list replaced. -/
def State.setMsg (s : State) (i : Nat) (m : Msg) : State := { s with msgs := s.msgs.set i m }

/-- Whether a message travels in class 1: an event record, or a crest's action, which a frontier unit sends (R214, R357,
R414). -/
def Msg.class1 (m : Msg) : Bool :=
  decide (m.srcComb = 0xFF) || match m.body with
    | .record _ => true
    | .advance _ _ => true
    | _ => false

/-- Whether a message is a packet of the bin router. -/
def MsgBody.isPacket : MsgBody → Bool
  | .packet _ _ => true
  | _ => false

/-- Whether two messages keep their order: those of one sender (R374), and the packets of one die to one comb (R372). -/
def Msg.ordered (x m : Msg) : Bool :=
  decide (x.src = m.src) ||
  (x.body.isPacket && m.body.isPacket && decide (x.srcDie = m.srcDie) && decide (x.name.toNat % 256 = m.name.toNat % 256))

/-- Whether an earlier message of the same class that it follows is still at a message's stage (R372, R374). -/
def State.behind (s : State) (i : Nat) (m : Msg) : Bool :=
  (s.msgs.take i).any fun x => x.ordered m && decide (x.stage = m.stage) && decide (x.class1 = m.class1)

/-- FIRST_ROUTER_CHECK (R20, R215): a stale name is discarded; otherwise the live LMAP gives the physical die. -/
def execFirstRouterCheck (i : Nat) (s : State) : Host.Outcome State Fault Refusal :=
  match s.msgs[i]? with
  | none => .next s
  | some m =>
    if m.stage ≠ .outbound ∨ s.behind i m then .next s
    else
      let d := s.die m.srcDie
      if m.carriesGen && decide (m.name.toNat / 2 ^ 14 % 16 ≠ d.gen.toNat) then .next (((s.dropMsg i).discardStale m).flushKilled m.src)
      else match d.lmap[m.name.toNat / 256 % 64]? with
        | none => .next (((s.dropMsg i).discardDead m (m.name.toNat / 256 % 64)).flushKilled m.src)
        | some phys => .next (s.setMsg i { m with stage := .mesh phys })

/-- Whether a message acts on the state of one comb, and so must not follow a moved index (R216). -/
def MsgBody.perComb : MsgBody → Bool
  | .dep _ _ _ _ _ => true
  | .push _ _ _ => true
  | _ => false

/-- MESSAGE_DELIVERY (R216): the comb map of the destination die gives the physical comb. Messages that have arrived stand
behind the earlier arrivals (R330). -/
def execMessageDelivery (i : Nat) (s : State) : Host.Outcome State Fault Refusal :=
  match s.msgs[i]? with
  | none => .next s
  | some m =>
    match m.stage with
    | .mesh die =>
      if s.behind i m then .next s
      else if !(s.die die).live then .next (((s.dropMsg i).discardDead m ((s.die die).ldie die)).flushKilled m.src)
      else
        let l := if m.name.toNat % 256 = 0xFF then s.leastLoaded die else m.name.toNat % 256
        if m.body.perComb && m.carriesGen && s.movedSince die l (m.name.toNat / 2 ^ 14 % 16) then .next (((s.dropMsg i).discardStale m).flushKilled m.src)
        else .next { s with msgs := s.msgs.eraseIdx i ++ [{ m with stage := .arrived die ((s.die die).combEnt l).phys }] }
    | _ => .next s

/-! ## Entering a comb -/

/-- The tie rank of a task that a message creates; `n` rises with every arrival (R330). -/
def Msg.rank (m : Msg) (ck n : Nat) : Nat := if m.src = ck then rankLocal m.uid else rankMesh m.srcDie n

/-- A record enters a comb: its task is created, the handle goes back, and a consumed message moves its count from the
channel to the station (R337, R368); nothing happens while there is no room. -/
def State.enterTask (s : State) (ck : Nat) (m : Msg) (r : TaskRec) (ch answer : Option Nat) : Option State :=
  match s.create ck m.ctx r (m.rank ck s.nextUid) with
  | none => none
  | some (s, h) =>
    let s := match ch with
      | some l =>
        let es := mergeEnt (mergeEnt [] ⟨l, r.time, false, -1⟩) ⟨r.station, r.time, false, 1⟩
        if es.isEmpty then s else (s.sendBatch (keyDie ck) (keyComb ck) m.ctx r.flow 0 es).1
      | none => s
    some (match answer with
      | some u => s.finishOp m.src u (some (BitVec.ofNat 32 h))
      | none => s)

/-- The TRAP record of a committed DEPSET or DEPDEC that faults (R390). -/
def commitTrap (ctx code pc : Nat) : EvRec := evRec 1 (some ctx) 0xFF code (pc % 2 ^ 32) 0 false

/-- A DEPSET or DEPDEC enters: it is applied, or its fault goes back (R389) or into a record (R390). -/
def State.enterDep (s : State) (ck : Nat) (m : Msg) (set : Bool) (h : Word) (v : Nat) (answer commit : Option Nat) : State :=
  let back (s : State) (w : Wait) : State := match answer with
    | some u => (s.finishOp m.src u none).answerUid m.src (m.sender.getD 0) u w
    | none => s
  let fault (code x y : Nat) : State := match commit with
    | some pc => s.sendRecord m.src m.ctx (commitTrap m.ctx code pc)
    | none => back s (.refusedAnswer code x y)
  match s.dep ck set h v with
  | .done s => back s (.answered 0)
  | .under => fault codeDEPUNDER (handleName h) (h.toNat % 1024)
  | .bad => fault codeBADSPEC 0 0

/-- The record of a dropped delivery (R363). -/
def State.dropRecord (s : State) (ctx bank src : Nat) : EvRec :=
  evRec 8 (some ctx) 0xFF (codeBANKMODE + 256 * 2 + 2 ^ 10 * bank) (s.combName src) 0 false

/-- Entries reach a bank of a comb: appended, or dropped with a record, which needs a place (R357, R363). -/
def State.enterPush (s : State) (ck ctx src : Nat) (ord : Bool) (bank : Nat) (es : List FifoEnt) : Option State :=
  let c := s.comb ck
  match (c.bank bank).refuse ord ctx with
  | none => some (s.pushBank ck ctx bank (c.bank bank) es)
  | some _ => if c.canPost then some (s.post ck (s.dropRecord ctx bank src)) else none

/-- A crest's bound advance reaches a bank; elsewhere it is discarded (R361, R377). -/
def State.enterAdvance (s : State) (ck ctx bank : Nat) (t : DWord) : State :=
  s.modComb ck fun c =>
    let b := c.bank bank
    if (b.refuse true ctx).isSome then c
    else if t = 0xFFFFFFFFFFFFFFFF then c.setBank bank { b with releaseAll := true }
    else c.setBank bank { b with bound := if b.bound ≤ t then t + 1 else b.bound }

/-- What a message does as it enters a comb; nothing while there is no room for it. -/
def State.enter (s : State) (ck : Nat) (m : Msg) : Option State :=
  match m.body with
  | .task r ch a => s.enterTask ck m r ch a
  | .dep set h v a c => some (s.enterDep ck m set h v a c)
  | .push ord b es => s.enterPush ck m.ctx m.src ord b es
  | .packet b e => s.enterPush ck m.ctx m.src true b [e]
  | .record r => if (if r.remote then (s.comb ck).canPostRemote else (s.comb ck).canPost) then some (s.post ck r) else none
  | .advance b t => some (s.enterAdvance ck m.ctx b t)

/-- Whether a message can be parked: what R348 and R333 name. -/
def MsgBody.parks : MsgBody → Bool
  | .record _ => false
  | _ => true

/-- Whether lack of room parks a message (R333): a task's record. -/
def MsgBody.spills : MsgBody → Bool
  | .task _ _ _ => true
  | _ => false

/-- The kinds of messages, as the events that deliver them tell them apart. -/
def MsgBody.isTask : MsgBody → Bool
  | .task _ none _ => true
  | _ => false
def MsgBody.isCounted : MsgBody → Bool
  | .task _ (some _) _ => true
  | _ => false
def MsgBody.isDep : MsgBody → Bool
  | .dep _ _ _ _ _ => true
  | _ => false
def MsgBody.isPush : MsgBody → Bool
  | .push _ _ _ => true
  | _ => false
def MsgBody.isAdvance : MsgBody → Bool
  | .advance _ _ => true
  | _ => false
def MsgBody.isRecord : MsgBody → Bool
  | .record _ => true
  | _ => false

/-- The place of a message among those that reach a comb in one clk: the operations on dependency counters come by the physical
index of the sending die, local ones first (R389). -/
def Msg.place (m : Msg) (ck : Nat) : Nat := if m.body.isDep then (if m.src = ck then 0 else m.srcDie + 1) else 0

/-- The first message of some kind that has arrived at a comb, with its place in the list. Those that have arrived and not been
looked at yet count as having arrived in one clk (DESIGN CHOICE, log entry 27). -/
def State.firstAt (s : State) (die comb : Nat) (kind : MsgBody → Bool) : Option (Nat × Msg) :=
  let ck := combKey die comb
  (((List.range s.msgs.length).zip s.msgs).filter fun im =>
    decide (im.2.stage = .arrived die comb) && kind im.2.body && !s.behind im.1 im.2).foldl (fun b x => match b with
      | some y => if x.2.place ck < y.2.place ck then some x else some y
      | none => some x) none

/-- Whether a message is parked as it arrives: its context is frozen, or others of its context are parked (R348), or it is a
record and other records wait for room, which enter before any later one (R333). -/
def State.mustPark (s : State) (ck : Nat) (m : Msg) : Bool :=
  m.body.parks && (s.isFrozen ck m.ctx || (s.comb ck).parked.any fun p =>
    decide (p.ctx = m.ctx) || (m.body.spills && p.body.spills && !s.isFrozen ck p.ctx))

/-- A message of the list parked at a comb, in its context's spill area; when the firmware cannot extend it, the context
ends and SPILLFULL is reported (R333). -/
def State.park (s : State) (ck i : Nat) (m : Msg) : State :=
  let s := (s.dropMsg i).modComb ck fun c => { c with parked := c.parked ++ [m] }
  if ((s.comb ck).parked.filter fun p => p.ctx = m.ctx).length ≤ s.spillCap m.ctx then s else s.endContext m.ctx 3 0 0

/-- The arrival of the first message of some kind at a comb: parked for a frozen context, behind parked ones of its
context, or for want of room; otherwise it enters (R333, R348). A delivery that cannot post its record waits. With it the last
batch of a killed sender may leave (R191). -/
def State.arrive (s : State) (die comb : Nat) (kind : MsgBody → Bool) : State :=
  let ck := combKey die comb
  match s.firstAt die comb kind with
  | none => s
  | some (i, m) =>
    if s.mustPark ck m then (s.park ck i m).flushKilled m.src
    else match (s.dropMsg i).enter ck m with
      | some s' => s'.flushKilled m.src
      | none => if m.body.spills then (s.park ck i m).flushKilled m.src else s

/-- TASK_ARRIVAL (R337): the record of a SPAWN or of a crest. -/
def execTaskArrival (die comb : Nat) (s : State) : Host.Outcome State Fault Refusal := .next (s.arrive die comb MsgBody.isTask)

/-- MESSAGE_CONSUMPTION (R368): a counted message. -/
def execMessageConsumption (die comb : Nat) (s : State) : Host.Outcome State Fault Refusal := .next (s.arrive die comb MsgBody.isCounted)

/-- DEPENDENCY_OP_ARRIVAL (R389). -/
def execDependencyOpArrival (die comb : Nat) (s : State) : Host.Outcome State Fault Refusal := .next (s.arrive die comb MsgBody.isDep)

/-- PUSH_DELIVERY (R363). -/
def execPushDelivery (die comb : Nat) (s : State) : Host.Outcome State Fault Refusal := .next (s.arrive die comb MsgBody.isPush)

/-- PACKET_DELIVERY (R372): its acknowledgement is the message's end. -/
def execPacketDelivery (die comb : Nat) (s : State) : Host.Outcome State Fault Refusal := .next (s.arrive die comb MsgBody.isPacket)

/-- BOUND_ADVANCE (R361). -/
def execBoundAdvance (die comb : Nat) (s : State) : Host.Outcome State Fault Refusal := .next (s.arrive die comb MsgBody.isAdvance)

/-- EVENT_RECORD_ARRIVAL (R357): a record that finds no place stays with its sender. -/
def execEventRecordArrival (die comb : Nat) (s : State) : Host.Outcome State Fault Refusal := .next (s.arrive die comb MsgBody.isRecord)

/-- PARKED_ENTRY (R333, R348): the first parked item of a context that is not frozen enters when there is room. -/
def execParkedEntry (die comb : Nat) (s : State) : Host.Outcome State Fault Refusal :=
  let ck := combKey die comb
  let c := s.comb ck
  match c.parked.find? fun m => !s.isFrozen ck m.ctx with
  | none => .next s
  | some m =>
    match (s.setComb ck { c with parked := c.parked.erase m }).enter ck m with
    | some s' => .next s'
    | none => .next s

/-- SPILL_RELOAD (R362). -/
def execSpillReload (die comb bank : Nat) (s : State) : Host.Outcome State Fault Refusal :=
  .next (s.modComb (combKey die comb) fun c => c.setBank bank (c.bank bank).reload)

end Sys2Proof.Machine
end

