-- ==== Sys2Proof/Machine/Admission.lean ====
section
/-! DEFINITION. Work that starts and ends on a comb: the dequeue of tasks, the forage of teams, the retirement of teams
and grids, and the commit of atomic tasks (R24 to R37, R98, R330 to R334, R341, R390 to R393, R439, R450).
Model's choices in this file: log entries 23, 24, 40, 44, 49. -/

namespace Sys2Proof.Machine

/-! ## Resources (R25, R27, R237, R331, R439) -/

/-- The registers of a core that no group and no role pool holds. -/
def Comb.freeRegs (c : Comb) (core : Nat) : Nat :=
  let held := ((c.groups.filter fun g => g.1 / 16 = core).map fun g => g.2.budget).foldl (· + ·) 0
  let pooled := (c.teams.flatMap fun t => (t.2.pools.filter fun p => p.1 / 4 = core).map (·.2)).foldl (· + ·) 0
  2048 - held - pooled

/-- The lowest free slot of a core. -/
def Comb.freeSlotOf (c : Comb) (core : Nat) : Option Nat :=
  ((List.range 16).map (16 * core + ·)).find? fun k => (Sparse.find? c.groups k).isNone

/-- Whether a granule can be allocated. -/
def Comb.granuleFree (c : Comb) (g : Nat) : Bool :=
  decide (g < 256) && decide ((c.bank (g / 16)).mode = .scratch) && (Sparse.find? c.alloc g).isNone

/-- The lowest-addressed run of free granules of a length (R439). -/
def Comb.freeRun (c : Comb) (n : Nat) : Option (List Nat) :=
  ((List.range 256).map fun a => (List.range n).map (a + ·)).find? fun gs => gs.all c.granuleFree

/-- A comb with granules granted to a team: their words read 0 until they are written (R237). -/
def Comb.grant (c : Comb) (gs : List Nat) (key : Nat) : Comb :=
  { c with alloc := gs.foldl (fun a g => Sparse.put a g (key + 1)) c.alloc, scratch := c.scratch.filter (fun x => !gs.contains (x.1 / 8192)), written := c.written.filter fun x => !gs.contains x.1 }

/-- A team's 16 barriers at admission (R379). -/
def freshBarriers : List Barrier := List.replicate 16 ⟨0, 0, 0⟩

/-! ## Tasks start (R31, R331, R334) -/

/-- Whether an entry of the ready queue comes before another (R330). -/
def ReadyEnt.before (now : Nat) (a b : ReadyEnt) : Bool :=
  let pa := aged a.task.prio a.entered now
  let pb := aged b.task.prio b.entered now
  decide (pb < pa) || (decide (pa = pb) && (decide (a.entered < b.entered) || (decide (a.entered = b.entered) && decide (a.rank < b.rank))))

/-- An entry put in its place in the order of the ready queue. -/
def insertReady (now : Nat) (e : ReadyEnt) : List ReadyEnt → List ReadyEnt
  | [] => [e]
  | x :: xs => if e.before now x then e :: x :: xs else x :: insertReady now e xs

/-- The ready queue in order. -/
def Comb.readyOrder (c : Comb) : List ReadyEnt := c.ready.foldl (fun l e => insertReady c.clk e l) []

/-- The slot a task would take: the lowest free one of the lowest core with its budget (R331). -/
def Comb.taskSlot (c : Comb) (r : TaskRec) : Option Nat :=
  if (c.freeRun 1).isNone then none
  else (List.range 4).findSome? fun core => if r.regs ≤ c.freeRegs core then c.freeSlotOf core else none

/-- The first task in order that fits; none passes one whose priority has reached 7 (R331). -/
def pickTask (c : Comb) : List ReadyEnt → Option (ReadyEnt × Nat)
  | [] => none
  | e :: rest =>
    match c.taskSlot e.task with
    | some k => some (e, k)
    | none => if aged e.task.prio e.entered c.clk = 7 then none else pickTask c rest

/-- The task that would be dequeued, among those of contexts that are not frozen (R346). -/
def State.nextTask (s : State) (ck : Nat) : Option (ReadyEnt × Nat) :=
  pickTask (s.comb ck) ((s.comb ck).readyOrder.filter fun e => !s.isFrozen ck e.ctx)

/-- The clk at which a comb may dequeue an entry: one after the entry came, and one after the last dequeue (R331, R334). -/
def Comb.dequeueClk (c : Comb) (e : ReadyEnt) : Nat := Nat.max (Nat.max c.clk (e.entered + 1)) c.deqAt

/-- The clk of a task's first instruction (R334): the latest the spec allows, which the model takes for the one (DESIGN CHOICE,
log entry 54). -/
def ReadyEnt.launchClk (e : ReadyEnt) (dequeued : Nat) : Nat := if dequeued = e.entered + 1 then e.entered + 70 else dequeued + 70

/-- A task starts in a slot: registers 0, arguments in s0 on, its argument block in its granule (R31, R98, R334). Its first
instruction is an acquire of what its creation released (R272, R273): the L1 is dropped. -/
def State.startTask (s : State) (ck : Nat) (e : ReadyEnt) (slot : Nat) : State :=
  let d := (s.comb ck).dequeueClk e
  let s := s.tick ck d
  match (s.comb ck).freeRun 1 with
  | none => s
  | some gs =>
    let name := s.combName ck
    let base := gs.headD 0 * 8192
    let block := ({ e.task with target := BitVec.ofNat 32 name } : TaskRec).bytes
    let team : Team := { ctx := e.ctx, grid := none, index := 0xFFFFFFFF, isTask := true, groups := 1, live := 1, granules := gs, barriers := freshBarriers, pools := [], tiles := [], seq := none, param := 0, prio := e.task.prio }
    let args := ((List.range 8).zip e.task.args).filter fun (x : Nat × Word) => decide (x.1 < e.task.argc)
    let place : Place := ⟨some e.ctx, e.uid, 0, 0, 0xFFFFFFFF, true, e.task.isAtomic, e.task.prio, some e.task⟩
    let c := s.comb ck
    let th : Thread := { Thread.reset with s := args.foldl (fun m x => Sparse.set 0 m x.1 x.2) [], pc := e.task.entry, budget := e.task.regs, place := place, uid := e.uid, issueAt := e.launchClk d, readyAt := e.launchClk d, entryLand := true }
    let c := { c.grant gs e.uid with ready := c.ready.erase e, teams := Sparse.put c.teams e.uid team, groups := Sparse.put c.groups slot th, deqAt := d + 1, l1 := [] }
    let c := c.putScratch base block
    (s.setComb ck c).admitRoom ck

/-! ## Teams start (R25 to R30, R304, R307, R393) -/

/-- What a kernel's directives declare: those the loader gave for its entry, else one group of budget 8 and nothing
more (log entry 23). -/
def State.kernel (s : State) (ctx : Nat) (entry : DWord) : Kernel :=
  match s.kernels.find? fun k => decide (k.ctx = ctx) && decide (k.entry = entry) with
  | some k => k
  | none => ⟨ctx, entry, [(1, 8)], 0, 0, none⟩

/-- The role and the budget of each group, in the order of the roles (R26). -/
def Kernel.groups (k : Kernel) : List (Nat × Nat) :=
  ((List.range k.roles.length).zip k.roles).flatMap fun (x : Nat × Nat × Nat) => List.replicate x.2.1 (x.1, x.2.2)

/-- The lowest free accumulator tiles of a comb. -/
def Comb.freeTiles (c : Comb) (n : Nat) : Option (List Nat) :=
  let free := (List.range 8).filter fun t => (Sparse.find? c.tileOwner t).isNone
  if free.length < n then none else some (free.take n)

/-- The lowest free matrix sequencer. -/
def Comb.freeSeq (c : Comb) : Option Nat := (List.range 4).find? fun q => (Sparse.find? c.seqs q).isNone

/-- The groups of a team placed on their cores, `gid` upward (R25); nothing when a core cannot take one. -/
def placeGroups (c : Comb) (mk : Nat → Nat → Nat → Thread) : List (Nat × Nat) → Nat → Option Comb
  | [], _ => some c
  | (role, regs) :: rest, g =>
    match c.freeSlotOf (g % 4) with
    | none => none
    | some k =>
      if c.freeRegs (g % 4) < regs then none
      else placeGroups { c with groups := Sparse.put c.groups k (mk g role regs) } mk rest (g + 1)

/-- The scratch a team can have: 1,792 KiB (R27). -/
def scratchCap : Nat := 1835008

/-- A team of a grid admitted on a comb with everything it needs, or nothing (R27). Its groups see no line that the L1 took
before the start (R267). -/
def State.admitTeam (s : State) (ck : Nat) (g : Grid) (index : Nat) : Option State :=
  let k := s.kernel g.ctx g.entry
  let c := s.comb ck
  let key := s.nextUid
  if scratchCap < k.scratch then none else
  match c.freeRun ((k.scratch + 8191) / 8192), c.freeTiles k.macc with
  | some gs, some ts =>
    match k.mstream, c.freeSeq with
    | some _, none => none
    | st, q =>
      let tid := BitVec.ofNat 32 index
      let place (gid role : Nat) : Place := ⟨some g.ctx, key, gid, role, tid, false, false, g.prio, none⟩
      let mk (gid role regs : Nat) : Thread :=
        { Thread.reset with pc := g.entry, budget := regs, place := place gid role, uid := key + 1 + gid, issueAt := c.clk, readyAt := c.clk }
      match placeGroups c mk k.groups 0 with
      | none => none
      | some c' =>
        let n := k.groups.length
        let seq := if st.isSome then q else none
        let team : Team := { ctx := g.ctx, grid := some g.num, index := index, isTask := false, groups := n, live := n, granules := gs, barriers := freshBarriers, pools := [], tiles := ts, seq := seq, param := g.param, prio := g.prio }
        let c' := { c'.grant gs key with teams := Sparse.put c'.teams key team, tileOwner := ts.foldl (fun m t => Sparse.put m t key) c'.tileOwner, acc := c'.acc.filter fun x => !ts.contains (x.1 / 2048), admitted := Sparse.put c'.admitted g.num c'.clk, l1 := [] }
        let c' := match st, seq with
          | some pc, some q =>
            let x := Sparse.set 0 (Sparse.set 0 [] 0 (tid.setWidth 64)) 1 (BitVec.ofNat 64 (gs.headD 0 * 8192))
            let th : Thread := { Thread.reset with x := x, pc := pc, place := place 0 0, uid := key + 1 + n, issueAt := c'.clk, readyAt := c'.clk }
            { c' with seqs := Sparse.put c'.seqs q ⟨th, key, List.replicate 16 0, false, []⟩ }
          | _, _ => c'
        some { s.setComb ck c' with nextUid := key + n + 2 }
  | _, _ => none

/-- The forage counter of a grid on a die (R392). Of two after a retirement (R394): one that is not exhausted, then one
that leads to another die. -/
def State.counter (s : State) (die g : Nat) : Option Forage :=
  let fs := ((s.die die).forage.map (·.2)).filter fun f => f.grid = g
  match fs.find? fun f => f.next < f.limit with
  | some f => some f
  | none => match fs.find? fun f => f.nextDie ≠ die with
    | some f => some f
    | none => fs.head?

/-- The die whose counter serves a claim: the first of the ring that is not exhausted, from the own die on (R393). -/
def State.claimDie (s : State) (g die : Nat) : Nat → Nat → Option (Nat × Forage)
  | 0, _ => none
  | n + 1, d =>
    match s.counter d g with
    | none => none
    | some f =>
      if f.next < f.limit then some (d, f)
      else if f.nextDie = die then none
      else s.claimDie g die n f.nextDie

/-- Teams started from a range, one index after another, as long as they fit (R29). -/
def State.startTeams (s : State) (ck : Nat) (g : Grid) : Nat → Nat → State × Nat
  | 0, _ => (s, 0)
  | n + 1, i =>
    match s.admitTeam ck g i with
    | none => (s, 0)
    | some s' =>
      let r := s'.startTeams ck g n (i + 1)
      (r.1, r.2 + 1)

/-- The aged priority of a grid on a comb, from its last admission there (R332); before the first it has not waited. -/
def Comb.gridPrio (c : Comb) (g : Grid) : Nat :=
  aged g.prio (match Sparse.find? c.admitted g.num with
    | some t => t
    | none => c.clk) c.clk

/-- Whether a comb could claim a team of a grid now. -/
def State.canClaim (s : State) (ck : Nat) (g : Grid) : Bool :=
  !s.isFrozen ck g.ctx && (s.die (keyDie ck)).live && (s.claimDie g.num (keyDie ck) 37 (keyDie ck)).isSome && (s.admitTeam ck g 0).isSome

/-- The grid that claims first on a comb: the highest aged priority, then the earlier launch (R332). -/
def State.firstGrid (s : State) (ck : Nat) : Option Grid :=
  let c := s.comb ck
  (s.grids.filter fun g => s.canClaim ck g).foldl (fun b g => match b with
    | none => some g
    | some x => if c.gridPrio x < c.gridPrio g ∨ (c.gridPrio x = c.gridPrio g ∧ g.launched < x.launched) then some g else some x) none

/-- Whether the ready queue's next task goes ahead of the grid that would claim (R332). -/
def State.taskFirst (s : State) (ck : Nat) : Bool :=
  let c := s.comb ck
  match s.nextTask ck, s.firstGrid ck with
  | some e, some g => decide (c.gridPrio g ≤ aged e.1.task.prio e.1.entered c.clk)
  | some _, none => true
  | none, _ => false

/-- Whether a task whose priority has reached 7 comes before every one that fits: what is free stays free for it (R331). -/
def reserved (c : Comb) : List ReadyEnt → Bool
  | [] => false
  | e :: rest => (c.taskSlot e.task).isNone && (decide (aged e.task.prio e.entered c.clk = 7) || reserved c rest)

/-- Whether such a task of a comb keeps everything else from starting. -/
def State.keepsFree (s : State) (ck : Nat) : Bool :=
  reserved (s.comb ck) ((s.comb ck).readyOrder.filter fun e => !s.isFrozen ck e.ctx)

/-- TASK_DEQUEUE (R331, R332). -/
def execTaskDequeue (die comb : Nat) (s : State) : Host.Outcome State Fault Refusal :=
  let ck := combKey die comb
  match s.nextTask ck with
  | some e => if s.taskFirst ck then .next (s.startTask ck e.1 e.2) else .next s
  | none => .next s

/-- FORAGE_CLAIM (R393): a claim of at most 8 teams, and their start. -/
def execForageClaim (die comb grid : Nat) (s : State) : Host.Outcome State Fault Refusal :=
  let ck := combKey die comb
  match s.firstGrid ck with
  | some g =>
    if g.num ≠ grid ∨ s.taskFirst ck ∨ s.keepsFree ck then .next s
    else match s.claimDie grid die 37 die with
      | none => .next s
      | some (d, f) =>
        let r := s.startTeams ck g (Nat.min 8 (f.limit - f.next)) f.next
        .next (r.1.modDie d fun x => { x with forage := x.forage.map fun y => if y.2 = f then (y.1, { f with next := f.next + r.2 }) else y })
  | none => .next s

/-! ## Teams and grids end (R28, R30, R450) -/

/-- A record's STATUS, written by the launch station at its home. -/
def State.setStatus (s : State) (rec : Nat) (x : Nat) : State := s.putBytes 0xFF 2 (byteItems [rec + 4] x)

/-- A record is done: STATUS 2, then DONEVAL to DONEADDR, an address of the record's context, as a release at SYS scope
(R450; log entry 24). -/
def State.recordDone (s : State) (ctx rec : Nat) (addr val : DWord) : State :=
  let s := s.setStatus rec 2
  let ck := s.lkey (s.liveDies.headD 0) 0
  match s.transBytes ck (some ctx) addr.toNat 8 .write with
  | .ok ls =>
    let items := byteItems (s.leafLocs ctx (keyDie ck) ls addr.toNat 8) val.toNat
    s.addStore ck ctx (Writer.thread s.nextUid) (some doneRelease) ls.1.mtype (.bytes items) none
  | .error _ => s

/-- Whether a grid is complete: its index space is exhausted and its last team has retired (R30). -/
def State.gridDone (s : State) (g : Grid) : Bool :=
  (s.liveDies.all fun d => (s.die d).forage.all fun f => decide (f.2.grid ≠ g.num) || decide (f.2.limit ≤ f.2.next)) &&
  !(s.combs.any fun c => c.2.teams.any fun t => t.2.grid = some g.num) && decide (g.count ≤ g.retired + g.lost)

/-- A complete grid frees its counters, and its record is done. -/
def State.finishGrid (s : State) (g : Grid) : State :=
  let s := s.liveDies.foldl (fun s d => s.modDie d fun x => { x with forage := x.forage.filter fun f => decide (f.2.grid ≠ g.num) }) s
  let s := { s with grids := s.grids.filter fun x => decide (x.num ≠ g.num) }
  s.recordDone g.ctx g.recAddr g.doneAddr g.doneVal

/-- Whether an operation keeps its team from retiring (R28). -/
def AsyncOp.keepsTeam (o : AsyncOp) : Bool :=
  decide (o.cls ≤ 1) || (match o.kind with
    | .nred _ _ _ _ _ _ => true
    | .wpost _ _ _ _ _ => true
    | _ => false)

/-- Whether a team can retire (R28). -/
def Comb.teamDone (c : Comb) (key : Nat) (t : Team) : Bool :=
  decide (t.live = 0) && !(c.ops.any fun o => decide (o.team = key) && o.keepsTeam) &&
  (match t.seq with
    | none => true
    | some q => (match Sparse.find? c.seqs q with
        | some x => x.ended && x.deferred.isEmpty
        | none => true) && !c.passes.any fun p => p.seq = q)

/-- A team's resources return to the comb. -/
def Comb.freeTeam (c : Comb) (key : Nat) (t : Team) : Comb :=
  { c with teams := Sparse.erase c.teams key, alloc := c.alloc.filter fun a => decide (a.2 ≠ key + 1), scratch := c.scratch.filter (fun x => !t.granules.contains (x.1 / 8192)), written := c.written.filter (fun x => !t.granules.contains x.1), tileOwner := c.tileOwner.filter fun x => decide (x.2 ≠ key), acc := c.acc.filter fun x => !t.tiles.contains (x.1 / 2048), seqs := match t.seq with
    | some q => Sparse.erase c.seqs q
    | none => c.seqs }

/-- TEAM_RETIREMENT (R28): a team's granules, tiles, barriers and sequencer are freed together; the last team of a grid
completes it. -/
def execTeamRetirement (die comb team : Nat) (s : State) : Host.Outcome State Fault Refusal :=
  let ck := combKey die comb
  let c := s.comb ck
  match Sparse.find? c.teams team with
  | none => .next s
  | some t =>
    if c.teamDone team t && !s.isFrozen ck t.ctx then
      let s := s.setComb ck (c.freeTeam team t)
      match t.grid with
      | none => .next s
      | some n =>
        let s := { s with grids := s.grids.map fun (g : Grid) => if g.num = n then { g with retired := g.retired + 1 } else g }
        match s.grids.find? fun (g : Grid) => g.num = n with
        | some g => .next (if s.gridDone g then s.finishGrid g else s)
        | none => .next s
    else .next s

/-! ## The commit of an atomic task (R341, R390) -/

/-- Where a committed message goes: a name that went stale since its issue meets the first router's check (R20), and what is for
a comb that has been retired since goes to the one that holds its index now (R211). -/
def State.commitTarget (s : State) (c : Commit) (t : Target) (name : Nat) : Target :=
  match t with
  | .nothing => .other name (keyDie c.key)
  | .stale => .other name (keyDie c.key)
  | .here =>
    let now := s.lkey (keyDie c.key) c.lcomb
    if now = c.key then .here else .other (s.combName now) (keyDie c.key)
  | t => t

/-- The record of a buffered SPAWN or SEND. -/
def CommitEnt.record (x : CommitEnt) : TaskRec := TaskRec.ofBytes (leBytes 64 (x.payload.headD 0))

/-- The target of a buffered message. -/
def State.entTarget (s : State) (c : Commit) (x : CommitEnt) : Target :=
  let named (n : Nat) : Target := s.commitTarget c (s.nameTarget c.key n) n
  if x.op = 0x180 ∨ x.op = 0x190 then
    let r := x.record
    s.commitTarget c (s.recTarget c.key r) (if r.sel = 1 then r.target.toNat else r.target.toNat * 256 + 0xFF)
  else if x.op = 0x1C8 ∨ x.op = 0x1C9 then named (handleName (BitVec.ofNat 32 (x.nums.headD 0)))
  else named (x.nums.headD 0)

/-- The scope of the release that a buffered action is: a store with release order, SPAWN, SEND, DEPSET and DEPDEC (R257, R272,
R273). -/
def State.entRelease (s : State) (c : Commit) (x : CommitEnt) : Option Nat :=
  if x.op = 0x101 ∨ x.op = 0x107 then (if 2 ≤ x.nums.getD 2 0 then some (x.nums.getD 3 0) else none)
  else if x.op = 0x180 ∨ x.op = 0x190 ∨ x.op = 0x1C8 ∨ x.op = 0x1C9 then some ((s.entTarget c x).scope c.key)
  else none

/-- Whether a buffered action can be performed now: a release waits for what its task and its commit did before (R252, R341). -/
def State.entReady (s : State) (c : Commit) (x : CommitEnt) : Bool :=
  match s.entRelease c x with
  | some sc => s.releaseDone c.key c.th.uid sc s.nextUid && s.releaseDone c.key c.uid sc s.nextUid
  | none => true

/-- A buffered action performed (R341), with the further entries of the same push: a store of the commit, which is an agent of
its own (R252), a message, a push, whose entries stay together (R364), a primitive or a dependency operation; its +1 goes to the
task's open batch. -/
def State.commitEnt (s : State) (c : Commit) (th : Thread) (x : CommitEnt) (more : List CommitEnt) : State × Thread :=
  let ck := c.key
  let ctx := th.place.ctx.getD 0
  let who : Writer := ⟨c.uid, th.uid, none, c.uid⟩
  let send (s : State) (b : MsgBody) : State := s.send x.op ck ctx (some th.uid) (s.entTarget c x) b
  let task (chan : Option Nat) : State × Thread :=
    let r := x.record
    let n := s.count ck ctx th r.flow (chan.getD r.station) r.time false 1
    (send n.1 (.task r chan none), n.2)
  let push : State × Thread :=
    let ord := decide (x.nums.getD 2 0 = 1)
    let ent (y : CommitEnt) : FifoEnt := ⟨y.payload.map (BitVec.ofNat 32), if ord then th.time else 0, y.nums.getD 3 0⟩
    (send s (.push ord (x.nums.getD 1 0) ((x :: more).map ent)), th)
  let dep (set : Bool) : State × Thread :=
    (send s (.dep set (BitVec.ofNat 32 (x.nums.headD 0)) (x.nums.getD 1 0) none (some x.pc.toNat)), th)
  match x.op, x.nums with
  | 0x101, at' :: w :: _ =>
    match s.transBytes ck (some ctx) (at' / 8) (w / 8) .write with
    | .error _ => (s, th)
    | .ok ls =>
      let items := byteItems (s.leafLocs ctx (keyDie ck) ls (at' / 8) (w / 8)) (x.payload.headD 0)
      let mtype := Nat.max ls.1.mtype ls.2.mtype
      let rel := storeRelease false 0 mtype
      if at' / 8 % (w / 8) = 0 then (s.addStore ck ctx who rel mtype (.bytes items) none, th)
      else (items.foldl (fun s it => s.addStore ck ctx who rel mtype (.bytes [it]) none) s, th)
  | 0x107, at' :: w :: _ :: _ :: n :: cs =>
    match s.descriptor ck (some ctx) n with
    | .ok s d =>
      let va := at' / 8
      let bytes := (at' % 8 + w + 7) / 8
      match s.transBytes ck (some ctx) va bytes .write with
      | .error _ => (s, th)
      | .ok ls =>
        let a : LaneAcc := ⟨0, va, s.leafLocs ctx (keyDie ck) ls va bytes, Nat.max ls.1.mtype ls.2.mtype, ls.1.place, ls.1, ls.2⟩
        (s.storeElem ck ctx who false 0 n d a cs (x.payload.headD 0), th)
    | _ => (s, th)
  | 0x180, _ => task none
  | 0x190, ch :: _ => task (some ch)
  | 0x183, _ => push
  | 0x191, _ => push
  | 0x194, ordinal :: set :: _ =>
    let ws := x.payload.map (BitVec.ofNat 32)
    let rset := match Sparse.find? s.ctxs ctx with
      | some c => c.rset
      | none => 7
    let p : Prim := ⟨ctx, rset, ck, th.uid, 0, ws.take 12, ws.getD 12 0, set, th.time, ordinal⟩
    (s.modDie (keyDie ck) fun d => { d with router := d.router ++ [p] }, th)
  | 0x1C8, _ => dep true
  | 0x1C9, _ => dep false
  | _, _ => (s, th)

/-- Whether two buffered entries are of one push. -/
def CommitEnt.samePush (x y : CommitEnt) : Bool :=
  (decide (x.op = 0x183) || decide (x.op = 0x191)) && decide (y.op = x.op) && decide (y.pc = x.pc) && decide (y.nums.getD 4 0 = x.nums.getD 4 0)

/-- The commit without what has been performed; it is over with its last entry, and the last batch of its task may leave. -/
def State.setCommit (s : State) (i : Nat) (c : Commit) : State :=
  if c.ents.isEmpty then ({ s with commits := s.commits.eraseIdx i } : State).flushKilled c.key else { s with commits := s.commits.set i c }

/-- COMMIT_PERFORM (R341): the next entry, in buffer order, once what it releases is performed; the counts go to the batch the
task closes, also where its comb has been retired or it has been killed meanwhile. -/
def execCommitPerform (i : Nat) (s : State) : Host.Outcome State Fault Refusal :=
  match s.commits[i]? with
  | none => .next s
  | some c =>
    match c.ents with
    | [] => .next (s.setCommit i c)
    | x :: rest =>
      if s.entReady c x then
        let more := rest.takeWhile x.samePush
        let s' := match s.withTask c.key c.th.uid fun th => s.commitEnt c th x more with
          | some s' => s'
          | none => (s.commitEnt c c.th x more).1
        .next (s'.setCommit i { c with ents := rest.drop more.length })
      else .next s

end Sys2Proof.Machine
end

