-- ==== Sys2Proof/Machine/Binning.lean ====
section
/-! DEFINITION. The bin router of a die (R217, R218, R220, R371, R372). -/

namespace Sys2Proof.Machine

/-- Binary32 with round to nearest, ties to even, and subnormals kept. -/
def rne : FOpt := ⟨.rne, false, false, 0⟩

/-- A value of F32. -/
def f32 (x : Word) : FV := fmtF32.decode x.toNat

/-- A row of a view applied to a vertex: one rounding a step (R217). -/
def viewRow (row vert : List Word) : Word :=
  let at' (l : List Word) (k : Nat) : FV := f32 (l.getD k 0)
  let p0 : Word := BitVec.ofNat 32 (fmtF32.mul rne (at' row 0) (at' vert 0)).1
  [1, 2, 3].foldl (fun p k => BitVec.ofNat 32 (fmtF32.fma rne false false (at' row k) (at' vert k) (f32 p)).1) p0

/-- A quotient of F32. -/
def f32Div (a b : Word) : Word := BitVec.ofNat 32 (fmtF32.div rne (f32 a) (f32 b)).1

/-- Whether a word is a NaN; whether it is infinite; whether it is at most +0. -/
def isNan32 (x : Word) : Bool := (f32 x).isNan
def isInf32 (x : Word) : Bool := match f32 x with
  | .inf _ => true
  | _ => false
def nonPos32 (x : Word) : Bool := match f32 x with
  | .inf neg => neg
  | .num neg m _ => neg || decide (m = 0)
  | .nan _ _ _ => false

/-- A finite value as an integer count of 2^-149. -/
def fixed32 (x : Word) : Int :=
  match f32 x with
  | .num neg m e => (if neg then -1 else 1) * ((m : Int) * 2 ^ (e + 149).toNat)
  | _ => 0

/-- `⌊x / 64⌋` of a finite value. -/
def floor64 (x : Word) : Int := (fixed32 x).fdiv (2 ^ 155)

/-- The smallest and the largest of three integers. -/
def minI (l : List Int) : Int := l.tail.foldl min (l.headD 0)
def maxI (l : List Int) : Int := l.tail.foldl max (l.headD 0)

/-- A screen triangle with its box of regions (R371). -/
structure Tri where
  sx : List Word
  sy : List Word
  sz : List Word
  rw : List Word
  deriving DecidableEq, Repr

/-- BACK: whether the doubled area is negative, exactly (R371). -/
def Tri.back (t : Tri) : Bool :=
  let x (k : Nat) : Int := fixed32 (t.sx.getD k 0)
  let y (k : Nat) : Int := fixed32 (t.sy.getD k 0)
  decide ((x 1 - x 0) * (y 2 - y 0) - (x 2 - x 0) * (y 1 - y 0) < 0)

/-- A primitive on the screen of a view; nothing when the view drops it (R371). -/
def Prim.screen (p : Prim) (view : List Word) : Option Tri :=
  let vert (k : Nat) : List Word := (p.verts.drop (4 * k)).take 4
  let vs := [vert 0, vert 1, vert 2]
  let xs := vs.map (viewRow (view.take 4))
  let ys := vs.map (viewRow ((view.drop 4).take 4))
  if (p.verts ++ xs ++ ys).any isNan32 || vs.any (fun v => nonPos32 (v.getD 3 0)) then none
  else
    let w (k : Nat) : Word := (vert k).getD 3 0
    let div (l : List Word) : List Word := [0, 1, 2].map fun k => f32Div (l.getD k 0) (w k)
    let t : Tri := ⟨div xs, div ys, div (vs.map fun v => v.getD 2 0), div [0x3F800000, 0x3F800000, 0x3F800000]⟩
    if (t.sx ++ t.sy ++ t.sz ++ t.rw).any isNan32 || (t.sx ++ t.sy).any isInf32 then none else some t

/-- The words of a packet (R372). -/
def Prim.packet (p : Prim) (t : Tri) (v rx ry : Nat) : List Word :=
  let vert (k : Nat) : List Word := [t.sx.getD k 0, t.sy.getD k 0, t.sz.getD k 0, t.rw.getD k 0]
  vert 0 ++ vert 1 ++ vert 2 ++ [p.attr, BitVec.ofNat 32 (p.ordinal % 2 ^ 16 + v * 2 ^ 16 + (if t.back then 2 ^ 24 else 0)),
    BitVec.ofNat 32 (rx + ry * 2 ^ 16), BitVec.ofNat 32 p.set]

/-- The regions of a triangle's box in a view of `wv` by `hv` regions, row by row. -/
def Tri.regions (t : Tri) (wv hv : Nat) : List (Nat × Nat) :=
  let x0 := (minI (t.sx.map floor64)).toNat
  let x1 := min ((wv : Int) - 1) (maxI (t.sx.map floor64))
  let y0 := (minI (t.sy.map floor64)).toNat
  let y1 := min ((hv : Int) - 1) (maxI (t.sy.map floor64))
  (List.range ((y1 + 1 - y0).toNat)).flatMap fun j => (List.range ((x1 + 1 - x0).toNat)).map fun i => (x0 + i, y0 + j)

/-- The packet of a region sent to its owner, or dropped and counted (R371). -/
def State.sendPacket (s : State) (die : Nat) (p : Prim) (t : Tri) (v : Nat) (r : Nat × Nat) : State :=
  let d := s.die die
  let o := (Sparse.get 0 d.owners (p.rset * 4096 + 256 * (v % 16) + 16 * (r.2 % 16) + r.1 % 16)).toNat
  if o / 2 ^ 31 = 0 then s
  else
    let drop : State := s.modDie die fun d => { d with drops := d.drops + 1 }
    match d.lmap[o / 256 % 64]? with
    | none => drop
    | some phys =>
      if (s.die phys).combs ≤ o % 256 then drop
      else
        let e : FifoEnt := ⟨p.packet t v r.1 r.2, p.time, p.ordinal⟩
        { s with nextUid := s.nextUid + 1, msgs := s.msgs ++ [⟨s.nextUid, 0x194, p.ctx, die, keyComb p.comb, some p.sender, BitVec.ofNat 32 (o % 256), false, .mesh phys, .packet (o / 2 ^ 16 % 16) e⟩] }

/-- A primitive binned for one view (R371). -/
def State.binView (s : State) (die : Nat) (p : Prim) (v : Nat) : State :=
  let d := s.die die
  let view := (List.range 16).map fun k => Sparse.get 0 d.views (p.rset * 4096 + 16 * v + k)
  if (view.getD 9 0).getLsbD 0 then
    match p.screen view with
    | none => s.modDie die fun d => { d with drops := d.drops + 1 }
    | some t => (t.regions ((view.getD 8 0).toNat % 2 ^ 16) ((view.getD 8 0).toNat / 2 ^ 16)).foldl (fun s r => s.sendPacket die p t v r) s
  else s

/-- The emission of a PRIMEMIT has one primitive less to hand over (R370). -/
def Comb.emitted (c : Comb) (u : Nat) : Comb :=
  { c with ops := c.ops.map fun o => if o.uid = u then { o with kind := match o.kind with
      | .emit n => .emit (n - 1)
      | k => k } else o }

/-- PRIMITIVE_BINNING (R220, R371): the router takes its next primitive and reads its tables at that instant. -/
def execPrimitiveBinning (die : Nat) (s : State) : Host.Outcome State Fault Refusal :=
  match (s.die die).router with
  | [] => .next s
  | p :: rest =>
    let s := (s.modDie die fun d => { d with router := rest }).modComb p.comb fun c => c.emitted p.opUid
    let sets := (List.range 4).map fun k => Sparse.get 0 (s.die die).viewSets (p.rset * 4096 + 4 * p.set + k)
    let views := (List.range 128).filter fun v => (sets.getD (v / 32) 0).getLsbD (v % 32)
    .next ((views.foldl (fun s v => s.binView die p v) s).flushKilled p.comb)

end Sys2Proof.Machine
end

