-- ==== Sys2Proof/Machine/Window.lean ====
section
/-! DEFINITION. The group window (R186 to R193): the steward's access to a stopped group, its resumption and its end.
Model's choices in this file: log entries 40, 50. -/

namespace Sys2Proof.Machine

/-- The rule of an instruction of major 0x0A: steward alone, PRIV on a core (R81, R186). -/
def rulePriv (op : Nat) (f : SForm) (uses : List Use) : Rule :=
  { Rule.basic op f.h false uses with core := false, steward := true, priv := true, byFields := true }

/-- The group WINSEL has selected (R187). -/
def Env.selected (e : Env) : Option (Nat × Thread) :=
  let c := e.s.comb e.ck
  match c.steward.winsel with
  | none => none
  | some k => (Sparse.find? c.groups k).map fun th => (k, th)

/-- The state code of a slot (R187). -/
def slotCode : Option (Nat × Thread) → Word
  | some (_, th) => if th.stopped then 0 else 1
  | none => 2

/-- The issue of WINSEL. -/
def ruleWinsel (f : SForm) : Rule :=
  let imm := f.sub.getLsbD 0
  rulePriv 0x0A0 f ([useSD f.d] ++ (if imm then [] else [useS f.a]))

/-- WINSEL (R187). -/
def execWinsel (f : SForm) (s : State) : Host.Outcome State Fault Refusal :=
  let imm := f.sub.getLsbD 0
  issue s (ruleWinsel f) fun e =>
    let k := (if imm then f.imm.toNat else (e.read32 f.a 0).toNat) % 64
    let s := e.s.modComb e.ck fun c => { c with steward := { c.steward with winsel := some k } }
    let code := slotCode ((Sparse.find? (e.s.comb e.ck).groups k).map fun th => (k, th))
    .ok ⟨s, e.th, e.write32 f.d false [(0, code)], 0, none, .seq⟩

/-- The outstanding counters as index 0x0C1 shows them (R188). -/
def outstWord (c : Comb) (uid : Nat) : Nat :=
  c.outstanding uid 0 + c.outstanding uid 1 * 2 ^ 8 + c.outstanding uid 2 * 2 ^ 16 + c.outstanding uid 3 * 2 ^ 24

/-- The predicates and the call depth in one word, P of a lane (R102). -/
def predWord (th : Thread) (lane : Nat) : Nat :=
  let p := (List.range 7).foldl (fun n k => n + (if (Sparse.get 0 th.p k).getLsbD lane then 2 ^ k else 0)) 0
  p + 2 ^ 7 + th.q.toNat * 2 ^ 8 + 2 ^ 15 + th.cd.toNat * 2 ^ 24

/-- A word of the loop stack (R108). -/
def loopWord (th : Thread) (k : Nat) : Nat :=
  match th.loops[k / 3]? with
  | none => 0
  | some e =>
    match k % 3 with
    | 0 => e.start.toNat
    | 1 => e.endPc.toNat
    | _ => e.count.toNat + e.depth.toNat * 2 ^ 24 + (if e.valid then 2 ^ 31 else 0)

/-- What the window shows of a group at an index and a lane (R188, R189), at 64 bits. -/
def winRead (e : Env) (k : Nat) (th : Thread) (idx lane : Nat) : DWord :=
  let ge : Env := { e with ag := .group (keyDie e.ck) (keyComb e.ck) k, th := th, rv := th, vec := true, act := 0 }
  if idx < 0x80 then (ge.reg idx lane).setWidth 64
  else if idx < 0xC0 then (ge.reg idx 0).setWidth 64
  else if idx = 0xC0 then BitVec.ofNat 64 (predWord th lane)
  else if idx = 0xC1 then BitVec.ofNat 64 (outstWord (e.s.comb e.ck) th.uid)
  else if 0xD0 ≤ idx ∧ idx < 0xE0 then ge.special lane (Special.ofCode (idx - 0xD0))
  else if 0x100 ≤ idx ∧ idx < 0x10C then BitVec.ofNat 64 (loopWord th (idx - 0x100))
  else match idx with
    | 0x200 => th.trap.tcause.setWidth 64
    | 0x201 => th.trap.tpc
    | 0x202 => (hiWord th.trap.tpc).setWidth 64
    | 0x203 => th.trap.tmask.setWidth 64
    | 0x204 => th.trap.tval.setWidth 64
    | 0x205 => th.trap.tval2.setWidth 64
    | _ => 0

/-- A loop-stack word written (R108). -/
def putLoop (e : LoopEnt) (part : Nat) (x : Word) : LoopEnt :=
  match part with
  | 0 => { e with start := x }
  | 1 => { e with endPc := x }
  | _ => { e with valid := x.getLsbD 31, depth := (x >>> 24).setWidth 4, count := x.setWidth 24 }

/-- A group with a window value written under the access of R188. -/
def winWrite (th : Thread) (idx lane : Nat) (v : DWord) (w64 : Bool) : Thread :=
  let x : Word := v.setWidth 32
  if idx < 0x80 then th.putLast ⟨idx, [(lane, x)]⟩
  else if idx < 0xC0 then th.putLast ⟨idx, [(0, x)]⟩
  else if idx = 0xC0 then
    let p := (List.range 7).foldl (fun p k => Sparse.set 0 p k (setBit (Sparse.get 0 p k) lane (x.getLsbD k))) th.p
    { th with p := p, q := (x >>> 8).setWidth 7, cd := (x >>> 24).setWidth 4 }
  else if 0x100 ≤ idx ∧ idx < 0x10C then
    { th with loops := th.loops.modify ((idx - 0x100) / 3) fun e => putLoop e ((idx - 0x100) % 3) x }
  else match idx with
    | 0xD1 => { th with em := x &&& th.lm }
    | 0xD2 => { th with lm := x, em := th.em &&& x }
    | 0xDA => { th with mode := x &&& modeMask }
    | 0xDB => { th with fstat := x &&& fstatMask }
    | 0xDD => { th with lk := if w64 then v else hiWord th.lk ++ x }
    | 0x200 => { th with trap := { th.trap with tcause := x } }
    | 0x201 => { th with trap := { th.trap with tpc := if w64 then v else hiWord th.trap.tpc ++ x } }
    | 0x202 => { th with trap := { th.trap with tpc := x ++ th.trap.tpc.setWidth 32 } }
    | 0x203 => { th with trap := { th.trap with tmask := x } }
    | 0x204 => { th with trap := { th.trap with tval := x } }
    | 0x205 => { th with trap := { th.trap with tval2 := x } }
    | _ => th

/-- The index and the lane a window instruction names (R186). -/
def winIdx (e : Env) (f : SForm) : Nat × Nat :=
  if f.sub.getLsbD 0 then (f.imm.toNat % 4096, f.imm.toNat / 4096 % 32)
  else ((e.read32 f.a 0).toNat % 4096, (e.read32 f.b 0).toNat % 32)

/-- The register operands of a window instruction. -/
def winUses (f : SForm) : List Use := if f.sub.getLsbD 0 then [] else [useS f.a, useS f.b]

/-- The issue of WINRD. -/
def ruleWinrd (f : SForm) : Rule :=
  let w64 := f.sub.getLsbD 1
  rulePriv 0x0A1 f ([if w64 then ⟨f.d, 2, 2, true, [.s]⟩ else useSDOnly f.d] ++ winUses f)

/-- WINRD (R189): of a group that is not stopped, and of an empty slot, D receives the window's value, 0, as R189 says, and not
the state code R187 speaks of (DESIGN CHOICE, log entry 52). -/
def execWinrd (f : SForm) (s : State) : Host.Outcome State Fault Refusal :=
  let w64 := f.sub.getLsbD 1
  issue s (ruleWinrd f) fun e =>
    let ix := winIdx e f
    let v : DWord := match e.selected with
      | some (k, th) => if th.stopped then winRead e k (th.settle e.t) ix.1 ix.2 else 0
      | none => 0
    e.done (if w64 then e.write64 f.d [(0, if ix.1 = 0x0DC ∨ ix.1 = 0x0DD ∨ ix.1 = 0x201 then v else (v.setWidth 32).setWidth 64)]
      else e.write32 f.d false [(0, v.setWidth 32)])

/-- The issue of WINWR. -/
def ruleWinwr (f : SForm) : Rule :=
  let w64 := f.sub.getLsbD 1
  rulePriv 0x0A2 f (winUses f ++ [if w64 then useSPair f.c else useS f.c])

/-- WINWR (R189): changes nothing unless the selected group is stopped. -/
def execWinwr (f : SForm) (s : State) : Host.Outcome State Fault Refusal :=
  let w64 := f.sub.getLsbD 1
  issue s (ruleWinwr f) fun e =>
    let ix := winIdx e f
    let v : DWord := if w64 then e.read64 f.c 0 else (e.read32 f.c 0).setWidth 64
    match e.selected with
    | some (k, th) =>
      if th.stopped then
        e.out (e.s.modComb e.ck fun c => { c with groups := Sparse.put c.groups k (winWrite (th.settle e.t) ix.1 ix.2 v w64) }) e.th
      else e.done []
    | none => e.done []

/-- Whether a loop stack is one that running code can leave: no valid entry above an invalid one, no DEPTH above CD
(R109). -/
def loopsOk (cd : BitVec 4) (loops : List LoopEnt) : Bool :=
  let vs := loops.map (·.valid)
  decide (vs = (vs.filter (·)) ++ (vs.filter (!·))) && loops.all fun e => !e.valid || decide (e.depth ≤ cd)

/-- The words of an EXIT under no guard. -/
def exitWord : InstrWord := BitVec.ofNat 96 (0x001 + 7 * 2 ^ 10 + 7 * 2 ^ 14)

/-- The return from a trap (R190): the resumed group is checked, and rejoins arbitration; an inconsistent loop stack
faults ILLOP with TMASK = `em`, for want of an instruction (DESIGN CHOICE, log entry 40), a misaligned PC MISALIGNPC, and
`lm` = 0 retires it as an EXIT does that carries on at once, with the waits of R338 for a task. A group of a frozen context
stays stopped (R353). -/
def State.resumeGroup (s : State) (ck slot : Nat) (th : Thread) (skip : Bool) (now : Nat) : State :=
  let a : Agent := .group (keyDie ck) (keyComb ck) slot
  let th := { th with stopped := false, undisp := false, wait := .none, full := false, runLen := 0, fuse := none, issueAt := Nat.max th.issueAt (now + 1), readyAt := now + 1, pc := th.trap.tpc }
  if !loopsOk th.cd th.loops then s.takeTrap a th ⟨codeILLOP, th.em, 0, 0⟩
  else
    let th := if skip then { th.advance with entryLand := false } else th
    if th.pc.toNat % 4 ≠ 0 then s.takeTrap a th ⟨codeMISALIGNPC, th.em, th.pc.toNat % 2 ^ 32, th.pc.toNat / 2 ^ 32⟩
    else if th.lm = 0 then s.setThread a { th with wait := .released, held := some exitWord, issueAt := now }
    else s.setThread a th

/-- The issue of `gresume`. -/
def gresumeRule (f : SForm) : Rule := rulePriv 0x0A3 f [useSD f.d]

/-- Whether GRESUME acts on a group: it is stopped, and its context is not frozen (R190, R353). -/
def State.mayResume (s : State) (ck : Nat) (th : Thread) : Bool :=
  th.stopped && match th.place.ctx with
    | some ctx => !s.isFrozen ck ctx
    | none => true

/-- GRESUME (R190). D receives the code of the slot as it was before (R187; DESIGN CHOICE, log entry 52). -/
def gresume (f : SForm) (s : State) (skip : Bool) : Host.Outcome State Fault Refusal :=
  issue s (gresumeRule f) fun e =>
    let s := match e.selected with
      | some (k, th) => if e.s.mayResume e.ck th then e.s.resumeGroup e.ck k (th.settle e.t) skip e.t else e.s
      | none => e.s
    .ok ⟨s, e.th, e.write32 f.d false [(0, slotCode e.selected)], 0, none, .seq⟩

/-- GRESUME.replay (R190). -/
def execGresumeReplay (f : SForm) (s : State) : Host.Outcome State Fault Refusal := gresume f s false

/-- GRESUME.skip (R190). -/
def execGresumeSkip (f : SForm) (s : State) : Host.Outcome State Fault Refusal := gresume f s true

/-- The issue of GKILL. -/
def ruleGkill (f : SForm) : Rule := rulePriv 0x0A4 f [useSD f.d]

/-- Whether a group's run is under way at a clk: it is in the middle of one, or its core's slot goes to it in that clk
(R191, R192). -/
def State.isRunning (s : State) (ck slot : Nat) (th : Thread) (t : Nat) : Bool :=
  !th.stopped && th.ready && (decide (0 < th.runLen) ||
    (s.arbitrate ck (slot / 16) = some slot && decide ((s.comb ck).startClk (.group (keyDie ck) (keyComb ck) slot) th ≤ t)))

/-- GKILL of a group (R191): one whose run is under way ends with it; any other at once, but for one whose EXIT issued in the
same clk, which retires as by EXIT (R192). -/
def State.gkill (s : State) (ck slot : Nat) (th : Thread) (t : Nat) : State :=
  if s.isRunning ck slot th t then s.setThread (.group (keyDie ck) (keyComb ck) slot) { th with doomed := some t }
  else if th.wait = .ending t then s
  else s.kill ck slot th

/-- GKILL (R191). D receives the code of the slot as it was before (R187; DESIGN CHOICE, log entry 52). -/
def execGkill (f : SForm) (s : State) : Host.Outcome State Fault Refusal :=
  issue s (ruleGkill f) fun e =>
    let s := match e.selected with
      | some (k, th) => e.s.gkill e.ck k th e.t
      | none => e.s
    .ok ⟨s, e.th, e.write32 f.d false [(0, slotCode e.selected)], 0, none, .seq⟩

end Sys2Proof.Machine
end

