-- ==== Sys2Proof/Machine/Time.lean ====
section
/-! DEFINITION. The instructions of logical time: TIMEW, CREST, CWAIT, CSUB, PCNT, PFLUSH and PSWR (R402, R403, R413 to
R420).
Model's choices in this file: log entry 41. -/

namespace Sys2Proof.Machine

/-! ## Operands -/

/-- The flow and the location that a register names (R416). -/
def flowOf (x : Word) : Nat := x.toNat % 16
def locOf (x : Word) : Nat := x.toNat / 256 % 64

/-- The context an instruction counts for. -/
def Env.ctxNo (e : Env) : Nat := (e.s.agentCtx e.ag).getD 0xFF

/-- A location below the flow's NLOC, else BADSPEC (R416). -/
def Env.flowLoc (e : Env) (a : Spec) (k : Nat → Nat → Eff) : Eff :=
  let x := e.read32 a 0
  match e.s.findFlow (keyDie e.ck) e.ctxNo (flowOf x) with
  | some f => if f.nloc ≤ locOf x then e.fault codeBADSPEC a.code 0 else k (flowOf x) (locOf x)
  | none => k (flowOf x) (locOf x)

/-- A TIMEBACK at a time (R185). -/
def Env.timeBack (e : Env) (t : Nat) : Eff := e.fault codeTIMEBACK (t % 2 ^ 32) (t / 2 ^ 32)

/-! ## TIMEW, PCNT and PFLUSH (R417, R419, R420) -/

/-- The issue of TIMEW. -/
def ruleTimew (f : SForm) : Rule :=
  { ruleS 0x1D0 f [useSPair f.a] with atomic := false, team := false }

/-- TIMEW: the task's pointstamp moves forward, and its batches leave. -/
def execTimew (f : SForm) (s : State) : Host.Outcome State Fault Refusal :=
  issue s (ruleTimew f) fun e =>
    match e.th.place.record with
    | none => e.done []
    | some r =>
      let n := e.read64 f.a 0
      if n < r.time then e.timeBack n.toNat
      else
        let c := if n = r.time then (e.s, e.th) else
          let c := e.s.count e.ck e.ctxNo e.th r.flow r.station n false 1
          c.1.count e.ck e.ctxNo c.2 r.flow r.station r.time false (-1)
        let c := c.1.sendAll e.ck c.2 0
        e.out c.1 { c.2 with place := { c.2.place with record := some { r with time := n } } }

/-- The issue of PCNT. -/
def rulePcnt (f : SForm) : Rule :=
  { ruleS 0x1D4 f [useS f.a, useSPair f.b] with core := false, steward := true }

/-- PCNT: a steward's own count in its open batch. -/
def execPcnt (f : SForm) (s : State) : Host.Outcome State Fault Refusal :=
  issue s (rulePcnt f) fun e =>
    e.flowLoc f.a fun fl l =>
      let t := e.read64 f.b 0
      let d := (f.imm.setWidth 16).toInt
      let late := match (e.s.die (keyDie e.ck)).flow e.ctxNo fl with
        | some x => x.failed || aboveO (x.frontier l none) t.toNat
        | none => true
      if decide (0 < d) && late then e.timeBack t.toNat
      else
        let c := e.s.count e.ck e.ctxNo e.th fl l t false d
        e.out c.1 c.2

/-- Whether every replica has acknowledged the last batch an issuer sent for each flow of each context (R183, R420). -/
def State.flushed (s : State) (ck : Nat) (th : Thread) : Bool :=
  th.sentSeq.all fun q => !(s.batches.any fun b => decide (b.ctx * 16 + b.flow = q.1) && decide (b.seq = q.2) && decide (b.sender = keyDie ck + 64 * keyComb ck) && !b.toAck.isEmpty)

/-- The issue of PFLUSH. -/
def rulePflush (f : SForm) : Rule :=
  { ruleS 0x1D5 f [] with steward := true, ends := true }

/-- PFLUSH: the open batches leave with an acknowledgement asked for, and the issuer waits for it. -/
def execPflush (f : SForm) (s : State) : Host.Outcome State Fault Refusal :=
  issue s (rulePflush f) fun e =>
    let c := e.s.sendAll e.ck e.th 1
    if c.1.flushed e.ck c.2 then e.out c.1 c.2 else .wait c.1 { c.2 with wait := .flush }

/-! ## CREST and CWAIT (R418) -/

/-- The code of a crest's test on the issuing die's replica. -/
def Env.crestCode (e : Env) (fl l t : Nat) : Nat :=
  match (e.s.die (keyDie e.ck)).flow e.ctxNo fl with
  | none => 3
  | some x => if x.failed then 2 else if aboveO (x.frontier l none) t then 1 else 0

/-- The issue of CREST. -/
def ruleCrest (f : SForm) : Rule :=
  { ruleS 0x1D1 f [useSD f.d, useS f.a, useSPair f.b] with steward := true }

/-- CREST. -/
def execCrest (f : SForm) (s : State) : Host.Outcome State Fault Refusal :=
  issue s (ruleCrest f) fun e =>
    e.flowLoc f.a fun fl l => e.done (e.write32 f.d false [(0, BitVec.ofNat 32 (e.crestCode fl l (e.read64 f.b 0).toNat))])

/-- The issue of CWAIT. -/
def ruleCwait (f : SForm) : Rule :=
  { ruleS 0x1D2 f [useSD f.d, useS f.a, useSPair f.b] with steward := true, ends := true }

/-- CWAIT: waits while the code is 0; a return of 1 is an acquire at PKG scope. -/
def execCwait (f : SForm) (s : State) : Host.Outcome State Fault Refusal :=
  issue s (ruleCwait f) fun e =>
    e.flowLoc f.a fun fl l =>
      let c := e.crestCode fl l (e.read64 f.b 0).toNat
      if c = 0 then e.block .again
      else .ok ⟨if c = 1 then e.s.dropL1 e.ck else e.s, e.th, e.write32 f.d false [(0, BitVec.ofNat 32 c)], 0, none, .seq⟩

/-! ## CSUB (R413 to R415) -/

/-- A request to a frontier unit, whose answer the issuer waits for. -/
def Env.csubReq (e : Env) (die : Nat) (cancel : Option Nat) (sub : Option Sub) (holds : Bool) : Eff :=
  let u := e.s.nextUid
  .wait ({ e.s with nextUid := u + 1 }.modDie die fun d => { d with csubs := d.csubs ++ [(⟨u, e.ag, cancel, sub, holds, none, e.th.uid⟩ : CsubReq)] })
    { e.th with wait := .answer u }

/-- The answer of a request written to D, or the wait for it, or what sends it. -/
def Env.answered (e : Env) (d : Spec) (k : Unit → Eff) : Eff :=
  match e.th.wait with
  | .answered v => e.done (e.write32 d false [(0, BitVec.ofNat 32 v)])
  | .answer u => e.block (.answer u)
  | _ => k ()

/-- The target of an action: a comb name that names something in the current generation (R18, R20). -/
def Env.subTarget (e : Env) (a : Spec) (name : Nat) (k : Nat → Nat → Eff) : Eff :=
  match e.s.nameRes (keyDie e.ck) name with
  | .nothing => e.fault codeBADSPEC a.code 0
  | .stale => e.fault codeSTALEGEN a.code 0
  | .ok die l => k die l

/-- Where the SPAWN action of a subscription sends its record: SEL 0 is the comb that issued CSUB (R414), SEL 2 the
least loaded comb of a die at the time of delivery, under LCOMB 0xFF. -/
def Env.spawnTarget (e : Env) (a : Spec) (r : TaskRec) (k : Nat → Nat → Eff) : Eff :=
  let d := e.s.die (keyDie e.ck)
  match r.sel with
  | 0 => k (keyDie e.ck) (d.lcomb (keyComb e.ck))
  | 1 => e.subTarget a r.target.toNat k
  | _ =>
    let name := r.target.toNat
    match d.lmap[name % 64]? with
    | none => e.fault codeBADSPEC a.code 0
    | some phys =>
      if name / 2 ^ 10 ≠ 0 then e.fault codeBADSPEC a.code 0
      else if name / 64 % 16 ≠ d.gen.toNat then e.fault codeSTALEGEN a.code 0
      else k phys 0xFF

/-- Whether a subscription record has a reserved value (R413): ACTION 3 is the rings' own (R432). -/
def csubBad (bs : List Byte) : Bool :=
  let at' (o n : Nat) : Nat := leNat ((bs.drop o).take n)
  let ctrl := at' 8 4
  let act := ctrl / 2 ^ 16 % 4
  decide (act = 3) || decide (ctrl / 16 % 16 ≠ 0) || decide (ctrl / 2 ^ 14 % 4 ≠ 0) || decide (ctrl / 2 ^ 18 ≠ 0) ||
  (decide (act = 1) && decide (at' 12 4 ≠ 0)) || (if act = 2 then decide (16 ≤ at' 16 4) else decide (at' 16 4 ≠ 0)) ||
  decide (at' 20 44 ≠ 0)

/-- The issue of CSUB. -/
def ruleCsub (f : SForm) : Rule :=
  { ruleS 0x1D3 f [useSD f.d, useS f.a] with steward := true, atomic := false, ends := true }

/-- CSUB (R415): the record, 128 bytes of it with the SPAWN action, is read and checked before its fields are. -/
def execCsub (f : SForm) (s : State) : Host.Outcome State Fault Refusal :=
  issue s (ruleCsub f) fun e =>
    e.answered f.d fun _ =>
      let x := (e.read32 f.a 0).toNat
      let read (o n : Nat) : List Byte := (List.range n).map fun i => e.s.rawByte (scratchLoc e.ck (x + o + i))
      let bad : Eff := e.fault codeBADSPEC f.a.code 0
      match e.scratchFault 64 64 [(0, x)] with
      | some t => .fault t
      | none =>
        let bs := read 0 64
        let at' (o n : Nat) : Nat := leNat ((bs.drop o).take n)
        let t := at' 0 8
        let fl := at' 8 4 % 16
        let l := at' 8 4 / 256 % 64
        let act := at' 8 4 / 2 ^ 16 % 4
        let flow := e.s.findFlow (keyDie e.ck) e.ctxNo fl
        let high := match flow with
          | some y => decide (y.nloc ≤ l)
          | none => false
        let req (a : SubAction) : Eff :=
          e.csubReq (keyDie e.ck) none (some ⟨e.ctxNo, fl, l, BitVec.ofNat 64 t, a, e.ck, none⟩) (e.th.holds fl)
        match (if act = 1 then e.scratchFault 128 64 [(0, x)] else none) with
        | some g => .fault g
        | none =>
        if csubBad bs || high then bad
        else match act with
          | 0 => e.subTarget f.a (at' 12 4) fun die lc => req (.post die lc)
          | 2 => e.subTarget f.a (at' 12 4) fun die lc => req (.fifo die lc (at' 16 4))
          | _ =>
              let rb := read 64 64
              let r := TaskRec.ofBytes rb
              if e.s.recBad (keyDie e.ck) e.ctxNo rb then bad
              else e.spawnTarget f.a r fun die lc =>
                if r.flow ≠ fl then bad else
                let low := match flow with
                  | some y =>
                    let sm := y.summary l r.station
                    if summValid sm then (match applyS y.widths sm t with
                      | some b => decide (r.time.toNat < b)
                      | none => true) else true
                  | none => false
                let back := match flow with
                  | some y => e.th.timeBack y l t
                  | none => false
                if low then e.timeBack r.time.toNat
                else if back then e.timeBack t
                else req (.spawn r die lc)

/-- The issue of CSUBCANCEL. -/
def ruleCsubCancel (f : SForm) : Rule :=
  { ruleS 0x1D3 f [useSD f.d, useS f.a] with steward := true, atomic := false, ends := true }

/-- CSUB.cancel (R415): at the die that the handle names. -/
def execCsubCancel (f : SForm) (s : State) : Host.Outcome State Fault Refusal :=
  issue s (ruleCsubCancel f) fun e =>
    e.answered f.d fun _ =>
      let h := (e.read32 f.a 0).toNat
      let d := e.s.die (keyDie e.ck)
      match d.lmap[h / 256 % 64]? with
      | none => e.fault codeBADSPEC f.a.code 0
      | some phys =>
        if h / 2 ^ 18 ≠ 0 then e.fault codeBADSPEC f.a.code 0
        else if h / 2 ^ 14 % 16 ≠ d.gen.toNat then e.fault codeSTALEGEN f.a.code 0
        else e.csubReq phys (some (h % 256)) none false

/-! ## PSWR (R402, R403) -/

/-- Whether a frontier unit holds a nonzero count or an armed subscription of a flow. -/
def Die.holdsFlow (d : Die) (ctx f : Nat) : Bool :=
  (match d.flow ctx f with
    | some x => !x.failed && (!x.counts.isEmpty || !x.spilled.isEmpty)
    | none => false) || d.subs.any fun b => decide (b.2.ctx = ctx) && decide (b.2.flow = f)

/-- The status of loading a flow: 0, or why it is refused (R403). -/
def State.flowStatus (s : State) (bs : List Byte) (f : Flow) : Nat :=
  if badImage bs then 1
  else match f.badPair with
    | some (m, l) => 2 + m * 2 ^ 8 + l * 2 ^ 16
    | none =>
      let active := s.liveDies.any fun d => match (s.die d).flow f.ctx f.num with
        | some x => !x.failed
        | none => false
      if active && s.liveDies.any fun d => (s.die d).holdsFlow f.ctx f.num then 3
      else if f.dieset.isEmpty || f.dieset.any fun d => !(s.die d).live then 4
      else if f.dieset.any fun d => decide (64 ≤ ((s.die d).flows.filter fun x => !(decide (x.ctx = f.ctx) && decide (x.num = f.num))).length) then 5
      else 0

/-- The senders of a flow's batches, each with the SEQ of its next one. -/
def State.flowSenders (s : State) (ctx f : Nat) : List (Nat × Nat) :=
  let key := ctx * 16 + f
  (s.combs.filterMap fun c => (Sparse.find? c.2.seqOut key).map fun n => (keyDie c.1 + 64 * keyComb c.1, n)) ++
  s.dies.filterMap fun d => (Sparse.find? d.2.seqOut key).map fun n => (d.1 + 64 * 0xFF, n)

/-- A flow installed at once on every frontier unit of its die set, in the place of what any unit held of it. It starts from the
counts of its image alone: what was sent for it before counts nowhere, and each unit takes a sender's batches up from the one it
sends next (R398, R403; what is still on its way: DESIGN CHOICE, log entry 41). -/
def State.installFlow (s : State) (f : Flow) : State :=
  let from' := s.flowSenders f.ctx f.num
  let s : State := { s with batches := s.batches.filter fun b => !(decide (b.ctx = f.ctx) && decide (b.flow = f.num)) }
  s.liveDies.foldl (fun s d => s.modDie d fun x =>
    let rest := x.flows.filter fun y => !(decide (y.ctx = f.ctx) && decide (y.num = f.num))
    { x with flows := if f.dieset.contains d then rest ++ [f] else rest, subs := x.subs.filter fun b => !(decide (b.2.ctx = f.ctx) && decide (b.2.flow = f.num)),
             applied := from'.foldl (fun m n => Sparse.set 0 m ((f.ctx * 16 + f.num) * 2 ^ 16 + n.1) n.2) x.applied }) s

/-- The issue of PSWR. -/
def rulePswr (f : SForm) : Rule :=
  { rulePriv 0x1A2 f [useSD f.d, useSPair f.a, useS f.b] with ends := true, mem := true, byFields := false }

/-- PSWR (R403): the image is read, checked and installed, and every die acknowledges. -/
def execPswr (f : SForm) (s : State) : Host.Outcome State Fault Refusal :=
  issue s (rulePswr f) fun e =>
    match e.th.wait with
    | .answered v => e.done (e.write32 f.d false [(0, BitVec.ofNat 32 v)])
    | .answer u => e.block (.answer u)
    | _ =>
      let va := (e.read64 f.a 0).toNat
      let dalign : Eff := .fault ⟨codeDALIGN, e.th.em, va % 2 ^ 32, va / 2 ^ 32⟩
      match e.laneAccs .read (fun _ => 4160) 1 false [(0, va)] with
      | .error t => if t.cause = codeDERR ∧ va % 64 ≠ 0 then dalign else .fault t
      | .ok as =>
        if va % 64 ≠ 0 then dalign
        else
          let locs := as.flatMap (·.locs)
          if e.s.stores.any fun st => decide (st.agentUid = e.th.uid) && overlaps st.locs locs then e.block .again
          else
            let bs := locs.map e.s.byteNow
            let fl := Flow.ofImage e.ctxNo ((e.read32 f.b 0).toNat % 16) bs
            let st := e.s.flowStatus bs fl
            let s := e.s.noteAccs e.ck e.ctxNo .read as
            if st = 0 then { e with s := s.installFlow fl }.broadcast (.flow fl) fun v => e.done (e.write32 f.d false [(0, BitVec.ofNat 32 v)])
            else .ok ⟨s, e.th, e.write32 f.d false [(0, BitVec.ofNat 32 st)], 0, none, .seq⟩

end Sys2Proof.Machine
end

