-- ==== Sys2Proof/Machine/Rings.lean ====
section
/-! DEFINITION. Reduction trees and the waggle ring: major 0x1E, the rounds of a tree and the steps of a ring (R425 to
R438).
Model's choices in this file: log entries 24, 41. -/

namespace Sys2Proof.Machine

/-! ## Reduction trees (R425 to R430) -/

/-- The neighbour of a die in a direction, 1 N, 2 E, 3 S, 4 W (R10). -/
def neighbour (die dir : Nat) : Option Nat :=
  match dir with
  | 1 => if 6 ≤ die then some (die - 6) else none
  | 2 => if die % 6 < 5 then some (die + 1) else none
  | 3 => if die < 30 then some (die + 6) else none
  | 4 => if 0 < die % 6 then some (die - 1) else none
  | _ => none

/-- The direction back. -/
def opposite (dir : Nat) : Nat := (dir + 1) % 4 + 1

/-- The tree of a number on a die. -/
def State.tree (s : State) (die t : Nat) : Option Tree := Sparse.find? (s.die die).trees t

/-- A tree of a die replaced. -/
def State.setTree (s : State) (die t : Nat) (x : Tree) : State := s.modDie die fun d => { d with trees := Sparse.put d.trees t x }

/-- The atomic operation that combines as OP and TYPE say (R425, R427). -/
def combineOp (op ty : Nat) : Nat :=
  let k := match Ty.ofCode ty with
    | some .f32 => 2
    | some .u32 => 1
    | _ => 0
  match op with
  | 0 => if k = 2 then 11 else 0
  | 1 => if k = 2 then 12 else 1 + k
  | 2 => if k = 2 then 13 else 3 + k
  | n => n + 2

/-- Two contributions combined element by element. -/
def Tree.combine (t : Tree) (a b : List Word) : List Word :=
  (a.zip b).map fun x => BitVec.ofNat 32 (atomNew (combineOp t.op t.ty) 32 x.1.toNat x.2.toNat)

/-- Whether an input of a round has arrived from a direction. -/
def Tree.has (t : Tree) (dir r : Nat) : Bool := t.inputs.any fun x => decide (x.dir = dir) && decide (x.round = r)

/-- The inputs of a round in the order LOCAL, N, E, S, W; those without contributions are left out. -/
def Tree.ordered (t : Tree) (r : Nat) : List (List Word × Nat) :=
  (List.range 5).filterMap fun k => (t.inputs.find? fun x => decide (x.dir = k) && decide (x.round = r) && decide (0 < x.n)).map fun x => (x.words, x.n)

/-- The partial of a round and its contributions: the inputs folded in order, the first standing alone (R427). -/
def Tree.partialOf (t : Tree) (r : Nat) : List Word × Nat :=
  match t.ordered r with
  | [] => ([], 0)
  | x :: xs => xs.foldl (fun a y => (t.combine a.1 y.1, a.2 + y.2)) x

/-- The round of which a node forms a partial next: the lowest of which it holds an input, once the result of the last one has
come. -/
def Tree.next (t : Tree) : Option Nat :=
  match t.sent, t.inputs with
  | none, x :: xs => some (xs.foldl (fun r y => Nat.min r y.round) x.round)
  | _, _ => none

/-- Whether any die of the subtree below a die contributes: one with the LOCAL bit. -/
def State.contributes (s : State) (t : Nat) : Nat → Nat → Bool
  | 0, _ => false
  | n + 1, d =>
    match s.tree d t with
    | none => false
    | some x => x.mask.testBit 0 || [1, 2, 3, 4].any fun k => x.mask.testBit k && (neighbour d k).any fun c => s.contributes t n c

/-- Whether every input that MASK names has arrived. A child whose subtree has no contributor sends none, and is not waited for
(DESIGN CHOICE, log entry 41). -/
def State.treeFull (s : State) (die t : Nat) (x : Tree) (r : Nat) : Bool :=
  (List.range 5).all fun k => !x.mask.testBit k || x.has k r || (decide (k ≠ 0) && !(neighbour die k).any fun c => s.contributes t 36 c)

/-- The combs of a die that hold anything. -/
def State.combsOf (s : State) (die : Nat) : List Nat := (s.combs.map (·.1)).filter fun ck => decide (keyDie ck = die)

/-- The NRED of a die outstanding on a tree: its comb and its operation. -/
def State.nredOf (s : State) (die t : Nat) : Option (Nat × AsyncOp) :=
  (s.combsOf die).findSome? fun ck => ((s.comb ck).ops.find? fun o => match o.kind with
    | .nred t' _ _ _ _ _ => decide (t' = t)
    | _ => false).map fun o => (ck, o)

/-- The issue of NRED. -/
def ruleNred (f : SForm) : Rule :=
  { ruleS 0x1E0 f [useSD f.d, useS f.a, useS f.b] with atomic := false, cls := some 2 }

/-- NRED (R428). -/
def execNred (f : SForm) (s : State) : Host.Outcome State Fault Refusal :=
  issue s (ruleNred f) fun e =>
    let die := keyDie e.ck
    let t := f.imm.toNat % 16
    let exp : Eff := .fault ⟨codeNREDEXP, e.th.em, t, 0⟩
    match e.s.tree die t with
    | none => exp
    | some x =>
      if decide (x.ctx ≠ e.ctxNo) || !x.mask.testBit 0 || (e.s.nredOf die t).isSome then exp
      else
        let n := (4 * x.count + 127) / 128 * 128
        let a := (e.read32 f.a 0).toNat
        let b := (e.read32 f.b 0).toNat
        match e.scratchFault n 128 [(0, a), (0, b)] with
        | some g => .fault g
        | none =>
          let dst := if f.d.kind = .sink then none else some f.d.code
          let s := e.s.setTree die t { x with round := (x.round + 1) % 2 ^ 32 }
          let r := e.async s e.th 2 1 (some 1) (.nred t x.round a b dst none) (match dst with
            | some d => [(d, [0])]
            | none => [])
          e.out r.1 r.2

/-- The local input of a die's open round, once its release is complete and its contribution has not gone yet. -/
def State.takeLocal (s : State) (die t : Nat) (x : Tree) : Tree :=
  match s.nredOf die t with
  | none => x
  | some (ck, o) =>
    match o.kind with
    | .nred _ r src _ _ none =>
      if x.has 0 r || !s.releaseDone ck o.ownerUid 1 o.uid then x
      else
        let words := (List.range x.count).map fun k => BitVec.ofNat 32 (leNat (s.getScratch ck (src + 4 * k) 4))
        { x with inputs := x.inputs ++ [⟨0, r, words, 1⟩] }
    | _ => x

/-- REDUCTION_PARTIAL (R427): a node takes its local input, and with every input of a round there sends its partial to its parent;
the root's is the result. It keeps the inputs until the result has come, as a change of the tree may send it anew (R429). -/
def execReductionPartial (die t : Nat) (s : State) : Host.Outcome State Fault Refusal :=
  match s.tree die t with
  | none => .next s
  | some x =>
    let x := s.takeLocal die t x
    match x.next with
    | none => .next (s.setTree die t x)
    | some r =>
      if s.treeFull die t x r then
        let p := x.partialOf r
        let x' := { x with sent := some r }
        if x.parent = 0 then .next (s.setTree die t { x' with result := some (r, p) })
        else
          let s := s.setTree die t x'
          match (neighbour die x.parent).bind fun d => (s.tree d t).map fun y => (d, y) with
          | some (d, y) => .next (s.setTree d t { y with inputs := y.inputs ++ [⟨opposite x.parent, r, p.1, p.2⟩] })
          | none => .next s
      else .next (s.setTree die t x)

/-- An NRED ends with a status. -/
def State.endNred (s : State) (ck : Nat) (o : AsyncOp) (status : Nat) : State :=
  match o.kind with
  | .nred t r a b d _ => s.modComb ck fun c => c.setOp { o with kind := .nred t r a b d (some status) }
  | _ => s

/-- A node of a round whose result has come: it holds nothing of the round any more. -/
def Tree.finish (x : Tree) (r : Nat) : Tree :=
  { x with inputs := x.inputs.filter (fun i => decide (i.round ≠ r)), sent := if x.sent = some r then none else x.sent, result := none }

/-- REDUCTION_RESULT (R427, R428): a node writes the result at its NRED's destination and passes it to its children. -/
def execReductionResult (die t : Nat) (s : State) : Host.Outcome State Fault Refusal :=
  match s.tree die t with
  | none => .next s
  | some x =>
    match x.result with
    | none => .next s
    | some (r, ws, n) =>
      let s := match s.nredOf die t with
        | some (ck, o) =>
          match o.kind with
          | .nred _ r' _ b _ none =>
            if r' = r then (s.putScratch ck b (ws.flatMap fun (w : Word) => leBytes 4 w.toNat)).endNred ck o n else s
          | _ => s
        | none => s
      let s := s.setTree die t (x.finish r)
      .next ([1, 2, 3, 4].foldl (fun s k =>
        if x.mask.testBit k then
          match (neighbour die k).bind fun d => (s.tree d t).map fun y => (d, y) with
          | some (d, y) => s.setTree d t { y with result := some (r, ws, n) }
          | none => s
        else s) s)

/-- The rounds of a tree under way on some dies: those of which one holds an input, has forwarded its partial, or has an NRED
outstanding. -/
def State.treeRounds (s : State) (dies : List Nat) (t : Nat) : List Nat :=
  (dies.flatMap fun d =>
    (match s.tree d t with
      | some x => ((x.inputs.filter fun i => decide (0 < i.n)).map (·.round)) ++ x.sent.toList
      | none => []) ++
    (match s.nredOf d t with
      | some (_, o) => (match o.kind with
        | .nred _ r _ _ _ none => [r]
        | _ => [])
      | none => [])).eraseDups

/-- The open ones: those whose result is not on its way (R429, R430). -/
def State.openRounds (s : State) (dies : List Nat) (t : Nat) : List Nat :=
  (s.treeRounds dies t).filter fun r => !dies.any fun d => (s.tree d t).any fun x => x.result.any fun y => y.1 = r

/-- A round of a tree aborts (R430): its NREDs end with status 0x80000000, NREDFAIL goes to each comb that issued one, its
partials are discarded, and every live node goes on with the next round. -/
def State.abortRound (s : State) (t r : Nat) : State :=
  s.liveDies.foldl (fun s d =>
    let s := match s.nredOf d t with
      | some (ck, o) =>
        match o.kind with
        | .nred _ r' _ _ _ none =>
          if r' = r then (s.endNred ck o 0x80000000).sendRecord ck o.ctx (evRec 0x0B (some o.ctx) 0xFF t r 0 true) else s
        | _ => s
      | none => s
    match s.tree d t with
    | some x => s.setTree d t { x with inputs := x.inputs.filter (fun i => decide (i.round ≠ r)), sent := if x.sent = some r then none else x.sent, round := if x.round = r then (r + 1) % 2 ^ 32 else x.round }
    | none => s) s

/-- Every open round of a context's trees aborts, at a freeze (R430). -/
def State.abortRounds (s : State) (ctx : Nat) : State :=
  (List.range 16).foldl (fun s t =>
    if s.liveDies.any fun d => match s.tree d t with
      | some x => decide (x.ctx = ctx)
      | none => false then (s.openRounds s.liveDies t).foldl (fun s r => s.abortRound t r) s else s) s

/-! ## The ring of a die (R431 to R434) -/

/-- A ring of a context on a die. -/
def Die.ring (d : Die) (ctx num : Nat) : Option Ring := d.rings.find? fun r => decide (r.ctx = ctx) && decide (r.num = num)

/-- The ring of a key and context on a die: a peer's side of a ring. -/
def Die.ringOf (d : Die) (key ctx : Nat) : Option Ring := d.rings.find? fun r => decide (r.ctx = ctx) && decide (r.key = key)

/-- A ring of a die replaced. -/
def State.setRing (s : State) (die : Nat) (r : Ring) : State :=
  s.modDie die fun d => { d with rings := d.rings.map fun x => if x.ctx = r.ctx ∧ x.num = r.num then r else x }

/-- T(s), the slot of a step, whether it is an origin step, and whether it is forwarded (R431, R434). -/
def Ring.time (r : Ring) (n : Nat) : DWord := r.t0 + BitVec.ofNat 64 (n * 2 ^ r.pk)
def Ring.slotVa (r : Ring) (n : Nat) : Nat := r.base + n % r.slots * r.bytes
def Ring.origin (r : Ring) (n : Nat) : Bool := decide (n % r.members = 0)
def Ring.forwards (r : Ring) (n : Nat) : Bool := decide (n + 1 < r.nstep) && !r.origin (n + 1)

/-- Whether a peer is a fabric port. -/
def isPort (peer : Nat) : Bool := decide (2 ^ 31 ≤ peer)

/-- Whether a ring may act with a peer. -/
def Ring.reaches (r : Ring) (peer : Nat) : Bool := !r.stopped && !r.lost.contains peer

/-- A ring's counts, sent at once as one batch of the comb that created it (R433). -/
def State.ringCounts (s : State) (die : Nat) (r : Ring) (es : List (Nat × Int)) : State :=
  match es.foldl (fun l e => mergeEnt l ⟨r.loc, r.time e.1, false, e.2⟩) [] with
  | [] => s
  | l => (s.sendBatch die r.comb r.ctx r.flow 0 l).1

/-- A RINGEVT record to the comb that created the ring (R437). -/
def State.ringEvent (s : State) (die : Nat) (r : Ring) (code : Nat) (step : Word) : State :=
  s.sendRecord (combKey die r.comb) r.ctx (evRec 0x0A (some r.ctx) 0xFF (r.num + code * 256) step.toNat r.idx true)

/-- The last finished step. Before the first one finishes the spec states no value: it is free
(DESIGN CHOICE, log entry 41). -/
def State.lastStep (s : State) (r : Ring) : Word :=
  if r.lo = 0 then Config.freeWord (s.freeN * 2 ^ 16) else BitVec.ofNat 32 (r.lo - 1)

/-- The entries of the steps that are present in step order (R433). -/
def State.ringPresent (s : State) (die : Nat) : Nat → Ring → State × Ring
  | 0, r => (s, r)
  | fuel + 1, r =>
    let n := r.counted
    if r.present.contains n then
      let es : List (Nat × Int) := [(n, (r.cons : Int))] ++ (if r.forwards n then [(n, 1)] else []) ++ [(n, -1)] ++
        (if n + 1 < r.nstep then [(n + 1, 1)] else [])
      (s.ringCounts die r es).ringPresent die fuel { r with counted := n + 1 }
    else (s, r)

/-- A step becomes present. -/
def State.stepPresent (s : State) (die : Nat) (r : Ring) (n : Nat) : State :=
  let p := s.ringPresent die (r.present.length + 1) { r with present := r.present ++ [n] }
  p.1.setRing die p.2

/-- A grant sent to the predecessor: it waits at that die for its ring, in one of 64 places, or is refused (R434). One
to another package leaves through its port. -/
def State.sendGrant (s : State) (die : Nat) (r : Ring) (n : Nat) : State :=
  if isPort r.pred || !r.reaches r.pred || !(s.die r.pred).live then s
  else
    let p := s.die r.pred
    let k := r.key * 256 + r.ctx
    let waiting := (p.grantsWaiting.filter fun g => (p.ringOf (g.1 / 256) (g.1 % 256)).isNone).length
    if (p.ringOf r.key r.ctx).isSome ∨ waiting < 64 then s.modDie r.pred fun d => { d with grantsWaiting := d.grantsWaiting ++ [(k, n)] }
    else
      match (s.die die).ring r.ctx r.num with
      | some r => s.setRing die { r with refused := r.refused ++ [n] }
      | none => s

/-- The grants a new ring gives: steps 1 to K − 1 (R432). -/
def State.firstGrants (s : State) (die : Nat) (r : Ring) : State :=
  ((List.range r.slots).filter fun n => decide (0 < n) && decide (n < r.nstep)).foldl (fun s n => s.sendGrant die r n) s

/-- Steps whose crest has fired finish in step order: each frees its slot and grants step s + K (R433, R434). -/
def State.ringFinish (s : State) (die ctx num : Nat) : Nat → State
  | 0 => s
  | fuel + 1 =>
    match (s.die die).ring ctx num with
    | none => s
    | some r =>
      match (s.die die).flow ctx r.flow with
      | none => s
      | some fl =>
        if r.lo < r.counted ∧ fl.complete r.loc (r.time r.lo).toNat then
          let n := r.lo
          let r' := { r with lo := n + 1, present := r.present.filter (fun x => decide (x ≠ n)), dones := Sparse.erase r.dones n }
          let s := s.setRing die r'
          let s := if n + r.slots < r.nstep ∧ r.origin (n + r.slots) = false then s.sendGrant die r' (n + r.slots) else s
          let s := if n + 1 = r.nstep then s.ringEvent die r' 3 (BitVec.ofNat 32 n) else s
          s.ringFinish die ctx num fuel
        else s

/-- A ring ends because a slot is not mapped (R438). -/
def State.ringLost (s : State) (die : Nat) (r : Ring) : State :=
  { (s.ringEvent die r 2 (s.lastStep r)).setRing die { r with stopped := true } with freeN := s.freeN + 1 }

/-! ## WRING (R431, R432) -/

/-- The ring record's fields. -/
def ringRec (e : Env) (x : Nat) : List Byte := (List.range 64).map fun i => e.s.rawByte (scratchLoc e.ck (x + i))

/-- A peer field: a physical die or a port, or what is wrong with it: 0 outside its limits, 1 stale (R431). -/
def ringPeer (s : State) (die x : Nat) : Except Nat Nat :=
  if x / 2 ^ 31 = 1 then (if 48 ≤ x % 2 ^ 31 then .error 0 else .ok x)
  else
    let d := s.die die
    if 2 ^ 10 ≤ x then .error 0
    else match d.lmap[x % 64]? with
      | none => .error 0
      | some phys => if x / 64 ≠ d.gen.toNat then .error 1 else .ok phys

/-- Whether the ring tensor lies wholly in NORMAL LOCAL pages homed on the die. -/
def State.ringTensor (s : State) (ck ctx base len : Nat) : Bool :=
  ((List.range (len / 2 ^ 16 + 1)).map (fun k => base + Nat.min (k * 2 ^ 16) (len - 1)) ++ [base + len - 1]).all fun va =>
    match s.translate ck (some ctx) va .read with
    | .ok l => decide (l.place = 0) && decide (l.mtype = 0) && decide (locDie l.frame = keyDie ck)
    | .error _ => false

/-- The entries of a die's subscription table that are taken: armed, or reserved by a ring. -/
def Die.subTaken (d : Die) (n : Nat) : Bool := (Sparse.find? d.subs n).isSome || d.rings.any fun r => r.sub = n

/-- The lowest free entry of the table (R413). -/
def Die.freeSub (d : Die) : Option Nat := (List.range 256).find? fun n => !d.subTaken n

/-- Where a fabric port lies (R453): its die, the outward edge as a direction of R213, and k, 0 for the western or northern one of
the edge. -/
def fabricPort (p : Nat) : Nat × Nat × Nat :=
  if p < 12 then (p / 2, 1, p % 2)
  else if p < 24 then (6 * ((p - 12) / 2) + 5, 2, p % 2)
  else if p < 36 then (30 + (5 - (p - 24) / 2), 3, p % 2)
  else (6 * (5 - (p - 36) / 2), 4, p % 2)

/-- The ports of a die. -/
def portsOf (die : Nat) : List Nat := (List.range 48).filter fun p => (fabricPort p).1 = die

/-- Whether a fabric port may be named: ports are accepted (R452), and this one is up, on a live die (R453). -/
def State.portOk (s : State) (peer : Nat) : Bool :=
  !isPort peer || (s.feature 1 && !s.hive.portDown.contains (peer % 2 ^ 31) && (s.die (fabricPort (peer % 64)).1).live)

/-- The ring of a record of the issuer's, without its peers and its subscription (R431, R432). -/
def Env.ringOf (e : Env) (num : Nat) (bs : List Byte) : Ring :=
  let at' (o n : Nat) : Nat := leNat ((bs.drop o).take n)
  let ctrl := at' 32 4
  let widths := match e.s.findFlow (keyDie e.ck) e.ctxNo (ctrl % 16) with
    | some y => y.widths
    | none => []
  { ctx := e.ctxNo, num := num, comb := keyComb e.ck, key := at' 0 4, members := at' 4 1, idx := at' 5 1, slots := at' 6 1, cons := at' 7 1, bytes := at' 8 4, nstep := at' 12 4, base := at' 16 8, t0 := BitVec.ofNat 64 (at' 24 8), flow := ctrl % 16, loc := ctrl / 256 % 64, pk := pOf widths (ctrl / 2 ^ 16 % 4), succ := 0, pred := 0, sub := 0, present := [], counted := 0, lo := 0, dones := [], grants := [], forwarded := [], posted := [], inbound := [], refused := [], lost := [], stopped := false }

/-- Whether a ring record breaks a limit of R431. -/
def ringBad (bs : List Byte) (r : Ring) : Bool :=
  let at' (o n : Nat) : Nat := leNat ((bs.drop o).take n)
  let ctrl := at' 32 4
  decide (r.members < 2) || decide (64 < r.members) || decide (r.members ≤ r.idx) || decide (r.slots < 2) ||
    decide (8 < r.slots) || decide (r.cons = 0) || decide (r.bytes % 1024 ≠ 0) || decide (r.bytes = 0) || decide (2 ^ 22 < r.bytes) ||
    decide (r.nstep = 0) || decide (2 ^ 20 < r.nstep) || decide (r.base % 128 ≠ 0) || decide (ctrl / 16 % 16 ≠ 0) ||
    decide (ctrl / 2 ^ 14 % 4 ≠ 0) || decide (ctrl / 2 ^ 18 ≠ 0) || decide (at' 44 20 ≠ 0)

/-- Whether the times of a ring leave the coordinate they advance (R431). -/
def Env.ringLeaves (e : Env) (bs : List Byte) (r : Ring) : Bool :=
  match e.s.findFlow (keyDie e.ck) e.ctxNo r.flow with
  | none => false
  | some y =>
    let w := 2 ^ (r.pk + y.widths.getD (leNat ((bs.drop 32).take 4) / 2 ^ 16 % 4) 0)
    decide (w ≤ r.t0.toNat % w + (r.nstep - 1) * 2 ^ r.pk)

/-- Why WRING makes no ring of a sound record: the code of R432, in its order. -/
def Env.ringCode (e : Env) (r : Ring) (su pr : Nat) : Nat :=
  let d := e.s.die (keyDie e.ck)
  if (d.ring r.ctx r.num).isSome then 1
  else if decide (32 ≤ d.rings.length) || d.freeSub.isNone then 2
  else if !(match d.flow r.ctx r.flow with
    | some y => !y.failed && decide (r.loc < y.nloc)
    | none => false) then 3
  else if !e.s.ringTensor e.ck r.ctx r.base (r.slots * r.bytes) then 4
  else if !e.s.portOk su || !e.s.portOk pr then 5
  else 0

/-- The ring set up: its hold is counted, and its subscription asked for (R432). -/
def Env.ringStart (e : Env) (r : Ring) : Eff :=
  let die := keyDie e.ck
  let b := e.s.sendBatch die r.comb r.ctx r.flow 0 [⟨r.loc, r.t0, false, 1⟩]
  let u := b.1.nextUid
  let key := (r.ctx * 16 + r.flow) * 2 ^ 16 + (die + 64 * r.comb)
  let q : CsubReq := ⟨u, e.ag, none, some ⟨r.ctx, r.flow, r.loc, r.t0, .ring r.num, e.ck, none⟩, false, some (r.sub, key, b.2), e.th.uid⟩
  .wait ({ b.1 with nextUid := u + 1 }.modDie die fun d => { d with rings := d.rings ++ [r], csubs := d.csubs ++ [q] })
    { e.th with wait := .answer u }

/-- The issue of WRING. -/
def ruleWring (f : SForm) : Rule :=
  { ruleS 0x1E1 f [useSD f.d, useS f.a] with steward := true, atomic := false, ends := true }

/-- WRING (R432). -/
def execWring (f : SForm) (s : State) : Host.Outcome State Fault Refusal :=
  issue s (ruleWring f) fun e =>
    e.answered f.d fun _ =>
      let die := keyDie e.ck
      let x := (e.read32 f.a 0).toNat
      match e.scratchFault 64 64 [(0, x)] with
      | some g => .fault g
      | none =>
        let bs := ringRec e x
        let r := e.ringOf (f.imm.toNat % 8) bs
        let peer (o : Nat) : Except Nat Nat := ringPeer e.s die (leNat ((bs.drop o).take 4))
        match peer 36, peer 40 with
        | .error 0, _ => e.fault codeBADSPEC f.a.code 0
        | _, .error 0 => e.fault codeBADSPEC f.a.code 0
        | succ, pred =>
          if ringBad bs r || e.ringLeaves bs r then e.fault codeBADSPEC f.a.code 0
          else match succ, pred with
          | .ok su, .ok pr =>
            let n := e.ringCode r su pr
            if n ≠ 0 then e.done (e.write32 f.d false [(0, BitVec.ofNat 32 n)])
            else e.ringStart { r with succ := su, pred := pr, sub := (e.s.die die).freeSub.getD 0 }
          | _, _ => e.fault codeSTALEGEN f.a.code 0

/-- The WPOSTs of a ring that are still to come end with it. -/
def State.dropPosts (s : State) (die : Nat) (r : Ring) : State :=
  (s.combsOf die).foldl (fun s ck => s.modComb ck fun c => { c with ops := c.ops.map fun o =>
    match o.kind with
    | .wpost n st src sc _ => if o.ctx = r.ctx ∧ n = r.num then { o with kind := .wpost n st src sc true } else o
    | _ => o }) s

/-- The counts a ring still has: the hold, what its present steps wait for, and, of steps present before an earlier one, the −1s
that have gone ahead of their +1s (R432, R433). -/
def Ring.remaining (r : Ring) : List (Nat × Int) :=
  (if r.counted < r.nstep then [(r.counted, (-1 : Int))] else []) ++
  ((r.present.filter fun n => decide (r.counted ≤ n)).map fun n =>
    (n, ((Sparse.get 0 r.dones n : Nat) : Int) + (if r.forwarded.contains n then 1 else 0))) ++
  ((List.range r.counted).filter fun n => decide (r.lo ≤ n)).flatMap fun n =>
    [(n, ((Sparse.get 0 r.dones n : Nat) : Int) - (r.cons : Int))] ++ (if r.forwards n && !r.forwarded.contains n then [(n, (-1 : Int))] else [])

/-- The issue of WRINGCLOSE. -/
def ruleWringClose (f : SForm) : Rule :=
  { ruleS 0x1E1 f [useSD f.d] with steward := true, atomic := false, ends := true }

/-- WRING.close (R432). -/
def execWringClose (f : SForm) (s : State) : Host.Outcome State Fault Refusal :=
  issue s (ruleWringClose f) fun e =>
    let die := keyDie e.ck
    match (e.s.die die).ring e.ctxNo (f.imm.toNat % 8) with
    | none => e.done (e.write32 f.d false [(0, 1)])
    | some r =>
      let s := (e.s.ringCounts die r r.remaining).ringEvent die r 1 (e.s.lastStep r)
      let s := (s.dropPosts die r).modDie die fun d => { d with rings := d.rings.filter (fun x => !(decide (x.ctx = r.ctx) && decide (x.num = r.num))), subs := Sparse.erase d.subs r.sub }
      .ok ⟨s, e.th, e.write32 f.d false [(0, 0)], 0, none, .seq⟩

/-! ## WPOST, WTAKE and WDONE (R435, R436) -/

/-- A RINGSEQ of a ring and a step. -/
def Env.ringSeq (e : Env) (num step : Nat) : TrapInfo := ⟨codeRINGSEQ, e.th.em, num, step⟩

/-- The issue of WPOST. -/
def ruleWpost (f : SForm) : Rule :=
  let sc := f.sub.getLsbD 0
  { ruleS 0x1E2 f [if sc then useS f.a else useSPair f.a, useS f.b] with atomic := false, cls := some 2 }

/-- A range cut at the boundaries of 128 bytes: addresses and lengths. -/
def sectorsOf (va n : Nat) : List (Nat × Nat) :=
  (List.range (n / 128 + 2)).filterMap fun k =>
    let lo := Nat.max va ((va / 128 + k) * 128)
    let hi := Nat.min (va + n) ((va / 128 + k + 1) * 128)
    if lo < hi then some (lo, hi - lo) else none

/-- WPOST (R435): its whole source is checked at issue, sector by sector. -/
def execWpost (f : SForm) (s : State) : Host.Outcome State Fault Refusal :=
  let sc := f.sub.getLsbD 0
  issue s (ruleWpost f) fun e =>
    let die := keyDie e.ck
    let num := f.imm.toNat % 8
    let n := (e.read32 f.b 0).toNat
    match (e.s.die die).ring e.ctxNo num with
    | none => .fault (e.ringSeq num 0xFFFFFFFF)
    | some r =>
      if decide (r.nstep ≤ n) || !r.origin n || r.posted.contains n then .fault (e.ringSeq num n)
      else
        let src := if sc then (e.read32 f.a 0).toNat else (e.read64 f.a 0).toNat
        let go (s : State) : Eff :=
          let s := s.setRing die { r with posted := r.posted ++ [n] }
          let q := e.async s e.th 2 3 (some 3) (.wpost num n src sc false) []
          e.out q.1 q.2
        if sc then
          match e.scratchFault r.bytes 1 [(0, src)] with
          | some g => .fault g
          | none => go e.s
        else
          let parts := sectorsOf src r.bytes
          match e.laneAccs .read (fun k => (parts.getD k (0, 0)).2) 1 false ((List.range parts.length).zip (parts.map (·.1))) with
          | .error g => .fault g
          | .ok as => go (e.s.noteAccs e.ck e.ctxNo .read as)

/-- The issue of WTAKE. -/
def ruleWtake (f : SForm) : Rule :=
  { ruleS 0x1E3 f [⟨f.d, 2, 2, true, [.s]⟩, useS f.a] with stream := true, atomic := false, ends := true }

/-- WTAKE (R436): an acquire at SYS scope. -/
def execWtake (f : SForm) (s : State) : Host.Outcome State Fault Refusal :=
  issue s (ruleWtake f) fun e =>
    let num := f.imm.toNat % 8
    let n := (e.read32 f.a 0).toNat
    match (e.s.die (keyDie e.ck)).ring e.ctxNo num with
    | none => .fault (e.ringSeq num 0xFFFFFFFF)
    | some r =>
      if n < r.lo ∨ Nat.min (r.lo + r.slots) r.nstep ≤ n then .fault (e.ringSeq num n)
      else if r.present.contains n then
        .ok ⟨e.s.dropL1 e.ck, e.th, e.write64 f.d [(0, BitVec.ofNat 64 (r.slotVa n))], 0, none, .seq⟩
      else e.block .again

/-- Whether a WDONE of a step is out of sequence (R436). -/
def Ring.doneBad (r : Ring) (n : Nat) : Bool :=
  decide (n < r.lo) || decide (r.lo + r.slots ≤ n) || !r.present.contains n || decide (r.cons ≤ Sparse.get 0 r.dones n)

/-- The effect of a WDONE: one consumption, and −1 at T(s). -/
def State.wdone (s : State) (die : Nat) (r : Ring) (n : Nat) : State :=
  (s.ringCounts die r [(n, -1)]).setRing die { r with dones := Sparse.put r.dones n (Sparse.get 0 r.dones n + 1) }

/-- The issue of WDONE. -/
def ruleWdone (f : SForm) : Rule :=
  { ruleS 0x1E4 f [useS f.a] with stream := true, atomic := false }

/-- WDONE (R436): after the group's LD and CP operations, as a release at PKG scope; a stream's follows every pass
posted before it. -/
def execWdone (f : SForm) (s : State) : Host.Outcome State Fault Refusal :=
  issue s (ruleWdone f) fun e =>
    let die := keyDie e.ck
    let num := f.imm.toNat % 8
    let n := (e.read32 f.a 0).toNat
    let c := e.s.comb e.ck
    match (e.s.die die).ring e.ctxNo num with
    | none => .fault (e.ringSeq num 0xFFFFFFFF)
    | some r =>
      if r.doneBad n then .fault (e.ringSeq num n)
      else if e.ag.isStream then
        let q := e.ag.src % 0x40
        let earlier := (c.passes.filter fun p => p.seq = q).map (·.uid)
        let queued := match Sparse.find? c.seqs q with
          | some x => !x.deferred.isEmpty
          | none => false
        if queued || !earlier.isEmpty || !e.s.releaseDone e.ck e.th.uid 3 e.s.nextUid then
          let u := e.s.nextUid
          e.out ({ e.s with nextUid := u + 1 }.modComb e.ck fun c => c.modSeq q fun x => { x with deferred := x.deferred ++ [(⟨u, q, earlier, e.th.pc, 0, 0, some (num, n)⟩ : Deferred)] }) e.th
        else e.out (e.s.wdone die r n) e.th
      else if c.ops.any fun o => decide (o.ownerUid = e.th.uid) && (decide (o.cls = 0) || decide (o.cls = 1)) then e.block .again
      else e.afterRelease 3 fun _ => e.out (e.s.wdone die r n) e.th

/-! ## Transfers and grants (R434) -/

/-- Bytes of a step taken from the ring tensor or from a WPOST's global source, or the fault of their reading. -/
def State.ringRead (s : State) (ck ctx va n : Nat) : Except CopyFault (List Byte) :=
  match s.engineLocs ck ctx .read false s.linearBad ((List.range n).map (va + ·)) with
  | .ok as => .ok (as.map fun a => s.byteNow a.2.2)
  | .error f => .error f

/-- A step written into its slot and present; a slot that is not mapped ends the ring. -/
def State.ringWrite (s : State) (die : Nat) (r : Ring) (n : Nat) (bytes : List Byte) : State :=
  match s.engineLocs (combKey die r.comb) r.ctx .write false noBad ((List.range r.bytes).map (r.slotVa n + ·)) with
  | .ok as => ((s.putBytes r.ctx 0 ((as.zip bytes).map fun ab => (ab.1.2.2, ab.2, 0xFF))).serveAll).stepPresent die r n
  | .error _ => s.ringLost die r

/-- B free bytes: what a member of another package sends. -/
def State.ringFree (s : State) (n : Nat) : List Byte :=
  (List.range n).map fun i => ((Config.freeWide (s.freeN * 2 ^ 16 + i / 32)) >>> (8 * (i % 32))).setWidth 8

/-- RING_FORWARD_COMPLETE (R433, R434, R374): a step that is present and granted at the successor is captured on its
way, and its count goes. -/
def execRingForwardComplete (die num step : Nat) (s : State) : Host.Outcome State Fault Refusal :=
  match (s.die die).rings[num]? with
  | none => .next s
  | some r =>
    if r.present.contains step && r.forwards step && r.grants.contains (step + 1) && !r.forwarded.contains step && r.reaches r.succ then
      match s.ringRead (combKey die r.comb) r.ctx (r.slotVa step) r.bytes with
      | .error f => .next ((s.engineError (combKey die r.comb) r.ctx f).ringLost die r)
      | .ok bytes =>
        let s := (s.ringCounts die r [(step, -1)]).setRing die { r with forwarded := r.forwarded ++ [step] }
        if isPort r.succ then .next s
        else match (s.die r.succ).ringOf r.key r.ctx with
          | some q => .next (s.setRing r.succ { q with inbound := q.inbound ++ [(step + 1, bytes)] })
          | none => .next s
    else .next s

/-- The next step a member on another package may send: the lowest one granted to it that is not here. -/
def Ring.nextFromPort (r : Ring) : Option Nat :=
  (List.range (r.lo + r.slots)).find? fun n => decide (r.lo ≤ n) && decide (n < r.nstep) && !r.origin n && !r.present.contains n

/-- RING_TRANSFER (R434): a transfer lands in its slot, and its step is present. -/
def execRingTransfer (die num : Nat) (s : State) : Host.Outcome State Fault Refusal :=
  match (s.die die).rings[num]? with
  | none => .next s
  | some r =>
    if r.stopped then .next s
    else match r.inbound with
    | (n, bytes) :: rest => .next (s.ringWrite die { r with inbound := rest } n bytes)
    | [] =>
      if isPort r.pred && r.reaches r.pred then
        match r.nextFromPort with
        | some n => .next { s.ringWrite die r n (s.ringFree r.bytes) with freeN := s.freeN + 2 }
        | none => .next s
      else .next s

/-- Whether a WPOST can take its grant (R269, R435): its release is complete, and its step is below K or the crest of
step − K has fired. -/
def State.postReady (s : State) (die ck : Nat) (o : AsyncOp) : Option (Ring × Nat × List Byte) :=
  match o.kind with
  | .wpost num n src sc false =>
    match (s.die die).ring o.ctx num with
    | none => none
    | some r =>
      if decide (n < r.lo + r.slots) && !r.stopped && s.releaseDone ck o.ownerUid 3 o.uid && !(s.die die).frozen.contains o.ctx then
        match (if sc then .ok (s.getScratch ck src r.bytes) else s.ringRead ck o.ctx src r.bytes) with
        | .ok bytes => some (r, n, bytes)
        | .error _ => none
      else none
  | _ => none

/-- The first WPOST of a die that can take its grant. -/
def State.readyPost (s : State) (die : Nat) : Option (Nat × AsyncOp × Ring × Nat × List Byte) :=
  (s.combsOf die).findSome? fun ck => (s.comb ck).ops.findSome? fun o => (s.postReady die ck o).map fun x => (ck, o, x)

/-- A grant of a step arrives at a ring; one held already, or of a step forwarded, is ignored. -/
def Ring.grant (r : Ring) (n : Nat) : Ring :=
  if r.grants.contains n || (decide (0 < n) && r.forwarded.contains (n - 1)) then r else { r with grants := r.grants ++ [n] }

/-- The next grant that a successor on another package gives: the lowest step forwarded to it that it has not granted. -/
def Ring.portGrant (r : Ring) : Option Nat :=
  if isPort r.succ && r.reaches r.succ then
    (List.range (r.lo + 2 * r.slots)).find? fun n => decide (0 < n) && r.forwards (n - 1) && !r.grants.contains n && !r.forwarded.contains (n - 1)
  else none

/-- RING_GRANT (R434, R435): a grant that waits is taken by its ring; a WPOST takes its own and fills its slot; a member
on another package grants its next step. -/
def execRingGrant (die : Nat) (s : State) : Host.Outcome State Fault Refusal :=
  let d := s.die die
  match d.grantsWaiting.findIdx? fun g => (d.ringOf (g.1 / 256) (g.1 % 256)).isSome with
  | some i =>
    let g := d.grantsWaiting.getD i (0, 0)
    let s := s.modDie die fun d => { d with grantsWaiting := d.grantsWaiting.eraseIdx i }
    match d.ringOf (g.1 / 256) (g.1 % 256) with
    | some r => .next (if r.reaches r.succ then s.setRing die (r.grant g.2) else s)
    | none => .next s
  | none =>
    match s.readyPost die with
    | some (ck, o, r, n, bytes) =>
      let s := s.ringWrite die r n bytes
      .next (match o.kind with
        | .wpost num st src sc _ => s.modComb ck fun c => c.setOp { o with kind := .wpost num st src sc true }
        | _ => s)
    | none =>
      match d.rings.findSome? fun r => r.portGrant.map fun n => (r, n) with
      | some (r, n) => .next (s.setRing die (r.grant n))
      | none => .next s

/-- GRANT_RESEND (R434): the grants that found no place are sent again. -/
def execGrantResend (s : State) : Host.Outcome State Fault Refusal :=
  .next (s.liveDies.foldl (fun s die => (s.die die).rings.foldl (fun s r =>
    r.refused.foldl (fun s n => s.sendGrant die r n) (s.setRing die { r with refused := [] })) s) s)

end Sys2Proof.Machine
end

