-- ==== Sys2Proof/Machine/Events.lean ====
section
/-! DEFINITION. The events of the cores and of memory: issue arbitration, releases, page walks, writes at their homes,
fills, write-backs, acknowledgements, and the completion of asynchronous operations and of passes (R36, R198, R225,
R231 to R233, R257, R270, R315, R318, R335, R465).
Model's choices in this file: log entries 1, 8, 9, 39, 48, 49. -/

namespace Sys2Proof.Machine

/-! ## Issue arbitration (R36, R86, R335) -/


/-- ISSUE_ARBITRATION (R335): a core's issue slot goes to its next group. -/
def execIssueArbitration (die comb core : Nat) (s : State) : Host.Outcome State Fault Refusal :=
  match s.arbitrate (combKey die comb) core with
  | some k => .next { s with cur := some (.group die comb k), freeN := s.freeN + 1 }
  | none => .next s

/-- RELEASE_COMPLETE (R465): the wait of an agent's release is over, and its instruction issues again. -/
def execReleaseComplete (a : Agent) (s : State) : Host.Outcome State Fault Refusal :=
  match s.thread a with
  | none => .next s
  | some th =>
    match th.wait with
    | .release sc =>
      if s.releaseDone (agentKey a) th.uid sc s.nextUid then .next { (s.setThread a { th with wait := .released }) with cur := some a }
      else .next s
    | _ => .next s

/-! ## Memory -/

/-- PAGE_WALK (R198, R200): a walk ends; a leaf it finds fills the TLBs. -/
def execPageWalk (die comb ctx : Nat) (acc : Access) (va : DWord) (s : State) : Host.Outcome State Fault Refusal :=
  let ck := combKey die comb
  match Sparse.find? s.ctxs ctx with
  | none => .next s
  | some c =>
    match s.walk c va.toNat with
    | .leaf l => .next (if (s.die die).live then s.tlbNote ck ctx acc l else s)
    | _ => .next s

/-- STORE_AT_HOME_SLICE (R231): a write or atomic that nothing holds up reaches its home; with it the last batch of a killed task
may leave (R273). -/
def execStoreAtHomeSlice (i : Nat) (s : State) : Host.Outcome State Fault Refusal :=
  match s.stores[i]? with
  | some st => .next (if s.storeReady st then (s.storeHome st).flushAll else s)
  | none => .next s

/-- Whether the fill of a tile's sector must still wait for a linear write to its bytes that was sent before the access it is
for (R274). -/
def State.fillWaits (s : State) (f : Fill) : Bool :=
  match f.tile.bind fun t => (s.tileLine t.1).map fun l => (l, t.2) with
  | none => false
  | some (l, sec) =>
    let ws := (List.range 32).filterMap fun k => (l.addrs.getD (32 * sec + k) none).map (· / 4)
    s.stores.any fun st => decide (st.uid < f.before) && s.sent st && (match st.kind with
      | .tile _ _ => false
      | _ => overlaps (st.locs.map (· / 4)) ws)

/-- MERGING_FILL (R232): a fill lands, and the reads that wait for it are served. -/
def execMergingFill (i : Nat) (s : State) : Host.Outcome State Fault Refusal :=
  match s.fills[i]? with
  | none => .next s
  | some f =>
    if s.fillWaits f then .next s else
    let s := { s with fills := s.fills.eraseIdx i }
    .next (match f.tile with
      | none => s.fillLine f.line
      | some (t, sec) => s.fillTile t sec).serveAll

/-- WRITE_BACK (R233): a line is evicted: its dirty words go to HBM and its clean ones are dropped. A pinned line, and one
with a fill outstanding, stays. -/
def execWriteBack (tile : Bool) (i : Nat) (s : State) : Host.Outcome State Fault Refusal :=
  if tile then
    match s.tiles[i]? with
    | none => .next s
    | some l =>
      if s.fills.any fun f => (f.tile.map (·.1)) = some l.tile then .next s
      else .next ((s.writeBackTile l.tile).dropTile l.tile)
  else
    match s.l2[i]? with
    | none => .next s
    | some (k, l) =>
      if l.pin.isSome || s.fills.any fun f => f.tile = none && decide (f.line = k) then .next s
      else .next ((s.writeBackLine k).dropLine k)

/-- REPLICA_READ (R225): a read, from a die, of a byte of a frame that the die maps REPLICATED. -/
def execReplicaRead (die pa : Nat) (s : State) : Host.Outcome State Fault Refusal :=
  let maps (e : TlbEnt) : Bool :=
    let l : Leaf := ⟨e.base, e.size, e.leaf⟩
    decide (l.place = 2) && decide (l.frame / 2 ^ 16 = pa / 2 ^ 16)
  if ((s.die die).dtlb.any maps) && (s.die die).live && !s.noMemory pa then .next (s.replicaFetch die [(pa, pa / 2 ^ 16)]) else .next s

/-- REMOTE_WRITE_ACK (R257). -/
def execRemoteWriteAck (i : Nat) (s : State) : Host.Outcome State Fault Refusal :=
  .next ({ s with acks := s.acks.eraseIdx i } : State).flushAll

/-! ## Completion of asynchronous operations (R90, R270, R284, R297, R299) -/

/-- Whether a write of a remote operation is performed, or captured on its way to another die: one with a release is
captured behind it (R270, R301). -/
def State.captured (s : State) (u : Nat) : Bool :=
  s.stores.all fun st => decide (st.uid ≠ u) || (st.locs.all (fun l => decide (locDie l ≠ st.die)) && match st.release with
    | some sc => s.releaseDone (combKey st.die st.comb) st.issuer sc st.uid
    | none => true)

/-- Whether an operation has nothing left to wait for (R270). -/
def AsyncOp.finished (s : State) (op : AsyncOp) : Bool :=
  match op.kind with
  | .load _ p _ _ _ _ n => p.isEmpty && decide (n = 0)
  | .values _ => true
  | .copy c => (c.ended || decide (c.sectors ≤ c.done.length)) && !s.stores.any fun st => decide (st.op = some op.uid) && st.locs.any fun l => decide (locDie l = st.die)
  | .remote items => items.all s.captured
  | .message _ a => a.isNone
  | .emit n => decide (n = 0)
  | .nred _ _ _ _ _ st => st.isSome
  | .wpost _ _ _ _ p => p

/-- The oldest operation of its class and owner. -/
def Comb.isOldest (c : Comb) (op : AsyncOp) : Bool :=
  c.ops.all fun o => !(decide (o.ownerUid = op.ownerUid) && decide (o.cls = op.cls) && decide (o.uid < op.uid))

/-- A loaded value as its registers take it. -/
def LoadShape.word (sh : LoadShape) (x k : Nat) : Word :=
  match sh.sext with
  | 8 => (BitVec.ofNat 8 x).signExtend 32
  | 16 => (BitVec.ofNat 16 x).signExtend 32
  | _ => BitVec.ofNat 32 (x / 2 ^ (32 * k))

/-- What an operation writes as it completes: in a lane that met an uncorrectable error nothing lands (R284). -/
def AsyncOp.lands (op : AsyncOp) : List RegWrite :=
  match op.kind with
  | .load sh _ got _ _ _ _ =>
    if sh.dst = 0xFF then []
    else (List.range sh.regs).map fun k => ⟨sh.dst + k, (got.filter fun g => !op.bad.any fun b => b.1 = g.1).map fun g => (g.1, sh.word g.2 k)⟩
  | .values ws => ws
  | .nred _ _ _ _ (some d) (some v) => [⟨d, [(0, BitVec.ofNat 32 v)]⟩]
  | _ => []

/-- An operation's results in place; WAITC still covers them (R90). Registers whose operation was forgotten since take
nothing. -/
def Thread.landOp (th : Thread) (op : AsyncOp) : Thread :=
  let th := op.lands.foldl (fun th w =>
    if th.uncov.any fun u => decide (u.op = op.uid) && decide (u.code = w.code) then
      let th := th.putReg w
      { th with uncov := th.uncov.map fun u => if u.op = op.uid then u else u.after th w.code (w.lanes.map (·.1)) }
    else th) th
  { th with uncov := th.uncov.map fun u => if u.op = op.uid then { u with landed := true, bad := op.bad } else u }

/-- Whether a completion posts a record of the comb's own, for which there must be a place (R357). -/
def AsyncOp.posts (op : AsyncOp) : Bool :=
  match op.kind with
  | .copy c => c.ntf && !c.ended
  | _ => false

/-- The records of a copy that completes: COPYDONE with NTF = 1 unless it ended by a fault, and MCASTPART for failed receivers
in either case (R299, R356). -/
def State.copyRecords (s : State) (ck : Nat) (op : AsyncOp) (c : CopyOp) : State :=
  let s := if c.ntf && !c.ended then { s.post ck (copyDone op.ctx op.owner op.scope c (Config.freeWord (s.freeN * 2 ^ 16))) with freeN := s.freeN + 1 } else s
  let bits := ((List.range c.recvs.length).zip c.recvs).foldl (fun m r => if r.2.failed then m + 2 ^ r.1 else m) 0
  if bits = 0 then s else s.sendRecord ck op.ctx (evRec 4 (some op.ctx) op.owner.src bits (c.num 1) 0 true)

/-- An operation completes: its values land, its records are posted, and it leaves its class; the last batch of a killed task
may leave with it (R191). Its acquire at DIE scope or wider drops the L1 (R270). -/
def State.completeOp (s : State) (ck : Nat) (op : AsyncOp) : State :=
  let s := match s.thread op.owner with
    | some th => if th.uid = op.ownerUid then s.setThread op.owner (th.landOp op) else s
    | none => s
  let s := s.modComb ck fun c => { c with ops := c.ops.filter fun o => decide (o.uid ≠ op.uid) }
  let s := (if 2 ≤ op.scope then s.dropL1 ck else s).flushKilled ck
  match op.kind with
  | .copy c => if (Sparse.find? s.ctxs op.ctx).isSome then s.copyRecords ck op c else s
  | _ => s

/-- OPERATION_COMPLETION (R270): in issue order within a class. -/
def execOperationCompletion (die comb i : Nat) (s : State) : Host.Outcome State Fault Refusal :=
  let ck := combKey die comb
  let c := s.comb ck
  match c.op i with
  | none => .next s
  | some op =>
    if op.finished s && decide (op.due ≤ c.clk) && c.isOldest op && (!op.posts || c.canPost) then .next (s.completeOp ck op) else .next s

/-! ## Completion of passes (R309, R315, R318) -/

/-- A deferred arrival of a stream is made: at its barrier, or as the WDONE of a ring step; or its fault. -/
def State.makeDeferred (s : State) (ck : Nat) (x : Seq) (d : Deferred) : Except TrapInfo State :=
  match d.wdone with
  | some (num, n) =>
    let ctx := x.th.place.ctx.getD 0xFF
    match (s.die (keyDie ck)).ring ctx num with
    | none => .error ⟨codeRINGSEQ, x.th.em, num, 0xFFFFFFFF⟩
    | some r => if r.doneBad n then .error ⟨codeRINGSEQ, x.th.em, num, n⟩ else .ok (s.wdone (keyDie ck) r n)
  | none =>
    match (s.comb ck).arrive x.team d.barrier d.count with
    | .error e => .error ⟨codeBARCOUNT, x.th.em, d.barrier, e⟩
    | .ok (c, ph) =>
      let c := c.modSeq d.seq fun y => if y.th.wait = .deferred d.uid then { y with th := { y.th with wait := .phase d.barrier ph } } else y
      .ok (s.setComb ck c)

/-- The deferred arrivals of a stream whose passes have completed, in posting order; a fault stops the stream with the
PC of its instruction (R306, R318), once its record finds a place. Those of a stopped stream are not made (R306). A WDONE waits
for its release at PKG scope (R436). -/
def State.runDeferred (s : State) (ck q : Nat) : Nat → State
  | 0 => s
  | fuel + 1 =>
    let c := s.comb ck
    match Sparse.find? c.seqs q with
    | none => s
    | some x =>
      match x.deferred with
      | [] => s
      | d :: rest =>
        if x.th.stopped || (c.passes.any fun p => d.passes.contains p.uid) || (d.wdone.isSome && !s.releaseDone ck x.th.uid 3 s.nextUid) then s
        else
          let drop (s : State) : State := s.modComb ck fun c => c.modSeq q fun y => { y with deferred := rest }
          match s.makeDeferred ck x d with
          | .ok s => (drop s).runDeferred ck q fuel
          | .error f =>
            if c.canPost then (drop s).takeTrap (.stream (keyDie ck) (keyComb ck) q) { x.th with pc := d.pc } f
            else s

/-- Whether a pass whose work is done completes: its writes homed on the die are performed, and the earlier passes of its
sequencer have completed (R270, R309). -/
def State.passDone (s : State) (ck : Nat) (p : Pass) : Bool :=
  p.running && p.fin && !(s.stores.any fun st => decide (st.op = some p.uid) && st.locs.any fun l => decide (locDie l = st.die)) &&
  !(s.comb ck).passes.any fun q => decide (q.seq = p.seq) && decide (q.uid < p.uid)

/-- A pass completes: MSTAT takes its flags (R315). -/
def Comb.completePass (c : Comb) (frozen : List Nat) (p : Pass) : Comb :=
  c.noteEligible frozen
    { c.modSeq p.seq (fun x => { x with th := { x.th with fstat := x.th.fstat ||| p.excs.setWidth 32 } }) with passes := c.passes.filter fun x => decide (x.uid ≠ p.uid) }

/-- The deferred arrivals of a comb's streams that are due are made. -/
def State.runAllDeferred (s : State) (ck : Nat) : State := [0, 1, 2, 3].foldl (fun s q => s.runDeferred ck q 64) s

/-- PASS_COMPLETION (R314, R315): a pass whose work is done completes, and the arrivals that waited for it are made;
otherwise the pass that holds the array goes on to its next boundary, where a record of its fault would find a place. -/
def execPassCompletion (die comb : Nat) (s : State) : Host.Outcome State Fault Refusal :=
  let ck := combKey die comb
  let c := s.comb ck
  match c.passes.find? (s.passDone ck), c.holder with
  | some p, _ => .next ((s.setComb ck (c.completePass (s.die die).frozen p)).runAllDeferred ck)
  | none, some p => .next ((if c.canPost then s.advancePass ck p else s).runAllDeferred ck)
  | none, none => .next (s.runAllDeferred ck)

end Sys2Proof.Machine
end

