-- ==== Sys2Proof/Machine/Storage.lean ====
section
/-! DEFINITION. Storage and table management: BANKCFG, CCTL, FENCE, TSYNC, TLBINV, TDINV, VTWR and OWNWR (R202 to R208,
R219, R239 to R247, R275 to R277).
Model's choices in this file: log entries 42, 48. -/

namespace Sys2Proof.Machine

/-! ## BANKCFG (R239 to R241) -/

/-- Whether a FIFO bank holds nothing: no entry, none spilled, no accepted push still to be written (R240). -/
def Bank.empty (b : Bank) : Bool := b.ents.isEmpty && b.spilled.isEmpty

/-- BANKCFG's effect on a bank (R240). -/
def Env.bankcfg (e : Env) (f : SForm) (new : BankMode) (ord : Bool) (owner : Nat) : Eff :=
  let b := f.imm.toNat % 16
  let c := e.s.comb e.ck
  let old := c.bank b
  let allocated := c.alloc.any fun a => decide (a.1 / 16 = b)
  if (old.mode = .scratch ∧ allocated) ∨ (old.mode = .fifo ∧ !old.empty) then
    .fault ⟨codeBANKBUSY, e.th.em, b, new.code⟩
  else if old.mode = .cache ∧ (e.s.stores.any fun st => decide (combKey st.die st.comb = e.ck) && st.release.isSome) then
    e.block .again
  else if old.mode = .scratch ∧ new = .scratch then e.done []
  else
    let bank : Bank := { Bank.ofMode new with ord := ord, owner := owner }
    e.out (e.s.modComb e.ck fun c =>
      let c := { c with banks := c.banks.set b bank, scratch := c.scratch.filter (fun x => decide (x.1 / 2 ^ 17 ≠ b)), written := c.written.filter fun x => decide (x.1 / 16 ≠ b) }
      { c with l1 := c.l1.filter fun x => decide (x.bank ≠ b) }) e.th

/-- The issue of BANKCFGOFF. -/
def ruleBankcfgOff (f : SForm) : Rule :=
  { rulePriv 0x0A5 f [] with ends := true }

/-- BANKCFG.off (R240). -/
def execBankcfgOff (f : SForm) (s : State) : Host.Outcome State Fault Refusal :=
  issue s (ruleBankcfgOff f) fun e => e.bankcfg f .off false 0

/-- The issue of BANKCFGCACHE. -/
def ruleBankcfgCache (f : SForm) : Rule :=
  { rulePriv 0x0A5 f [] with ends := true }

/-- BANKCFG.cache (R240). -/
def execBankcfgCache (f : SForm) (s : State) : Host.Outcome State Fault Refusal :=
  issue s (ruleBankcfgCache f) fun e => e.bankcfg f .cache false 0

/-- The issue of BANKCFGSCRATCH. -/
def ruleBankcfgScratch (f : SForm) : Rule :=
  { rulePriv 0x0A5 f [] with ends := true }

/-- BANKCFG.scratch (R240). -/
def execBankcfgScratch (f : SForm) (s : State) : Host.Outcome State Fault Refusal :=
  issue s (ruleBankcfgScratch f) fun e => e.bankcfg f .scratch false 0

/-- The issue of BANKCFGFIFO. -/
def ruleBankcfgFifo (f : SForm) : Rule :=
  { rulePriv 0x0A5 f [useS f.a] with ends := true }

/-- BANKCFG.fifo (R240): plain or ordered, owned by the context in A. -/
def execBankcfgFifo (f : SForm) (s : State) : Host.Outcome State Fault Refusal :=
  issue s (ruleBankcfgFifo f) fun e =>
    e.bankcfg f .fifo (f.sub.getLsbD 2) ((e.read32 f.a 0).toNat % 256)

/-! ## TLBINV (R202 to R204) -/

/-- The leaf the old translation of a page gave: what a TLB still holds, else the walk. -/
def State.oldLeaf (s : State) (ctx va : Nat) : Option Leaf :=
  let tlbs := (s.combs.flatMap fun c => c.2.dtlb ++ c.2.itlb) ++ s.dies.flatMap fun d => d.2.dtlb
  match tlbFind tlbs ctx va with
  | some l => some l
  | none =>
    match Sparse.find? s.ctxs ctx with
    | none => none
    | some cr => match s.walk cr va with
      | .leaf l => some l
      | _ => none

/-- The issue of `tlbinv`. -/
def tlbinvRule (f : SForm) (uses : List Use) : Rule :=
  { rulePriv 0x0A6 f uses with ends := true, byFields := false }

/-- TLBINV over a range: a broadcast that every die acknowledges. A context that does not exist has no effect. -/
def tlbinv (f : SForm) (s : State) (uses : List Use) (body : Env → Option BcastBody) : Host.Outcome State Fault Refusal :=
  issue s (tlbinvRule f uses) fun e =>
    match body e with
    | none => e.done []
    | some b => e.broadcast b fun _ => e.done []

/-- The context in B, if it exists. -/
def Env.ctxB (e : Env) (f : SForm) : Option Nat :=
  let c := (e.read32 f.b 0).toNat % 256
  if (Sparse.find? e.s.ctxs c).isSome then some c else none

/-- TLBINV.page (R202). -/
def execTlbinvPage (f : SForm) (s : State) : Host.Outcome State Fault Refusal :=
  tlbinv f s [useSPair f.a, useS f.b] fun e =>
    (e.ctxB f).map fun c => .tlbinv (some c) (some (e.read64 f.a 0).toNat) none

/-- TLBINV.page.purge (R202, R204): the frame is the one the old translation gave. -/
def execTlbinvPagePurge (f : SForm) (s : State) : Host.Outcome State Fault Refusal :=
  tlbinv f s [useSPair f.a, useS f.b] fun e =>
    (e.ctxB f).map fun c =>
      let va := (e.read64 f.a 0).toNat
      let iset := match Sparse.find? e.s.ctxs c with
        | some cr => cr.iset
        | none => []
      .tlbinv (some c) (some va) ((e.s.oldLeaf c va).map fun l => (l.place, l.frame, l.size, iset))

/-- TLBINV.ctx (R202). -/
def execTlbinvCtx (f : SForm) (s : State) : Host.Outcome State Fault Refusal :=
  tlbinv f s [useS f.b] fun e => (e.ctxB f).map fun c => .tlbinv (some c) none none

/-- TLBINV.all (R202). -/
def execTlbinvAll (f : SForm) (s : State) : Host.Outcome State Fault Refusal :=
  tlbinv f s [] fun _ => some (.tlbinv none none none)

/-! ## CCTL (R245 to R247) -/

/-- The rule of a uniform M form that waits. -/
def ruleMU (op : Nat) (f : MForm) (uses : List Use) : Rule :=
  { Rule.basic op f.h false uses with steward := true, ends := true }

/-- The combs within a scope of an agent's comb that hold anything (R254). -/
def State.scopeCombs (s : State) (ck scope : Nat) : List Nat :=
  match scope with
  | 1 => [ck]
  | 2 => (s.combs.map (·.1)).filter fun k => keyDie k = keyDie ck
  | _ => s.combs.map (·.1)

/-- Instruction caches of some combs dropped. -/
def State.dropIcaches (s : State) (cks : List Nat) : State := cks.foldl (fun s ck => s.modComb ck fun c => { c with icache := [] }) s

/-- The issue of CCTLICINV. -/
def ruleCctlIcinv (f : MForm) : Rule :=
  ruleMU 0x108 f []

/-- CCTL.icinv (R245): a release, then the instruction caches of the combs in scope; PKG and SYS reach every die. -/
def execCctlIcinv (f : MForm) (s : State) : Host.Outcome State Fault Refusal :=
  issue s (ruleCctlIcinv f) fun e =>
    let sc := f.scope.toNat
    let go (_ : Unit) : Eff :=
      if sc ≤ 2 then e.out (e.s.dropIcaches (e.s.scopeCombs e.ck sc)) e.th else e.broadcast .icinv fun _ => e.done []
    match e.th.wait with
    | .answered _ => go ()
    | .answer _ => go ()
    | _ => e.afterRelease sc go

/-- The issue of CCTLL1INV. -/
def ruleCctlL1inv (f : MForm) : Rule :=
  ruleMU 0x108 f []

/-- CCTL.l1inv (R245). -/
def execCctlL1inv (f : MForm) (s : State) : Host.Outcome State Fault Refusal :=
  issue s (ruleCctlL1inv f) fun e => e.out (e.s.dropL1 e.ck) e.th

/-- The uses of an addressed CCTL. -/
def cctlUses (f : MForm) : List Use := [useSPair f.a, ⟨f.b, 1, 1, false, [.s, .sink]⟩]

/-- An addressed CCTL (R246): the line of its address, after the group's stores to it; elsewhere `other`. -/
def Env.cctlLine (e : Env) (f : MForm) (other : Eff) (k : State → Nat → Eff) : Eff :=
  match e.laneAccs .read (fun _ => 1) 1 false [(0, e.ea f 0)] with
  | .error t => .fault t
  | .ok as =>
    match as with
    | [] => other
    | a :: _ =>
      let line := a.locs.headD 0 / 128
      if 2 ≤ a.mtype ∨ a.place = 3 then other
      else if e.s.stores.any fun st => decide (st.agentUid = e.th.uid) && st.locs.any fun l => decide (l / 128 = line) then e.block .again
      else k (e.s.noteAccs e.ck ((e.s.agentCtx e.ag).getD 0) .read as) line

/-- The issue of CCTLWB. -/
def ruleCctlWb (f : MForm) : Rule :=
  ruleMU 0x108 f (cctlUses f)

/-- CCTL.wb (R245). -/
def execCctlWb (f : MForm) (s : State) : Host.Outcome State Fault Refusal :=
  issue s (ruleCctlWb f) fun e => e.cctlLine f (e.done []) fun s l => e.out (s.writeBackLine l) e.th

/-- The issue of CCTLWBINV. -/
def ruleCctlWbinv (f : MForm) : Rule :=
  ruleMU 0x108 f (cctlUses f)

/-- CCTL.wbinv (R245). A line that is dropped takes its pin with it (R247 does not say; DESIGN CHOICE, log entry 42). -/
def execCctlWbinv (f : MForm) (s : State) : Host.Outcome State Fault Refusal :=
  issue s (ruleCctlWbinv f) fun e => e.cctlLine f (e.done []) fun s l =>
    e.out (((s.writeBackLine l).dropLine l).dropL1Where e.ck fun x => x.tile = none && decide (x.line = l)) e.th

/-- The pinned lines homed on a die. -/
def State.pinned (s : State) (die : Nat) : Nat :=
  (s.l2.filter fun l => l.2.pin.isSome && decide (locDie (l.1 * 128) = die)).length

/-- Whether a pin is refused. The spec does not say which lines share a set: with fewer than 12 pinned lines on the die
none is full, and beyond that it is a free choice (R247; DESIGN CHOICE, log entry 42). -/
def Env.pinRefused (e : Env) (s : State) (line : Nat) : Bool :=
  decide (12 ≤ s.pinned (locDie (line * 128))) && Config.freeBool (e.s.freeN * 2 ^ 16)

/-- The issue of CCTLPIN. -/
def ruleCctlPin (f : MForm) : Rule :=
  ruleMU 0x108 f ([useSD f.d] ++ cctlUses f)

/-- CCTL.pin (R247): the line fetched in full and pinned for the context, or refused. -/
def execCctlPin (f : MForm) (s : State) : Host.Outcome State Fault Refusal :=
  issue s (ruleCctlPin f) fun e =>
    let ans (s : State) (x : Word) : Eff := .ok ⟨s, e.th, e.write32 f.d false [(0, x)], 0, none, .seq⟩
    e.cctlLine f (ans e.s 0) fun s l =>
      let already := match Sparse.find? s.l2 l with
        | some x => x.pin.isSome
        | none => false
      if !already && e.pinRefused s l then ans s 0
      else
        let s := s.fillLine l
        let s := match Sparse.find? s.l2 l with
          | some x => { s with l2 := Sparse.put s.l2 l { x with pin := some ((e.s.agentCtx e.ag).getD 0) } }
          | none => s
        ans s 1

/-- The issue of CCTLUNPIN. -/
def ruleCctlUnpin (f : MForm) : Rule :=
  ruleMU 0x108 f (cctlUses f)

/-- CCTL.unpin (R247). -/
def execCctlUnpin (f : MForm) (s : State) : Host.Outcome State Fault Refusal :=
  issue s (ruleCctlUnpin f) fun e => e.cctlLine f (e.done []) fun s l =>
    e.out (match Sparse.find? s.l2 l with
      | some x => { s with l2 := Sparse.put s.l2 l { x with pin := none } }
      | none => s) e.th

/-! ## FENCE (R275, R276) -/

/-- The acquire half of a fence: the group's own loads and atomics with return have returned; then the L1 (R276). -/
def Env.fenceAcquire (e : Env) (scope : Nat) : Eff :=
  if (e.s.comb e.ck).ops.any fun o => decide (o.agent = e.th.uid) && decide (o.cls = 0) && o.unread then e.block .again
  else e.out (if 2 ≤ scope then e.s.dropL1 e.ck else e.s) e.th

/-- The issue of `fence`. -/
def fenceRule (f : MForm) : Rule :=
  { ruleMU 0x109 f [] with ends := decide (f.scope ≠ 0) }

/-- A fence: its release half, which counts as a release before a later asynchronous instruction (R269), then its acquire half.
Steps are taken one at a time, so the order in which SC fences
complete is the total order of R268. -/
def fence (f : MForm) (s : State) : Host.Outcome State Fault Refusal :=
  issue s (fenceRule f) fun e =>
    let acq (e : Env) : Eff := if isAcq f then e.fenceAcquire f.scope.toNat else e.out e.s e.th
    if isRel f then e.afterRelease f.scope.toNat fun _ => acq { e with th := { e.th with fenced := e.s.nextUid } } else acq e

/-- FENCE.acq (R276). -/
def execFenceAcq (f : MForm) (s : State) : Host.Outcome State Fault Refusal := fence f s

/-- FENCE.rel (R276). -/
def execFenceRel (f : MForm) (s : State) : Host.Outcome State Fault Refusal := fence f s

/-- FENCE.acqrel (R276). -/
def execFenceAcqrel (f : MForm) (s : State) : Host.Outcome State Fault Refusal := fence f s

/-- FENCE.sc (R268, R276). -/
def execFenceSc (f : MForm) (s : State) : Host.Outcome State Fault Refusal := fence f s

/-- The issue of FENCEI. -/
def ruleFenceI (f : MForm) : Rule :=
  ruleMU 0x109 f []

/-- FENCE.i (R276): what was fetched is discarded. -/
def execFenceI (f : MForm) (s : State) : Host.Outcome State Fault Refusal :=
  issue s (ruleFenceI f) fun e => e.out e.s { e.th with lbuf := [] }

/-! ## TSYNC and TDINV (R208, R277) -/

/-- The issue of `tsync`. -/
def tsyncRule (f : MForm) (uses : List Use) : Rule :=
  ruleMU 0x10A f uses

/-- TSYNC on one tensor or all (R277). -/
def tsync (f : MForm) (s : State) (uses : List Use) (n : Env → Option Nat) : Host.Outcome State Fault Refusal :=
  issue s (tsyncRule f uses) fun e =>
    match e.s.agentCtx e.ag with
    | none => e.done []
    | some cx =>
      let go (_ : Unit) : Eff := e.broadcast (.tsync cx (n e) f.scope.toNat e.ck) fun _ => e.done []
      match e.th.wait with
      | .answered _ => go ()
      | .answer _ => go ()
      | _ => e.afterRelease f.scope.toNat go

/-- TSYNC (R277). -/
def execTsync (f : MForm) (s : State) : Host.Outcome State Fault Refusal :=
  tsync f s [useS f.a] fun e => some ((e.read32 f.a 0).toNat % 4096)

/-- TSYNC.all (R277). -/
def execTsyncAll (f : MForm) (s : State) : Host.Outcome State Fault Refusal := tsync f s [] fun _ => none

/-- Whether a cached descriptor is covered by a TDINV. -/
def DescEnt.covered (ctx : Nat) (n : Option Nat) (d : DescEnt) : Bool := decide (d.ctx = ctx) && (n = none || n = some d.n)

/-- The descriptor caches of some combs and of a die without the covered entries (R208). -/
def State.dropDescs (s : State) (cks : List Nat) (die ctx : Nat) (n : Option Nat) : State :=
  (cks.foldl (fun s ck => s.modComb ck fun c => { c with dcache := c.dcache.filter fun d => !d.covered ctx n }) s).modDie die
    fun d => { d with dcache := d.dcache.filter fun x => !x.covered ctx n }

/-- The issue of `tdinv`. -/
def tdinvRule (f : MForm) (uses : List Use) : Rule :=
  ruleMU 0x10B f uses

/-- TDINV on one descriptor or all (R208): TEAM and DIE act on the issuing die, PKG and SYS on every die. -/
def tdinv (f : MForm) (s : State) (uses : List Use) (n : Env → Option Nat) : Host.Outcome State Fault Refusal :=
  issue s (tdinvRule f uses) fun e =>
    match e.s.agentCtx e.ag with
    | none => e.done []
    | some cx =>
      let sc := f.scope.toNat
      let go (_ : Unit) : Eff :=
        if sc ≤ 2 then e.out (e.s.dropDescs (e.s.scopeCombs e.ck sc) (keyDie e.ck) cx (n e)) e.th
        else e.broadcast (.tdinv cx (n e)) fun _ => e.done []
      match e.th.wait with
      | .answered _ => go ()
      | .answer _ => go ()
      | _ => e.afterRelease sc go

/-- TDINV (R208). -/
def execTdinv (f : MForm) (s : State) : Host.Outcome State Fault Refusal :=
  tdinv f s [useS f.a] fun e => some ((e.read32 f.a 0).toNat % 4096)

/-- TDINV.all (R208). -/
def execTdinvAll (f : MForm) (s : State) : Host.Outcome State Fault Refusal := tdinv f s [] fun _ => none

/-! ## View and ownership tables (R217 to R219) -/

/-- The bits of a table's words that a write changes: 0 views, 1 view sets, 2 ownership (R217, R218). -/
def tableMask (kind key : Nat) : Word :=
  match kind with
  | 0 => if key % 16 ≤ 8 then 0xFFFFFFFF else if key % 16 = 9 then 1 else 0
  | 1 => 0xFFFFFFFF
  | _ => 0x800F3FFF

/-- A word of a die's table written; reserved words and fields stay as they are (R2). -/
def Die.putTable (d : Die) (kind key : Nat) (x : Word) : Die :=
  let m := tableMask kind key
  let upd (t : List (Nat × Word)) : List (Nat × Word) := Sparse.set 0 t key ((Sparse.get 0 t key &&& ~~~m) ||| (x &&& m))
  match kind with
  | 0 => { d with views := upd d.views }
  | 1 => { d with viewSets := upd d.viewSets }
  | _ => { d with owners := upd d.owners }

/-- The issue of `tableWrite`. -/
def tableWriteRule (op : Nat) (f : SForm) : Rule :=
  let bc := f.sub.getLsbD 0
  { ruleS op f [useS f.a, useS f.b] with steward := true, ends := bc }

/-- VTWR and OWNWR (R219): on the issuing die at once, or on every die. -/
def tableWrite (op : Nat) (f : SForm) (s : State) (loc : Nat → Nat → Nat × Nat) : Host.Outcome State Fault Refusal :=
  let bc := f.sub.getLsbD 0
  issue s (tableWriteRule op f) fun e =>
    let rset := match (e.s.agentCtx e.ag).bind fun c => Sparse.find? e.s.ctxs c with
      | some cr => cr.rset
      | none => 7
    if 3 < rset then e.fault codeILLOP 0 0
    else
      let kk := loc rset (e.read32 f.a 0).toNat
      let x := e.read32 f.b 0
      if bc then e.broadcast (.table kk.1 kk.2 x) fun _ => e.done []
      else e.out (e.s.modDie (keyDie e.ck) fun d => d.putTable kk.1 kk.2 x) e.th

/-- VTWR (R219): a word of a view, or of a view set. -/
def execVtwr (f : SForm) (s : State) : Host.Outcome State Fault Refusal :=
  tableWrite 0x1A0 f s fun rset a =>
    if a.testBit 12 then (1, rset * 4096 + a % 64 * 4 + a / 256 % 4) else (0, rset * 4096 + a % 128 * 16 + a / 256 % 16)

/-- OWNWR (R219). -/
def execOwnwr (f : SForm) (s : State) : Host.Outcome State Fault Refusal :=
  tableWrite 0x1A1 f s fun rset a => (2, rset * 4096 + a % 4096)

end Sys2Proof.Machine
end

