-- ==== Sys2Proof/Machine/Broadcast.lean ====
section
/-! DEFINITION. What a die does for a broadcast before it acknowledges: TLBINV and its purge, table writes, TDINV, TSYNC,
instruction caches, and the freezing and thawing of a context (R203, R204, R208, R219, R245, R277, R321, R346 to R348,
R405, R430).
Model's choices in this file: log entries 27, 42. -/

namespace Sys2Proof.Machine

/-! ## TLBINV (R203, R204) -/

/-- Whether a TLB entry lies in a range. -/
def TlbEnt.inRange (ctx page : Option Nat) (e : TlbEnt) : Bool :=
  (match ctx with
    | some c => decide (e.ctx = c)
    | none => true) &&
  match page with
  | some va => decide (e.base ≤ va) && decide (va < e.base + e.size)
  | none => true

/-- Whether a die's accesses of a context, all of them without one, are performed at its homes or captured. -/
def State.settledDie (s : State) (die : Nat) (ctx : Option Nat) : Bool :=
  let mine (c : Nat) : Bool := match ctx with
    | some x => decide (c = x)
    | none => true
  (s.stores.all fun st => !(decide (st.die = die) && mine st.ctx) || st.locs.all fun l => decide (locDie l ≠ die)) &&
  (s.combsOf die).all fun ck => (s.comb ck).ops.all fun o => !mine o.ctx || !o.unread

/-- A die's TLBs without the entries of a range. -/
def State.dropTlbs (s : State) (die : Nat) (ctx page : Option Nat) : State :=
  let keep (t : List TlbEnt) : List TlbEnt := t.filter fun e => !e.inRange ctx page
  ((s.combsOf die).foldl (fun s ck => s.modComb ck fun c => { c with dtlb := keep c.dtlb, itlb := keep c.itlb }) s).modDie die
    fun d => { d with dtlb := keep d.dtlb }

/-- The physical base of the frame of a location, for a purge: whether a location lies in a page. -/
def inPage (place frame size : Nat) (iset : List Nat) (loc : Nat) : Bool :=
  match place with
  | 1 =>
    let n := iset.length
    let o := loc % 2 ^ 50
    match iset.findIdx? (· = loc / 2 ^ 50) with
    | some i =>
      let v := (o / 4096 * n + i) * 4096 + o % 4096
      decide (frame % 2 ^ 50 ≤ v) && decide (v < frame % 2 ^ 50 + size)
    | none => false
  | 3 => decide (hostBase + frame % 2 ^ 50 ≤ loc) && decide (loc < hostBase + frame % 2 ^ 50 + size)
  | _ => decide (frame ≤ loc) && decide (loc < frame + size)

/-- The purge of a page (R204): the lines of its frame are written back and leave the L2 of a die and every L1, an L1 sector of a
tile whose line the L2 has dropped before among them; for a REPLICATED frame every replica goes and the directory is
cleared. -/
def State.purge (s : State) (die place frame size : Nat) (iset : List Nat) : State :=
  let hit (line : Nat) : Bool := decide (locDie (line * 128) = die) && inPage place frame size iset (line * 128)
  let s := ((s.l2.map (·.1)).filter hit).foldl (fun s k => (s.writeBackLine k).dropLine k) s
  let tiles := (s.tiles.filter fun l => l.addrs.any fun a => match a with
    | some x => hit (x / 128)
    | none => false).map (·.tile)
  let s := tiles.foldl (fun s t => (s.writeBackTile t).dropTile t) s
  let s := (s.combs.map (·.1)).foldl (fun s ck => s.dropL1Where ck fun l => match l.tile with
    | none => hit l.line
    | some (t, _) => tiles.contains t || (s.tileLine t).isNone) s
  if place = 2 ∧ locDie frame = die then s.dropReplicas frame size else s

/-! ## Freeze (R346) -/

/-- Whether an operation of a frozen context is recorded as a cancelled copy: a copy, or a WPOST without its grant. -/
def AsyncOp.cancels (o : AsyncOp) : Bool :=
  match o.kind with
  | .copy c => !c.ended
  | .wpost _ _ _ _ p => !p
  | _ => false

/-- Whether an operation may outlast the freeze: a task whose handle comes only after the thaw (R353). -/
def AsyncOp.outlasts (o : AsyncOp) : Bool :=
  match o.kind with
  | .message _ a => a.isSome
  | _ => o.cancels

/-- Whether a comb has drained for a context: its groups are between runs, no pass of its runs, the classes LD, RM and SN are
empty, no answer is on its way to one of its groups, and no user handler of its runs (R184, R346). -/
def State.drained (s : State) (ck ctx : Nat) : Bool :=
  let c := s.comb ck
  let mine (a : Agent) : Bool := !a.isSteward && decide (agentKey a = ck) && decide (s.agentCtx a = some ctx)
  (c.groups.all fun g => !decide (g.2.place.ctx = some ctx) || decide (g.2.runLen = 0)) &&
  (c.seqs.all fun q => !decide (q.2.th.place.ctx = some ctx) || decide (q.2.th.runLen = 0)) &&
  (c.passes.all fun p => !p.running || (match c.seqTeam p.seq with
    | some x => decide (x.2.ctx ≠ ctx)
    | none => true)) &&
  (c.ops.all fun o => decide (o.ctx ≠ ctx) || o.outlasts) &&
  (s.liveDies.all fun d => (s.die d).csubs.all fun q => !mine q.agent) &&
  (s.bcasts.all fun b => !mine b.agent) && c.steward.handler.isNone &&
  s.commits.all fun x => decide (x.key ≠ ck) || decide (x.th.place.ctx ≠ some ctx)

/-- A comb of a frozen context: its copies are cancelled, and its groups' open batches leave (R346, R347, R405). -/
def State.freezeComb (s : State) (ck ctx : Nat) : State :=
  let gone (o : AsyncOp) : Bool := decide (o.ctx = ctx) && o.cancels
  let s := s.modComb ck fun c => { c with cancelled := c.cancelled ++ c.ops.filter gone, ops := c.ops.filter fun o => !gone o }
  (s.comb ck).groups.foldl (fun s g =>
    if g.2.place.ctx = some ctx then
      let r := s.sendAll ck g.2 0
      r.1.modComb ck fun c => { c with groups := Sparse.put c.groups g.1 r.2 }
    else s) s

/-- The slots of a context on a comb. -/
def Comb.ctxSlots (c : Comb) (ctx : Nat) : List (Nat × Thread) := c.groups.filter fun g => g.2.place.ctx = some ctx

/-- An operation put back into its class in its place. -/
def insertOp (o : AsyncOp) : List AsyncOp → List AsyncOp
  | [] => [o]
  | x :: xs => if o.uid < x.uid then o :: x :: xs else x :: insertOp o xs

/-- A comb of a thawed context: the copies it still holds go on, and its posted passes are eligible again from now on (R309);
`frozen` is what the die's combs held frozen before. -/
def Comb.thaw (c : Comb) (frozen : List Nat) (ctx : Nat) : Comb :=
  let c' : Comb := { c with ops := (c.cancelled.filter fun o => decide (o.ctx = ctx)).foldl (fun l o => insertOp o l) c.ops, cancelled := c.cancelled.filter fun o => decide (o.ctx ≠ ctx) }
  { c' with passes := c'.passes.map fun p =>
      if !c.eligible frozen p && c'.eligible (frozen.filter fun x => decide (x ≠ ctx)) p then { p with eligibleAt := c'.clk } else p }

/-! ## Acknowledgement -/

/-- What a die does for a broadcast, by its number; nothing while it cannot acknowledge yet. A freeze first stops new runs,
passes and admissions, and acknowledges once every comb has drained. TSYNC comes after the tile writes that the combs in its
scope sent before it, drops the linear L1 lines of those combs with the tile sectors, and what a fill of a tile still brings is
read anew: no read after it through the other kind of line may miss a write before it (R274; DEDUCED, log entry 42). -/
def State.applyBcast (s : State) (die uid : Nat) : BcastBody → Option State
  | .tlbinv ctx page purge =>
    let s := s.dropTlbs die ctx page
    if s.settledDie die ctx then
      some (match purge with
        | some (place, frame, size, iset) => s.purge die place frame size iset
        | none => s)
    else none
  | .table kind key x => some (s.modDie die fun d => d.putTable kind key x)
  | .tdinv ctx n => some (s.dropDescs (s.combsOf die) die ctx n)
  | .tsync ctx n scope ck =>
    let of (t : TileRef) : Bool := decide (t.ctx = ctx) && match n with
      | some k => decide (t.tensor = k)
      | none => true
    let within (st : Store) : Bool := decide (st.uid < uid) && (s.scopeCombs ck scope).contains (combKey st.die st.comb) && (match st.kind with
      | .tile l _ => of l.tile
      | _ => false)
    if s.stores.any within then none else
    let lines := (s.tiles.filter fun l => of l.tile).map (·.tile)
    let s := lines.foldl (fun (s : State) (t : TileRef) => (s.writeBackTile t).dropTile t) { s with fills := s.fills.filter fun f => !(f.tile.any fun t => of t.1) }
    some (((s.scopeCombs ck scope).filter fun k => decide (keyDie k = die)).foldl (fun s k => s.dropL1Where k fun l => match l.tile with
      | some (t, _) => of t
      | none => true) s)
  | .icinv => some (s.dropIcaches (s.combsOf die))
  | .freeze ctx =>
    if (s.die die).frozen.contains ctx then
      if (s.combsOf die).all fun ck => s.drained ck ctx then
        some ((s.combsOf die).foldl (fun s ck => s.freezeComb ck ctx) s)
      else none
    else none
  | .thaw ctx =>
    some (((s.combsOf die).foldl (fun s ck => s.modComb ck fun c => c.thaw (s.die die).frozen ctx) s).modDie die fun d => { d with frozen := d.frozen.filter fun x => decide (x ≠ ctx) })
  | .flow _ => some s

/-- The first part of a freeze on a die: nothing new of the context starts, its running passes stop at their boundary (R321),
and its open reduction rounds abort. It waits while a user handler of the die runs (R184). -/
def State.startFreeze (s : State) (die : Nat) : BcastBody → State
  | .freeze ctx =>
    if (s.die die).frozen.contains ctx || (s.combsOf die).any fun ck => (s.comb ck).steward.handler.isSome then s
    else
      let s := (s.combsOf die).foldl (fun s ck => s.modComb ck fun c => c.freezePasses ctx) s
      (s.modDie die fun d => { d with frozen := d.frozen ++ [ctx] }).abortRounds ctx
  | _ => s

/-- Whether a broadcast is a TLBINV. -/
def BcastBody.isTlbinv : BcastBody → Bool
  | .tlbinv _ _ _ => true
  | _ => false

/-- A die acknowledges the first broadcast of a kind that waits for it; with the last one the issuer goes on. -/
def State.acknowledge (s : State) (die : Nat) (tlb : Bool) : State :=
  match s.bcasts.find? fun b => b.dies.contains die && decide (b.body.isTlbinv = tlb) with
  | none => s
  | some b =>
    let s := s.startFreeze die b.body
    match s.applyBcast die b.uid b.body with
    | none => s
    | some s =>
      let b' := { b with dies := b.dies.filter fun d => decide (d ≠ die) }
      if b'.dies.isEmpty then
        { s with bcasts := s.bcasts.filter fun x => decide (x.uid ≠ b.uid) }.answer b.agent b.agentUid b.uid (.answered 0)
      else { s with bcasts := s.bcasts.map fun x => if x.uid = b.uid then b' else x }

/-- TLBINV_ACKNOWLEDGE (R203). -/
def execTlbinvAcknowledge (die : Nat) (s : State) : Host.Outcome State Fault Refusal := .next (s.acknowledge die true)

/-- BROADCAST_ACKNOWLEDGE (R208, R219, R245, R277, R346, R403). -/
def execBroadcastAcknowledge (die : Nat) (s : State) : Host.Outcome State Fault Refusal := .next (s.acknowledge die false)

end Sys2Proof.Machine
end

