-- ==== Sys2Proof/Machine/Control.lean ====
section
/-! DEFINITION. Control flow, masks, loops, the register budget, group end and special registers: majors 0x00, 0x08 and
0x09 (R160 to R178).
Model's choices in this file: log entries 17, 40, 46. -/

namespace Sys2Proof.Machine

/-! ## Major 0x00 -/

/-- The issue of NOP. -/
def ruleNop (f : SForm) : Rule :=
  { ruleS 0x000 f [] with steward := true, stream := true }

/-- NOP (R176). -/
def execNop (f : SForm) (s : State) : Host.Outcome State Fault Refusal :=
  issue s (ruleNop f) fun e => e.done []

/-- The issue of EXIT. -/
def ruleExit (f : SForm) : Rule :=
  { ruleS 0x001 f [] with stream := true, ends := true }

/-- EXIT (R176): the group retires; in a task it acts as TRET (R32). -/
def execExit (f : SForm) (s : State) : Host.Outcome State Fault Refusal :=
  issue s (ruleExit f) fun e => e.endGroup e.s e.th


/-- The issue of YIELD. -/
def ruleYield (f : SForm) : Rule :=
  { ruleS 0x002 f [] with steward := true, ends := true }

/-- YIELD (R176): the run ends and the wait of R36 starts again; on the steward it is a NOP (R160). -/
def execYield (f : SForm) (s : State) : Host.Outcome State Fault Refusal :=
  issue s (ruleYield f) fun e => e.done []

/-- The issue of TRAP. -/
def ruleTrap (f : SForm) : Rule :=
  ruleS 0x003 f []

/-- TRAP (R178): the fault TRAPI with TVAL = n and TMASK = `em`. -/
def execTrap (f : SForm) (s : State) : Host.Outcome State Fault Refusal :=
  issue s (ruleTrap f) fun e => .fault ⟨codeTRAPI, e.th.em, f.imm.toNat, 0⟩

/-- The issue of BRK. -/
def ruleBrk (f : SForm) : Rule :=
  ruleS 0x004 f []

/-- BRK (R178): the fault BRK with TVAL = n and TMASK = `em`. -/
def execBrk (f : SForm) (s : State) : Host.Outcome State Fault Refusal :=
  issue s (ruleBrk f) fun e => .fault ⟨codeBRK, e.th.em, f.imm.toNat, 0⟩

/-- The specials a steward reads; the others read 0 there (R177). -/
def stewardReads (x : Special) : Bool := [Special.mode, .fstat, .clk, .lk, .comb, .die].contains x

/-- A special as RDSR reads it. -/
def Env.rdsr (e : Env) (x : Spec) : DWord :=
  match x with
  | .special y => if e.ag.isSteward && !stewardReads y then 0 else e.special 0 y
  | _ => 0

/-- Whether an RDSR or WRSR waits for the group's rounding instructions (R107). -/
def isModeOrFstat (x : Spec) : Bool := x = .special .mode || x = .special .fstat

/-- The issue of RDSR. -/
def ruleRdsr (f : SForm) : Rule :=
  let w64 := f.sub.getLsbD 0
  { ruleS 0x005 f [if w64 then ⟨f.d, 2, 2, true, [.s]⟩ else ⟨f.d, 1, 1, true, [.s]⟩,
      ⟨f.a, 1, 1, false, if f.a = .special .lid then [] else [.special]⟩] with
      steward := true, drains := isModeOrFstat f.a }

/-- RDSR (R177): a special into an s register or pair. `lid` faults BADSPEC. -/
def execRdsr (f : SForm) (s : State) : Host.Outcome State Fault Refusal :=
  let w64 := f.sub.getLsbD 0
  issue s (ruleRdsr f) fun e =>
    if w64 then e.done (e.write64 f.d [(0, e.rdsr f.a)])
    else e.done (e.write32 f.d false [(0, (e.rdsr f.a).setWidth 32)])

/-- A thread with a special register written as WRSR writes it (R103 to R106). -/
def Thread.writeSpecial (th : Thread) (x : Special) (w64 : Bool) (v : DWord) : Thread :=
  match x with
  | .em => { th with em := v.setWidth 32 &&& th.lm }
  | .mode => { th with mode := v.setWidth 32 &&& modeMask }
  | .fstat => { th with fstat := v.setWidth 32 &&& fstatMask }
  | .lk => { th with lk := if w64 then v else hiWord th.lk ++ v.setWidth 32 }
  | _ => th

/-- The issue of WRSR. -/
def ruleWrsr (f : SForm) (s : State) : Rule :=
  let w64 := f.sub.getLsbD 0
  let imm := f.sub.getLsbD 1
  let steward := match s.cur with
    | some a => a.isSteward
    | none => false
  let rw : List Special := if steward then [.mode, .fstat, .lk] else [.em, .mode, .fstat, .lk]
  let ok := match f.d with
    | .special x => rw.contains x
    | _ => false
  { ruleS 0x006 f ([⟨f.d, 1, 1, true, if ok then [.special] else []⟩] ++
      (if imm then [] else if w64 then [useSPair f.a] else [⟨f.a, 1, 1, false, [.s, .const]⟩])) with
      steward := true, drains := isModeOrFstat f.d }

/-- WRSR (R177): an s register, pair or immediate to an RW special; the steward writes `mode`, `fstat` and `lk`. -/
def execWrsr (f : SForm) (s : State) : Host.Outcome State Fault Refusal :=
  let w64 := f.sub.getLsbD 0
  let imm := f.sub.getLsbD 1
  issue s (ruleWrsr f s) fun e =>
    let v : DWord := if imm then f.imm.setWidth 64
      else if w64 then e.read64 f.a 0 else (e.read32 f.a 0).setWidth 64
    match f.d with
    | .special x => e.out e.s (e.th.writeSpecial x w64 v)
    | _ => e.done []

/-! ## Transfers -/

/-- The direct target of a B form (R69). -/
def directTarget (pc : DWord) (disp : BitVec 24) : DWord := pc + (disp.signExtend 64) * 4

/-- A taken transfer from an instruction (R162). -/
def Env.jump (e : Env) (th : Thread) (target : DWord) : Eff :=
  if target.toNat % 4 ≠ 0 then .fault ⟨codeMISALIGNPC, e.th.em, target.toNat % 2 ^ 32, target.toNat / 2 ^ 32⟩
  else .ok ⟨e.s, th.take target, [], 0, none, .taken⟩

/-- The checks of an indirect transfer's target, in order: alignment, translation, LAND (R70, R166). -/
def Env.landing (e : Env) (target : DWord) : Option Nat :=
  if target.toNat % 4 ≠ 0 then some codeMISALIGNPC
  else match e.s.peekWord e.ck (e.s.agentCtx e.ag) target.toNat with
    | .error c => some c
    | .ok w => if landBit w then none else some codeLANDING

/-- The word of A's condition: an s register, special or constant (R163). -/
def condUse (x : Spec) : Use := ⟨x, 1, 1, false, [.s, .special, .const]⟩

/-- The issue of BRA. -/
def ruleBra (f : BForm) : Rule :=
  { ruleB 0x080 f [] with steward := true, stream := true }

/-- BRA (R164). -/
def execBra (f : BForm) (s : State) : Host.Outcome State Fault Refusal :=
  issue s (ruleBra f) fun e =>
    e.jump e.th (directTarget e.th.pc f.disp)

/-- The issue of `brCond`. Where both D and A are bad, BADSPEC names D: the specifiers are tested as log entry 26 says (DESIGN
CHOICE; R81, R163). -/
def brCondRule (f : BForm) (op : Nat) : Rule :=
  let setem := f.aux.getLsbD 0
  { ruleB op f ((if setem then [⟨f.d, 1, 1, false, [.s]⟩] else []) ++ [condUse f.a]) with
      steward := true, stream := true }

/-- BRZ and BRNZ: with SETEM a taken branch also sets `em` (R164). -/
def brCond (f : BForm) (s : State) (op : Nat) (zero : Bool) : Host.Outcome State Fault Refusal :=
  let setem := f.aux.getLsbD 0
  issue s (brCondRule f op) fun e =>
    if decide (e.read32 f.a 0 = 0) = zero then
      let th := if setem then { e.th with em := e.read32 f.d 0 &&& e.th.lm } else e.th
      e.jump th (directTarget e.th.pc f.disp)
    else e.done []

/-- BRZ (R164). -/
def execBrz (f : BForm) (s : State) : Host.Outcome State Fault Refusal := brCond f s 0x081 true

/-- BRNZ (R164). -/
def execBrnz (f : BForm) (s : State) : Host.Outcome State Fault Refusal := brCond f s 0x082 false

/-- The mask of a p operand (R160). -/
def Env.pmask (e : Env) (x : Spec) : Word :=
  match x with
  | .p n => e.mask n
  | _ => 0

/-- The issue of BRANY. -/
def ruleBrany (f : BForm) : Rule :=
  ruleB 0x083 f [⟨f.a, 1, 1, false, [.p]⟩]

/-- BRANY (R164): some lane of `em` has the predicate set. -/
def execBrany (f : BForm) (s : State) : Host.Outcome State Fault Refusal :=
  issue s (ruleBrany f) fun e =>
    if e.pmask f.a &&& e.th.em ≠ 0 then e.jump e.th (directTarget e.th.pc f.disp) else e.done []

/-- The issue of BRALL. -/
def ruleBrall (f : BForm) : Rule :=
  ruleB 0x084 f [⟨f.a, 1, 1, false, [.p]⟩]

/-- BRALL (R164): every lane of `em` has the predicate set. -/
def execBrall (f : BForm) (s : State) : Host.Outcome State Fault Refusal :=
  issue s (ruleBrall f) fun e =>
    if e.pmask f.a &&& e.th.em = e.th.em then e.jump e.th (directTarget e.th.pc f.disp) else e.done []

/-- The issue of CALL. -/
def ruleCall (f : BForm) : Rule :=
  let ind := f.aux.getLsbD 0
  { ruleB 0x085 f (if ind then [useSPair f.a] else []) with steward := true, stream := true }

/-- CALL (R162, R165): CALLOVF is checked first; `lk` gets the return address and `cd` rises. -/
def execCall (f : BForm) (s : State) : Host.Outcome State Fault Refusal :=
  let ind := f.aux.getLsbD 0
  issue s (ruleCall f) fun e =>
    let target := if ind then e.read64 f.a 0 else directTarget e.th.pc f.disp
    let fault (c : Nat) : Eff := .fault ⟨c, e.th.em, target.toNat % 2 ^ 32, target.toNat / 2 ^ 32⟩
    if e.th.cd = 15 then fault codeCALLOVF
    else match (if ind then e.landing target else none) with
      | some c => fault c
      | none => e.jump { e.th with lk := e.th.pc + 12, cd := e.th.cd + 1 } target

/-- The thread after a RET's transfer: deeper entries are popped, and a target behind the innermost loop's end counts
as its iteration (R162, R171). -/
def Thread.ret (th : Thread) (target : DWord) : Thread :=
  let th := { th with cd := th.cd - 1, loops := popDeeper (th.cd - 1) th.loops }
  match innermost th.cd th.loops with
  | some (_, e) =>
    if e.endPc + 12 = target.setWidth 32 then ({ th with pc := target - 12 }).advance else th.take target
  | none => th.take target

/-- The end of a user handler by RET (R182): a handler that changed s48 to s63, results in flight included, ends the
context; a result that is still to land there counts as a change (DESIGN CHOICE, log entry 17). A group still stopped is
killed; the steward holds no context again. -/
def State.handlerRet (s : State) (ck : Nat) : State :=
  let st := (s.comb ck).steward
  match st.handler with
  | none => s
  | some h =>
    let fin := st.th.flights.foldl Thread.land st.th
    let now := (List.range 16).map fun k => Sparse.get 0 fin.s (48 + k)
    let late := st.th.uncov.any fun u => !u.landed && decide (0xB0 ≤ u.code) && decide (u.code < 0xC0)
    let s := if now = h.saved ∧ late = false then
        match Sparse.find? (s.comb ck).groups h.slot with
        | some th => if th.stopped ∧ th.uid = h.uid then s.kill ck h.slot th else s
        | none => s
      else s.endContext h.ctx 6 h.tcause (h.tpc.toNat % 2 ^ 32)
    s.modComb ck fun c => { c with steward := { c.steward with handler := none, ctx := none } }


/-- The issue of RET. -/
def ruleRet (f : BForm) : Rule :=
  { ruleB 0x086 f [] with steward := true, stream := true }

/-- Whether a RET of an agent ends the user handler: at `cd` = 0 (R193), or to the firmware's dispatch loop, where `lk` stood
when the handler was called (R165, R182; log entry 17). -/
def Env.endsHandler (e : Env) : Bool :=
  e.ag.isSteward && (decide (e.th.cd = 0) || match (e.s.comb e.ck).steward.handler with
    | some h => decide (e.th.lk = h.ret)
    | none => false)

/-- RET (R162, R165): to `lk`, without a LAND check. At `cd` = 0 it acts as EXIT, and on the steward it ends the user
handler, as a RET to the firmware's dispatch loop does. -/
def execRet (f : BForm) (s : State) : Host.Outcome State Fault Refusal :=
  issue s (ruleRet f) fun e =>
    if e.endsHandler then
      let th := { e.th with cd := 0, stopped := true }
      let s := e.s.setThread e.ag th
      .ok ⟨{ (s.handlerRet e.ck) with cur := none }, th, [], 0, none, .gone⟩
    else if e.th.cd = 0 then e.endGroup e.s e.th
    else if e.th.lk.toNat % 4 ≠ 0 then .fault ⟨codeMISALIGNPC, e.th.em, e.th.lk.toNat % 2 ^ 32, e.th.lk.toNat / 2 ^ 32⟩
    else .ok ⟨e.s, e.th.ret e.th.lk, [], 0, none, .taken⟩

/-- The issue of JMPI. -/
def ruleJmpi (f : BForm) : Rule :=
  { ruleB 0x087 f [useSPair f.a] with steward := true }

/-- JMPI (R166). -/
def execJmpi (f : BForm) (s : State) : Host.Outcome State Fault Refusal :=
  issue s (ruleJmpi f) fun e =>
    let target := e.read64 f.a 0
    match e.landing target with
    | some c => .fault ⟨c, e.th.em, target.toNat % 2 ^ 32, target.toNat / 2 ^ 32⟩
    | none => e.jump e.th target

/-- The lanes whose target fails a check of JMPV, for the first check that any lane fails: alignment, translation, LAND
(R167). -/
def jmpvFault (e : Env) (ts : List (Nat × DWord)) : Option TrapInfo :=
  let bad (c : Nat) : List (Nat × DWord) := ts.filter fun t => e.landing t.2 = some c
  let mk (c : Nat) : Option TrapInfo :=
    match bad c with
    | [] => none
    | t :: r => some ⟨c, laneMask ((t :: r).map (·.1)), t.2.toNat % 2 ^ 32, t.2.toNat / 2 ^ 32⟩
  match mk codeMISALIGNPC with
  | some f => some f
  | none =>
    match mk codeIPAGE with
    | some f => some f
    | none =>
      match mk codeDERR with
      | some f => some f
      | none => mk codeLANDING

/-- The issue of JMPV. -/
def ruleJmpv (f : BForm) : Rule :=
  { Rule.basic 0x088 f.h true [⟨f.d, 1, 1, true, [.s, .sink]⟩, ⟨f.a, 2, 2, false, [.v]⟩] with core := true }

/-- JMPV (R167): the divergent indirect jump to the lowest active lane's target. -/
def execJmpv (f : BForm) (s : State) : Host.Outcome State Fault Refusal :=
  issue s (ruleJmpv f) fun e =>
    let ts := e.each (e.read64 f.a)
    match jmpvFault e ts with
    | some t => .fault t
    | none =>
      match ts with
      | [] => e.done []
      | j :: _ =>
        let em' := laneMask ((ts.filter fun t => t.2 = j.2).map (·.1))
        .ok ⟨e.s, { e.th with em := em' }.take j.2, e.write32 f.d false [(0, e.th.em &&& ~~~em')], 0, none, .taken⟩

/-! ## Masks (R168 to R170) -/

/-- The mask operand of a mask instruction. -/
def Env.maskOp (e : Env) (x : Spec) : Word :=
  match x with
  | .p n => e.mask n
  | y => e.read32 y 0

/-- The issue of `emOp`. -/
def emOpRule (f : BForm) (op : Nat) : Rule :=
  ruleB op f [useSD f.d, ⟨f.a, 1, 1, false, [.p, .s, .const]⟩]

/-- EMAND, EMANDN and EMSET: the old `em` to D, then the new `em` (R169). -/
def emOp (f : BForm) (s : State) (op : Nat) (new : Word → Word → Word → Word) : Host.Outcome State Fault Refusal :=
  issue s (emOpRule f op) fun e =>
    .ok ⟨e.s, { e.th with em := new e.th.em (e.maskOp f.a) e.th.lm }, e.write32 f.d false [(0, e.th.em)], 0, none, .seq⟩

/-- EMAND (R169). -/
def execEmand (f : BForm) (s : State) : Host.Outcome State Fault Refusal := emOp f s 0x090 fun em m _ => em &&& m

/-- EMANDN (R169). -/
def execEmandn (f : BForm) (s : State) : Host.Outcome State Fault Refusal := emOp f s 0x091 fun em m _ => em &&& ~~~m

/-- EMSET (R169). -/
def execEmset (f : BForm) (s : State) : Host.Outcome State Fault Refusal := emOp f s 0x092 fun _ m lm => m &&& lm

/-- The issue of EMGET. -/
def ruleEmget (f : BForm) : Rule :=
  ruleB 0x093 f [useSDOnly f.d]

/-- EMGET (R169). -/
def execEmget (f : BForm) (s : State) : Host.Outcome State Fault Refusal :=
  issue s (ruleEmget f) fun e => e.done (e.write32 f.d false [(0, e.th.em)])

/-- The issue of EXITL. -/
def ruleExitl (f : BForm) : Rule :=
  Rule.basic 0x094 f.h true []

/-- EXITL (R170): the active lanes retire; with no lane left the group retires (R34). -/
def execExitl (f : BForm) (s : State) : Host.Outcome State Fault Refusal :=
  issue s (ruleExitl f) fun e =>
    let th := { e.th with lm := e.th.lm &&& ~~~e.act, em := e.th.em &&& ~~~e.act }
    if th.lm = 0 then e.endGroup e.s th else e.out e.s th

/-! ## Loops (R171, R172) -/

/-- The number of valid entries of a loop stack: the place the next push takes (R108). -/
def loopDepth (loops : List LoopEnt) : Nat :=
  match ((List.range loops.length).zip loops).reverse.find? fun p => p.2.valid with
  | some p => p.1 + 1
  | none => 0

/-- The issue of LOOP. -/
def ruleLoop (f : BForm) : Rule :=
  let imm := f.aux.getLsbD 25
  { ruleB 0x095 f (if imm then [] else [⟨f.a, 1, 1, false, [.s, .const]⟩]) with steward := true, stream := true }

/-- LOOP (R171). A count of 0 goes on behind the end PC; a full stack is reported before too large a count. -/
def execLoop (f : BForm) (s : State) : Host.Outcome State Fault Refusal :=
  let imm := f.aux.getLsbD 25
  issue s (ruleLoop f) fun e =>
    let n := if imm then f.aux.toNat % 2 ^ 24 else (e.read32 f.a 0).toNat
    let endPc := e.th.pc + f.disp.setWidth 64 * 4
    let k := loopDepth e.th.loops
    if n = 0 then .ok ⟨e.s, ({ e.th with pc := endPc }).advance, [], 0, none, .taken⟩
    else if 4 ≤ k then .fault ⟨codeLOOPOVF, e.th.em, 0, 0⟩
    else if 0xFFFFFF < n then .fault ⟨codeLOOPOVF, e.th.em, n, 1⟩
    else
      let ent : LoopEnt := ⟨(e.th.pc + 12).setWidth 32, endPc.setWidth 32, true, e.th.cd, BitVec.ofNat 24 n⟩
      .ok ⟨e.s, { e.th with loops := e.th.loops.set k ent, pc := e.th.pc + 12 }, [], 0, none, .taken⟩

/-- The issue of LBRK. -/
def ruleLbrk (f : BForm) : Rule :=
  { ruleB 0x096 f [] with steward := true, stream := true }

/-- LBRK (R162, R172): the innermost loop of the depth is popped and left as an exhausted one, by a taken transfer to where
`end_step` goes on; without one a NOP. Its target is checked as every taken transfer's is. -/
def execLbrk (f : BForm) (s : State) : Host.Outcome State Fault Refusal :=
  issue s (ruleLbrk f) fun e =>
    match innermost e.th.cd e.th.loops with
    | none => e.done []
    | some (k, ent) =>
      let loops := e.th.loops.set k { ent with valid := false }
      let endPc : DWord := BitVec.ofNat 64 (e.th.pc.toNat / 2 ^ 32 * 2 ^ 32 + ent.endPc.toNat)
      let th := ({ e.th with loops := loops, pc := endPc } : Thread).advance
      e.jump th th.pc

/-- The issue of LCNT. -/
def ruleLcnt (f : BForm) : Rule :=
  { ruleB 0x097 f [useSDOnly f.d] with steward := true, stream := true }

/-- LCNT (R172): the remaining count of the innermost loop of the depth, or 0. -/
def execLcnt (f : BForm) (s : State) : Host.Outcome State Fault Refusal :=
  issue s (ruleLcnt f) fun e =>
    e.done (e.write32 f.d false [(0, match innermost e.th.cd e.th.loops with
      | some (_, ent) => ent.count.setWidth 32
      | none => 0)])

/-! ## Register budget (R100, R173, R174) -/

/-- A thread without its registers from `b` on: their contents and every write to them in flight are lost (R100). -/
def Thread.cutRegs (th : Thread) (b : Nat) : Thread :=
  { th with
    budget := b
    v := th.v.filter fun r => decide (r.1 < b * 32)
    flights := th.flights.map fun f => { f with writes := f.writes.filter fun w => !(decide (b ≤ w.code) && decide (w.code < 0x80)) }
    uncov := th.uncov.filter fun u => !(decide (b ≤ u.code) && decide (u.code < 0x80)) }

/-- An operation that no longer writes the registers from `b` on (R100). -/
def AsyncOp.cutRegs (op : AsyncOp) (b : Nat) : AsyncOp :=
  match op.kind with
  | .load sh p g t l a n => if b ≤ sh.dst ∧ sh.dst < 0x80 then { op with kind := .load { sh with dst := 0xFF } p g t l a n } else op
  | .values ws => { op with kind := .values (ws.filter fun w => !(decide (b ≤ w.code) && decide (w.code < 0x80))) }
  | _ => op

/-- The pool key of a core and a role. -/
def poolKey (slot role : Nat) : Nat := slot / 16 * 4 + role

/-- The slot of a group agent. -/
def Agent.slotOf : Agent → Nat
  | .group _ _ k => k
  | _ => 0

/-- Changes the pool of the group's team on its core by a count of registers. -/
def State.pool (s : State) (ck team key : Nat) (g : Nat → Nat) : State :=
  s.modComb ck fun c =>
    match Sparse.find? c.teams team with
    | some t => { c with teams := Sparse.put c.teams team { t with pools := Sparse.set 0 t.pools key (g (Sparse.get 0 t.pools key)) } }
    | none => c

/-- The issue of RGIVE. -/
def ruleRgive (f : BForm) : Rule :=
  ruleB 0x098 f []

/-- RGIVE (R173). -/
def execRgive (f : BForm) (s : State) : Host.Outcome State Fault Refusal :=
  issue s (ruleRgive f) fun e =>
    let n := f.aux.toNat % 256
    if e.th.budget < n + 8 then .fault ⟨codeREGRANGE, e.th.em, n, 1⟩
    else
      let b := e.th.budget - n
      let s := e.s.pool e.ck e.th.place.team (poolKey (Agent.slotOf e.ag) e.th.place.role) (· + n)
      let s := s.modComb e.ck fun c => { c with ops := c.ops.map fun o => if o.ownerUid = e.th.uid then o.cutRegs b else o }
      e.out s (e.th.cutRegs b)

/-- The issue of RCLAIM. -/
def ruleRclaim (f : BForm) : Rule :=
  { ruleB 0x099 f [] with ends := true }

/-- RCLAIM (R174): served in the order in which the claims of a core and role issued. -/
def execRclaim (f : BForm) (s : State) : Host.Outcome State Fault Refusal :=
  issue s (ruleRclaim f) fun e =>
    let n := f.aux.toNat % 256
    let key := poolKey (Agent.slotOf e.ag) e.th.place.role
    if 128 < e.th.budget + n then .fault ⟨codeREGRANGE, e.th.em, n, 1⟩
    else
      let c := e.s.comb e.ck
      let mine := c.rclaims.any fun r => r.uid = e.th.uid
      -- waiting claims stand in issue order; each holds its group and its team, core and role
      let tag := e.th.place.team * 64 + key
      let first := match c.rclaims.find? fun r => r.tag = tag with
        | some r => decide (r.uid = e.th.uid)
        | none => true
      let pool := match Sparse.find? c.teams e.th.place.team with
        | some t => Sparse.get 0 t.pools key
        | none => 0
      if first && decide (n ≤ pool) then
        let s := e.s.pool e.ck e.th.place.team key (· - n)
        let s := s.modComb e.ck fun c => { c with rclaims := c.rclaims.filter fun r => decide (r.uid ≠ e.th.uid) }
        e.out s { e.th with budget := e.th.budget + n }
      else
        let s := if mine then e.s else { e.s.modComb e.ck fun c => { c with rclaims := c.rclaims ++ [⟨e.th.uid, tag, e.s.nextUid⟩] } with nextUid := e.s.nextUid + 1 }
        .wait s { e.th with wait := .rclaim n }

end Sys2Proof.Machine
end

