-- ==== Sys2Proof/Machine/Sfu.lean ====
section
/-! DEFINITION. The special functions (R61, R152). A result of the accuracy classes U1, U2 and A22 is a free value
within its bound: the model computes the exact result to 320 binary places and delivers the free encoding of
`Config.sfuFree` when that meets the bound, and the nearest encoding otherwise.
Model's choices in this file: log entry 10. -/

namespace Sys2Proof.Machine

/-- Fixed-point unit: values are counts of 2^-320. -/
def fixOne : Nat := 2 ^ 320

/-- π in the fixed point. -/
def fixPi : Nat := 0x3243f6a8885a308d313198a2e03707344a4093822299f31d0082efa98ec4e6c89452821e638d01377

/-- The natural logarithm of 2 in the fixed point. -/
def fixLn2 : Nat := 0xb17217f7d1cf79abc9e3b39803f2f6af40f343267298b62d8a0d175b8baafa2be7b876206debac98

/-- The sum of `term × y^j × (k)! / (k+j)!` for `fuel` values of j, in the fixed point. -/
def fixExpAux (y : Nat) : Nat → Nat → Nat → Nat
  | 0, _, _ => 0
  | fuel + 1, k, term => term + fixExpAux y fuel (k + 1) (term * y / fixOne / (k + 1))

/-- e^y for y below 1. -/
def fixExp (y : Nat) : Nat := fixExpAux y 90 0 fixOne

/-- e^y for any y. -/
def fixExpBig (y : Nat) : Nat := fixExp (y % fixLn2) * 2 ^ (y / fixLn2)

/-- The series of the inverse hyperbolic tangent. -/
def fixAtanhAux (z2 : Nat) : Nat → Nat → Nat → Nat
  | 0, _, _ => 0
  | fuel + 1, k, pow => pow / k + fixAtanhAux z2 fuel (k + 2) (pow * z2 / fixOne)

/-- The inverse hyperbolic tangent of z up to 1/3. -/
def fixAtanh (z : Nat) : Nat := fixAtanhAux (z * z / fixOne) 110 1 z

/-- The alternating series of the sine. -/
def fixSinAux (x2 : Nat) : Nat → Nat → Nat → Int
  | 0, _, _ => 0
  | fuel + 1, k, term => (term : Int) - fixSinAux x2 fuel (k + 2) (term * x2 / fixOne / ((k + 1) * (k + 2)))

/-- The sine of π f for f up to 1/2. -/
def fixSinPi (f : Nat) : Nat :=
  let x := fixPi * f / fixOne
  (fixSinAux (x * x / fixOne) 50 1 x).toNat

/-- A magnitude in the fixed point. -/
def toFix (mant : Nat) (ex : Int) : Nat :=
  if ex + 320 ≥ 0 then mant * 2 ^ (ex + 320).toNat else mant / 2 ^ (-(ex + 320)).toNat

/-- A finite F32 encoding as a signed fixed-point value. -/
def fixOfBits (bits : Nat) : Int :=
  match fmtF32.decode bits with
  | .num neg m e => if neg then -(toFix m e : Int) else toFix m e
  | _ => 0

/-- Whether an encoding is a finite number. -/
def isFinite32 (bits : Nat) : Bool := bits % 2 ^ 31 ≤ fmtF32.maxBits

/-- The size of `k` ulp of a fixed-point value (R61). -/
def ulps (k : Nat) (x : Int) : Nat :=
  k * 2 ^ (max ((Nat.log2 x.natAbs : Int) - 320) (-126) - 23 + 320).toNat

/-- The delivered encoding of a result whose exact value is `x` and whose error is at most `bound`: the free
encoding when it meets the bound and is at most `top` in magnitude, the nearest one otherwise. -/
def sfuPick (op : Nat) (a : Nat) (x : Int) (bound top : Nat) : Nat :=
  let z := (Config.sfuFree op (BitVec.ofNat 32 a)).toNat
  if isFinite32 z && decide ((fixOfBits z - x).natAbs ≤ bound) && decide ((fixOfBits z).natAbs ≤ top) then z
  else if x = 0 then 0
  else (fmtF32.round ⟨.rne, false, true, 0⟩ (x < 0) x.natAbs (-320) false).1

/-- Delivery after an accuracy class: MODE.FTZ without a flag (R54), then SAT2. A result counts as tiny by the encoding that is
delivered, not by the exact value (DESIGN CHOICE, log entry 52). -/
def sfuOut (o : FOpt) (bits : Nat) : Nat × Exc :=
  let b := if o.ftz && decide (bits / 2 ^ 23 % 2 ^ 8 = 0) then bits / 2 ^ 31 * 2 ^ 31 else bits
  (fmtF32.clamp o.sat2 b, 0)

/-- A special value with its flags; FLAGS.S turns an overflow's infinity into the largest number (R152). -/
def sfuSpecial (o : FOpt) (bits : Nat) (x : Exc) : Nat × Exc :=
  let b := if o.sat && x == (excOF ||| excNX) then bits / 2 ^ 31 * 2 ^ 31 + fmtF32.maxBits else bits
  (fmtF32.clamp o.sat2 b, x)

def f32Inf : Nat := fmtF32.infBits
def f32One : Nat := 0x3F800000
def f32Sign : Nat := 2 ^ 31
def f32Nan : Nat := fmtF32.canonNan

/-- No limit on a result's magnitude beyond finiteness. -/
def noTop : Nat := 2 ^ 460

/-- RCP (R152). -/
def sfuRcp (o : FOpt) (a : Nat) : Nat × Exc :=
  match fmtF32.decode a with
  | .nan _ _ _ => fmtF32.finish o [fmtF32.decode a] none
  | .inf neg => sfuSpecial o (fmtF32.signBit neg) 0
  | .num neg m e =>
    let s := fmtF32.signBit neg
    if m = 0 then sfuSpecial o (s + f32Inf) excDZ
    else if toFix m e ≤ toFix 1 (-128) then sfuSpecial o (s + f32Inf) (excOF ||| excNX)
    else
      let x : Int := (2 ^ (320 - e).toNat / m : Nat)
      let x := if neg then -x else x
      sfuOut o (sfuPick 0x060 a x (ulps 1 x) noTop)

/-- RSQ (R152). -/
def sfuRsq (o : FOpt) (a : Nat) : Nat × Exc :=
  match fmtF32.decode a with
  | .nan _ _ _ => fmtF32.finish o [fmtF32.decode a] none
  | .inf neg => if neg then sfuSpecial o f32Nan excNV else sfuSpecial o 0 0
  | .num neg m e =>
    if m = 0 then sfuSpecial o (fmtF32.signBit neg + f32Inf) excDZ
    else if neg then sfuSpecial o f32Nan excNV
    else
      let x : Int := (isqrt (2 ^ (640 - e).toNat / m) : Nat)
      sfuOut o (sfuPick 0x061 a x (ulps 1 x) noTop)

/-- EXP2 (R152). -/
def sfuExp2 (o : FOpt) (a : Nat) : Nat × Exc :=
  match fmtF32.decode a with
  | .nan _ _ _ => fmtF32.finish o [fmtF32.decode a] none
  | .inf neg => sfuSpecial o (if neg then 0 else f32Inf) 0
  | .num neg m e =>
    let y := toFix m e
    if !neg && decide (y ≥ 128 * fixOne) then sfuSpecial o f32Inf (excOF ||| excNX)
    else if neg && decide (y > 150 * fixOne) then sfuSpecial o 0 0
    else
      let n : Int := if neg then -(((y + fixOne - 1) / fixOne : Nat) : Int) else (y / fixOne : Nat)
      let f : Nat := if neg then (fixOne - y % fixOne) % fixOne else y % fixOne
      if f = 0 && decide (n ≥ -149) then sfuOut o (fmtF32.round ⟨.rne, false, true, 0⟩ false 1 n false).1
      else
        let p := fixExp (f * fixLn2 / fixOne)
        let x : Int := (if n ≥ 0 then p * 2 ^ n.toNat else p / 2 ^ (-n).toNat : Nat)
        sfuOut o (sfuPick 0x063 a x (ulps 2 x) noTop)

/-- LOG2 (R152): 2 ulp, and an absolute 2^-22 for inputs in [0.5, 2]. -/
def sfuLog2 (o : FOpt) (a : Nat) : Nat × Exc :=
  match fmtF32.decode a with
  | .nan _ _ _ => fmtF32.finish o [fmtF32.decode a] none
  | .inf neg => if neg then sfuSpecial o f32Nan excNV else sfuSpecial o f32Inf 0
  | .num neg m e =>
    if m = 0 then sfuSpecial o (f32Sign + f32Inf) excDZ
    else if neg then sfuSpecial o f32Nan excNV
    else
      let k := Nat.log2 m
      let n := topExp m e
      if m = 2 ^ k then sfuOut o (fmtF32.ofInt ⟨.rne, false, false, 0⟩ n).1
      else
        let z := (m - 2 ^ k) * fixOne / (m + 2 ^ k)
        let l := 2 * fixAtanh z * fixOne / fixLn2
        let x : Int := n * fixOne + l
        let y := toFix m e
        let bound := if fixOne ≤ 2 * y && decide (y ≤ 2 * fixOne) then 2 ^ 298 else ulps 2 x
        sfuOut o (sfuPick 0x064 a x bound noTop)

/-- SINPI (R152), odd bit for bit. -/
def sfuSinPi (o : FOpt) (a : Nat) : Nat × Exc :=
  match fmtF32.decode a with
  | .nan _ _ _ => fmtF32.finish o [fmtF32.decode a] none
  | .inf _ => sfuSpecial o f32Nan excNV
  | .num neg m e =>
    let s := fmtF32.signBit neg
    let g := toFix m e % (2 * fixOne)
    let flip := decide (g ≥ fixOne)
    let f := g % fixOne
    if f = 0 then sfuSpecial o s 0
    else
      let mag :=
        if 2 * f = fixOne then (fmtF32.signBit flip + f32One)
        else
          let h : Int := fixSinPi (if 2 * f > fixOne then fixOne - f else f)
          let x := if flip then -h else h
          sfuPick 0x065 (a % 2 ^ 31) x (ulps 2 x) noTop
      sfuOut o (if neg then mag ^^^ f32Sign else mag)

/-- COSPI (R152), even bit for bit. -/
def sfuCosPi (o : FOpt) (a : Nat) : Nat × Exc :=
  match fmtF32.decode a with
  | .nan _ _ _ => fmtF32.finish o [fmtF32.decode a] none
  | .inf _ => sfuSpecial o f32Nan excNV
  | .num _ m e =>
    let g := toFix m e % (2 * fixOne)
    let f := if g > fixOne then 2 * fixOne - g else g
    if f = 0 then sfuSpecial o f32One 0
    else if f = fixOne then sfuSpecial o (f32Sign + f32One) 0
    else if 2 * f = fixOne then sfuSpecial o 0 0
    else
      let flip := decide (2 * f > fixOne)
      let h : Int := fixSinPi (if flip then f - fixOne / 2 else fixOne / 2 - f)
      let x := if flip then -h else h
      sfuOut o (sfuPick 0x066 (a % 2 ^ 31) x (ulps 2 x) noTop)

/-- TANH (R152), odd bit for bit, at most 1 in magnitude. -/
def sfuTanh (o : FOpt) (a : Nat) : Nat × Exc :=
  match fmtF32.decode a with
  | .nan _ _ _ => fmtF32.finish o [fmtF32.decode a] none
  | .inf neg => sfuSpecial o (fmtF32.signBit neg + f32One) 0
  | .num neg m e =>
    let s := fmtF32.signBit neg
    if m = 0 then sfuSpecial o s 0
    else if toFix m e ≥ 10 * fixOne then sfuSpecial o (s + f32One) 0
    else
      let p := fixExpBig (2 * toFix m e)
      let x : Int := ((p - fixOne) * fixOne / (p + fixOne) : Nat)
      let mag := sfuPick 0x067 (a % 2 ^ 31) x (ulps 2 x) fixOne
      sfuOut o (if neg then mag ^^^ f32Sign else mag)

end Sys2Proof.Machine
end

