-- ==== Sys2Proof/Machine/FloatOps.lean ====
section
/-! DEFINITION. Floating-point arithmetic and special functions: majors 0x05 and 0x06 (R143 to R152).
Model's choices in this file: log entries 10, 28, 38. -/

namespace Sys2Proof.Machine

/-- How many elements a floating-point type packs into a register (R39). -/
def fpCount (t : Ty) : Nat := if t = .f16x2 ∨ t = .bf16x2 then 2 else 1

/-- An operation on each element of a type, after the source flush (R143, R145): the register and the flags of all
elements. -/
def fpLane (t : Ty) (ftz : Bool) (g : Nat → Nat → Nat → Nat × Exc) (a b c : Nat) : Nat × Exc :=
  let fm := fmtOf t
  let at' (x k : Nat) : Nat := fm.flushIn ftz (x / 2 ^ (16 * k))
  (List.range (fpCount t)).foldl (fun r k =>
    let y := g (at' a k) (at' b k) (at' c k)
    (r.1 + 2 ^ (16 * k) * y.1, r.2 ||| y.2)) (0, 0)

/-- The issue of `fpOp`. -/
def fpOpRule (op : Nat) (f : RForm) (one three rounds flags : Bool) (lat : Nat) : Rule :=
  let vec := isVec f.d (if one then [f.a] else readsAB f ++ (if three then [f.c] else []))
  let uses := [dst false vec f.d, src false f.a] ++ (if one then [] else useB f false) ++ (if three then [src false f.c] else [])
  { ruleR op f vec uses true false lat with fp := flags, rnd := if rounds then some (f.flags.toNat % 8) else none }

/-- A floating-point instruction on A, B unless `one`, and C when `three`. `g` takes the delivery, the format and the
flushed elements. -/
def fpOp (s : State) (op : Nat) (f : RForm) (one three : Bool) (rounds flags : Bool) (lat : Nat)
    (g : FOpt → Fmt → Nat → Nat → Nat → Nat × Exc) : Host.Outcome State Fault Refusal :=
  issue s (fpOpRule op f one three rounds flags lat) fun e =>
    let o := e.fopt f.flags f.sat2.toNat
    let r (i : Nat) : Nat × Exc := fpLane f.typ o.ftz (g o (fmtOf f.typ)) (e.a32 f i).toNat (e.b32 f i).toNat (e.c32 f i).toNat
    e.fpDone f.d (e.each fun i => (r i).2) fun good =>
      e.write32 f.d false (good.map fun i => (i, BitVec.ofNat 32 (r i).1))

/-! ## Major 0x05 -/

/-- FADD (R147). -/
def execFadd (f : RForm) (s : State) : Host.Outcome State Fault Refusal :=
  fpOp s 0x050 f false false true true 6 fun o fm a b _ => fm.add o (fm.decode a) (fm.decode b)

/-- FSUB (R147). -/
def execFsub (f : RForm) (s : State) : Host.Outcome State Fault Refusal :=
  fpOp s 0x051 f false false true true 6 fun o fm a b _ => fm.sub o (fm.decode a) (fm.decode b)

/-- FMUL (R147). -/
def execFmul (f : RForm) (s : State) : Host.Outcome State Fault Refusal :=
  fpOp s 0x052 f false false true true 6 fun o fm a b _ => fm.mul o (fm.decode a) (fm.decode b)

/-- FFMA (R147). -/
def execFfma (f : RForm) (s : State) : Host.Outcome State Fault Refusal :=
  fpOp s 0x053 f false true true true 6 fun o fm a b c => fm.fma o false false (fm.decode a) (fm.decode b) (fm.decode c)

/-- FFMS (R147). -/
def execFfms (f : RForm) (s : State) : Host.Outcome State Fault Refusal :=
  fpOp s 0x054 f false true true true 6 fun o fm a b c => fm.fma o false true (fm.decode a) (fm.decode b) (fm.decode c)

/-- FNFMA (R147). -/
def execFnfma (f : RForm) (s : State) : Host.Outcome State Fault Refusal :=
  fpOp s 0x055 f false true true true 6 fun o fm a b c => fm.fma o true false (fm.decode a) (fm.decode b) (fm.decode c)

/-- FMIN (R148). -/
def execFmin (f : RForm) (s : State) : Host.Outcome State Fault Refusal :=
  fpOp s 0x056 f false false false true 6 fun _ fm a b _ => fm.minmax false a b

/-- FMAX (R148). -/
def execFmax (f : RForm) (s : State) : Host.Outcome State Fault Refusal :=
  fpOp s 0x057 f false false false true 6 fun _ fm a b _ => fm.minmax true a b

/-- An element with its sign replaced. -/
def Fmt.withSign (fm : Fmt) (a : Nat) (neg : Bool) : Nat := a % 2 ^ (fm.eb + fm.mb) + fm.signBit neg

/-- Whether an element's sign bit is set. -/
def Fmt.isNeg (fm : Fmt) (a : Nat) : Bool := a.testBit (fm.eb + fm.mb)

/-- FABS (R149). -/
def execFabs (f : RForm) (s : State) : Host.Outcome State Fault Refusal :=
  fpOp s 0x058 f true false false false 6 fun _ fm a _ _ => (fm.withSign a false, 0)

/-- FNEG (R149). -/
def execFneg (f : RForm) (s : State) : Host.Outcome State Fault Refusal :=
  fpOp s 0x059 f true false false false 6 fun _ fm a _ _ => (fm.withSign a !(fm.isNeg a), 0)

/-- FCPSGN (R149). -/
def execFcpsgn (f : RForm) (s : State) : Host.Outcome State Fault Refusal :=
  fpOp s 0x05A f false false false false 6 fun _ fm a b _ => (fm.withSign a (fm.isNeg b), 0)

/-- FRND (R150). -/
def execFrnd (f : RForm) (s : State) : Host.Outcome State Fault Refusal :=
  fpOp s 0x05B f true false true true 6 fun o fm a _ _ => fm.rnd o (fm.decode a)

/-- FCLASS (R151). -/
def execFclass (f : RForm) (s : State) : Host.Outcome State Fault Refusal :=
  fpOp s 0x05C f true false false false 6 fun _ fm a _ _ => (fm.fclass a, 0)

/-- FDIV (R147). -/
def execFdiv (f : RForm) (s : State) : Host.Outcome State Fault Refusal :=
  fpOp s 0x05D f false false true true 14 fun o fm a b _ => fm.div o (fm.decode a) (fm.decode b)

/-! ## Major 0x06 -/

/-- RCP (R152). -/
def execRcp (f : RForm) (s : State) : Host.Outcome State Fault Refusal :=
  fpOp s 0x060 f true false false true 14 fun o _ a _ _ => sfuRcp o a

/-- RSQ (R152). -/
def execRsq (f : RForm) (s : State) : Host.Outcome State Fault Refusal :=
  fpOp s 0x061 f true false false true 14 fun o _ a _ _ => sfuRsq o a

/-- SQRT (R152): rounds by `rm()`, correctly. -/
def execSqrt (f : RForm) (s : State) : Host.Outcome State Fault Refusal :=
  fpOp s 0x062 f true false true true 14 fun o fm a _ _ => fm.sqrt o (fm.decode a)

/-- EXP2 (R152). -/
def execExp2 (f : RForm) (s : State) : Host.Outcome State Fault Refusal :=
  fpOp s 0x063 f true false false true 14 fun o _ a _ _ => sfuExp2 o a

/-- LOG2 (R152). -/
def execLog2 (f : RForm) (s : State) : Host.Outcome State Fault Refusal :=
  fpOp s 0x064 f true false false true 14 fun o _ a _ _ => sfuLog2 o a

/-- SINPI (R152). -/
def execSinpi (f : RForm) (s : State) : Host.Outcome State Fault Refusal :=
  fpOp s 0x065 f true false false true 14 fun o _ a _ _ => sfuSinPi o a

/-- COSPI (R152). -/
def execCospi (f : RForm) (s : State) : Host.Outcome State Fault Refusal :=
  fpOp s 0x066 f true false false true 14 fun o _ a _ _ => sfuCosPi o a

/-- TANH (R152). -/
def execTanh (f : RForm) (s : State) : Host.Outcome State Fault Refusal :=
  fpOp s 0x067 f true false false true 14 fun o _ a _ _ => sfuTanh o a

end Sys2Proof.Machine
end

