-- ==== Sys2Proof/Machine/Convert.lean ====
section
/-! DEFINITION. Conversions: major 0x07 (R153 to R158).
Model's choices in this file: log entries 20, 28. -/

namespace Sys2Proof.Machine

/-- The width and the sign of an integer type of CVT (R153). -/
def cvtInt (t : Ty) : Nat × Bool :=
  match t with
  | .u8 => (8, false)
  | .s8 => (8, true)
  | .u16 => (16, false)
  | .s16 => (16, true)
  | .s32 => (32, true)
  | .u64 => (64, false)
  | .s64 => (64, true)
  | _ => (32, false)

/-- An integer as a value. -/
def fvOfInt (x : Int) : FV := .num (decide (x < 0)) x.natAbs 0

/-- What a source of CVT holds: a value, and for an integer type that integer. The E8M0 NaN is a quiet NaN. -/
def cvtSrc (t : Ty) (ftz : Bool) (a : Nat) : FV :=
  if t.isInt then fvOfInt (toInt (cvtInt t).2 (cvtInt t).1 a)
  else if t = .e8m0 then (ofE8M0 (a % 256)).getD (.nan false false 0)
  else (fmtOf t).decode ((fmtOf t).flushIn ftz a)

/-- A conversion between two types (R153): the destination's bits, extended as the destination is written, and flags. -/
def cvt (o : FOpt) (dt st : Ty) (a : Nat) : Nat × Exc :=
  let v := cvtSrc st o.ftz a
  let width := if dt.wide then 64 else 32
  if dt.isInt then
    let w := (cvtInt dt).1
    let sg := (cvtInt dt).2
    if st.isInt then
      let x := toInt (cvtInt st).2 (cvtInt st).1 a
      (narrow false false width (toInt sg w (narrow sg o.sat w x)), 0)
    else
      let r := toIntConv o.rm (intLo sg w) (intHi sg w) v
      (narrow false false width r.1, r.2)
  else if dt = .e8m0 then toE8M0 o.rm o.sat v
  else
    let d := fmtOf dt
    if st.isInt then d.ofInt o (toInt (cvtInt st).2 (cvtInt st).1 a)
    else if st = .e8m0 then
      (if v.isNan then (if d.kind = .allNum then (d.clamp o.sat2 0, excNV) else (d.clamp o.sat2 d.canonNan, 0))
       else d.deliver o v)
    else (fmtOf st).conv d o v

/-- The issue of CVT. -/
def ruleCvt (f : RForm) : Rule :=
  let dt := f.typ
  let st := (Ty.ofCode f.e.code).getD .f32
  let vec := isVec f.d [f.a]
  { ruleR 0x070 f vec [dst dt.wide vec f.d, src st.wide f.a] true false 6 with fp := true, rnd := some (f.flags.toNat % 8) }

/-- CVT (R153): the source type stands in E. -/
def execCvt (f : RForm) (s : State) : Host.Outcome State Fault Refusal :=
  let dt := f.typ
  let st := (Ty.ofCode f.e.code).getD .f32
  issue s (ruleCvt f) fun e =>
    let o := e.fopt f.flags f.sat2.toNat
    let r (i : Nat) : Nat × Exc := cvt o dt st (if st.wide then (e.a64 f i).toNat else (e.a32 f i).toNat)
    e.fpDone f.d (e.each fun i => (r i).2) fun good =>
      if dt.wide then e.write64 f.d (good.map fun i => (i, BitVec.ofNat 64 (r i).1))
      else e.write32 f.d false (good.map fun i => (i, BitVec.ofNat 32 (r i).1))

/-- The issue of PACK2. -/
def rulePack2 (f : RForm) : Rule :=
  let half := fpCount f.typ = 2
  let vec := isVec f.d (readsAB f ++ (if half then [] else [f.c]))
  { ruleR 0x071 f vec ([dst false vec f.d, src false f.a] ++ useB f false ++ (if half then [] else [src false f.c])) true false 6 with
      fp := true, rnd := some (f.flags.toNat % 8) }

/-- PACK2 (R154): two F32 values rounded into the elements of the destination, beside C's other bits for FP8. -/
def execPack2 (f : RForm) (s : State) : Host.Outcome State Fault Refusal :=
  let d := fmtOf f.typ
  let half := fpCount f.typ = 2
  issue s (rulePack2 f) fun e =>
    let o := e.fopt f.flags f.sat2.toNat
    let conv (x : Word) : Nat × Exc := fmtF32.conv d o (fmtF32.decode (fmtF32.flushIn o.ftz x.toNat))
    let r (i : Nat) : Nat × Exc :=
      let a := conv (e.a32 f i)
      let b := conv (e.b32 f i)
      if half then (a.1 + 2 ^ 16 * b.1, a.2 ||| b.2)
      else
        let sh := 16 * (f.hint.toNat % 2)
        let c := (e.c32 f i).toNat
        (c - c / 2 ^ sh % 2 ^ 16 * 2 ^ sh + (a.1 + 2 ^ 8 * b.1) * 2 ^ sh, a.2 ||| b.2)
    e.fpDone f.d (e.each fun i => (r i).2) fun good =>
      e.write32 f.d false (good.map fun i => (i, BitVec.ofNat 32 (r i).1))

/-- The issue of UNPK2. -/
def ruleUnpk2 (f : RForm) : Rule :=
  let vec := isVec f.d [f.a]
  { ruleR 0x072 f vec [dst false vec f.d, src false f.a] true false 6 with fp := true }

/-- UNPK2 (R155): element N widened exactly. -/
def execUnpk2 (f : RForm) (s : State) : Host.Outcome State Fault Refusal :=
  let st := fmtOf f.typ
  issue s (ruleUnpk2 f) fun e =>
    let o : FOpt := ⟨.rne, e.ftz, false, f.sat2.toNat⟩
    let r (i : Nat) : Nat × Exc :=
      st.conv fmtF32 o (st.decode (st.flushIn o.ftz ((e.a32 f i).toNat / 2 ^ (st.width * f.hint.toNat))))
    e.fpDone f.d (e.each fun i => (r i).2) fun good =>
      e.write32 f.d false (good.map fun i => (i, BitVec.ofNat 32 (r i).1))

/-- The exponent of a block's scale for an element type (R156). -/
def mxEmax (t : Ty) : Int :=
  match t with
  | .e4m3 => 8
  | .e3m2 => 4
  | .s8 => 0
  | _ => 2

/-- The shared scale of a block of values (R156). -/
def mxScale (t : Ty) (vs : List FV) : Nat :=
  if vs.any fun v => match v with
    | .num _ _ _ => false
    | _ => true
  then 0xFF
  else
    let tops := vs.filterMap fun v => match v with
      | .num _ m e => if m = 0 then none else some (topExp m e)
      | _ => none
    match tops with
    | [] => 127
    | t0 :: ts => (satInt 0 254 (ts.foldl (fun a b => if a < b then b else a) t0 - mxEmax t + 127)).toNat

/-- One element of a block (R156). -/
def mxElem (t : Ty) (rm : RMode) (x : Nat) (v : FV) : Nat × Exc :=
  let nv : Exc := match v with
    | .inf _ => excNV
    | .nan _ sg _ => if sg then excNV else 0
    | _ => 0
  if x = 0xFF then
    (if t = .e4m3 then 0x7F + (match v with
      | .nan n _ _ => if n then 0x80 else 0
      | .inf n => if n then 0x80 else 0
      | .num n _ _ => if n then 0x80 else 0) else 0, nv)
  else match v with
    | .num n m e =>
      let e' := e + 127 - (x : Int)
      if t = .s8 then
        let r := roundInt rm n m (e' + 6)
        let y : Int := if n then -(r.1 : Int) else r.1
        if y < -128 ∨ 127 < y then (narrow false false 32 (satInt (-128) 127 y), excOF ||| excNX)
        else (narrow false false 32 y, if r.2 then excNX else 0)
      else (fmtOf t).deliver ⟨rm, false, true, 0⟩ (.num n m e')
    | _ => (0, nv)

/-- The issue of CVTMX. R156 wants a v register as D and faults any other class; R159 computes and discards for 0xFF: the model
faults BADSPEC (DESIGN CHOICE, log entry 52). -/
def ruleCvtmx (f : RForm) : Rule :=
  { ruleR 0x073 f true [⟨f.d, 1, 1, true, [.v]⟩, ⟨f.a, 1, 1, false, [.v]⟩, useSD f.e] false false 6 with
      fp := true, rnd := some (f.flags.toNat % 8) }

/-- CVTMX (R156): the lanes in `act` to one block with its scale; with a faulting lane it writes nothing. -/
def execCvtmx (f : RForm) (s : State) : Host.Outcome State Fault Refusal :=
  issue s (ruleCvtmx f) fun e =>
    let rm := e.rmode (f.flags.toNat % 8)
    let v (i : Nat) : FV := fmtF32.decode (fmtF32.flushIn e.ftz (e.a32 f i).toNat)
    let x := mxScale f.typ (e.lanes.map v)
    let res := e.each fun i => mxElem f.typ rm x (v i)
    e.fpDone f.d (res.map fun r => (r.1, r.2.2)) fun good =>
      if good.length = res.length then
        e.write32 f.d false (res.map fun r => (r.1, BitVec.ofNat 32 r.2.1)) ++ e.write32 f.e false [(0, BitVec.ofNat 32 x)]
      else []

/-! ## QN4 -/

/-- The distance of two numbers on a common exponent, as a pair of exact integers: `x` and `y` counted in units of the
smaller exponent. -/
def common (x : Int) (ex : Int) (y : Int) (ey : Int) : Int × Int :=
  let e := min ex ey
  (x * ((2 ^ (ex - e).toNat : Nat) : Int), y * ((2 ^ (ey - e).toNat : Nat) : Int))

/-- The signed mantissa of a number. -/
def signedMant (neg : Bool) (m : Nat) : Int := if neg then -(m : Int) else m

/-- The code a choice prefers among the sixteen: the first that no later one beats. -/
def bestCode (better : Nat → Nat → Bool) : Nat := (List.range 16).foldl (fun b k => if better k b then k else b) 0

/-- CVTQN on one lane (R157, R49). -/
def qnEncode (ftz : Bool) (a sbits c : Nat) : Nat × Exc :=
  let av := fmtF32.decode (fmtF32.flushIn ftz a)
  match fmtF32.decode (fmtF32.flushIn ftz sbits) with
  | .num sn sm se =>
    if sm * c = 0 then (0, excNV)
    else
      let m := signedMant sn (sm * c)
      match av with
      | .nan _ _ _ => (0, excNV)
      | .inf neg => (bestCode fun k b => if neg then qn4Level k * m < qn4Level b * m else qn4Level b * m < qn4Level k * m, excNV)
      | .num an am ae =>
        let dist (k : Nat) : Nat :=
          let p := common (qn4Level k * m) (se - 16) (signedMant an am) ae
          (p.1 - p.2).natAbs
        let code := bestCode fun k b => decide (dist k < dist b) || (decide (dist k = dist b) && decide ((qn4Level k).natAbs < (qn4Level b).natAbs))
        (code, if dist code = 0 then 0 else excNX)
  | _ => (0, excNV)

/-- The issue of CVTQN. -/
def ruleCvtqn (f : RForm) : Rule :=
  let vec := isVec f.d (readsAB f ++ [f.c])
  { ruleR 0x074 f vec ([dst false vec f.d, src false f.a] ++ useB f false ++ [src false f.c]) true false 6 with fp := true }

/-- CVTQN (R157). -/
def execCvtqn (f : RForm) (s : State) : Host.Outcome State Fault Refusal :=
  issue s (ruleCvtqn f) fun e =>
    let r (i : Nat) : Nat × Exc := qnEncode e.ftz (e.a32 f i).toNat (e.b32 f i).toNat ((e.c32 f i).toNat % 256)
    e.fpDone f.d (e.each fun i => (r i).2) fun good =>
      e.write32 f.d false (good.map fun i => (i, BitVec.ofNat 32 (r i).1))

/-- QNDEC on one lane (R158, R48): the exact product delivered; the sign of a zero product is the product's (log
entry 20). -/
def qnDecode (o : FOpt) (d : Fmt) (code sbits c : Nat) : Nat × Exc :=
  let l := qn4Level (code % 16)
  let sv := fmtF32.decode (fmtF32.flushIn o.ftz sbits)
  match sv with
  | .nan _ _ _ => fmtF32.conv d o sv
  | .inf neg =>
    if l = 0 ∨ c = 0 then (d.clamp o.sat2 d.canonNan, excNV)
    else d.deliver o (.inf (neg != decide (l < 0)))
  | .num neg m e => d.deliver o (.num (neg != decide (l < 0)) (m * l.natAbs * c) (e - 16))

/-- The issue of QNDEC. -/
def ruleQndec (f : RForm) : Rule :=
  let vec := isVec f.d (readsAB f ++ [f.c])
  { ruleR 0x075 f vec ([dst false vec f.d, src false f.a] ++ useB f false ++ [src false f.c]) true false 6 with
      fp := true, rnd := some (f.flags.toNat % 8) }

/-- QNDEC (R158): the nibble is named by HINT, or by C in the I form. -/
def execQndec (f : RForm) (s : State) : Host.Outcome State Fault Refusal :=
  issue s (ruleQndec f) fun e =>
    let o := e.fopt f.flags f.sat2.toNat
    let r (i : Nat) : Nat × Exc :=
      let c := (e.c32 f i).toNat
      let n := if f.imm.isSome then c / 256 % 8 else f.hint.toNat
      qnDecode o (fmtOf f.typ) ((e.a32 f i).toNat / 16 ^ n) (e.b32 f i).toNat (c % 256)
    e.fpDone f.d (e.each fun i => (r i).2) fun good =>
      e.write32 f.d false (good.map fun i => (i, BitVec.ofNat 32 (r i).1))

end Sys2Proof.Machine
end

