-- ==== Sys2Proof/Machine/Crests.lean ====
section
/-! DEFINITION. The frontier unit of a die: batches applied and acknowledged, subscriptions registered and cancelled,
and the crests that fire (R407 to R415, R421 to R423, R432).
Model's choices in this file: log entry 41. -/

namespace Sys2Proof.Machine

/-! ## Firing (R410, R414) -/

/-- A subscription whose crest has fired. -/
def State.subDue (s : State) (die : Nat) (b : Sub) : Bool :=
  match (s.die die).flow b.ctx b.flow with
  | none => false
  | some f =>
    f.complete b.loc b.time.toNat &&
    match b.action, b.last with
    | .fifo _ _ _, some l => (match l, f.frontier b.loc (some b.time.toNat) with
      | none, _ => false
      | some _, none => true
      | some x, some y => decide (x < y))
    | _, _ => true

/-- Subscriptions in the order in which they fire: by time, then by entry. -/
def insertSub (b : Nat × Sub) : List (Nat × Sub) → List (Nat × Sub)
  | [] => [b]
  | x :: xs => if b.2.time < x.2.time then b :: x :: xs else x :: insertSub b xs

/-- A message of a frontier unit to a comb, which carries no generation (R22). -/
def State.unitSend (s : State) (die ctx dst lcomb : Nat) (body : MsgBody) : State :=
  { s with nextUid := s.nextUid + 1, msgs := s.msgs ++ [⟨s.nextUid, 0, ctx, die, 0xFF, none, BitVec.ofNat 32 lcomb, false, .mesh dst, body⟩] }

/-- The CREST record (R356), an acquire at PKG scope when it is popped (R359). -/
def crestRecord (n : Nat) (b : Sub) (remote : Bool) : EvRec :=
  { evRec 5 (some b.ctx) 0xFF (n + 256 * b.flow + 2 ^ 16 * b.loc) (b.time.toNat % 2 ^ 32) (b.time.toNat / 2 ^ 32) remote with acq := some 3 }

/-- The actions of one firing (R414). -/
def State.fireSub (s : State) (die n : Nat) (b : Sub) : State :=
  let free (s : State) : State := s.modDie die fun d => { d with subs := Sparse.erase d.subs n }
  match b.action with
  | .post dst l => free (s.unitSend die b.ctx dst l (.record (crestRecord n b (decide (dst ≠ die)))))
  | .spawn r dst l =>
    let es := mergeEnt (mergeEnt [] ⟨b.loc, b.time, true, -1⟩) ⟨r.station, r.time, false, 1⟩
    free ((s.sendBatch die 0xFF b.ctx b.flow 0 es).1.unitSend die b.ctx dst l (.task r none none))
  | .fifo dst l bank =>
    match (s.die die).flow b.ctx b.flow with
    | none => s
    | some f =>
      let fr := f.frontier b.loc (some b.time.toNat)
      let t : DWord := match fr with
        | some x => BitVec.ofNat 64 (x - 1)
        | none => 0xFFFFFFFFFFFFFFFF
      (s.unitSend die b.ctx dst l (.advance bank t)).modDie die fun d => { d with subs := Sparse.put d.subs n { b with last := some fr } }
  | .ring num =>
    match (s.die die).ring b.ctx num with
    | some r => s.ringFinish die b.ctx num (r.slots + 1)
    | none => s

/-- Every armed subscription of a die whose crest has fired acts (R410). -/
def State.fire (s : State) (die : Nat) : State :=
  (((s.die die).subs.filter fun b => s.subDue die b.2).foldl (fun l b => insertSub b l) []).foldl (fun s b => s.fireSub die b.1 b.2) s

/-! ## Batches (R406 to R408) -/

/-- The key under which a die counts the SEQ it has applied of a sender. -/
def Batch.key (b : Batch) : Nat := (b.ctx * 16 + b.flow) * 2 ^ 16 + b.sender

/-- The next batch a die can apply: in a sender's order for a flow. -/
def State.nextBatch (s : State) (die : Nat) : Option Nat :=
  s.batches.findIdx? fun b => b.toReach.contains die && decide (Sparse.get 0 (s.die die).applied b.key = b.seq)

/-- The contexts whose spilled counts on a die fill an area that the firmware cannot extend end (R333, R408). -/
def State.spillLimit (s : State) (die : Nat) : State :=
  let n (ctx : Nat) : Nat := (((s.die die).flows.filter fun f => f.ctx = ctx).map fun f => f.spilled.length).foldl (· + ·) 0
  ((s.die die).flows.map (·.ctx)).eraseDups.foldl (fun s ctx => if n ctx ≤ s.spillCap ctx then s else s.endContext ctx 3 0 0) s

/-- A batch's counts in a replica, whole or not at all; a count that leaves its range fails the flow (R408). -/
def State.applyBatch (s : State) (die : Nat) (b : Batch) : State :=
  match (s.die die).flow b.ctx b.flow with
  | none => s
  | some f =>
    if f.failed then s
    else
      let f' := f.addAll b.ents
      if f'.failed then s.failFlow b.ctx b.flow 0x3F
      else (s.modDie die fun d => (d.setFlow f').spillCounts 64).spillLimit die

/-- BATCH_APPLY (R407, R410): the next batch is applied, and what it completes fires. -/
def execBatchApply (die : Nat) (s : State) : Host.Outcome State Fault Refusal :=
  match s.nextBatch die with
  | none => .next s
  | some i =>
    match s.batches[i]? with
    | none => .next s
    | some b =>
      let s := { s with batches := s.batches.set i { b with toReach := b.toReach.filter fun d => decide (d ≠ die) } }
      let s := s.modDie die fun d => { d with applied := Sparse.set 0 d.applied b.key ((b.seq + 1) % 2 ^ 32) }
      .next ((s.applyBatch die b).fire die)

/-- BATCH_ACKNOWLEDGEMENT (R407): the first batch that a die has applied and not acknowledged; with every
acknowledgement there its sender drops it. -/
def execBatchAcknowledgement (die : Nat) (s : State) : Host.Outcome State Fault Refusal :=
  match s.batches.findIdx? fun b => b.toAck.contains die && !b.toReach.contains die with
  | none => .next s
  | some i =>
    match s.batches[i]? with
    | none => .next s
    | some b =>
      let b := { b with toAck := b.toAck.filter fun d => decide (d ≠ die) }
      .next { s with batches := if b.toAck.isEmpty && b.toReach.isEmpty then s.batches.eraseIdx i else s.batches.set i b }

/-- PENDING_TIME_MERGE (R408): with room in the table, the smallest spilled entry comes back, and what it completes
fires. -/
def execPendingTimeMerge (die : Nat) (s : State) : Host.Outcome State Fault Refusal :=
  let d := s.die die
  match (if d.pending < 1024 then d.smallestSpilled else none) with
  | none => .next s
  | some (i, e) =>
    .next ((s.modDie die fun d => { d with flows := d.flows.modify i fun f =>
      { f with counts := addCount f.counts e, spilled := f.spilled.erase e } }).fire die)

/-! ## Requests (R413, R415, R432) -/

/-- Whether a request can be served: a ring's follows the batch that carries its hold (R432). -/
def Die.csubReady (d : Die) (q : CsubReq) : Bool :=
  match q.ring with
  | none => true
  | some (_, key, seq) => decide ((Sparse.get 0 d.applied key + 2 ^ 32 - (seq + 1)) % 2 ^ 32 < 2 ^ 31)

/-- The answer of a request to its issuer. -/
def State.csubAnswer (s : State) (q : CsubReq) (v : Nat) : State :=
  match s.thread q.agent with
  | some th => if th.wait = .answer q.uid then s.setThread q.agent { th with wait := .answered v } else s
  | none => s

/-- The NOTE hold of a SPAWN subscription, in the issuer's open batch, also that of a killed one (R191); one whose issuer has gone
is sent at once. -/
def State.noteHold (s : State) (q : CsubReq) (b : Sub) : State :=
  let ck := agentKey q.agent
  let hold (th : Thread) : State × Thread := s.count ck b.ctx th b.flow b.loc b.time true 1
  let own : Option State := match s.thread q.agent with
    | some th => if th.uid = q.issuer then some ((hold th).1.setThread q.agent (hold th).2) else s.withTask ck q.issuer hold
    | none => s.withTask ck q.issuer hold
  own.getD (s.sendBatch (keyDie ck) (keyComb ck) b.ctx b.flow 0 [⟨b.loc, b.time, true, 1⟩]).1

/-- Whether an action is SPAWN. -/
def SubAction.isSpawn : SubAction → Bool
  | .spawn _ _ _ => true
  | _ => false

/-- A subscription made (R415): the machine and D. -/
def State.subscribe (s : State) (die : Nat) (q : CsubReq) (b : Sub) : State × Nat :=
  let d := s.die die
  match d.flow b.ctx b.flow with
  | none => (s, 0x80000002)
  | some f =>
    if f.failed then (s, 0x80000002)
    else match d.freeSub with
      | none => (s, 0x80000001)
      | some n =>
        if b.action.isSpawn && !q.holdsPoint && aboveO (f.frontier b.loc none) b.time.toNat then (s, 0x80000003)
        else
          let s := s.modDie die fun d => { d with subs := Sparse.put d.subs n b }
          (if b.action.isSpawn then s.noteHold q b else s, n + 256 * s.dieName die)

/-- A subscription cancelled (R415, R432): the machine and D. -/
def State.unsubscribe (s : State) (die n : Nat) : State × Nat :=
  match Sparse.find? (s.die die).subs n with
  | none => (s, 1)
  | some b =>
    match b.action with
    | .ring _ => (s, 1)
    | a =>
      let s := s.modDie die fun d => { d with subs := Sparse.erase d.subs n }
      (if a.isSpawn then (s.sendBatch die 0xFF b.ctx b.flow 0 [⟨b.loc, b.time, true, -1⟩]).1 else s, 0)

/-- A ring's subscription registered under its entry; its first grants go out (R432). -/
def State.armRing (s : State) (die n : Nat) (b : Sub) : State :=
  match b.action with
  | .ring num =>
    match (s.die die).ring b.ctx num with
    | some r => (s.modDie die fun d => { d with subs := Sparse.put d.subs n b }).firstGrants die r
    | none => s
  | _ => s

/-- CSUB_REQUEST_ARRIVAL (R410, R415): the first request that can be served is, and what it completes fires. -/
def execCsubRequestArrival (die : Nat) (s : State) : Host.Outcome State Fault Refusal :=
  match (s.die die).csubs.find? (s.die die).csubReady with
  | none => .next s
  | some q =>
    let s := s.modDie die fun d => { d with csubs := d.csubs.filter fun x => decide (x.uid ≠ q.uid) }
    let r := match q.ring, q.cancel, q.sub with
      | some (n, _, _), _, some b => (s.armRing die n b, 0)
      | _, some n, _ => s.unsubscribe die n
      | _, _, some b => s.subscribe die q b
      | _, _, none => (s, 1)
    .next ((r.1.csubAnswer q r.2).fire die)

end Sys2Proof.Machine
end

