-- ==== Sys2Proof/Machine/Firmware.lean ====
section
/-! DEFINITION. What the steward firmware does with the records it pops: the dispatch of traps and the user handler, the
debugger's continue, stream faults, and the removal of a context (R180 to R184, R306, R356, R358, R390, R451). The
firmware's own code is not executed; each of its actions is one event (log entry 30).
Model's choices in this file: log entries 30, 31, 32. -/

namespace Sys2Proof.Machine

/-! ## The records the firmware pops -/

/-- The fields of a record's head (R355). -/
def EvRec.kind (r : EvRec) : Nat := r.w0.toNat % 256
def EvRec.src (r : EvRec) : Nat := r.w0.toNat / 2 ^ 16 % 256
def EvRec.ctxid (r : EvRec) : Nat := r.w0.toNat / 2 ^ 24

/-- Whether a record is a STEWMSG of a code. -/
def EvRec.isStewMsg (r : EvRec) (code : Nat) : Bool := decide (r.kind = 6) && decide (r.w1.toNat % 256 = code)

/-- The context whose group or stream a record asks to act on: of TRAP and ENGFAULT. -/
def EvRec.acts (r : EvRec) : Bool := decide (r.kind = 1) || decide (r.kind = 8)

/-- Whether the firmware cannot act on a record yet: its context is frozen (R346, R359). -/
def State.keeps (s : State) (ck : Nat) (r : EvRec) : Bool := r.acts && s.isFrozen ck r.ctxid

/-- The record the firmware acts on next: the oldest of those it keeps whose context is restored, else the oldest of the
queue (R354, R359). While a user handler runs it takes none (R181). -/
def State.headRecord (s : State) (ck : Nat) : Option EvRec :=
  let st := (s.comb ck).steward
  if st.handler.isSome then none
  else match st.kept.find? fun r => !s.keeps ck r with
    | some r => some r
    | none => (s.comb ck).evq.head?

/-- A record taken by the firmware: from those it keeps, or popped from the queue (R357, R359). -/
def State.popRecord (s : State) (ck : Nat) (r : EvRec) : State :=
  let s := s.modComb ck fun c =>
    if c.steward.kept.any fun x => !s.keeps ck x then { c with steward := { c.steward with kept := c.steward.kept.erase r } }
    else ({ c with evq := c.evq.drop 1 } : Comb).refillEvq
  match r.acq with
  | some sc => if 2 ≤ sc then s.dropL1 ck else s
  | none => s

/-! ## Traps (R181, R182) -/

/-- The registers of an operation that belongs to a run that is over take nothing of it any more. -/
def AsyncOp.deaf (op : AsyncOp) : AsyncOp :=
  match op.kind with
  | .load sh p g t l a n => { op with kind := .load { sh with dst := 0xFF } p g t l a n }
  | .values _ => { op with kind := .values [] }
  | _ => op

/-- The call of a user handler: the registers of R182, WINSEL on the trapped slot, the context of its group, and `lk` at the
firmware's dispatch loop, an address the spec does not state (free; log entry 17). Nothing that an earlier handler issued
reaches the registers any more. -/
def State.callHandler (s : State) (ck slot : Nat) (th : Thread) (ctx : Nat) (x : CtxRec) : State :=
  let args : List Word := [BitVec.ofNat 32 slot, th.trap.tcause, th.trap.tpc.setWidth 32, hiWord th.trap.tpc, th.trap.tmask, th.trap.tval, x.arg.setWidth 32, hiWord x.arg]
  let ret : DWord := (Config.freeWord (s.freeN * 2 ^ 16) ++ Config.freeWord (s.freeN * 2 ^ 16 + 1)) &&& ~~~3
  let s := s.modComb ck fun c =>
    let st := c.steward
    let t := st.th.flights.foldl Thread.land st.th
    let sr := ((List.range 8).zip args).foldl (fun m (a : Nat × Word) => Sparse.set 0 m a.1 a.2) t.s
    let t' := { t with s := sr, pc := x.handler, lk := ret, cd := 1, stopped := false, wait := .none, runLen := 0, fuse := none, lbuf := [], flights := [], uncov := [], issueAt := c.clk, readyAt := c.clk }
    let h : Handler := ⟨slot, th.uid, ctx, th.trap.tcause.toNat, th.trap.tpc, c.clk, (List.range 16).map fun k => Sparse.get 0 sr (48 + k), ret⟩
    { c with steward := { st with th := t', winsel := some slot, ctx := some ctx, handler := some h }, ops := c.ops.map fun o => if o.ownerUid = stewardUid ck then o.deaf else o }
  { s with freeN := s.freeN + 1 }

/-- What the firmware reports to the driver of a trap: its context and the trap registers (R181, R390). -/
def State.reportTrap (s : State) (ctx : Nat) (t : TrapRegs) : State :=
  { s with hive := { s.hive with trapReports := s.hive.trapReports ++ [(ctx, t)] } }

/-- A user trap: to the context's handler when its cause mask has the bit, otherwise the context ends, and the driver is
told TCAUSE, TPC and TVAL (R181). -/
def State.userTrap (s : State) (ck slot : Nat) (th : Thread) (ctx : Nat) : State :=
  match Sparse.find? s.ctxs ctx with
  | none => s
  | some x =>
    if x.causes.getLsbD th.trap.tcause.toNat then s.callHandler ck slot th ctx x
    else
      (s.reportTrap ctx th.trap).endContext ctx 1 th.trap.tcause.toNat (th.trap.tpc.toNat % 2 ^ 32)

/-- The address a trap reports (R185). -/
def TrapRegs.addr (t : TrapRegs) : Nat := t.tval2.toNat * 2 ^ 32 + t.tval.toNat

/-- A stopped group's trap dispatched by its cause (R181). -/
def State.dispatchTrap (s : State) (ck slot : Nat) (th : Thread) (ctx : Nat) : State :=
  let code := th.trap.tcause.toNat
  let user (_ : Unit) : State := s.userTrap ck slot th ctx
  let replay (absent : Bool) : State := if absent then user () else s.resumeGroup ck slot (th.settle (s.comb ck).clk) false (s.comb ck).clk
  if code = codeIPAGE then replay (match s.fetchLocs ck (some ctx) th.trap.addr with
    | .error c => decide (c = codeIPAGE)
    | .ok _ => false)
  else if code = codeDPAGE then replay (match s.translate ck (some ctx) th.trap.addr .read with
    | .error _ => true
    | .ok _ => false)
  else if code = codeDERR ∧ (s.comb ck).lostData.contains (lostKey ctx th.trap.addr) then s.endContext ctx 2 0 0
  else if code = codeBRK ∧ s.feature 5 ∧ ((Sparse.find? s.ctxs ctx).any fun x => x.dbg) then
    s.notify 7 ctx (s.combName ck + slot * 2 ^ 24) (th.trap.tpc.toNat % 2 ^ 32)
  else user ()

/-- A stream fault: a stream that met an absent page resumes when it is mapped; every other one ends its context, and so does
the fault of a pass, which leaves no lane in TMASK (R306, R314). The driver is told the trap registers. -/
def State.dispatchStream (s : State) (ck : Nat) (r : EvRec) : State :=
  let q := r.src % 64
  let code := r.w1.toNat % 64
  match Sparse.find? (s.comb ck).seqs q with
  | none => s
  | some x =>
    if code = codeDPAGE ∧ x.th.trap.tmask ≠ 0 ∧ (s.translate ck (some r.ctxid) x.th.trap.addr .read).isOk then
      s.modComb ck fun c => c.noteEligible (s.die (keyDie ck)).frozen
        { c with seqs := Sparse.put c.seqs q { x with th := { x.th with stopped := false, wait := .none, held := none } } }
    else (s.reportTrap r.ctxid x.th.trap).endContext r.ctxid 4 code r.w2.toNat

/-- The trap registers a record gives. -/
def EvRec.trapRegs (r : EvRec) : TrapRegs := ⟨r.w1, r.w2.setWidth 64, r.w3, 0, 0⟩

/-- Whether a record asks the firmware to do something: TRAP, STEWMSG and ENGFAULT (R358). -/
def EvRec.forFirmware (r : EvRec) : Bool := r.acts || decide (r.kind = 6)

/-- TRAP_RECORD_DISPATCH (R181): the firmware pops a record and acts on it. STEWMSG codes 4 and 5 have events of their
own. The firmware pops while some record of the queue asks it to act; others it leaves to EVPOP, or pops where they stand
before such a record (R358, R445; DESIGN CHOICE, log entry 30). The TRAP record of a commit it reports to the driver (R390). -/
def execTrapRecordDispatch (die comb : Nat) (s : State) : Host.Outcome State Fault Refusal :=
  let ck := combKey die comb
  match s.headRecord ck with
  | none => .next s
  | some r =>
    if r.isStewMsg 4 || r.isStewMsg 5 then .next s
    else if !(r.forFirmware || (s.comb ck).evq.any EvRec.forFirmware) then .next s
    else if s.keeps ck r then
      .next ((s.popRecord ck r).modComb ck fun c => { c with steward := { c.steward with kept := c.steward.kept ++ [r] } })
    else
      let s := s.popRecord ck r
      match r.kind with
      | 1 =>
        if r.src = 0xFF then .next (s.reportTrap r.ctxid r.trapRegs)
        else match Sparse.find? (s.comb ck).groups r.src with
        | none => .next s
        | some th =>
          if th.stopped ∧ th.undisp ∧ th.place.ctx = some r.ctxid then
            let th := { th with undisp := false }
            .next ((s.modComb ck fun c => { c with groups := Sparse.put c.groups r.src th }).dispatchTrap ck r.src th r.ctxid)
          else .next s
      | 8 => if r.w1.toNat / 256 % 4 = 3 then .next (s.dispatchStream ck r) else .next s
      | _ => .next s

/-- The longest a user handler runs (R184). -/
def handlerLimit : Nat := 2097152

/-- HANDLER_TIME_LIMIT (R184). -/
def execHandlerTimeLimit (die comb : Nat) (s : State) : Host.Outcome State Fault Refusal :=
  let ck := combKey die comb
  let c := s.comb ck
  match c.steward.handler with
  | none => .next s
  | some h =>
    if handlerLimit < c.clk - h.began then
      let s := s.endHandler ck 2 0 0
      .next (if s.cur = some (.steward die comb) then { s with cur := none } else s)
    else .next s

/-! ## The debugger (R181, R356) -/

/-- Whether a slot holds a group that the firmware holds for the debugger. -/
def State.heldForDebug (s : State) (ck slot : Nat) : Option Thread :=
  match Sparse.find? (s.comb ck).groups slot with
  | none => none
  | some th =>
    let dbg := match th.place.ctx with
      | some x => (Sparse.find? s.ctxs x).any fun r => r.dbg
      | none => false
    if th.stopped && !th.undisp && decide (th.trap.tcause.toNat = codeBRK) && dbg then some th else none

/-- The lowest slot held for the debugger. -/
def State.firstHeld (s : State) (ck : Nat) : Option (Nat × Thread) :=
  (List.range 64).findSome? fun k => (s.heldForDebug ck k).map fun th => (k, th)

/-- A debug-held group resumed (R181). -/
def State.debugResume (s : State) (ck slot : Nat) (replay : Bool) : State :=
  match s.heldForDebug ck slot with
  | some th => s.resumeGroup ck slot (th.settle (s.comb ck).clk) (!replay) (s.comb ck).clk
  | none => s

/-- DEBUG_CONTINUE (R181): the driver's STEWMSG code 5 resumes the slot it names. When none waits, the driver posts one for
the lowest held slot, with replay or skip as it likes: a free choice (log entry 31). -/
def execDebugContinue (die comb : Nat) (s : State) : Host.Outcome State Fault Refusal :=
  let ck := combKey die comb
  match s.headRecord ck with
  | some r =>
    if r.isStewMsg 5 then .next ((s.popRecord ck r).debugResume ck (r.w2.toNat % 64) (r.w2.getLsbD 8)) else .next s
  | none =>
    if (s.comb ck).steward.handler.isSome then .next s
    else match s.firstHeld ck with
      | some (k, _) => .next { s.debugResume ck k (Config.freeBool (s.freeN * 2 ^ 16)) with freeN := s.freeN + 1 }
      | none => .next s

/-! ## The end of a context (R181, R356, R450) -/

/-- A comb without a context: its groups, tasks, queued records and FIFO banks go, and their resources are free. A FIFO
bank of the context becomes OFF (log entry 32). -/
def Comb.withoutCtx (c : Comb) (ctx : Nat) : Comb :=
  let gone (th : Thread) : Bool := decide (th.place.ctx = some ctx)
  let uids := ((c.groups.filter fun g => gone g.2).map fun g => g.2.uid) ++ (c.seqs.filter fun q => gone q.2.th).map fun q => q.2.th.uid
  let qs := (c.seqs.filter fun q => gone q.2.th).map (·.1)
  let c : Comb := { c with groups := c.groups.filter fun g => !gone g.2, rclaims := c.rclaims.filter fun r => !uids.contains r.uid, passes := c.passes.filter fun p => !qs.contains p.seq, ops := c.ops.filter fun o => decide (o.ctx ≠ ctx), cancelled := c.cancelled.filter fun o => decide (o.ctx ≠ ctx), killed := c.killed.filter fun k => !gone k.th, parked := c.parked.filter fun m => decide (m.ctx ≠ ctx), ready := c.ready.filter fun e => decide (e.ctx ≠ ctx) }
  let teams := c.teams.filter fun t => decide (t.2.ctx = ctx)
  let c : Comb := teams.foldl (fun (c : Comb) (t : Nat × Team) => c.freeTeam t.1 t.2) c
  let c : Comb := { c with savedSlots := c.savedSlots.filter fun x => !(teams.map (·.1)).contains x.2, seqs := c.seqs.filter fun q => !gone q.2.th }
  let slots := (c.table.filter fun t => t.2.task.isSome && decide (t.2.ctx = ctx)).map (·.1)
  let c : Comb := slots.foldl (fun (c : Comb) k => c.freeTableSlot k) c
  let stew := c.steward.th
  let c : Comb := { c with steward := { c.steward with th := { stew with batches := stew.batches.filter (fun b => decide (b.ctx ≠ ctx)), sentSeq := stew.sentSeq.filter (fun q => decide (q.1 / 16 ≠ ctx)) } } }
  let keep (r : EvRec) : Bool := decide (r.ctxid ≠ ctx) || decide (r.kind = 6)
  let bank (b : Bank) : Bank := if b.mode = .fifo ∧ b.owner = ctx then Bank.ofMode .off else b
  ({ c with evq := c.evq.filter keep, overflow := c.overflow.filter keep, pendTraps := c.pendTraps.filter fun p => keep p.2, steward := { c.steward with kept := c.steward.kept.filter keep }, banks := c.banks.map bank, dtlb := c.dtlb.filter fun e => decide (e.ctx ≠ ctx), itlb := c.itlb.filter fun e => decide (e.ctx ≠ ctx), dcache := c.dcache.filter fun e => decide (e.ctx ≠ ctx), lostData := c.lostData.filter fun x => decide (x / 2 ^ 64 ≠ ctx) } : Comb).refillEvq

/-- A context removed from a comb; tasks of others that wait for room may enter the ready queue (R32, R356). -/
def State.clearCtx (s : State) (ck ctx : Nat) : State := (s.modComb ck fun c => c.withoutCtx ctx).admitRoom ck

/-- A die without a context. -/
def Die.withoutCtx (d : Die) (ctx : Nat) : Die :=
  { d with dtlb := d.dtlb.filter fun e => decide (e.ctx ≠ ctx), dcache := d.dcache.filter fun e => decide (e.ctx ≠ ctx), router := d.router.filter fun p => decide (p.ctx ≠ ctx), flows := d.flows.filter fun f => decide (f.ctx ≠ ctx), subs := d.subs.filter fun b => decide (b.2.ctx ≠ ctx), rings := d.rings.filter fun r => decide (r.ctx ≠ ctx), grantsWaiting := d.grantsWaiting.filter fun g => decide (g.1 % 256 ≠ ctx), csubs := d.csubs.filter fun q => match q.sub with
    | some b => decide (b.ctx ≠ ctx)
    | none => true, frozen := d.frozen.filter fun x => decide (x ≠ ctx), applied := d.applied.filter fun a => decide (a.1 / 2 ^ 20 ≠ ctx), seqOut := d.seqOut.filter fun q => decide (q.1 / 16 ≠ ctx), batchIn := d.batchIn.filter fun b => decide (b.ctx ≠ ctx), trees := d.trees.filter fun t => decide (t.2.ctx ≠ ctx) }

/-- Whether a message belongs to a context. -/
def Msg.ofCtx (m : Msg) (ctx : Nat) : Bool :=
  decide (m.ctx = ctx) && match m.body with
    | .record r => decide (r.kind ≠ 6)
    | _ => true

/-- Whether a broadcast concerns a context alone. -/
def BcastBody.ofCtx (b : BcastBody) (ctx : Nat) : Bool :=
  match b with
  | .freeze c => decide (c = ctx)
  | .thaw c => decide (c = ctx)
  | .flow f => decide (f.ctx = ctx)
  | _ => false

/-- The context is gone from every comb: what the package still holds of it goes, its pins among it (R247), and the records of
its CTXEND are done (R450). Their DONEADDRs are translated while its page tables still stand. -/
def State.eraseCtx (s : State) (ctx : Nat) (x : CtxRec) : State :=
  let s := x.endRecs.foldl (fun s r => s.recordDone ctx r.1 r.2.1 r.2.2) s
  let s := (s.combs.map (·.1)).foldl (fun s ck => (s.clearCtx ck ctx).modComb ck fun c => { c with seqOut := c.seqOut.filter fun q => decide (q.1 / 16 ≠ ctx) }) s
  let s := (s.dies.map (·.1)).foldl (fun s d => s.modDie d fun y => y.withoutCtx ctx) s
  { s with ctxs := Sparse.erase s.ctxs ctx, l2 := s.l2.map fun l => if l.2.pin = some ctx then (l.1, { l.2 with pin := none }) else l, kernels := s.kernels.filter fun k => decide (k.ctx ≠ ctx), msgs := s.msgs.filter fun m => !m.ofCtx ctx, batches := s.batches.filter fun b => decide (b.ctx ≠ ctx), images := s.images.filter fun i => decide (i.ctx ≠ ctx), journal := s.journal.filter fun j => decide (j.ctx ≠ ctx), commits := s.commits.filter fun c => decide (c.th.place.ctx ≠ some ctx), bcasts := s.bcasts.filter fun b => !b.body.ofCtx ctx }

/-- A comb has torn a context down; with the last one the context is gone. -/
def State.tornDown (s : State) (die comb ctx : Nat) : State :=
  match Sparse.find? s.ctxs ctx with
  | none => s
  | some x =>
    match x.ending with
    | none => s
    | some left =>
      let left := left.filter fun k => decide (k ≠ (die, comb))
      let s := { s with ctxs := Sparse.put s.ctxs ctx { x with ending := some left } }
      if left.isEmpty then s.eraseCtx ctx x else s

/-- The current agent is let go when it has left the machine. -/
def State.dropCur (s : State) : State :=
  match s.cur with
  | none => s
  | some a => if (s.thread a).isSome then s else { s with cur := none }

/-- CONTEXT_TEARDOWN (R356): STEWMSG code 4. From the hive controller, the steward removes the context from its comb; from
the driver, the launch station ends the context. -/
def execContextTeardown (die comb : Nat) (s : State) : Host.Outcome State Fault Refusal :=
  let ck := combKey die comb
  match s.headRecord ck with
  | none => .next s
  | some r =>
    if r.isStewMsg 4 then
      let s := s.popRecord ck r
      let ctx := r.w2.toNat % 256
      if r.w1.getLsbD 8 then .next (((s.clearCtx ck ctx).tornDown die comb ctx).dropCur)
      else if s.liveDies.head? = some die ∧ ck = s.lkey die 0 then .next (s.endContext ctx 5 0 0)
      else .next s
    else .next s

end Sys2Proof.Machine
end

