-- ==== Sys2Proof/Machine/Shake.lean ====
section
/-! DEFINITION. SHAKE256, with which the measurement slots are extended (R460). The manual names the function and does
not state it: it is taken from its public standard (PRESUMED, log entry 35). -/

namespace Sys2Proof.Machine

/-- The rotation of lane x + 5y. -/
def keccakRot : List Nat :=
  [0, 1, 62, 28, 27, 36, 44, 6, 55, 20, 3, 10, 43, 25, 39, 41, 45, 15, 21, 8, 18, 2, 61, 56, 14]

/-- The constant of each round. -/
def keccakRC : List DWord :=
  [0x0000000000000001, 0x0000000000008082, 0x800000000000808A, 0x8000000080008000, 0x000000000000808B, 0x0000000080000001,
   0x8000000080008081, 0x8000000000008009, 0x000000000000008A, 0x0000000000000088, 0x0000000080008009, 0x000000008000000A] ++
  [0x000000008000808B, 0x800000000000008B, 0x8000000000008089, 0x8000000000008003, 0x8000000000008002, 0x8000000000000080,
   0x000000000000800A, 0x800000008000000A, 0x8000000080008081, 0x8000000000008080, 0x0000000080000001, 0x8000000080008008]

/-- A round of the permutation on 25 lanes. -/
def keccakRound (a : List DWord) (rc : DWord) : List DWord :=
  let at' (l : List DWord) (x y : Nat) : DWord := l.getD (x % 5 + 5 * (y % 5)) 0
  let c := (List.range 5).map fun x => at' a x 0 ^^^ at' a x 1 ^^^ at' a x 2 ^^^ at' a x 3 ^^^ at' a x 4
  let d := (List.range 5).map fun x => c.getD ((x + 4) % 5) 0 ^^^ (c.getD ((x + 1) % 5) 0).rotateLeft 1
  let t := (List.range 25).map fun k => (a.getD k 0 ^^^ d.getD (k % 5) 0).rotateLeft (keccakRot.getD k 0)
  let b := (List.range 25).map fun k =>
    let x := k % 5
    let y := k / 5
    at' t (x + 3 * y) x
  let e := (List.range 25).map fun k =>
    let x := k % 5
    let y := k / 5
    at' b x y ^^^ (~~~(at' b (x + 1) y) &&& at' b (x + 2) y)
  match e with
  | [] => []
  | l :: ls => (l ^^^ rc) :: ls

/-- The permutation. -/
def keccak (a : List DWord) : List DWord := keccakRC.foldl keccakRound a

/-- Lanes from bytes. -/
def lanesOf (bs : List Byte) : List DWord := (List.range 25).map fun k => BitVec.ofNat 64 (leNat ((bs.drop (8 * k)).take 8))

/-- Blocks of 136 bytes absorbed. -/
def absorb : Nat → List DWord → List Byte → List DWord
  | 0, a, _ => a
  | n + 1, a, bs => absorb n (keccak (List.zipWith (· ^^^ ·) a (lanesOf (bs.take 136)))) (bs.drop 136)

/-- SHAKE256 of some bytes, to 256 bits. -/
def shake256 (m : List Byte) : BitVec 256 :=
  let n := m.length / 136 + 1
  let pad := m ++ [0x1F] ++ List.replicate (136 * n - m.length - 1) 0
  let pad := pad.modify (136 * n - 1) fun (b : Byte) => b ||| 0x80
  let a := absorb n (List.replicate 25 0) pad
  BitVec.ofNat 256 (leNat ((a.take 4).flatMap fun (l : DWord) => leBytes 8 l.toNat))

/-- The bytes of a slot. -/
def slotBytes (m : BitVec 256) : List Byte := leBytes 32 m.toNat

/-- A slot extended with the data it measures (R460). -/
def extendSlot (m : BitVec 256) (d : List Byte) : BitVec 256 := shake256 (slotBytes m ++ slotBytes (shake256 d))

end Sys2Proof.Machine
end

