-- ==== Sys2Proof/Machine/Host.lean ====
section
/-! DEFINITION. The host's side: the adapter's registers, the host queue and its launch records, the flits of a link, and
register accesses to the hive controller (R248, R393, R426, R446 to R452).
Model's choices in this file: log entries 24, 33, 34. -/

namespace Sys2Proof.Machine

/-! ## Registers of the adapter (R447, R448, R452) -/

/-- Whether a number is a power of two in a range. -/
def pow2In (v lo hi : Nat) : Bool :=
  decide (lo ≤ v) && decide (v ≤ hi) && (List.range 17).any fun k => decide (v = 2 ^ k)

/-- Whether a ring of so many records lies wholly in logical die 0's HBM below the firmware region (R447). -/
def State.ringFits (s : State) (base n : Nat) : Bool :=
  s.liveDies.head? = some (base / 2 ^ 50) && decide (base % 2 ^ 50 + 128 * n ≤ firmwareBase)

/-- Whether the host queue is open (R447). -/
def Adapter.queueOpen (ad : Adapter) : Bool := ad.qbaseOk && ad.qsizeOk

/-- QBASE_WRITE (R447). -/
def execQbaseWrite (v : BitVec 64) (s : State) : Host.Outcome State Fault Refusal :=
  let ad := s.adapter
  if s.hive.state = 3 ∧ ad.qhead = ad.qtail ∧ v.toNat % 4096 = 0 ∧ s.ringFits v.toNat (if ad.qsizeOk then ad.qsize else 16) then
    .next { s with adapter := { ad with qbase := v, qbaseOk := true, qhead := 0, qtail := 0 } }
  else .next s

/-- QSIZE_WRITE (R447). -/
def execQsizeWrite (v : BitVec 64) (s : State) : Host.Outcome State Fault Refusal :=
  let ad := s.adapter
  if s.hive.state = 3 ∧ ad.qhead = ad.qtail ∧ pow2In v.toNat 16 4096 ∧ (ad.qbaseOk → s.ringFits ad.qbase.toNat v.toNat) then
    .next { s with adapter := { ad with qsize := v.toNat, qsizeOk := true, qhead := 0, qtail := 0 } }
  else .next s

/-- The launch station: the steward of logical comb 0 of logical die 0 (R448). -/
def State.station (s : State) : Nat := s.lkey (s.liveDies.headD 0) 0

/-- The doorbell's record; its value words are not stated: free values (log entry 34). -/
def State.doorbell (s : State) : State :=
  let v (k : Nat) : Nat := (Config.freeWord (s.freeN * 2 ^ 16 + k)).toNat
  { s.sendRecord s.station 0xFF (stewMsg 1 0 (v 0) (v 1)) with freeN := s.freeN + 1 }

/-! ## The hive controller's registers (R209, R212, R213, R248, R356, R371, R392, R451, R457, R461)

The spec names what the driver reads and writes and gives no offsets: the model takes kind × 2^20 + die × 2^12 + place (DESIGN
CHOICE, log entry 34). -/

/-- The kinds of registers. -/
inductive HiveReg where
  | errors | cairn | ports | drops | forage | certificate | steward | status | pairing | cap | report | plain
  deriving DecidableEq, Repr

/-- The register that an offset names: from 2^32 on, the released reports, 2^12 bytes apart. -/
def hiveReg (off : Nat) : HiveReg :=
  if 2 ^ 32 ≤ off then .report else
  match off / 2 ^ 20 with
  | 1 => .errors
  | 2 => .cairn
  | 3 => .ports
  | 4 => .drops
  | 5 => .forage
  | 6 => .certificate
  | 7 => .steward
  | 8 => .status
  | 9 => .pairing
  | 10 => .cap
  | _ => .plain

/-- Where an offset lies in its register. -/
def hivePlace (off : Nat) : Nat :=
  match hiveReg off with
  | .plain => off % 8
  | .certificate => off % 2 ^ 20
  | .status => off % 2 ^ 20
  | .pairing => off % 2 ^ 20
  | _ => off % 2 ^ 12

/-- The bytes of a die's cairn table (R209). -/
def cairnBytes (d : Die) : List Byte :=
  (List.range 156).flatMap fun c =>
    let x := (Sparse.find? d.cairn c).getD ⟨false, false⟩
    leBytes 2 ((if x.dead then 0xFF else d.lcomb c) + (if x.field then 2 ^ 14 else 0) + (if x.dead then 2 ^ 15 else 0))

/-- The port of X-then-Y routing (R213). -/
def xyPort (die dest : Nat) : Nat :=
  if die % 6 < dest % 6 then 2 else if dest % 6 < die % 6 then 4 else if dest / 6 < die / 6 then 1 else if die / 6 < dest / 6 then 3 else 0

/-- The PORT field of a router's entry for a die (R212, R213). -/
def State.port (s : State) (die dest : Nat) : Nat :=
  if !(s.die dest).live then 7 else match Sparse.find? (s.die die).ovr dest with
    | some p => p
    | none => xyPort die dest

/-- A PORT entry (R212). -/
def State.portEntry (s : State) (die dest : Nat) : Byte :=
  BitVec.ofNat 8 (s.port die dest + if s.port die dest = xyPort die dest then 0 else 8)

/-- A forage counter (R392). -/
def Forage.bytes (f : Forage) : List Byte :=
  leBytes 20 (f.next + f.limit * 2 ^ 64 + f.grid % 256 * 2 ^ 128 + f.ctx * 2 ^ 136 + f.nextDie * 2 ^ 150 + f.prio * 2 ^ 156 + 2 ^ 159)

/-- The keys of R457 and the bytes of their signatures. -/
inductive KeySet where
  /-- XMSSMT-SHAKE256_40/2_256: the vendor's, for firmware images and the certificate. -/
  | vendor
  /-- XMSS-SHAKE256_20_256: the hive controller's, for attestation reports. -/
  | identity
  deriving DecidableEq, Repr

/-- How long a signature of a key is (R457). -/
def KeySet.sigBytes : KeySet → Nat
  | .vendor => 5605
  | .identity => 2820

/-- How many leaves the identity key has (R457, R458). -/
def leaves : Nat := 2 ^ 20

/-- A released report: 384 bytes and their signature (R461). -/
def State.reportBytes (s : State) (r : Report) : List Byte :=
  let leaf := r.leaf.getD 0
  let body := leBytes 2 1 ++ leBytes 2 0 ++ leBytes 4 leaf ++ leBytes 8 r.starts ++ leBytes 32 r.nonce.toNat ++ leBytes 16 s.hive.identity.serial ++
    (r.slots.flatMap fun m => slotBytes m) ++ leBytes 16 r.features.toNat ++ leBytes 1 r.gen ++ leBytes 1 r.nlive ++ leBytes 1 r.err ++ leBytes 1 r.alarm ++ leBytes 44 0
  body ++ leBytes KeySet.identity.sigBytes (Config.signature leaf (leNat body))

/-- What the driver reads at an offset: all bytes of the table that the offset names, from the offset on. The status of each report
request is a word (R461), and the peer of each fabric port a double word (R453). -/
def State.hiveBytes (s : State) (off : Nat) : List Byte :=
  let die := off / 2 ^ 12 % 64
  let d := s.die die
  let whole : List Byte := match hiveReg off with
    | .errors => (List.range 16).flatMap fun k => leBytes 4 (Sparse.get 0 d.errCounts k)
    | .cairn => cairnBytes d
    | .ports => (List.range 36).map fun x => s.portEntry die x
    | .drops => leBytes 8 d.drops
    | .forage => (List.range 64).flatMap fun k => match Sparse.find? d.forage k with
      | some f => f.bytes
      | none => leBytes 20 0
    | .certificate => s.hive.identity.cert
    | .steward => []
    | .status => s.hive.statuses.flatMap fun x => leBytes 4 x
    | .pairing => (List.range 48).flatMap fun p => leBytes 8 (Sparse.get 0 s.hive.pairing p)
    | .cap => leBytes 8 d.cap
    | .report => match s.hive.released[(off - 2 ^ 32) / 2 ^ 12]? with
      | some r => s.reportBytes r
      | none => []
    | .plain => leBytes 8 (Sparse.get 0 s.hive.regs (off / 8 * 8)).toNat
  whole.drop (hivePlace off)

/-- The adapter's registers as the host reads them (R447). -/
def State.adapterBytes (s : State) (off : Nat) : Option (List Byte) :=
  let ad := s.adapter
  let status := s.hive.state + (s.die (s.liveDies.headD 0)).gen.toNat * 2 ^ 16 + s.liveDies.length * 2 ^ 20 + s.hive.err * 2 ^ 32
  match off with
  | 0x000 => some (leBytes 8 status)
  | 0x010 => some (leBytes 16 s.hive.foffer.toNat)
  | 0x020 => some (leBytes 16 ad.faccept.toNat)
  | 0x040 => some (leBytes 8 ad.qbase.toNat)
  | 0x048 => some (leBytes 8 ad.qsize)
  | 0x050 => some (leBytes 8 ad.qtail)
  | 0x058 => some (leBytes 8 ad.qhead)
  | 0x060 => some (leBytes 8 ad.nbase.toNat)
  | 0x068 => some (leBytes 8 (ad.nsize + ad.nhead * 2 ^ 32))
  | 0x070 => some (leBytes 8 ad.ntail)
  | _ => none

/-- Read data sent back on a link (R446). -/
def State.reply (s : State) (link tag : Nat) (bs : List Byte) : State := s.sendFlit link 2 tag 0 bs

/-- A STEWMSG that the driver posts to a comb (R356): code 4 to logical comb 0 of logical die 0, code 5 to any. -/
def State.driverMsg (s : State) (die lcomb : Nat) (v : BitVec 64) : State :=
  let code := v.toNat % 256
  let ck := s.lkey die lcomb
  if (code = 4 ∧ ck = s.station) ∨ (code = 5 ∧ (s.die die).live ∧ lcomb < (s.die die).combs) then
    s.sendRecord ck 0xFF (stewMsg code 0 (v.toNat / 2 ^ 32) 0)
  else s

/-- QTAIL_WRITE (R447, R448): ignored while the queue is not open; a doorbell that overruns posts notice kind 4. -/
def execQtailWrite (v : BitVec 64) (s : State) : Host.Outcome State Fault Refusal :=
  let ad := s.adapter
  if ad.queueOpen then
    let q := ad.qsize
    let new := v.toNat % q
    if (ad.qhead + q + q - ad.qtail - 1) % q < (new + q - ad.qtail) % q then .next (s.notify 4 (v.toNat % 2 ^ 32) 0 0)
    else .next ({ s with adapter := { ad with qtail := new } } : State).doorbell
  else .next s

/-- NBASE_WRITE (R447): the notices held so far are written once the ring stands. -/
def execNbaseWrite (v : BitVec 64) (s : State) : Host.Outcome State Fault Refusal :=
  let ad := s.adapter
  if v.toNat % 4096 = 0 ∧ ad.nhead = ad.ntail then
    .next (({ s with adapter := { ad with nbase := v, nbaseOk := true } } : State).drainNotices ad.held.length)
  else .next s

/-- NSIZE_NHEAD_WRITE (R447): a change of NSIZE, or a move of NHEAD. -/
def execNsizeNheadWrite (v : BitVec 64) (s : State) : Host.Outcome State Fault Refusal :=
  let ad := s.adapter
  let n := v.toNat % 2 ^ 32
  if !pow2In n 16 65536 then .next s
  else if n = ad.nsize then
    .next (({ s with adapter := { ad with nhead := v.toNat / 2 ^ 32 % n } } : State).drainNotices ad.held.length)
  else if ad.nhead = ad.ntail then
    .next (({ s with adapter := { ad with nsize := n, nsizeOk := true, nhead := 0, ntail := 0 } } : State).drainNotices ad.held.length)
  else .next s

/-- FACCEPT_WRITE (R447, R452, R460): once after each start; slot 4 is extended with the applied vector. -/
def execFacceptWrite (v : BitVec 128) (s : State) : Host.Outcome State Fault Refusal :=
  let ad := s.adapter
  if s.hive.state = 3 ∧ !ad.accepted then
    let h := { s.hive with meas := s.hive.meas.modify 4 fun m => extendSlot m (leBytes 16 (s.hive.foffer &&& v).toNat) }
    .next { s with adapter := { ad with faccept := v, accepted := true }, hive := h }
  else .next s

/-- A word of a die's error block cleared (R248). -/
def State.clearErr (s : State) (die word : Nat) : State :=
  if word < 16 then s.modDie die fun d => { d with errCounts := Sparse.set 0 d.errCounts word 0 } else s

/-- REGISTER_WRITE (R451): a 0 clears a word of an error block (R248), a STEWMSG goes to its steward (R356), a fabric port gets its
peer (R453) and a die its power cap, from 200 W to 360 W (R456); what the driver only reads keeps its value, and any other register
holds what is written. -/
def execRegisterWrite (off : Nat) (v : BitVec 64) (s : State) : Host.Outcome State Fault Refusal :=
  let die := off / 2 ^ 12 % 64
  match hiveReg off with
  | .errors => .next (if v = 0 then s.clearErr die (off % 2 ^ 12 / 4) else s)
  | .steward => .next (s.driverMsg die (off % 2 ^ 12 / 8) v)
  | .pairing =>
    let p := off % 2 ^ 20 / 8
    .next (if p < 48 then { s with hive := { s.hive with pairing := Sparse.set 0 s.hive.pairing p v.toNat } } else s)
  | .cap => .next (if die < 36 ∧ 200 ≤ v.toNat ∧ v.toNat ≤ 360 then s.modDie die fun d => { d with cap := v.toNat } else s)
  | .plain => .next { s with hive := { s.hive with regs := Sparse.set 0 s.hive.regs (off / 8 * 8) v } }
  | _ => .next s

/-- ERROR_COUNT_CLEAR (R248): a write of 0 to a word of a die's error block. -/
def execErrorCountClear (die word : Nat) (s : State) : Host.Outcome State Fault Refusal := .next (s.clearErr die word)

/-! ## Flits (R446) -/

/-- The die that carries a Redex link (R454). -/
def linkDie (link : Nat) : Nat := if link = 0 then 0 else 35

/-- A register access through a link: the adapter's registers by their offsets (R447), any other of the hive controller. One
without payload reads (DESIGN CHOICE, log entry 34). -/
def State.hostRegister (s : State) (link tag n off : Nat) (bs : List Byte) : Host.Outcome State Fault Refusal :=
  let v : BitVec 64 := BitVec.ofNat 64 (leNat (bs.take 8))
  if bs.isEmpty then .next (s.reply link tag (((s.adapterBytes off).getD (s.hiveBytes off)).take n))
  else match off with
  | 0x020 => execFacceptWrite (BitVec.ofNat 128 (leNat (bs.take 16))) s
  | 0x040 => execQbaseWrite v s
  | 0x048 => execQsizeWrite v s
  | 0x050 => execQtailWrite v s
  | 0x060 => execNbaseWrite v s
  | 0x068 => execNsizeNheadWrite v s
  | 0x000 => .next s
  | 0x010 => .next s
  | 0x058 => .next s
  | 0x070 => .next s
  | _ => execRegisterWrite off v s

/-- Whether the host may access a physical range: HBM of a live die below the firmware region (R221, R222). -/
def State.hostMay (s : State) (addr n : Nat) : Bool :=
  (s.die (addr / 2 ^ 50)).live && decide (addr / 2 ^ 50 < 36) && decide (addr % 2 ^ 50 + n ≤ firmwareBase)

/-- A replay buffer without the flits of a link up to the one acknowledged. -/
def dropAcked (link n : Nat) : List (Nat × Flit) → List (Nat × Flit)
  | [] => []
  | x :: xs => if x.1 = link then if x.2.seq = n then xs else dropAcked link n xs else x :: dropAcked link n xs

/-- An acknowledgement received: the flits sent up to that one leave the replay buffer. One that names no flit sent changes nothing. -/
def State.acked (s : State) (link n : Nat) : State :=
  if s.adapter.replay.any fun x => decide (x.1 = link) && decide (x.2.seq = n) then
    { s with adapter := { s.adapter with replay := dropAcked link n s.adapter.replay } }
  else s

/-- FLIT_RECEIVE (R446): a flit that fails its CRC or is not the next in sequence is left to the sender's replay. Any other is
acknowledged, unless it is an acknowledgement; a read request is answered with its data, a write lands in memory, a register access
at its register; the types that answer what the host sends of itself change nothing here (log entry 34). -/
def execFlitReceive (link : Nat) (f : Flit) (s : State) : Host.Outcome State Fault Refusal :=
  let want := s.adapter.rxSeq.getD link 0
  if f.crc = flitCrc f ∧ link < 2 ∧ (s.die (linkDie link)).live ∧ f.seq % 256 = want then
    let s := { s with adapter := { s.adapter with rxSeq := s.adapter.rxSeq.set link ((want + 1) % 256) } }
    let s := if f.kind = 4 then s else s.sendFlit link 4 f.tag 0 (leBytes 1 want)
    if f.len = 0 ∨ 240 < f.len then .next s
    else match f.kind with
      | 1 => .next (if s.hostMay f.addr f.len then s.reply link f.tag (s.bytesNow f.addr f.len) else s)
      | 3 =>
        let bs := f.payload.take f.len
        if s.hostMay f.addr bs.length then
          .next (s.putBytes 0xFF 2 (byteItems ((List.range bs.length).map (f.addr + ·)) (leNat bs)))
        else .next s
      | 4 => .next (s.acked link (leNat (f.payload.take 1)))
      | 5 => s.hostRegister link f.tag f.len f.addr (f.payload.take f.len)
      | _ => .next s
  else .next s

/-! ## Launch records (R448 to R450) -/

/-- A field of a record. -/
def recField (bs : List Byte) (at' n : Nat) : Nat := leNat ((bs.drop at').take n)

/-- Whether the station still has a doorbell to pop. -/
def State.doorbellWaits (s : State) : Bool :=
  let c := s.comb s.station
  (c.evq.any fun r => r.isStewMsg 1) || (c.overflow.any fun r => r.isStewMsg 1) ||
  s.msgs.any fun m => match m.body with
    | .record r => r.isStewMsg 1
    | _ => false

/-- The record at QHEAD with its address, when the station can take it: it has popped the doorbell and runs no user
handler (R181, R448). -/
def State.launchRec (s : State) : Option (Nat × List Byte) :=
  let ad := s.adapter
  let at' := ad.qbase.toNat + 128 * ad.qhead
  if decide (s.hive.state = 3) && ad.queueOpen && s.ringFits ad.qbase.toNat ad.qsize && decide (ad.qhead ≠ ad.qtail) && (s.comb s.station).steward.handler.isNone && !s.doorbellWaits then
    some (at', s.bytesNow at' 128)
  else none

/-- QHEAD past a record whose STATUS is written (R448). -/
def State.advanceHead (s : State) : State :=
  { s with adapter := { s.adapter with qhead := (s.adapter.qhead + 1) % s.adapter.qsize } }

/-- A record rejected for a reason (R450). -/
def State.reject (s : State) (at' reason : Nat) : State := (s.setStatus at' (0x80 + reason)).advanceHead

/-- Whether every byte of a record outside the named ranges (first, length) is 0 (R449). -/
def zeroOutside (bs : List Byte) (used : List (Nat × Nat)) : Bool :=
  (List.range 128).all fun k => (used.any fun r => decide (r.1 ≤ k) && decide (k < r.1 + r.2)) || decide (bs.getD k 0 = 0)

/-- The list of dies of a record. -/
def recDies (bs : List Byte) : List Nat := ((bs.drop 48).take (recField bs 3 1)).map (·.toNat)

/-- Whether a list names a dead die or one twice (R450 reason 2). -/
def State.badList (s : State) (ds : List Nat) : Bool := (ds.any fun d => !s.liveDies.contains d) || decide (ds.eraseDups.length ≠ ds.length)

/-- Whether a context exists and is not ending. -/
def State.ctxAlive (s : State) (ctx : Nat) : Bool := (Sparse.find? s.ctxs ctx).any fun x => x.ending.isNone

/-- A record that the station rejects for its form: before FACCEPT, a reserved KIND (R450, R452). -/
def State.earlyReject (s : State) (kind : Nat) : Bool := (!s.adapter.accepted && decide (kind ≠ 3)) || decide (kind = 0) || decide (4 < kind)

/-- The reason a CTXNEW is rejected for, or 0 (R450). -/
def State.ctxnewBad (s : State) (bs : List Byte) : Nat :=
  let f := recField bs
  let n := f 3 1
  if s.earlyReject (f 0 1) || !zeroOutside bs [(0, 6), (8, 40), (48, n), (88, 8)] || decide (n = 0) || decide (36 < n) ||
      !([0, 1, 2, 3, 7].contains (f 2 1)) || decide (1 < f 5 1) || (decide (f 5 1 = 1) && !s.feature 5) ||
      decide (f 8 8 % 65536 ≠ 0) || decide (2 ^ 56 ≤ f 8 8) || !canonical (f 16 8) || decide (f 16 8 % 64 ≠ 0) || decide (4096 < f 24 8) then 1
  else if s.badList (recDies bs) then 2
  else if (Sparse.find? s.ctxs (f 1 1)).isSome then 3
  else if 256 ≤ s.ctxs.length then 5
  else 0

/-- The context a CTXNEW creates (R195, R449), with the spill area that the firmware can give it (R333). -/
def ctxOfRec (bs : List Byte) (cap : Nat) : CtxRec :=
  let f := recField bs
  { ptroot := f 8 8, dtbase := BitVec.ofNat 64 (f 16 8), dtcount := f 24 8, iset := recDies bs, rset := f 2 1, dbg := decide (f 5 1 = 1), handler := BitVec.ofNat 64 (f 32 8), arg := BitVec.ofNat 64 (f 40 8), causes := BitVec.ofNat 64 (f 88 8), spillCap := cap, ending := none, endRecs := [] }

/-- The record read at SYS scope with acquire ordering: the station's comb keeps no older copy (R243, R257, R448). -/
def State.takeRec (s : State) : State := s.dropL1 s.station

/-- CTXNEW (R449, R450): the context exists, and its record is done. A record of a reserved kind is rejected here. -/
def execCtxnew (s : State) : Host.Outcome State Fault Refusal :=
  match s.launchRec with
  | none => .next s
  | some (at', bs) =>
    let k := recField bs 0 1
    let s := s.takeRec
    if k = 1 then
      match s.ctxnewBad bs with
      | 0 => .next (({ s with ctxs := Sparse.put s.ctxs (recField bs 1 1) (ctxOfRec bs (Config.spillCap s.freeN)), freeN := s.freeN + 1 } : State).setStatus at' 2).advanceHead
      | r => .next (s.reject at' r)
    else if k = 0 ∨ 4 < k then .next (s.reject at' 1)
    else .next s

/-- The reason a GRID is rejected for, or 0 (R450, R455). -/
def State.gridBad (s : State) (bs : List Byte) : Nat :=
  let f := recField bs
  let n := f 3 1
  if s.earlyReject (f 0 1) || !zeroOutside bs [(0, 5), (8, 40), (48, n)] || decide (n = 0) || decide (36 < n) || decide (16 ≤ f 2 1) ||
      decide (f 24 8 = 0) || decide (2 ^ 32 < f 24 8) then 1
  else if s.badList (recDies bs) then 2
  else if s.ctxAlive (f 1 1) then 0 else 3

/-- A grid as its record describes it, waiting for counters. -/
def gridOfRec (bs : List Byte) (at' u : Nat) : Grid :=
  let f := recField bs
  { num := 256 + u, ctx := f 1 1, entry := BitVec.ofNat 64 (f 8 8), param := BitVec.ofNat 64 (f 16 8), prio := f 2 1 % 8, count := f 24 8, ring := recDies bs, doneAddr := BitVec.ofNat 64 (f 32 8), doneVal := BitVec.ofNat 64 (f 40 8), recAddr := at', waiting := true, retired := 0, lost := 0, launched := u }

/-- Whether every die of a grid's ring has a free forage counter (R392). -/
def State.countersFree (s : State) (g : Grid) : Bool := g.ring.all fun d => decide ((s.die d).forage.length < 64)

/-- The lowest grid number not in use. -/
def State.freeGrid (s : State) : Option Nat := (List.range 256).find? fun n => !s.grids.any fun g => g.num = n

/-- A waiting grid starts: the counters of its ring get its index ranges (R392, R393). -/
def State.startGrid (s : State) (g : Grid) (num : Nat) : State :=
  let n := g.ring.length
  let s := ((List.range n).zip g.ring).foldl (fun s (x : Nat × Nat) =>
    let c : Forage := ⟨g.prio, g.ring.getD ((x.1 + 1) % n) 0, g.ctx, num, (x.1 + 1) * g.count / n, x.1 * g.count / n⟩
    s.modDie x.2 fun d => d.addForage c) s
  { s with grids := s.grids.map fun x => if x.num = g.num then { g with num := num, waiting := false } else x }

/-- The waiting grids start in the order they were accepted, as far as counters are free. -/
def State.startWaiting (s : State) : List Grid → State
  | [] => s
  | g :: gs =>
    match s.freeGrid with
    | none => s
    | some n => if s.countersFree g then (s.startGrid g n).startWaiting gs else s.startWaiting gs

/-- Waiting grids that can start do. -/
def State.startGrids (s : State) : State := s.startWaiting (s.grids.filter fun g => g.waiting)

/-- GRID (R392, R449, R450): accepted grids that wait for counters start when they can; a record with WAITPREV waits until
every earlier grid is done. -/
def execGrid (s : State) : Host.Outcome State Fault Refusal :=
  let s := s.startGrids
  match s.launchRec with
  | none => .next s
  | some (at', bs) =>
    let s := s.takeRec
    if recField bs 0 1 = 2 then
      match s.gridBad bs with
      | 0 =>
        if bs.getD 2 0 &&& 8 ≠ 0 ∧ !s.grids.isEmpty then .next s
        else
          let g := gridOfRec bs at' s.nextUid
          .next (({ s with grids := s.grids ++ [g], nextUid := s.nextUid + 1 }.setStatus at' 1).advanceHead).startGrids
      | r => .next (s.reject at' r)
    else .next s

/-- CTXEND (R449, R450): the context ends; the record is done when every comb has torn it down. -/
def execCtxend (s : State) : Host.Outcome State Fault Refusal :=
  match s.launchRec with
  | none => .next s
  | some (at', bs) =>
    let f := recField bs
    let s := s.takeRec
    if f 0 1 = 3 then
      if !zeroOutside bs [(0, 2), (4, 1), (32, 16)] then .next (s.reject at' 1)
      else match Sparse.find? s.ctxs (f 1 1) with
        | none => .next (s.reject at' 3)
        | some x =>
          let x := { x with endRecs := x.endRecs ++ [(at', BitVec.ofNat 64 (f 32 8), BitVec.ofNat 64 (f 40 8))] }
          .next ((({ s with ctxs := Sparse.put s.ctxs (f 1 1) x }.setStatus at' 1).endContext (f 1 1) 5 0 0).advanceHead)
    else .next s

/-! ## Reduction trees (R425, R426) -/

/-- An entry of the table of a TREE record: V and the fields of R425; reserved fields are ignored (R2). -/
def treeOfBytes (bs : List Byte) : Option Tree :=
  let x := leNat bs
  if x.testBit 63 then
    some { ctx := x / 2 ^ 48 % 256, parent := x / 2 ^ 42 % 8, mask := x / 2 ^ 37 % 32, op := x / 2 ^ 34 % 8, ty := x / 2 ^ 28 % 64, count := x % 2 ^ 13, round := 0, inputs := [], sent := none, result := none }
  else none

/-- Whether an entry holds no reserved value (R425). -/
def Tree.valid (t : Tree) : Bool :=
  decide (t.parent < 5) && decide (1 ≤ t.count) && decide (t.count ≤ 4096) &&
  (match Ty.ofCode t.ty with
    | some .f32 => decide (t.op < 3)
    | some .s32 => decide (t.op < 3)
    | some .u32 => decide (t.op < 3)
    | some .b32 => decide (3 ≤ t.op) && decide (t.op < 6)
    | _ => false)

/-- The entry of a die in a table. -/
def treeAt (ts : List (Option Tree)) (die : Nat) : Option Tree := ts.getD die none

/-- Whether following PARENT from a die reaches the root. -/
def reachesRoot (ts : List (Option Tree)) : Nat → Nat → Bool
  | 0, _ => false
  | n + 1, die =>
    match treeAt ts die with
    | none => false
    | some t => if t.parent = 0 then true else match neighbour die t.parent with
      | some p => reachesRoot ts n p
      | none => false

/-- Whether a die's MASK names exactly the neighbours that name it as their parent (R426). -/
def maskOk (ts : List (Option Tree)) (die : Nat) (t : Tree) : Bool :=
  [1, 2, 3, 4].all fun dir =>
    let child := match neighbour die dir with
      | some d => (treeAt ts d).any fun c => decide (c.parent = opposite dir)
      | none => false
    t.mask.testBit dir == child

/-- Whether the hive controller accepts a tree (R426). -/
def State.treeOk (s : State) (ts : List (Option Tree)) : Bool :=
  let inside := (List.range 36).filterMap fun d => (treeAt ts d).map fun t => (d, t)
  match inside with
  | [] => false
  | (_, t0) :: _ =>
    (inside.all fun x => x.2.valid && (s.die x.1).live && decide (x.2.ctx = t0.ctx) && decide (x.2.op = t0.op) && decide (x.2.ty = t0.ty) && decide (x.2.count = t0.count) && maskOk ts x.1 x.2 && reachesRoot ts 36 x.1) &&
    decide ((inside.filter fun x => x.2.parent = 0).length = 1)

/-- The table a TREE record names, at an address of the record's context (R183; log entry 24); nothing where it is not
mapped. -/
def State.treeTable (s : State) (ctx va : Nat) : Option (List (Option Tree)) :=
  (List.range 36).mapM fun d =>
    let a := (va + 16 * d) % 2 ^ 64
    match s.transBytes s.station (some ctx) a 16 .read with
    | .ok ls => some (treeOfBytes ((s.leafLocs ctx (keyDie s.station) ls a 16).map s.byteNow))
    | .error _ => none

/-- TREE (R425, R426, R450): a whole tree written, one entry on each die, or refused. -/
def execTree (s : State) : Host.Outcome State Fault Refusal :=
  match s.launchRec with
  | none => .next s
  | some (at', bs) =>
    let f := recField bs
    let s := s.takeRec
    if f 0 1 = 4 then
      if s.earlyReject 4 || !zeroOutside bs [(0, 3), (4, 1), (8, 8), (32, 16)] || decide (16 ≤ f 2 1) then .next (s.reject at' 1)
      else if !s.ctxAlive (f 1 1) then .next (s.reject at' 3)
      else match s.treeTable (f 1 1) (f 8 8) with
        | none => .next (s.reject at' 4)
        | some ts =>
          if s.treeOk ts then
            let s := s.liveDies.foldl (fun s d => s.modDie d fun x => { x with trees := match treeAt ts d with
              | some t => Sparse.put x.trees (f 2 1) t
              | none => Sparse.erase x.trees (f 2 1) }) s
            .next (s.recordDone (f 1 1) at' (BitVec.ofNat 64 (f 32 8)) (BitVec.ofNat 64 (f 40 8))).advanceHead
          else .next (s.reject at' 4)
    else .next s

end Sys2Proof.Machine
end

