-- ==== Sys2Proof/Machine/Lane.lean ====
section
/-! DEFINITION. Lane instructions: major 0x04 (R133 to R140). -/

namespace Sys2Proof.Machine

/-- The rule of a lane instruction: always a vector one, accepted on cores alone, of class L (R114, R133). -/
def ruleLane (op : Nat) (f : RForm) (uses : List Use) : Rule := ruleR op f true uses false false 8

/-- Operand A of a lane instruction: a v register, or a pair of them. -/
def laneA (f : RForm) (wide : Bool) : Use := ⟨f.a, if wide then 2 else 1, if wide then 2 else 1, false, [.v]⟩

/-- A destination of a lane instruction. -/
def laneD (f : RForm) (kinds : List Kind) : Use := ⟨f.d, 1, 1, true, kinds⟩

/-- The issue of XPERM. -/
def ruleXperm (f : RForm) : Rule :=
  { ruleLane 0x040 f ([laneD f [.v, .sink], laneA f false] ++ useBP f false) with cls := some 0 }

/-- XPERM (R134): lane j of A whatever its masks, counted in LD. It takes the core's port into the comb store for 2 clk, and
its result lands 12 clk after it takes it (R135). -/
def execXperm (f : RForm) (s : State) : Host.Outcome State Fault Refusal :=
  issue s (ruleXperm f) fun e =>
    let ws := e.write32 f.d false (e.each fun i => e.read32 f.a (patLane f.apat ((e.b32 f i).toNat % 32)))
    let p := e.takePort e.s 2
    let r := e.async p.1 e.th 0 0 none (.values ws) (ws.map fun w => (w.code, e.lanes)) (due := p.2 + 12)
    e.out r.1 r.2

/-- The issue of VOTE. D = 0xFF faults BADSPEC (R136), where R142 has the result discarded (DESIGN CHOICE, log entry 52). -/
def ruleVote (f : RForm) : Rule :=
  let mode := f.flags.toNat % 4
  let kinds : List Kind := if mode = 2 then [.s, .v] else [.q, .p]
  ruleLane 0x041 f [laneD f kinds, ⟨f.a, 1, 1, false, [.p]⟩]

/-- VOTE (R136). -/
def execVote (f : RForm) (s : State) : Host.Outcome State Fault Refusal :=
  let mode := f.flags.toNat % 4
  issue s (ruleVote f) fun e =>
    let bits := e.each fun i => (e.a32 f i).getLsbD 0
    let r : Word := match mode with
      | 0 => bitWord (bits.any (·.2))
      | 1 => bitWord (bits.all (·.2))
      | 2 => laneMask ((bits.filter (·.2)).map (·.1))
      | _ => bitWord (bits.all (·.2) || bits.all fun b => !b.2)
    match f.d with
    | .q _ => e.done (e.write32 f.d false [(0, r)])
    | .s _ => e.done (e.write32 f.d false [(0, r)])
    | _ => e.done (e.write32 f.d false (e.each fun _ => r))

/-- The integer operations of GREDI and GSCAN on exact values (R137, R139). -/
def reduceInt (op : Nat) (sg : Bool) (xs : List Int) : Int :=
  match op with
  | 0 => xs.foldl (· + ·) 0
  | 1 => xs.foldl (fun a b => if b < a then b else a) (intHi sg 32)
  | 2 => xs.foldl (fun a b => if a < b then b else a) (intLo sg 32)
  | 3 => xs.foldl (fun a b => ((a.toNat &&& b.toNat : Nat) : Int)) 0xFFFFFFFF
  | 4 => xs.foldl (fun a b => ((a.toNat ||| b.toNat : Nat) : Int)) 0
  | 5 => xs.foldl (fun a b => ((a.toNat ^^^ b.toNat : Nat) : Int)) 0
  | _ => xs.headD 0

/-- A reduction's result in 32 bits, saturated with S (R137, R139). -/
def reduceWord (f : RForm) (xs : List Int) : Word :=
  let sg := f.typ.elems.2.2
  BitVec.ofNat 32 (narrow sg (f.flags.getLsbD 3) 32 (reduceInt (f.flags.toNat % 8) sg xs))

/-- A lane's value as an integer of the type. -/
def Env.laneInt (e : Env) (f : RForm) (i : Nat) : Int := toInt f.typ.elems.2.2 32 (e.a32 f i).toNat

/-- A result for the whole group: once into an s register, or into every lane in `act`. -/
def Env.combined (e : Env) (d : Spec) (r : Word) : List RegWrite :=
  match d with
  | .s _ => e.write32 d false [(0, r)]
  | _ => e.write32 d false (e.each fun _ => r)

/-- The issue of GREDI. -/
def ruleGredi (f : RForm) : Rule :=
  ruleLane 0x042 f [laneD f [.s, .v, .sink], laneA f false]

/-- GREDI (R137). -/
def execGredi (f : RForm) (s : State) : Host.Outcome State Fault Refusal :=
  issue s (ruleGredi f) fun e =>
    e.done (e.combined f.d (reduceWord f (e.lanes.map (e.laneInt f))))

/-- One level of the tree of R138. -/
def treeLevel (op : Nat → Nat → Nat × Exc) : List (Option Nat) → List (Option Nat) × Exc
  | a :: b :: rest =>
    let r := treeLevel op rest
    match a, b with
    | some x, some y => (some (op x y).1 :: r.1, (op x y).2 ||| r.2)
    | some x, none => (some x :: r.1, r.2)
    | none, y => (y :: r.1, r.2)
  | l => (l, 0)

/-- The five levels of the tree, and the flags of every node. -/
def treeReduce (op : Nat → Nat → Nat × Exc) : Nat → List (Option Nat) → List (Option Nat) × Exc
  | 0, l => (l, 0)
  | n + 1, l =>
    let r := treeLevel op l
    let r' := treeReduce op n r.1
    (r'.1, r.2 ||| r'.2)

/-- The issue of GREDF. -/
def ruleGredf (f : RForm) : Rule :=
  { ruleLane 0x043 f [laneD f [.s, .v, .sink], laneA f false] with fp := true, rnd := some (f.flags.toNat % 8) }

/-- GREDF (R138): the fixed tree over the flushed sources; an enabled flag traps with TMASK = `act` and writes nothing. For
`.min` and `.max` the rule of FMIN and FMAX decides between a NaN and a number. A lone active lane passes through the tree with no
operation on it: a signalling NaN is neither made quiet nor raises NV (R58 against R138; both DESIGN CHOICE, log entry 52). -/
def execGredf (f : RForm) (s : State) : Host.Outcome State Fault Refusal :=
  issue s (ruleGredf f) fun e =>
    let o := e.fopt f.flags 0
    let node (x y : Nat) : Nat × Exc :=
      match f.hint.toNat % 4 with
      | 0 => fmtF32.add o (fmtF32.decode x) (fmtF32.decode y)
      | k => fmtF32.minmax (k = 2) x y
    let r := treeReduce node 5 ((List.range 32).map fun i => if e.act.getLsbD i then some (fmtF32.flushIn o.ftz (e.a32 f i).toNat) else none)
    let x := ((r.1.headD none).getD 0)
    if r.2 &&& trapEnables e.th.mode ≠ 0 then
      .ok ⟨e.s, e.th, [], r.2, some ⟨codeFPEXC, e.act, f.d.code, r.2.toNat⟩, .seq⟩
    else .ok ⟨e.s, e.th, e.combined f.d (BitVec.ofNat 32 x), r.2, none, .seq⟩

/-- The issue of GSCAN. -/
def ruleGscan (f : RForm) : Rule :=
  ruleLane 0x044 f [laneD f [.v, .sink], laneA f false]

/-- GSCAN (R139). -/
def execGscan (f : RForm) (s : State) : Host.Outcome State Fault Refusal :=
  let excl := f.hint.getLsbD 0
  issue s (ruleGscan f) fun e =>
    e.done (e.write32 f.d false (e.each fun i =>
      reduceWord f ((e.lanes.filter fun j => decide (j < i) || (!excl && decide (j = i))).map (e.laneInt f))))

/-- The issue of MATCHEQ. -/
def ruleMatchEq (f : RForm) : Rule :=
  ruleLane 0x045 f [laneD f [.v, .sink], laneA f f.typ.wide]

/-- MATCH (R140). -/
def execMatchEq (f : RForm) (s : State) : Host.Outcome State Fault Refusal :=
  issue s (ruleMatchEq f) fun e =>
    e.done (e.write32 f.d false (e.each fun i => laneMask (e.lanes.filter fun j => e.aN f j = e.aN f i)))

end Sys2Proof.Machine
end

