-- ==== Sys2Proof/Machine/Preempt.lean ====
section
/-! DEFINITION. Pre-emption: CTXSAVE and CTXLOAD and their images (R322, R323, R345 to R353). An image holds the bytes
the spec lays out; for the rest, which it calls opaque or does not lay out, an image holds a number that names what the State
keeps of it (log entry 25).
Model's choices in this file: log entries 25, 27, 52, 54. -/

namespace Sys2Proof.Machine

/-! ## Images -/

/-- The kinds of an image (R349). -/
def ImageBody.kind : ImageBody → Nat
  | .group _ _ _ _ => 1
  | .team _ _ _ _ _ => 2
  | .queues _ _ _ => 3
  | .fifo _ _ => 4
  | .copies _ => 5

/-- The 24 bytes that name an image's hidden part, and back. -/
def refBytes (n : Nat) : List Byte := leBytes 24 (BitVec.ofNat 192 n ^^^ Config.imageMask).toNat
def refNum (bs : List Byte) : Nat := (BitVec.ofNat 192 (leNat bs) ^^^ Config.imageMask).toNat

/-- The outstanding CP count of a group, with the copies that are cancelled or saved (R347, R351). -/
def State.cpCount (s : State) (ck uid : Nat) : Nat :=
  let mine (os : List AsyncOp) : Nat := (os.filter fun o => decide (o.ownerUid = uid) && decide (o.cls = 1)).length
  mine (s.comb ck).ops + mine (s.comb ck).cancelled + (s.images.map fun i => match i.body with
    | .copies os => if i.loaded then 0 else mine os
    | _ => 0).foldl (· + ·) 0

/-- Bytes of zeros. -/
def zeros (n : Nat) : List Byte := List.replicate n 0

/-- A field of an image: `n` bytes from a place on. -/
def imageField (bs : List Byte) (at' n : Nat) : Nat := leNat ((bs.drop at').take n)

/-- The first 1,024 bytes of a group image and its v registers (R351). -/
def groupImage (s : State) (ck slot num : Nat) (th : Thread) : List Byte :=
  let st := (if th.stopped then 2 else if th.ready then 0 else 1) + 128 * ((s.comb ck).pendTrap slot).toNat
  let tf := th.trap
  leBytes 2 1 ++ [1, BitVec.ofNat 8 st] ++ leBytes 4 (1024 + 128 * th.budget) ++ leBytes 1 (th.place.ctx.getD 0) ++
  leBytes 1 (th.budget / 8) ++ leBytes 1 (slot / 16) ++ leBytes 1 th.place.gid ++ leBytes 4 th.place.tid.toNat ++ leBytes 8 th.pc.toNat ++
  leBytes 4 th.em.toNat ++ leBytes 4 th.lm.toNat ++ leBytes 4 th.mode.toNat ++ leBytes 4 th.fstat.toNat ++ leBytes 8 th.lk.toNat ++
  leBytes 4 (s.cpCount ck th.uid) ++ leBytes 2 th.ordinal ++ zeros 10 ++
  ((List.range 64).flatMap fun k => leBytes 4 (Sparse.get 0 th.s k).toNat) ++
  ((List.range 7).flatMap fun k => leBytes 4 (Sparse.get 0 th.p k).toNat) ++ leBytes 4 (th.q.toNat + 2 ^ 24 * th.cd.toNat) ++
  ((List.range 12).flatMap fun k => leBytes 4 (loopWord th k)) ++
  leBytes 4 tf.tcause.toNat ++ leBytes 8 tf.tpc.toNat ++ leBytes 4 tf.tmask.toNat ++ leBytes 4 tf.tval.toNat ++ leBytes 4 tf.tval2.toNat ++
  refBytes num ++ (match th.place.record with
    | some r => r.bytes
    | none => zeros 64) ++ zeros 512 ++
  (List.range (32 * th.budget)).flatMap fun k => leBytes 4 (Sparse.get 0 th.v k).toNat

/-- A group as its image's bytes and its hidden part say. -/
def groupOf (bs : List Byte) (th : Thread) : Thread :=
  let at' := imageField bs
  let w (o : Nat) : Word := BitVec.ofNat 32 (at' o 4)
  let regs (o n : Nat) : List (Nat × Word) := (List.range n).foldl (fun m k => Sparse.set 0 m k (w (o + 4 * k))) []
  let loops := (List.range 12).foldl (fun (ls : List LoopEnt) k => ls.modify (k / 3) fun e => putLoop e (k % 3) (w (352 + 4 * k))) (List.replicate 4 LoopEnt.reset)
  { th with
    v := regs 1024 (32 * (8 * at' 9 1)), s := regs 64 64, p := regs 320 7, q := BitVec.ofNat 7 (at' 348 4), cd := BitVec.ofNat 4 (at' 351 1),
    pc := BitVec.ofNat 64 (at' 16 8), em := w 24, lm := w 28, mode := w 32, fstat := w 36, lk := BitVec.ofNat 64 (at' 40 8), loops := loops,
    trap := ⟨w 400, BitVec.ofNat 64 (at' 404 8), w 412, w 416, w 420⟩, stopped := decide (at' 3 1 % 4 = 2), budget := 8 * at' 9 1,
    ordinal := at' 52 2, lbuf := [], flights := [], uncov := [], runLen := 0, fuse := none,
    place := { th.place with gid := at' 11 1, tid := w 12, record := if th.place.isTask then some (TaskRec.ofBytes ((bs.drop 448).take 64)) else none } }

/-- The header of an image of another kind (R351). -/
def imageHead (kind len ctx : Nat) : List Byte :=
  leBytes 2 1 ++ [BitVec.ofNat 8 kind, 0] ++ leBytes 4 len ++ leBytes 1 ctx ++ zeros 55

/-- The header of an image and the bytes up to 128: the number of its hidden part and what the kind keeps there. -/
def imageStart (kind len ctx num : Nat) (more : List Byte) : List Byte :=
  imageHead kind len ctx ++ refBytes num ++ more ++ zeros (40 - more.length)

/-- The header of a matrix image (R322), of a team with tiles, with or without a stream. MRP names the pass that the engine
holds for the sequencer: one that it has granted and not completed (R113). The spec does not number the entries of the reservation
table; the model gives the pass's place among the posted passes, modulo 16 (DESIGN CHOICE, log entry 52). -/
def matrixHead (c : Comb) (x : Option Seq) (t : Team) (passes : List Pass) : List Byte :=
  let mrp := match passes.find? fun p => p.paused.isSome || decide (0 < p.grant) with
    | some p => 2 ^ 31 + (((c.passes.findIdx? fun q => q.uid = p.uid).getD 0) % 16) * 2 ^ 24 + p.kstep % 2 ^ 20
    | none => 0
  let flags := x.isSome.toNat + 2 * (passes.any fun p => p.paused.isSome).toNat
  leBytes 2 1 ++ leBytes 1 t.tiles.length ++ leBytes 1 flags ++ leBytes 4 64 ++ leBytes 1 t.ctx ++ leBytes 1 passes.length ++
  leBytes 2 0 ++ leBytes 4 t.index ++ leBytes 4 (match x with
    | some x => x.th.fstat.toNat
    | none => 0) ++ leBytes 4 mrp ++ zeros 40

/-- Where a team image keeps its granules' contents: after its barriers, granule list and pools. -/
def teamData (granules pools : Nat) : Nat := 256 + 4 * granules + 4 * pools

/-- A granule in a team image: its 8 KiB and its written-word bitmap. -/
def granuleBytes (c : Comb) (g : Nat) : List Byte :=
  Sparse.getRun 0 c.scratch (g * 8192) 8192 ++ leBytes 256 (Sparse.get 0 c.written g)

/-- The address or target word of a buffered entry (R340). -/
def CommitEnt.target (c : CommitEnt) : Nat :=
  if c.op = 0x101 ∨ c.op = 0x107 then c.nums.headD 0 / 8
  else if c.op = 0x180 then c.payload.headD 0 / 2 ^ 128 % 2 ^ 32
  else c.nums.headD 0

/-- The bytes of a buffered entry (R340): its header, whose layout the spec does not state and which is a free value, its
address or target word, and its payload. -/
def CommitEnt.toBytes (free : Nat) (c : CommitEnt) : List Byte :=
  let n := c.bytes - 16
  let bs := match c.payload with
    | [x] => leBytes n x
    | xs => xs.flatMap fun x => leBytes 4 x
  leBytes 8 (Config.freeWide free).toNat ++ leBytes 8 c.target ++ bs.take n ++ zeros (n - bs.length)

/-- The scratch of a comb with a task's commit buffer at offset 4,096 of its granule (R31, R340). No access reads it there but a
save of the granule (R351). -/
def Comb.commitScratch (c : Comb) (num : Nat) (t : Team) : Comb :=
  (c.groups.filter fun g => t.isTask && g.2.place.atomic && decide (Sparse.find? c.teams g.2.place.team = some t)).foldl
    (fun c g => c.putScratch (t.granules.headD 0 * 8192 + 4096)
      (((List.range g.2.commit.length).zip g.2.commit).flatMap fun x => x.2.toBytes (num * 2 ^ 16 + x.1))) c

/-- A team image (R351): its barriers, granule list, role pools, the contents of its granules, and its matrix image, in an order
of the model's own (DESIGN CHOICE, log entry 25). -/
def teamImage (c : Comb) (num : Nat) (t : Team) (mat : List Byte) : List Byte :=
  let g := t.granules.length
  let m := teamData g t.pools.length + 8448 * g
  imageStart 2 (m + mat.length) t.ctx num (leBytes 2 g ++ leBytes 2 t.pools.length ++ leBytes 4 m) ++
  ((List.range 16).flatMap fun k => let b := t.barriers.getD k ⟨0, 0, 0⟩; leBytes 2 b.expect ++ leBytes 2 b.arrivals ++ leBytes 4 b.phases) ++
  (t.granules.flatMap fun x => leBytes 4 x) ++ (t.pools.flatMap fun p => leBytes 2 p.1 ++ leBytes 2 p.2) ++
  (t.granules.flatMap fun x => granuleBytes (c.commitScratch num t) x) ++ mat

/-- A team as its image's bytes and its hidden part say. -/
def teamOf (bs : List Byte) (t : Team) : Team :=
  let at' := imageField bs
  let g := at' 88 2
  { t with
    granules := (List.range g).map fun k => at' (256 + 4 * k) 4
    barriers := (List.range 16).map fun k => ⟨at' (128 + 8 * k) 2, at' (130 + 8 * k) 2, at' (132 + 8 * k) 4⟩
    pools := (List.range (at' 90 2)).foldl (fun m k => Sparse.set 0 m (at' (256 + 4 * g + 4 * k) 2) (at' (258 + 4 * g + 4 * k) 2)) [] }

/-- The contents of a team's granules put back, with their written-word bitmaps. -/
def restoreGranules (bs : List Byte) (t : Team) (c : Comb) : Comb :=
  let d := teamData t.granules.length (imageField bs 90 2)
  ((List.range t.granules.length).zip t.granules).foldl (fun c x =>
    { c with scratch := Sparse.setRun 0 c.scratch (x.2 * 8192) ((bs.drop (d + 8448 * x.1)).take 8192)
             written := Sparse.set 0 c.written x.2 (imageField bs (d + 8448 * x.1 + 8192) 256) }) c

/-- A task in a queue image: its record, its state (0 waiting, 1 waiting for room, 2 ready), slot, counter, SEQ and clk of
entry. -/
def queueEntry (r : TaskRec) (state slot counter seq entered : Nat) : List Byte :=
  r.bytes ++ leBytes 2 state ++ leBytes 2 slot ++ leBytes 2 counter ++ leBytes 2 seq ++ leBytes 8 entered ++ zeros 16

/-- A queue image (R351): each slot's SEQ, the tasks in the slots, and the ready tasks in the order of the queue. -/
def queueImage (c : Comb) (num ctx : Nat) (slots : List (Nat × TaskSlot)) (ready : List ReadyEnt) : List Byte :=
  let n := slots.length + ready.length
  imageStart 3 (640 + 96 * n) ctx num (leBytes 4 n ++ leBytes 4 0 ++ leBytes 8 c.clk) ++
  leBytes 512 (c.table.foldl (fun x t => x + t.2.seq % 16 * 2 ^ (4 * t.1)) 0) ++
  (slots.flatMap fun t => match t.2.task with
    | some r => queueEntry r t.2.roomOnly.toNat t.1 t.2.counter t.2.seq t.2.entered
    | none => []) ++
  (ready.flatMap fun e => queueEntry e.task 2 0xFFFF 0 0 e.entered)

/-- A FIFO image: the bank's bound and its entries, resident and spilled, in arrival order. -/
def fifoImage (num k : Nat) (b : Bank) : List Byte :=
  let ent (e : FifoEnt) : List Byte := leBytes 8 e.time.toNat ++ leBytes 4 e.ordinal ++ leBytes 4 e.words.length ++ e.words.flatMap fun w => leBytes 4 w.toNat
  let es := (b.ents ++ b.spilled).flatMap ent
  imageStart 4 (128 + es.length) b.owner num (leBytes 4 b.ents.length ++ leBytes 4 b.spilled.length ++ leBytes 8 b.bound.toNat ++ leBytes 1 b.ord.toNat ++ leBytes 1 b.releaseAll.toNat ++ leBytes 2 k) ++ es

/-- The bitmap of a cancelled copy's delivered sectors: the first 128 of one destination, or 8 of each receiver of a COPYM. -/
def CopyOp.bitmap (c : CopyOp) : Nat :=
  let done (n : Nat) : Nat := ((List.range n).filter fun k => c.done.contains k).foldl (fun m k => m + 2 ^ k) 0
  if c.op = 0x122 then ((List.range c.recvs.length).zip c.recvs).foldl (fun m r => m + (if r.2.failed then 0 else done 8) * 2 ^ (8 * r.1)) 0
  else done (Nat.min 128 c.sectors)

/-- The record of a cancelled copy, 64 bytes (R347): its OP, the issuer's slot and its place in the issuer's CP order, NTF and
RU, its receivers and its barrier, the bitmap of delivered sectors, and its operands, 64-bit ones in two words. -/
def copyRecord (o : AsyncOp) (place : Nat) : List Byte :=
  match o.kind with
  | .copy c =>
    let nums := if c.op = 0x124 then [c.num 0, c.num 0 / 2 ^ 32, c.num 1, c.num 1 / 2 ^ 32, c.num 2, c.num 3, c.num 4] else (List.range 8).map c.num
    leBytes 2 c.op ++ leBytes 1 o.owner.src ++ leBytes 1 place ++ leBytes 1 (c.ntf.toNat + 2 * c.ru.toNat) ++ leBytes 1 c.recvs.length ++ leBytes 2 c.done.length ++
    leBytes 4 (c.barrier.getD 0xFFFFFFFF) ++ leBytes 4 o.ownerUid ++ leBytes 16 c.bitmap ++ ((List.range 8).flatMap fun k => leBytes 4 (nums.getD k 0))
  | .wpost ring step src sc _ =>
    leBytes 2 0x1E2 ++ leBytes 1 o.owner.src ++ leBytes 1 place ++ leBytes 4 sc.toNat ++ leBytes 4 0xFFFFFFFF ++ leBytes 4 o.ownerUid ++ zeros 16 ++
    leBytes 4 ring ++ leBytes 4 step ++ leBytes 8 src ++ zeros 16
  | _ => zeros 64

/-- A copies image: the records of the cancelled operations, in the order of their classes. -/
def copiesImage (num ctx : Nat) (os : List AsyncOp) : List Byte :=
  let place (o : AsyncOp) : Nat := (os.filter fun x => decide (x.ownerUid = o.ownerUid) && decide (x.uid < o.uid)).length
  imageStart 5 (128 + 64 * os.length) ctx num (leBytes 4 os.length) ++ os.flatMap fun o => copyRecord o (place o)

/-! ## The address of an image (R221, R349) -/

/-- Whether `n` bytes at an image address lie in the firmware region of a live die, from a multiple of 128 on. -/
def State.imageOk (s : State) (x n : Nat) : Bool :=
  decide (x % 128 = 0) && decide (x / 2 ^ 50 < 36) && (s.die (x / 2 ^ 50)).live && decide (firmwareBase ≤ x % 2 ^ 50) && decide (x % 2 ^ 50 + n ≤ hbmEnd)

/-- An image's bytes written at its address, and its hidden part kept under its number. -/
def State.putImage (s : State) (ck ctx x : Nat) (bs : List Byte) (body : ImageBody) : State :=
  let s := s.putBytes 0xFF 0 (((List.range bs.length).zip bs).map fun kb => (x + kb.1, kb.2, 0xFF))
  { s with nextUid := s.nextUid + 1, images := s.images ++ [⟨s.nextUid, ctx, keyDie ck, (s.die (keyDie ck)).lcomb (keyComb ck), false, body⟩] }

/-- An image that has been loaded. -/
def State.markLoaded (s : State) (num : Nat) : State :=
  { s with images := s.images.map fun i => if i.num = num then { i with loaded := true } else i }

/-! ## The common part of the instructions -/

/-- The rule of CTXSAVE and CTXLOAD. -/
def ruleCtx (op : Nat) (f : SForm) (addr : Bool) : Rule :=
  { rulePriv op f ([useSD f.d] ++ (if addr then [useSPair f.a] else []) ++ [useS f.b]) with ends := true, byFields := false }

/-- A status written to D. -/
def Env.status (e : Env) (f : SForm) (s : State) (code : Nat) : Eff :=
  .ok ⟨s, e.th, e.write32 f.d false [(0, BitVec.ofNat 32 code)], 0, none, .seq⟩

/-- The issue of `ctxsave`. -/
def ctxsaveRule (f : SForm) : Rule :=
  ruleCtx 0x0A7 f true

/-- A save (R350): what there is to save with its context, or the code of why not; then its bytes at its address. `mk`
answers the image's bytes from its number, its hidden part and the comb without what was saved. -/
def ctxsave (f : SForm) (s : State) (what : Env → Nat → Except Nat (Nat × (Nat → List Byte) × ImageBody × (State → State))) : Host.Outcome State Fault Refusal :=
  issue s (ctxsaveRule f) fun e =>
    let x := (e.read64 f.a 0).toNat
    if !e.s.feature 3 then e.status f e.s 7
    else match what e (e.read32 f.b 0).toNat with
      | .error c => e.status f e.s c
      | .ok (ctx, bytes, body, after) =>
        let bs := bytes e.s.nextUid
        if !e.s.imageOk x bs.length then e.status f e.s 3
        else e.status f (after (e.s.putImage e.ck ctx x bs body)) 0

/-- The issue of `ctxload`. -/
def ctxloadRule (f : SForm) : Rule :=
  ruleCtx 0x0A8 f true

/-- The image a load of a kind finds at an address (R350, R352): its bytes and its hidden part, or the code of why the
load is refused. -/
def Env.loadImage (e : Env) (kind x : Nat) : Except Nat (List Byte × Image) :=
  if !e.s.feature 3 then .error 7
  else if !e.s.imageOk x 128 then .error 3
  else
    let head := e.s.bytesNow x 1024
    let at' := imageField head
    let ctx := at' 8 1
    if !e.s.isFrozen e.ck ctx then .error 1
    else
      let len := at' 4 4
      let refAt := if kind = 1 then 424 else 64
      let reserved := if kind = 1 then decide (at' 54 10 ≠ 0) || decide (at' 512 512 ≠ 0) else decide (at' 9 55 ≠ 0) || decide (at' 3 1 ≠ 0)
      match e.s.images.find? fun i => decide (i.num = refNum ((head.drop refAt).take 24)) with
      | none => .error 4
      | some i =>
        if decide (at' 0 2 ≠ 1) || decide (at' 2 1 ≠ kind) || reserved || decide (i.body.kind ≠ kind) || decide (i.ctx ≠ ctx) || i.loaded then .error 4
        else if !e.s.imageOk x len then .error 3
        else if i.die ≠ keyDie e.ck ∨ i.lcomb ≠ (e.s.die (keyDie e.ck)).lcomb (keyComb e.ck) then .error 5
        else .ok (e.s.bytesNow x len, i)

/-- A load: `put` restores what the image holds, or answers the code of why not. -/
def ctxload (f : SForm) (s : State) (kind : Nat) (put : Env → Nat → List Byte → Image → Except Nat State) : Host.Outcome State Fault Refusal :=
  issue s (ctxloadRule f) fun e =>
    match e.loadImage kind (e.read64 f.a 0).toNat with
    | .error c => e.status f e.s c
    | .ok (bs, i) => match put e (e.read32 f.b 0).toNat bs i with
      | .error c => e.status f e.s c
      | .ok s => e.status f (s.markLoaded i.num) 0

/-! ## Freeze and thaw (R345, R346) -/

/-- The issue of CTXSAVEFREEZE. -/
def ruleCtxsaveFreeze (f : SForm) : Rule :=
  ruleCtx 0x0A7 f false

/-- CTXSAVE.freeze (R346, R350). -/
def execCtxsaveFreeze (f : SForm) (s : State) : Host.Outcome State Fault Refusal :=
  issue s (ruleCtxsaveFreeze f) fun e =>
    let ctx := (e.read32 f.b 0).toNat % 256
    if !e.s.feature 3 then e.status f e.s 7
    else e.broadcast (.freeze ctx) fun _ => e.status f e.s (((e.s.comb e.ck).ctxSlots ctx).length * 256)

/-- The issue of CTXLOADTHAW. -/
def ruleCtxloadThaw (f : SForm) : Rule :=
  ruleCtx 0x0A8 f false

/-- CTXLOAD.thaw (R345, R350): code 6 while an image of the context has not been loaded again. -/
def execCtxloadThaw (f : SForm) (s : State) : Host.Outcome State Fault Refusal :=
  issue s (ruleCtxloadThaw f) fun e =>
    let ctx := (e.read32 f.b 0).toNat % 256
    if !e.s.feature 3 then e.status f e.s 7
    else if e.s.images.any fun i => decide (i.ctx = ctx) && !i.loaded then e.status f e.s 6
    else e.broadcast (.thaw ctx) fun _ => e.status f e.s 0

/-! ## Copies (R347) -/

/-- CTXSAVE.copies: the cancelled copies of the context on the comb, in the order of their classes. -/
def execCtxsaveCopies (f : SForm) (s : State) : Host.Outcome State Fault Refusal :=
  ctxsave f s fun e b =>
    let ctx := b % 256
    let c := e.s.comb e.ck
    let mine := c.cancelled.filter fun o => decide (o.ctx = ctx)
    if !e.s.isFrozen e.ck ctx then .error 1
    else if mine.isEmpty then .error 2
    else .ok (ctx, fun n => copiesImage n ctx mine, .copies mine, fun s => s.modComb e.ck fun c =>
      { c with cancelled := c.cancelled.filter fun o => decide (o.ctx ≠ ctx) })

/-- CTXLOAD.copies: each is registered in its issuer's class again; the engine goes on with it at the thaw. -/
def execCtxloadCopies (f : SForm) (s : State) : Host.Outcome State Fault Refusal :=
  ctxload f s 5 fun e b _ i =>
    match i.body with
    | .copies os =>
      if b % 256 ≠ i.ctx then .error 4
      else
        let home (o : AsyncOp) : AsyncOp := match (e.s.comb e.ck).groups.find? fun g => g.2.uid = o.ownerUid with
          | some g => { o with owner := .group (keyDie e.ck) (keyComb e.ck) g.1 }
          | none => o
        .ok (e.s.modComb e.ck fun c => { c with ops := os.foldl (fun l o => insertOp (home o) l) c.ops })
    | _ => .error 4

/-! ## Groups -/

/-- Whether a record is the TRAP record of a context's group in a slot. -/
def EvRec.isTrapOf (r : EvRec) (ctx slot : Nat) : Bool := decide (r.w0 = evHead 1 (some ctx) slot)

/-- A group off its slot, which is free with its registers; its team keeps it in its count. A TRAP record that waits on the
slot's pending-trap bit goes with the group (R192); one in the queue is the comb's, and is drained as usual (R359). -/
def State.unslot (s : State) (ck slot : Nat) (th : Thread) : State :=
  s.modComb ck fun c =>
    { c with groups := Sparse.erase c.groups slot, rclaims := c.rclaims.filter (fun r => decide (r.uid ≠ th.uid)), pendTraps := c.pendTraps.filter (fun p => decide (p.1 ≠ slot)), savedSlots := Sparse.put c.savedSlots slot th.place.team }

/-- CTXSAVE.group (R351): the results of its last run are in place. -/
def execCtxsaveGroup (f : SForm) (s : State) : Host.Outcome State Fault Refusal :=
  ctxsave f s fun e b =>
    let k := b % 64
    let c := e.s.comb e.ck
    match Sparse.find? c.groups k with
    | none => .error 2
    | some th =>
      let ctx := th.place.ctx.getD 0xFF
      if !e.s.isFrozen e.ck ctx then .error 1
      else
        let th := th.flights.foldl Thread.land { th with flights := [] }
        .ok (ctx, fun n => groupImage e.s e.ck k n th, .group th k (c.rclaims.find? fun r => r.uid = th.uid) (th.stopped && th.undisp), fun s => s.unslot e.ck k th)

/-- A claim put back in the order in which the claims issued (R174). -/
def insertClaim (x : Claim) : List Claim → List Claim
  | [] => [x]
  | y :: ys => if x.num < y.num then x :: y :: ys else y :: insertClaim x ys

/-- CTXLOAD.group (R352): into the slot B names, on the saved core, with its budget free; its RCLAIM has its place again (R174,
R351). A stopped group whose record was not dispatched posts it again (R192), and the firmware keeps the old one no more. -/
def execCtxloadGroup (f : SForm) (s : State) : Host.Outcome State Fault Refusal :=
  ctxload f s 1 fun e b bs i =>
    match i.body with
    | .group th slot claim trap =>
      let k := b % 64
      let c := e.s.comb e.ck
      let th := groupOf bs th
      if decide (k / 16 ≠ imageField bs 10 1) || (Sparse.find? c.groups k).isSome || decide (c.freeRegs (k / 16) < th.budget) || (Sparse.find? c.teams th.place.team).isNone then .error 5
      else
        let th := { th with issueAt := c.clk, readyAt := c.clk }
        let c := { c with groups := Sparse.put c.groups k th, rclaims := claim.toList.foldl (fun l x => insertClaim x l) c.rclaims, savedSlots := Sparse.erase c.savedSlots k, steward := { c.steward with kept := c.steward.kept.filter fun r => !r.isTrapOf i.ctx slot } }
        .ok (e.s.setComb e.ck (if trap then c.postTrap k th else c))
    | _ => .error 4

/-! ## Teams -/

/-- The team that B names: by a slot it holds or held until its groups were saved, or by its sequencer (R349). -/
def Comb.namedTeam (c : Comb) (b : Nat) : Option Nat :=
  if b.testBit 8 then (Sparse.find? c.seqs (b % 4)).map (·.team)
  else match Sparse.find? c.groups (b % 64) with
    | some th => some th.place.team
    | none => Sparse.find? c.savedSlots (b % 64)

/-- A team's cells by the place of their tile in its list. -/
def Comb.teamCells (c : Comb) (t : Team) : List (Nat × Nat × Word) :=
  ((List.range t.tiles.length).zip t.tiles).flatMap fun kt => (c.acc.filter fun x => x.1 / 2048 = kt.2).map fun x => (kt.1, x.1 % 2048, x.2)

/-- The comb without a team's entries: its pending passes leave the reservation table with it. -/
def Comb.withoutTeam (c : Comb) (key : Nat) (t : Team) : Comb :=
  let c := c.freeTeam key t
  { c with passes := c.passes.filter (fun p => t.seq ≠ some p.seq), savedSlots := c.savedSlots.filter fun x => decide (x.2 ≠ key) }

/-- CTXSAVE.team (R349 to R351): a task's is saved while its slot is held. -/
def execCtxsaveTeam (f : SForm) (s : State) : Host.Outcome State Fault Refusal :=
  ctxsave f s fun e b =>
    let c := e.s.comb e.ck
    match (c.namedTeam b).bind fun k => (Sparse.find? c.teams k).map fun t => (k, t) with
    | none => .error 2
    | some (key, t) =>
      if !e.s.isFrozen e.ck t.ctx then .error 1
      else if !t.isTask && c.groups.any fun g => g.2.place.team = key then .error 6
      else
        let seq := t.seq.bind fun q => Sparse.find? c.seqs q
        let passes := c.passes.filter fun p => t.seq = some p.seq
        let mat := if seq.isSome || !t.tiles.isEmpty then matrixHead c seq t passes else []
        .ok (t.ctx, fun n => teamImage c n t mat, .team key t seq (c.teamCells t) passes, fun s => s.setComb e.ck ((s.comb e.ck).withoutTeam key t))

/-- The registers that some pools hold on a core. -/
def poolRegs (pools : List (Nat × Nat)) (core : Nat) : Nat := ((pools.filter fun p => p.1 / 4 = core).map (·.2)).foldl (· + ·) 0

/-- CTXLOAD.team (R323, R352): the same granules in SCRATCH banks, as many tiles, a sequencer, the registers of its role
pools, and an entry of the reservation table for each of its passes (R308). -/
def execCtxloadTeam (f : SForm) (s : State) : Host.Outcome State Fault Refusal :=
  ctxload f s 2 fun e _ bs i =>
    match i.body with
    | .team key t0 seq acc passes =>
      let c := e.s.comb e.ck
      let t := teamOf bs t0
      let mat := seq.isSome || !t.tiles.isEmpty
      -- the matrix image's own version and reserved bytes (R323)
      let m (o n : Nat) : Nat := imageField bs (imageField bs 92 4 + o) n
      if mat && (decide (m 0 2 ≠ 1) || decide (m 10 2 ≠ 0) || decide (m 24 40 ≠ 0) || decide (4 ≤ m 3 1)) then .error 4
      else if !(t.granules.all fun g => c.granuleFree g) || (List.range 4).any (fun k => decide (c.freeRegs k < poolRegs t.pools k)) || decide (16 < c.passes.length + passes.length) then .error 5
      else match c.freeTiles t.tiles.length, c.freeSeq with
        | none, _ => .error 5
        | some ts, q =>
          if seq.isSome && q.isNone then .error 5
          else
            let q' := if seq.isSome then q else none
            let t' := { t with tiles := ts, seq := q' }
            let tile (old : Nat) : Nat := ts.getD ((t.tiles.findIdx? (· = old)).getD 0) 0
            let c := restoreGranules bs t (c.grant t.granules key)
            let c := { c with teams := Sparse.put c.teams key t', tileOwner := ts.foldl (fun m n => Sparse.put m n key) c.tileOwner, acc := acc.foldl (fun m x => Sparse.set 0 m (ts.getD x.1 0 * 2048 + x.2.1) x.2.2) c.acc }
            .ok (e.s.setComb e.ck (match seq, q' with
              | some x, some q => { c with seqs := Sparse.put c.seqs q { x with deferred := x.deferred.map fun d => { d with seq := q } }, passes := c.passes ++ passes.map fun p => { p with seq := q, tile := tile p.tile } }
              | _, _ => c))
    | _ => .error 4

/-! ## Queues and FIFO banks -/

/-- CTXSAVE.queues (R351): the slots are free after it, and the tasks of other contexts that wait for room may enter (R32). -/
def execCtxsaveQueues (f : SForm) (s : State) : Host.Outcome State Fault Refusal :=
  ctxsave f s fun e b =>
    let ctx := b % 256
    let c := e.s.comb e.ck
    let slots := c.table.filter fun t => t.2.task.isSome && decide (t.2.ctx = ctx)
    let ready := c.readyOrder.filter fun r => decide (r.ctx = ctx)
    if !e.s.isFrozen e.ck ctx then .error 1
    else if slots.isEmpty && ready.isEmpty then .error 2
    else .ok (ctx, fun n => queueImage c n ctx slots ready, .queues slots ready c.clk, fun s =>
      (s.modComb e.ck fun c => slots.foldl (fun c t => c.freeTableSlot t.1) { c with ready := c.ready.filter fun r => decide (r.ctx ≠ ctx) }).admitRoom e.ck)

/-- A slot taken back by its number. -/
def Comb.claimSlot (c : Comb) (k : Nat) (t : TaskSlot) : Comb :=
  { c with table := Sparse.set TaskSlot.reset c.table k t, freed := c.freed.filter fun x => decide (x.1 ≠ k) }

/-- CTXLOAD.queues (R352): the same slots free, and room in the ready queue; ages go on from what they were, on a comb whose own
count of clk is lower after as much waiting (DESIGN CHOICE, log entry 54). -/
def execCtxloadQueues (f : SForm) (s : State) : Host.Outcome State Fault Refusal :=
  ctxload f s 3 fun e b _ i =>
    match i.body with
    | .queues slots ready clk =>
      let c := e.s.comb e.ck
      if b % 256 ≠ i.ctx then .error 4
      else if (slots.any fun t => (c.slot t.1).task.isSome) || decide (256 < c.ready.length + ready.length) then .error 5
      else
        let oldest := (slots.map (·.2.entered) ++ ready.map (·.entered)).foldl (fun m x => Nat.max m (clk - x)) 0
        let c := { c with clk := Nat.max c.clk oldest }
        let age (x : Nat) : Nat := c.clk - (clk - x)
        let c := slots.foldl (fun c t => c.claimSlot t.1 { t.2 with entered := age t.2.entered }) c
        .ok ((e.s.setComb e.ck { c with ready := c.ready ++ ready.map fun r => { r with entered := age r.entered } }).admitRoom e.ck)
    | _ => .error 4

/-- CTXSAVE.fifo (R349). -/
def execCtxsaveFifo (f : SForm) (s : State) : Host.Outcome State Fault Refusal :=
  ctxsave f s fun e b =>
    let k := b % 16
    let bank := (e.s.comb e.ck).bank k
    if bank.mode ≠ .fifo then .error 2
    else if !e.s.isFrozen e.ck bank.owner then .error 1
    else .ok (bank.owner, fun n => fifoImage n k bank, .fifo k bank, fun s => s.modComb e.ck fun c =>
      c.setBank k { bank with ents := [], spilled := [] })

/-- CTXLOAD.fifo (R352): the same bank in its mode and empty. -/
def execCtxloadFifo (f : SForm) (s : State) : Host.Outcome State Fault Refusal :=
  ctxload f s 4 fun e b _ i =>
    match i.body with
    | .fifo k bank =>
      let now := (e.s.comb e.ck).bank k
      if b % 16 = k ∧ now.mode = .fifo ∧ now.ord = bank.ord ∧ now.owner = bank.owner ∧ now.empty then
        .ok (e.s.modComb e.ck fun c => c.setBank k bank)
      else .error 5
    | _ => .error 4

end Sys2Proof.Machine
end

