-- ==== Sys2Proof/Machine/Start.lean ====
section
/-! DEFINITION. The hive controller on its own: the numbering of combs and dies, cold and warm start, power, temperature,
alarms and attestation (R10, R11, R14, R209 to R213, R454 to R463).
Model's choices in this file: log entries 3, 5, 35, 36, 45, 47. -/

namespace Sys2Proof.Machine

/-! ## Numbering (R210) -/

/-- The rows of a die while its combs are numbered: live combs of each row, borrowed ones, and the surplus. -/
structure Numbering where
  own : List (List Nat)
  got : List (List Nat)
  s : List Int
  deriving DecidableEq, Repr

/-- Row y borrows the highest comb of row z, if it lacks one and z has one to spare. -/
def Numbering.borrow (m : Numbering) (y z : Nat) : Numbering :=
  if m.s.getD y 0 < 0 ∧ 0 < m.s.getD z 0 then
    ⟨m.own.modify z List.dropLast, m.got.modify y (· ++ [(m.own.getD z []).getLastD 0]), (m.s.modify z (· - 1)).modify y (· + 1)⟩
  else m

/-- The neighbours of a row in the order asked. -/
def rowNeighbours (y : Nat) : List Nat := (if y = 0 then [] else [y - 1]) ++ (if y < 11 then [y + 1] else [])

/-- The rows from y on, numbered in turn. -/
def Numbering.run (m : Numbering) : List Nat → Option Numbering
  | [] => some m
  | y :: ys =>
    let m := (rowNeighbours y).foldl (fun m z => m.borrow y z) m
    if m.s.getD y 0 < 0 then none else m.run ys

/-- `renumber(n)` (R210): the physical comb of each logical one, in order. -/
def renumber (dead : List Nat) (n : Nat) : Option (List Nat) :=
  let own := (List.range 12).map fun y => ((List.range 13).map (13 * y + ·)).filter fun c => !dead.contains c
  let m : Numbering := ⟨own, List.replicate 12 [], own.map fun r => (r.length : Int) - (n : Int)⟩
  (m.run (List.range 12)).map fun m => (List.range 12).flatMap fun y => ((m.own.getD y []) ++ m.got.getD y []).take n

/-- The grade of a die and its comb map, or nothing when it is mapped out (R14, R210). -/
def gradeDie (dead : List Nat) : Option (Nat × List Nat) :=
  match renumber dead 12 with
  | some m => some (12, m)
  | none => (renumber dead 11).map fun m => (11, m)

/-- The entries of a comb map that differ from an unbroken die's numbering. -/
def mapEntries (grade : Nat) (m : List Nat) : List (Nat × CombEnt) :=
  (((List.range m.length).zip m).filter fun x => decide (x.2 ≠ 13 * (x.1 / grade) + x.1 % grade)).map fun x => (x.1, ⟨x.2, 0, false⟩)

/-- The dead combs of a die. -/
def Die.deadCombs (d : Die) : List Nat := (d.cairn.filter fun c => c.2.dead).map (·.1)

/-! ## The mesh (R213) -/

/-- The dies that a set of live dies reaches in so many hops. -/
def spread (live : List Nat) : Nat → List Nat → List Nat
  | 0, seen => seen
  | n + 1, seen =>
    spread live n (live.filter fun d => seen.contains d || [1, 2, 3, 4].any fun k => (neighbour d k).any fun x => seen.contains x)

/-- The part of a mesh that is kept: the one that holds die (0,0), or, if that is dead, die (5,5). -/
def keptPart (live : List Nat) : List Nat :=
  if live.contains 0 then spread live 36 [0] else if live.contains 35 then spread live 36 [35] else []

/-- Whether X-then-Y from a die to another meets no dead die; `n` bounds its hops. -/
def xyClear (dead : List Nat) (dest : Nat) : Nat → Nat → Bool
  | 0, _ => true
  | n + 1, die => decide (die = dest) || match neighbour die (xyPort die dest) with
    | some x => !dead.contains x && xyClear dead dest n x
    | none => false

/-- The overrides towards a die: round by round, a die whose route is not settled goes to its first neighbour whose route is.
A route so chosen visits no die twice (R213). -/
def detours (live : List Nat) : Nat → List Nat → List (Nat × Nat)
  | 0, _ => []
  | n + 1, settled =>
    let new := (live.filter fun d => !settled.contains d).filterMap fun d =>
      ([1, 2, 3, 4].find? fun k => (neighbour d k).any fun x => settled.contains x).map fun k => (d, k)
    if new.isEmpty then [] else new ++ detours live n (settled ++ new.map (·.1))

/-- A table of overrides: destination, and router with port. -/
abbrev Overrides := List (Nat × List (Nat × Nat))

/-- The port of a router towards a die under some overrides. -/
def portBy (t : Overrides) (dest die : Nat) : Nat :=
  (((t.find? fun x => x.1 = dest).bind fun x => x.2.find? fun y => y.1 = die).map (·.2)).getD (xyPort die dest)

/-- What waits for what: a link, as die and port, and the next link of a route that has taken it. -/
def linkWaits (live : List Nat) (t : Overrides) : List ((Nat × Nat) × (Nat × Nat)) :=
  live.flatMap fun dest => live.filterMap fun d =>
    let k := portBy t dest d
    match neighbour d k with
    | some x => if d = dest ∨ x = dest then none else some ((d, k), (x, portBy t dest x))
    | none => none

/-- Whether nothing waits in a ring: links that no link waits behind are taken off round by round, and none is left. -/
def noRing : Nat → List ((Nat × Nat) × (Nat × Nat)) → Bool
  | 0, l => l.isEmpty
  | n + 1, l => noRing n (l.filter fun e => l.any fun x => x.1 = e.2)

/-- A die and those it goes through to the root of a tree that gives each other die its port towards the root. -/
def rootwards (t : List (Nat × Nat)) : Nat → Nat → List Nat
  | 0, _ => []
  | n + 1, d => d :: match (t.find? fun x => x.1 = d).bind fun x => neighbour d x.2 with
    | some x => rootwards t n x
    | none => []

/-- The routes towards a die along a tree: down towards it from a die above it, else up. On a tree no link waits in a ring. -/
def treeRoutes (live : List Nat) (root dest : Nat) : List (Nat × Nat) :=
  let t := detours live 36 [root]
  let up := rootwards t 36 dest
  ((live.filter fun d => decide (d ≠ dest)).filterMap fun d =>
    match (up.zip (up.drop 1)).find? fun x => x.2 = d with
    | some x => ([1, 2, 3, 4].find? fun k => neighbour d k = some x.1).map fun k => (d, k)
    | none => t.find? fun x => x.1 = d).filter fun x => decide (x.2 ≠ xyPort x.1 dest)

/-- The overrides of every router of the live dies (R213): short detours where a default route would enter a dead die, unless the
links of one class could then wait on each other in a ring; then the routes along one tree. Which of the possible choices the hive
controller takes is not stated (DESIGN CHOICE, log entry 37). -/
def overrides (live : List Nat) : Overrides :=
  let dead := (List.range 36).filter fun d => !live.contains d
  if dead.isEmpty then []
  else
    let short : Overrides := live.map fun dest => (dest, detours live 36 (live.filter fun d => xyClear dead dest 11 d))
    if noRing 144 (linkWaits live short) then short else live.map fun dest => (dest, treeRoutes live (live.headD 0) dest)

/-- The overrides of one router. -/
def overridesOf (t : Overrides) (die : Nat) : List (Nat × Nat) :=
  t.filterMap fun x => (x.2.find? fun y => y.1 = die).map fun y => (x.1, y.2)

/-- The shadow tables of some dies, as the hive controller writes them (R215, R251). -/
def State.writeShadow (s : State) (dies : List (Nat × Shadow)) : State :=
  { s with hive := { s.hive with shadow := dies.foldl (fun m x => Sparse.set Shadow.reset m x.1 x.2) s.hive.shadow } }

/-- The shadow tables of a die. -/
def State.shadow (s : State) (die : Nat) : Shadow := Sparse.get Shadow.reset s.hive.shadow die

/-- A die's live tables and its generation taken from its shadow tables at one instant (R19, R215). -/
def Die.take (d : Die) (x : Shadow) : Die := { d with gen := x.gen, lmap := x.lmap, grade := x.grade, cmap := x.cmap, ovr := x.ovr }

/-! ## Starts (R454, R459, R460) -/

/-- The firmware image of a component. -/
def image (c : StartFindings) (k : Nat) : Option FwImage := c.images.find? fun i => i.component = k

/-- What a slot measures of an image: its header and its body (R460; log entry 35). -/
def imageBytes : Option FwImage → List Byte
  | some i => leBytes 4 i.component ++ leBytes 4 i.version.toNat ++ slotBytes i.digest ++ i.body
  | none => []

/-- The measurements of the firmware images, slots 0 to 2 (R460). -/
def measured (c : StartFindings) : List (BitVec 256) := (List.range 3).map fun k => extendSlot 0 (imageBytes (image c k))

/-- The error of the firmware's verification (R459): for each component in order, 4 for its signature or digest, 5 for a version
below its floor. -/
def verifyErr (floors : List Nat) (c : StartFindings) : Nat :=
  ((List.range 3).findSome? fun k => match image c k with
    | none => some 4
    | some i =>
      if !i.signed || decide (shake256 i.body ≠ i.digest) then some 4
      else if i.version.toNat < floors.getD k 0 then some 5 else none).getD 0

/-- The cairn table after the self-test: failures are dead in the field (R454). -/
def selfTest (d : Die) (fails : List Nat) : List (Nat × Cairn) :=
  fails.foldl (fun t c => if (Sparse.find? t c).any fun x => x.dead then t else Sparse.put t c ⟨true, true⟩) d.cairn

/-- The tables of a die after a start (R210 to R213): a die whose combs cannot be numbered has none. -/
def startShadow (gen : BitVec 4) (lmap : List Nat) (ovr : List (Nat × Nat)) (cairn : List (Nat × Cairn)) : Shadow :=
  match gradeDie ((cairn.filter fun c => c.2.dead).map (·.1)) with
  | some (g, m) => ⟨gen, lmap, g, mapEntries g m, ovr⟩
  | none => ⟨gen, lmap, 0, [], ovr⟩


/-- The machine without anything that runs: what survives a start is host memory, HBM, the hive controller, the cairn
tables, and the model's own counters (R454). -/
def State.wiped (s : State) : State :=
  let keep (m : List (Nat × Die)) (d : Nat × Die) : List (Nat × Die) :=
    Sparse.set Die.reset m d.1 { Die.reset with live := d.2.live, gen := d.2.gen, lmap := d.2.lmap, grade := d.2.grade, cmap := d.2.cmap, ovr := d.2.ovr, cairn := d.2.cairn }
  { State.reset with agenda := s.agenda, freeN := s.freeN, nextUid := s.nextUid, hbm := s.hbm, host := s.host, hive := s.hive, dies := s.dies.foldl keep [] }

/-- HBM with the offsets below the firmware region of the live dies zeroed (R454). -/
def State.zeroHbm (s : State) : State :=
  { s with hbm := s.hbm.filter fun c => !(s.die (c.1 / 2 ^ 50)).live || decide (firmwareBase ≤ c.1 % 2 ^ 50) }

/-- The start halts (R454, R459). -/
def State.halt (s : State) (err : Nat) : State := { s with hive := { s.hive with state := 4, err := err } }

/-- A start from verified firmware: the dies numbered, HBM zeroed, the slots measured (R460), the volatile keys of the start taken
(R462). `cold` says which kind, `gen` the generation, `err` what ERR reports. The retired list is measured as a byte for each die
(log entry 35). -/
def State.bringUp (s : State) (cold : Bool) (gen : BitVec 4) (err : Nat) (c : StartFindings) : State :=
  let h := s.hive
  let untrained := if cold then c.failedDies.filter fun d => decide (d < 36) else h.untrained
  let retired := if cold then [] else h.retired
  let cairn (d : Nat) : List (Nat × Cairn) :=
    if cold then selfTest (s.die d) ((c.failedCombs.filter fun x => decide (x.1 = d) && decide (x.2 < 156)).map (·.2)) else (s.die d).cairn
  let able := (List.range 36).filter fun d =>
    !untrained.contains d && !retired.contains d && (gradeDie (((cairn d).filter fun x => x.2.dead).map (·.1))).isSome
  let live := keptPart able
  let table := overrides live
  let shadows : List (Nat × Shadow) := (List.range 36).map fun d => (d, startShadow gen live (overridesOf table d) (cairn d))
  let dies : List (Nat × Die) := shadows.map fun x => (x.1, Die.take { Die.reset with live := live.contains x.1, cairn := cairn x.1 } x.2)
  let images := measured c
  let m3 := extendSlot (dies.foldl (fun m d => extendSlot m (cairnBytes d.2)) 0) (retired.map (BitVec.ofNat 8))
  let s := s.writeShadow shadows
  let h := s.hive
  let s := { s with freeN := s.freeN + 1, dies := dies.foldl (fun m (d : Nat × Die) => Sparse.set Die.reset m d.1 d.2) [], hive := { h with untrained := untrained, retired := retired, meas := images ++ [m3, 0, 0, 0, 0], stored := images, session := some (Config.freeWide s.freeN) } }
  if live.isEmpty then s.halt 2 else { s.zeroHbm with hive := { s.hive with state := 3, err := err } }

/-- What every start does to the hive controller: the slots are cleared, and the start counted (R460, R461). -/
def Hive.begin (h : Hive) : Hive :=
  { h with state := 1, err := 0, starts := h.starts + 1, meas := List.replicate 8 0, reports := [], statuses := [], session := none, alarm := 0, pending := [], portDown := [], power := true, coldOnly := false, foffer := 0x3F }

/-- A cold start; `was` is the ERR it reports where nothing else fails. -/
def State.cold (s : State) (was : Nat) (c : StartFindings) : State :=
  let s := { s.wiped with hive := s.hive.begin }
  match verifyErr s.hive.floors c with
  | 0 =>
    let s := { s with hive := { s.hive with floors := (List.range 3).map fun k => ((image c k).map fun (i : FwImage) => i.version.toNat).getD 0 } }
    s.bringUp true 0 was c
  | e => s.halt e

/-- COLD_START (R454, R459, R460). A thermal trip is reported with ERR = 3 (R456). -/
def execColdStart (c : StartFindings) (s : State) : Host.Outcome State Fault Refusal :=
  let s' := s.cold (if s.hive.tripErr then 3 else 0) c
  .next { s' with hive := { s'.hive with tripErr := false } }

/-- A warm start whose hash is the stored measurement (R19, R454): the generation advances by 1, and the driver is told of it. -/
def State.warm (s : State) (c : StartFindings) : State :=
  let s := ({ s.wiped with hive := { s.hive.begin with state := 2 } } : State).bringUp false ((s.die ((s.liveDies.headD 0))).gen + 1) (if s.hive.tripErr then 3 else 0) c
  if s.hive.state = 3 then s.notify 1 (s.die (s.liveDies.headD 0)).gen.toNat s.liveDies.length 0 else s

/-- WARM_START (R454): a hash that differs from the stored measurement makes it a cold start with ERR = 1. After a level 2 alarm
only a cold start restarts the package (R462). -/
def execWarmStart (c : StartFindings) (s : State) : Host.Outcome State Fault Refusal :=
  if s.hive.coldOnly then .next s
  else
    let s' := if measured c = s.hive.stored then s.warm c else s.cold 1 c
    .next { s' with hive := { s'.hive with tripErr := false } }

/-! ## Power and temperature (R456, R458) -/

/-- The package without power: all work ends; the monotonic store keeps what is written. -/
def State.powerOff (s : State) : State :=
  { s.wiped with hive := { s.hive with state := 0, power := false, reports := [], statuses := [], session := none, pending := [] } }

/-- POWER_LOSS (R458). -/
def execPowerLoss (s : State) : Host.Outcome State Fault Refusal := .next s.powerOff

/-- CLOCK_STRETCH (R456): the clock is stretched at 105 degrees or above the cap; no clk is skipped, no result changes. -/
def execClockStretch (die temp power : Nat) (s : State) : Host.Outcome State Fault Refusal :=
  .next (s.modDie die fun d => { d with stretched := decide (105 ≤ temp) || decide (d.cap < power) })

/-- THERMAL_TRIP (R456): power is removed at 120 degrees, and the trip recorded. -/
def execThermalTrip (_die temp : Nat) (s : State) : Host.Outcome State Fault Refusal :=
  if 120 ≤ temp then .next { s.powerOff with hive := { s.powerOff.hive with tripErr := true } } else .next s

/-! ## Alarms (R462, R463) -/

/-- An alarm's record of 16 bytes: notice kind 6 with its values. -/
def alarmRecord (level sensor die : Nat) : List Byte := [6, level, sensor, die].flatMap fun x => leBytes 4 x

/-- Whether the identity key's seeds are erased (R462). -/
def Hive.keyErased (h : Hive) : Bool := h.seeds.isNone

/-- The reports that are asked for given up, with a status (R463). -/
def Hive.giveUp (h : Hive) (status : Nat) : Hive :=
  { h with reports := [], statuses := h.reports.foldl (fun l r => l.set r.num status) h.statuses }

/-- The keys that an alarm erases: from level 2 on the session keys, at level 3 the identity key's seeds and its state (R462). -/
def Hive.erase (h : Hive) (level : Nat) : Hive :=
  if level = 3 then { h with session := none, seeds := none, nextLeaf := 0 } else { h with session := none }

/-- SECURITY_ALARM (R462, R463): notice kind 6 and slot 5; from level 2 on the keys are erased, the package halts and no report in
progress is released. -/
def execSecurityAlarm (level sensor die : Nat) (s : State) : Host.Outcome State Fault Refusal :=
  if level = 0 ∨ 3 < level then .next s
  else
    let s := s.notify 6 level sensor die
    let h := { s.hive with meas := s.hive.meas.modify 5 fun m => extendSlot m (alarmRecord level sensor die), alarm := Nat.max s.hive.alarm level }
    if level = 1 then .next { s with hive := h }
    else
      let h := (h.erase level).giveUp (if level = 2 then 1 else 3)
      .next { s with cur := none, hive := { h with coldOnly := true, state := 4, err := if level = 2 then 6 else 7 } }

/-! ## Attestation (R458, R461) -/


/-- A report as it stands at its request (R461). -/
def State.reportNow (s : State) (nonce : BitVec 256) (leaf : Option Nat) : Report :=
  { num := s.hive.statuses.length, nonce := nonce, leaf := leaf, slots := s.hive.meas, starts := s.hive.starts, features := if s.adapter.accepted then s.hive.foffer &&& s.adapter.faccept else 0, gen := (s.die (s.liveDies.headD 0)).gen.toNat, nlive := s.liveDies.length, err := s.hive.err, alarm := s.hive.alarm }

/-- REPORT_REQUEST (R458, R461): refused without a leaf or a key in any STATE, and outside STATE 3; queued behind a report in
progress; otherwise its leaf is written to the store before it is signed. A report in progress has status 2 (log entry 47). -/
def execReportRequest (nonce : BitVec 256) (s : State) : Host.Outcome State Fault Refusal :=
  let h := s.hive
  let answered (x : Nat) : Hive := { h with statuses := h.statuses ++ [x] }
  if h.keyErased ∨ leaves ≤ h.nextLeaf then .next { s with hive := answered 3 }
  else if h.state ≠ 3 then .next { s with hive := answered 1 }
  else if !h.reports.isEmpty then .next { s with hive := { answered 2 with reports := h.reports ++ [s.reportNow nonce none] } }
  else .next { s with hive := { answered 2 with nextLeaf := h.nextLeaf + 1, reports := [s.reportNow nonce (some h.nextLeaf)] } }

/-- REPORT_COMPLETE (R458, R461): the signed report is released, and the next request takes its leaf, or those that wait are
refused when none is left. -/
def execReportComplete (s : State) : Host.Outcome State Fault Refusal :=
  let h := s.hive
  match h.reports with
  | [] => .next s
  | r :: rest =>
    let h := { h with released := h.released ++ [r], statuses := h.statuses.set r.num 0, reports := rest }
    match rest with
    | [] => .next { s with hive := h }
    | q :: qs =>
      if leaves ≤ h.nextLeaf then .next { s with hive := h.giveUp 3 }
      else .next { s with hive := { h with nextLeaf := h.nextLeaf + 1, reports := { q with leaf := some h.nextLeaf } :: qs } }

end Sys2Proof.Machine
end

