-- ==== Sys2Proof/Machine/Retire.lean ====
section
/-! DEFINITION. Retirement of combs and dies: what dies with them, the trees, batches, forage counters and ownership
entries the hive controller repairs, the spare, and the generation advance (R19, R20, R211, R213 to R218, R342, R375,
R394, R421, R422, R429, R437, R453, R455).
Model's choices in this file: log entry 37. -/

namespace Sys2Proof.Machine

/-! ## Tasks that are lost (R341, R342, R375, R422) -/

/-- A task held by a comb: its number, context, record, and whether it is running, and ended by a kill. -/
structure HeldTask where
  uid : Nat
  ctx : Nat
  task : TaskRec
  killed : Bool
  deriving DecidableEq, Repr

/-- The tasks a comb holds: running, ended with a batch still to leave, ready, and in its task table. -/
def Comb.heldTasks (c : Comb) : List HeldTask :=
  let running := c.groups.filterMap fun g => match g.2.place.record, g.2.place.ctx with
    | some r, some x => some (⟨g.2.uid, x, r, false⟩ : HeldTask)
    | _, _ => none
  let killed := c.killed.filterMap fun k => match k.th.place.record, k.th.place.ctx with
    | some r, some x => some (⟨k.th.uid, x, r, true⟩ : HeldTask)
    | _, _ => none
  let slots := c.table.filterMap fun t => match t.2.task with
    | some r => some (⟨t.2.uid, t.2.ctx, r, false⟩ : HeldTask)
    | none => none
  running ++ killed ++ (c.ready.map fun e => (⟨e.uid, e.ctx, e.task, false⟩ : HeldTask)) ++ slots

/-- A journal entry's task put back READY on a comb, with its record unchanged and at its original clk of entry; its mirror
moves to the next live die (R342). The re-run is a new agent (R278). Where the ready queue is full it waits in a slot for room
(R32), and without a slot it is parked (R333). -/
def State.requeue (s : State) (j : JournalEnt) (ck : Nat) : State :=
  let u := s.nextUid
  let rank := rankMesh j.die j.uid
  let die := keyDie ck
  let j' := { j with uid := u, die := die, lcomb := (s.die die).lcomb (keyComb ck), home := s.journalDie die }
  let c := s.comb ck
  let put (c : Comb) : State := { s.setComb ck c with nextUid := u + 1, journal := s.journal.map fun x => if x.uid = j.uid then j' else x }
  if c.ready.length < 256 then put { c with ready := c.ready ++ [⟨u, j.task, j.ctx, j.entered, rank⟩] }
  else match c.takeSlot with
    | some (k, c) => put { c with table := Sparse.set TaskSlot.reset c.table k ⟨u, (c.slot k).seq, some j.task, j.ctx, 0, true, j.entered⟩ }
    | none =>
      let m : Msg := ⟨u, 0x180, j.ctx, j.die, 0, none, 0, false, .arrived die (keyComb ck), .task j.task none none⟩
      { s.setComb ck { c with parked := c.parked ++ [m] } with nextUid := u + 1, journal := s.journal.filter fun x => decide (x.uid ≠ j.uid) }

/-- A task lost with its comb or die: its flow fails (R422). An atomic task before its commit mark is put back, and one past it
goes on on a comb's retirement, which the die's commit engine outlives; on a dead die its flow fails (R341, R342). -/
def State.loseTask (s : State) (dieLost : Bool) (lost : Nat) (t : HeldTask) : State :=
  if t.task.isAtomic ∧ t.killed = false ∧ (dieLost = false ∨ s.journal.any fun j => j.uid = t.uid) then s
  else s.failFlow t.ctx t.task.flow lost

/-- The atomic tasks of a comb that are past their commit mark: their last batches still leave (R341). -/
def State.committed (s : State) (ck : Nat) : List Killed :=
  (((s.comb ck).groups.map (·.2)).filter fun th => th.place.atomic && !s.journal.any fun j => j.uid = th.uid).map fun th => ⟨{ th with commit := [] }⟩

/-- The tasks that a save image holds and nobody has loaded again. -/
def Image.tasks (i : Image) : List HeldTask :=
  if i.loaded then [] else
  match i.body with
  | .group th _ _ _ => (th.place.record.map fun r => (⟨th.uid, i.ctx, r, false⟩ : HeldTask)).toList
  | .queues slots ready _ =>
    (slots.filterMap fun t => t.2.task.map fun r => (⟨t.2.uid, i.ctx, r, false⟩ : HeldTask)) ++
      ready.map fun e => (⟨e.uid, i.ctx, e.task, false⟩ : HeldTask)
  | _ => []

/-- Whether a save image holds a task, which a CTXLOAD will restore (R352). -/
def State.imaged (s : State) (uid : Nat) : Bool := s.images.any fun i => i.tasks.any fun t => t.uid = uid

/-- The aborted atomic tasks of a comb or die put back, or lost with their journal (R342); not those that a save image holds.
`target` is the comb a task goes to. -/
def State.requeueAll (s : State) (mine : JournalEnt → Bool) (lost : Nat) (target : JournalEnt → Option Nat) : State :=
  (s.journal.filter fun j => mine j && !s.imaged j.uid).foldl (fun s j => match target j with
    | some ck => s.requeue j ck
    | none => ({ s with journal := s.journal.filter fun x => decide (x.uid ≠ j.uid) } : State).failFlow j.ctx j.task.flow lost) s

/-! ## What a comb holds (R375, R394) -/

/-- A range of a grid's teams is lost: the grid completes without them, and the driver is told their indices (R394). -/
def State.loseRange (s : State) (g lo hi : Nat) : State :=
  { s with grids := s.grids.map fun (x : Grid) => if x.num = g then { x with lost := x.lost + (hi - lo) } else x,
           hive := { s.hive with teamReports := s.hive.teamReports ++ [(g, lo, hi)] } }

/-- The teams of grids on a comb are lost (R394). -/
def State.loseTeams (s : State) (ck : Nat) : State :=
  (s.comb ck).teams.foldl (fun s t => match t.2.grid with
    | some g => s.loseRange g t.2.index (t.2.index + 1)
    | none => s) s

/-- Grids that are complete now are finished. -/
def State.finishGrids (s : State) : State :=
  s.grids.foldl (fun s g => if !g.waiting && s.gridDone g then s.finishGrid g else s) s

/-- The messages in a comb of a dead die are discarded with it (R375); what their senders waited for is over. -/
def State.loseMessages (s : State) (die comb lost : Nat) : State :=
  let gone := (s.msgs.filter fun m => decide (m.stage = .arrived die comb)) ++ (s.comb (combKey die comb)).parked
  let s := { s with msgs := s.msgs.filter fun m => decide (m.stage ≠ .arrived die comb) }
  gone.foldl (fun s m => (s.discardDead m lost).flushKilled m.src) s

/-- The messages that have come to a comb whose index has passed to another: those that act on the state of the one that is gone
are discarded (R216), the others, and what is parked in HBM, enter the new one (R333, R376). -/
def State.moveMessages (s : State) (die comb heir : Nat) : State :=
  let here (m : Msg) : Bool := decide (m.stage = .arrived die comb)
  let stale (m : Msg) : Bool := m.body.perComb && m.carriesGen
  let parked := (s.comb (combKey die comb)).parked
  let gone := (s.msgs.filter fun m => here m && stale m) ++ parked.filter stale
  let s : State := { s with msgs := (s.msgs.filter fun m => !(here m && stale m)).map fun m => if here m then { m with stage := .arrived die heir } else m }
  let s := s.modComb (combKey die heir) fun c => { c with parked := c.parked ++ (parked.filter fun m => !stale m) }
  gone.foldl (fun s m => (s.discardStale m).flushKilled m.src) s

/-- A comb leaves the machine with everything it holds; `heir` is the comb its index passes to, if only the comb is retired. Its
sequence of batches goes on, with the last batches of the commits that the die performs (R341, R407). -/
def State.loseComb (s : State) (ck lost : Nat) (heir : Option Nat) : State :=
  let s := (s.comb ck).heldTasks.foldl (fun s t => s.loseTask heir.isNone lost t) s
  let s := s.loseTeams ck
  let s := match heir with
    | some h => s.moveMessages (keyDie ck) (keyComb ck) h
    | none => s.loseMessages (keyDie ck) (keyComb ck) lost
  let s := s.setComb ck (match heir with
    | some _ => { Comb.reset with seqOut := (s.comb ck).seqOut, killed := s.committed ck }
    | none => Comb.reset)
  let s := s.flushKilled ck
  let s := { s with bcasts := s.bcasts.filter fun b => decide (agentKey b.agent ≠ ck) }
  let s := (s.dies.map (·.1)).foldl (fun s d => s.modDie d fun x => { x with csubs := x.csubs.filter fun q => decide (agentKey q.agent ≠ ck) }) s
  let s := (s.ctxs.map (·.1)).foldl (fun s x => s.tornDown (keyDie ck) (keyComb ck) x) s
  s.dropCur

/-! ## Reduction trees (R429) -/

/-- The dies of a tree from one up to its root. -/
def State.climb (s : State) (t : Nat) : Nat → Nat → List Nat
  | 0, d => [d]
  | n + 1, d =>
    match (s.tree d t).bind fun x => if x.parent = 0 then none else neighbour d x.parent with
    | some p => d :: s.climb t n p
    | none => [d]

/-- The direction from a die to a neighbour. -/
def dirTo (d e : Nat) : Nat := ([1, 2, 3, 4].find? fun k => neighbour d k = some e).getD 0

/-- A tree entry of a die changed. -/
def State.modTree (s : State) (d t : Nat) (f : Tree → Tree) : State :=
  match s.tree d t with
  | some x => s.setTree d t (f x)
  | none => s

/-- A bit of MASK set or cleared. -/
def Tree.setMask (x : Tree) (k : Nat) (b : Bool) : Tree :=
  { x with mask := if x.mask.testBit k = b then x.mask else if b then x.mask + 2 ^ k else x.mask - 2 ^ k }

/-- A node and those above it, as far as they have sent their partial of a round, take it back: one more input is to come. -/
def State.takeBack (s : State) (t r : Nat) : Nat → Nat → State
  | 0, _ => s
  | n + 1, d =>
    match s.tree d t with
    | none => s
    | some x =>
      if x.sent = some r then
        let s := s.setTree d t { x with sent := none }
        match (if x.parent = 0 then none else neighbour d x.parent) with
        | none => s
        | some p =>
          let s := s.modTree p t fun y => { y with inputs := y.inputs.filter fun i => !(decide (i.dir = opposite x.parent) && decide (i.round = r)) }
          s.takeBack t r n p
      else s

/-- A die made the child of another. Of an open round, a partial it has sent another way stands as an input without contributions;
one it has still to send is waited for (R429). -/
def State.adopt (s : State) (t child parent : Nat) : State :=
  let k := dirTo parent child
  let rounds := s.openRounds s.liveDies t
  let sent (r : Nat) : Bool := (s.tree child t).any fun x => decide (x.sent = some r)
  let s := s.modTree child t fun x => { x with parent := dirTo child parent }
  let s := s.modTree parent t fun x => { x.setMask k true with inputs := x.inputs ++ (rounds.filter sent).map fun r => ⟨k, r, [], 0⟩ }
  (rounds.filter fun r => !sent r).foldl (fun s r => s.takeBack t r 36 parent) s

/-- A tree without a number on every die. -/
def State.clearTree (s : State) (t : Nat) : State :=
  s.liveDies.foldl (fun s d => s.modDie d fun x => { x with trees := Sparse.erase x.trees t }) s

/-- The children of a dead die re-parented, each to the adjacent live tree die of lowest index outside its subtree; the
state, and whether a child found no parent. -/
def State.reparent (s : State) (t : Nat) (children : List Nat) : State × Bool :=
  children.foldl (fun (p : State × Bool) c =>
    let s := p.1
    match (List.range 36).find? fun d => decide (dirTo c d ≠ 0) && (s.die d).live && (s.tree d t).isSome && !(s.climb t 36 d).contains c with
    | none => (s, true)
    | some d => (s.adopt t c d, p.2)) (s, false)

/-- The links from a new root up to a child of the dead root reversed; the path starts at the new root. -/
def State.reverseLinks (s : State) (t : Nat) : List Nat → State
  | a :: b :: rest =>
    let s := (s.modTree b t fun x => { x.setMask (dirTo b a) false with parent := dirTo b a }).modTree a t fun x => x.setMask (dirTo a b) true
    s.reverseLinks t (b :: rest)
  | _ => s

/-- A result on its way reaches every live member that waits for it (R429). -/
def State.spreadResult (s : State) (t : Nat) (r : Nat × List Word × Nat) : State :=
  s.liveDies.foldl (fun s d => s.modTree d t fun x => if x.sent = some r.1 then { x with result := some r } else x) s

/-- A tree after the death of a die (R429). The die's entry is still there; it is no longer live. -/
def State.retireTree (s : State) (dead t : Nat) : State :=
  match s.tree dead t with
  | none => s
  | some x =>
    let kids := [1, 2, 3, 4].filterMap fun k => if x.mask.testBit k then (neighbour dead k).bind fun d => if (s.tree d t).isSome then some d else none else none
    let open' := s.openRounds (if x.parent = 0 then s.liveDies else dead :: s.liveDies) t
    let s := s.modDie dead fun y => { y with trees := Sparse.erase y.trees t }
    let root := decide (x.parent = 0)
    let there := s.liveDies.findSome? fun d => (s.tree d t).bind fun y => y.result
    let s := match (if root then there else match x.result with
        | some r => some r
        | none => there) with
      | some r => s.spreadResult t r
      | none => s
    let holds (r : Nat) : Bool := (x.inputs.any fun i => decide (i.round = r) && decide (0 < i.n)) && decide (x.sent ≠ some r)
    let s := (open'.filter fun r => root || holds r).foldl (fun s r => s.abortRound t r) s
    let r :=
      if root then
        match (List.range 36).find? fun d => decide (dirTo dead d ≠ 0) && (s.die d).live && (s.tree d t).isSome with
        | none => (s, !kids.isEmpty)
        | some n =>
          let path := (s.climb t 36 n).filter fun d => decide (d ≠ dead)
          let s := (s.reverseLinks t path).modTree n t fun y => { y with parent := 0 }
          s.reparent t (kids.filter fun d => !path.contains d)
      else
        let s := match neighbour dead x.parent with
          | some p => s.modTree p t fun y => y.setMask (opposite x.parent) false
          | none => s
        s.reparent t kids
    if r.2 then ((r.1.treeRounds r.1.liveDies t).foldl (fun s r => s.abortRound t r) r.1).clearTree t else r.1

/-! ## Batches, forage counters, ownership (R218, R394, R421) -/

/-- The batches after the death of a die (R421): it no longer receives; of its own senders, what some replica has applied
reaches the rest, and a proxy batch without entries closes their sequence. -/
def State.repairBatches (s : State) (dead : Nat) : State :=
  let keep (b : Batch) : Bool := decide (b.sender % 64 ≠ dead) || (s.flowDies b.ctx b.flow).any fun d => !b.toReach.contains d
  let cut (b : Batch) : Batch := { b with toReach := b.toReach.filter fun d => decide (d ≠ dead), toAck := b.toAck.filter fun d => decide (d ≠ dead) }
  let s := { s with batches := ((s.batches.filter keep).map cut).filter fun b => !(b.toReach.isEmpty && b.toAck.isEmpty) }
  let s := s.liveDies.foldl (fun s d => s.modDie d fun y => { y with flows := y.flows.map fun f => { f with dieset := f.dieset.filter fun e => decide (e ≠ dead) } }) s
  let keys := ((s.liveDies.flatMap fun d => (s.die d).applied.map (·.1)).filter fun k => decide (k % 64 = dead)).eraseDups
  keys.foldl (fun s k =>
    let ctx := k / 2 ^ 20
    let f := k / 2 ^ 16 % 16
    let dies := s.flowDies ctx f
    let seq := (dies.map fun d => Sparse.get 0 (s.die d).applied k).foldl Nat.max 0
    if dies.isEmpty then s else { s with batches := s.batches ++ [⟨ctx, f, k % 2 ^ 16, seq, 2, [], dies, dies⟩] }) s

/-- The next live die of a grid's ring after a die. -/
def State.nextOfRing (s : State) (ring : List Nat) (die : Nat) : Option Nat :=
  match ring.findIdx? (· = die) with
  | none => none
  | some i => ((ring.drop (i + 1)) ++ ring.take i).find? fun d => (s.die d).live

/-- The forage counters of a dead die: unclaimed ranges move to the next live die of the ring, which takes its place in the
ring (R394). A range without a live die is lost. -/
def State.moveForage (s : State) (dead : Nat) : State :=
  let fs := (s.die dead).forage.map (·.2)
  let s := fs.foldl (fun s f =>
    match s.grids.find? fun (g : Grid) => g.num = f.grid with
    | none => s
    | some g =>
      match s.nextOfRing g.ring dead with
      | none => s.loseRange g.num f.next f.limit
      | some d =>
        let moved := decide (f.next < f.limit)
        let heir := if moved then d else f.nextDie
        let s := s.liveDies.foldl (fun s e => s.modDie e fun y => { y with forage := y.forage.map fun c => if c.2.grid = f.grid ∧ c.2.nextDie = dead then (c.1, { c.2 with nextDie := heir }) else c }) s
        if moved then s.modDie d fun y => y.addForage { f with nextDie := if f.nextDie = dead then d else f.nextDie } else s) s
  let s := s.modDie dead fun y => { y with forage := [] }
  { s with grids := s.grids.map fun (g : Grid) => if g.waiting then { g with ring := g.ring.map fun d => if d = dead then (s.nextOfRing g.ring dead).getD d else d } else g }

/-- The die that an ownership entry names under a numbering, if any. -/
def ownerDie (lmap : List Nat) (x : Word) : Option Nat := lmap[x.toNat / 2 ^ 8 % 64]?

/-- An ownership entry under a new numbering (R218): V = 0 where it named the retired die; one that names no die stays. -/
def renumberOwner (old new : List Nat) (dead : Nat) (x : Word) : Word :=
  match ownerDie old x with
  | none => x
  | some p =>
    if p = dead then x &&& 0x7FFFFFFF
    else match new.findIdx? (· = p) with
      | some i => (x &&& 0xFFFFC0FF) ||| BitVec.ofNat 32 (i * 2 ^ 8)
      | none => x

/-- The ownership entries of a die rewritten. -/
def Die.rewriteOwners (d : Die) (new : List Nat) (dead : Nat) : Die :=
  { d with owners := d.owners.foldl (fun m e => Sparse.set 0 m e.1 (renumberOwner d.lmap new dead e.2)) [] }

/-- The entries of a die that the rewriting clears. -/
def Die.clearedOwners (d : Die) (dead : Nat) : List Nat :=
  (d.owners.filter fun e => e.2.getLsbD 31 && decide (ownerDie d.lmap e.2 = some dead)).map (·.1)

/-- The ownership entries of every live die rewritten after a die's retirement, and those cleared reported to the driver
(R218). -/
def State.rewriteOwners (s : State) (dead : Nat) : State :=
  let live := s.liveDies
  let cleared := live.flatMap fun d => ((s.die d).clearedOwners dead).map fun k => (d, k)
  let s := live.foldl (fun s d => s.modDie d fun y => y.rewriteOwners live dead) s
  { s with hive := { s.hive with ownerReports := s.hive.ownerReports ++ cleared } }

/-! ## Memory and rings of a dead die (R222, R225, R437) -/

/-- A location on a die. -/
def onDie (die loc : Nat) : Bool := decide (loc < hostBase) && decide (locDie loc = die) || decide (scratchBase ≤ loc) && decide (locDie loc = die)

/-- A write on its way to a dead die is lost; the operation that waits for an atomic's value gets an error (R222). -/
def State.loseStore (s : State) (st : Store) : State :=
  match st.kind, st.op with
  | .atomic _ lane va _ _ _, some u =>
    s.modComb (combKey st.die st.comb) fun c => { c with ops := c.ops.map fun o =>
      if o.uid = u then { o with bad := o.bad ++ [(lane, va)], kind := match o.kind with
        | .load sh p g tog l1 acq n => .load sh p g tog l1 acq (n - 1)
        | k => k } else o }
  | _, _ => s

/-- What the package held on a dead die: its lines, the writes and acknowledgements on their way, its replicas, and its part
in broadcasts. -/
def State.loseMemory (s : State) (dead : Nat) : State :=
  let lostStore (st : Store) : Bool := st.locs.any fun l => onDie dead l
  let s := (s.stores.filter lostStore).foldl (fun s st => s.loseStore st) s
  let s := { s with stores := s.stores.filter fun st => !lostStore st, acks := s.acks.filter fun a => decide (a.die ≠ dead), l2 := s.l2.filter fun l => decide (locDie (l.1 * 128) ≠ dead), tiles := s.tiles.filter fun t => !(onDie dead t.page), fills := s.fills.filter fun f => f.tile.isSome || decide (locDie (f.line * 128) ≠ dead) }
  let cut (m : Nat) : Nat := if m.testBit dead then m - 2 ^ dead else m
  let s := s.liveDies.foldl (fun s d => s.modDie d fun y => { y with replicas := y.replicas.foldl (fun m e => Sparse.set 0 m e.1 (cut e.2)) [] }) s
  s.bcasts.foldl (fun s b =>
    if b.dies.contains dead then
      let b' := { b with dies := b.dies.filter fun d => decide (d ≠ dead) }
      if b'.dies.isEmpty then ({ s with bcasts := s.bcasts.filter fun x => decide (x.uid ≠ b.uid) } : State).answer b.agent b.agentUid b.uid (.answered 0)
      else { s with bcasts := s.bcasts.map fun x => if x.uid = b.uid then b' else x }
    else s) s

/-- The rings of live dies that lose a peer: RINGEVT code 2, and nothing crosses to it any more (R437). -/
def State.losePeer (s : State) (peer : Nat) : State :=
  s.liveDies.foldl (fun s d =>
    (s.die d).rings.foldl (fun s r =>
      if (r.succ = peer ∨ r.pred = peer) ∧ r.lost.contains peer = false then
        { (s.ringEvent d r 2 (s.lastStep r)).setRing d { r with lost := r.lost ++ [peer] } with freeN := s.freeN + 1 }
      else s) s) s

/-! ## The generation advance (R19, R215, R216) -/

/-- Whether a message injected seven generations ago is still on its way: an advance waits for it (R216). -/
def State.oldMessage (s : State) : Bool :=
  let g := (s.die (s.liveDies.headD 0)).gen.toNat
  s.msgs.any fun m => m.carriesGen && decide (m.stage ≠ .outbound) && decide (7 ≤ (g + 16 - m.name.toNat / 2 ^ 14 % 16) % 16)

/-- The tables that a die takes with the next generation: the numbering of the live dies, the overrides, and CV cleared at the
eighth advance after a move (R213, R215, R216). -/
def Die.next (d : Die) (lmap : List Nat) (ovr : List (Nat × Nat)) : Shadow :=
  let g := d.gen + 1
  ⟨g, lmap, d.grade, d.cmap.map fun e => (e.1, { e.2 with cv := e.2.cv && decide ((g.toNat + 16 - e.2.chg % 16) % 16 ≠ 8) }), ovr⟩

/-- The advance of every live die, its shadow tables written first, and the records and notices that tell of it: STEWMSG codes 3
and 2 to the launch station, notices 2 and 1 (R215, R451, R455). -/
def State.advance (s : State) (name phys cause : Nat) : State :=
  let live := s.liveDies
  let table := overrides live
  let s := s.writeShadow (live.map fun d => (d, (s.die d).next live (overridesOf table d)))
  let s := live.foldl (fun s d => s.modDie d fun y => y.take (s.shadow d)) s
  let gen := (s.die (live.headD 0)).gen.toNat
  let s := s.sendRecord s.station 0xFF (stewMsg 3 1 name 0)
  let s := s.sendRecord s.station 0xFF (stewMsg 2 1 gen 0)
  (s.notify 2 name phys cause).notify 1 gen live.length 0

/-! ## Retirement (R211, R455) -/

/-- The combs of a die that a retirement takes with it: those that hold anything, and those that an ending context still
waits for. -/
def State.combsLost (s : State) (die : Nat) : List Nat :=
  let held := s.combsOf die
  let waited := (s.ctxs.flatMap fun x => (x.2.ending.getD []).filter fun k => decide (k.1 = die)).map fun k => combKey k.1 k.2
  held ++ (waited.filter fun k => !held.contains k).eraseDups

/-- A die is retired (R375, R421, R429, R394, R218, R215). -/
def State.retireDie (s : State) (die cause : Nat) : State :=
  let name := s.dieName die
  let lost := (s.die die).ldie die
  let combs := s.combsLost die
  let s := s.modDie die fun d => { d with live := false }
  let s := { s with hive := { s.hive with retired := s.hive.retired ++ [die] } }
  let s := (List.range 16).foldl (fun s t => s.retireTree die t) s
  let s := s.repairBatches die
  let fails := s.commits.filter fun c => decide (keyDie c.key = die)
  let s := { s with commits := s.commits.filter fun c => decide (keyDie c.key ≠ die) }
  let s := fails.foldl (fun s c => match c.th.place.record, c.th.place.ctx with
    | some r, some x => s.failFlow x r.flow lost
    | _, _ => s) s
  let s := combs.foldl (fun s ck => s.loseComb ck lost none) s
  let s := ((s.images.filter fun i => i.die = die).flatMap Image.tasks).foldl (fun s t => s.loseTask true lost t) s
  let s := { s with images := s.images.filter fun i => decide (i.die ≠ die) }
  let out := s.msgs.filter fun m => decide (m.srcDie = die) && decide (m.stage = .outbound)
  let s : State := { s with msgs := s.msgs.filter fun (m : Msg) => !(decide (m.srcDie = die) && decide (m.stage = .outbound)) }
  let s := out.foldl (fun s m => s.discardDead m lost) s
  let s := (s.moveForage die).loseMemory die
  let s := (die :: (portsOf die).map (2 ^ 31 + ·)).foldl State.losePeer s
  let old := s.die die
  let s := s.setDie die { Die.reset with live := false, gen := old.gen, lmap := old.lmap, grade := old.grade, cmap := old.cmap, ovr := old.ovr, cairn := old.cairn }
  let s := s.rewriteOwners die
  let s := s.advance name die cause
  let s : State := { s with journal := s.journal.map fun (j : JournalEnt) => if j.home = die then { j with home := 36 } else j }
  let s := s.requeueAll (fun j => decide (j.die = die)) lost fun j =>
    if decide (j.home < 36) && (s.die j.home).live then some (s.lkey j.home (if j.lcomb < (s.die j.home).combs then j.lcomb else j.lcomb % (s.die j.home).combs)) else none
  let s := s.finishGrids
  if (s.die 0).live || (s.die 35).live then s else { s.halt 2 with cur := none }

/-- The spare that takes a retired comb's index: the highest of its own row, of the row above, of the row below (R211). -/
def Die.spare (d : Die) (comb : Nat) : Option Nat :=
  let row := comb / 13
  let free (c : Nat) : Bool := decide (c ≠ comb) && decide (d.lcomb c = 0xFF) && !(Sparse.find? d.cairn c).any fun x => x.dead
  let rows := [row] ++ (if row = 0 then [] else [row - 1]) ++ (if row < 11 then [row + 1] else [])
  rows.findSome? fun y => ((List.range 13).reverse.map (13 * y + ·)).find? free

/-- A comb is retired: DEAD with FIELD = 1, and its index passes to a spare; without one its die is retired (R211). -/
def State.retireComb (s : State) (die comb cause : Nat) : State :=
  let ck := combKey die comb
  let d := s.die die
  let l := d.lcomb comb
  let mark (d : Die) : Die := { d with cairn := Sparse.put d.cairn comb ⟨true, true⟩ }
  match (if l = 0xFF then some comb else d.spare comb) with
  | none => (s.modDie die mark).retireDie die cause
  | some c =>
    let name := s.combName ck
    let s := s.loseComb ck 0x3F (some c)
    let s := s.modDie die fun d =>
      let d := mark d
      if l = 0xFF then d else { d with cmap := Sparse.put d.cmap l ⟨c, (d.gen + 1).toNat, true⟩ }
    let s := s.advance name comb cause
    let s := s.requeueAll (fun j => decide (j.die = die) && decide (j.lcomb = l) && decide (l ≠ 0xFF)) 0x3F fun _ => some (combKey die c)
    s.finishGrids

/-- A retirement to be applied, in increasing physical index; a die's comes after those of its combs. -/
def addPending (x : Nat × Option Nat × Nat) : List (Nat × Option Nat × Nat) → List (Nat × Option Nat × Nat)
  | [] => [x]
  | y :: ys =>
    let key (z : Nat × Option Nat × Nat) : Nat := combKey z.1 (z.2.1.getD 255)
    if key x = key y then y :: ys else if key x < key y then x :: y :: ys else y :: addPending x ys

/-- A retirement found. -/
def State.found (s : State) (die : Nat) (comb : Option Nat) (cause : Nat) : State :=
  { s with hive := { s.hive with pending := addPending (die, comb, cause) s.hive.pending } }

/-- The live dies that the death of another cut off are mapped out (R213). -/
def State.mapOut (s : State) (cause : Nat) : State :=
  let live := s.liveDies
  let kept := keptPart live
  (live.filter fun d => !kept.contains d).foldl (fun s d => s.found d none cause) s

/-- An error in a comb's SRAM counted in its die's error block (R248); an uncorrectable one in data that a context owns ends the
context with DATALOSS at once (R249). One in a clean line concerns no context: the entry is dropped and refetched. -/
def State.sramErr (s : State) (die : Nat) (e : SramErr) : State :=
  let s := s.countErr die e.cls e.corrected
  match e.ctx with
  | some ctx => if e.corrected then s else s.endContext ctx 2 0 0
  | none => s

/-- The errors that ECC has met in a comb's SRAM are counted and acted on, and 16 uncorrectable ones within a second retire the
comb (R248, R249, R455). -/
def State.combErrs (s : State) (ck : Nat) : State :=
  let errs := (s.comb ck).errs
  let s := (errs.filter fun e => !e.handled).foldl (fun s e => s.sramErr (keyDie ck) e) s
  if 16 ≤ (errs.filter fun e => !e.corrected).length then (s.modComb ck fun c => { c with errs := [] }).found (keyDie ck) (some (keyComb ck)) 2
  else s.modComb ck fun c => { c with errs := c.errs.map fun e => { e with handled := true } }

/-- RETIREMENT (R455): errors that nobody has acted on yet, and then the next retirement found, with its own advance; it waits
for messages that are too old. -/
def execRetirement (s : State) : Host.Outcome State Fault Refusal :=
  let s := ((s.combs.filter fun c => c.2.errs.any fun e => !e.handled).map (·.1)).foldl State.combErrs s
  match s.hive.pending with
  | [] => .next s
  | (die, comb, cause) :: rest =>
    if s.oldMessage then .next s
    else
      let s := { s with hive := { s.hive with pending := rest } }
      if !(s.die die).live || decide (36 ≤ die) then .next s
      else match comb with
        | none => .next ((s.retireDie die cause).mapOut cause)
        | some c =>
          if decide (156 ≤ c) || (Sparse.find? (s.die die).cairn c).any (fun x => x.dead) then .next s
          else .next ((s.retireComb die c cause).mapOut cause)

/-- COMB_ERROR_RETIREMENT (R248, R249, R455): the errors more than a second old no longer count, and those that ECC has just met
are counted and acted on. -/
def execCombErrorRetirement (die : Nat) (met : CombErrors) (s : State) : Host.Outcome State Fault Refusal :=
  let ck := combKey die met.comb
  .next ((s.modComb ck fun c => { c with errs := c.errs.drop met.aged ++ met.errs.map fun e => { e with handled := false } }).combErrs ck)

/-- RETIRE_REQUEST (R455): the driver's. -/
def execRetireRequest (die : Nat) (comb : Option Nat) (s : State) : Host.Outcome State Fault Refusal :=
  if (s.die die).live ∧ die < 36 then .next (s.found die comb 3) else .next s

/-- HEARTBEAT (R455). -/
def execHeartbeat (die : Nat) (s : State) : Host.Outcome State Fault Refusal :=
  .next (s.modDie die fun d => { d with missed := 0 })

/-- HEARTBEAT_MISS (R455): after the third in a row the die's router is probed, and a die whose probe fails is dead. -/
def execHeartbeatMiss (die : Nat) (probeOk : Bool) (s : State) : Host.Outcome State Fault Refusal :=
  let n := (s.die die).missed + 1
  if n < 3 then .next (s.modDie die fun d => { d with missed := n })
  else
    let s := s.modDie die fun d => { d with missed := 0 }
    if probeOk ∨ !(s.die die).live ∨ 36 ≤ die then .next s else .next (s.found die none 1)

/-- FABRIC_PORT_DOWN (R453, R437). -/
def execFabricPortDown (port : Nat) (s : State) : Host.Outcome State Fault Refusal :=
  if 48 ≤ port ∨ s.hive.portDown.contains port then .next s
  else .next (({ s with hive := { s.hive with portDown := s.hive.portDown ++ [port] } } : State).losePeer (2 ^ 31 + port))

end Sys2Proof.Machine
end

