-- ==== Sys2Proof/Machine/Dispatch.lean ====
section
/-! DEFINITION. Dispatch: the meaning of each instruction and event, one arm per constructor. -/

namespace Sys2Proof.Machine

/-- The meaning of one step of the machine. -/
def exec (i : Instr) (s : State) : Host.Outcome State Fault Refusal :=
  match i with
  | .nop x0 => Sys2Proof.Machine.execNop x0 s
  | .exit x0 => Sys2Proof.Machine.execExit x0 s
  | .yield x0 => Sys2Proof.Machine.execYield x0 s
  | .trap x0 => Sys2Proof.Machine.execTrap x0 s
  | .brk x0 => Sys2Proof.Machine.execBrk x0 s
  | .rdsr x0 => Sys2Proof.Machine.execRdsr x0 s
  | .wrsr x0 => Sys2Proof.Machine.execWrsr x0 s
  | .iadd x0 => Sys2Proof.Machine.execIadd x0 s
  | .isub x0 => Sys2Proof.Machine.execIsub x0 s
  | .imul x0 => Sys2Proof.Machine.execImul x0 s
  | .imulhi x0 => Sys2Proof.Machine.execImulhi x0 s
  | .imad x0 => Sys2Proof.Machine.execImad x0 s
  | .imin x0 => Sys2Proof.Machine.execImin x0 s
  | .imax x0 => Sys2Proof.Machine.execImax x0 s
  | .iabs x0 => Sys2Proof.Machine.execIabs x0 s
  | .iaddc x0 => Sys2Proof.Machine.execIaddc x0 s
  | .lea x0 => Sys2Proof.Machine.execLea x0 s
  | .idp4 x0 => Sys2Proof.Machine.execIdp4 x0 s
  | .idp2 x0 => Sys2Proof.Machine.execIdp2 x0 s
  | .and x0 => Sys2Proof.Machine.execAnd x0 s
  | .or x0 => Sys2Proof.Machine.execOr x0 s
  | .xor x0 => Sys2Proof.Machine.execXor x0 s
  | .andn x0 => Sys2Proof.Machine.execAndn x0 s
  | .lop3 x0 => Sys2Proof.Machine.execLop3 x0 s
  | .shl x0 => Sys2Proof.Machine.execShl x0 s
  | .shr x0 => Sys2Proof.Machine.execShr x0 s
  | .sar x0 => Sys2Proof.Machine.execSar x0 s
  | .fshl x0 => Sys2Proof.Machine.execFshl x0 s
  | .bfe x0 => Sys2Proof.Machine.execBfe x0 s
  | .bfi x0 => Sys2Proof.Machine.execBfi x0 s
  | .popc x0 => Sys2Proof.Machine.execPopc x0 s
  | .clz x0 => Sys2Proof.Machine.execClz x0 s
  | .brev x0 => Sys2Proof.Machine.execBrev x0 s
  | .isetp x0 => Sys2Proof.Machine.execIsetp x0 s
  | .fsetp x0 => Sys2Proof.Machine.execFsetp x0 s
  | .sel x0 => Sys2Proof.Machine.execSel x0 s
  | .plop x0 => Sys2Proof.Machine.execPlop x0 s
  | .pmov x0 => Sys2Proof.Machine.execPmov x0 s
  | .mov x0 => Sys2Proof.Machine.execMov x0 s
  | .xperm x0 => Sys2Proof.Machine.execXperm x0 s
  | .vote x0 => Sys2Proof.Machine.execVote x0 s
  | .gredi x0 => Sys2Proof.Machine.execGredi x0 s
  | .gredf x0 => Sys2Proof.Machine.execGredf x0 s
  | .gscan x0 => Sys2Proof.Machine.execGscan x0 s
  | .matchEq x0 => Sys2Proof.Machine.execMatchEq x0 s
  | .fadd x0 => Sys2Proof.Machine.execFadd x0 s
  | .fsub x0 => Sys2Proof.Machine.execFsub x0 s
  | .fmul x0 => Sys2Proof.Machine.execFmul x0 s
  | .ffma x0 => Sys2Proof.Machine.execFfma x0 s
  | .ffms x0 => Sys2Proof.Machine.execFfms x0 s
  | .fnfma x0 => Sys2Proof.Machine.execFnfma x0 s
  | .fdiv x0 => Sys2Proof.Machine.execFdiv x0 s
  | .fmin x0 => Sys2Proof.Machine.execFmin x0 s
  | .fmax x0 => Sys2Proof.Machine.execFmax x0 s
  | .fabs x0 => Sys2Proof.Machine.execFabs x0 s
  | .fneg x0 => Sys2Proof.Machine.execFneg x0 s
  | .fcpsgn x0 => Sys2Proof.Machine.execFcpsgn x0 s
  | .frnd x0 => Sys2Proof.Machine.execFrnd x0 s
  | .fclass x0 => Sys2Proof.Machine.execFclass x0 s
  | .rcp x0 => Sys2Proof.Machine.execRcp x0 s
  | .rsq x0 => Sys2Proof.Machine.execRsq x0 s
  | .sqrt x0 => Sys2Proof.Machine.execSqrt x0 s
  | .exp2 x0 => Sys2Proof.Machine.execExp2 x0 s
  | .log2 x0 => Sys2Proof.Machine.execLog2 x0 s
  | .sinpi x0 => Sys2Proof.Machine.execSinpi x0 s
  | .cospi x0 => Sys2Proof.Machine.execCospi x0 s
  | .tanh x0 => Sys2Proof.Machine.execTanh x0 s
  | .cvt x0 => Sys2Proof.Machine.execCvt x0 s
  | .pack2 x0 => Sys2Proof.Machine.execPack2 x0 s
  | .unpk2 x0 => Sys2Proof.Machine.execUnpk2 x0 s
  | .cvtmx x0 => Sys2Proof.Machine.execCvtmx x0 s
  | .cvtqn x0 => Sys2Proof.Machine.execCvtqn x0 s
  | .qndec x0 => Sys2Proof.Machine.execQndec x0 s
  | .bra x0 => Sys2Proof.Machine.execBra x0 s
  | .brz x0 => Sys2Proof.Machine.execBrz x0 s
  | .brnz x0 => Sys2Proof.Machine.execBrnz x0 s
  | .brany x0 => Sys2Proof.Machine.execBrany x0 s
  | .brall x0 => Sys2Proof.Machine.execBrall x0 s
  | .call x0 => Sys2Proof.Machine.execCall x0 s
  | .ret x0 => Sys2Proof.Machine.execRet x0 s
  | .jmpi x0 => Sys2Proof.Machine.execJmpi x0 s
  | .jmpv x0 => Sys2Proof.Machine.execJmpv x0 s
  | .emand x0 => Sys2Proof.Machine.execEmand x0 s
  | .emandn x0 => Sys2Proof.Machine.execEmandn x0 s
  | .emset x0 => Sys2Proof.Machine.execEmset x0 s
  | .emget x0 => Sys2Proof.Machine.execEmget x0 s
  | .exitl x0 => Sys2Proof.Machine.execExitl x0 s
  | .loop x0 => Sys2Proof.Machine.execLoop x0 s
  | .lbrk x0 => Sys2Proof.Machine.execLbrk x0 s
  | .lcnt x0 => Sys2Proof.Machine.execLcnt x0 s
  | .rgive x0 => Sys2Proof.Machine.execRgive x0 s
  | .rclaim x0 => Sys2Proof.Machine.execRclaim x0 s
  | .winsel x0 => Sys2Proof.Machine.execWinsel x0 s
  | .winrd x0 => Sys2Proof.Machine.execWinrd x0 s
  | .winwr x0 => Sys2Proof.Machine.execWinwr x0 s
  | .gresumeReplay x0 => Sys2Proof.Machine.execGresumeReplay x0 s
  | .gresumeSkip x0 => Sys2Proof.Machine.execGresumeSkip x0 s
  | .gkill x0 => Sys2Proof.Machine.execGkill x0 s
  | .bankcfgOff x0 => Sys2Proof.Machine.execBankcfgOff x0 s
  | .bankcfgCache x0 => Sys2Proof.Machine.execBankcfgCache x0 s
  | .bankcfgScratch x0 => Sys2Proof.Machine.execBankcfgScratch x0 s
  | .bankcfgFifo x0 => Sys2Proof.Machine.execBankcfgFifo x0 s
  | .tlbinvPage x0 => Sys2Proof.Machine.execTlbinvPage x0 s
  | .tlbinvPagePurge x0 => Sys2Proof.Machine.execTlbinvPagePurge x0 s
  | .tlbinvCtx x0 => Sys2Proof.Machine.execTlbinvCtx x0 s
  | .tlbinvAll x0 => Sys2Proof.Machine.execTlbinvAll x0 s
  | .ctxsaveFreeze x0 => Sys2Proof.Machine.execCtxsaveFreeze x0 s
  | .ctxsaveCopies x0 => Sys2Proof.Machine.execCtxsaveCopies x0 s
  | .ctxsaveGroup x0 => Sys2Proof.Machine.execCtxsaveGroup x0 s
  | .ctxsaveTeam x0 => Sys2Proof.Machine.execCtxsaveTeam x0 s
  | .ctxsaveQueues x0 => Sys2Proof.Machine.execCtxsaveQueues x0 s
  | .ctxsaveFifo x0 => Sys2Proof.Machine.execCtxsaveFifo x0 s
  | .ctxloadThaw x0 => Sys2Proof.Machine.execCtxloadThaw x0 s
  | .ctxloadCopies x0 => Sys2Proof.Machine.execCtxloadCopies x0 s
  | .ctxloadGroup x0 => Sys2Proof.Machine.execCtxloadGroup x0 s
  | .ctxloadTeam x0 => Sys2Proof.Machine.execCtxloadTeam x0 s
  | .ctxloadQueues x0 => Sys2Proof.Machine.execCtxloadQueues x0 s
  | .ctxloadFifo x0 => Sys2Proof.Machine.execCtxloadFifo x0 s
  | .ld x0 => Sys2Proof.Machine.execLd x0 s
  | .st x0 => Sys2Proof.Machine.execSt x0 s
  | .ldsc x0 => Sys2Proof.Machine.execLdsc x0 s
  | .stsc x0 => Sys2Proof.Machine.execStsc x0 s
  | .ldp x0 => Sys2Proof.Machine.execLdp x0 s
  | .prf x0 => Sys2Proof.Machine.execPrf x0 s
  | .ldte x0 => Sys2Proof.Machine.execLdte x0 s
  | .stte x0 => Sys2Proof.Machine.execStte x0 s
  | .cctlIcinv x0 => Sys2Proof.Machine.execCctlIcinv x0 s
  | .cctlL1inv x0 => Sys2Proof.Machine.execCctlL1inv x0 s
  | .cctlWb x0 => Sys2Proof.Machine.execCctlWb x0 s
  | .cctlWbinv x0 => Sys2Proof.Machine.execCctlWbinv x0 s
  | .cctlPin x0 => Sys2Proof.Machine.execCctlPin x0 s
  | .cctlUnpin x0 => Sys2Proof.Machine.execCctlUnpin x0 s
  | .fenceAcq x0 => Sys2Proof.Machine.execFenceAcq x0 s
  | .fenceRel x0 => Sys2Proof.Machine.execFenceRel x0 s
  | .fenceAcqrel x0 => Sys2Proof.Machine.execFenceAcqrel x0 s
  | .fenceSc x0 => Sys2Proof.Machine.execFenceSc x0 s
  | .fenceI x0 => Sys2Proof.Machine.execFenceI x0 s
  | .tsync x0 => Sys2Proof.Machine.execTsync x0 s
  | .tsyncAll x0 => Sys2Proof.Machine.execTsyncAll x0 s
  | .tdinv x0 => Sys2Proof.Machine.execTdinv x0 s
  | .tdinvAll x0 => Sys2Proof.Machine.execTdinvAll x0 s
  | .atom x0 => Sys2Proof.Machine.execAtom x0 s
  | .atomcas x0 => Sys2Proof.Machine.execAtomcas x0 s
  | .red x0 => Sys2Proof.Machine.execRed x0 s
  | .atomsc x0 => Sys2Proof.Machine.execAtomsc x0 s
  | .cassc x0 => Sys2Proof.Machine.execCassc x0 s
  | .copy x0 => Sys2Proof.Machine.execCopy x0 s
  | .copyo x0 => Sys2Proof.Machine.execCopyo x0 s
  | .copym x0 => Sys2Proof.Machine.execCopym x0 s
  | .gather x0 => Sys2Proof.Machine.execGather x0 s
  | .copyl x0 => Sys2Proof.Machine.execCopyl x0 s
  | .ccancel x0 => Sys2Proof.Machine.execCcancel x0 s
  | .putv x0 => Sys2Proof.Machine.execPutv x0 s
  | .getv x0 => Sys2Proof.Machine.execGetv x0 s
  | .redv x0 => Sys2Proof.Machine.execRedv x0 s
  | .mma x0 => Sys2Proof.Machine.execMma x0 s
  | .mzero x0 => Sys2Proof.Machine.execMzero x0 s
  | .mst x0 => Sys2Proof.Machine.execMst x0 s
  | .mld x0 => Sys2Proof.Machine.execMld x0 s
  | .mrows x0 => Sys2Proof.Machine.execMrows x0 s
  | .mrowmax x0 => Sys2Proof.Machine.execMrowmax x0 s
  | .mrowsum x0 => Sys2Proof.Machine.execMrowsum x0 s
  | .mbar x0 => Sys2Proof.Machine.execMbar x0 s
  | .mwaitb x0 => Sys2Proof.Machine.execMwaitb x0 s
  | .spawn x0 => Sys2Proof.Machine.execSpawn x0 s
  | .tret x0 => Sys2Proof.Machine.execTret x0 s
  | .refill x0 => Sys2Proof.Machine.execRefill x0 s
  | .wqpush x0 => Sys2Proof.Machine.execWqpush x0 s
  | .send x0 => Sys2Proof.Machine.execSend x0 s
  | .fpush x0 => Sys2Proof.Machine.execFpush x0 s
  | .fpop x0 => Sys2Proof.Machine.execFpop x0 s
  | .evpop x0 => Sys2Proof.Machine.execEvpop x0 s
  | .primemit x0 => Sys2Proof.Machine.execPrimemit x0 s
  | .vtwr x0 => Sys2Proof.Machine.execVtwr x0 s
  | .ownwr x0 => Sys2Proof.Machine.execOwnwr x0 s
  | .pswr x0 => Sys2Proof.Machine.execPswr x0 s
  | .bari x0 => Sys2Proof.Machine.execBari x0 s
  | .bara x0 => Sys2Proof.Machine.execBara x0 s
  | .barw x0 => Sys2Proof.Machine.execBarw x0 s
  | .tbinit x0 => Sys2Proof.Machine.execTbinit x0 s
  | .tbexp x0 => Sys2Proof.Machine.execTbexp x0 s
  | .tbarr x0 => Sys2Proof.Machine.execTbarr x0 s
  | .tbwait x0 => Sys2Proof.Machine.execTbwait x0 s
  | .waitc x0 => Sys2Proof.Machine.execWaitc x0 s
  | .depset x0 => Sys2Proof.Machine.execDepset x0 s
  | .depdec x0 => Sys2Proof.Machine.execDepdec x0 s
  | .owait x0 => Sys2Proof.Machine.execOwait x0 s
  | .orels x0 => Sys2Proof.Machine.execOrels x0 s
  | .orelsSet x0 => Sys2Proof.Machine.execOrelsSet x0 s
  | .timew x0 => Sys2Proof.Machine.execTimew x0 s
  | .crest x0 => Sys2Proof.Machine.execCrest x0 s
  | .cwait x0 => Sys2Proof.Machine.execCwait x0 s
  | .csub x0 => Sys2Proof.Machine.execCsub x0 s
  | .csubCancel x0 => Sys2Proof.Machine.execCsubCancel x0 s
  | .pcnt x0 => Sys2Proof.Machine.execPcnt x0 s
  | .pflush x0 => Sys2Proof.Machine.execPflush x0 s
  | .nred x0 => Sys2Proof.Machine.execNred x0 s
  | .wring x0 => Sys2Proof.Machine.execWring x0 s
  | .wringClose x0 => Sys2Proof.Machine.execWringClose x0 s
  | .wpost x0 => Sys2Proof.Machine.execWpost x0 s
  | .wtake x0 => Sys2Proof.Machine.execWtake x0 s
  | .wdone x0 => Sys2Proof.Machine.execWdone x0 s
  | .instructionFetch x0 => Sys2Proof.Machine.execInstructionFetch x0 s
  | .issueArbitration x0 x1 x2 => Sys2Proof.Machine.execIssueArbitration x0 x1 x2 s
  | .operationCompletion x0 x1 x2 => Sys2Proof.Machine.execOperationCompletion x0 x1 x2 s
  | .tlbinvAcknowledge x0 => Sys2Proof.Machine.execTlbinvAcknowledge x0 s
  | .storeAtHomeSlice x0 => Sys2Proof.Machine.execStoreAtHomeSlice x0 s
  | .mergingFill x0 => Sys2Proof.Machine.execMergingFill x0 s
  | .replicaUpdate x0 x1 x2 => Sys2Proof.Machine.execReplicaUpdate x0 x1 x2 s
  | .remoteWriteAck x0 => Sys2Proof.Machine.execRemoteWriteAck x0 s
  | .copySectorWrite x0 x1 x2 x3 => Sys2Proof.Machine.execCopySectorWrite x0 x1 x2 x3 s
  | .copyResume x0 x1 x2 => Sys2Proof.Machine.execCopyResume x0 x1 x2 s
  | .firstRouterCheck x0 => Sys2Proof.Machine.execFirstRouterCheck x0 s
  | .messageDelivery x0 => Sys2Proof.Machine.execMessageDelivery x0 s
  | .taskArrival x0 x1 => Sys2Proof.Machine.execTaskArrival x0 x1 s
  | .messageConsumption x0 x1 => Sys2Proof.Machine.execMessageConsumption x0 x1 s
  | .parkedEntry x0 x1 => Sys2Proof.Machine.execParkedEntry x0 x1 s
  | .taskDequeue x0 x1 => Sys2Proof.Machine.execTaskDequeue x0 x1 s
  | .forageClaim x0 x1 x2 => Sys2Proof.Machine.execForageClaim x0 x1 x2 s
  | .teamRetirement x0 x1 x2 => Sys2Proof.Machine.execTeamRetirement x0 x1 x2 s
  | .commitPerform x0 => Sys2Proof.Machine.execCommitPerform x0 s
  | .dependencyOpArrival x0 x1 => Sys2Proof.Machine.execDependencyOpArrival x0 x1 s
  | .pushDelivery x0 x1 => Sys2Proof.Machine.execPushDelivery x0 x1 s
  | .packetDelivery x0 x1 => Sys2Proof.Machine.execPacketDelivery x0 x1 s
  | .spillReload x0 x1 x2 => Sys2Proof.Machine.execSpillReload x0 x1 x2 s
  | .primitiveBinning x0 => Sys2Proof.Machine.execPrimitiveBinning x0 s
  | .boundAdvance x0 x1 => Sys2Proof.Machine.execBoundAdvance x0 x1 s
  | .eventRecordArrival x0 x1 => Sys2Proof.Machine.execEventRecordArrival x0 x1 s
  | .batchApply x0 => Sys2Proof.Machine.execBatchApply x0 s
  | .csubRequestArrival x0 => Sys2Proof.Machine.execCsubRequestArrival x0 s
  | .batchAcknowledgement x0 => Sys2Proof.Machine.execBatchAcknowledgement x0 s
  | .pendingTimeMerge x0 => Sys2Proof.Machine.execPendingTimeMerge x0 s
  | .passGrant x0 x1 => Sys2Proof.Machine.execPassGrant x0 x1 s
  | .passCompletion x0 x1 => Sys2Proof.Machine.execPassCompletion x0 x1 s
  | .passResume x0 x1 x2 => Sys2Proof.Machine.execPassResume x0 x1 x2 s
  | .reductionPartial x0 x1 => Sys2Proof.Machine.execReductionPartial x0 x1 s
  | .reductionResult x0 x1 => Sys2Proof.Machine.execReductionResult x0 x1 s
  | .ringTransfer x0 x1 => Sys2Proof.Machine.execRingTransfer x0 x1 s
  | .ringForwardComplete x0 x1 x2 => Sys2Proof.Machine.execRingForwardComplete x0 x1 x2 s
  | .ringGrant x0 => Sys2Proof.Machine.execRingGrant x0 s
  | .trapRecordDispatch x0 x1 => Sys2Proof.Machine.execTrapRecordDispatch x0 x1 s
  | .handlerTimeLimit x0 x1 => Sys2Proof.Machine.execHandlerTimeLimit x0 x1 s
  | .contextTeardown x0 x1 => Sys2Proof.Machine.execContextTeardown x0 x1 s
  | .broadcastAcknowledge x0 => Sys2Proof.Machine.execBroadcastAcknowledge x0 s
  | .debugContinue x0 x1 => Sys2Proof.Machine.execDebugContinue x0 x1 s
  | .grantResend => Sys2Proof.Machine.execGrantResend s
  | .pageWalk x0 x1 x2 x3 x4 => Sys2Proof.Machine.execPageWalk x0 x1 x2 x3 x4 s
  | .releaseComplete x0 => Sys2Proof.Machine.execReleaseComplete x0 s
  | .writeBack x0 x1 => Sys2Proof.Machine.execWriteBack x0 x1 s
  | .replicaRead x0 x1 => Sys2Proof.Machine.execReplicaRead x0 x1 s
  | .qtailWrite x0 => Sys2Proof.Machine.execQtailWrite x0 s
  | .qbaseWrite x0 => Sys2Proof.Machine.execQbaseWrite x0 s
  | .qsizeWrite x0 => Sys2Proof.Machine.execQsizeWrite x0 s
  | .nbaseWrite x0 => Sys2Proof.Machine.execNbaseWrite x0 s
  | .nsizeNheadWrite x0 => Sys2Proof.Machine.execNsizeNheadWrite x0 s
  | .facceptWrite x0 => Sys2Proof.Machine.execFacceptWrite x0 s
  | .registerWrite x0 x1 => Sys2Proof.Machine.execRegisterWrite x0 x1 s
  | .errorCountClear x0 x1 => Sys2Proof.Machine.execErrorCountClear x0 x1 s
  | .reportRequest x0 => Sys2Proof.Machine.execReportRequest x0 s
  | .flitReceive x0 x1 => Sys2Proof.Machine.execFlitReceive x0 x1 s
  | .coldStart x0 => Sys2Proof.Machine.execColdStart x0 s
  | .warmStart x0 => Sys2Proof.Machine.execWarmStart x0 s
  | .heartbeat x0 => Sys2Proof.Machine.execHeartbeat x0 s
  | .heartbeatMiss x0 x1 => Sys2Proof.Machine.execHeartbeatMiss x0 x1 s
  | .combErrorRetirement x0 x1 => Sys2Proof.Machine.execCombErrorRetirement x0 x1 s
  | .retireRequest x0 x1 => Sys2Proof.Machine.execRetireRequest x0 x1 s
  | .clockStretch x0 x1 x2 => Sys2Proof.Machine.execClockStretch x0 x1 x2 s
  | .thermalTrip x0 x1 => Sys2Proof.Machine.execThermalTrip x0 x1 s
  | .securityAlarm x0 x1 x2 => Sys2Proof.Machine.execSecurityAlarm x0 x1 x2 s
  | .fabricPortDown x0 => Sys2Proof.Machine.execFabricPortDown x0 s
  | .retirement => Sys2Proof.Machine.execRetirement s
  | .ctxnew => Sys2Proof.Machine.execCtxnew s
  | .grid => Sys2Proof.Machine.execGrid s
  | .ctxend => Sys2Proof.Machine.execCtxend s
  | .tree => Sys2Proof.Machine.execTree s
  | .reportComplete => Sys2Proof.Machine.execReportComplete s
  | .powerLoss => Sys2Proof.Machine.execPowerLoss s

end Sys2Proof.Machine
end

