-- ==== Sys2Proof/Machine/Wake.lean ====
section
/-! DEFINITION. The instruction of an agent: fetched, decoded and given its meaning; whether one that waits can carry on, and
whether one that stalls on a full class still does (R68, R81, R86, R335).
Model's choices in this file: log entry 1. -/

namespace Sys2Proof.Machine

/-- An agent's next instruction: fetched, decoded and given its meaning, or trapped (R68, R81). -/
def stepAgent (s : State) (a : Agent) : Host.Outcome State Fault Refusal :=
  match s.thread a with
  | none => .next { s with cur := none }
  | some th =>
    if th.stopped then .next { s with cur := none }
    else match s.fetch a th with
      | .error f => .next (({ s with cur := none }.countFetch (agentKey a) (s.agentCtx a) th.pc.toNat f.cause).trapAgent a th f)
      | .ok (s', w) =>
        match decode (leBytes 12 w.toNat) with
        | .error _ => .next ({ s' with cur := none }.illop a th w)
        | .ok (i, _) => exec i s'

/-- What an agent's instruction would leave of its thread, were it to act now. -/
def State.trial (s : State) (a : Agent) : Option Thread :=
  match stepAgent { s with cur := some a } a with
  | .next t => t.thread a
  | _ => none

/-- Whether an agent waits for something that has come: its instruction would go on (R86, R465). -/
def State.carriesOn (s : State) (a : Agent) (th : Thread) : Bool :=
  !th.stopped && decide (th.wait ≠ .none) && match s.trial a with
    | some t => decide (t.uid ≠ th.uid) || t.stopped || decide (t.wait ≠ th.wait)
    | none => true

/-- Whether an agent's next instruction would increment a class that holds 63 operations (R335). -/
def State.stalls (s : State) (a : Agent) (th : Thread) : Bool :=
  match s.trial a with
  | some t => decide (t.uid = th.uid) && t.full
  | none => false

/-- Whether some class of a thread holds 63 operations (R387). -/
def Comb.anyFull (c : Comb) (uid : Nat) : Bool := (List.range 4).any fun k => decide (63 ≤ c.outstanding uid k)

/-- A thread between two runs, looked at again: whether it stalls, and from when it is ready when it no longer does (R335). -/
def State.lookAt (s : State) (a : Agent) : State :=
  match s.thread a with
  | none => s
  | some th =>
    if th.stopped || decide (0 < th.runLen) || decide (th.wait ≠ .none) || !(th.full || (s.comb (agentKey a)).anyFull th.uid) then s
    else
      let still := (s.comb (agentKey a)).anyFull th.uid && (s.nextWord a th).isSome && s.stalls a th
      if still = th.full then s
      else s.setThread a { th with full := still, readyAt := if still then th.readyAt else Nat.max th.readyAt ((s.comb (agentKey a)).clk + 1) }

/-- The agents of a comb. -/
def Comb.agents (ck : Nat) (c : Comb) : List Agent :=
  c.groups.map (fun g => slotAgent ck g.1) ++ c.seqs.map (fun q => Agent.stream (keyDie ck) (keyComb ck) q.1) ++ [.steward (keyDie ck) (keyComb ck)]

/-- Every thread of the package looked at (R335). -/
def State.look (s : State) : State := (s.combs.flatMap fun c => c.2.agents c.1).foldl State.lookAt s

/-- What a step leaves, with every thread looked at. -/
def looked : Host.Outcome State Fault Refusal → Host.Outcome State Fault Refusal
  | .next s => .next s.look
  | o => o

end Sys2Proof.Machine
end

