-- ==== Sys2Proof/Machine/Schedule.lean ====
section
/-! DEFINITION. Which step comes next when the state's agenda names none: the model's own choice among the many the spec
leaves open (R464; DESIGN CHOICE, log entry 1). An instruction whose wait is over carries on first; then the first event that
changes anything acts; then what has the earliest clk: an instruction to issue, a result that lands, a task or a team to start.
In one clk results and BANKCFG come first and FPOP and REFILL behind the other instructions (R353, R366), then the OWAITs that
match at its end (R391), and last the starts (R241). -/

namespace Sys2Proof.Machine

/-- The first thing a list of candidates gives. -/
def firstOf {α β : Type} (f : α → Option β) : List α → Option β
  | [] => none
  | x :: xs => match f x with
    | some y => some y
    | none => firstOf f xs

/-- Places of a list. -/
def places {α : Type} (l : List α) : List Nat := List.range l.length

/-- Whether an event does anything now. -/
def State.changes (s : State) (e : Instr) : Bool :=
  match exec e s with
  | .next s' => decide (s' ≠ s)
  | _ => true

/-- The event a message waits for. -/
def msgEvent (i : Nat) (m : Msg) : Instr :=
  match m.stage with
  | .outbound => .firstRouterCheck i
  | .mesh _ => .messageDelivery i
  | .arrived die comb =>
    match m.body with
    | .task _ none _ => .taskArrival die comb
    | .task _ (some _) _ => .messageConsumption die comb
    | .dep _ _ _ _ _ => .dependencyOpArrival die comb
    | .push _ _ _ => .pushDelivery die comb
    | .packet _ _ => .packetDelivery die comb
    | .record _ => .eventRecordArrival die comb
    | .advance _ _ => .boundAdvance die comb

/-- What an operation of a comb may wait for. -/
def opEvents (die comb clk i : Nat) (o : AsyncOp) : List Instr :=
  (match o.kind with
    | .copy c =>
      [Instr.copyResume die comb i, Instr.replicaUpdate die comb i] ++
        (match (List.range c.sectors).find? fun k => !c.done.contains k with
          | some k => [Instr.copySectorWrite die comb i k]
          | none => [])
    | _ => []) ++ (if o.due ≤ clk then [Instr.operationCompletion die comb i] else [])

/-- What a comb may wait for, but for the driver's word to its debugger. -/
def combEvents (ck : Nat) (c : Comb) : List Instr :=
  let d := keyDie ck
  let k := keyComb ck
  ((places c.ops).zip c.ops).flatMap (fun x => opEvents d k c.clk x.1 x.2) ++
  [.passCompletion d k, .passGrant d k] ++ (c.passes.map fun p => Instr.passResume d k p.seq) ++
  [.parkedEntry d k] ++ ((List.range 16).filter fun b => !(c.bank b).spilled.isEmpty).map (fun b => Instr.spillReload d k b) ++
  (c.teams.map fun t => Instr.teamRetirement d k t.1) ++
  [.trapRecordDispatch d k, .contextTeardown d k, .handlerTimeLimit d k]

/-- What acts next: an agent whose wait is over, an event that is due now, or one at a clk of a comb. -/
inductive Turn where
  | carryOn (a : Agent)
  | event (e : Instr)
  | timed (ck clk : Nat) (e : Instr)
  deriving DecidableEq, Repr

/-- Something that can act at a clk, with its rank among those of one clk. -/
structure Due where
  clk : Nat
  rank : Nat
  turn : Turn
  deriving DecidableEq, Repr

/-- An event at a clk of a comb. -/
def dueEvent (ck clk rank : Nat) (e : Instr) : Due := ⟨clk, rank, .timed ck clk e⟩

/-- What a die may wait for. -/
def dieEvents (d : Nat) (x : Die) : List Instr :=
  [.batchApply d, .batchAcknowledgement d, .pendingTimeMerge d, .csubRequestArrival d, .primitiveBinning d] ++
  x.trees.flatMap (fun t => [Instr.reductionPartial d t.1, Instr.reductionResult d t.1]) ++
  ((places x.rings).zip x.rings).flatMap (fun r => (r.2.present.map fun n => Instr.ringForwardComplete d r.1 n) ++ [Instr.ringTransfer d r.1]) ++
  [.ringGrant d]

/-- The claims of unclaimed teams of a grid: each die's combs in increasing logical index (R393). -/
def claimEvents (s : State) (g : Grid) : List Instr :=
  if g.ring.any fun d => (s.die d).forage.any fun f => decide (f.2.grid = g.num) && decide (f.2.next < f.2.limit) then
    g.ring.flatMap fun d => (List.range (s.die d).combs).map fun l => Instr.forageClaim d (keyComb (s.lkey d l)) g.num
  else []

/-- Everything the package may wait for. -/
def State.pendingEvents (s : State) : List Instr :=
  (places s.stores).map (fun i => Instr.storeAtHomeSlice i) ++ (places s.fills).map (fun i => Instr.mergingFill i) ++
  (places s.acks).map (fun i => Instr.remoteWriteAck i) ++ [.retirement] ++
  s.bcasts.flatMap (fun b => b.dies.map fun d => if b.body.isTlbinv then Instr.tlbinvAcknowledge d else Instr.broadcastAcknowledge d) ++
  ((places s.msgs).zip s.msgs).map (fun m => msgEvent m.1 m.2) ++ (places s.commits).map (fun i => Instr.commitPerform i) ++
  s.dies.flatMap (fun d => dieEvents d.1 d.2) ++ s.combs.flatMap (fun c => combEvents c.1 c.2) ++
  [.grantResend, .ctxnew, .grid, .ctxend, .tree, .reportComplete]

/-- What comes about on a comb at a clk of its own that has not come yet: results that land (R135, R286), and the time limit of
a handler (R184). -/
def landings (ck : Nat) (c : Comb) : List Due :=
  (((places c.ops).zip c.ops).filter fun x => decide (c.clk < x.2.due) && c.isOldest x.2).map (fun x =>
    dueEvent ck x.2.due 0 (.operationCompletion (keyDie ck) (keyComb ck) x.1)) ++
  (match c.steward.handler with
    | some h => if c.clk - h.began ≤ handlerLimit then [dueEvent ck (h.began + handlerLimit + 1) 0 (.handlerTimeLimit (keyDie ck) (keyComb ck))] else []
    | none => [])

/-- The rank of an agent's next instruction in its clk (R366). -/
def State.wordRank (s : State) (a : Agent) (th : Thread) : Nat :=
  match (s.nextWord a th).map fun w => w.toNat % 1024 with
  | some 0x0A5 => 0
  | some 0x182 => 2
  | some 0x192 => 2
  | _ => 1

/-- The start of a comb's next task, with its clk (R331, R334). -/
def taskStart (s : State) (ck : Nat) (c : Comb) : List Due :=
  match s.nextTask ck with
  | some e => if s.taskFirst ck then [dueEvent ck (c.dequeueClk e.1) 4 (.taskDequeue (keyDie ck) (keyComb ck))] else []
  | none => []

/-- Whether an agent waits in an OWAIT, which looks at its counter as a clk ends (R391). -/
def Thread.owaits (th : Thread) : Bool := th.waiting.any fun w => w.toNat % 1024 = 0x1CA

/-- The threads of a comb that may take an issue slot or fetch, and the next task. -/
def issueEvents (s : State) (ck : Nat) (c : Comb) : List Due :=
  let d := keyDie ck
  let k := keyComb ck
  let groups := [0, 1, 2, 3].filterMap fun core => (s.arbitrate ck core).bind fun slot =>
    (Sparse.find? c.groups slot).map fun th => dueEvent ck (s.groupClk ck (slot, th)) (s.wordRank (slotAgent ck slot) th) (.issueArbitration d k core)
  let fetches := (c.groups.filter fun g => s.issuable ck g.2 && g.2.ready && (s.nextWord (slotAgent ck g.1) g.2).isNone).map fun g =>
    dueEvent ck (s.groupClk ck g) 1 (.instructionFetch (slotAgent ck g.1))
  let own (a : Agent) (th : Thread) : List Due :=
    if th.stopped || !th.ready then [] else [dueEvent ck (c.startClk a th) (s.wordRank a th) (.instructionFetch a)]
  let streams := (c.seqs.filter fun q => !q.2.ended && s.issuable ck q.2.th).flatMap fun q => own (.stream d k q.1) q.2.th
  let owaits := (c.groups.filter fun g => s.issuable ck g.2 && g.2.owaits && s.carriesOn (slotAgent ck g.1) g.2).map fun g =>
    (⟨c.clk, 3, .carryOn (slotAgent ck g.1)⟩ : Due)
  landings ck c ++ fetches ++ groups ++ streams ++ own (.steward d k) c.steward.th ++ owaits ++ taskStart s ck c

/-- The claims of teams that would start some, each at its comb's clk; those of a counter's own die come before those of other
dies (R393). -/
def State.claims (s : State) : List Due :=
  (s.grids.flatMap fun g => claimEvents s g).filterMap fun e => match e with
    | .forageClaim d k g =>
      let own := (s.die d).forage.any fun f => decide (f.2.grid = g) && decide (f.2.next < f.2.limit)
      if s.changes e then some (dueEvent (combKey d k) (s.comb (combKey d k)).clk (if own then 4 else 5) e) else none
    | _ => none

/-- The first of the lowest rank of the earliest clk. -/
def earliest (l : List Due) : Option Turn :=
  (l.foldl (fun (b : Option Due) x => match b with
    | some y => if x.clk < y.clk ∨ (x.clk = y.clk ∧ x.rank < y.rank) then some x else some y
    | none => some x) none).map (·.turn)

/-- The agents of a comb whose wait is over, but for those that look as a clk ends. -/
def carriers (s : State) (ck : Nat) (c : Comb) : List Turn :=
  ((c.agents ck).filter fun a => match s.thread a with
    | some th => s.issuable ck th && !th.owaits && s.carriesOn a th
    | none => false).map .carryOn

/-- What acts next, if anything does. -/
def State.nextTurn (s : State) : Option Turn :=
  match firstOf (fun c => (carriers s c.1 c.2).head?) s.combs with
  | some x => some x
  | none =>
    match firstOf (fun e => if s.changes e then some e else none) s.pendingEvents with
    | some e => some (.event e)
    | none => earliest ((s.combs.flatMap fun c => issueEvents s c.1 c.2) ++ s.claims)

end Sys2Proof.Machine
end

