-- ==== Sys2Proof/Machine/Step.lean ====
section
/-! DEFINITION. The step of the machine: the event at the head of the agenda; without one, the next instruction of the
current agent; without one, what acts next. And the load of a program (log entries 1 and 6). -/

namespace Sys2Proof.Machine

/-- Whether the package runs: it has power and is in STATE 3 (R447). -/
def State.running (s : State) : Bool := s.hive.power && decide (s.hive.state = 3)

/-- A start, which acts in any state (R454). -/
def isStart : Instr → Bool
  | .coldStart _ => true
  | .warmStart _ => true
  | _ => false

/-- What acts while the package is not in STATE 3 but has power: the host's registers, the hive controller's own events. -/
def actsHalted : Instr → Bool
  | .qtailWrite _ => true
  | .qbaseWrite _ => true
  | .qsizeWrite _ => true
  | .nbaseWrite _ => true
  | .nsizeNheadWrite _ => true
  | .facceptWrite _ => true
  | .registerWrite _ _ => true
  | .errorCountClear _ _ => true
  | .flitReceive _ _ => true
  | .reportRequest _ => true
  | .heartbeat _ => true
  | .heartbeatMiss _ _ => true
  | .clockStretch _ _ _ => true
  | .thermalTrip _ _ => true
  | .securityAlarm _ _ _ => true
  | .fabricPortDown _ => true
  | .powerLoss => true
  | _ => false

/-- Whether an event acts in a state; any other passes without effect. -/
def State.acts (s : State) (e : Instr) : Bool :=
  s.running || isStart e || (s.hive.power && actsHalted e)

/-- What acts next, acting. -/
def State.turn (s : State) : Turn → Host.Outcome State Fault Refusal
  | .carryOn a => stepAgent { s with cur := some a } a
  | .event e => exec e s
  | .timed ck t e => exec e (s.tick ck t)

/-- One step. -/
def step (s : State) : Host.Outcome State Fault Refusal :=
  match s.agenda with
  | e :: rest => if s.acts e then looked (exec e { s with agenda := rest }) else .next { s with agenda := rest }
  | [] =>
    if s.running then
      match s.cur with
      | some a => looked (stepAgent s a)
      | none =>
        match s.nextTurn with
        | some x => looked (s.turn x)
        | none => .next s
    else if s.hive.power then .fault .halted
    else .fault .unpowered

/-- Bytes put into memory as a loader puts them: no line of the L2 holds what was there. -/
def State.poke (s : State) : List Nat → List Byte → State
  | loc :: locs, b :: bs =>
    ({ (s.setRaw loc b) with l2 := Sparse.erase s.l2 (loc / 128), badWords := Sparse.erase s.badWords (loc / 4) } : State).poke locs bs
  | _, _ => s

/-- A page-table entry put into memory. -/
def State.pokeEntry (s : State) (at' e : Nat) : State := s.poke ((List.range 8).map (at' + ·)) (leBytes 8 e)

/-- Where a loader places things on die 0: four levels of page tables, one page, and the program in it. -/
def loadRoot : Nat := 0x10000
def loadFrame : Nat := 0x40000
def loadPc : Nat := 0x1000

/-- Four levels of page tables that map virtual page 0 to the frame, for reading, writing and fetching. -/
def State.loadTables (s : State) : State :=
  (((s.pokeEntry loadRoot (0x20000 + 1)).pokeEntry 0x20000 (0x30000 + 1)).pokeEntry 0x30000 (0x31000 + 1)).pokeEntry 0x31000 (loadFrame + 0xF)

/-- The context a loader creates. -/
def loadCtx : CtxRec :=
  { ptroot := loadRoot, dtbase := 0, dtcount := 0, iset := [0], rset := 0, dbg := false, handler := 0, arg := 0, causes := 0, spillCap := 2 ^ 20, ending := none, endRecs := [] }

/-- Its team of one group, on granule 64 (bank 4). -/
def loadTeam : Team :=
  { ctx := 1, grid := none, index := 0, isTask := false, groups := 1, live := 1, granules := [64], barriers := List.replicate 16 ⟨0, 0, 0⟩, pools := [], tiles := [], seq := none, param := 0, prio := 0 }

/-- Its group, about to fetch at `loadPc`, with the largest budget. -/
def loadThread : Thread :=
  { Thread.reset with pc := BitVec.ofNat 64 loadPc, budget := 128, place := { Place.none with ctx := some 1, team := 1 }, uid := 1 }

/-- The state with an instruction where the next step fetches. With a current agent whose PC is mapped, its bytes go
there; otherwise a program is loaded as the driver and a launch would place one: a context with page tables, a team of
one group on comb 0 of die 0, and the bytes at its PC (log entry 6). -/
def State.withFetchWord (s : State) (nbits w : Nat) : State :=
  let bytes := leBytes 12 (w % 2 ^ nbits)
  let fresh (s : State) : State :=
    let s := { s with agenda := [], cur := some (.group 0 0 0), ctxs := Sparse.put s.ctxs 1 loadCtx, nextUid := Nat.max s.nextUid 2 }
    let s := s.modComb 0 fun c => { c with groups := Sparse.put c.groups 0 loadThread, teams := Sparse.put c.teams 1 loadTeam, alloc := Sparse.put c.alloc 64 2, itlb := [], icache := [] }
    let s := s.modDie 0 fun d => { d with dtlb := [] }
    s.loadTables.poke ((List.range 12).map (loadFrame + loadPc + ·)) bytes
  match s.cur with
  | none => fresh s
  | some a =>
    match s.thread a with
    | none => fresh s
    | some th =>
      match s.fetchLocs (agentKey a) (s.agentCtx a) th.pc.toNat with
      | .error _ => fresh s
      | .ok locs =>
        let s := { s with agenda := [] }
        let s := (s.modComb (agentKey a) fun c => { c with icache := c.icache.filter fun x => !(locs.any fun l => l / 128 = x.line) }).poke locs bytes
        s.setThread a { th with lbuf := [], stopped := false, wait := .none, full := false, held := none }

end Sys2Proof.Machine
end

