-- ==== Sys2Proof/Safety.lean ====
section
/-! DEFINITION. The terms in which claims are stated: a safe run, an instruction that is ready to act, and how an
instruction completes, waits or traps. -/

namespace Sys2Proof

/-- A machine that has gone `k` steps without a fault or a refusal. -/
def SafeFor (k : Nat) (s : Machine.State) : Prop := ∃ t, core.run k s = .next t

namespace Machine

/-- What an instruction of a rule sees at its issue by an agent's thread. -/
abbrev State.env (s : State) (a : Agent) (th : Thread) (r : Rule) : Env := (s.issueOf a th r).env

/-- The machine after an instruction whose effect is `o`. -/
abbrev State.after (s : State) (a : Agent) (th : Thread) (r : Rule) (o : Out) : State := (s.issueOf a th r).done r o

/-- An agent that is about to act on an instruction: it is the current one and not stopped, and no check of R76 to R91 (the
faults of R81, the guard, the scoreboard, errors in the sources, a full class) keeps the instruction from its effect. -/
structure Ready (s : State) (a : Agent) (th : Thread) (r : Rule) : Prop where
  cur : s.cur = some a
  thread : s.thread a = some th
  running : th.stopped = false
  clear : (s.issueOf a th r).halt r = none

/-- Whenever an agent is ready for the instruction and `P` holds of what it sees, the instruction completes: the machine
answers the state after an effect without a trap of which `Q` holds. -/
def Completes (i : Instr) (r : Rule) (P : Env → Prop) (Q : Env → Out → Prop) : Prop :=
  ∀ (s : State) (a : Agent) (th : Thread), Ready s a th r → P (s.env a th r) →
    ∃ o : Out, exec i s = .next (s.after a th r o) ∧ o.trap = none ∧ Q (s.env a th r) o

/-- Whenever an agent is ready for the instruction and `P` holds, the instruction does nothing but write registers. -/
def Writes (i : Instr) (r : Rule) (P : Env → Prop) (ws : Env → List RegWrite) : Prop :=
  ∀ (s : State) (a : Agent) (th : Thread), Ready s a th r → P (s.env a th r) →
    exec i s = .next (s.after a th r ⟨s, (s.env a th r).th, ws (s.env a th r), 0, none, .seq⟩)

/-- Whenever an agent is ready for the instruction and `P` holds, the instruction traps with this cause (R8). -/
def Traps (i : Instr) (r : Rule) (P : Env → Prop) (f : Env → TrapInfo) : Prop :=
  ∀ (s : State) (a : Agent) (th : Thread), Ready s a th r → P (s.env a th r) →
    exec i s = .next ((s.issueOf a th r).trap (f (s.env a th r)))

/-- Whenever an agent is ready for the instruction and `P` holds, the instruction leaves a machine and a thread that waits
and carries on once what it waits for has come (R86). -/
def Blocks (i : Instr) (r : Rule) (P : Env → Prop) (Q : Env → State → Thread → Prop) : Prop :=
  ∀ (s : State) (a : Agent) (th : Thread), Ready s a th r → P (s.env a th r) →
    ∃ (s' : State) (th' : Thread), exec i s = .next (s'.endWait a th' (s.env a th r).t) ∧ Q (s.env a th r) s' th'

/-- No condition. -/
def always (_ : Env) : Prop := True

end Machine
end Sys2Proof
end

