-- ==== Sys2Proof/Certificates/Slice0/Obligations.lean ====
section
/-! DEFINITION. The statements for the provers, and the claims they are made of: what every instruction and event does
when it completes, where it traps and waits, the frames, the encodings and the invariants. -/

open Sys2Proof Sys2Proof.Machine

/-- IADD to IABS (R117): D gets, element by element of the type, the exact result reduced modulo 2^w, or saturated with S
(R115); nothing else is written. -/
def Sys2Proof.Claim.IntegerArithmeticResults : Prop := ∀ f : RForm,
  let on (g : Int → Int → Int → Int) (e : Env) : List RegWrite :=
    e.results f.typ f.d fun i => elementwise f.typ (f.flags.getLsbD 3) g (e.aN f i) (e.bN f i) (e.cN f i)
  let two (op : Nat) : Rule := dataOpRule op f false false false true
  Writes (.iadd f) (two 0x010) always (on fun a b _ => a + b) ∧
  Writes (.isub f) (two 0x011) always (on fun a b _ => a - b) ∧
  Writes (.imul f) (two 0x012) always (on fun a b _ => a * b) ∧
  Writes (.imulhi f) (two 0x013) always (on fun a b _ => a * b / ((2 ^ f.typ.elems.2.1 : Nat) : Int)) ∧
  Writes (.imad f) (dataOpRule 0x014 f false true false true) always (on fun a b c => a * b + c) ∧
  Writes (.imin f) (two 0x015) always (on fun a b _ => min a b) ∧
  Writes (.imax f) (two 0x016) always (on fun a b _ => max a b) ∧
  Writes (.iabs f) (dataOpRule 0x017 f true false false true) always (on fun a _ _ => (a.natAbs : Int))

/-- IADDC, LEA, IDP4 and IDP2 (R118 to R120). -/
def Sys2Proof.Claim.CarryAddressAndDotResults : Prop := ∀ f : RForm,
  let sum (e : Env) (i : Nat) : Nat := (e.a32 f i).toNat + (e.b32 f i).toNat + (e.c32 f i).toNat
  let dot (e : Env) (i : Nat) : Int :=
    let el (x k : Nat) : Int := toInt f.typ.elems.2.2 f.typ.elems.2.1 (x / 2 ^ (f.typ.elems.2.1 * k))
    (List.range f.typ.elems.1).foldl (fun r k => r + el (e.a32 f i).toNat k * el (e.b32 f i).toNat k)
      (toInt f.typ.elems.2.2 32 (e.c32 f i).toNat)
  let dots (e : Env) : List RegWrite :=
    e.write32 f.d f.typ.elems.2.2 (e.each fun i => BitVec.ofNat 32 (narrow f.typ.elems.2.2 (f.flags.getLsbD 3) 32 (dot e i)))
  Writes (.iaddc f) (ruleIaddc f) always (fun e =>
    e.write32 f.d false (e.each fun i => BitVec.ofNat 32 (sum e i)) ++ e.write32 f.e false (e.each fun i => BitVec.ofNat 32 (sum e i / 2 ^ 32))) ∧
  Writes (.lea f) (ruleLea f) (fun _ => f.a ≠ .sink ∧ f.typ = .u64) (fun e =>
    e.write64 f.d (e.each fun i => e.a64 f i + (e.b32 f i).setWidth 64 <<< (f.flags.toNat % 8))) ∧
  Writes (.lea f) (ruleLea f) (fun _ => f.a ≠ .sink ∧ f.typ = .s64) (fun e =>
    e.write64 f.d (e.each fun i => e.a64 f i + (e.b32 f i).signExtend 64 <<< (f.flags.toNat % 8))) ∧
  Writes (.lea f) (ruleLea f) (fun _ => f.a = .sink ∧ f.imm.isSome ∧ f.typ = .u64) (fun e =>
    e.write64 f.d (e.each fun i => e.th.pc + (e.b32 f i).setWidth 64 <<< (f.flags.toNat % 8))) ∧
  Writes (.idp4 f) (dotOpRule 0x01A f) always dots ∧
  Writes (.idp2 f) (dotOpRule 0x01B f) always dots

/-- What the operations above are on 32-bit words (R38, R115, R117, R121, R123): the operations of bit vectors. -/
def Sys2Proof.Claim.WordOperationsAreBitVectorOperations : Prop := ∀ f : RForm,
  let on (g : Word → Word → Word) (e : Env) : List RegWrite := e.write32 f.d (f.typ = .s32) (e.each fun i => g (e.a32 f i) (e.b32 f i))
  let plain (op : Nat) (g : Word → Word → Word) (i : Instr) : Prop :=
    f.typ = .u32 ∨ f.typ = .s32 → f.flags.getLsbD 3 = false → Writes i (dataOpRule op f false false false true) always (on g)
  plain 0x010 (fun a b => a + b) (.iadd f) ∧
  plain 0x011 (fun a b => a - b) (.isub f) ∧
  plain 0x012 (fun a b => a * b) (.imul f) ∧
  (f.typ = .b32 → Writes (.and f) (dataOpRule 0x020 f false false false true) always (on fun a b => a &&& b)) ∧
  (f.typ = .b32 → Writes (.or f) (dataOpRule 0x021 f false false false true) always (on fun a b => a ||| b)) ∧
  (f.typ = .b32 → Writes (.xor f) (dataOpRule 0x022 f false false false true) always (on fun a b => a ^^^ b)) ∧
  (f.typ = .b32 → Writes (.andn f) (dataOpRule 0x023 f false false false true) always (on fun a b => a &&& ~~~b)) ∧
  (f.typ = .u32 → f.flags.getLsbD 3 = false → Writes (.shl f) (dataOpRule 0x025 f false false true true) always (on fun a b => a <<< b.toNat)) ∧
  (f.typ = .u32 → Writes (.shr f) (dataOpRule 0x026 f false false true true) always (on fun a b => a >>> b.toNat)) ∧
  (f.typ = .s32 → Writes (.sar f) (dataOpRule 0x027 f false false true true) always (on fun a b => a.sshiftRight b.toNat))

/-- Operand B (R75): in the I form it is IMM32 in every lane, the word itself at 32 bits, extended with zeros for U64 and by its sign for
S64; in the R form it is read from its register, in each lane by the pattern of B. -/
def Sys2Proof.Claim.ImmediateOperand : Prop := ∀ (e : Env) (f : RForm) (i : Nat),
  (∀ x, f.imm = some x → e.b32 f i = x ∧ (f.typ = .u64 → e.bN f i = x.toNat) ∧ (f.typ = .s64 → e.bN f i = (x.signExtend 64).toNat) ∧
    (f.typ.wide = false → e.bN f i = x.toNat)) ∧
  (f.imm = none → e.b32 f i = e.read32 f.b (patLane f.bpat i) ∧ (f.typ.wide = true → e.bN f i = (e.read64 f.b (patLane f.bpat i)).toNat))

/-- Major 0x01 and operand B: the value each entry writes (R117 to R120), what its operations are on words (R38, R115), and where operand B comes from (R75). -/
def Obligations.IntegerResults : Prop :=
  Sys2Proof.Claim.IntegerArithmeticResults ∧ Sys2Proof.Claim.CarryAddressAndDotResults ∧ Sys2Proof.Claim.WordOperationsAreBitVectorOperations ∧ Sys2Proof.Claim.ImmediateOperand

/-- Major 0x02 (R121 to R126): bitwise operations, shifts, fields and counts of bits. -/
def Obligations.BitAndShiftResults : Prop := ∀ f : RForm,
  let w := typeWidth f.typ
  let on (g : Nat → Nat → Nat → Nat) (e : Env) : List RegWrite := e.results f.typ f.d fun i => g (e.aN f i) (e.bN f i) (e.cN f i)
  let by32 (g : Nat → Nat → Nat → Nat) (e : Env) : List RegWrite :=
    e.results f.typ f.d fun i => g (e.aN f i) (e.b32 f i).toNat (e.cN f i)
  let count (g : Nat → Nat) (e : Env) : List RegWrite := e.write32 f.d false (e.each fun i => BitVec.ofNat 32 (g (e.aN f i)))
  let bits (op : Nat) : Rule := dataOpRule op f false false false true
  let shift (op : Nat) : Rule := dataOpRule op f false false true true
  let three (op : Nat) : Rule := dataOpRule op f false true true true
  Writes (.and f) (bits 0x020) always (on fun a b _ => a &&& b) ∧
  Writes (.or f) (bits 0x021) always (on fun a b _ => a ||| b) ∧
  Writes (.xor f) (bits 0x022) always (on fun a b _ => a ^^^ b) ∧
  Writes (.andn f) (bits 0x023) always (on fun a b _ => a &&& (2 ^ 64 - 1 - b)) ∧
  Writes (.lop3 f) (dataOpRule 0x024 f false true false true) always (on fun a b c =>
    (List.range w).foldl (fun r j => r + (lutBit f.e.code (a.testBit j) (b.testBit j) (c.testBit j)).toNat * 2 ^ j) 0) ∧
  Writes (.shl f) (shift 0x025) always (by32 fun a n _ =>
    elementwise f.typ (f.flags.getLsbD 3) (fun x _ _ => x * ((2 ^ (Nat.min n 64) : Nat) : Int)) a 0 0) ∧
  Writes (.shr f) (shift 0x026) always (by32 fun a n _ => a >>> Nat.min n 64) ∧
  Writes (.sar f) (shift 0x027) always (by32 fun a n _ =>
    elementwise f.typ false (fun x _ _ => x / ((2 ^ (Nat.min n 64) : Nat) : Int)) a 0 0) ∧
  Writes (.fshl f) (three 0x028) always (by32 fun a b c => (a * 2 ^ 32 + b) * 2 ^ (c % 64) / 2 ^ 32 % 2 ^ 32) ∧
  Writes (.bfe f) (shift 0x029) always (by32 fun a b _ =>
    if (fieldOf w b).2 = 0 then 0 else narrow false false w (toInt f.typ.elems.2.2 (fieldOf w b).2 (a / 2 ^ (fieldOf w b).1))) ∧
  Writes (.bfi f) (three 0x02A) always (by32 fun a b c =>
    c - c / 2 ^ (fieldOf w b).1 % 2 ^ (fieldOf w b).2 * 2 ^ (fieldOf w b).1 + a % 2 ^ (fieldOf w b).2 * 2 ^ (fieldOf w b).1) ∧
  Writes (.popc f) (countOpRule 0x02B f) always (count fun a => ((List.range 64).filter fun j => a.testBit j).length) ∧
  Writes (.clz f) (countOpRule 0x02C f) always (count fun a => if a = 0 then w else w - 1 - Nat.log2 a) ∧
  Writes (.brev f) (dataOpRule 0x02D f true false false true) always (on fun a _ _ =>
    (List.range w).foldl (fun r j => r + (a.testBit (w - 1 - j)).toNat * 2 ^ j) 0)

/-- Major 0x03 (R128 to R132). -/
def Obligations.CompareSelectMoveResults : Prop := ∀ f : RForm,
  let c (e : Env) (i : Nat) : Bool := (e.c32 f i).getLsbD 0
  let val (x : Nat) : Int := toInt f.typ.elems.2.2 f.typ.elems.2.1 x
  let icmp (e : Env) (i : Nat) : Bool :=
    condHolds f.flags.toNat (decide (val (e.aN f i) < val (e.bN f i))) (decide (val (e.aN f i) = val (e.bN f i))) true
  let fcmp (e : Env) (i : Nat) : Bool × Exc := fcompare (fmtOf f.typ) f.flags.toNat (e.a32 f i).toNat (e.b32 f i).toNat
  Writes (.isetp f) (ruleIsetp f) always (fun e =>
    e.write32 f.d false (e.each fun i => bitWord (combine (f.hint.toNat % 4) (icmp e i) (c e i)))) ∧
  Completes (.fsetp f) (ruleFsetp f) (fun e => ∀ i ∈ e.lanes, (fcmp e i).2 &&& trapEnables e.th.mode = 0) (fun e o =>
    o = ⟨e.s, e.th, e.write32 f.d false (e.each fun i => bitWord (combine (f.hint.toNat % 4) (fcmp e i).1 (c e i))),
      excAll (e.each fun i => (fcmp e i).2), none, .seq⟩) ∧
  Writes (.sel f) (ruleSel f) always (fun e => e.results f.typ f.d fun i => if c e i then e.aN f i else e.bN f i) ∧
  Writes (.plop f) (rulePlop f) always (fun e => e.write32 f.d false (e.each fun i =>
    bitWord (lutBit f.e.code ((e.a32 f i).getLsbD 0) ((e.b32 f i).getLsbD 0) (c e i)))) ∧
  Writes (.pmov f) (rulePmov f) (fun _ => f.d.kind = .p ∧ f.imm.isNone ∧ f.b.kind = .v) (fun e =>
    e.write32 f.d false (e.each fun i => bitWord (decide (e.b32 f i ≠ 0)))) ∧
  Writes (.pmov f) (rulePmov f) (fun _ => f.d.kind = .p ∧ (f.imm.isSome ∨ f.b.kind = .s)) (fun e =>
    e.write32 f.d false (e.each fun i => bitWord ((e.b32 f i).getLsbD i))) ∧
  Writes (.pmov f) (rulePmov f) (fun _ => f.d.kind = .q) (fun e => e.write32 f.d false [(0, bitWord (decide (e.b32 f 0 ≠ 0)))]) ∧
  Writes (.pmov f) (rulePmov f) (fun _ => f.d.kind = .s ∧ f.imm.isNone ∧ f.b.kind = .p) (fun e =>
    e.write32 f.d false [(0, laneMask (e.lanes.filter fun i => (e.b32 f i).getLsbD 0))]) ∧
  (∀ (s : State) (a : Agent) (th : Thread), Ready s a th (ruleMov f s) →
    exec (.mov f) s = .next (s.after a th (ruleMov f s)
      ⟨s, (s.env a th (ruleMov f s)).th, (s.env a th (ruleMov f s)).results f.typ f.d fun i => (s.env a th (ruleMov f s)).bN f i, 0, none, .seq⟩))

/-- Major 0x04 (R134 to R140): the value each entry writes; XPERM's stands as an LD operation that lands 12 clk after it takes the
core's port (R135), GREDF's where no flag is enabled. For `.min` and `.max` of a NaN and a number the number wins (the model's
choice, log entry 52). -/
def Obligations.LaneInstructionResults : Prop := ∀ f : RForm,
  let bits (e : Env) : List (Nat × Bool) := e.each fun i => (e.a32 f i).getLsbD 0
  let vote (e : Env) : Word := match f.flags.toNat % 4 with
    | 0 => bitWord ((bits e).any (·.2))
    | 1 => bitWord ((bits e).all (·.2))
    | 2 => laneMask (((bits e).filter (·.2)).map (·.1))
    | _ => bitWord ((bits e).all (·.2) || (bits e).all fun b => !b.2)
  let node (e : Env) (x y : Nat) : Nat × Exc :=
    match f.hint.toNat % 4 with
    | 0 => fmtF32.add (e.fopt f.flags 0) (fmtF32.decode x) (fmtF32.decode y)
    | k => fmtF32.minmax (k = 2) x y
  let tree (e : Env) : List (Option Nat) × Exc :=
    treeReduce (node e) 5 ((List.range 32).map fun i => if e.act.getLsbD i then some (fmtF32.flushIn e.ftz (e.a32 f i).toNat) else none)
  Completes (.xperm f) (ruleXperm f) always (fun e o =>
    ∃ op : AsyncOp, (o.s.comb e.ck).ops = (e.s.comb e.ck).ops ++ [op] ∧ op.cls = 0 ∧ op.ownerUid = e.th.uid ∧ op.due = (e.takePort e.s 2).2 + 12 ∧
      op.kind = .values (e.write32 f.d false (e.each fun i => e.read32 f.a (patLane f.apat ((e.b32 f i).toNat % 32))))) ∧
  Writes (.vote f) (ruleVote f) always (fun e => match f.d with
    | .q _ => e.write32 f.d false [(0, vote e)]
    | .s _ => e.write32 f.d false [(0, vote e)]
    | _ => e.write32 f.d false (e.each fun _ => vote e)) ∧
  Writes (.gredi f) (ruleGredi f) always (fun e => e.combined f.d (reduceWord f (e.lanes.map (e.laneInt f)))) ∧
  Completes (.gredf f) (ruleGredf f) (fun e => trapEnables e.th.mode = 0) (fun e o =>
    o = ⟨e.s, e.th, e.combined f.d (BitVec.ofNat 32 (((tree e).1.headD none).getD 0)), (tree e).2, none, .seq⟩) ∧
  Writes (.gscan f) (ruleGscan f) always (fun e => e.write32 f.d false (e.each fun i =>
    reduceWord f ((e.lanes.filter fun j => decide (j < i) || (!f.hint.getLsbD 0 && decide (j = i))).map (e.laneInt f)))) ∧
  Writes (.matchEq f) (ruleMatchEq f) always (fun e =>
    e.write32 f.d false (e.each fun i => laneMask (e.lanes.filter fun j => e.aN f j = e.aN f i)))

/-- Majors 0x05 and 0x06 (R145 to R152): when no lane raises a flag that MODE enables, every lane in `act` gets its result
and `fstat` all flags. The special functions' values are `Config.sfuFree`'s within their bound (log entry 10). -/
def Obligations.FloatResults : Prop := ∀ f : RForm,
  let lane (g : FOpt → Fmt → Nat → Nat → Nat → Nat × Exc) (e : Env) (i : Nat) : Nat × Exc :=
    fpLane f.typ e.ftz (g (e.fopt f.flags f.sat2.toNat) (fmtOf f.typ)) (e.a32 f i).toNat (e.b32 f i).toNat (e.c32 f i).toNat
  let fp (i : Instr) (r : Rule) (g : FOpt → Fmt → Nat → Nat → Nat → Nat × Exc) : Prop :=
    Completes i r (fun e => ∀ k ∈ e.lanes, (lane g e k).2 &&& trapEnables e.th.mode = 0) fun e o =>
      o = ⟨e.s, e.th, e.write32 f.d false (e.each fun k => BitVec.ofNat 32 (lane g e k).1), excAll (e.each fun k => (lane g e k).2), none, .seq⟩
  fp (.fadd f) (fpOpRule 0x050 f false false true true 6) (fun o fm a b _ => fm.add o (fm.decode a) (fm.decode b)) ∧
  fp (.fsub f) (fpOpRule 0x051 f false false true true 6) (fun o fm a b _ => fm.sub o (fm.decode a) (fm.decode b)) ∧
  fp (.fmul f) (fpOpRule 0x052 f false false true true 6) (fun o fm a b _ => fm.mul o (fm.decode a) (fm.decode b)) ∧
  fp (.ffma f) (fpOpRule 0x053 f false true true true 6) (fun o fm a b c => fm.fma o false false (fm.decode a) (fm.decode b) (fm.decode c)) ∧
  fp (.ffms f) (fpOpRule 0x054 f false true true true 6) (fun o fm a b c => fm.fma o false true (fm.decode a) (fm.decode b) (fm.decode c)) ∧
  fp (.fnfma f) (fpOpRule 0x055 f false true true true 6) (fun o fm a b c => fm.fma o true false (fm.decode a) (fm.decode b) (fm.decode c)) ∧
  fp (.fmin f) (fpOpRule 0x056 f false false false true 6) (fun _ fm a b _ => fm.minmax false a b) ∧
  fp (.fmax f) (fpOpRule 0x057 f false false false true 6) (fun _ fm a b _ => fm.minmax true a b) ∧
  fp (.fabs f) (fpOpRule 0x058 f true false false false 6) (fun _ fm a _ _ => (fm.withSign a false, 0)) ∧
  fp (.fneg f) (fpOpRule 0x059 f true false false false 6) (fun _ fm a _ _ => (fm.withSign a !(fm.isNeg a), 0)) ∧
  fp (.fcpsgn f) (fpOpRule 0x05A f false false false false 6) (fun _ fm a b _ => (fm.withSign a (fm.isNeg b), 0)) ∧
  fp (.frnd f) (fpOpRule 0x05B f true false true true 6) (fun o fm a _ _ => fm.rnd o (fm.decode a)) ∧
  fp (.fclass f) (fpOpRule 0x05C f true false false false 6) (fun _ fm a _ _ => (fm.fclass a, 0)) ∧
  fp (.fdiv f) (fpOpRule 0x05D f false false true true 14) (fun o fm a b _ => fm.div o (fm.decode a) (fm.decode b)) ∧
  fp (.rcp f) (fpOpRule 0x060 f true false false true 14) (fun o _ a _ _ => sfuRcp o a) ∧
  fp (.rsq f) (fpOpRule 0x061 f true false false true 14) (fun o _ a _ _ => sfuRsq o a) ∧
  fp (.sqrt f) (fpOpRule 0x062 f true false true true 14) (fun o fm a _ _ => fm.sqrt o (fm.decode a)) ∧
  fp (.exp2 f) (fpOpRule 0x063 f true false false true 14) (fun o _ a _ _ => sfuExp2 o a) ∧
  fp (.log2 f) (fpOpRule 0x064 f true false false true 14) (fun o _ a _ _ => sfuLog2 o a) ∧
  fp (.sinpi f) (fpOpRule 0x065 f true false false true 14) (fun o _ a _ _ => sfuSinPi o a) ∧
  fp (.cospi f) (fpOpRule 0x066 f true false false true 14) (fun o _ a _ _ => sfuCosPi o a) ∧
  fp (.tanh f) (fpOpRule 0x067 f true false false true 14) (fun o _ a _ _ => sfuTanh o a)

/-- Major 0x07 (R153 to R158), likewise. -/
def Obligations.ConversionResults : Prop := ∀ f : RForm,
  let fp (i : Instr) (r : Rule) (lane : Env → Nat → Nat × Exc) (w64 : Bool) : Prop :=
    Completes i r (fun e => ∀ k ∈ e.lanes, (lane e k).2 &&& trapEnables e.th.mode = 0) fun e o =>
      o = ⟨e.s, e.th, if w64 then e.write64 f.d (e.each fun k => BitVec.ofNat 64 (lane e k).1) else e.write32 f.d false (e.each fun k => BitVec.ofNat 32 (lane e k).1),
        excAll (e.each fun k => (lane e k).2), none, .seq⟩
  let from' : Ty := (Ty.ofCode f.e.code).getD .f32
  let narrowed (e : Env) (x : Word) : Nat × Exc :=
    fmtF32.conv (fmtOf f.typ) (e.fopt f.flags f.sat2.toNat) (fmtF32.decode (fmtF32.flushIn e.ftz x.toNat))
  let widened (e : Env) (i : Nat) : Nat × Exc :=
    (fmtOf f.typ).conv fmtF32 ⟨.rne, e.ftz, false, f.sat2.toNat⟩
      ((fmtOf f.typ).decode ((fmtOf f.typ).flushIn e.ftz ((e.a32 f i).toNat / 2 ^ ((fmtOf f.typ).width * f.hint.toNat))))
  let nibble (e : Env) (i : Nat) : Nat := if f.imm.isSome then (e.c32 f i).toNat / 256 % 8 else f.hint.toNat
  fp (.cvt f) (ruleCvt f) (fun e i => cvt (e.fopt f.flags f.sat2.toNat) f.typ from' (if from'.wide then (e.a64 f i).toNat else (e.a32 f i).toNat)) f.typ.wide ∧
  (fpCount f.typ = 2 → fp (.pack2 f) (rulePack2 f) (fun e i =>
    ((narrowed e (e.a32 f i)).1 + 2 ^ 16 * (narrowed e (e.b32 f i)).1, (narrowed e (e.a32 f i)).2 ||| (narrowed e (e.b32 f i)).2)) false) ∧
  (fpCount f.typ ≠ 2 → fp (.pack2 f) (rulePack2 f) (fun e i =>
    let c := (e.c32 f i).toNat
    let at' := 2 ^ (16 * (f.hint.toNat % 2))
    (c - c / at' % 2 ^ 16 * at' + ((narrowed e (e.a32 f i)).1 + 2 ^ 8 * (narrowed e (e.b32 f i)).1) * at',
      (narrowed e (e.a32 f i)).2 ||| (narrowed e (e.b32 f i)).2)) false) ∧
  fp (.unpk2 f) (ruleUnpk2 f) widened false ∧
  Completes (.cvtmx f) (ruleCvtmx f) (fun e => trapEnables e.th.mode = 0) (fun e o =>
    let v (i : Nat) : FV := fmtF32.decode (fmtF32.flushIn e.ftz (e.a32 f i).toNat)
    let x := mxScale f.typ (e.lanes.map v)
    let el (i : Nat) : Nat × Exc := mxElem f.typ (e.rmode (f.flags.toNat % 8)) x (v i)
    o = ⟨e.s, e.th, e.write32 f.d false (e.each fun i => BitVec.ofNat 32 (el i).1) ++ e.write32 f.e false [(0, BitVec.ofNat 32 x)],
      excAll (e.each fun i => (el i).2), none, .seq⟩) ∧
  fp (.cvtqn f) (ruleCvtqn f) (fun e i => qnEncode e.ftz (e.a32 f i).toNat (e.b32 f i).toNat ((e.c32 f i).toNat % 256)) false ∧
  fp (.qndec f) (ruleQndec f) (fun e i =>
    qnDecode (e.fopt f.flags f.sat2.toNat) (fmtOf f.typ) ((e.a32 f i).toNat / 16 ^ nibble e i) (e.b32 f i).toNat ((e.c32 f i).toNat % 256)) false

/-- Multiply-add of 0 and an infinity (R59): NV is raised always; a NaN addend comes back quiet with its sign and its payload, and any
other addend gives the canonical NaN. Stated of F32, F16 and BF16 without SAT2. -/
def Sys2Proof.Claim.ZeroTimesInfinity : Prop := ∀ (fm : Fmt) (o : FOpt) (np nc : Bool) (a b c : FV), fm = fmtF32 ∨ fm = fmtF16 ∨ fm = fmtBF16 → o.sat2 = 0 →
  (∃ n e m, (a = .num n 0 e ∧ b = .inf m) ∨ (a = .inf m ∧ b = .num n 0 e)) →
  (fm.fma o np nc a b c).2 &&& excNV = excNV ∧
  (∀ neg sig m, c = .nan neg sig m → (fm.fma o np nc a b c).1 = fm.quiet neg m) ∧
  (c.isNan = false → (fm.fma o np nc a b c).1 = fm.canonNan)

/-- A lane whose instruction raises an enabled flag (R9): the lanes that raise it keep their destination, the others are
written, all flags reach `fstat`, and FPEXC follows with TMASK the faulting lanes. Stated of FADD, FMUL and FFMA. -/
def Sys2Proof.Claim.EnabledFlagTraps : Prop := ∀ f : RForm,
  let lane (g : FOpt → Fmt → Nat → Nat → Nat → Nat × Exc) (e : Env) (i : Nat) : Nat × Exc :=
    fpLane f.typ e.ftz (g (e.fopt f.flags f.sat2.toNat) (fmtOf f.typ)) (e.a32 f i).toNat (e.b32 f i).toNat (e.c32 f i).toNat
  let tr (i : Instr) (r : Rule) (g : FOpt → Fmt → Nat → Nat → Nat → Nat × Exc) : Prop :=
    ∀ (s : State) (a : Agent) (th : Thread), Ready s a th r → r.vec = true →
      (∃ k ∈ (s.env a th r).lanes, (lane g (s.env a th r) k).2 &&& trapEnables (s.env a th r).th.mode ≠ 0) →
      ∃ o : Out, exec i s = .next (s.after a th r o) ∧ o.s = s ∧
        o.exc = excAll ((s.env a th r).each fun k => (lane g (s.env a th r) k).2) ∧
        (∃ t : TrapInfo, o.trap = some t ∧ t.cause = codeFPEXC ∧ t.tval = f.d.code ∧
          t.mask = laneMask ((s.env a th r).lanes.filter fun k => decide ((lane g (s.env a th r) k).2 &&& trapEnables (s.env a th r).th.mode ≠ 0))) ∧
        o.writes = (s.env a th r).write32 f.d false
          (((s.env a th r).lanes.filter fun k => decide ((lane g (s.env a th r) k).2 &&& trapEnables (s.env a th r).th.mode = 0)).map
            fun k => (k, BitVec.ofNat 32 (lane g (s.env a th r) k).1))
  tr (.fadd f) (fpOpRule 0x050 f false false true true 6) (fun o fm a b _ => fm.add o (fm.decode a) (fm.decode b)) ∧
  tr (.fmul f) (fpOpRule 0x052 f false false true true 6) (fun o fm a b _ => fm.mul o (fm.decode a) (fm.decode b)) ∧
  tr (.ffma f) (fpOpRule 0x053 f false true true true 6) (fun o fm a b c => fm.fma o false false (fm.decode a) (fm.decode b) (fm.decode c))

/-- The corners of multiply-add (R59) and the trap after an enabled flag (R9). That TMASK is the whole of `em` for a uniform instruction is the model's choice (log entry 16). -/
def Obligations.FloatCornersAndTraps : Prop :=
  Sys2Proof.Claim.ZeroTimesInfinity ∧ Sys2Proof.Claim.EnabledFlagTraps

/-- NOP, YIELD, TRAP, BRK, RDSR and WRSR (R176 to R178). TRAP's and BRK's effect is their trap. -/
def Sys2Proof.Claim.SystemInstructions : Prop := ∀ f : SForm,
  let w64 : Bool := f.sub.getLsbD 0
  let imm : Bool := f.sub.getLsbD 1
  Writes (.nop f) (ruleNop f) always (fun _ => []) ∧
  Writes (.yield f) (ruleYield f) always (fun _ => []) ∧
  Traps (.trap f) (ruleTrap f) always (fun e => ⟨codeTRAPI, e.th.em, f.imm.toNat, 0⟩) ∧
  Traps (.brk f) (ruleBrk f) always (fun e => ⟨codeBRK, e.th.em, f.imm.toNat, 0⟩) ∧
  (∀ x, f.a = .special x → Writes (.rdsr f) (ruleRdsr f) (fun e => !e.ag.isSteward ∨ stewardReads x) (fun e =>
    if w64 then e.write64 f.d [(0, e.special 0 x)] else e.write32 f.d false [(0, (e.special 0 x).setWidth 32)])) ∧
  (∀ x, f.a = .special x → Writes (.rdsr f) (ruleRdsr f) (fun e => e.ag.isSteward ∧ stewardReads x = false) (fun e =>
    if w64 then e.write64 f.d [(0, 0)] else e.write32 f.d false [(0, 0)])) ∧
  (∀ (x : Special) (s : State) (a : Agent) (th : Thread), f.d = .special x → Ready s a th (ruleWrsr f s) →
    let e := s.env a th (ruleWrsr f s)
    let v : DWord := if imm then f.imm.setWidth 64 else if w64 then e.read64 f.a 0 else (e.read32 f.a 0).setWidth 64
    exec (.wrsr f) s = .next (s.after a th (ruleWrsr f s) ⟨s, e.th.writeSpecial x w64 v, [], 0, none, .seq⟩))

/-- What WRSR leaves in a special register (R103 to R106): `em` within `lm`, the writable bits of `mode` and `fstat`. -/
def Sys2Proof.Claim.SpecialRegisterWrites : Prop := ∀ (th : Thread) (w64 : Bool) (v : DWord),
  (th.writeSpecial .em w64 v).em = v.setWidth 32 &&& th.lm ∧
  (th.writeSpecial .mode w64 v).mode = v.setWidth 32 &&& 0x1F1F ∧
  (th.writeSpecial .fstat w64 v).fstat = v.setWidth 32 &&& 0x1F ∧
  (th.writeSpecial .lk true v).lk = v ∧
  (th.writeSpecial .lk false v).lk.setWidth 32 = v.setWidth 32 ∧
  hiWord (th.writeSpecial .lk false v).lk = hiWord th.lk ∧
  (∀ x, (th.writeSpecial x w64 v).v = th.v ∧ (th.writeSpecial x w64 v).s = th.s ∧ (th.writeSpecial x w64 v).p = th.p ∧
    (th.writeSpecial x w64 v).q = th.q ∧ (th.writeSpecial x w64 v).lm = th.lm ∧ (th.writeSpecial x w64 v).pc = th.pc ∧
    (th.writeSpecial x w64 v).loops = th.loops ∧ (th.writeSpecial x w64 v).budget = th.budget)

/-- Major 0x00: what NOP, YIELD, TRAP, BRK, RDSR and WRSR do, and what a write leaves in a special register. -/
def Obligations.SpecialRegisters : Prop :=
  Sys2Proof.Claim.SystemInstructions ∧ Sys2Proof.Claim.SpecialRegisterWrites

/-- The end of a group (R34, R176, R338): EXIT and TRET of a team's group retire it, EXIT of a stream ends the stream,
and the end of a task whose sends are delivered and whose release is complete retires it. -/
def Sys2Proof.Claim.GroupEnd : Prop := ∀ f : SForm,
  let gone (o : Out) : Prop := o.next = .gone ∧ o.writes = []
  let team (e : Env) (o : Out) : Prop := gone o ∧ ∀ d c k, e.ag = .group d c k → o.s = e.s.retire e.ck k e.th
  let group (e : Env) : Prop := ∃ d c k, e.ag = .group d c k
  let taskDone (e : Env) : Prop := group e ∧ e.th.place.isTask = true ∧ e.th.doomed.any (· < e.t) = false ∧
    (e.th.place.atomic = false ∨ (e.th.commit = [] ∧ (e.s.journal.any fun j => j.uid = e.th.uid) = false)) ∧ (e.s.commits.any fun c => c.th.uid = e.th.uid) = false ∧ e.s.sendsDone e.ck e.th.uid = true ∧
    e.s.releaseDone e.ck e.th.uid 3 e.s.nextUid = true
  Completes (.exit f) (ruleExit f) (fun e => group e ∧ e.th.place.isTask = false) team ∧
  Completes (.exit f) (ruleExit f) taskDone team ∧
  Completes (.exit f) (ruleExit f) (fun e => ∃ d c q, e.ag = .stream d c q) (fun e o => gone o ∧ o.s.cur = none ∧
    ∀ d c q x, e.ag = .stream d c q → Sparse.find? (e.s.comb e.ck).seqs q = some x →
      Sparse.find? (o.s.comb e.ck).seqs q = some { x with th := e.th, ended := true }) ∧
  Completes (.tret f) (ruleTret f) (fun e => group e ∧ e.th.place.isTask = false) team ∧
  Completes (.tret f) (ruleTret f) taskDone team

/-- A group that has left its slot is no more there, and its team counts one group less (R34). -/
def Sys2Proof.Claim.FreedSlotIsEmpty : Prop := ∀ (s : State) (ck k : Nat) (th : Thread),
  Sparse.find? ((s.freeSlot ck k th).comb ck).groups k = none ∧
  (∀ j, j ≠ k → Sparse.find? ((s.freeSlot ck k th).comb ck).groups j = Sparse.find? (s.comb ck).groups j) ∧
  (∀ t, Sparse.find? (s.comb ck).teams th.place.team = some t →
    Sparse.find? ((s.freeSlot ck k th).comb ck).teams th.place.team = some { t with live := t.live - 1 }) ∧
  (∀ ck', ck' ≠ ck → (s.freeSlot ck k th).comb ck' = s.comb ck')

/-- The end of a group, and the slot it leaves empty. -/
def Obligations.GroupsEnd : Prop :=
  Sys2Proof.Claim.GroupEnd ∧ Sys2Proof.Claim.FreedSlotIsEmpty

/-- Transfers (R162 to R167): a taken one goes to its target, with `lk` and `cd` as the entry says; one not taken goes on.
A direct target is aligned when the PC is, and an indirect one passes its checks. A RET at `cd` = 0 ends a team's group, and a RET of the
steward at `cd` = 0, or to the dispatch loop (log entry 17), ends the user handler. -/
def Sys2Proof.Claim.Transfers : Prop := ∀ f : BForm,
  let aligned (e : Env) : Prop := e.th.pc.toNat % 4 = 0
  let target (e : Env) : DWord := directTarget e.th.pc f.disp
  let went (e : Env) (th : Thread) (o : Out) : Prop := o = ⟨e.s, th, [], 0, none, .taken⟩
  let setem (th : Thread) (e : Env) : Thread := if f.aux.getLsbD 0 then { th with em := e.read32 f.d 0 &&& th.lm } else th
  let any (e : Env) : Prop := e.pmask f.a &&& e.th.em ≠ 0
  let all (e : Env) : Prop := e.pmask f.a &&& e.th.em = e.th.em
  let called (e : Env) : Thread := { e.th with lk := e.th.pc + 12, cd := e.th.cd + 1 }
  (∀ (pc : DWord) (d : BitVec 24), directTarget pc d = pc + BitVec.ofInt 64 (4 * d.toInt) ∧ -(2 ^ 25 : Int) ≤ 4 * d.toInt ∧ 4 * d.toInt ≤ 2 ^ 25 - 4) ∧
  Completes (.bra f) (ruleBra f) aligned (fun e o => went e (e.th.take (target e)) o) ∧
  Completes (.brz f) (brCondRule f 0x081) (fun e => aligned e ∧ e.read32 f.a 0 = 0) (fun e o => went e ((setem e.th e).take (target e)) o) ∧
  Writes (.brz f) (brCondRule f 0x081) (fun e => e.read32 f.a 0 ≠ 0) (fun _ => []) ∧
  Completes (.brnz f) (brCondRule f 0x082) (fun e => aligned e ∧ e.read32 f.a 0 ≠ 0) (fun e o => went e ((setem e.th e).take (target e)) o) ∧
  Writes (.brnz f) (brCondRule f 0x082) (fun e => e.read32 f.a 0 = 0) (fun _ => []) ∧
  Completes (.brany f) (ruleBrany f) (fun e => aligned e ∧ any e) (fun e o => went e (e.th.take (target e)) o) ∧
  Writes (.brany f) (ruleBrany f) (fun e => ¬ any e) (fun _ => []) ∧
  Completes (.brall f) (ruleBrall f) (fun e => aligned e ∧ all e) (fun e o => went e (e.th.take (target e)) o) ∧
  Writes (.brall f) (ruleBrall f) (fun e => ¬ all e) (fun _ => []) ∧
  (f.aux.getLsbD 0 = false → Completes (.call f) (ruleCall f) (fun e => aligned e ∧ e.th.cd ≠ 15) (fun e o => went e ((called e).take (target e)) o)) ∧
  (f.aux.getLsbD 0 = true → Completes (.call f) (ruleCall f) (fun e => e.th.cd ≠ 15 ∧ e.landing (e.read64 f.a 0) = none)
    (fun e o => went e ((called e).take (e.read64 f.a 0)) o)) ∧
  Completes (.ret f) (ruleRet f) (fun e => e.endsHandler = false ∧ e.th.cd ≠ 0 ∧ e.th.lk.toNat % 4 = 0)
    (fun e o => went e (e.th.ret e.th.lk) o) ∧
  Completes (.ret f) (ruleRet f) (fun e => (∃ d c k, e.ag = .group d c k) ∧ e.th.cd = 0 ∧ e.th.place.isTask = false) (fun e o =>
    o.next = .gone ∧ ∀ d c k, e.ag = .group d c k → o.s = e.s.retire e.ck k e.th) ∧
  Completes (.ret f) (ruleRet f) (fun e => e.endsHandler = true) (fun _ o => o.next = .gone ∧ o.s.cur = none ∧ o.writes = []) ∧
  (∀ e : Env, e.ag.isSteward = false → e.endsHandler = false) ∧ (∀ e : Env, e.ag.isSteward = true → e.th.cd = 0 → e.endsHandler = true) ∧
  Completes (.jmpi f) (ruleJmpi f) (fun e => e.landing (e.read64 f.a 0) = none) (fun e o => went e (e.th.take (e.read64 f.a 0)) o) ∧
  Completes (.jmpv f) (ruleJmpv f) (fun e => ∃ j js, e.lanes = j :: js ∧ ∀ i ∈ e.lanes, e.landing (e.read64 f.a i) = none) (fun e o =>
    ∃ j js, e.lanes = j :: js ∧
      let em' := laneMask (e.lanes.filter fun i => e.read64 f.a i = e.read64 f.a j)
      o = ⟨e.s, { e.th with em := em' }.take (e.read64 f.a j), e.write32 f.d false [(0, e.th.em &&& ~~~em')], 0, none, .taken⟩)

/-- Where a transfer traps (R69, R70, R165, R166). -/
def Sys2Proof.Claim.TransfersTrap : Prop := ∀ f : BForm,
  let tv (e : Env) (c : Nat) (t : DWord) : TrapInfo := ⟨c, e.th.em, t.toNat % 2 ^ 32, t.toNat / 2 ^ 32⟩
  Traps (.call f) (ruleCall f) (fun e => e.th.cd = 15) (fun e =>
    tv e codeCALLOVF (if f.aux.getLsbD 0 then e.read64 f.a 0 else directTarget e.th.pc f.disp)) ∧
  (∀ c, Traps (.jmpi f) (ruleJmpi f) (fun e => e.landing (e.read64 f.a 0) = some c) (fun e => tv e c (e.read64 f.a 0))) ∧
  Traps (.bra f) (ruleBra f) (fun e => (directTarget e.th.pc f.disp).toNat % 4 ≠ 0) (fun e => tv e codeMISALIGNPC (directTarget e.th.pc f.disp)) ∧
  Traps (.ret f) (ruleRet f) (fun e => e.endsHandler = false ∧ e.th.cd ≠ 0 ∧ e.th.lk.toNat % 4 ≠ 0) (fun e => tv e codeMISALIGNPC e.th.lk) ∧
  (∀ (e : Env) (t : DWord), t.toNat % 4 ≠ 0 → e.landing t = some codeMISALIGNPC)

/-- Where control goes, and where a transfer traps instead. -/
def Obligations.ControlTransfers : Prop :=
  Sys2Proof.Claim.Transfers ∧ Sys2Proof.Claim.TransfersTrap

/-- Masks (R169, R170) and loops (R171, R172). -/
def Obligations.MasksAndLoops : Prop := ∀ f : BForm,
  let old (e : Env) : List RegWrite := e.write32 f.d false [(0, e.th.em)]
  -- guarded off: no register of D and no `em` is written
  let off (i : Instr) (r : Rule) : Prop := ∀ (s : State) (a : Agent) (th : Thread), s.cur = some a → s.thread a = some th → th.stopped = false →
    (s.issueOf a th r).decodeFault r = none → (s.env a th r).act = 0 → ∃ t, exec i s = .next t ∧
      ∀ u, t.thread a = some u → u.em = th.em ∧ u.s = (s.env a th r).th.s ∧ u.v = (s.env a th r).th.v ∧ u.flights = (s.env a th r).th.flights
  let n (e : Env) : Nat := if f.aux.getLsbD 25 then f.aux.toNat % 2 ^ 24 else (e.read32 f.a 0).toNat
  let endPc (e : Env) : DWord := e.th.pc + f.disp.setWidth 64 * 4
  let ent (e : Env) : LoopEnt := ⟨(e.th.pc + 12).setWidth 32, (endPc e).setWidth 32, true, e.th.cd, BitVec.ofNat 24 (n e)⟩
  Completes (.emand f) (emOpRule f 0x090) always (fun e o => o = ⟨e.s, { e.th with em := e.th.em &&& e.maskOp f.a }, old e, 0, none, .seq⟩) ∧
  Completes (.emandn f) (emOpRule f 0x091) always (fun e o => o = ⟨e.s, { e.th with em := e.th.em &&& ~~~(e.maskOp f.a) }, old e, 0, none, .seq⟩) ∧
  Completes (.emset f) (emOpRule f 0x092) always (fun e o => o = ⟨e.s, { e.th with em := e.maskOp f.a &&& e.th.lm }, old e, 0, none, .seq⟩) ∧
  Writes (.emget f) (ruleEmget f) always old ∧
  off (.emand f) (emOpRule f 0x090) ∧ off (.emandn f) (emOpRule f 0x091) ∧ off (.emset f) (emOpRule f 0x092) ∧ off (.emget f) (ruleEmget f) ∧
  (∀ e : Env, f.d = .sink → old e = []) ∧
  (∀ e : Env, e.maskOp f.a = if f.a.kind = .p then e.pmask f.a else e.read32 f.a 0) ∧
  Completes (.exitl f) (ruleExitl f) (fun e => e.th.lm &&& ~~~e.act ≠ 0) (fun e o =>
    o = ⟨e.s, { e.th with lm := e.th.lm &&& ~~~e.act, em := e.th.em &&& ~~~e.act }, [], 0, none, .seq⟩) ∧
  Completes (.exitl f) (ruleExitl f) (fun e => e.th.lm &&& ~~~e.act = 0 ∧ e.th.place.isTask = false ∧ ∃ d c k, e.ag = .group d c k) (fun e o =>
    o.next = .gone ∧ ∀ d c k, e.ag = .group d c k →
      o.s = e.s.retire e.ck k { e.th with lm := e.th.lm &&& ~~~e.act, em := e.th.em &&& ~~~e.act }) ∧
  Completes (.loop f) (ruleLoop f) (fun e => 0 < n e ∧ n e ≤ 0xFFFFFF ∧ loopDepth e.th.loops < 4) (fun e o =>
    o = ⟨e.s, { e.th with loops := e.th.loops.set (loopDepth e.th.loops) (ent e), pc := e.th.pc + 12 }, [], 0, none, .taken⟩) ∧
  Completes (.loop f) (ruleLoop f) (fun e => n e = 0) (fun e o => o = ⟨e.s, ({ e.th with pc := endPc e }).advance, [], 0, none, .taken⟩) ∧
  Traps (.loop f) (ruleLoop f) (fun e => 0 < n e ∧ 4 ≤ loopDepth e.th.loops) (fun e => ⟨codeLOOPOVF, e.th.em, 0, 0⟩) ∧
  Traps (.loop f) (ruleLoop f) (fun e => 0xFFFFFF < n e ∧ loopDepth e.th.loops < 4) (fun e => ⟨codeLOOPOVF, e.th.em, n e, 1⟩) ∧
  Writes (.lbrk f) (ruleLbrk f) (fun e => innermost e.th.cd e.th.loops = none) (fun _ => []) ∧
  (∀ k x, let left (e : Env) : Thread := (({ e.th with
      loops := e.th.loops.set k { x with valid := false }
      pc := BitVec.ofNat 64 (e.th.pc.toNat / 2 ^ 32 * 2 ^ 32 + x.endPc.toNat) } : Thread)).advance
    Completes (.lbrk f) (ruleLbrk f) (fun e => innermost e.th.cd e.th.loops = some (k, x) ∧ (left e).pc.toNat % 4 = 0) (fun e o =>
      o = ⟨e.s, (left e).take (left e).pc, [], 0, none, .taken⟩) ∧
    Traps (.lbrk f) (ruleLbrk f) (fun e => innermost e.th.cd e.th.loops = some (k, x) ∧ (left e).pc.toNat % 4 ≠ 0) (fun e =>
      ⟨codeMISALIGNPC, e.th.em, (left e).pc.toNat % 2 ^ 32, (left e).pc.toNat / 2 ^ 32⟩)) ∧
  Writes (.lcnt f) (ruleLcnt f) always (fun e => e.write32 f.d false [(0, match innermost e.th.cd e.th.loops with
    | some p => p.2.count.setWidth 32
    | none => 0)])

/-- RGIVE and RCLAIM (R173, R174): registers move between a group's budget and its team's pool on the core and role; a
budget keeps 8 registers and does not exceed 128; a claim waits behind older ones and for registers. -/
def Obligations.RegisterBudget : Prop := ∀ f : BForm,
  let n : Nat := f.aux.toNat % 256
  let key (e : Env) : Nat := poolKey (Agent.slotOf e.ag) e.th.place.role
  let pool (s : State) (e : Env) : Option Nat :=
    (Sparse.find? (s.comb e.ck).teams e.th.place.team).map fun t => Sparse.get 0 t.pools (key e)
  let older (e : Env) : Option Claim := (e.s.comb e.ck).rclaims.find? fun r => decide (r.tag = e.th.place.team * 64 + key e)
  let next (e : Env) : Prop := ∀ r, older e = some r → r.uid = e.th.uid
  Completes (.rgive f) (ruleRgive f) (fun e => n + 8 ≤ e.th.budget) (fun e o =>
    o.th.budget = e.th.budget - n ∧ o.writes = [] ∧ (∀ t, Sparse.find? (e.s.comb e.ck).teams e.th.place.team = some t →
      pool o.s e = some (Sparse.get 0 t.pools (key e) + n))) ∧
  Traps (.rgive f) (ruleRgive f) (fun e => e.th.budget < n + 8) (fun e => ⟨codeREGRANGE, e.th.em, n, 1⟩) ∧
  (∀ p, Completes (.rclaim f) (ruleRclaim f) (fun e => e.th.budget + n ≤ 128 ∧ next e ∧ pool e.s e = some p ∧ n ≤ p) (fun e o =>
    o.th = { e.th with budget := e.th.budget + n } ∧ o.writes = [] ∧ pool o.s e = some (p - n))) ∧
  Blocks (.rclaim f) (ruleRclaim f) (fun e => e.th.budget + n ≤ 128 ∧ ∃ r, older e = some r ∧ r.uid ≠ e.th.uid) (fun _ _ th => th.wait = .rclaim n) ∧
  Blocks (.rclaim f) (ruleRclaim f) (fun e => e.th.budget + n ≤ 128 ∧ (∀ p, pool e.s e = some p → p < n) ∧ 0 < n) (fun _ _ th => th.wait = .rclaim n) ∧
  Traps (.rclaim f) (ruleRclaim f) (fun e => 128 < e.th.budget + n) (fun e => ⟨codeREGRANGE, e.th.em, n, 1⟩)

/-- WINSEL, WINRD and WINWR (R187 to R189): the slot selected with its state code, the value the window shows of a stopped
group (0 otherwise), and a write that reaches a stopped group alone. -/
def Sys2Proof.Claim.GroupWindow : Prop := ∀ f : SForm,
  let slot (e : Env) : Nat := (if f.sub.getLsbD 0 then f.imm.toNat else (e.read32 f.a 0).toNat) % 64
  let w64 : Bool := f.sub.getLsbD 1
  let stopped (e : Env) (k : Nat) (th : Thread) : Prop := e.selected = some (k, th) ∧ th.stopped = true
  let idx (e : Env) : Nat := (winIdx e f).1
  let lane (e : Env) : Nat := (winIdx e f).2
  Completes (.winsel f) (ruleWinsel f) always (fun e o =>
    (o.s.comb e.ck).steward.winsel = some (slot e) ∧ o.th = e.th ∧
    o.writes = e.write32 f.d false [(0, match Sparse.find? (e.s.comb e.ck).groups (slot e) with
      | some th => if th.stopped then 0 else 1
      | none => 2)]) ∧
  (w64 = false → ∀ k th, Writes (.winrd f) (ruleWinrd f) (fun e => stopped e k th) (fun e =>
    e.write32 f.d false [(0, (winRead e k (th.settle e.t) (idx e) (lane e)).setWidth 32)])) ∧
  (w64 = true → ∀ k th, Writes (.winrd f) (ruleWinrd f) (fun e => stopped e k th) (fun e =>
    let v := winRead e k (th.settle e.t) (idx e) (lane e)
    e.write64 f.d [(0, if idx e = 0x0DC ∨ idx e = 0x0DD ∨ idx e = 0x201 then v else (v.setWidth 32).setWidth 64)])) ∧
  (w64 = false → Writes (.winrd f) (ruleWinrd f) (fun e => ∀ k th, e.selected = some (k, th) → th.stopped = false) (fun e =>
    e.write32 f.d false [(0, 0)])) ∧
  (∀ k th, Completes (.winwr f) (ruleWinwr f) (fun e => stopped e k th) (fun e o =>
    o.th = e.th ∧ o.writes = [] ∧ Sparse.find? (o.s.comb e.ck).groups k =
      some (winWrite (th.settle e.t) (idx e) (lane e) (if w64 then e.read64 f.c 0 else (e.read32 f.c 0).setWidth 64) w64))) ∧
  Writes (.winwr f) (ruleWinwr f) (fun e => ∀ k th, e.selected = some (k, th) → th.stopped = false) (fun _ => [])

/-- GRESUME and GKILL (R190, R191, R353) with what D gets, and the return from a trap itself: a stopped group whose context is not
frozen is resumed, and goes on at `tpc`, or, when the instruction is skipped, where it goes on behind it: at `tpc` + 12, or as the step of the
loops that end there says; a group whose run is under way is killed at its end, one whose EXIT issued in the same clk ends as by EXIT, and any
other is killed at once; without such a group only D is written. -/
def Sys2Proof.Claim.ResumeAndKill : Prop := ∀ f : SForm,
  let d (e : Env) : List RegWrite := e.write32 f.d false [(0, slotCode e.selected)]
  let may (k : Nat) (th : Thread) (e : Env) : Prop := e.selected = some (k, th) ∧ th.stopped = true ∧ ∀ c, th.place.ctx = some c → e.s.isFrozen e.ck c = false
  let mayNot (e : Env) : Prop := e.selected = none ∨ ∃ k th, e.selected = some (k, th) ∧ (th.stopped = false ∨ ∃ c, th.place.ctx = some c ∧ e.s.isFrozen e.ck c = true)
  let resumed (skip : Bool) (k : Nat) (th : Thread) (e : Env) (o : Out) : Prop :=
    o = ⟨e.s.resumeGroup e.ck k (th.settle e.t) skip e.t, e.th, d e, 0, none, .seq⟩
  (∀ k th, Completes (.gresumeReplay f) (gresumeRule f) (may k th) (resumed false k th)) ∧
  (∀ k th, Completes (.gresumeSkip f) (gresumeRule f) (may k th) (resumed true k th)) ∧
  Writes (.gresumeReplay f) (gresumeRule f) mayNot d ∧ Writes (.gresumeSkip f) (gresumeRule f) mayNot d ∧
  (∀ k th, Completes (.gkill f) (ruleGkill f) (fun e => e.selected = some (k, th) ∧ e.s.isRunning e.ck k th e.t = false ∧ th.wait ≠ .ending e.t) (fun e o =>
    o = ⟨e.s.kill e.ck k th, e.th, d e, 0, none, .seq⟩)) ∧
  (∀ k th, Completes (.gkill f) (ruleGkill f) (fun e => e.selected = some (k, th) ∧ e.s.isRunning e.ck k th e.t = true) (fun e o =>
    o = ⟨e.s.setThread (.group (keyDie e.ck) (keyComb e.ck) k) { th with doomed := some e.t }, e.th, d e, 0, none, .seq⟩)) ∧
  (∀ k th, Writes (.gkill f) (ruleGkill f) (fun e => e.selected = some (k, th) ∧ e.s.isRunning e.ck k th e.t = false ∧ th.wait = .ending e.t) d) ∧
  Writes (.gkill f) (ruleGkill f) (fun e => e.selected = none) d ∧
  (∀ (s : State) (ck k : Nat) (th : Thread) (now : Nat), th.trap.tpc.toNat % 4 = 0 → th.lm ≠ 0 → loopsOk th.cd th.loops = true →
    ∃ th', Sparse.find? ((s.resumeGroup ck k th false now).comb (combKey (keyDie ck) (keyComb ck))).groups k = some th' ∧
      th'.stopped = false ∧ th'.pc = th.trap.tpc ∧ th'.em = th.em ∧ th'.lm = th.lm ∧ th'.v = th.v ∧ th'.s = th.s ∧ th'.trap = th.trap) ∧
  (∀ (s : State) (ck k : Nat) (th : Thread) (now : Nat), let go := endStep th.cd th.loops th.trap.tpc
    go.2.toNat % 4 = 0 → th.lm ≠ 0 → loopsOk th.cd th.loops = true →
    ∃ th', Sparse.find? ((s.resumeGroup ck k th true now).comb (combKey (keyDie ck) (keyComb ck))).groups k = some th' ∧
      th'.stopped = false ∧ th'.pc = go.2 ∧ th'.loops = go.1 ∧ th'.em = th.em ∧ th'.lm = th.lm ∧ th'.v = th.v ∧ th'.s = th.s ∧ th'.trap = th.trap) ∧
  (∀ (cd : BitVec 4) (loops : List LoopEnt) (pc : DWord), (∀ x ∈ loops, x.valid = true → x.depth = cd → x.endPc ≠ pc.setWidth 32) →
    endStep cd loops pc = (loops, pc + 12)) ∧
  (∀ (cd : BitVec 4) (outer : List LoopEnt) (x : LoopEnt) (pc : DWord), x.valid = true → x.depth = cd → x.endPc = pc.setWidth 32 →
    endStep cd (outer ++ [x]) pc = if 1 < x.count.toNat then
        (outer ++ [{ x with count := x.count - 1 }], BitVec.ofNat 64 (pc.toNat / 2 ^ 32 * 2 ^ 32 + x.start.toNat))
      else ((endStep cd outer pc).1 ++ [{ x with valid := false }], (endStep cd outer pc).2))

/-- The steward's window on a stopped group, and the two ways on from it. That D of GKILL and GRESUME receives the slot's code as it was before is the model's choice (log entry 52). -/
def Obligations.StoppedGroups : Prop :=
  Sys2Proof.Claim.GroupWindow ∧ Sys2Proof.Claim.ResumeAndKill

/-- BANKCFG (R239, R240): a bank changes its mode, but not while it is in use (BANKBUSY). -/
def Sys2Proof.Claim.BankModes : Prop := ∀ f : SForm,
  let b : Nat := f.imm.toNat % 16
  let old (e : Env) : Bank := (e.s.comb e.ck).bank b
  let busy (e : Env) : Prop := ((old e).mode = .scratch ∧ ((e.s.comb e.ck).alloc.any fun a => decide (a.1 / 16 = b)) = true) ∨
    ((old e).mode = .fifo ∧ (old e).empty = false)
  -- an unused bank; one in CACHE mode is given up once no store with a release is pending on its comb
  let free (e : Env) : Prop := ¬ busy e ∧ b < (e.s.comb e.ck).banks.length ∧
    ((old e).mode = .cache → (e.s.stores.any fun st => decide (combKey st.die st.comb = e.ck) && st.release.isSome) = false)
  let set (m : BankMode) (ord : Bool) (owner : Nat) (e : Env) (o : Out) : Prop :=
    o.th = e.th ∧ o.writes = [] ∧ (o.s.comb e.ck).bank b = { Bank.ofMode m with ord := ord, owner := owner }
  let ctx (e : Env) : Nat := (e.read32 f.a 0).toNat % 256
  let trap (m : BankMode) (e : Env) : TrapInfo := ⟨codeBANKBUSY, e.th.em, b, m.code⟩
  Completes (.bankcfgOff f) (ruleBankcfgOff f) free (set .off false 0) ∧
  Completes (.bankcfgCache f) (ruleBankcfgCache f) free (set .cache false 0) ∧
  Completes (.bankcfgScratch f) (ruleBankcfgScratch f) (fun e => free e ∧ (old e).mode ≠ .scratch) (set .scratch false 0) ∧
  Writes (.bankcfgScratch f) (ruleBankcfgScratch f) (fun e => free e ∧ (old e).mode = .scratch) (fun _ => []) ∧
  Completes (.bankcfgFifo f) (ruleBankcfgFifo f) free (fun e o => set .fifo (f.sub.getLsbD 2) (ctx e) e o) ∧
  Traps (.bankcfgOff f) (ruleBankcfgOff f) busy (trap .off) ∧
  Traps (.bankcfgCache f) (ruleBankcfgCache f) busy (trap .cache) ∧
  Traps (.bankcfgScratch f) (ruleBankcfgScratch f) busy (trap .scratch) ∧
  Traps (.bankcfgFifo f) (ruleBankcfgFifo f) busy (trap .fifo)

/-- VTWR and OWNWR (R217 to R219): a word of the context's render-set table, on the issuing die or, with BC, on every die;
ILLOP in a context without one. -/
def Sys2Proof.Claim.RenderTableWrites : Prop := ∀ f : SForm,
  let rset (e : Env) : Option Nat := ((e.s.agentCtx e.ag).bind fun c => Sparse.find? e.s.ctxs c).map (·.rset)
  let a (e : Env) : Nat := (e.read32 f.a 0).toNat
  let view (r : Nat) (x : Nat) : Nat × Nat :=
    if x.testBit 12 then (1, r * 4096 + x % 64 * 4 + x / 256 % 4) else (0, r * 4096 + x % 128 * 16 + x / 256 % 16)
  let own (r : Nat) (x : Nat) : Nat × Nat := (2, r * 4096 + x % 4096)
  let put (loc : Nat → Nat → Nat × Nat) (r : Nat) (e : Env) (o : Out) : Prop := o.th = e.th ∧ o.writes = [] ∧
    o.s = e.s.modDie (keyDie e.ck) fun d => d.putTable (loc r (a e)).1 (loc r (a e)).2 (e.read32 f.b 0)
  let on (i : Instr) (op : Nat) (loc : Nat → Nat → Nat × Nat) : Prop :=
    (f.sub.getLsbD 0 = false → ∀ r, r ≤ 3 → Completes i (tableWriteRule op f) (fun e => rset e = some r) (put loc r)) ∧
    (f.sub.getLsbD 0 = true → ∀ r, r ≤ 3 → Writes i (tableWriteRule op f) (fun e => rset e = some r ∧ ∃ v, e.th.wait = .answered v) (fun _ => [])) ∧
    (f.sub.getLsbD 0 = true → ∀ r, r ≤ 3 → Blocks i (tableWriteRule op f) (fun e => rset e = some r ∧ e.th.wait = .none) (fun e s _ =>
      s.bcasts = e.s.bcasts ++ [⟨e.s.nextUid, e.ag, e.th.uid, e.s.liveDies, .table (loc r (a e)).1 (loc r (a e)).2 (e.read32 f.b 0)⟩])) ∧
    Traps i (tableWriteRule op f) (fun e => rset e = some 7) (fun e => ⟨codeILLOP, e.tmask, 0, 0⟩)
  on (.vtwr f) 0x1A0 view ∧ on (.ownwr f) 0x1A1 own

/-- The mode of a bank and the words of a render-set table. In which order the reasons against a mode count is the model's reading (log entry 42). -/
def Obligations.BanksAndTables : Prop :=
  Sys2Proof.Claim.BankModes ∧ Sys2Proof.Claim.RenderTableWrites

/-- TLBINV, TDINV and TSYNC (R202 to R204, R208, R277). TLBINV asks every live die to drop the entries of its range (with the purge
also the frame that the old translation gave, when it gave one), waits, and completes once every die has acknowledged; of a
context that does not exist it completes without an effect. TDINV drops the descriptors on its comb or die at once at TEAM and
DIE scope, and at PKG and SYS asks every live die; TSYNC asks every live die; both after a release at their scope, and both
complete without an effect for a steward that acts for no context. -/
def Sys2Proof.Claim.TableInvalidation : Prop := ∀ (f : SForm) (m : MForm),
  let asked (body : Env → BcastBody) (e : Env) (s : State) (th : Thread) : Prop :=
    s = { e.s with nextUid := e.s.nextUid + 1, bcasts := e.s.bcasts ++ [⟨e.s.nextUid, e.ag, e.th.uid, e.s.liveDies, body e⟩] } ∧
    th = { e.th with wait := .answer e.s.nextUid }
  let fresh (e : Env) : Prop := e.th.wait = .none ∨ e.th.wait = .released
  let answered (e : Env) : Prop := ∃ v, e.th.wait = .answered v
  -- asks every live die where `P` holds, and completes once every die has acknowledged where `Q` holds
  let broadcasts (i : Instr) (r : Rule) (P Q : Env → Prop) (body : Env → BcastBody) : Prop :=
    Blocks i r (fun e => fresh e ∧ P e) (asked body) ∧ Writes i r (fun e => answered e ∧ Q e) (fun _ => [])
  let c (e : Env) : Nat := (e.read32 f.b 0).toNat % 256
  let va (e : Env) : Nat := (e.read64 f.a 0).toNat
  let live (e : Env) : Prop := (Sparse.find? e.s.ctxs (c e)).isSome = true
  let dead (e : Env) : Prop := Sparse.find? e.s.ctxs (c e) = none
  let iset (e : Env) : List Nat := match Sparse.find? e.s.ctxs (c e) with
    | some cr => cr.iset
    | none => []
  let page := tlbinvRule f [useSPair f.a, useS f.b]
  let mctx (e : Env) : Nat := (e.s.agentCtx e.ag).getD 0
  let within (e : Env) : Prop := (e.s.agentCtx e.ag).isSome = true
  let released (e : Env) : Prop := e.s.releaseDone e.ck e.th.uid m.scope.toNat e.s.nextUid = true ∧ within e
  let n (e : Env) : Nat := (e.read32 m.a 0).toNat % 4096
  let dropped (k : Env → Option Nat) (e : Env) (o : Out) : Prop :=
    o = ⟨e.s.dropDescs (e.s.scopeCombs e.ck m.scope.toNat) (keyDie e.ck) (mctx e) (k e), e.th, [], 0, none, .seq⟩
  let alone (i : Instr) (r : Rule) : Prop := Writes i r (fun e => e.s.agentCtx e.ag = none) (fun _ => [])
  broadcasts (.tlbinvPage f) page live live (fun e => .tlbinv (some (c e)) (some (va e)) none) ∧
  broadcasts (.tlbinvPagePurge f) page live live (fun e =>
    .tlbinv (some (c e)) (some (va e)) ((e.s.oldLeaf (c e) (va e)).map fun l => (l.place, l.frame, l.size, iset e))) ∧
  broadcasts (.tlbinvCtx f) (tlbinvRule f [useS f.b]) live live (fun e => .tlbinv (some (c e)) none none) ∧
  broadcasts (.tlbinvAll f) (tlbinvRule f []) always always (fun _ => .tlbinv none none none) ∧
  Writes (.tlbinvPage f) page dead (fun _ => []) ∧ Writes (.tlbinvPagePurge f) page dead (fun _ => []) ∧
  Writes (.tlbinvCtx f) (tlbinvRule f [useS f.b]) dead (fun _ => []) ∧
  (m.scope.toNat ≤ 2 → Completes (.tdinv m) (tdinvRule m [useS m.a]) (fun e => fresh e ∧ released e) (dropped fun e => some (n e))) ∧
  (m.scope.toNat ≤ 2 → Completes (.tdinvAll m) (tdinvRule m []) (fun e => fresh e ∧ released e) (dropped fun _ => none)) ∧
  (2 < m.scope.toNat → broadcasts (.tdinv m) (tdinvRule m [useS m.a]) released within (fun e => .tdinv (mctx e) (some (n e)))) ∧
  (2 < m.scope.toNat → broadcasts (.tdinvAll m) (tdinvRule m []) released within (fun e => .tdinv (mctx e) none)) ∧
  broadcasts (.tsync m) (tsyncRule m [useS m.a]) released within (fun e => .tsync (mctx e) (some (n e)) m.scope.toNat e.ck) ∧
  broadcasts (.tsyncAll m) (tsyncRule m []) released within (fun e => .tsync (mctx e) none m.scope.toNat e.ck) ∧
  alone (.tdinv m) (tdinvRule m [useS m.a]) ∧ alone (.tdinvAll m) (tdinvRule m []) ∧
  alone (.tsync m) (tsyncRule m [useS m.a]) ∧ alone (.tsyncAll m) (tsyncRule m [])

/-- What a die has done when it acknowledges (R203, R208, R219, R245, R277, R346, R348): a TLBINV leaves no entry of its range in the
die's TLBs or its combs'; TDINV no covered descriptor; TSYNC no tile line of its tensors in the L2 and no sector of them in an L1
of its scope on the die; CCTL.icinv nothing in the die's instruction caches; a table write has its word in place; a freeze and a
thaw put the context among the die's frozen ones and take it out. -/
def Sys2Proof.Claim.BroadcastEffects : Prop := ∀ (s t : State) (die : Nat),
  let done (body : BcastBody) : Prop := ∃ uid, (s.startFreeze die body).applyBcast die uid body = some t
  (∀ ctx page p, done (.tlbinv ctx page p) → (∀ e ∈ (t.die die).dtlb, e.inRange ctx page = false) ∧
    ∀ ck ∈ s.combsOf die, ∀ e ∈ (t.comb ck).dtlb ++ (t.comb ck).itlb, e.inRange ctx page = false) ∧
  (∀ ctx n, done (.tdinv ctx n) → (∀ d ∈ (t.die die).dcache, d.covered ctx n = false) ∧
    ∀ ck ∈ s.combsOf die, ∀ d ∈ (t.comb ck).dcache, d.covered ctx n = false) ∧
  (∀ ctx n scope ck, done (.tsync ctx n scope ck) →
    let gone (x : TileRef) : Prop := ¬ (x.ctx = ctx ∧ (n = none ∨ n = some x.tensor))
    (∀ l ∈ t.tiles, gone l.tile) ∧
    ∀ k ∈ s.scopeCombs ck scope, keyDie k = die → ∀ l ∈ (t.comb k).l1, ∀ x sec, l.tile = some (x, sec) → gone x) ∧
  (done .icinv → ∀ ck ∈ s.combsOf die, (t.comb ck).icache = []) ∧
  (∀ kind key x, done (.table kind key x) → t = s.modDie die fun d => d.putTable kind key x) ∧
  (∀ ctx, done (.freeze ctx) → (t.die die).frozen.contains ctx = true) ∧
  (∀ ctx, done (.thaw ctx) → (t.die die).frozen.contains ctx = false)

/-- Acknowledgements of broadcasts (R203, R208, R219, R245, R277): a die does its part, and with the last die the issuer that waits goes on. -/
def Sys2Proof.Claim.Acknowledgements : Prop := ∀ (s : State) (die : Nat) (b : Bcast) (t : State),
  let event : Instr := if b.body.isTlbinv then .tlbinvAcknowledge die else .broadcastAcknowledge die
  s.bcasts.find? (fun x => x.dies.contains die && decide (x.body.isTlbinv = b.body.isTlbinv)) = some b → (s.startFreeze die b.body).applyBcast die b.uid b.body = some t →
  (b.dies.filter (fun d => decide (d ≠ die)) ≠ [] →
    exec event s = .next { t with bcasts := t.bcasts.map fun x => if x.uid = b.uid then { b with dies := b.dies.filter fun d => decide (d ≠ die) } else x }) ∧
  (b.dies.filter (fun d => decide (d ≠ die)) = [] →
    exec event s = .next (({ t with bcasts := t.bcasts.filter fun x => decide (x.uid ≠ b.uid) } : State).answer b.agent b.agentUid b.uid (.answered 0)))

/-- Broadcasts: what they ask of every die, what a die has done when it acknowledges, and how the last acknowledgement lets the issuer go on. -/
def Obligations.Broadcasts : Prop :=
  Sys2Proof.Claim.TableInvalidation ∧ Sys2Proof.Claim.BroadcastEffects ∧ Sys2Proof.Claim.Acknowledgements

/-- CCTL (R245 to R247): the addressed line in cacheable memory that no store of the issuer is on its way to is written back (and
dropped with the issuing comb's L1 line of it), pinned for the context with all its words valid but those that HBM holds bad, or unpinned; on other pages
nothing happens and a pin answers 0, as does a refused one; the issuing comb's L1 is dropped; the instruction caches are dropped
after a release, at TEAM and DIE scope by the instruction itself, at PKG and SYS by every live die, which it asks and waits for. -/
def Sys2Proof.Claim.CacheControl : Prop := ∀ f : MForm,
  let lineOf (a : LaneAcc) : Nat := a.locs.headD 0 / 128
  let ctx (e : Env) : Nat := (e.s.agentCtx e.ag).getD 0
  let noted (e : Env) (a : LaneAcc) : State := e.s.noteAccs e.ck (ctx e) .read [a]
  let at' (a : LaneAcc) (e : Env) : Prop := e.laneAccs .read (fun _ => 1) 1 false [(0, e.ea f 0)] = .ok [a]
  -- an addressed line in cacheable memory that is not on a HOST page, with no store of the group to it on its way
  let one (a : LaneAcc) (e : Env) : Prop := at' a e ∧ a.mtype < 2 ∧ a.place ≠ 3 ∧
    (e.s.stores.any fun st => decide (st.agentUid = e.th.uid) && st.locs.any fun l => decide (l / 128 = lineOf a)) = false
  let busy (a : LaneAcc) (e : Env) : Prop := at' a e ∧ a.mtype < 2 ∧ a.place ≠ 3 ∧
    (e.s.stores.any fun st => decide (st.agentUid = e.th.uid) && st.locs.any fun l => decide (l / 128 = lineOf a)) = true
  let other (a : LaneAcc) (e : Env) : Prop := at' a e ∧ (2 ≤ a.mtype ∨ a.place = 3)
  let on (g : Env → State → Nat → State) (a : LaneAcc) (e : Env) (o : Out) : Prop :=
    o = ⟨g e (noted e a) (lineOf a), e.th, [], 0, none, .seq⟩
  let pinOf (s : State) (l : Nat) : Option Nat := (Sparse.find? s.l2 l).bind (·.pin)
  let answer (e : Env) (x : Word) : List RegWrite := e.write32 f.d false [(0, x)]
  let may (a : LaneAcc) (e : Env) : Prop := (pinOf (noted e a) (lineOf a)).isSome = true ∨ (noted e a).pinned (locDie (lineOf a * 128)) < 12
  let sc : Nat := f.scope.toNat
  let fresh (e : Env) : Prop := e.th.wait = .none ∨ e.th.wait = .released
  let released (e : Env) : Prop := fresh e ∧ e.s.releaseDone e.ck e.th.uid sc e.s.nextUid = true
  (∀ a, Completes (.cctlWb f) (ruleCctlWb f) (one a) (on (fun _ => State.writeBackLine) a)) ∧
  (∀ a, Completes (.cctlWbinv f) (ruleCctlWbinv f) (one a) (on (fun e s l =>
    ((s.writeBackLine l).dropLine l).dropL1Where e.ck fun x => x.tile = none && decide (x.line = l)) a)) ∧
  (∀ a, Completes (.cctlPin f) (ruleCctlPin f) (fun e => one a e ∧ may a e) (fun e o =>
    o.th = e.th ∧ o.writes = answer e 1 ∧ o.next = .seq ∧ pinOf o.s (lineOf a) = some (ctx e) ∧
      (∀ i < 32, o.s.wordValid (32 * lineOf a + i) = true ∨ (noted e a).badAt (32 * lineOf a + i) 0 = true) ∧ ∀ l, l ≠ lineOf a → Sparse.find? o.s.l2 l = Sparse.find? (noted e a).l2 l)) ∧
  (∀ a, Completes (.cctlPin f) (ruleCctlPin f) (fun e => one a e ∧ ¬ may a e) (fun e o =>
    o.th = e.th ∧ o.next = .seq ∧ ((o.writes = answer e 0 ∧ o.s = noted e a) ∨ (o.writes = answer e 1 ∧ pinOf o.s (lineOf a) = some (ctx e))))) ∧
  (∀ a, Completes (.cctlUnpin f) (ruleCctlUnpin f) (one a) (fun e o => o.th = e.th ∧ o.writes = [] ∧ o.next = .seq ∧ pinOf o.s (lineOf a) = none ∧
    ∀ l, l ≠ lineOf a → Sparse.find? o.s.l2 l = Sparse.find? (noted e a).l2 l)) ∧
  (∀ a, Writes (.cctlWb f) (ruleCctlWb f) (other a) (fun _ => []) ∧ Writes (.cctlWbinv f) (ruleCctlWbinv f) (other a) (fun _ => []) ∧
    Writes (.cctlUnpin f) (ruleCctlUnpin f) (other a) (fun _ => []) ∧ Writes (.cctlPin f) (ruleCctlPin f) (other a) (fun e => answer e 0)) ∧
  (∀ a, Blocks (.cctlWb f) (ruleCctlWb f) (busy a) (fun e s th => s = e.s ∧ th = { e.th with wait := .again }) ∧
    Blocks (.cctlWbinv f) (ruleCctlWbinv f) (busy a) (fun e s th => s = e.s ∧ th = { e.th with wait := .again }) ∧
    Blocks (.cctlPin f) (ruleCctlPin f) (busy a) (fun e s th => s = e.s ∧ th = { e.th with wait := .again }) ∧
    Blocks (.cctlUnpin f) (ruleCctlUnpin f) (busy a) (fun e s th => s = e.s ∧ th = { e.th with wait := .again })) ∧
  Completes (.cctlL1inv f) (ruleCctlL1inv f) always (fun e o => o = ⟨e.s.dropL1 e.ck, e.th, [], 0, none, .seq⟩) ∧
  (sc ≤ 2 → Completes (.cctlIcinv f) (ruleCctlIcinv f) released (fun e o => o = ⟨e.s.dropIcaches (e.s.scopeCombs e.ck sc), e.th, [], 0, none, .seq⟩)) ∧
  (2 < sc → Blocks (.cctlIcinv f) (ruleCctlIcinv f) released (fun e s th =>
    s = { e.s with nextUid := e.s.nextUid + 1, bcasts := e.s.bcasts ++ [⟨e.s.nextUid, e.ag, e.th.uid, e.s.liveDies, .icinv⟩] } ∧
    th = { e.th with wait := .answer e.s.nextUid })) ∧
  (2 < sc → Writes (.cctlIcinv f) (ruleCctlIcinv f) (fun e => ∃ v, e.th.wait = .answered v) (fun _ => []))

/-- FENCE (R275, R276): the release half waits until the group's writes have reached the scope, the acquire half until its loads and
atomics have returned their values, and then drops the comb's L1 from DIE scope on; a relation of both halves does both; FENCE.i empties the
loop buffer, so that the next instruction comes from the instruction cache. What a release half was issued before is noted for the
asynchronous instructions behind it. -/
def Sys2Proof.Claim.Fences : Prop := ∀ f : MForm,
  let reads (e : Env) : Prop := ((e.s.comb e.ck).ops.any fun o => decide (o.agent = e.th.uid) && decide (o.cls = 0) && o.unread) = false
  let released (e : Env) : Prop := e.s.releaseDone e.ck e.th.uid f.scope.toNat e.s.nextUid = true
  let noted (e : Env) : Thread := { e.th with fenced := e.s.nextUid }
  let dropped (th : Env → Thread) (e : Env) (o : Out) : Prop := o = ⟨if 2 ≤ f.scope.toNat then e.s.dropL1 e.ck else e.s, th e, [], 0, none, .seq⟩
  let again (w : Wait) (e : Env) (s : State) (th : Thread) : Prop := s = e.s ∧ th = { e.th with wait := w }
  let both (i : Instr) : Prop :=
    Completes i (fenceRule f) (fun e => reads e ∧ released e) (dropped noted) ∧
    Blocks i (fenceRule f) (fun e => ¬ released e) (again (.release f.scope.toNat)) ∧
    Blocks i (fenceRule f) (fun e => released e ∧ ¬ reads e) (fun e s th => s = e.s ∧ th = { noted e with wait := .again })
  (f.ord = 1 → Completes (.fenceAcq f) (fenceRule f) reads (dropped (·.th))) ∧
  (f.ord = 1 → Blocks (.fenceAcq f) (fenceRule f) (fun e => ¬ reads e) (again .again)) ∧
  (f.ord = 2 → Completes (.fenceRel f) (fenceRule f) released (fun e o => o = ⟨e.s, noted e, [], 0, none, .seq⟩)) ∧
  (f.ord = 2 → Blocks (.fenceRel f) (fenceRule f) (fun e => ¬ released e) (again (.release f.scope.toNat))) ∧
  (f.ord = 3 → both (.fenceAcqrel f)) ∧ (f.ord = 3 → both (.fenceSc f)) ∧
  Completes (.fenceI f) (ruleFenceI f) always (fun e o => o = ⟨e.s, { e.th with lbuf := [] }, [], 0, none, .seq⟩)

/-- Cache control and fences. What a write-back leaves in its line is the model's choice (log entry 48). -/
def Obligations.CachesAndFences : Prop :=
  Sys2Proof.Claim.CacheControl ∧ Sys2Proof.Claim.Fences

/-- CTXSAVE (R346, R347, R349 to R351) with feature 3 in force: of a frozen context, what it names is written at an address in a firmware
region, its hidden part is kept under its number, what was saved leaves the comb, and D holds 0; else D holds 7 without the
feature, 1 when the context is not frozen, 2 when there is nothing to save, 3 for a bad address, 6 for a team with a group still
held, and nothing is saved. CTXSAVE.freeze asks every live die and completes with the number of the context's slots. -/
def Sys2Proof.Claim.SavedState : Prop := ∀ f : SForm,
  let b (e : Env) : Nat := (e.read32 f.b 0).toNat
  let at' (e : Env) : Nat := (e.read64 f.a 0).toNat
  let c (e : Env) : Comb := e.s.comb e.ck
  let code (k : Nat) (e : Env) : List RegWrite := e.write32 f.d false [(0, BitVec.ofNat 32 k)]
  let on (e : Env) : Prop := e.s.feature 3 = true
  let fresh (e : Env) : Prop := e.th.wait = .none
  -- what there is to save of a context where `P` holds: its image and what the save leaves of the machine
  let saves (i : Instr) (P : Env → Prop) (ctx : Env → Nat) (bs : Env → List Byte) (body : Env → ImageBody) (left : Env → State → State) : Prop :=
    Completes i (ctxsaveRule f) (fun e => on e ∧ P e ∧ e.s.isFrozen e.ck (ctx e) = true ∧ e.s.imageOk (at' e) (bs e).length = true) (fun e o =>
      o = ⟨left e (e.s.putImage e.ck (ctx e) (at' e) (bs e) (body e)), e.th, code 0 e, 0, none, .seq⟩) ∧
    Writes i (ctxsaveRule f) (fun e => on e ∧ P e ∧ e.s.isFrozen e.ck (ctx e) = true ∧ e.s.imageOk (at' e) (bs e).length = false) (code 3) ∧
    Writes i (ctxsaveRule f) (fun e => on e ∧ P e ∧ e.s.isFrozen e.ck (ctx e) = false) (code 1) ∧
    Writes i (ctxsaveRule f) (fun e => e.s.feature 3 = false) (code 7)
  let nothing (i : Instr) (P : Env → Prop) : Prop := Writes i (ctxsaveRule f) (fun e => on e ∧ P e) (code 2)
  let frozen (e : Env) : Prop := e.s.isFrozen e.ck (b e % 256) = true
  let mine (e : Env) : List AsyncOp := (c e).cancelled.filter fun o => decide (o.ctx = b e % 256)
  let slots (e : Env) : List (Nat × TaskSlot) := (c e).table.filter fun t => t.2.task.isSome && decide (t.2.ctx = b e % 256)
  let ready (e : Env) : List ReadyEnt := (c e).readyOrder.filter fun r => decide (r.ctx = b e % 256)
  let landed (th : Thread) : Thread := th.flights.foldl Thread.land { th with flights := [] }
  let seq (e : Env) (t : Team) : Option Seq := t.seq.bind fun q => Sparse.find? (c e).seqs q
  let passes (e : Env) (t : Team) : List Pass := (c e).passes.filter fun p => t.seq = some p.seq
  let matrix (e : Env) (t : Team) : List Byte := if (seq e t).isSome || !t.tiles.isEmpty then matrixHead (c e) (seq e t) t (passes e t) else []
  let held (e : Env) (k : Nat) (t : Team) : Bool := !t.isTask && (c e).groups.any fun g => g.2.place.team = k
  let bank (e : Env) : Bank := (c e).bank (b e % 16)
  Blocks (.ctxsaveFreeze f) (ruleCtxsaveFreeze f) (fun e => on e ∧ fresh e) (fun e s th =>
    s = { e.s with nextUid := e.s.nextUid + 1, bcasts := e.s.bcasts ++ [⟨e.s.nextUid, e.ag, e.th.uid, e.s.liveDies, .freeze (b e % 256)⟩] } ∧
    th = { e.th with wait := .answer e.s.nextUid }) ∧
  Writes (.ctxsaveFreeze f) (ruleCtxsaveFreeze f) (fun e => on e ∧ ∃ v, e.th.wait = .answered v) (fun e =>
    code (((c e).ctxSlots (b e % 256)).length * 256) e) ∧
  Writes (.ctxsaveFreeze f) (ruleCtxsaveFreeze f) (fun e => e.s.feature 3 = false) (code 7) ∧
  saves (.ctxsaveCopies f) (fun e => mine e ≠ []) (fun e => b e % 256) (fun e => copiesImage e.s.nextUid (b e % 256) (mine e)) (fun e => .copies (mine e))
    (fun e s => s.modComb e.ck fun c => { c with cancelled := c.cancelled.filter fun o => decide (o.ctx ≠ b e % 256) }) ∧
  nothing (.ctxsaveCopies f) (fun e => frozen e ∧ mine e = []) ∧
  (∀ th, saves (.ctxsaveGroup f) (fun e => Sparse.find? (c e).groups (b e % 64) = some th) (fun _ => th.place.ctx.getD 0xFF)
    (fun e => groupImage e.s e.ck (b e % 64) e.s.nextUid (landed th))
    (fun e => .group (landed th) (b e % 64) ((c e).rclaims.find? fun r => r.uid = (landed th).uid) ((landed th).stopped && (landed th).undisp))
    (fun e s => s.unslot e.ck (b e % 64) (landed th))) ∧
  nothing (.ctxsaveGroup f) (fun e => Sparse.find? (c e).groups (b e % 64) = none) ∧
  (∀ k t, saves (.ctxsaveTeam f) (fun e => (c e).namedTeam (b e) = some k ∧ Sparse.find? (c e).teams k = some t ∧ held e k t = false) (fun _ => t.ctx)
    (fun e => teamImage (c e) e.s.nextUid t (matrix e t)) (fun e => .team k t (seq e t) ((c e).teamCells t) (passes e t))
    (fun e s => s.setComb e.ck ((s.comb e.ck).withoutTeam k t))) ∧
  (∀ k t, Writes (.ctxsaveTeam f) (ctxsaveRule f) (fun e => on e ∧ (c e).namedTeam (b e) = some k ∧ Sparse.find? (c e).teams k = some t ∧
    e.s.isFrozen e.ck t.ctx = true ∧ held e k t = true) (code 6)) ∧
  nothing (.ctxsaveTeam f) (fun e => (c e).namedTeam (b e) = none) ∧
  saves (.ctxsaveQueues f) (fun e => slots e ≠ [] ∨ ready e ≠ []) (fun e => b e % 256) (fun e => queueImage (c e) e.s.nextUid (b e % 256) (slots e) (ready e))
    (fun e => .queues (slots e) (ready e) (c e).clk)
    (fun e s => (s.modComb e.ck fun c => (slots e).foldl (fun c t => c.freeTableSlot t.1) { c with ready := c.ready.filter fun r => decide (r.ctx ≠ b e % 256) }).admitRoom e.ck) ∧
  nothing (.ctxsaveQueues f) (fun e => frozen e ∧ slots e = [] ∧ ready e = []) ∧
  saves (.ctxsaveFifo f) (fun e => (bank e).mode = .fifo) (fun e => (bank e).owner) (fun e => fifoImage e.s.nextUid (b e % 16) (bank e)) (fun e => .fifo (b e % 16) (bank e))
    (fun e s => s.modComb e.ck fun c => c.setBank (b e % 16) { bank e with ents := [], spilled := [] }) ∧
  nothing (.ctxsaveFifo f) (fun e => (bank e).mode ≠ .fifo)

/-- An image at its address (R349, R351): each of its bytes stands at its place, no other byte of memory changes, and its hidden part is kept,
not yet loaded, under the number that its bytes hold. -/
def Sys2Proof.Claim.ImageStored : Prop := ∀ (s : State) (ck ctx x : Nat) (bs : List Byte) (body : ImageBody),
  let t := s.putImage ck ctx x bs body
  s.imageOk x bs.length = true → bs.length % 4 = 0 →
  (∀ k < bs.length, t.byteNow (x + k) = bs.getD k 0) ∧
  (∀ loc, loc < x ∨ x + bs.length ≤ loc → t.byteNow loc = s.byteNow loc) ∧
  (∃ i : Image, t.images = s.images ++ [i] ∧ i.num = s.nextUid ∧ i.ctx = ctx ∧ i.loaded = false ∧ i.body = body) ∧
  t.nextUid = s.nextUid + 1 ∧ t.combs = s.combs ∧ (∀ n, n < 2 ^ 192 → refNum (refBytes n) = n)

/-- CTXLOAD (R323, R347, R350, R352) of an image that its checks pass: what it holds stands on the comb again in the resources it needs, the
image is marked, and D holds 0; else D holds the code of why not. CTXLOAD.thaw asks every live die once every image of the
context is loaded. -/
def Sys2Proof.Claim.LoadedState : Prop := ∀ f : SForm,
  let b (e : Env) : Nat := (e.read32 f.b 0).toNat
  let c (e : Env) : Comb := e.s.comb e.ck
  let code (k : Nat) (e : Env) : List RegWrite := e.write32 f.d false [(0, BitVec.ofNat 32 k)]
  let image (e : Env) (kind : Nat) (bs : List Byte) (i : Image) : Prop := e.loadImage kind (e.read64 f.a 0).toNat = .ok (bs, i)
  let loads (ins : Instr) (kind : Nat) (bs : List Byte) (i : Image) (P : Env → Prop) (put : Env → State) : Prop :=
    Completes ins (ctxloadRule f) (fun e => image e kind bs i ∧ P e) (fun e o => o = ⟨(put e).markLoaded i.num, e.th, code 0 e, 0, none, .seq⟩)
  let busy (ins : Instr) (kind : Nat) (bs : List Byte) (i : Image) (P : Env → Prop) : Prop :=
    Writes ins (ctxloadRule f) (fun e => image e kind bs i ∧ P e) (code 5)
  let refused (ins : Instr) (kind : Nat) : Prop := ∀ k, Writes ins (ctxloadRule f) (fun e => e.loadImage kind (e.read64 f.a 0).toNat = .error k) (code k)
  let home (e : Env) (o : AsyncOp) : AsyncOp := match (c e).groups.find? fun g => g.2.uid = o.ownerUid with
    | some g => { o with owner := .group (keyDie e.ck) (keyComb e.ck) g.1 }
    | none => o
  -- a group's slot is free on its saved core, with its budget, and its team is there
  let fits (bs : List Byte) (th : Thread) (e : Env) : Prop := b e % 64 / 16 = imageField bs 10 1 ∧ Sparse.find? (c e).groups (b e % 64) = none ∧
    (groupOf bs th).budget ≤ (c e).freeRegs (b e % 64 / 16) ∧ (Sparse.find? (c e).teams (groupOf bs th).place.team).isSome = true
  let back (bs : List Byte) (th : Thread) (e : Env) : Thread := { groupOf bs th with issueAt := (c e).clk, readyAt := (c e).clk }
  let seated (bs : List Byte) (i : Image) (th : Thread) (slot : Nat) (claim : Option Claim) (e : Env) : Comb :=
    { c e with groups := Sparse.put (c e).groups (b e % 64) (back bs th e), rclaims := claim.toList.foldl (fun l x => insertClaim x l) (c e).rclaims,
               savedSlots := Sparse.erase (c e).savedSlots (b e % 64),
               steward := { (c e).steward with kept := (c e).steward.kept.filter fun r => !r.isTrapOf i.ctx slot } }
  let pending (e : Env) : Bool := e.s.images.any fun i => decide (i.ctx = b e % 256) && !i.loaded
  -- a team's granules and pool registers are free, and entries of the reservation table for its passes
  let room (t : Team) (passes : List Pass) (e : Env) : Prop := (t.granules.all fun g => (c e).granuleFree g) = true ∧
    (∀ k < 4, poolRegs t.pools k ≤ (c e).freeRegs k) ∧ (c e).passes.length + passes.length ≤ 16
  let sound (bs : List Byte) : Prop := imageField bs (imageField bs 92 4) 2 = 1 ∧ imageField bs (imageField bs 92 4 + 10) 2 = 0 ∧
    imageField bs (imageField bs 92 4 + 24) 40 = 0 ∧ imageField bs (imageField bs 92 4 + 3) 1 < 4
  let team (bs : List Byte) (key : Nat) (t : Team) (q : Option Nat) (ts : List Nat) (acc : List (Nat × Nat × Word)) (e : Env) : Comb :=
    let g := restoreGranules bs t ((c e).grant t.granules key)
    { g with teams := Sparse.put g.teams key { t with tiles := ts, seq := q }, tileOwner := ts.foldl (fun m n => Sparse.put m n key) g.tileOwner,
             acc := acc.foldl (fun m x => Sparse.set 0 m (ts.getD x.1 0 * 2048 + x.2.1) x.2.2) g.acc }
  let oldest (slots : List (Nat × TaskSlot)) (ready : List ReadyEnt) (clk : Nat) : Nat :=
    (slots.map (·.2.entered) ++ ready.map (·.entered)).foldl (fun m x => Nat.max m (clk - x)) 0
  (∀ bs i os, loads (.ctxloadCopies f) 5 bs i (fun e => i.body = .copies os ∧ b e % 256 = i.ctx) (fun e =>
    e.s.modComb e.ck fun k => { k with ops := os.foldl (fun l o => insertOp (home e o) l) (c e).ops })) ∧
  (∀ bs i th slot claim trap, loads (.ctxloadGroup f) 1 bs i (fun e => i.body = .group th slot claim trap ∧ fits bs th e) (fun e =>
    e.s.setComb e.ck (if trap then (seated bs i th slot claim e).postTrap (b e % 64) (back bs th e) else seated bs i th slot claim e))) ∧
  (∀ bs i th slot claim trap, busy (.ctxloadGroup f) 1 bs i (fun e => i.body = .group th slot claim trap ∧ ¬ fits bs th e)) ∧
  (∀ bs i key t0 acc passes, let t := teamOf bs t0
    loads (.ctxloadTeam f) 2 bs i (fun e => i.body = .team key t0 none acc passes ∧ t.tiles = [] ∧ room t passes e ∧ (c e).freeTiles 0 = some []) (fun e =>
      e.s.setComb e.ck (team bs key t none [] acc e))) ∧
  (∀ bs i key t0 acc passes ts, let t := teamOf bs t0
    loads (.ctxloadTeam f) 2 bs i (fun e => i.body = .team key t0 none acc passes ∧ t.tiles ≠ [] ∧ sound bs ∧ room t passes e ∧ (c e).freeTiles t.tiles.length = some ts) (fun e =>
      e.s.setComb e.ck (team bs key t none ts acc e))) ∧
  (∀ bs i key t0 x acc passes ts q, let t := teamOf bs t0
    let tile (old : Nat) : Nat := ts.getD ((t.tiles.findIdx? (· = old)).getD 0) 0
    loads (.ctxloadTeam f) 2 bs i (fun e => i.body = .team key t0 (some x) acc passes ∧ sound bs ∧ room t passes e ∧ (c e).freeTiles t.tiles.length = some ts ∧ (c e).freeSeq = some q) (fun e =>
      let k := team bs key t (some q) ts acc e
      e.s.setComb e.ck { k with seqs := Sparse.put k.seqs q { x with deferred := x.deferred.map fun d => { d with seq := q } }
                                passes := k.passes ++ passes.map fun p => { p with seq := q, tile := tile p.tile } })) ∧
  (∀ bs i key t0 x acc passes, busy (.ctxloadTeam f) 2 bs i (fun e => i.body = .team key t0 x acc passes ∧ sound bs ∧
    (¬ room (teamOf bs t0) passes e ∨ (c e).freeTiles (teamOf bs t0).tiles.length = none ∨ (x.isSome = true ∧ (c e).freeSeq = none)))) ∧
  (∀ bs i slots ready clk, loads (.ctxloadQueues f) 3 bs i (fun e => i.body = .queues slots ready clk ∧ b e % 256 = i.ctx ∧
      (slots.any fun t => ((c e).slot t.1).task.isSome) = false ∧ (c e).ready.length + ready.length ≤ 256) (fun e =>
    let now := Nat.max (c e).clk (oldest slots ready clk)
    let k := slots.foldl (fun k t => k.claimSlot t.1 { t.2 with entered := now - (clk - t.2.entered) }) { c e with clk := now }
    (e.s.setComb e.ck { k with ready := k.ready ++ ready.map fun r => { r with entered := now - (clk - r.entered) } }).admitRoom e.ck)) ∧
  (∀ bs i slots ready clk, busy (.ctxloadQueues f) 3 bs i (fun e => i.body = .queues slots ready clk ∧ b e % 256 = i.ctx ∧
      ((slots.any fun t => ((c e).slot t.1).task.isSome) = true ∨ 256 < (c e).ready.length + ready.length))) ∧
  (∀ bs i k bank, loads (.ctxloadFifo f) 4 bs i (fun e => i.body = .fifo k bank ∧ b e % 16 = k ∧ ((c e).bank k).mode = .fifo ∧
      ((c e).bank k).ord = bank.ord ∧ ((c e).bank k).owner = bank.owner ∧ ((c e).bank k).empty = true) (fun e => e.s.modComb e.ck fun x => x.setBank k bank)) ∧
  (∀ bs i k bank, busy (.ctxloadFifo f) 4 bs i (fun e => i.body = .fifo k bank ∧ (b e % 16 ≠ k ∨ ((c e).bank k).mode ≠ .fifo ∨ ((c e).bank k).empty = false))) ∧
  refused (.ctxloadCopies f) 5 ∧ refused (.ctxloadGroup f) 1 ∧ refused (.ctxloadTeam f) 2 ∧ refused (.ctxloadQueues f) 3 ∧ refused (.ctxloadFifo f) 4 ∧
  Blocks (.ctxloadThaw f) (ruleCtxloadThaw f) (fun e => e.s.feature 3 = true ∧ e.th.wait = .none ∧ pending e = false) (fun e s th =>
    s = { e.s with nextUid := e.s.nextUid + 1, bcasts := e.s.bcasts ++ [⟨e.s.nextUid, e.ag, e.th.uid, e.s.liveDies, .thaw (b e % 256)⟩] } ∧
    th = { e.th with wait := .answer e.s.nextUid }) ∧
  Writes (.ctxloadThaw f) (ruleCtxloadThaw f) (fun e => e.s.feature 3 = true ∧ (∃ v, e.th.wait = .answered v) ∧ pending e = false) (code 0) ∧
  Writes (.ctxloadThaw f) (ruleCtxloadThaw f) (fun e => e.s.feature 3 = true ∧ pending e = true) (code 6) ∧
  Writes (.ctxloadThaw f) (ruleCtxloadThaw f) (fun e => e.s.feature 3 = false) (code 7)

/-- Pre-emption: what is saved, the bytes of a stored image, and what is loaded. Where a field that the rules do not place stands in an image, and that what they do not lay out is kept beside it under a number, is the model's choice (log entry 25), as are the corners of log entry 27. -/
def Obligations.ContextImages : Prop :=
  Sys2Proof.Claim.SavedState ∧ Sys2Proof.Claim.ImageStored ∧ Sys2Proof.Claim.LoadedState

/-- Loads (R256, R261, R285, R287, R301): with every lane translated (or in range of the scratch), an operation of the LD
class stands for the destination registers, which no WAITC covers yet (R90), and reads the bytes at each lane's address. -/
def Sys2Proof.Claim.LoadsIssue : Prop := ∀ f : MForm,
  let n : Nat := sizeBytes f.size.toNat
  -- an LD operation of the thread with a shape and the locations each lane reads, served or still to be served
  let load (e : Env) (o : Out) (shape : LoadShape) (locs : List (Nat × List Nat)) : Prop :=
    o.trap = none ∧ o.next = .seq ∧ o.writes = [] ∧ ∃ (s' : State) (op : AsyncOp) (reads : List LaneRead) (together l1 acq : Bool),
      o.s = s'.serveComb e.ck ∧ (s'.comb e.ck).ops = (e.s.comb e.ck).ops ++ [op] ∧ op.uid = e.s.nextUid ∧ op.owner = e.ag ∧ op.ownerUid = e.th.uid ∧ op.cls = 0 ∧
      op.kind = .load shape reads [] together l1 acq 0 ∧ reads.map (fun r => (r.lane, r.locs)) = locs ∧
      ∀ k < shape.regs, shape.dst ≠ 0xFF → ∃ u ∈ o.th.uncov, u.op = op.uid ∧ u.code = shape.dst + k ∧ u.landed = false
  let shape : LoadShape := ⟨sizeSext f.size.toNat, f.d.code, sizeRegs f.size.toNat⟩
  let global (e : Env) (addr : Nat → Nat) (as : List LaneAcc) : Prop := e.laneAccs .read (fun _ => n) n false (e.each addr) = .ok as
  let locs (as : List LaneAcc) : List (Nat × List Nat) := as.map fun a => (a.lane, a.locs)
  let param (e : Env) : DWord := match Sparse.find? (e.s.comb e.ck).teams e.th.place.team with
    | some t => t.param
    | none => 0
  let off (e : Env) (i : Nat) : DWord := (e.read32 f.b i).signExtend 64 + f.offs.signExtend 64
  (∀ as, Completes (.ld f) (ruleLd f) (fun e => global e (e.ea f) as) (fun e o => load e o shape (locs as))) ∧
  (∀ as, Completes (.getv f) (ruleGetv f) (fun e => global e (e.ea f) as) (fun e o => load e o shape (locs as))) ∧
  Completes (.ldsc f) (ruleLdsc f) (fun e => e.scratchFault n n (e.each (e.eaScratch f)) = none) (fun e o =>
    load e o shape (e.each fun i => scratchLocs e.ck (e.eaScratch f i) n)) ∧
  (∀ as, Completes (.ldp f) (ruleLdp f) (fun e => e.th.place.isTask = false ∧ param e ≠ 0 ∧ global e (fun i => (param e + off e i).toNat) as)
    (fun e o => load e o shape (locs as))) ∧
  Completes (.ldp f) (ruleLdp f) (fun e => e.th.place.isTask = true ∧ e.scratchFault n n
      (e.each fun i => (BitVec.ofNat 32 ((e.s.comb e.ck).teamBase e.th.place.team) + (off e i).setWidth 32).toNat) = none) (fun e o =>
    load e o shape (e.each fun i => scratchLocs e.ck (BitVec.ofNat 32 ((e.s.comb e.ck).teamBase e.th.place.team) + (off e i).setWidth 32).toNat n)) ∧
  Completes (.prf f) (rulePrf f) always (fun e o => o.th = e.th ∧ o.writes = [])

/-- Stores (R257, R265, R285, R301, R339): each lane's datum is on its way to the bytes at its address, as one write or,
misaligned, one for each byte; in an atomic task it stands in the commit buffer instead, and no write is on its way. -/
def Sys2Proof.Claim.StoresIssue : Prop := ∀ f : MForm,
  let n : Nat := sizeBytes f.size.toNat
  let datum (e : Env) (i : Nat) : Nat := e.datum f.c f.size.toNat i
  let global (e : Env) (as : List LaneAcc) : Prop := e.laneAccs .write (fun _ => n) n false (e.each (e.ea f)) = .ok as
  -- the bytes (location, value, mask) of the writes a machine has on their way beyond those of another
  let sent (s s' : State) : List (Nat × Byte × Byte) := (s'.stores.drop s.stores.length).flatMap fun st => match st.kind with
    | .bytes items => items
    | _ => []
  let bytes (e : Env) (as : List LaneAcc) : List (Nat × Byte × Byte) := as.flatMap fun a => byteItems a.locs (datum e a.lane)
  let kept (s s' : State) : Prop := s'.stores.take s.stores.length = s.stores
  (∀ as, Completes (.st f) (ruleSt f) (fun e => e.th.place.atomic = false ∧ global e as) (fun e o =>
    o.th = e.th ∧ o.writes = [] ∧ kept e.s o.s ∧ sent e.s o.s = bytes e as)) ∧
  (∀ as, Completes (.st f) (ruleSt f) (fun e => e.th.place.atomic = true ∧ global e as ∧
      commitUsed e.th.commit + as.length * (16 + round8 n) ≤ 4096) (fun e o =>
    o.writes = [] ∧ o.s.stores = e.s.stores ∧ ∃ es : List CommitEnt, o.th.commit = e.th.commit ++ es ∧ es.map (·.payload) = as.map fun a => [datum e a.lane])) ∧
  (∀ as, Completes (.putv f) (rulePutv f) (fun e => global e as) (fun e o =>
    o.writes = [] ∧ kept e.s o.s ∧ sent e.s o.s = bytes e as ∧
      ∃ op : AsyncOp, (o.s.comb e.ck).ops.getLast? = some op ∧ op.cls = 2 ∧ op.ownerUid = e.th.uid)) ∧
  Completes (.stsc f) (ruleStsc f) (fun e => e.scratchFault n n (e.each (e.eaScratch f)) = none) (fun e o => o.th = e.th ∧ o.writes = [])

/-- The words a loaded value lands as (R285): sign-extended for the signed sizes, and its 32-bit parts for the wide ones. -/
def Sys2Proof.Claim.LoadedWords : Prop := ∀ (dst regs x : Nat),
  LoadShape.word ⟨8, dst, regs⟩ x 0 = (BitVec.ofNat 8 x).signExtend 32 ∧ LoadShape.word ⟨16, dst, regs⟩ x 0 = (BitVec.ofNat 16 x).signExtend 32 ∧
  ∀ k, LoadShape.word ⟨0, dst, regs⟩ x k = BitVec.ofNat 32 (x / 2 ^ (32 * k))

/-- Loads, stores, and the words a load lands as. -/
def Obligations.LoadsAndStores : Prop :=
  Sys2Proof.Claim.LoadsIssue ∧ Sys2Proof.Claim.StoresIssue ∧ Sys2Proof.Claim.LoadedWords

/-- A store to scratch that nothing holds up is performed at once: the bytes at its address hold its datum (R285). -/
def Sys2Proof.Claim.ScratchStoreWrites : Prop := ∀ (f : MForm) (s : State) (a : Agent) (th : Thread) (i : Nat),
  let r := ruleStsc f
  let e := s.env a th r
  let n := sizeBytes f.size.toNat
  Ready s a th r → e.lanes = [i] → f.ord = 0 → s.stores = [] → (∀ op ∈ (s.comb e.ck).ops, op.pending = []) →
  e.scratchFault n n [(i, e.eaScratch f i)] = none →
  ∃ t, exec (.stsc f) s = .next t ∧
    (∀ k < n, t.rawByte (scratchLoc e.ck (e.eaScratch f i + k)) = BitVec.ofNat 8 (e.datum f.c f.size.toNat i / 256 ^ k)) ∧
    (∀ loc, ¬ (scratchLoc e.ck (e.eaScratch f i) ≤ loc ∧ loc < scratchLoc e.ck (e.eaScratch f i) + n) → t.rawByte loc = s.rawByte loc)

/-- An atomic of one lane on scratch that nothing holds up is done at its bank at once (R292, R293): the bytes hold the new
value, the operation the old one. -/
def Sys2Proof.Claim.ScratchAtomicReturnsOldValue : Prop := ∀ (f : MForm) (s : State) (a : Agent) (th : Thread) (i : Nat),
  let n : Nat := sizeBytes f.size.toNat
  let quiet : Prop := s.stores = [] ∧ (s.comb (agentKey a)).ops = []
  let done (ck x : Nat) (t : State) (new : Nat → Nat) : Prop :=
    let old := leNat ((List.range n).map fun k => s.rawByte (scratchLoc ck (x + k)))
    (∀ k < n, t.rawByte (scratchLoc ck (x + k)) = BitVec.ofNat 8 (new old / 256 ^ k)) ∧
    ∃ op ∈ (t.comb ck).ops, op.uid = s.nextUid ∧ ∃ acq, op.kind = .load ⟨0, f.d.code, sizeRegs f.size.toNat⟩ [] [(i, old)] false false acq 0
  (let e := s.env a th (ruleAtomsc f)
   Ready s a th (ruleAtomsc f) → quiet → f.aop.toNat ≤ 14 → f.ord.toNat < 2 → e.lanes = [i] → e.scratchFault n n [(i, e.eaScratch f i)] = none →
   ∃ t, exec (.atomsc f) s = .next t ∧
     done e.ck (e.eaScratch f i) t fun old => atomNew f.aop.toNat (8 * n) old (e.datum f.c f.size.toNat i)) ∧
  (let e := s.env a th (ruleCassc f)
   Ready s a th (ruleCassc f) → quiet → f.ord.toNat < 2 → e.lanes = [i] → e.scratchFault n n [(i, e.eaCasScratch f i)] = none →
   ∃ t, exec (.cassc f) s = .next t ∧
     done e.ck (e.eaCasScratch f i) t fun old => if old = e.datum f.c f.size.toNat i then e.datum f.b f.size.toNat i else old)

/-- Scratch: a store and an atomic that nothing holds up act on the bytes at once. -/
def Obligations.ScratchEffects : Prop :=
  Sys2Proof.Claim.ScratchStoreWrites ∧ Sys2Proof.Claim.ScratchAtomicReturnsOldValue

/-- Tensor elements (R289, R290, R339): with a valid descriptor and every lane inside the tensor translated, LDTE stands as a
load that reads, in each lane inside, the element's bits at its locations or in its tile line, with FILL in the lanes outside;
STTE sends just the elements' bits of the lanes inside, to those locations or tile lines; in an atomic task they stand in the
commit buffer instead. -/
def Obligations.TensorElements : Prop := ∀ f : MForm,
  let n (e : Env) : Nat := (e.read32 f.a 0).toNat % 4096
  let ctx (e : Env) : Nat := (e.s.agentCtx e.ag).getD 0
  let desc (e : Env) (s : State) (d : Desc) : Prop := e.s.descriptor e.ck (e.s.agentCtx e.ag) (n e) = .ok s d
  let accs (e : Env) (s : State) (d : Desc) (acc : Access) (as : List LaneAcc) : Prop :=
    ({ e with s := s } : Env).elemAccs d (n e) acc (e.insideLanes f d) = .ok as
  -- the coordinates of a lane inside, and its datum
  let cs (e : Env) (d : Desc) (i : Nat) : List Nat := (((e.insideLanes f d).find? fun x => x.1 = i).map fun x => x.2).getD []
  let x (e : Env) (d : Desc) (i : Nat) : Nat := e.readWide f.c (if d.ebits = 64 then 2 else 1) i % 2 ^ d.ebits
  let ref (e : Env) (d : Desc) (i : Nat) : TileRef := d.tileRef (ctx e) (keyDie e.ck) (n e) (d.tileOf (cs e d i))
  -- (lane, locations, first bit, bits, tile line and byte in it, FILL) of a lane's read
  let read (e : Env) (d : Desc) (as : List LaneAcc) (i : Nat) : Nat × List Nat × Nat × Nat × Option (TileRef × Nat) × Option Nat :=
    match as.find? fun a => a.lane = i with
    | none => (i, [], 0, d.ebits, none, some d.fillElem)
    | some a => (i, a.locs, d.bitAddr (cs e d i) % 8, d.ebits, if d.viaTile a then some (ref e d i, d.tileBit (cs e d i) / 8) else none, none)
  -- what a machine has on its way beyond another: bytes (location, value, mask), and words of tile lines
  let new (s s' : State) : List StoreKind := (s'.stores.drop s.stores.length).map fun st => st.kind
  let bytes (ks : List StoreKind) : List (Nat × Byte × Byte) := ks.flatMap fun k => match k with
    | .bytes items => items
    | _ => []
  let tiles (ks : List StoreKind) : List (TileRef × List (Nat × Word × Word)) := ks.filterMap fun k => match k with
    | .tile line items => some (line.tile, items)
    | _ => none
  (∀ s d as, Completes (.ldte f) (ruleLdte f) (fun e => desc e s d ∧ e.runFault f.b d.ndim [(f.d, true)] (decide (d.ebits = 64)) = none ∧ accs e s d .read as) (fun e o =>
    o.trap = none ∧ o.writes = [] ∧ o.next = .seq ∧ ∃ (s' : State) (op : AsyncOp) (reads : List LaneRead) (acq l1 : Bool), o.s = s'.serveComb e.ck ∧
      (s'.comb e.ck).ops.getLast? = some op ∧ op.cls = 0 ∧ op.ownerUid = e.th.uid ∧
      op.kind = .load ⟨0, f.d.code, if d.ebits = 64 then 2 else 1⟩ reads [] false l1 acq 0 ∧
      reads.map (fun r => (r.lane, r.locs, r.bitOff, r.bits, r.tile, r.fill)) = e.lanes.map (read e d as) ∧
      ∀ k < (if d.ebits = 64 then 2 else 1), f.d.code ≠ 0xFF → ∃ u ∈ o.th.uncov, u.op = op.uid ∧ u.code = f.d.code + k ∧ u.landed = false)) ∧
  (∀ s d as, Completes (.stte f) (ruleStte f) (fun e => desc e s d ∧ e.runFault f.b d.ndim [(f.c, false)] (decide (d.ebits = 64)) = none ∧ d.w = true ∧
      e.th.place.atomic = false ∧ accs e s d .write as) (fun e o =>
    o.trap = none ∧ o.th = e.th ∧ o.writes = [] ∧ o.next = .seq ∧ o.s.stores.take s.stores.length = s.stores ∧
      (bytes (new s o.s)).Perm ((as.filter fun a => !d.viaTile a).flatMap fun a => maskItems a.locs (d.bitAddr (cs e d a.lane) % 8) d.ebits (x e d a.lane)) ∧
      tiles (new s o.s) = (as.filter d.viaTile).map fun a => (ref e d a.lane, tileItems (d.tileBit (cs e d a.lane)) d.ebits (x e d a.lane)))) ∧
  (∀ s d as, Completes (.stte f) (ruleStte f) (fun e => desc e s d ∧ e.runFault f.b d.ndim [(f.c, false)] (decide (d.ebits = 64)) = none ∧ d.w = true ∧
      e.th.place.atomic = true ∧ accs e s d .write as ∧ commitUsed e.th.commit + as.length * (16 + round8 ((d.ebits + 7) / 8)) ≤ 4096) (fun e o =>
    o.writes = [] ∧ o.next = .seq ∧ o.s.stores = s.stores ∧ ∃ es : List CommitEnt, o.th.commit = e.th.commit ++ es ∧
      es.map (fun c => (c.op, c.nums, c.payload)) = as.map fun a => (0x107, [d.bitAddr (cs e d a.lane), d.ebits, f.ord.toNat, f.scope.toNat, n e] ++ cs e d a.lane, [x e d a.lane])))

/-- Atomics (R265, R291 to R293, R301): one read-modify-write for each lane is on its way to the location of its address,
with its operation and operands; those with a result stand as an LD operation that waits for every lane's old value. -/
def Obligations.AtomicsIssue : Prop := ∀ f : MForm,
  let n : Nat := sizeBytes f.size.toNat
  let global (e : Env) (addr : Nat → Nat) (as : List LaneAcc) : Prop := e.laneAccs .write (fun _ => n) n true (e.each addr) = .ok as
  let dat (e : Env) (x : Spec) (i : Nat) : Nat := e.datum x f.size.toNat i
  let sent (s s' : State) : List (Nat × Nat × List Nat × Nat × Nat) := (s'.stores.drop s.stores.length).filterMap fun st => match st.kind with
    | .atomic op lane _ locs d c => some (op, lane, locs, d, c)
    | _ => none
  let all (e : Env) (o : Out) (as : List LaneAcc) (code : Nat) (d c : Nat → Nat) : Prop :=
    o.writes = [] ∧ o.s.stores.take e.s.stores.length = e.s.stores ∧ sent e.s o.s = as.map fun a => (code, a.lane, a.locs, d a.lane, c a.lane)
  let answer (e : Env) (o : Out) (k : Nat) : Prop := ∃ (op : AsyncOp) (acq : Bool), (o.s.comb e.ck).ops = (e.s.comb e.ck).ops ++ [op] ∧ op.cls = 0 ∧ op.ownerUid = e.th.uid ∧
    op.kind = .load ⟨0, f.d.code, sizeRegs f.size.toNat⟩ [] [] false false acq k
  let zero (_ : Nat) : Nat := 0
  -- on scratch each lane's read-modify-write goes to its bank, and is performed there when nothing holds it up
  let bank (e : Env) (o : Out) (addr : Nat → Nat) (code : Nat) (d c : Nat → Nat) : Prop := o.writes = [] ∧ ∃ (s' : State) (op : AsyncOp) (acq : Bool),
    (s'.comb e.ck).ops = (e.s.comb e.ck).ops ++ [op] ∧ op.uid = e.s.nextUid ∧ op.cls = 0 ∧ op.ownerUid = e.th.uid ∧
    op.kind = .load ⟨0, f.d.code, sizeRegs f.size.toNat⟩ [] [] false false acq e.lanes.length ∧
    o.s = (scratchAccs e.ck n (e.each addr)).foldl (fun s a => (s.addStore e.ck ((e.s.agentCtx e.ag).getD 0) (Writer.thread e.th.uid) (storeRelease (isRel f) f.scope.toNat a.mtype) a.mtype
      (.atomic code a.lane a.va a.locs (d a.lane) (c a.lane)) (some op.uid)).performLast) s'
  (∀ as, Completes (.atom f) (ruleAtom f) (fun e => global e (e.ea f) as) (fun e o => all e o as f.aop.toNat (dat e f.c) zero ∧ answer e o as.length)) ∧
  (∀ as, Completes (.atomcas f) (ruleAtomcas f) (fun e => global e (e.eaCas f) as) (fun e o => all e o as 15 (dat e f.b) (dat e f.c) ∧ answer e o as.length)) ∧
  (∀ as, Completes (.red f) (ruleRed f) (fun e => global e (e.ea f) as) (fun e o => all e o as f.aop.toNat (dat e f.c) zero ∧ o.th = e.th)) ∧
  (∀ as, Completes (.redv f) (ruleRedv f) (fun e => global e (e.ea f) as) (fun e o => all e o as f.aop.toNat (dat e f.c) zero ∧
    ∃ op : AsyncOp, (o.s.comb e.ck).ops.getLast? = some op ∧ op.cls = 2 ∧ op.ownerUid = e.th.uid)) ∧
  Completes (.atomsc f) (ruleAtomsc f) (fun e => e.scratchFault n n (e.each (e.eaScratch f)) = none) (fun e o =>
    bank e o (e.eaScratch f) f.aop.toNat (dat e f.c) zero) ∧
  Completes (.cassc f) (ruleCassc f) (fun e => e.scratchFault n n (e.each (e.eaCasScratch f)) = none) (fun e o =>
    bank e o (e.eaCasScratch f) 15 (dat e f.b) (dat e f.c))

/-- Where a memory access traps (R199, R237, R283, R292): for a group with one active lane, an address that translates to no
page traps DPAGE, a scratch address out of range SCRANGE, and a misaligned atomic DALIGN, with the address in TVAL. -/
def Obligations.MemoryAccessTraps : Prop := ∀ (f : MForm) (i : Nat),
  let n : Nat := sizeBytes f.size.toNat
  let one (e : Env) : Prop := e.lanes = [i] ∧ e.vec = true
  let at' (c x : Nat) : TrapInfo := ⟨c, laneMask [i], x % 2 ^ 32, x / 2 ^ 32⟩
  let absent (acc : Access) (e : Env) : Prop := one e ∧ e.s.transBytes e.ck (e.s.agentCtx e.ag) (e.ea f i) n acc = .error codeDPAGE
  Traps (.ld f) (ruleLd f) (absent .read) (fun e => at' codeDPAGE (e.ea f i)) ∧
  Traps (.st f) (ruleSt f) (absent .write) (fun e => at' codeDPAGE (e.ea f i)) ∧
  Traps (.atom f) (ruleAtom f) (absent .write) (fun e => at' codeDPAGE (e.ea f i)) ∧
  Traps (.atom f) (ruleAtom f) (fun e => one e ∧ e.ea f i % n ≠ 0 ∧ ∃ ls, e.s.transBytes e.ck (e.s.agentCtx e.ag) (e.ea f i) n .write = .ok ls ∧ ls.1.place ≠ 3 ∧ ls.2.place ≠ 3)
    (fun e => at' codeDALIGN (e.ea f i)) ∧
  Traps (.ldsc f) (ruleLdsc f) (fun e => one e ∧ 2 ^ 21 ≤ e.eaScratch f i) (fun e => at' codeSCRANGE (e.eaScratch f i)) ∧
  Traps (.stsc f) (ruleStsc f) (fun e => one e ∧ 2 ^ 21 ≤ e.eaScratch f i) (fun e => at' codeSCRANGE (e.eaScratch f i))

/-- Named barriers (R379 to R381): BARI clears one, BARA arrives after the group's release, BARW arrives and goes on when the
phase it joined is complete; an impossible count is BARCOUNT. -/
def Sys2Proof.Claim.NamedBarriers : Prop := ∀ f : SForm,
  let b : Nat := f.imm.toNat % 16
  let released (e : Env) : Prop := e.s.releaseDone e.ck e.th.uid 1 e.s.nextUid = true
  let arrives (e : Env) (x : Comb × Nat) : Prop := released e ∧ (e.s.comb e.ck).arrive e.th.place.team b (e.barCount f) = .ok x
  let team (c : Comb) (e : Env) : Option Barrier := (Sparse.find? c.teams e.th.place.team).map fun t => t.barrier b
  (∀ t, Completes (.bari f) (ruleBari f) (fun e => Sparse.find? (e.s.comb e.ck).teams e.th.place.team = some t ∧ b < t.barriers.length) (fun e o =>
    o.th = e.th ∧ o.writes = [] ∧ team (o.s.comb e.ck) e = some { t.barrier b with arrivals := 0, expect := 0 })) ∧
  (∀ x, Completes (.bara f) (ruleBara f) (fun e => arrives e x) (fun e o => o = ⟨e.s.setComb e.ck x.1, e.th, [], 0, none, .seq⟩)) ∧
  (∀ x, Completes (.barw f) (ruleBarw f) (fun e => e.th.wait = .none ∧ arrives e x ∧ ((e.s.setComb e.ck x.1).comb e.ck).phases e.th.place.team b ≠ x.2) (fun e o =>
    o = ⟨e.s.setComb e.ck x.1, e.th, [], 0, none, .seq⟩)) ∧
  (∀ x, Blocks (.barw f) (ruleBarw f) (fun e => e.th.wait = .none ∧ arrives e x ∧ ((e.s.setComb e.ck x.1).comb e.ck).phases e.th.place.team b = x.2) (fun e s th =>
    s = e.s.setComb e.ck x.1 ∧ th = { e.th with wait := .phase b x.2 })) ∧
  (∀ b' ph, Completes (.barw f) (ruleBarw f) (fun e => e.th.wait = .phase b' ph ∧ (e.s.comb e.ck).phases e.th.place.team b ≠ ph) (fun e o =>
    o = ⟨e.s, e.th, [], 0, none, .seq⟩)) ∧
  (∀ x, Traps (.bara f) (ruleBara f) (fun e => released e ∧ (e.s.comb e.ck).arrive e.th.place.team b (e.barCount f) = .error x)
    (fun e => ⟨codeBARCOUNT, e.th.em, b, x⟩)) ∧
  -- the arithmetic of an arrival of count n
  (∀ (x : Barrier) (n : Nat), 1 ≤ n → n ≤ 255 → (x.expect = 0 ∨ n = x.expect) →
    x.arrive n = .ok (if x.arrivals + 1 = n then (⟨0, 0, (x.phases + 1) % 2 ^ 16⟩, x.phases) else (⟨n, x.arrivals + 1, x.phases⟩, x.phases))) ∧
  (∀ (x : Barrier) (n : Nat), (n = 0 ∨ 255 < n ∨ (x.expect ≠ 0 ∧ n ≠ x.expect)) → x.arrive n = .error x.expect)

/-- Transaction barriers (R382 to R386) at a scratch address that is aligned and in range, with nothing of the group on its way
to it: TBINIT sets one, TBEXP changes its sectors and arrives, TBARR arrives, TBWAIT goes on when the phase differs. -/
def Sys2Proof.Claim.TransactionBarriers : Prop := ∀ f : SForm,
  let x (e : Env) : Nat := (e.read32 f.a 0).toNat
  let ok (e : Env) : Prop := e.scratchFault 16 16 [(0, x e)] = none ∧ e.txBusy (x e) = false
  let bar (e : Env) : TxBar := (e.s.comb e.ck).txBar (x e)
  let into (g : TxBar → TxBar) (e : Env) (o : Out) : Prop := o = ⟨e.s.modComb e.ck fun c => c.modTxBar (x e) g, e.th, [], 0, none, .seq⟩
  let k (e : Env) : Nat := if f.sub.getLsbD 0 then f.imm.toNat else (e.read32 f.b 0).toNat % 2 ^ 24
  let p (e : Env) : Nat := if f.sub.getLsbD 0 then f.imm.toNat % 16 else (e.read32 f.b 0).toNat % 16
  let arr : Bool := f.sub.getLsbD 2
  let less : Bool := f.sub.getLsbD 1
  let fits (e : Env) : Prop := if less then k e ≤ (bar e).sect else (bar e).sect + k e < 2 ^ 24
  let released (e : Env) : Prop := arr = true → e.s.releaseDone e.ck e.th.uid 1 e.s.nextUid = true
  let full (t : TxBar) : TxBar := t.flip
  Completes (.tbinit f) (ruleTbinit f) ok (fun e o => into (fun _ => full ⟨f.imm.toNat, false, 0, f.imm.toNat, 0⟩) e o) ∧
  Completes (.tbexp f) (ruleTbexp f) (fun e => ok e ∧ fits e ∧ released e) (fun e o =>
    into (fun t => (if arr then ({ t with sect := if less then (bar e).sect - k e else (bar e).sect + k e } : TxBar).arrive
      else { t with sect := if less then (bar e).sect - k e else (bar e).sect + k e }).flip) e o) ∧
  Traps (.tbexp f) (ruleTbexp f) (fun e => ok e ∧ ¬ fits e ∧ released e) (fun e => ⟨codeTBOVER, e.th.em, x e, 0⟩) ∧
  Completes (.tbarr f) (ruleTbarr f) (fun e => ok e ∧ e.s.releaseDone e.ck e.th.uid 1 e.s.nextUid = true) (fun e o =>
    o.writes = [] ∧ ∃ op : AsyncOp, (o.s.comb e.ck).ops = (e.s.comb e.ck).ops ++ [op] ∧ op.cls = 0 ∧ op.ownerUid = e.th.uid ∧
      op.kind = .values (e.write32 f.d false [(0, BitVec.ofNat 32 (bar e).phase)]) ∧
      (o.s.comb e.ck).scratch = ((e.s.comb e.ck).modTxBar (x e) fun t => t.arrive.flip).scratch) ∧
  Writes (.tbwait f) (ruleTbwait f) (fun e => ok e ∧ (bar e).phase ≠ p e) (fun e =>
    e.write32 f.d false [(0, BitVec.ofNat 32 ((bar e).phase + 16 * (bar e).err.toNat))]) ∧
  Blocks (.tbwait f) (ruleTbwait f) (fun e => ok e ∧ (bar e).phase = p e) (fun e s th => s = e.s ∧ th = { e.th with wait := .again }) ∧
  -- the 128 bits keep every field in its range
  (∀ t : TxBar, t.phase < 16 → t.arr < 2 ^ 20 → t.sect < 2 ^ 24 → t.expect < 2 ^ 20 → TxBar.ofNat t.toNat = t)

/-- WAITC, OWAIT and ORELS (R387, R388, R391). -/
def Sys2Proof.Claim.WaitsAndOrder : Prop := ∀ f : SForm,
  let mask : Nat := f.imm.toNat % 16
  let low (e : Env) : Prop := ((List.range 4).any fun k => mask.testBit k && decide (f.imm.toNat / 16 < (e.s.comb e.ck).outstanding e.th.uid k)) = false
  let covered (u : Uncov) : Bool := u.landed && mask.testBit u.cls
  let good (e : Env) : Prop := (e.th.uncov.filter covered).flatMap (·.bad) = []
  let r : Nat := f.imm.toNat % 64
  let now (e : Env) : Nat := (e.s.comb e.ck).order r
  let want (e : Env) : Nat := (e.read32 f.a 0).toNat % 2 ^ 16
  let released (e : Env) : Prop := e.s.releaseDone e.ck e.th.uid 2 e.s.nextUid = true
  Completes (.waitc f) (ruleWaitc f) (fun e => low e ∧ good e) (fun e o =>
    o = ⟨e.s, { e.th with uncov := e.th.uncov.filter fun u => !covered u }, [], 0, none, .seq⟩) ∧
  Blocks (.waitc f) (ruleWaitc f) (fun e => ¬ low e) (fun e s th => s = e.s ∧ th = { e.th with wait := .again }) ∧
  Completes (.owait f) (ruleOwait f) (fun e => now e = want e) (fun e o => o = ⟨e.s.dropL1 e.ck, e.th, [], 0, none, .seq⟩) ∧
  Blocks (.owait f) (ruleOwait f) (fun e => now e ≠ want e) (fun e s th => s = e.s ∧ th = { e.th with wait := .again }) ∧
  Completes (.orels f) (ruleOrels f) released (fun e o => o.th = e.th ∧ o.writes = [] ∧
    o.s = e.s.modComb e.ck fun c => { c with rorder := Sparse.set 0 c.rorder r ((c.order r + 1) % 2 ^ 16) }) ∧
  Completes (.orelsSet f) (ruleOrelsSet f) released (fun e o => o.th = e.th ∧ o.writes = [] ∧
    o.s = e.s.modComb e.ck fun c => { c with rorder := Sparse.set 0 c.rorder r ((e.read32 f.a 0).toNat % 2 ^ 16) })

/-- Named barriers, transaction barriers in scratch, and the waits for outstanding operations. -/
def Obligations.BarriersAndWaits : Prop :=
  Sys2Proof.Claim.NamedBarriers ∧ Sys2Proof.Claim.TransactionBarriers ∧ Sys2Proof.Claim.WaitsAndOrder

/-- Copies (R294 to R296, R299, R387): with the descriptor valid, the run of coordinates within the registers and every
scratch range held, a copy stands in the CP class with the values of its operands, none of its sectors done. -/
def Sys2Proof.Claim.CopiesIssue : Prop := ∀ f : MForm,
  let started (e : Env) (s : State) (o : Out) (c : CopyOp) : Prop :=
    o.writes = [] ∧ o.th = e.th ∧ o.next = .seq ∧ ∃ op : AsyncOp, o.s = { s with nextUid := s.nextUid + 1 }.modComb e.ck (fun k => { k with ops := k.ops ++ [op] }) ∧
      op.uid = s.nextUid ∧ op.owner = e.ag ∧ op.ownerUid = e.th.uid ∧ op.cls = 1 ∧ op.kind = .copy c
  let n (e : Env) : Nat := (e.read32 f.a 0).toNat % 4096
  let a (e : Env) : Nat := (e.read32 f.c 0).toNat
  let bar (e : Env) : Option Nat := if f.d = .sink then none else some (e.read32 f.d 0).toNat
  let barRange (e : Env) : List (Nat × Nat × Nat) := if f.d = .sink then [] else [((e.read32 f.d 0).toNat, 16, 16)]
  let tile (e : Env) (s : State) (d : Desc) : Prop := e.s.descriptor e.ck (e.s.agentCtx e.ag) (n e) = .ok s d ∧ e.runFault f.b d.ndim [] false = none
  let coords (e : Env) (d : Desc) : List Nat := (List.range 5).map fun k => if k < d.ndim then (BitVec.ofInt 32 (e.runReg f.b k 0)).toNat else 0
  let copy (e : Env) (op : Nat) (d : Desc) (b : Option Nat) (ru : Bool) (rs : List CopyRecv) : CopyOp :=
    { op := op, nums := n e :: a e :: coords e d ++ d.nums, ntf := f.aop.getLsbD 0, ru := ru, barrier := b, sectors := 8, done := [], recvs := rs, paused := none, ended := false, ruDone := false }
  let rows (e : Env) (as : List LaneAcc) : Prop := e.laneAccs .read (fun _ => 2 ^ f.size.toNat) 1 false (e.each fun i => (e.read64 f.a i).toNat) = .ok as
  let len (e : Env) : Nat := (e.read32 f.c 0).toNat
  let at' (e : Env) (x : Spec) (scratch : Bool) : Nat := if scratch then (e.read32 x 0).toNat else (e.read64 x 0).toNat
  let ds := f.aop.getLsbD 2
  let ss := f.aop.getLsbD 3
  let lineOk (e : Env) : Prop :=
    e.scratchRanges ((if ds then [(at' e f.a ds, len e, 1)] else []) ++ (if ss then [(at' e f.b ss, len e, 1)] else []) ++ barRange e) = none
  (∀ s d, Completes (.copy f) (ruleCopyOp f) (fun e => tile e s d ∧ e.scratchRanges ((a e, 1024, 128) :: barRange e) = none)
    (fun e o => started e s o (copy e 0x120 d (bar e) false []))) ∧
  (∀ s d, Completes (.copyo f) (ruleCopyo f) (fun e => tile e s d ∧ d.w = true ∧ e.scratchRanges [(a e, 1024, 128)] = none)
    (fun e o => started e s o (copy e 0x121 d none (f.aop.getLsbD 1) []))) ∧
  (∀ s d, Completes (.copym f) (ruleCopym f) (fun e => tile e s d ∧ e.scratchRanges [(a e, 16 * (f.size.toNat + 1), 16)] = none)
    (fun e o => started e s o (copy e 0x122 d none false (e.receivers (a e) (f.size.toNat + 1) s)))) ∧
  (∀ as, Completes (.gather f) (ruleGather f) (fun e => rows e as ∧ (∀ i ∈ e.lanes, (e.read64 f.a i).toNat % 2 ^ f.size.toNat = 0) ∧
      e.scratchRanges ((e.lanes.map fun i => (a e + i * 2 ^ f.size.toNat, 2 ^ f.size.toNat, 1)) ++ barRange e) = none)
    (fun e o => ∃ c : CopyOp, started e (e.s.noteAccs e.ck ((e.s.agentCtx e.ag).getD 0) .read as) o c ∧ c.op = 0x123 ∧
      c.nums = 2 ^ f.size.toNat :: a e :: as.flatMap (fun x => [x.lane, x.va]) ∧ c.barrier = bar e ∧ c.done = [] ∧ c.ended = false)) ∧
  Completes (.copyl f) (ruleCopyl f) (fun e => lineOk e ∧ len e ≠ 0)
    (fun e o => ∃ c : CopyOp, started e e.s o c ∧ c.op = 0x124 ∧ c.nums = [at' e f.a ds, at' e f.b ss, len e, ds.toNat, ss.toNat] ∧
      c.sectors = (at' e f.a ds % 128 + len e + 127) / 128 ∧ c.barrier = bar e ∧ c.done = [] ∧ c.ended = false) ∧
  -- a length of 0 is complete at issue
  Completes (.copyl f) (ruleCopyl f) (fun e => lineOk e ∧ len e = 0 ∧ f.aop.getLsbD 0 = false) (fun e o => o.s = e.s ∧ o.th = e.th ∧ o.writes = [] ∧ o.next = .seq) ∧
  Completes (.copyl f) (ruleCopyl f) (fun e => lineOk e ∧ len e = 0 ∧ f.aop.getLsbD 0 = true ∧ (e.s.comb e.ck).canPost = true)
    (fun e o => o.th = e.th ∧ o.writes = [] ∧ o.next = .seq ∧ (o.s.comb e.ck).ops = (e.s.comb e.ck).ops) ∧
  (∀ s d, Traps (.copyo f) (ruleCopyo f) (fun e => tile e s d ∧ d.w = false) (fun e => ⟨codeTDBAD, e.th.em, n e, 8⟩))

/-- CCANCEL (R300): every copy of the agent is ended after it, none of its sectors written any more, every operation that is
no copy of the agent is as before, no record is posted, and D receives how many copies it stopped. (An ended copy completes in CP once its
writes to the die are performed.) -/
def Sys2Proof.Claim.CopyCancel : Prop := ∀ f : MForm,
  let old (e : Env) : List AsyncOp := (e.s.comb e.ck).ops
  let stops (e : Env) (op : AsyncOp) : Bool := match op.kind with
    | .copy c => decide (op.ownerUid = e.th.uid) && !c.ended
    | _ => false
  Completes (.ccancel f) (ruleCcancel f) always (fun e o =>
    o.th = e.th ∧ o.next = .seq ∧ o.writes = e.write32 f.d false [(0, BitVec.ofNat 32 ((old e).filter (stops e)).length)] ∧
    (o.s.comb e.ck).ops.map (·.uid) = (old e).map (·.uid) ∧
    (∀ op ∈ (o.s.comb e.ck).ops, stops e op = false) ∧
    (∀ op ∈ old e, (∀ m ∈ old e, stops e m = true → m.uid ≠ op.uid) → op ∈ (o.s.comb e.ck).ops) ∧
    (∀ op ∈ old e, ∀ c, op.kind = .copy c → op.ownerUid = e.th.uid → (∀ m ∈ old e, m.uid = op.uid → m = op) →
      { op with kind := .copy { c with ended := true } } ∈ (o.s.comb e.ck).ops) ∧
    (o.s.comb e.ck).evq = (e.s.comb e.ck).evq ∧ (o.s.comb e.ck).overflow = (e.s.comb e.ck).overflow ∧ o.s.stores = e.s.stores ∧ o.s.hbm = e.s.hbm)

/-- Copies: what is issued and what CCANCEL leaves. -/
def Obligations.Copies : Prop :=
  Sys2Proof.Claim.CopiesIssue ∧ Sys2Proof.Claim.CopyCancel

/-- Posting a pass (R308, R311, R313, R315 to R317): an instruction whose checks all pass and for which the reservation table has
room adds one pass, at the end of the queue of its stream, that holds the accumulator's physical tile, the registers of its
block and its tensors' descriptors, and changes nothing else. -/
def Sys2Proof.Claim.PassesPost : Prop := ∀ f : SForm,
  let q (e : Env) : Nat := e.ag.src % 0x40
  let room (e : Env) (s : State) : Prop := (s.comb e.ck).passes.length < 16 ∧ ((s.comb e.ck).passes.filter fun p => p.seq = q e).length < 8
  let posted (e : Env) (s : State) (o : Out) (op tile : Nat) (xs : List DWord) (ds : List (List Nat)) : Prop :=
    o.th = e.th ∧ o.writes = [] ∧ o.next = .seq ∧ o.s = { s with nextUid := s.nextUid + 1 }.modComb e.ck fun c => { c with passes := c.passes ++
      [(⟨s.nextUid, q e, op, tile, f.sub.toNat, f.imm.toNat, xs, ds, e.th.pc, 0, false, 0, false, none, e.t, 0⟩ : Pass)] }
  let block (n : Nat) (e : Env) : List DWord := (List.range n).map fun i => e.xreg (f.a.code - 0x80 + i)
  let start (e : Env) (n tile : Nat) : Prop := (∃ k, f.a = .s k ∧ k.val + n ≤ 32) ∧ e.accTile f.d = .ok tile
  let fine (e : Env) (n op tile : Nat) (bad : Pass → Option Nat) (al : Pass → List Nat) (runs : Pass → List (Nat × Nat)) : Prop :=
    let p := Pass.draft op tile f (block n e)
    start e n tile ∧ bad p = none ∧ (∀ x ∈ al p, x % 16 = 0) ∧ e.matScratch (runs p) = none
  let move (p : Pass) : List Nat := if p.imm % 4 = 2 then [] else [p.reg 0, p.opM.stride]
  let row (e : Env) (op tile : Nat) : Prop :=
    let p := Pass.draft op tile f (block 2 e)
    start e 2 tile ∧ badMN (p.reg 1) = false ∧ p.reg 1 % 2 ^ 32 = 0 ∧ p.reg 0 < 2 ^ 21 ∧ p.reg 0 % 4 = 0 ∧ e.matScratch [(p.reg 0, 128)] = none ∧ room e e.s
  (∀ s tile ds, Completes (.mma f) (ruleMma f) (fun e => fine e (mmaBlock f) 0x140 tile Pass.mmaBad Pass.mmaAligns Pass.mmaRuns ∧
      e.mmaDescs (Pass.draft 0x140 tile f (block (mmaBlock f) e)) = .ok (s, ds) ∧ room e s)
    (fun e o => posted e s o 0x140 tile (block (mmaBlock f) e) ds)) ∧
  (∀ tile, Completes (.mzero f) (ruleMzero f) (fun e => e.accTile f.d = .ok tile ∧ room e e.s) (fun e o => posted e e.s o 0x141 tile [] [])) ∧
  (∀ s tile ds, Completes (.mst f) (matMoveRule 0x142 f) (fun e => fine e 2 0x142 tile Pass.moveBad move Pass.moveRuns ∧
      e.moveDescs (Pass.draft 0x142 tile f (block 2 e)) true = .ok (s, ds) ∧ room e s) (fun e o => posted e s o 0x142 tile (block 2 e) ds)) ∧
  (∀ s tile ds, Completes (.mld f) (matMoveRule 0x143 f) (fun e => fine e 2 0x143 tile Pass.moveBad move Pass.moveRuns ∧
      e.moveDescs (Pass.draft 0x143 tile f (block 2 e)) false = .ok (s, ds) ∧ room e s) (fun e o => posted e s o 0x143 tile (block 2 e) ds)) ∧
  (∀ tile, Completes (.mrows f) (matRowRule 0x144 f) (fun e => row e 0x144 tile) (fun e o => posted e e.s o 0x144 tile (block 2 e) [])) ∧
  (∀ tile, Completes (.mrowmax f) (matRowRule 0x145 f) (fun e => row e 0x145 tile) (fun e o => posted e e.s o 0x145 tile (block 2 e) [])) ∧
  (∀ tile, Completes (.mrowsum f) (matRowRule 0x146 f) (fun e => row e 0x146 tile) (fun e o => posted e e.s o 0x146 tile (block 2 e) []))

/-- Barriers of a stream (R318, R319): MBAR arrives, at once or, with DONE, behind the passes posted before it; MWAITB takes one
completed phase that the stream has not seen, or waits for it. -/
def Sys2Proof.Claim.StreamBarriers : Prop := ∀ f : SForm,
  let b : Nat := f.imm.toNat % 16
  let q (e : Env) : Nat := e.ag.src % 0x40
  let wait : Bool := f.sub.getLsbD 1
  let arrives (e : Env) (x : Comb × Nat) : Prop := (e.s.comb e.ck).arrive e.th.place.team b (f.imm.toNat / 16 % 256) = .ok x
  let nothingBefore (e : Env) (x : Seq) : Prop := Sparse.find? (e.s.comb e.ck).seqs (q e) = some x ∧ x.deferred = [] ∧ ((e.s.comb e.ck).passes.filter fun p => p.seq = q e) = []
  let unseen (e : Env) : Nat := ((e.s.comb e.ck).phases e.th.place.team b + 2 ^ 16 - (e.s.comb e.ck).seen (q e) b) % 2 ^ 16
  (∀ x y, Completes (.mbar f) (ruleMbar f) (fun e => e.th.wait = .none ∧ wait = false ∧ (f.sub.getLsbD 0 = true → nothingBefore e y) ∧ arrives e x)
    (fun e o => o = ⟨e.s.setComb e.ck x.1, e.th, [], 0, none, .seq⟩)) ∧
  (∀ x, Completes (.mbar f) (ruleMbar f) (fun e => e.th.wait = .none ∧ f.sub.getLsbD 0 = true ∧ wait = false ∧ Sparse.find? (e.s.comb e.ck).seqs (q e) = some x ∧
      ((e.s.comb e.ck).passes.filter fun p => p.seq = q e) ≠ [])
    (fun e o => o.th = e.th ∧ o.writes = [] ∧ ∃ d : Deferred, (Sparse.find? (o.s.comb e.ck).seqs (q e)) = some { x with deferred := x.deferred ++ [d] } ∧
      d.passes = ((e.s.comb e.ck).passes.filter fun p => p.seq = q e).map (·.uid))) ∧
  (∀ x y, Blocks (.mbar f) (ruleMbar f) (fun e => e.th.wait = .none ∧ wait = true ∧ (f.sub.getLsbD 0 = true → nothingBefore e y) ∧ arrives e x ∧
      ((e.s.setComb e.ck x.1).comb e.ck).phases e.th.place.team b = x.2) (fun e s th => s = e.s.setComb e.ck x.1 ∧ th = { e.th with wait := .phase b x.2 })) ∧
  (∀ b' ph, Completes (.mbar f) (ruleMbar f) (fun e => e.th.wait = .phase b' ph ∧ wait = true ∧ (e.s.comb e.ck).phases e.th.place.team b' ≠ ph)
    (fun e o => o.th = e.th ∧ o.writes = [] ∧ o.next = .seq ∧ o.s = e.s.modComb e.ck fun c => c.setSeen (q e) b' ((e.s.comb e.ck).phases e.th.place.team b'))) ∧
  (∀ x y, Completes (.mbar f) (ruleMbar f) (fun e => e.th.wait = .none ∧ wait = true ∧ (f.sub.getLsbD 0 = true → nothingBefore e y) ∧ arrives e x ∧
      ((e.s.setComb e.ck x.1).comb e.ck).phases e.th.place.team b ≠ x.2)
    (fun e o => o.th = e.th ∧ o.writes = [] ∧ o.next = .seq ∧ o.s = (e.s.setComb e.ck x.1).modComb e.ck fun c => c.setSeen (q e) b (x.1.phases e.th.place.team b))) ∧
  Completes (.mwaitb f) (ruleMwaitb f) (fun e => unseen e ≠ 0) (fun e o =>
    o = ⟨e.s.modComb e.ck fun c => c.setSeen (q e) b (((e.s.comb e.ck).seen (q e) b + 1) % 2 ^ 16), e.th, [], 0, none, .seq⟩) ∧
  Blocks (.mwaitb f) (ruleMwaitb f) (fun e => unseen e = 0) (fun e s th => s = e.s ∧ th = { e.th with wait := .again })

/-- What the instructions of the matrix engine post, and the barriers of a stream. -/
def Obligations.MatrixPasses : Prop :=
  Sys2Proof.Claim.PassesPost ∧ Sys2Proof.Claim.StreamBarriers

/-- SPAWN and SEND (R326, R327, R336, R337, R340, R367): a record that breaks no rule is counted at its station or channel and
leaves as a message for another comb, or makes a task or an arrival here; an atomic task buffers it. -/
def Sys2Proof.Claim.RecordsLeave : Prop := ∀ f : SForm,
  let ctx (e : Env) : Nat := (e.s.agentCtx e.ag).getD 0
  let x (e : Env) : Nat := (e.read32 f.a 0).toNat
  let bytes (e : Env) : List Byte := (List.range 64).map fun i => e.s.rawByte (scratchLoc e.ck (x e + i))
  let r (e : Env) : TaskRec := TaskRec.ofBytes (bytes e)
  let ch (e : Env) : Nat := (e.read32 f.b 0).toNat % 64
  let fits (e : Env) (loc : Nat) : Prop := e.scratchFault 64 64 [(0, x e)] = none ∧ e.s.recBad (keyDie e.ck) (ctx e) (bytes e) = false ∧
    e.s.recTarget e.ck (r e) ≠ .nothing ∧ e.s.recTarget e.ck (r e) ≠ .stale ∧
    ∀ fl, e.s.findFlow (keyDie e.ck) (ctx e) (r e).flow = some fl → e.th.timeBack fl loc (r e).time.toNat = false
  let open' (e : Env) : Prop := ∃ fl, e.s.findFlow (keyDie e.ck) (ctx e) (r e).flow = some fl ∧ fl.chan.testBit (ch e) = true
  let away (e : Env) (name die : Nat) : Prop := e.th.place.atomic = false ∧ e.s.recTarget e.ck (r e) = .other name die ∧
    e.s.releaseDone e.ck e.th.uid ((Target.other name die).scope e.ck) e.s.nextUid = true ∧ (e.s.comb e.ck).outstanding e.th.uid 3 < 63
  let here (e : Env) : Prop := e.th.place.atomic = false ∧ e.s.recTarget e.ck (r e) = .here ∧ e.s.releaseDone e.ck e.th.uid 2 e.s.nextUid = true
  let counted (e : Env) (loc : Nat) : State × Thread := e.s.count e.ck (ctx e) e.th (r e).flow loc (r e).time false 1
  let sent (e : Env) (o : Out) (op name : Nat) (body : MsgBody) : Prop := o.writes = [] ∧ ∃ m ∈ o.s.msgs, m.op = op ∧ m.ctx = ctx e ∧
    m.name = BitVec.ofNat 32 name ∧ m.carriesGen = true ∧ m.stage = .outbound ∧ m.sender = some e.th.uid ∧ m.body = body
  let buffered (e : Env) (o : Out) (op : Nat) (nums : List Nat) : Prop := o.s = e.s ∧
    o.th = { e.th with commit := e.th.commit ++ [⟨op, 80, e.th.pc, nums, [(r e).num]⟩] }
  (∀ name die, Completes (.spawn f) (ruleSpawn f) (fun e => fits e (r e).station ∧ away e name die) (fun e o =>
    sent e o 0x180 name (.task (r e) none (some (counted e (r e).station).1.nextUid)))) ∧
  (∀ s h, Completes (.spawn f) (ruleSpawn f) (fun e => fits e (r e).station ∧ here e ∧ e.s.create e.ck (ctx e) (r e) (rankLocal e.s.nextUid) = some (s, h))
    (fun e o => let c := s.count e.ck (ctx e) e.th (r e).flow (r e).station (r e).time false 1
      o = ⟨c.1, c.2, e.write32 f.d false [(0, BitVec.ofNat 32 h)], 0, none, .seq⟩)) ∧
  Completes (.spawn f) (ruleSpawn f) (fun e => fits e (r e).station ∧ e.th.place.atomic = true ∧ commitUsed e.th.commit + 80 ≤ 4096)
    (fun e o => buffered e o 0x180 []) ∧
  (∀ name die, Completes (.send f) (ruleSend f) (fun e => fits e (ch e) ∧ open' e ∧ away e name die) (fun e o =>
    sent e o 0x190 name (.task (r e) (some (ch e)) none))) ∧
  Completes (.send f) (ruleSend f) (fun e => fits e (ch e) ∧ open' e ∧ here e) (fun e o =>
    o.writes = [] ∧ o.th = (counted e (ch e)).2 ∧ ∃ m ∈ o.s.msgs, m.stage = .arrived (keyDie e.ck) (keyComb e.ck) ∧ m.body = .task (r e) (some (ch e)) none) ∧
  Completes (.send f) (ruleSend f) (fun e => fits e (ch e) ∧ open' e ∧ e.th.place.atomic = true ∧ commitUsed e.th.commit + 80 ≤ 4096)
    (fun e o => buffered e o 0x190 [ch e]) ∧
  Traps (.spawn f) (ruleSpawn f) (fun e => e.scratchFault 64 64 [(0, x e)] = none ∧ e.s.recBad (keyDie e.ck) (ctx e) (bytes e) = true)
    (fun e => ⟨codeBADSPEC, e.th.em, f.a.code, 0⟩) ∧
  Traps (.send f) (ruleSend f) (fun e => fits e (ch e) ∧ ∃ fl, e.s.findFlow (keyDie e.ck) (ctx e) (r e).flow = some fl ∧ fl.chan.testBit (ch e) = false)
    (fun e => ⟨codeBADSPEC, e.th.em, f.b.code, 0⟩)

/-- The record of a task in its 64 bytes (R326). -/
def Sys2Proof.Claim.RecordBytes : Prop := ∀ r : TaskRec, r.args.length = 8 → r.bytes.length = 64 ∧ TaskRec.ofBytes r.bytes = r

/-- Tasks: the record as it leaves its station, and its bytes. That an atomic SPAWN's D is a free value is log entry 22. -/
def Obligations.TaskRecords : Prop :=
  Sys2Proof.Claim.RecordsLeave ∧ Sys2Proof.Claim.RecordBytes

/-- DEPSET and DEPDEC (R389, R390): at a waiting task's slot of this comb the counter becomes the value, or loses it, and at 0 the
task leaves the slot; for another comb the instruction sends the request and waits for its answer; an atomic task buffers it;
an underflow is DEPUNDER. -/
def Obligations.DependencyCounters : Prop := ∀ f : SForm,
  let h (e : Env) : Word := e.read32 f.a 0
  let v (e : Env) : Nat := if f.sub.getLsbD 0 then f.imm.toNat % 2 ^ 16 else (e.read32 f.b 0).toNat % 2 ^ 16
  let w : Nat := f.imm.toNat % 256
  let first (e : Env) : Prop := e.th.wait = .none
  let here (e : Env) : Prop := first e ∧ e.th.place.atomic = false ∧ e.s.nameTarget e.ck (handleName (h e)) = .here ∧ e.s.releaseDone e.ck e.th.uid 2 e.s.nextUid = true
  let away (e : Env) (name die : Nat) : Prop := first e ∧ e.th.place.atomic = false ∧ e.s.nameTarget e.ck (handleName (h e)) = .other name die ∧
    e.s.releaseDone e.ck e.th.uid ((Target.other name die).scope e.ck) e.s.nextUid = true ∧ (e.s.comb e.ck).outstanding e.th.uid 3 < 63
  let slot (e : Env) : TaskSlot := (e.s.comb e.ck).slot ((h e).toNat % 1024)
  let waiting (e : Env) : Prop := (slot e).task.isSome = true ∧ (h e).toNat / 2 ^ 28 = (slot e).seq ∧ (slot e).roomOnly = false
  let set (e : Env) (n : Nat) : Comb := { e.s.comb e.ck with table := Sparse.set TaskSlot.reset (e.s.comb e.ck).table ((h e).toNat % 1024) { slot e with counter := n } }
  let left (e : Env) (n : Nat) : State :=
    if n = 0 then (e.s.setComb e.ck ((set e n).releaseSlot ((h e).toNat % 1024))).stampJournal e.ck else e.s.setComb e.ck (set e n)
  let under (e : Env) : TrapInfo := ⟨codeDEPUNDER, e.th.em, (h e).toNat / 2 ^ 10 % 2 ^ 18, (h e).toNat % 1024⟩
  let asked (e : Env) (s : State) (th : Thread) (op name : Nat) (isSet : Bool) (n : Nat) : Prop := ∃ u, th.wait = .answer u ∧ ∃ m ∈ s.msgs,
    m.op = op ∧ m.name = BitVec.ofNat 32 name ∧ m.stage = .outbound ∧ m.body = .dep isSet (h e) n (some u) none
  let buffered (e : Env) (o : Out) (op n : Nat) : Prop := o = ⟨e.s, { e.th with commit := e.th.commit ++ [⟨op, 16, e.th.pc, [(h e).toNat, n], []⟩] }, [], 0, none, .seq⟩
  let ready (e : Env) : Prop := first e ∧ e.th.place.atomic = true ∧ (e.s.nameTarget e.ck (handleName (h e)) = .here ∨ ∃ n d, e.s.nameTarget e.ck (handleName (h e)) = .other n d) ∧
    commitUsed e.th.commit + 16 ≤ 4096
  Completes (.depset f) (ruleDepset f) (fun e => here e ∧ waiting e) (fun e o => o = ⟨left e (v e), e.th, [], 0, none, .seq⟩) ∧
  Completes (.depdec f) (ruleDepdec f) (fun e => here e ∧ waiting e ∧ w ≤ (slot e).counter) (fun e o => o = ⟨left e ((slot e).counter - w), e.th, [], 0, none, .seq⟩) ∧
  Traps (.depdec f) (ruleDepdec f) (fun e => here e ∧ waiting e ∧ (slot e).counter < w) under ∧
  Traps (.depdec f) (ruleDepdec f) (fun e => here e ∧ (slot e).task.isNone = true) under ∧
  Traps (.depset f) (ruleDepset f) (fun e => here e ∧ (slot e).task.isNone = true) (fun e => ⟨codeBADSPEC, e.th.em, f.a.code, 0⟩) ∧
  (∀ name die, Blocks (.depset f) (ruleDepset f) (fun e => away e name die) (fun e s th => asked e s th 0x1C8 name true (v e))) ∧
  (∀ name die, Blocks (.depdec f) (ruleDepdec f) (fun e => away e name die) (fun e s th => asked e s th 0x1C9 name false w)) ∧
  (∀ n, Completes (.depset f) (ruleDepset f) (fun e => e.th.wait = .answered n) (fun e o => o = ⟨e.s, e.th, [], 0, none, .seq⟩)) ∧
  (∀ n, Completes (.depdec f) (ruleDepdec f) (fun e => e.th.wait = .answered n) (fun e o => o = ⟨e.s, e.th, [], 0, none, .seq⟩)) ∧
  Completes (.depset f) (ruleDepset f) ready (fun e o => buffered e o 0x1C8 (v e)) ∧
  Completes (.depdec f) (ruleDepdec f) ready (fun e o => buffered e o 0x1C9 w)

/-- FIFO banks (R343, R344, R360 to R365): a push appends a lane's entry, in a bank of its kind and context; to another comb
it leaves as a message; REFILL takes the oldest entries into vacant lanes, which become active; FPOP lands entries. -/
def Sys2Proof.Claim.FifoBanks : Prop := ∀ f : SForm,
  let ctx (e : Env) : Nat := (e.s.agentCtx e.ag).getD 0
  let k (e : Env) (x : Spec) : Nat := (e.read32 x 0).toNat % 16
  let bank (e : Env) (x : Spec) : Bank := (e.s.comb e.ck).bank (k e x)
  let target (e : Env) : Target := e.s.nameTarget e.ck (e.read32 f.a 0).toNat
  let kind (b : Bank) (ord : Bool) (e : Env) : Prop := b.mode = .fifo ∧ b.ord = ord ∧ b.owner = ctx e
  let ents (ord : Bool) (e : Env) : List FifoEnt := e.pushEnts f.c ord
  let ord := f.sub.getLsbD 0
  -- the bank after a push; when the spill area it needs cannot be had, the context ends
  let full (e : Env) (ord : Bool) : Bool :=
    decide (e.s.spillCap (ctx e) < ((bank e f.b).push (ents ord e)).spilled.length) && decide ((bank e f.b).spilled.length < ((bank e f.b).push (ents ord e)).spilled.length)
  let pushed (o : Out) (e : Env) (ord : Bool) : Prop :=
    let s := e.s.modComb e.ck fun c => c.setBank (k e f.b) ((bank e f.b).push (ents ord e))
    o = ⟨if full e ord then s.endContext (ctx e) 3 0 0 else s, e.th, [], 0, none, .seq⟩
  let local' (e : Env) (ord : Bool) : Prop := e.th.place.atomic = false ∧ target e = .here ∧ kind (bank e f.b) ord e
  let away (e : Env) (name die : Nat) : Prop := e.th.place.atomic = false ∧ target e = .other name die ∧ (e.s.comb e.ck).outstanding e.th.uid 3 < 63
  let sent (e : Env) (o : Out) (op name : Nat) (ord : Bool) : Prop := o.th = e.th ∧ o.writes = [] ∧ ∃ m ∈ o.s.msgs, m.op = op ∧ m.name = BitVec.ofNat 32 name ∧ m.body = .push ord (k e f.b) (ents ord e)
  let size (ord : Bool) : Nat := if ord then 80 else 32
  let buffers (e : Env) (ord : Bool) : Prop := e.th.place.atomic = true ∧ commitUsed e.th.commit + (ents ord e).length * size ord ≤ 4096 ∧
    (target e = .here ∧ kind (bank e f.b) ord e ∨ ∃ n d, target e = .other n d)
  let buffered (e : Env) (o : Out) (ord : Bool) : Prop := o.s = e.s ∧ o.writes = [] ∧ ∃ es : List CommitEnt, o.th = { e.th with commit := e.th.commit ++ es } ∧
    es.map (·.payload) = (ents ord e).map fun x => x.words.map (·.toNat)
  let mode (e : Env) (x : Spec) : TrapInfo := ⟨codeBANKMODE, e.act, k e x, (bank e x).mode.code⟩
  let took (e : Env) : List FifoEnt := ((bank e f.a).ents ++ (bank e f.a).spilled).take e.lanes.length
  let filled (e : Env) : List Nat := e.lanes.take (took e).length
  let quiet (e : Env) : Prop := kind (bank e f.a) false e ∧ (e.s.comb e.ck).outstanding e.th.uid 0 = 0
  let some' (e : Env) : Prop := ord = true → (bank e f.a).ents ++ (bank e f.a).spilled ≠ []
  Completes (.wqpush f) (ruleWqpush f) (fun e => local' e false) (fun e o => pushed o e false) ∧
  (∀ name die, Completes (.wqpush f) (ruleWqpush f) (fun e => away e name die) (fun e o => sent e o 0x183 name false)) ∧
  Completes (.wqpush f) (ruleWqpush f) (fun e => buffers e false) (fun e o => buffered e o false) ∧
  Completes (.fpush f) (ruleFpush f) (fun e => local' e ord) (fun e o => pushed o e ord) ∧
  (∀ name die, Completes (.fpush f) (ruleFpush f) (fun e => away e name die) (fun e o => sent e o 0x191 name ord)) ∧
  Completes (.fpush f) (ruleFpush f) (fun e => buffers e ord) (fun e o => buffered e o ord) ∧
  Traps (.fpush f) (ruleFpush f) (fun e => target e = .here ∧ ¬ kind (bank e f.b) ord e) (fun e => mode e f.b) ∧
  Completes (.refill f) (ruleRefill f) (fun e => quiet e ∧ some' e) (fun e o =>
    o.th = { e.th with lm := e.th.lm ||| laneMask (filled e), em := e.th.em ||| laneMask (filled e) } ∧
    o.writes = (if filled e = [] then [] else entWrites f.d.code 4 (filled e) (took e)) ++ e.write32 f.e false [(0, BitVec.ofNat 32 (filled e).length)] ∧
    ((o.s.comb e.ck).bank (k e f.a)).ents ++ ((o.s.comb e.ck).bank (k e f.a)).spilled = ((bank e f.a).ents ++ (bank e f.a).spilled).drop (took e).length) ∧
  Blocks (.refill f) (ruleRefill f) (fun e => quiet e ∧ ¬ some' e) (fun e s th => s = e.s ∧ th = { e.th with wait := .again }) ∧
  Traps (.refill f) (ruleRefill f) (fun e => ¬ kind (bank e f.a) false e) (fun e => mode e f.a) ∧
  Completes (.fpop f) (ruleFpop f) (fun e => kind (bank e f.a) false e ∧ (useV f.d 4 1 true).range e.th.budget = false ∧ (e.th.mode.getLsbD 4 = true → hazard e.rv (e.t + 4) [useV f.d 4 1 true] = none)) (fun e o =>
    o.writes = [] ∧ ∃ op : AsyncOp, (o.s.comb e.ck).ops = (e.s.comb e.ck).ops ++ [op] ∧ op.cls = 0 ∧ op.ownerUid = e.th.uid ∧
      op.kind = .values ((if filled e = [] then [] else entWrites f.d.code 4 (filled e) (took e)) ++ [⟨f.e.code, [(0, BitVec.ofNat 32 (took e).length)]⟩])) ∧
  Completes (.fpop f) (ruleFpop f) (fun e => kind (bank e f.a) true e ∧ (useV f.d 16 1 true).range e.th.budget = false ∧ (e.th.mode.getLsbD 4 = true → hazard e.rv (e.t + 4) [useV f.d 16 1 true] = none)) (fun e o =>
    o.writes = [] ∧ ∃ (op : AsyncOp) (es : List FifoEnt) (ws : List RegWrite), (o.s.comb e.ck).ops = (e.s.comb e.ck).ops ++ [op] ∧ op.cls = 0 ∧ op.kind = .values ws ∧
      es.length ≤ e.lanes.length ∧ (∀ x ∈ es, (bank e f.a).released x = true ∧ some x.time = (bank e f.a).popAt) ∧
      ⟨f.e.code, [(0, BitVec.ofNat 32 es.length)]⟩ ∈ ws)

/-- FIFO order (R360 to R362): a bank with room and nothing spilled keeps what is pushed resident, one with something spilled spills it;
the order of arrival is kept, whatever spills; a plain bank pops its oldest. -/
def Sys2Proof.Claim.FifoOrder : Prop := ∀ (b : Bank) (es : List FifoEnt) (n : Nat),
  (b.push es).ents ++ (b.push es).spilled = b.ents ++ b.spilled ++ es ∧ (b.ents.length ≤ b.capacity → (b.push es).ents.length ≤ b.capacity) ∧
  (b.spilled = [] → b.ents.length + es.length ≤ b.capacity → b.push es = { b with ents := b.ents ++ es }) ∧
  (b.spilled ≠ [] → b.push es = { b with spilled := b.spilled ++ es }) ∧
  (b.popPlain n).1 = (b.ents ++ b.spilled).take n ∧ (b.popPlain n).2.ents ++ (b.popPlain n).2.spilled = (b.ents ++ b.spilled).drop n

/-- EVPOP (R358, R359) and PRIMEMIT (R369, R370). -/
def Sys2Proof.Claim.EventQueueAndPrimitives : Prop := ∀ f : SForm,
  let quad (r : List Word) : List RegWrite := ((List.range 4).zip r).map fun (x : Nat × Word) => (⟨f.d.code + x.1, [(0, x.2)]⟩ : RegWrite)
  let ctx (e : Env) : Nat := (e.s.agentCtx e.ag).getD 0
  let rset (e : Env) : Nat := match Sparse.find? e.s.ctxs (ctx e) with
    | some c => c.rset
    | none => 7
  let fits (e : Env) : Prop := rset e ≠ 7 ∧ e.th.ordinal + e.lanes.length ≤ 65536
  (∀ r rest, Completes (.evpop f) (ruleEvpop f) (fun e => (e.s.comb e.ck).evq = r :: rest ∧ r.acq = none) (fun e o =>
    o = ⟨e.s.modComb e.ck fun c => ({ c with evq := rest } : Comb).refillEvq, e.th, quad [r.w0, r.w1, r.w2, r.w3], 0, none, .seq⟩)) ∧
  (∀ r rest a, Completes (.evpop f) (ruleEvpop f) (fun e => (e.s.comb e.ck).evq = r :: rest ∧ r.acq = some a) (fun e o =>
    o.th = e.th ∧ o.writes = quad [r.w0, r.w1, r.w2, r.w3] ∧ (2 ≤ a → (o.s.comb e.ck).l1 = []))) ∧
  Completes (.evpop f) (ruleEvpop f) (fun e => (e.s.comb e.ck).evq = [] ∧ f.sub.getLsbD 0 = false) (fun e o => o = ⟨e.s, e.th, quad [0, 0, 0, 0], 0, none, .seq⟩) ∧
  Blocks (.evpop f) (ruleEvpop f) (fun e => (e.s.comb e.ck).evq = [] ∧ f.sub.getLsbD 0 = true) (fun e s th => s = e.s ∧ th = { e.th with wait := .again }) ∧
  Completes (.primemit f) (rulePrimemit f) (fun e => fits e ∧ e.th.place.atomic = false ∧ (e.s.comb e.ck).outstanding e.th.uid 3 < 63) (fun e o =>
    o.writes = [] ∧ o.th.ordinal = e.th.ordinal + e.lanes.length ∧ ∃ ps : List Prim, (o.s.die (keyDie e.ck)).router = (e.s.die (keyDie e.ck)).router ++ ps ∧
      ps.map (·.ordinal) = (List.range e.lanes.length).map (e.th.ordinal + ·) ∧
      ps.map (·.verts) = e.lanes.map (fun i => (List.range 12).map fun k => e.reg (f.a.code + k) i) ∧ ∀ p ∈ ps, p.rset = rset e ∧ p.time = e.th.time) ∧
  Completes (.primemit f) (rulePrimemit f) (fun e => fits e ∧ e.th.place.atomic = true ∧ commitUsed e.th.commit + e.lanes.length * 80 ≤ 4096) (fun e o =>
    o.s = e.s ∧ o.writes = [] ∧ o.th.ordinal = e.th.ordinal + e.lanes.length ∧ (o.th.commit.length = e.th.commit.length + e.lanes.length)) ∧
  Traps (.primemit f) (rulePrimemit f) (fun e => rset e = 7) (fun e => ⟨codeILLOP, e.act, 0, 0⟩)

/-- FIFO banks, their order, the event queue and PRIMEMIT. -/
def Obligations.Queues : Prop :=
  Sys2Proof.Claim.FifoBanks ∧ Sys2Proof.Claim.FifoOrder ∧ Sys2Proof.Claim.EventQueueAndPrimitives

/-- TIMEW, PCNT, PFLUSH, CREST, CWAIT (R416 to R420). -/
def Obligations.TimeInstructions : Prop := ∀ f : SForm,
  let die (e : Env) : Nat := keyDie e.ck
  let x (e : Env) : Word := e.read32 f.a 0
  let fl (e : Env) : Nat := (x e).toNat % 16
  let loc (e : Env) : Nat := (x e).toNat / 256 % 64
  let below (e : Env) : Prop := ∀ y, e.s.findFlow (die e) e.ctxNo (fl e) = some y → loc e < y.nloc
  let n (e : Env) : DWord := e.read64 f.a 0
  let task (r : TaskRec) (e : Env) : Prop := e.th.place.record = some r
  let t (e : Env) : DWord := e.read64 f.b 0
  let moved (e : Env) (r : TaskRec) : State × Thread :=
    let c := e.s.count e.ck e.ctxNo e.th r.flow r.station (n e) false 1
    let c := c.1.count e.ck e.ctxNo c.2 r.flow r.station r.time false (-1)
    c.1.sendAll e.ck c.2 0
  let onTime (e : Env) (d : Int) : Prop := d ≤ 0 ∨ ∃ y, (e.s.die (die e)).flow e.ctxNo (fl e) = some y ∧ y.failed = false ∧ aboveO (y.frontier (loc e) none) (t e).toNat = false
  let d : Int := (f.imm.setWidth 16).toInt
  let flushed (e : Env) : State × Thread := e.s.sendAll e.ck e.th 1
  let code (e : Env) : Nat := match (e.s.die (die e)).flow e.ctxNo (fl e) with
    | none => 3
    | some y => if y.failed then 2 else if aboveO (y.frontier (loc e) none) (t e).toNat then 1 else 0
  (∀ r, Completes (.timew f) (ruleTimew f) (fun e => task r e ∧ r.time < n e) (fun e o => o.writes = [] ∧ o.s = (moved e r).1 ∧
    o.th.place.record = some { r with time := n e })) ∧
  (∀ r, Completes (.timew f) (ruleTimew f) (fun e => task r e ∧ n e = r.time) (fun e o => o.writes = [] ∧ o.s = (e.s.sendAll e.ck e.th 0).1)) ∧
  (∀ r, Traps (.timew f) (ruleTimew f) (fun e => task r e ∧ n e < r.time) (fun e => ⟨codeTIMEBACK, e.th.em, (n e).toNat % 2 ^ 32, (n e).toNat / 2 ^ 32⟩)) ∧
  Completes (.pcnt f) (rulePcnt f) (fun e => below e ∧ onTime e d) (fun e o =>
    let c := e.s.count e.ck e.ctxNo e.th (fl e) (loc e) (t e) false d
    o = ⟨c.1, c.2, [], 0, none, .seq⟩) ∧
  Traps (.pcnt f) (rulePcnt f) (fun e => below e ∧ ¬ onTime e d) (fun e => ⟨codeTIMEBACK, e.th.em, (t e).toNat % 2 ^ 32, (t e).toNat / 2 ^ 32⟩) ∧
  Completes (.pflush f) (rulePflush f) (fun e => (flushed e).1.flushed e.ck (flushed e).2 = true) (fun e o => o = ⟨(flushed e).1, (flushed e).2, [], 0, none, .seq⟩) ∧
  Blocks (.pflush f) (rulePflush f) (fun e => (flushed e).1.flushed e.ck (flushed e).2 = false) (fun e s th => s = (flushed e).1 ∧ th = { (flushed e).2 with wait := .flush }) ∧
  Writes (.crest f) (ruleCrest f) below (fun e => e.write32 f.d false [(0, BitVec.ofNat 32 (code e))]) ∧
  Completes (.cwait f) (ruleCwait f) (fun e => below e ∧ code e ≠ 0) (fun e o => o.th = e.th ∧ o.writes = e.write32 f.d false [(0, BitVec.ofNat 32 (code e))] ∧
    o.s = if code e = 1 then e.s.dropL1 e.ck else e.s) ∧
  Blocks (.cwait f) (ruleCwait f) (fun e => below e ∧ code e = 0) (fun e s th => s = e.s ∧ th = { e.th with wait := .again }) ∧
  Traps (.crest f) (ruleCrest f) (fun e => ¬ below e) (fun e => ⟨codeBADSPEC, e.th.em, f.a.code, 0⟩) ∧
  Traps (.cwait f) (ruleCwait f) (fun e => ¬ below e) (fun e => ⟨codeBADSPEC, e.th.em, f.a.code, 0⟩)

/-- Summaries (R400): `apply(S, t)` of a valid S is t for K = 4, and otherwise keeps the counters outside cK, adds INC to cK and zeroes
the deeper ones, or is ∞ (`none`) where that does not fit in 64 bits; it never decreases in t, and of ∞ it is ∞. -/
def Obligations.SummariesApply : Prop := ∀ (widths : List Nat) (x t t' : Nat),
  let p := (widths.drop (x % 8 + 1)).sum
  let r := (t / 2 ^ p + x / 8 % 2) * 2 ^ p
  let le (a b : Option Nat) : Prop := ∀ y, b = some y → ∃ z, a = some z ∧ z ≤ y
  (x % 8 = 4 → applyS widths x t = some t) ∧
  (x % 8 ≠ 4 → applyS widths x t = if 2 ^ 64 ≤ r then none else some r) ∧
  (t ≤ t' → le (applyS widths x t) (applyS widths x t')) ∧ applyO widths x none = none ∧ applyO widths x (some t) = applyS widths x t

/-- CSUB and its cancel (R413 to R415): a subscription record without a reserved value, for a target that exists, goes as a
request to the frontier unit of the own die, a cancel to that of its handle's die; the issuer waits for the answer, which
is written to D. -/
def Sys2Proof.Claim.Subscriptions : Prop := ∀ f : SForm,
  let die (e : Env) : Nat := keyDie e.ck
  let x (e : Env) : Nat := (e.read32 f.a 0).toNat
  let bytes (e : Env) (o n : Nat) : List Byte := (List.range n).map fun i => e.s.rawByte (scratchLoc e.ck (x e + o + i))
  let at' (e : Env) (o n : Nat) : Nat := leNat (((bytes e 0 64).drop o).take n)
  let ctrl (e : Env) : Nat := at' e 8 4
  let flow (e : Env) : Option Flow := e.s.findFlow (die e) e.ctxNo (ctrl e % 16)
  let first (e : Env) : Prop := e.th.wait = .none
  let good (e : Env) (act : Nat) : Prop := first e ∧ e.scratchFault 64 64 [(0, x e)] = none ∧ csubBad (bytes e 0 64) = false ∧ ctrl e / 2 ^ 16 % 4 = act ∧
    ∀ y, flow e = some y → ctrl e / 256 % 64 < y.nloc
  let named (e : Env) (p l : Nat) : Prop := e.s.nameRes (die e) (at' e 12 4) = .ok p l
  let asked (e : Env) (s : State) (th : Thread) (p : Nat) (cancel : Option Nat) (sub : Option Sub) (holds : Bool) : Prop :=
    s = { e.s with nextUid := e.s.nextUid + 1 }.modDie p (fun k => { k with csubs := k.csubs ++ [(⟨e.s.nextUid, e.ag, cancel, sub, holds, none, e.th.uid⟩ : CsubReq)] }) ∧
    th = { e.th with wait := .answer e.s.nextUid }
  let sub (e : Env) (a : SubAction) : Option Sub := some ⟨e.ctxNo, ctrl e % 16, ctrl e / 256 % 64, BitVec.ofNat 64 (at' e 0 8), a, e.ck, none⟩
  let r (e : Env) : TaskRec := TaskRec.ofBytes (bytes e 64 64)
  let late (e : Env) : Prop := ∃ y b, flow e = some y ∧ summValid (y.summary (ctrl e / 256 % 64) (r e).station) = true ∧
    applyS y.widths (y.summary (ctrl e / 256 % 64) (r e).station) (at' e 0 8) = some b ∧ b ≤ (r e).time.toNat
  let onTime (e : Env) : Prop := ∀ y, flow e = some y → e.th.timeBack y (ctrl e / 256 % 64) (at' e 0 8) = false
  let h (e : Env) : Nat := x e
  let d (e : Env) : Die := e.s.die (die e)
  -- the target of the record: the issuing comb, a comb by name, or any comb of a die
  let spawnTo (e : Env) (p l : Nat) : Prop := ((r e).sel = 0 ∧ p = die e ∧ l = (d e).lcomb (keyComb e.ck)) ∨ ((r e).sel = 1 ∧ e.s.nameRes (die e) (r e).target.toNat = .ok p l) ∨
    ((r e).sel = 2 ∧ l = 0xFF ∧ (d e).lmap[(r e).target.toNat % 64]? = some p ∧ (r e).target.toNat < 2 ^ 10 ∧ (r e).target.toNat / 64 % 16 = (d e).gen.toNat)
  let handle (e : Env) (p : Nat) : Prop := first e ∧ (d e).lmap[h e / 256 % 64]? = some p
  (∀ p l, Blocks (.csub f) (ruleCsub f) (fun e => good e 0 ∧ named e p l) (fun e s th => asked e s th (die e) none (sub e (.post p l)) (e.th.holds (ctrl e % 16)))) ∧
  (∀ p l, Blocks (.csub f) (ruleCsub f) (fun e => good e 2 ∧ named e p l) (fun e s th => asked e s th (die e) none (sub e (.fifo p l (at' e 16 4))) (e.th.holds (ctrl e % 16)))) ∧
  (∀ p l, Blocks (.csub f) (ruleCsub f) (fun e => good e 1 ∧ e.scratchFault 128 64 [(0, x e)] = none ∧ e.s.recBad (die e) e.ctxNo (bytes e 64 64) = false ∧
      (r e).flow = ctrl e % 16 ∧ late e ∧ onTime e ∧ spawnTo e p l)
    (fun e s th => asked e s th (die e) none (sub e (.spawn (r e) p l)) (e.th.holds (ctrl e % 16)))) ∧
  (∀ v, Completes (.csub f) (ruleCsub f) (fun e => e.th.wait = .answered v) (fun e o => o = ⟨e.s, e.th, e.write32 f.d false [(0, BitVec.ofNat 32 v)], 0, none, .seq⟩)) ∧
  Traps (.csub f) (ruleCsub f) (fun e => first e ∧ e.scratchFault 64 64 [(0, x e)] = none ∧ (ctrl e / 2 ^ 16 % 4 = 1 → e.scratchFault 128 64 [(0, x e)] = none) ∧ csubBad (bytes e 0 64) = true)
    (fun e => ⟨codeBADSPEC, e.th.em, f.a.code, 0⟩) ∧
  (∀ p, Blocks (.csubCancel f) (ruleCsubCancel f) (fun e => handle e p ∧ h e < 2 ^ 18 ∧ h e / 2 ^ 14 % 16 = (d e).gen.toNat) (fun e s th => asked e s th p (some (h e % 256)) none false)) ∧
  (∀ v, Completes (.csubCancel f) (ruleCsubCancel f) (fun e => e.th.wait = .answered v) (fun e o => o = ⟨e.s, e.th, e.write32 f.d false [(0, BitVec.ofNat 32 v)], 0, none, .seq⟩)) ∧
  (∀ p, Traps (.csubCancel f) (ruleCsubCancel f) (fun e => handle e p ∧ h e < 2 ^ 18 ∧ h e / 2 ^ 14 % 16 ≠ (d e).gen.toNat) (fun e => ⟨codeSTALEGEN, e.th.em, f.a.code, 0⟩)) ∧
  Traps (.csubCancel f) (ruleCsubCancel f) (fun e => first e ∧ ((d e).lmap[h e / 256 % 64]? = none ∨ 2 ^ 18 ≤ h e)) (fun e => ⟨codeBADSPEC, e.th.em, f.a.code, 0⟩)

/-- PSWR (R402, R403): a flow image that is readable and aligned is installed on every live die of its set, any other live die holds no
flow of that number any more, no subscription to the old one is left, and it is announced to every live die, whose last
acknowledgement lets the instruction write 0; or it is refused with its status. -/
def Sys2Proof.Claim.FlowImages : Prop := ∀ f : SForm,
  let va (e : Env) : Nat := (e.read64 f.a 0).toNat
  let first (e : Env) : Prop := e.th.wait = .none
  let read (e : Env) (as : List LaneAcc) : Prop := first e ∧ e.laneAccs .read (fun _ => 4160) 1 false [(0, va e)] = .ok as ∧ va e % 64 = 0 ∧
    (e.s.stores.any fun st => decide (st.agentUid = e.th.uid) && overlaps st.locs (as.flatMap (·.locs))) = false
  let bytes (e : Env) (as : List LaneAcc) : List Byte := (as.flatMap (·.locs)).map e.s.byteNow
  let flow (e : Env) (as : List LaneAcc) : Flow := Flow.ofImage e.ctxNo ((e.read32 f.b 0).toNat % 16) (bytes e as)
  let status (e : Env) (as : List LaneAcc) : Nat := e.s.flowStatus (bytes e as) (flow e as)
  (∀ as, Blocks (.pswr f) (rulePswr f) (fun e => read e as ∧ status e as = 0) (fun e s th => ∃ u, th = { e.th with wait := .answer u } ∧
    (∃ b ∈ s.bcasts, b.uid = u ∧ b.body = .flow (flow e as) ∧ b.dies = e.s.liveDies) ∧
    ∀ d ∈ e.s.liveDies, (s.die d).flow e.ctxNo (flow e as).num = (if (flow e as).dieset.contains d then some (flow e as) else none) ∧
      ∀ y ∈ (s.die d).subs, ¬ (y.2.ctx = e.ctxNo ∧ y.2.flow = (flow e as).num))) ∧
  (∀ v, Completes (.pswr f) (rulePswr f) (fun e => e.th.wait = .answered v) (fun e o => o = ⟨e.s, e.th, e.write32 f.d false [(0, BitVec.ofNat 32 v)], 0, none, .seq⟩)) ∧
  (∀ as, Completes (.pswr f) (rulePswr f) (fun e => read e as ∧ status e as ≠ 0) (fun e o => o.th = e.th ∧
    o.writes = e.write32 f.d false [(0, BitVec.ofNat 32 (status e as))])) ∧
  (∀ as, Traps (.pswr f) (rulePswr f) (fun e => first e ∧ e.laneAccs .read (fun _ => 4160) 1 false [(0, va e)] = .ok as ∧ va e % 64 ≠ 0)
    (fun e => ⟨codeDALIGN, e.th.em, va e % 2 ^ 32, va e / 2 ^ 32⟩))

/-- What a subscription answers (R415): 0x80000002 without a valid flow, 0x80000001 with the table full, else the handle of the lowest
free entry, which then holds it. -/
def Sys2Proof.Claim.SubscriptionAnswers : Prop := ∀ (s : State) (die : Nat) (q : CsubReq) (b : Sub),
  let d := s.die die
  (d.flow b.ctx b.flow = none → s.subscribe die q b = (s, 0x80000002)) ∧
  (∀ f, d.flow b.ctx b.flow = some f → f.failed = true → s.subscribe die q b = (s, 0x80000002)) ∧
  (∀ f, d.flow b.ctx b.flow = some f → f.failed = false → d.freeSub = none → s.subscribe die q b = (s, 0x80000001)) ∧
  (∀ f n, d.flow b.ctx b.flow = some f → f.failed = false → d.freeSub = some n → b.action.isSpawn = false →
    ∃ t, s.subscribe die q b = (t, n + 256 * s.dieName die) ∧ Sparse.find? (t.die die).subs n = some b)

/-- Subscriptions and flow images: the request, the install, and the answer of the frontier unit. The order in which CSUB's and PSWR's reasons are tested is the model's (log entry 41). -/
def Obligations.SubscriptionsAndFlows : Prop :=
  Sys2Proof.Claim.Subscriptions ∧ Sys2Proof.Claim.FlowImages ∧ Sys2Proof.Claim.SubscriptionAnswers

/-- NRED (R427, R428): on a tree of the context that has a local input and no open operation of the die, with both scratch
ranges held, an operation stands in RM for its round and the round advances; otherwise NREDEXP. -/
def Sys2Proof.Claim.Reductions : Prop := ∀ f : SForm,
  let die (e : Env) : Nat := keyDie e.ck
  let t : Nat := f.imm.toNat % 16
  let mine (e : Env) (x : Tree) : Prop := e.s.tree (die e) t = some x ∧ x.ctx = e.ctxNo ∧ x.mask.testBit 0 = true ∧ e.s.nredOf (die e) t = none
  let n (x : Tree) : Nat := (4 * x.count + 127) / 128 * 128
  let a (e : Env) : Nat := (e.read32 f.a 0).toNat
  let b (e : Env) : Nat := (e.read32 f.b 0).toNat
  (∀ x, Completes (.nred f) (ruleNred f) (fun e => mine e x ∧ e.scratchFault (n x) 128 [(0, a e), (0, b e)] = none) (fun e o =>
    o.writes = [] ∧ o.s.tree (die e) t = some { x with round := (x.round + 1) % 2 ^ 32 } ∧ ∃ op : AsyncOp, (o.s.comb e.ck).ops = (e.s.comb e.ck).ops ++ [op] ∧
      op.cls = 2 ∧ op.ownerUid = e.th.uid ∧ op.kind = .nred t x.round (a e) (b e) (if f.d.kind = .sink then none else some f.d.code) none)) ∧
  Traps (.nred f) (ruleNred f) (fun e => e.s.tree (die e) t = none) (fun e => ⟨codeNREDEXP, e.th.em, t, 0⟩) ∧
  (∀ x, Traps (.nred f) (ruleNred f) (fun e => e.s.tree (die e) t = some x ∧ (x.ctx ≠ e.ctxNo ∨ x.mask.testBit 0 = false ∨ (e.s.nredOf (die e) t).isSome = true))
    (fun e => ⟨codeNREDEXP, e.th.em, t, 0⟩))

/-- Reductions (R427, R428): a node whose inputs of a round are all there sends its partial to its parent, the root makes it the result;
a result is written at the destination of the die's NRED of its round, which ends with the number of contributions, and goes on to
every child; the node then holds nothing of the round. -/
def Sys2Proof.Claim.TreeEvents : Prop := ∀ (s : State) (die t : Nat) (x : Tree), s.tree die t = some x →
  let y := s.takeLocal die t x
  (∀ r, y.next = some r → s.treeFull die t y r = true → y.parent = 0 →
    exec (.reductionPartial die t) s = .next (s.setTree die t { y with sent := some r, result := some (r, y.partialOf r) })) ∧
  (∀ r d z, y.next = some r → s.treeFull die t y r = true → y.parent ≠ 0 → neighbour die y.parent = some d → d ≠ die → s.tree d t = some z →
    exec (.reductionPartial die t) s = .next ((s.setTree die t { y with sent := some r }).setTree d t
      { z with inputs := z.inputs ++ [⟨opposite y.parent, r, (y.partialOf r).1, (y.partialOf r).2⟩] })) ∧
  (∀ r, y.next = some r → s.treeFull die t y r = false → exec (.reductionPartial die t) s = .next (s.setTree die t y)) ∧
  (y.next = none → exec (.reductionPartial die t) s = .next (s.setTree die t y)) ∧
  (∀ r ws n, x.result = some (r, ws, n) → ∃ u, exec (.reductionResult die t) s = .next u ∧ u.tree die t = some (x.finish r) ∧
    (∀ k d z, 1 ≤ k → k ≤ 4 → x.mask.testBit k = true → neighbour die k = some d → s.tree d t = some z → u.tree d t = some { z with result := some (r, ws, n) }) ∧
    (∀ d, d ≠ die → (∀ k, 1 ≤ k → k ≤ 4 → x.mask.testBit k = true → neighbour die k ≠ some d) → u.tree d t = s.tree d t) ∧
    (∀ ck o t' a b d, s.nredOf die t = some (ck, o) → o.kind = .nred t' r a b d none →
      ∀ k, u.comb k = ((s.putScratch ck b (ws.flatMap fun (w : Word) => leBytes 4 w.toNat)).endNred ck o n).comb k) ∧
    ((∀ ck o t' a b d, s.nredOf die t = some (ck, o) → o.kind ≠ .nred t' r a b d none) → ∀ k, u.comb k = s.comb k)) ∧
  (x.result = none → exec (.reductionResult die t) s = .next s)

/-- Reduction trees: NRED, and the rounds that the nodes of a tree complete. That a tree's table is at a virtual address of its record's context is the model's choice (log entry 24). -/
def Obligations.ReductionTrees : Prop :=
  Sys2Proof.Claim.Reductions ∧ Sys2Proof.Claim.TreeEvents

/-- WRING (R431, R432): a ring record within its limits makes a ring of the die with its subscription asked for, or writes the
code of what stands against it; the answer is written to D. -/
def Sys2Proof.Claim.RingCreation : Prop := ∀ f : SForm,
  let die (e : Env) : Nat := keyDie e.ck
  let x (e : Env) : Nat := (e.read32 f.a 0).toNat
  let bytes (e : Env) : List Byte := (List.range 64).map fun i => e.s.rawByte (scratchLoc e.ck (x e + i))
  let r (e : Env) : Ring := e.ringOf (f.imm.toNat % 8) (bytes e)
  let peer (e : Env) (o : Nat) : Except Nat Nat := ringPeer e.s (die e) (leNat (((bytes e).drop o).take 4))
  let first (e : Env) : Prop := e.th.wait = .none ∧ e.scratchFault 64 64 [(0, x e)] = none
  let sound (e : Env) (su pr : Nat) : Prop := first e ∧ ringBad (bytes e) (r e) = false ∧ e.ringLeaves (bytes e) (r e) = false ∧ peer e 36 = .ok su ∧ peer e 40 = .ok pr
  let made (e : Env) (su pr : Nat) : Ring := { r e with succ := su, pred := pr, sub := (e.s.die (die e)).freeSub.getD 0 }
  let bad (e : Env) : TrapInfo := ⟨codeBADSPEC, e.th.em, f.a.code, 0⟩
  (∀ su pr, Blocks (.wring f) (ruleWring f) (fun e => sound e su pr ∧ e.ringCode (r e) su pr = 0) (fun e s th => ∃ u, th = { e.th with wait := .answer u } ∧
    (s.die (die e)).rings = (e.s.die (die e)).rings ++ [made e su pr] ∧ ∃ q ∈ (s.die (die e)).csubs, q.uid = u)) ∧
  (∀ su pr, Writes (.wring f) (ruleWring f) (fun e => sound e su pr ∧ e.ringCode (r e) su pr ≠ 0) (fun e => e.write32 f.d false [(0, BitVec.ofNat 32 (e.ringCode (r e) su pr))])) ∧
  (∀ v, Writes (.wring f) (ruleWring f) (fun e => e.th.wait = .answered v) (fun e => e.write32 f.d false [(0, BitVec.ofNat 32 v)])) ∧
  Traps (.wring f) (ruleWring f) (fun e => first e ∧ (peer e 36 = .error 0 ∨ peer e 40 = .error 0)) bad ∧
  Traps (.wring f) (ruleWring f) (fun e => first e ∧ ringBad (bytes e) (r e) = true) bad

/-- WRING.close, WPOST, WTAKE and WDONE (R432, R435, R436) on a ring of the context and the die, and the RINGSEQ of a step out
of its range or of a ring that is not there. -/
def Sys2Proof.Claim.RingInstructions : Prop := ∀ f : SForm,
  let die (e : Env) : Nat := keyDie e.ck
  let num : Nat := f.imm.toNat % 8
  let ring (e : Env) : Option Ring := (e.s.die (die e)).ring e.ctxNo num
  let nB (e : Env) : Nat := (e.read32 f.b 0).toNat
  let nA (e : Env) : Nat := (e.read32 f.a 0).toNat
  let seq (n : Nat) (e : Env) : TrapInfo := ⟨codeRINGSEQ, e.th.em, num, n⟩
  let none' (e : Env) : Prop := ring e = none
  let may (e : Env) (r : Ring) : Prop := ring e = some r ∧ nB e < r.nstep ∧ r.origin (nB e) = true ∧ r.posted.contains (nB e) = false
  let sc := f.sub.getLsbD 0
  let src (e : Env) : Nat := if sc then (e.read32 f.a 0).toNat else (e.read64 f.a 0).toNat
  let posts (e : Env) (s : State) (r : Ring) (o : Out) : Prop := o.th = e.th ∧ o.writes = [] ∧ ∃ op : AsyncOp,
    o.s = { s.setRing (die e) { r with posted := r.posted ++ [nB e] } with nextUid := s.nextUid + 1 }.modComb e.ck (fun c => { c with ops := c.ops ++ [op] }) ∧
      op.cls = 2 ∧ op.ownerUid = e.th.uid ∧ op.kind = .wpost num (nB e) (src e) sc false
  -- every sector of a global source is there
  let whole (e : Env) (r : Ring) (as : List LaneAcc) : Prop :=
    let parts := sectorsOf (src e) r.bytes
    e.laneAccs .read (fun k => (parts.getD k (0, 0)).2) 1 false ((List.range parts.length).zip (parts.map (·.1))) = .ok as
  let window (e : Env) (r : Ring) : Prop := ring e = some r ∧ r.lo ≤ nA e ∧ nA e < Nat.min (r.lo + r.slots) r.nstep
  let due (e : Env) (r : Ring) : Prop := ring e = some r ∧ r.doneBad (nA e) = false
  let idle (e : Env) : Prop := ∀ op ∈ (e.s.comb e.ck).ops, op.ownerUid = e.th.uid → op.cls ≠ 0 ∧ op.cls ≠ 1
  Writes (.wringClose f) (ruleWringClose f) none' (fun e => e.write32 f.d false [(0, 1)]) ∧
  (∀ r, Completes (.wringClose f) (ruleWringClose f) (fun e => ring e = some r) (fun e o => o.th = e.th ∧ o.writes = e.write32 f.d false [(0, 0)] ∧
    (o.s.die (die e)).ring e.ctxNo num = none)) ∧
  (∀ r, Completes (.wpost f) (ruleWpost f) (fun e => may e r ∧ sc = true ∧ e.scratchFault r.bytes 1 [(0, src e)] = none) (fun e o => posts e e.s r o)) ∧
  (∀ r as, Completes (.wpost f) (ruleWpost f) (fun e => may e r ∧ sc = false ∧ whole e r as) (fun e o =>
    posts e (e.s.noteAccs e.ck e.ctxNo .read as) r o)) ∧
  (∀ r, Traps (.wpost f) (ruleWpost f) (fun e => ring e = some r ∧ (r.nstep ≤ nB e ∨ r.origin (nB e) = false ∨ r.posted.contains (nB e) = true)) (fun e => seq (nB e) e)) ∧
  (∀ r, Completes (.wtake f) (ruleWtake f) (fun e => window e r ∧ r.present.contains (nA e) = true) (fun e o =>
    o = ⟨e.s.dropL1 e.ck, e.th, e.write64 f.d [(0, BitVec.ofNat 64 (r.base + nA e % r.slots * r.bytes))], 0, none, .seq⟩)) ∧
  (∀ r, Blocks (.wtake f) (ruleWtake f) (fun e => window e r ∧ r.present.contains (nA e) = false) (fun e s th => s = e.s ∧ th = { e.th with wait := .again })) ∧
  (∀ r, Traps (.wtake f) (ruleWtake f) (fun e => ring e = some r ∧ (nA e < r.lo ∨ Nat.min (r.lo + r.slots) r.nstep ≤ nA e)) (fun e => seq (nA e) e)) ∧
  (∀ r, Completes (.wdone f) (ruleWdone f) (fun e => due e r ∧ e.ag.isStream = false ∧ idle e ∧ e.s.releaseDone e.ck e.th.uid 3 e.s.nextUid = true) (fun e o =>
    o = ⟨e.s.wdone (die e) r (nA e), e.th, [], 0, none, .seq⟩)) ∧
  (∀ r, Completes (.wdone f) (ruleWdone f) (fun e => due e r ∧ e.ag.isStream = true ∧ ((e.s.comb e.ck).passes.filter fun p => p.seq = e.ag.src % 0x40) = [] ∧
      e.s.releaseDone e.ck e.th.uid 3 e.s.nextUid = true ∧ ∃ x, Sparse.find? (e.s.comb e.ck).seqs (e.ag.src % 0x40) = some x ∧ x.deferred = []) (fun e o => o = ⟨e.s.wdone (die e) r (nA e), e.th, [], 0, none, .seq⟩)) ∧
  (∀ r x, Completes (.wdone f) (ruleWdone f) (fun e => due e r ∧ e.ag.isStream = true ∧ ((e.s.comb e.ck).passes.filter fun p => p.seq = e.ag.src % 0x40) ≠ [] ∧
      Sparse.find? (e.s.comb e.ck).seqs (e.ag.src % 0x40) = some x) (fun e o => o.th = e.th ∧ o.writes = [] ∧ ∃ d : Deferred,
        Sparse.find? (o.s.comb e.ck).seqs (e.ag.src % 0x40) = some { x with deferred := x.deferred ++ [d] } ∧ d.wdone = some (num, nA e))) ∧
  (∀ r, Traps (.wdone f) (ruleWdone f) (fun e => ring e = some r ∧ (nA e < r.lo ∨ r.lo + r.slots ≤ nA e ∨ r.present.contains (nA e) = false ∨ r.cons ≤ Sparse.get 0 r.dones (nA e)))
    (fun e => seq (nA e) e)) ∧
  Traps (.wpost f) (ruleWpost f) none' (seq 0xFFFFFFFF) ∧ Traps (.wtake f) (ruleWtake f) none' (seq 0xFFFFFFFF) ∧ Traps (.wdone f) (ruleWdone f) none' (seq 0xFFFFFFFF)

/-- Rings (R433, R434): a step that is present and granted at the successor is captured, with its count taken back; a step that lands is
in its slot and present; a grant that waits is taken, and refused grants are sent again. -/
def Sys2Proof.Claim.RingEvents : Prop := ∀ (s : State) (die num step : Nat) (r : Ring),
  let ck := combKey die r.comb
  ((s.die die).rings[num]? = some r → r.stopped = false →
    (∀ n bytes rest, r.inbound = (n, bytes) :: rest → exec (.ringTransfer die num) s = .next (s.ringWrite die { r with inbound := rest } n bytes)) ∧
    (∀ bytes q, r.present.contains step = true → r.forwards step = true → r.grants.contains (step + 1) = true → r.forwarded.contains step = false →
      r.reaches r.succ = true → s.ringRead ck r.ctx (r.slotVa step) r.bytes = .ok bytes → isPort r.succ = false →
      let s' := (s.ringCounts die r [(step, -1)]).setRing die { r with forwarded := r.forwarded ++ [step] }
      (s'.die r.succ).ringOf r.key r.ctx = some q →
      exec (.ringForwardComplete die num step) s = .next (s'.setRing r.succ { q with inbound := q.inbound ++ [(step + 1, bytes)] }))) ∧
  (∀ g rest, (s.die die).grantsWaiting = g :: rest → (s.die die).ringOf (g.1 / 256) (g.1 % 256) = some r → r.reaches r.succ = true →
    exec (.ringGrant die) s = .next ((s.modDie die fun d => { d with grantsWaiting := rest }).setRing die (r.grant g.2))) ∧
  exec .grantResend s = .next (s.liveDies.foldl (fun s die => (s.die die).rings.foldl (fun s r =>
    r.refused.foldl (fun s n => s.sendGrant die r n) (s.setRing die { r with refused := [] })) s) s)

/-- The waggle ring: WRING and its refusals, WPOST, WTAKE and WDONE, and the steps as they travel. The order of WRING's codes and the instant a step is captured are the model's choice (log entry 41). -/
def Obligations.Rings : Prop :=
  Sys2Proof.Claim.RingCreation ∧ Sys2Proof.Claim.RingInstructions ∧ Sys2Proof.Claim.RingEvents

/-- Issue, fetch and releases (R36, R68, R335, R465): the slot goes to the group that arbitration names; a fetch that translates
brings a group's instruction to hand and makes a steward or a stream the next to issue, one that does not traps, with a DERR
counted, a stream's trap only once its record finds a place (R357); a release that is complete lets its agent issue again. -/
def Sys2Proof.Claim.CoreEvents : Prop := ∀ (s : State) (a : Agent) (th : Thread) (die comb core : Nat),
  (∀ k, s.arbitrate (combKey die comb) core = some k →
    exec (.issueArbitration die comb core) s = .next { s with cur := some (.group die comb k), freeN := s.freeN + 1 }) ∧
  (∀ s' w, s.thread a = some th → th.stopped = false → s.fetch a th = .ok (s', w) →
    exec (.instructionFetch a) s = .next (match a with
      | .group _ _ _ => s'
      | _ => { s' with cur := some a })) ∧
  (∀ f, s.thread a = some th → th.stopped = false → s.fetch a th = .error f →
    let x := s.countFetch (agentKey a) (s.agentCtx a) th.pc.toNat f.cause
    ((a.isStream = true → (s.comb (agentKey a)).canPost = true) → exec (.instructionFetch a) s = .next (x.takeTrap a th f)) ∧
    (a.isStream = true → (s.comb (agentKey a)).canPost = false → exec (.instructionFetch a) s =
      .next { (x.setThread a { th with wait := if th.wait = .none then .again else th.wait }) with cur := none })) ∧
  (∀ sc, s.thread a = some th → th.wait = .release sc → s.releaseDone (agentKey a) th.uid sc s.nextUid = true →
    exec (.releaseComplete a) s = .next { (s.setThread a { th with wait := .released }) with cur := some a })

/-- Arbitration (R36, R86, R87, R335): the slot goes to a ready group whenever there is one; a ready group in the middle of its run
goes on; otherwise no ready group could issue at an earlier clk than the winner, and none that could at the same clk goes before
it: the highest effective priority, then the one ready for longest, then the lowest slot. -/
def Sys2Proof.Claim.ArbitrationOrder : Prop := ∀ (s : State) (ck core : Nat),
  let ready := s.readyGroups ck core
  (∀ g ∈ ready, g ∈ s.coreGroups ck core ∧ s.nextReady (.group (keyDie ck) (keyComb ck) g.1) g.2 = true) ∧
  (ready ≠ [] → (s.arbitrate ck core).isSome = true) ∧
  ∀ k, s.arbitrate ck core = some k →
  ∃ th, (k, th) ∈ ready ∧ ((∃ g ∈ ready, 0 < g.2.runLen) → 0 < th.runLen) ∧
    ((∀ g ∈ ready, g.2.runLen = 0) →
      let clk := s.groupClk ck (k, th)
      ∀ g ∈ ready, clk ≤ s.groupClk ck g ∧
        (s.groupClk ck g = clk → g.2.before clk th = false ∧ (th.before clk g.2 = false → k ≤ g.1)))

/-- What issues next: the events of a core and the winner of arbitration. That a group goes on with its run as one unit is the model's choice (log entry 1). -/
def Obligations.IssueAndArbitration : Prop :=
  Sys2Proof.Claim.CoreEvents ∧ Sys2Proof.Claim.ArbitrationOrder

/-- Completion of an asynchronous operation (R90, R270): a finished operation that is the oldest of its class and owner, due, with a
place for its record, leaves its class, and the registers it covers no longer read as not landed. -/
def Obligations.OperationCompletes : Prop := ∀ (s : State) (die comb i : Nat) (op : AsyncOp),
  let ck := combKey die comb
  (s.comb ck).ops[i]? = some op → op.finished s = true → (s.comb ck).isOldest op = true → op.due ≤ (s.comb ck).clk →
  (op.posts = true → (s.comb ck).canPost = true) →
  exec (.operationCompletion die comb i) s = .next (s.completeOp ck op) ∧
  ((∀ c, op.kind ≠ .copy c) → agentKey op.owner = ck → ((s.completeOp ck op).comb ck).ops = (s.comb ck).ops.filter (fun o => decide (o.uid ≠ op.uid)) ∧
    ∀ th, s.thread op.owner = some th → th.uid = op.ownerUid → ∀ th', (s.completeOp ck op).thread op.owner = some th' →
      ∀ u ∈ th'.uncov, u.op = op.uid → u.landed = true)

/-- Events of memory (R198, R225, R226, R231 to R233, R257): writes at their homes, fills, evictions, replicas, walks and
acknowledgements. -/
def Sys2Proof.Claim.MemoryEvents : Prop := ∀ (s : State) (i die comb ctx pa : Nat),
  let ck := combKey die comb
  (∀ st, s.stores[i]? = some st → s.storeReady st = true → exec (.storeAtHomeSlice i) s = .next (s.storeHome st).flushAll) ∧
  (∀ f, s.fills[i]? = some f → f.tile = none →
    exec (.mergingFill i) s = .next (({ s with fills := s.fills.eraseIdx i } : State).fillLine f.line).serveAll) ∧
  (∀ f t sec, s.fills[i]? = some f → f.tile = some (t, sec) → s.fillWaits f = false →
    exec (.mergingFill i) s = .next (({ s with fills := s.fills.eraseIdx i } : State).fillTile t sec).serveAll) ∧
  (∀ k l, s.l2[i]? = some (k, l) → l.pin = none → (s.fills.any fun f => f.tile = none && decide (f.line = k)) = false →
    exec (.writeBack false i) s = .next ((s.writeBackLine k).dropLine k)) ∧
  (∀ l, s.tiles[i]? = some l → (s.fills.any fun f => (f.tile.map (·.1)) = some l.tile) = false →
    exec (.writeBack true i) s = .next ((s.writeBackTile l.tile).dropTile l.tile)) ∧
  (∀ e, e ∈ (s.die die).dtlb → (⟨e.base, e.size, e.leaf⟩ : Leaf).place = 2 → (⟨e.base, e.size, e.leaf⟩ : Leaf).frame / 2 ^ 16 = pa / 2 ^ 16 →
    (s.die die).live = true → s.noMemory pa = false → exec (.replicaRead die pa) s = .next (s.replicaFetch die [(pa, pa / 2 ^ 16)])) ∧
  (∀ op c, (s.comb ck).ops[i]? = some op → op.kind = .copy c → c.ru = true → c.ruDone = false → c.ended = false →
    ∃ t s' : State, exec (.replicaUpdate die comb i) s = .next t ∧ t = s'.modComb ck fun x => x.setOp { op with kind := .copy { c with ruDone := true } }) ∧
  (∀ cr l (acc : Access) (va : DWord), Sparse.find? s.ctxs ctx = some cr → s.walk cr va.toNat = .leaf l → (s.die die).live = true →
    exec (.pageWalk die comb ctx acc va) s = .next (s.tlbNote ck ctx acc l)) ∧
  exec (.remoteWriteAck i) s = .next ({ s with acks := s.acks.eraseIdx i } : State).flushAll

/-- A filled line (R232, R249): every word of it is valid, but for those that were invalid and are bad in HBM; every word reads as it did
at its home, and the words of every other line are as before. -/
def Sys2Proof.Claim.FilledLine : Prop := ∀ (s : State) (k i : Nat), i < 32 →
  (s.fillLine k).wordValid (32 * k + i) = (s.wordValid (32 * k + i) || !s.badAt (32 * k + i) 0) ∧ (s.fillLine k).wordNow (32 * k + i) = s.wordNow (32 * k + i) ∧
  (∀ w, w / 32 ≠ k → (s.fillLine k).wordNow w = s.wordNow w ∧ (s.fillLine k).wordValid w = s.wordValid w)

/-- A line evicted (R233), none of whose dirty words has an uncorrectable error: its dirty words stand at their homes, its clean
ones are dropped, and every other line is as before. -/
def Sys2Proof.Claim.EvictionWritesBack : Prop := ∀ (s : State) (k : Nat) (l : Line), Sparse.find? s.l2 k = some l →
  (∀ i < 32, l.dirty.getLsbD i = true → s.badAt (32 * k + i) 1 = false) →
  let t := (s.writeBackLine k).dropLine k
  (∀ i < 32, t.wordNow (32 * k + i) = if l.dirty.getLsbD i then l.word i else s.hbmWord (32 * k + i)) ∧
  (∀ w, w / 32 ≠ k → t.wordNow w = s.wordNow w ∧ t.wordValid w = s.wordValid w) ∧ Sparse.find? t.l2 k = none

/-- A byte written at a valid NORMAL home (R231): it reads as written, every other byte as before, and its word stays valid. -/
def Sys2Proof.Claim.StoreLands : Prop := ∀ (s : State) (ctx mtype loc : Nat) (b : Byte), loc < hostBase → mtype = 0 → s.wordValid (loc / 4) = true →
  let t := s.putBytes ctx mtype [(loc, b, 0xFF)]
  t.byteNow loc = b ∧ (∀ l, l ≠ loc → l < hostBase → t.byteNow l = s.byteNow l) ∧ t.wordValid (loc / 4) = true

/-- Events of memory, and what a fill, an eviction and a store leave of every line. That a write-back also drops the line is the model's choice (log entry 48). -/
def Obligations.MemoryEventsAndLines : Prop :=
  Sys2Proof.Claim.MemoryEvents ∧ Sys2Proof.Claim.FilledLine ∧ Sys2Proof.Claim.EvictionWritesBack ∧ Sys2Proof.Claim.StoreLands

/-- Routers (R20, R21, R215, R216): the first router discards a message of another generation and otherwise names the physical die;
the destination die names the physical comb, and discards an operation on a comb whose index has moved. -/
def Sys2Proof.Claim.MessageRouting : Prop := ∀ (s : State) (i : Nat) (m : Msg), s.msgs[i]? = some m → s.behind i m = false →
  let name := m.name.toNat
  let stale : Prop := m.carriesGen = true ∧ name / 2 ^ 14 % 16 ≠ (s.die m.srcDie).gen.toNat
  (m.stage = .outbound → stale → exec (.firstRouterCheck i) s = .next (((s.dropMsg i).discardStale m).flushKilled m.src)) ∧
  (∀ phys, m.stage = .outbound → ¬ stale → (s.die m.srcDie).lmap[name / 256 % 64]? = some phys →
    exec (.firstRouterCheck i) s = .next (s.setMsg i { m with stage := .mesh phys })) ∧
  (m.stage = .outbound → ¬ stale → (s.die m.srcDie).lmap[name / 256 % 64]? = none →
    exec (.firstRouterCheck i) s = .next (((s.dropMsg i).discardDead m (name / 256 % 64)).flushKilled m.src)) ∧
  (∀ die, m.stage = .mesh die → (s.die die).live = false → exec (.messageDelivery i) s = .next (((s.dropMsg i).discardDead m ((s.die die).ldie die)).flushKilled m.src)) ∧
  (∀ die, m.stage = .mesh die → (s.die die).live = true →
    let l := if name % 256 = 0xFF then s.leastLoaded die else name % 256
    if m.body.perComb = true ∧ m.carriesGen = true ∧ s.movedSince die l (name / 2 ^ 14 % 16) = true then
      exec (.messageDelivery i) s = .next (((s.dropMsg i).discardStale m).flushKilled m.src)
    else exec (.messageDelivery i) s = .next { s with msgs := s.msgs.eraseIdx i ++ [{ m with stage := .arrived die ((s.die die).combEnt l).phys }] })

/-- Arrivals at a comb (R333, R348, R357, R361, R363, R368, R372, R389): the first message of its kind enters, or is parked when its
context is frozen, when others of its context are parked, or, a task's record, when there is no room, and the last batch of a
killed task of its sender may leave with it (R191); a parked one enters later, and spilled FIFO entries come back. -/
def Sys2Proof.Claim.MessageArrivals : Prop := ∀ (s : State) (die comb : Nat),
  let ck := combKey die comb
  let delivers (e : Instr) (kind : MsgBody → Bool) : Prop := ∀ i m, s.firstAt die comb kind = some (i, m) →
    (s.mustPark ck m = true → exec e s = .next ((s.park ck i m).flushKilled m.src)) ∧
    (∀ t, s.mustPark ck m = false → (s.dropMsg i).enter ck m = some t → exec e s = .next (t.flushKilled m.src)) ∧
    (s.mustPark ck m = false → (s.dropMsg i).enter ck m = none → m.body.spills = true → exec e s = .next ((s.park ck i m).flushKilled m.src))
  delivers (.taskArrival die comb) MsgBody.isTask ∧ delivers (.messageConsumption die comb) MsgBody.isCounted ∧
  delivers (.dependencyOpArrival die comb) MsgBody.isDep ∧ delivers (.pushDelivery die comb) MsgBody.isPush ∧
  delivers (.packetDelivery die comb) MsgBody.isPacket ∧ delivers (.boundAdvance die comb) MsgBody.isAdvance ∧
  delivers (.eventRecordArrival die comb) MsgBody.isRecord ∧
  (∀ m t, (s.comb ck).parked.find? (fun m => !s.isFrozen ck m.ctx) = some m →
    (s.setComb ck { s.comb ck with parked := (s.comb ck).parked.erase m }).enter ck m = some t → exec (.parkedEntry die comb) s = .next t) ∧
  (∀ bank, exec (.spillReload die comb bank) s = .next (s.modComb ck fun c => c.setBank bank (c.bank bank).reload))

/-- A discarded message leaves the list and its sender's operation (R20, R21): a SPAWN's handle reads 0xFFFFFFFF. -/
def Sys2Proof.Claim.DiscardedSpawn : Prop := ∀ (s : State) (ck u d : Nat) (op : AsyncOp), (s.comb ck).ops = [op] → op.uid = u → op.kind = .message (some d) (some u) →
  ((s.finishOp ck u (some 0xFFFFFFFF)).comb ck).ops = [{ op with kind := .values [⟨d, [(0, 0xFFFFFFFF)]⟩] }]

/-- What enters (R361, R363): entries join a bank of their kind and context at its end; a bound advance moves the bound of an
ordered bank past its time, and the last one releases everything; a bank of another kind is left alone. -/
def Sys2Proof.Claim.EnteredEntries : Prop := ∀ (s : State) (ck ctx src bank : Nat) (ord : Bool) (es : List FifoEnt) (t : DWord),
  let b := (s.comb ck).bank bank
  let kind (o : Bool) : Prop := b.mode = .fifo ∧ b.ord = o ∧ b.owner = ctx
  let after (x : State) : Bank := (x.comb ck).bank bank
  (kind ord → ∃ x, s.enterPush ck ctx src ord bank es = some x ∧ after x = b.push es) ∧
  (kind true → t = 0xFFFFFFFFFFFFFFFF → after (s.enterAdvance ck ctx bank t) = { b with releaseAll := true }) ∧
  (kind true → t ≠ 0xFFFFFFFFFFFFFFFF → after (s.enterAdvance ck ctx bank t) = { b with bound := if b.bound ≤ t then t + 1 else b.bound }) ∧
  (¬ kind true → (s.enterAdvance ck ctx bank t).comb ck = s.comb ck)

/-- Messages: routed, delivered, parked, discarded, and what enters. -/
def Obligations.Messages : Prop :=
  Sys2Proof.Claim.MessageRouting ∧ Sys2Proof.Claim.MessageArrivals ∧ Sys2Proof.Claim.DiscardedSpawn ∧ Sys2Proof.Claim.EnteredEntries

/-- Work starts and ends (R28, R30, R331, R332, R341, R393): a task that goes ahead is started, a claim starts at most 8 teams of the
grid that goes first, a team that is done frees what it holds, and a commit performs the first of its entries, with the rest of its push,
once what that entry releases is performed; with its last one it is over. -/
def Sys2Proof.Claim.WorkEvents : Prop := ∀ (s : State) (die comb : Nat),
  let ck := combKey die comb
  (∀ e k, s.nextTask ck = some (e, k) → s.taskFirst ck = true → exec (.taskDequeue die comb) s = .next (s.startTask ck e k)) ∧
  (∀ g d f, s.firstGrid ck = some g → s.taskFirst ck = false → s.keepsFree ck = false → s.claimDie g.num die 37 die = some (d, f) →
    let r := s.startTeams ck g (Nat.min 8 (f.limit - f.next)) f.next
    r.2 ≤ 8 ∧ exec (.forageClaim die comb g.num) s = .next (r.1.modDie d fun x => { x with forage := x.forage.map fun y => if y.2 = f then (y.1, { f with next := f.next + r.2 }) else y })) ∧
  (∀ key t, Sparse.find? (s.comb ck).teams key = some t → (s.comb ck).teamDone key t = true → s.isFrozen ck t.ctx = false → t.grid = none →
    exec (.teamRetirement die comb key) s = .next (s.setComb ck ((s.comb ck).freeTeam key t))) ∧
  (∀ key t n g, Sparse.find? (s.comb ck).teams key = some t → (s.comb ck).teamDone key t = true → s.isFrozen ck t.ctx = false → t.grid = some n →
    s.grids.find? (fun (g : Grid) => g.num = n) = some g →
    let s' : State := { s.setComb ck ((s.comb ck).freeTeam key t) with grids := s.grids.map fun (g : Grid) => if g.num = n then { g with retired := g.retired + 1 } else g }
    let g' : Grid := { g with retired := g.retired + 1 }
    exec (.teamRetirement die comb key) s = .next (if s'.gridDone g' then s'.finishGrid g' else s')) ∧
  (∀ i c g x rest, s.commits[i]? = some c → c.ents = x :: rest → s.entReady c x = true → (s.comb c.key).groups.find? (fun g => decide (g.2.uid = c.th.uid)) = some g →
    let more := rest.takeWhile x.samePush
    let r := s.commitEnt c g.2 x more
    exec (.commitPerform i) s = .next ((r.1.modComb c.key fun k => { k with groups := Sparse.put k.groups g.1 r.2 }).setCommit i { c with ents := rest.drop more.length })) ∧
  (∀ i c x rest, s.commits[i]? = some c → c.ents = x :: rest → s.entReady c x = false → exec (.commitPerform i) s = .next s) ∧
  (∀ i c, s.commits[i]? = some c → c.ents = [] → exec (.commitPerform i) s = .next (({ s with commits := s.commits.eraseIdx i } : State).flushKilled c.key))

/-- A task starts (R31, R98, R334): it holds its slot with its entry as the PC, its arguments in s0 on, every other s register and every v register 0, and its budget, also where its entry makes it trap at once. -/
def Sys2Proof.Claim.StartedTask : Prop := ∀ (s : State) (ck slot : Nat) (e : ReadyEnt) (gs : List Nat),
  let t := s.startTask ck e slot
  (s.comb ck).freeRun 1 = some gs →
  ∃ th, Sparse.find? (t.comb ck).groups slot = some th ∧ th.pc = e.task.entry ∧ th.budget = e.task.regs ∧ th.v = [] ∧ th.uid = e.uid ∧
    th.place.ctx = some e.ctx ∧ th.place.isTask = true ∧ th.place.record = some e.task ∧
    (∀ k < 64, Sparse.get 0 th.s k = if k < e.task.argc ∧ k < 8 then e.task.args.getD k 0 else 0)

/-- A team that retires leaves nothing (R28): its entry, its granules and its tiles are free. -/
def Sys2Proof.Claim.FreedTeam : Prop := ∀ (c : Comb) (key : Nat) (t : Team),
  let d := c.freeTeam key t
  Sparse.find? d.teams key = none ∧ (∀ k, k ≠ key → Sparse.find? d.teams k = Sparse.find? c.teams k) ∧
  (∀ a ∈ d.alloc, a.2 ≠ key + 1) ∧ (∀ x ∈ d.tileOwner, x.2 ≠ key) ∧ (∀ g ∈ t.granules, ∀ a, a / 8192 = g → Sparse.get 0 d.scratch a = 0)

/-- Work on a comb: started, claimed, retired, and committed. -/
def Obligations.WorkStartsAndEnds : Prop :=
  Sys2Proof.Claim.WorkEvents ∧ Sys2Proof.Claim.StartedTask ∧ Sys2Proof.Claim.FreedTeam

/-- Events of the frontier unit (R406 to R410, R413, R415): the next batch of a sender in order is applied whole and what it completes
fires; an acknowledgement, a spilled count that comes back, and a request. -/
def Sys2Proof.Claim.FrontierEvents : Prop := ∀ (s : State) (die : Nat),
  (∀ i b, s.nextBatch die = some i → s.batches[i]? = some b →
    let s1 : State := { s with batches := s.batches.set i { b with toReach := b.toReach.filter fun d => decide (d ≠ die) } }
    let s2 := s1.modDie die fun d => { d with applied := Sparse.set 0 d.applied b.key ((b.seq + 1) % 2 ^ 32) }
    exec (.batchApply die) s = .next ((s2.applyBatch die b).fire die)) ∧
  (∀ i b, s.batches.findIdx? (fun b => b.toAck.contains die && !b.toReach.contains die) = some i → s.batches[i]? = some b →
    let b' : Batch := { b with toAck := b.toAck.filter fun d => decide (d ≠ die) }
    exec (.batchAcknowledgement die) s = .next { s with batches := if b'.toAck.isEmpty && b'.toReach.isEmpty then s.batches.eraseIdx i else s.batches.set i b' }) ∧
  (∀ i e, (s.die die).pending < 1024 → (s.die die).smallestSpilled = some (i, e) →
    exec (.pendingTimeMerge die) s = .next ((s.modDie die fun d => { d with flows := d.flows.modify i fun f =>
      { f with counts := addCount f.counts e, spilled := f.spilled.erase e } }).fire die)) ∧
  (∀ q b, (s.die die).csubs.find? (s.die die).csubReady = some q → q.ring = none → q.cancel = none → q.sub = some b →
    let s1 := s.modDie die fun d => { d with csubs := d.csubs.filter fun x => decide (x.uid ≠ q.uid) }
    let r := s1.subscribe die q b
    exec (.csubRequestArrival die) s = .next ((r.1.csubAnswer q r.2).fire die)) ∧
  (∀ q n, (s.die die).csubs.find? (s.die die).csubReady = some q → q.ring = none → q.cancel = some n →
    let s1 := s.modDie die fun d => { d with csubs := d.csubs.filter fun x => decide (x.uid ≠ q.uid) }
    let r := s1.unsubscribe die n
    exec (.csubRequestArrival die) s = .next ((r.1.csubAnswer q r.2).fire die))

/-- Counts (R405, R408): adding an entry changes the count of its location, time and side by its delta and no other, and no entry
stands at 0. -/
def Sys2Proof.Claim.CountsAdd : Prop := ∀ (es : List CountEnt) (e : CountEnt) (loc : Nat) (t : DWord) (note : Bool),
  let count (l : List CountEnt) (loc : Nat) (t : DWord) (note : Bool) : Int := ((l.filter fun x => x.loc = loc ∧ x.time = t ∧ x.note = note).map (·.delta)).sum
  count (addCount es e) loc t note = count es loc t note + (if e.loc = loc ∧ e.time = t ∧ e.note = note then e.delta else 0) ∧
  ((∀ x ∈ es, x.delta ≠ 0) → ∀ x ∈ addCount es e, x.delta ≠ 0)

/-- The frontier unit: its events, and the sum that a count is. -/
def Obligations.FrontierUnit : Prop :=
  Sys2Proof.Claim.FrontierEvents ∧ Sys2Proof.Claim.CountsAdd

/-- PRIMITIVE_BINNING (R371): the router takes its next primitive and bins it for each view of the primitive's set, lowest first. -/
def Sys2Proof.Claim.PrimitiveBinning : Prop := ∀ (s : State) (die : Nat) (p : Prim) (rest : List Prim), (s.die die).router = p :: rest →
  let s' := (s.modDie die fun d => { d with router := rest }).modComb p.comb fun c => c.emitted p.opUid
  let views := (List.range 128).filter fun v => (Sparse.get 0 (s.die die).viewSets (p.rset * 4096 + 4 * p.set + v / 32)).getLsbD (v % 32)
  exec (.primitiveBinning die) s = .next ((views.foldl (fun s v => s.binView die p v) s').flushKilled p.comb)

/-- Events of the matrix array and of the copy engines (R297, R298, R309, R314, R315): a granted pass that meets no fault runs; one that is
done leaves the table with its flags in MSTAT; a paused one whose page is mapped is eligible again; a sector of a copy moves
and is done; a paused copy goes on. -/
def Sys2Proof.Claim.EngineEvents : Prop := ∀ (s : State) (die comb i k : Nat),
  let ck := combKey die comb
  let c := s.comb ck
  let frozen := (s.die die).frozen
  (∀ p x, c.arrayFree = true → c.nextPass frozen = some p → c.seqTeam p.seq = some x →
    exec (.passGrant die comb) s = .next { s.modComb ck fun c => c.noteEligible frozen (c.setPass { p with running := true, grant := s.nextUid }) with nextUid := s.nextUid + 1 }) ∧
  (∀ p, c.passes.find? (s.passDone ck) = some p →
    exec (.passCompletion die comb) s = .next ((s.setComb ck (c.completePass frozen p)).runAllDeferred ck)) ∧
  (∀ p x, c.passes.find? (s.passDone ck) = none → c.holder = some p → c.canPost = true → c.seqTeam p.seq = some x → (s.stepPass ck x.2.ctx x.1.th.uid p).fault = none →
    let r := s.stepPass ck x.2.ctx x.1.th.uid p
    exec (.passCompletion die comb) s = .next ((r.s.modComb ck fun c =>
      c.setPass { p with kstep := r.kstep, excs := p.excs ||| r.excs, fin := decide (p.total ≤ r.kstep) }).runAllDeferred ck)) ∧
  (∀ p x, Sparse.find? c.seqs p.seq = some x →
    Sparse.find? (c.completePass frozen p).seqs p.seq = some { x with th := { x.th with fstat := x.th.fstat ||| p.excs.setWidth 32 } } ∧
    ∀ y ∈ (c.completePass frozen p).passes, y.uid ≠ p.uid) ∧
  (∀ p x l, c.passes.find? (fun p => decide (p.seq = k) && p.paused.isSome) = some p → c.seqTeam k = some x → s.translate ck (some x.2.ctx) (p.paused.getD 0) .read = .ok l →
    exec (.passResume die comb k) s = .next (s.modComb ck fun c => c.noteEligible frozen (c.setPass { p with paused := none }))) ∧
  (∀ op cp s' cp', c.ops[i]? = some op → op.kind = .copy cp → s.copyReady ck op cp = true → k < cp.sectors → cp.done.contains k = false → s.copySector ck op cp k = .ok (s', cp') →
    let s'' := match cp'.barrier with
      | some b => if cp'.counts then s'.modComb ck fun x => x.modTxBar b TxBar.sector else s'
      | none => s'
    exec (.copySectorWrite die comb i k) s = .next ((s''.modComb ck fun x => x.setOp { op with kind := .copy { cp' with done := cp'.done ++ [k] } }).serveComb ck)) ∧
  (∀ op cp f, c.ops[i]? = some op → op.kind = .copy cp → s.copyReady ck op cp = true → k < cp.sectors → cp.done.contains k = false → s.copySector ck op cp k = .error f →
    exec (.copySectorWrite die comb i k) s = .next (s.copyFault ck op cp f)) ∧
  (∀ op cp va l, c.ops[i]? = some op → op.kind = .copy cp → cp.paused = some va → s.translate ck (some op.ctx) va .read = .ok l →
    exec (.copyResume die comb i) s = .next (s.modComb ck fun x => x.setOp { op with kind := .copy { cp with paused := none } }))

/-- The engines' own events: the bin router, the matrix array, the copy engines. That a pass goes from one k-step boundary to the next in one event is the model's choice (log entry 21). -/
def Obligations.EngineProgress : Prop :=
  Sys2Proof.Claim.PrimitiveBinning ∧ Sys2Proof.Claim.EngineEvents

/-- The steward's firmware (R181, R184, R306, R356): a user trap calls the context's handler or ends the context; a record popped leaves
the queue, and one of a frozen context is kept until the context is restored (R359); the TRAP record of a commit is reported to the driver
(R390); a queue that asks the firmware for nothing is left as it is (R358; that the firmware then pops nothing is the model's choice,
log entry 30); a handler that runs longer than 2,097,152 clk ends; the debugger's record resumes the group it names; STEWMSG 4 removes
a context from a comb. -/
def Sys2Proof.Claim.FirmwareEvents : Prop := ∀ (s : State) (die comb : Nat) (r : EvRec),
  let ck := combKey die comb
  let popped := s.popRecord ck r
  (s.headRecord ck = some r →
    (∀ th, r.kind = 1 → r.src ≠ 0xFF → s.keeps ck r = false → Sparse.find? (popped.comb ck).groups r.src = some th → th.stopped = true → th.undisp = true →
      th.place.ctx = some r.ctxid →
      let th' := { th with undisp := false }
      exec (.trapRecordDispatch die comb) s =
        .next ((popped.modComb ck fun c => { c with groups := Sparse.put c.groups r.src th' }).dispatchTrap ck r.src th' r.ctxid)) ∧
    (r.kind = 1 → r.src = 0xFF → s.keeps ck r = false → exec (.trapRecordDispatch die comb) s = .next (popped.reportTrap r.ctxid r.trapRegs)) ∧
    (r.forFirmware = false → (∀ x ∈ (s.comb ck).evq, x.forFirmware = false) → exec (.trapRecordDispatch die comb) s = .next s) ∧
    (r.kind = 8 → s.keeps ck r = false → r.w1.toNat / 256 % 4 = 3 → exec (.trapRecordDispatch die comb) s = .next (popped.dispatchStream ck r)) ∧
    (s.keeps ck r = true → exec (.trapRecordDispatch die comb) s =
      .next (popped.modComb ck fun c => { c with steward := { c.steward with kept := c.steward.kept ++ [r] } })) ∧
    (r.isStewMsg 5 = true → exec (.debugContinue die comb) s = .next (popped.debugResume ck (r.w2.toNat % 64) (r.w2.getLsbD 8))) ∧
    (r.isStewMsg 4 = true → r.w1.getLsbD 8 = true → exec (.contextTeardown die comb) s =
      .next (((popped.clearCtx ck (r.w2.toNat % 256)).tornDown die comb (r.w2.toNat % 256)).dropCur)) ∧
    (r.isStewMsg 4 = true → r.w1.getLsbD 8 = false → popped.liveDies.head? = some die → ck = popped.lkey die 0 →
      exec (.contextTeardown die comb) s = .next (popped.endContext (r.w2.toNat % 256) 5 0 0))) ∧
  (∀ h, (s.comb ck).steward.handler = some h → 2097152 < (s.comb ck).clk - h.began →
    let t := s.endHandler ck 2 0 0
    exec (.handlerTimeLimit die comb) s = .next (if t.cur = some (.steward die comb) then { t with cur := none } else t))

/-- The dispatch of a user trap (R181, R182): with the cause in the context's mask the steward stands at the handler with the slot, the
cause, the PC, the mask and the value of the trap in s0 to s5; without it the trap's registers are reported to the driver and
the context ends. -/
def Sys2Proof.Claim.UserTraps : Prop := ∀ (s : State) (ck slot ctx : Nat) (th : Thread) (x : CtxRec), Sparse.find? s.ctxs ctx = some x →
  let t := s.userTrap ck slot th ctx
  (x.causes.getLsbD th.trap.tcause.toNat = true →
    let st := (t.comb ck).steward
    st.th.pc = x.handler ∧ st.th.stopped = false ∧ st.winsel = some slot ∧ st.ctx = some ctx ∧ st.handler.isSome = true ∧ st.th.cd = 1 ∧
    (List.range 6).map (fun k => Sparse.get 0 st.th.s k) =
      [BitVec.ofNat 32 slot, th.trap.tcause, th.trap.tpc.setWidth 32, hiWord th.trap.tpc, th.trap.tmask, th.trap.tval]) ∧
  (x.causes.getLsbD th.trap.tcause.toNat = false →
    t = ({ s with hive := { s.hive with trapReports := s.hive.trapReports ++ [(ctx, th.trap)] } } : State).endContext ctx 1 th.trap.tcause.toNat (th.trap.tpc.toNat % 2 ^ 32))

/-- A context torn down on a comb (R356; that its FIFO banks become OFF and its translations leave is the model's choice, log entry 32) leaves there no group, stream, operation, parked message, ready task, FIFO bank or translation of it. -/
def Sys2Proof.Claim.TornDownComb : Prop := ∀ (c : Comb) (ctx : Nat),
  let d := c.withoutCtx ctx
  (∀ g ∈ d.groups, g.2.place.ctx ≠ some ctx) ∧ (∀ o ∈ d.ops, o.ctx ≠ ctx) ∧ (∀ m ∈ d.parked, m.ctx ≠ ctx) ∧ (∀ e ∈ d.ready, e.ctx ≠ ctx) ∧
  (∀ b ∈ d.banks, ¬ (b.mode = .fifo ∧ b.owner = ctx)) ∧ (∀ e ∈ d.dtlb, e.ctx ≠ ctx) ∧ (∀ q ∈ d.seqs, q.2.th.place.ctx ≠ some ctx)

/-- What the steward's firmware does, each action one event (the model's choice, log entry 30); what the debugger's continue does without a record is free (log entry 31), and a torn-down comb's FIFO banks are OFF (log entry 32). -/
def Obligations.FirmwareActions : Prop :=
  Sys2Proof.Claim.FirmwareEvents ∧ Sys2Proof.Claim.UserTraps ∧ Sys2Proof.Claim.TornDownComb

/-- The adapter's registers (R447, R448, R452), each as it accepts a write and as it refuses one: an accepted QBASE or QSIZE sets QHEAD and
QTAIL to 0; a QTAIL that fits rings the doorbell, one that overruns is ignored and posts notice kind 4, one before the queue
is open is ignored; an NBASE whose ring is empty is taken; a changed NSIZE sets NHEAD and NTAIL to 0, an unchanged one moves NHEAD; the
notices held so far are written where the ring then has room; FACCEPT is taken once. -/
def Sys2Proof.Claim.AdapterRegisters : Prop := ∀ (s : State) (v : BitVec 64) (fa : BitVec 128),
  let ad := s.adapter
  let up : Prop := s.hive.state = 3
  let q := ad.qsize
  let new := v.toNat % q
  let overruns : Prop := (ad.qhead + q + q - ad.qtail - 1) % q < (new + q - ad.qtail) % q
  let baseOk : Prop := up ∧ ad.qhead = ad.qtail ∧ v.toNat % 4096 = 0 ∧ s.ringFits v.toNat (if ad.qsizeOk then ad.qsize else 16) = true
  let sizeOk : Prop := up ∧ ad.qhead = ad.qtail ∧ pow2In v.toNat 16 4096 = true ∧ (ad.qbaseOk = true → s.ringFits ad.qbase.toNat v.toNat = true)
  let ringOk : Prop := v.toNat % 4096 = 0 ∧ ad.nhead = ad.ntail
  let n := v.toNat % 2 ^ 32
  let open' : Prop := ad.qbaseOk = true ∧ ad.qsizeOk = true
  (baseOk → exec (.qbaseWrite v) s = .next { s with adapter := { ad with qbase := v, qbaseOk := true, qhead := 0, qtail := 0 } }) ∧
  (¬ baseOk → exec (.qbaseWrite v) s = .next s) ∧
  (sizeOk → exec (.qsizeWrite v) s = .next { s with adapter := { ad with qsize := v.toNat, qsizeOk := true, qhead := 0, qtail := 0 } }) ∧
  (¬ sizeOk → exec (.qsizeWrite v) s = .next s) ∧
  (open' → ¬ overruns → exec (.qtailWrite v) s = .next ({ s with adapter := { ad with qtail := new } } : State).doorbell) ∧
  (open' → overruns → exec (.qtailWrite v) s = .next (s.notify 4 (v.toNat % 2 ^ 32) 0 0)) ∧
  (¬ open' → exec (.qtailWrite v) s = .next s) ∧
  (ringOk → exec (.nbaseWrite v) s = .next (({ s with adapter := { ad with nbase := v, nbaseOk := true } } : State).drainNotices ad.held.length)) ∧
  (¬ ringOk → exec (.nbaseWrite v) s = .next s) ∧
  (pow2In n 16 65536 = true → n ≠ ad.nsize → ad.nhead = ad.ntail → exec (.nsizeNheadWrite v) s =
    .next (({ s with adapter := { ad with nsize := n, nsizeOk := true, nhead := 0, ntail := 0 } } : State).drainNotices ad.held.length)) ∧
  (pow2In n 16 65536 = true → n = ad.nsize → exec (.nsizeNheadWrite v) s =
    .next (({ s with adapter := { ad with nhead := v.toNat / 2 ^ 32 % ad.nsize } } : State).drainNotices ad.held.length)) ∧
  (pow2In n 16 65536 = false ∨ (n ≠ ad.nsize ∧ ad.nhead ≠ ad.ntail) → exec (.nsizeNheadWrite v) s = .next s) ∧
  (up → ad.accepted = false → exec (.facceptWrite fa) s = .next { s with adapter := { ad with faccept := fa, accepted := true }, hive := { s.hive with meas := s.hive.meas.modify 4 fun m => extendSlot m (leBytes 16 (s.hive.foffer &&& fa).toNat) } }) ∧
  (¬ up ∨ ad.accepted = true → exec (.facceptWrite fa) s = .next s) ∧
  -- the doorbell: a STEWMSG code 1 with source 0 to the launch station
  (∃ a b, s.doorbell = { s.sendRecord s.station 0xFF (stewMsg 1 0 a b) with freeN := s.freeN + 1 })

/-- Registers of the hive controller, error counts and flits (R248, R356, R446, R447, R451, R453, R456), at offsets of the model's own
(log entry 34): a plain register takes the value; a 0 clears a word of an error block, another value does not; a STEWMSG goes to the
steward of its comb; a fabric port takes its peer and a die its power cap from 200 to 360 W; the tables that the driver only reads keep
what they hold. A flit with the CRC of its bytes that is the next of its link moves the sequence on and is acknowledged; a read request
below the firmware region is answered with its bytes, a write there puts its bytes in memory, a register access with a payload writes
the register and one without reads it; an acknowledgement empties the replay buffer up to the flit it names; a flit that fails its CRC
or is out of sequence has no effect. A flit sent takes the next sequence number of its link and waits in the replay buffer. -/
def Sys2Proof.Claim.HostAccesses : Prop := ∀ (s : State) (off die word link : Nat) (v : BitVec 64) (f : Flit),
  let want : Nat := s.adapter.rxSeq.getD link 0
  let takes : Prop := f.crc = flitCrc f ∧ link < 2 ∧ (s.die (linkDie link)).live = true ∧ f.seq % 256 = want ∧ 0 < f.len ∧ f.len ≤ 240
  let wrong : Prop := f.crc ≠ flitCrc f ∨ f.seq % 256 ≠ want
  let r : State := { s with adapter := { s.adapter with rxSeq := s.adapter.rxSeq.set link ((want + 1) % 256) } }
  let s' : State := r.sendFlit link 4 f.tag 0 (leBytes 1 want)
  let bs := f.payload.take f.len
  let cleared (d w : Nat) : State := s.modDie d fun d => { d with errCounts := Sparse.set 0 d.errCounts w 0 }
  let at' : Nat := off / 2 ^ 12 % 64
  let w : Nat := off % 2 ^ 12 / 4
  (hiveReg off = .plain → exec (.registerWrite off v) s = .next { s with hive := { s.hive with regs := Sparse.set 0 s.hive.regs (off / 8 * 8) v } }) ∧
  (hiveReg off = .errors → v = 0 → w < 16 → exec (.registerWrite off v) s = .next (cleared at' w)) ∧
  (hiveReg off = .errors → v ≠ 0 → exec (.registerWrite off v) s = .next s) ∧
  (hiveReg off = .steward → exec (.registerWrite off v) s = .next (s.driverMsg at' (off % 2 ^ 12 / 8) v)) ∧
  (hiveReg off = .pairing → off % 2 ^ 20 / 8 < 48 →
    exec (.registerWrite off v) s = .next { s with hive := { s.hive with pairing := Sparse.set 0 s.hive.pairing (off % 2 ^ 20 / 8) v.toNat } }) ∧
  (hiveReg off = .cap → at' < 36 → 200 ≤ v.toNat → v.toNat ≤ 360 →
    exec (.registerWrite off v) s = .next (s.modDie at' fun d => { d with cap := v.toNat })) ∧
  (hiveReg off = .cap → v.toNat < 200 ∨ 360 < v.toNat → exec (.registerWrite off v) s = .next s) ∧
  (hiveReg off ∉ [.plain, .errors, .steward, .pairing, .cap] → exec (.registerWrite off v) s = .next s) ∧
  (word < 16 → exec (.errorCountClear die word) s = .next (cleared die word)) ∧
  (wrong → exec (.flitReceive link f) s = .next s) ∧
  (takes → f.kind = 1 → s'.hostMay f.addr f.len = true →
    exec (.flitReceive link f) s = .next (s'.sendFlit link 2 f.tag 0 (s'.bytesNow f.addr f.len))) ∧
  (takes → f.kind = 3 → s'.hostMay f.addr bs.length = true →
    exec (.flitReceive link f) s = .next (s'.putBytes 0xFF 2 (byteItems ((List.range bs.length).map (f.addr + ·)) (leNat bs)))) ∧
  (takes → f.kind = 4 → exec (.flitReceive link f) s = .next (r.acked link (leNat (f.payload.take 1)))) ∧
  (takes → f.kind = 5 → bs = [] → exec (.flitReceive link f) s =
    .next (s'.reply link f.tag (((s'.adapterBytes f.addr).getD (s'.hiveBytes f.addr)).take f.len))) ∧
  (let x := s.adapter.txSeq.getD link 0
    let t := s.sendFlit link f.kind f.tag f.addr f.payload
    let sent : Flit := { f with seq := x, len := f.payload.length, crc := flitCrc { f with seq := x, len := f.payload.length, crc := 0 } }
    t.adapter.replay = s.adapter.replay ++ [(link, sent)] ∧ (link < s.adapter.txSeq.length → t.adapter.txSeq.getD link 0 = (x + 1) % 256) ∧
    ∀ pre post g, s.adapter.replay = pre ++ (link, g) :: post → (∀ y ∈ pre, y.1 = link → y.2.seq ≠ g.seq) →
      (s.acked link g.seq).adapter.replay = (pre.filter fun y => decide (y.1 ≠ link)) ++ post) ∧
  (takes → f.kind = 5 → bs ≠ [] →
    let x : BitVec 64 := BitVec.ofNat 64 (leNat (bs.take 8))
    let own : List Nat := [0x000, 0x010, 0x020, 0x040, 0x048, 0x050, 0x058, 0x060, 0x068, 0x070]
    (f.addr = 0x020 → exec (.flitReceive link f) s = exec (.facceptWrite (BitVec.ofNat 128 (leNat (bs.take 16)))) s') ∧
    (f.addr = 0x040 → exec (.flitReceive link f) s = exec (.qbaseWrite x) s') ∧
    (f.addr = 0x048 → exec (.flitReceive link f) s = exec (.qsizeWrite x) s') ∧
    (f.addr = 0x050 → exec (.flitReceive link f) s = exec (.qtailWrite x) s') ∧
    (f.addr = 0x060 → exec (.flitReceive link f) s = exec (.nbaseWrite x) s') ∧
    (f.addr = 0x068 → exec (.flitReceive link f) s = exec (.nsizeNheadWrite x) s') ∧
    (f.addr = 0x000 ∨ f.addr = 0x010 ∨ f.addr = 0x058 ∨ f.addr = 0x070 → exec (.flitReceive link f) s = .next s') ∧
    (own.contains f.addr = false → exec (.flitReceive link f) s = exec (.registerWrite f.addr x) s'))

/-- The host's side: the adapter's registers, and accesses to the hive controller, error counts and memory. Where the hive controller's registers lie, which flits carry an answer, and that a flit of a type that the host does not send is only acknowledged are the model's choice (log entry 34). -/
def Obligations.HostInterface : Prop :=
  Sys2Proof.Claim.AdapterRegisters ∧ Sys2Proof.Claim.HostAccesses

/-- Launch records (R392, R449, R450): a CTXNEW without fault creates its context and is done with STATUS 2; a GRID without fault waits for
its counters; CTXEND ends its context; a TREE that is whole is installed on its dies; each moves QHEAD on, and one that is
refused has STATUS 0x80 plus its reason. The record is read with acquire ordering: the launch station's comb keeps no older copy in
its L1 (R448). -/
def Obligations.LaunchRecords : Prop := ∀ (s : State) (at' : Nat) (bs : List Byte),
  let f := recField bs
  let t := s.dropL1 s.station
  let g := s.startGrids.dropL1 s.startGrids.station
  (s.launchRec = some (at', bs) →
    (f 0 1 = 1 → t.ctxnewBad bs = 0 → exec .ctxnew s =
      .next (({ t with ctxs := Sparse.put t.ctxs (f 1 1) (ctxOfRec bs (Config.spillCap t.freeN)), freeN := t.freeN + 1 } : State).setStatus at' 2).advanceHead) ∧
    (f 0 1 = 1 → t.ctxnewBad bs ≠ 0 → exec .ctxnew s = .next (t.reject at' (t.ctxnewBad bs))) ∧
    (f 0 1 = 3 → zeroOutside bs [(0, 2), (4, 1), (32, 16)] = true → ∀ x, Sparse.find? t.ctxs (f 1 1) = some x →
      exec .ctxend s = .next ((({ t with ctxs := Sparse.put t.ctxs (f 1 1) { x with endRecs := x.endRecs ++ [(at', BitVec.ofNat 64 (f 32 8), BitVec.ofNat 64 (f 40 8))] } }.setStatus at' 1).endContext (f 1 1) 5 0 0).advanceHead)) ∧
    (f 0 1 = 3 → zeroOutside bs [(0, 2), (4, 1), (32, 16)] = true → Sparse.find? t.ctxs (f 1 1) = none → exec .ctxend s = .next (t.reject at' 3)) ∧
    (∀ ts, f 0 1 = 4 → (t.earlyReject 4 || !zeroOutside bs [(0, 3), (4, 1), (8, 8), (32, 16)] || decide (16 ≤ f 2 1)) = false → t.ctxAlive (f 1 1) = true →
      t.treeTable (f 1 1) (f 8 8) = some ts → t.treeOk ts = true →
      let s' := t.liveDies.foldl (fun s d => s.modDie d fun x => { x with trees := match treeAt ts d with
        | some t => Sparse.put x.trees (f 2 1) t
        | none => Sparse.erase x.trees (f 2 1) }) t
      exec .tree s = .next (s'.recordDone (f 1 1) at' (BitVec.ofNat 64 (f 32 8)) (BitVec.ofNat 64 (f 40 8))).advanceHead)) ∧
  (s.startGrids.launchRec = some (at', bs) → f 0 1 = 2 → g.gridBad bs = 0 → bs.getD 2 0 &&& 8 = 0 ∨ g.grids = [] →
    exec .grid s = .next (({ g with grids := g.grids ++ [gridOfRec bs at' g.nextUid], nextUid := g.nextUid + 1 }.setStatus at' 1).advanceHead).startGrids) ∧
  (s.startGrids.launchRec = some (at', bs) → f 0 1 = 2 → g.gridBad bs ≠ 0 → exec .grid s = .next (g.reject at' (g.gridBad bs)))

/-- Starts and power (R454, R456, R458): a cold start counts itself, ends all work and clears the adapter; from sound images it raises the
floors, zeroes HBM below the firmware region of the live dies and reaches STATE 3 in generation 0, with ERR 3 after a thermal
trip, or halts with ERR 2 when no die is left; an image that fails verification halts it with that ERR. A warm start of the same hash does so in
the next generation, of which the driver is told with notice kind 1; one of another hash as a cold start with ERR 1; after a level 2
alarm a warm start does nothing. Power lost ends all work, leaves STATE 0, and keeps the monotonic store. The clock is stretched at 105
degrees or above the cap; at 120 degrees power is removed and the trip recorded. -/
def Sys2Proof.Claim.StartsAndPower : Prop := ∀ (s : State) (c : StartFindings) (die temp power : Nat),
  let quiet (t : State) : Prop := t.ctxs = [] ∧ t.grids = [] ∧ t.msgs = [] ∧ t.stores = [] ∧ t.bcasts = [] ∧ t.combs = [] ∧ t.l2 = [] ∧ t.tiles = [] ∧ t.cur = none
  let told (t : State) : List (List Word) := if t.hive.state = 3 then [[1, BitVec.ofNat 32 (t.die (t.liveDies.headD 0)).gen.toNat, BitVec.ofNat 32 t.liveDies.length, 0]] else []
  let zeroed (t : State) : Prop := ∀ d ∈ t.liveDies, ∀ x < firmwareBase, t.rawByte (d * 2 ^ 50 + x) = 0
  let tripped : Nat := if s.hive.tripErr then 3 else 0
  let up (t : State) (gen : BitVec 4) (err : Nat) : Prop :=
    (t.hive.state = 3 ∧ t.hive.err = err ∧ t.liveDies ≠ [] ∧ (∀ d ∈ t.liveDies, (t.die d).gen = gen ∧ (t.die d).lmap = t.liveDies) ∧ zeroed t) ∨
    (t.hive.state = 4 ∧ t.hive.err = 2 ∧ t.liveDies = [])
  let counted (t : State) : Prop := t.hive.starts = s.hive.starts + 1 ∧ t.hive.power = true ∧ t.hive.tripErr = false ∧ quiet t
  let coldly (t : State) (err : Nat) : Prop := counted t ∧ t.adapter = Adapter.reset ∧
    (verifyErr s.hive.floors c ≠ 0 → t.hive.state = 4 ∧ t.hive.err = verifyErr s.hive.floors c ∧ t.hive.floors = s.hive.floors) ∧
    (verifyErr s.hive.floors c = 0 → t.hive.floors = (List.range 3).map (fun k => ((image c k).map fun i => i.version.toNat).getD 0) ∧ up t 0 err)
  let off := s.powerOff
  (∃ t : State, exec (.coldStart c) s = .next t ∧ coldly t tripped) ∧
  (s.hive.coldOnly = false → measured c = s.hive.stored → ∃ t : State, exec (.warmStart c) s = .next t ∧ counted t ∧
    t.adapter = { Adapter.reset with held := told t } ∧ up t ((s.die (s.liveDies.headD 0)).gen + 1) tripped) ∧
  (s.hive.coldOnly = false → measured c ≠ s.hive.stored → ∃ t : State, exec (.warmStart c) s = .next t ∧ coldly t 1) ∧
  (s.hive.coldOnly = true → exec (.warmStart c) s = .next s) ∧
  (exec .powerLoss s = .next off ∧ off.hive.power = false ∧ off.hive.state = 0 ∧ quiet off ∧ off.adapter = Adapter.reset ∧ off.hive.nextLeaf = s.hive.nextLeaf ∧
    off.hive.floors = s.hive.floors ∧ off.hive.starts = s.hive.starts ∧ off.hive.seeds = s.hive.seeds ∧ off.hive.session = none ∧ off.hive.reports = []) ∧
  exec (.clockStretch die temp power) s = .next (s.modDie die fun d => { d with stretched := decide (105 ≤ temp) || decide (d.cap < power) }) ∧
  (120 ≤ temp → exec (.thermalTrip die temp) s = .next { off with hive := { off.hive with tripErr := true } }) ∧
  (temp < 120 → exec (.thermalTrip die temp) s = .next s)

/-- Alarms and reports (R458, R461 to R463): an alarm of level 1 to 3 posts notice kind 6 and extends slot 5; level 2 and 3 also halt
with ERR 6 or 7 so that only a cold start restarts the package, erase the session keys, and discard the reports asked for; level 3
erases the identity key's seeds and its state. A report request is refused with status 3 in any STATE when the key is erased or
exhausted, and with 1 outside STATE 3; else it takes the next leaf, written to the store, or is queued behind the one in progress with
status 2 (a report in progress also reads as 2: the model's choice, log entry 47); a report that is complete is released with status 0,
and the next in the queue takes its leaf or is refused. -/
def Sys2Proof.Claim.AlarmsAndReports : Prop := ∀ (s : State) (level sensor die : Nat) (nonce : BitVec 256),
  let h := s.hive
  let n := s.notify 6 level sensor die
  let noted : Hive := { n.hive with meas := n.hive.meas.modify 5 (fun m => extendSlot m (alarmRecord level sensor die)), alarm := Nat.max n.hive.alarm level }
  let none' : Prop := h.seeds = none ∨ 2 ^ 20 ≤ h.nextLeaf
  let answered (x : Nat) : Hive := { h with statuses := h.statuses ++ [x] }
  let released (r : Report) (rs : List Report) : Hive := { h with released := h.released ++ [r], statuses := h.statuses.set r.num 0, reports := rs }
  (level = 1 → exec (.securityAlarm level sensor die) s = .next { n with hive := noted }) ∧
  (level = 2 → exec (.securityAlarm level sensor die) s =
    .next { n with cur := none, hive := { ({ noted with session := none } : Hive).giveUp 1 with coldOnly := true, state := 4, err := 6 } }) ∧
  (level = 3 → exec (.securityAlarm level sensor die) s =
    .next { n with cur := none, hive := { ({ noted with session := none, seeds := none, nextLeaf := 0 } : Hive).giveUp 3 with coldOnly := true, state := 4, err := 7 } }) ∧
  (none' → exec (.reportRequest nonce) s = .next { s with hive := answered 3 }) ∧
  (¬ none' → h.state ≠ 3 → exec (.reportRequest nonce) s = .next { s with hive := answered 1 }) ∧
  (¬ none' → h.state = 3 → h.reports = [] →
    exec (.reportRequest nonce) s = .next { s with hive := { answered 2 with nextLeaf := h.nextLeaf + 1, reports := [s.reportNow nonce (some h.nextLeaf)] } }) ∧
  (¬ none' → h.state = 3 → h.reports ≠ [] →
    exec (.reportRequest nonce) s = .next { s with hive := { answered 2 with reports := h.reports ++ [s.reportNow nonce none] } }) ∧
  (∀ r, h.reports = [r] → exec .reportComplete s = .next { s with hive := released r [] }) ∧
  (∀ r q qs, h.reports = r :: q :: qs → h.nextLeaf < 2 ^ 20 → exec .reportComplete s =
    .next { s with hive := { released r ({ q with leaf := some h.nextLeaf } :: qs) with nextLeaf := h.nextLeaf + 1 } }) ∧
  (∀ r q qs, h.reports = r :: q :: qs → 2 ^ 20 ≤ h.nextLeaf → exec .reportComplete s = .next { s with hive := (released r (q :: qs)).giveUp 3 }) ∧
  (h.reports = [] → exec .reportComplete s = .next s) ∧
  -- a report given up: none is in progress or queued, and each one's status is the reason; the other statuses stay
  (∀ x, (h.giveUp x).reports = [] ∧ (h.giveUp x).released = h.released ∧ (h.giveUp x).statuses.length = h.statuses.length ∧
    (∀ r ∈ h.reports, r.num < h.statuses.length → (h.giveUp x).statuses[r.num]? = some x) ∧
    ∀ k, (∀ r ∈ h.reports, r.num ≠ k) → (h.giveUp x).statuses[k]? = h.statuses[k]?)

/-- Starts, power, alarms and reports. Which images a start finds, whether their signatures verify, and what the self-test finds come from outside the model (log entries 35 and 47); the corners of a start are log entry 36. -/
def Obligations.StartsAlarmsAndReports : Prop :=
  Sys2Proof.Claim.StartsAndPower ∧ Sys2Proof.Claim.AlarmsAndReports

/-- Retirement (R211, R213, R453, R455): a die or a comb found dead waits its turn; three heartbeats missed and a failed probe, 16
uncorrectable errors of a comb within a second, or the driver's request find it; the next one is applied, with what the death of a die
cuts off; a port that goes down is lost. -/
def Obligations.Retirements : Prop := ∀ (s : State) (die comb port : Nat) (met : CombErrors),
  (∀ oc, (s.die die).live = true → die < 36 → exec (.retireRequest die oc) s = .next (s.found die oc 3)) ∧
  (exec (.combErrorRetirement die met) s =
    .next ((s.modComb (combKey die met.comb) fun c => { c with errs := c.errs.drop met.aged ++ met.errs.map fun e => { e with handled := false } }).combErrs (combKey die met.comb))) ∧
  ((s.comb (combKey die comb)).errs.all (·.handled) = true → 16 ≤ ((s.comb (combKey die comb)).errs.filter fun e => !e.corrected).length →
    s.combErrs (combKey die comb) = (s.modComb (combKey die comb) fun c => { c with errs := [] }).found (keyDie (combKey die comb)) (some (keyComb (combKey die comb))) 2) ∧
  exec (.heartbeat die) s = .next (s.modDie die fun d => { d with missed := 0 }) ∧
  (∀ ok, (s.die die).missed + 1 < 3 → exec (.heartbeatMiss die ok) s = .next (s.modDie die fun d => { d with missed := (s.die die).missed + 1 })) ∧
  (3 ≤ (s.die die).missed + 1 → (s.die die).live = true → die < 36 → exec (.heartbeatMiss die false) s =
    .next ((s.modDie die fun d => { d with missed := 0 }).found die none 1)) ∧
  let settled : Prop := (s.combs.all fun c => c.2.errs.all (·.handled)) = true
  (∀ cause rest, settled → s.hive.pending = (die, none, cause) :: rest → s.oldMessage = false → (s.die die).live = true → die < 36 →
    exec .retirement s = .next ((({ s with hive := { s.hive with pending := rest } } : State).retireDie die cause).mapOut cause)) ∧
  (∀ cause rest, settled → s.hive.pending = (die, some comb, cause) :: rest → s.oldMessage = false → (s.die die).live = true → die < 36 → comb < 156 →
    (∀ x, Sparse.find? (s.die die).cairn comb = some x → x.dead = false) →
    exec .retirement s = .next ((({ s with hive := { s.hive with pending := rest } } : State).retireComb die comb cause).mapOut cause)) ∧
  (port < 48 → s.hive.portDown.contains port = false → exec (.fabricPortDown port) s =
    .next (({ s with hive := { s.hive with portDown := s.hive.portDown ++ [port] } } : State).losePeer (2 ^ 31 + port)))

/-- Words written out from the fields of R71 to R73 decode to their instructions: NOP; IADD.U32 v3, v1, v2; the I form of IADD.S32 s4, s5, -1;
LD.W32 v8, [v10 + 16]; BRA by -12 bytes; EXIT under q3 and not p2 with STALL 2, END and LAND. -/
def Obligations.DecodedWords : Prop :=
  let g : Guard := ⟨false, 7⟩
  let h : Head := ⟨g, g, 0, false, false, false⟩
  let x : Spec := .v 0
  decodeTableWord 96 0x1dc00 = some (.nop ⟨h, x, x, x, x, x, 0, 0⟩) ∧
  decodeTableWord 96 0x14000008040ddc10 = some (.iadd ⟨h, .v 3, .v 1, .v 2, x, x, 5, 0, 0, 0, 0, 0, none⟩) ∧
  decodeTableWord 96 0x80ffffffff018021611dc10 = some (.iadd ⟨h, .s 4, .s 5, x, x, x, 6, 0, 0, 0, 0, 0, some 0xFFFFFFFF⟩) ∧
  decodeTableWord 96 0x100001000002821dd00 = some (.ld ⟨h, .v 8, .v 10, x, x, 4, 0, 0, 0, false, 0, 16⟩) ∧
  decodeTableWord 96 0x3fffff40001dc80 = some (.bra ⟨h, x, x, 0xFFFFFD, 0⟩) ∧
  decodeTableWord 96 0x3200000000000000000e801 = some (.exit ⟨⟨⟨true, 2⟩, ⟨false, 3⟩, 2, true, true, false⟩, x, x, x, x, x, 0, 0⟩)

/-- Decoding an encoded well-formed instruction gives it back, with nothing left over (R68, R71 to R74). -/
def Obligations.DecodeEncode : Prop := ∀ i : Instr, WellFormed i → decode (encode i) = .ok (i, [])

/-- Encoding a decoded word gives the word back: no two words mean one instruction, and no bit of a word is ignored (R71 to R74). -/
def Obligations.EncodeDecode : Prop := ∀ (n : Nat) (i : Instr), n < 2 ^ 96 → decodeWord n = .ok i → WellFormed i ∧ encodeWord i = n

/-- A step without an event before it runs the decoded instruction (R68, R81): when the word at the current agent's PC is fetched and decodes
to `i`, the step is `exec` of `i` on the machine as the fetch leaves it; a word that decodes to nothing traps ILLOP, and a
fetch that fails traps. After it every thread is looked at (R335), which changes only from when a thread is ready. -/
def Obligations.StepRunsDecodedInstruction : Prop := ∀ (s s' : State) (a : Agent) (th : Thread) (w : InstrWord),
  s.agenda = [] → s.running = true → s.cur = some a → s.thread a = some th → th.stopped = false →
  (s.fetch a th = .ok (s', w) →
    (∀ i rest, decode (leBytes 12 w.toNat) = .ok (i, rest) → step s = looked (exec i s')) ∧
    (∀ f, decode (leBytes 12 w.toNat) = .error f → step s = looked (.next (({ s' with cur := none } : State).illop a th w)))) ∧
  (∀ f, s.fetch a th = .error f →
    step s = looked (.next ((({ s with cur := none } : State).countFetch (agentKey a) (s.agentCtx a) th.pc.toNat f.cause).trapAgent a th f)))

/-- A fetched word is the 12 bytes at the PC (R68): without the loop buffer and with an empty instruction cache, the bytes at their homes
in increasing addresses, as the fetch finds them; a fetch from no REPLICATED page changes none (R225). -/
def Sys2Proof.Claim.FetchedBytes : Prop := ∀ (s s' : State) (a : Agent) (th : Thread) (w : InstrWord) (locs : List Nat),
  let n := s.fetchNote (agentKey a) (s.agentCtx a) th.pc.toNat
  th.waiting = none → th.buffered = none → (s.comb (agentKey a)).icache = [] → s.fetchLocs (agentKey a) (s.agentCtx a) th.pc.toNat = .ok locs →
  (∀ l ∈ locs, l / 128 = locs.headD 0 / 128 ∨ l / 128 = locs.getLastD 0 / 128) →
  s.fetch a th = .ok (s', w) → w = BitVec.ofNat 96 (leNat (locs.map n.byteNow)) ∧
    ((∀ x ∈ [th.pc.toNat, th.pc.toNat + 11], ∀ l, s.translate (agentKey a) (s.agentCtx a) x .exec = .ok l → l.place ≠ 2) →
      ∀ loc, n.byteNow loc = s.byteNow loc)

/-- An event at the head of the agenda acts, or passes where the package is not in STATE 3; without an event and a current agent what the
model chooses next acts (log entry 1), at its clk where it has one; without power a step faults. -/
def Sys2Proof.Claim.StepOfEvents : Prop := ∀ (s : State) (e : Instr) (rest : List Instr),
  (s.agenda = e :: rest → s.acts e = true → step s = looked (exec e { s with agenda := rest })) ∧
  (s.agenda = e :: rest → s.acts e = false → step s = .next { s with agenda := rest }) ∧
  (s.agenda = [] → s.running = true → s.cur = none →
    (s.nextTurn = some (.event e) → step s = looked (exec e s)) ∧
    (∀ ck t, s.nextTurn = some (.timed ck t e) → step s = looked (exec e (s.tick ck t))) ∧
    (∀ a, s.nextTurn = some (.carryOn a) → step s = looked (stepAgent { s with cur := some a } a)) ∧
    (s.nextTurn = none → step s = .next s)) ∧
  (s.agenda = [] → s.hive.power = false → step s = .fault .unpowered) ∧
  (s.agenda = [] → s.hive.power = true → s.hive.state ≠ 3 → step s = .fault .halted)

/-- What a step adds when it looks at every thread (R335): from when a thread is ready, and whether its class is full; nothing else of
the machine. A stop stays what it is. -/
def Sys2Proof.Claim.LookingChangesReadinessOnly : Prop := ∀ (s : State) (f : Fault) (r : Refusal),
  let t := s.look
  let same (c d : Comb) : Prop := d.evq = c.evq ∧ d.ops = c.ops ∧ d.scratch = c.scratch ∧ d.teams = c.teams ∧ d.table = c.table ∧ d.clk = c.clk ∧ d.banks = c.banks
  looked (.next s) = .next t ∧ looked (.fault f) = .fault f ∧ looked (.refused r) = .refused r ∧
  t.hbm = s.hbm ∧ t.host = s.host ∧ t.l2 = s.l2 ∧ t.stores = s.stores ∧ t.msgs = s.msgs ∧ t.dies = s.dies ∧ t.ctxs = s.ctxs ∧ t.hive = s.hive ∧ t.adapter = s.adapter ∧
  t.cur = s.cur ∧ t.agenda = s.agenda ∧ (∀ ck, same (s.comb ck) (t.comb ck)) ∧
  (∀ a th, s.thread a = some th → ∃ full at', t.thread a = some { th with full := full, readyAt := at' } ∧
    th.readyAt ≤ at' ∧ (at' ≠ th.readyAt → th.stopped = false ∧ th.wait = .none ∧ th.runLen = 0))

/-- What a fetch reads, what an event at the head of the agenda does, and what a step's look at the threads changes. That events stand in an agenda is the model's own (log entry 1). -/
def Obligations.FetchAndEvents : Prop :=
  Sys2Proof.Claim.FetchedBytes ∧ Sys2Proof.Claim.StepOfEvents ∧ Sys2Proof.Claim.LookingChangesReadinessOnly

/-- Every instruction that has a word is issued under a rule of its opcode, and so answers a next state, whatever the state: a
trap is a next state (R8). -/
def Obligations.EveryInstructionIssues : Prop := ∀ (i : Instr) (p : Nat × Form) (s : State), opForm i = some p →
  ∃ (r : Rule) (body : Env → Eff), r.op = p.1 ∧ exec i s = issue s r body ∧ ∃ t, exec i s = .next t

/-- Before the effect (R76, R81, R86, R88, R256, R270, R284): a decode fault traps with its code; else no active lane passes without effect; else a
register the scoreboard refuses traps STALLSHORT; else an uncorrectable error in a source traps DERR; else a full class or an
open acquire waits. -/
def Sys2Proof.Claim.IssueChecks : Prop := ∀ (s : State) (a : Agent) (th : Thread) (r : Rule) (body : Env → Eff),
  let x := s.issueOf a th r
  let e := x.env
  let bad := hazard e.rv x.due (guardUses r.h r.vec ++ r.uses)
  let checked : Prop := e.th.mode.getLsbD 4 = true ∧ e.ag.isStream = false
  let t := issue s r body
  s.cur = some a → s.thread a = some th → th.stopped = false →
  (∀ c v, x.decodeFault r = some (c, v) → t = .next (x.trap ⟨c, x.tmask, v, 0⟩)) ∧
  (x.decodeFault r = none → e.act = 0 → t = .next (x.halted r .off)) ∧
  (∀ sp, x.decodeFault r = none → e.act ≠ 0 → checked → bad = some sp → t = .next (x.trap ⟨codeSTALLSHORT, x.tmask, sp.code, 0⟩)) ∧
  (∀ b bs, x.decodeFault r = none → e.act ≠ 0 → (checked → bad = none) → badLanes e.rv r.uses = b :: bs → t = .next (x.halted r (.derr (derrTrap (b :: bs))))) ∧
  (x.decodeFault r = none → e.act ≠ 0 → (checked → bad = none) → badLanes e.rv r.uses = [] → x.mustWait r = true → t = .next (x.halted r .wait)) ∧
  (x.decodeFault r = none → e.act ≠ 0 → (checked → bad = none) → badLanes e.rv r.uses = [] → x.mustWait r = false → t = .next (x.finish r (body e)))

/-- The decode faults of R81 in their order: PRIV, ILLOP of a context that does not accept the instruction, BADSPEC, REGRANGE, BADRM. -/
def Sys2Proof.Claim.DecodeFaults : Prop := ∀ (s : State) (a : Agent) (th : Thread) (r : Rule),
  let x := s.issueOf a th r
  let stream := x.env.ag.isStream
  let bad := r.uses.find? fun u => u.bad stream
  let far := r.uses.find? fun u => u.range x.env.th.budget
  let user : Prop := x.env.ag.isSteward = false ∧ stream = false
  (r.priv = true → user → x.decodeFault r = some (codePRIV, 0)) ∧
  (¬ (r.priv = true ∧ user) → r.accepts x.env.ag x.env.th = false → x.decodeFault r = some (codeILLOP, 0)) ∧
  (∀ u, ¬ (r.priv = true ∧ user) → r.accepts x.env.ag x.env.th = true → bad = some u → x.decodeFault r = some (codeBADSPEC, u.sp.code)) ∧
  (∀ u, ¬ (r.priv = true ∧ user) → r.accepts x.env.ag x.env.th = true → bad = none → far = some u → x.decodeFault r = some (codeREGRANGE, u.sp.code)) ∧
  (¬ (r.priv = true ∧ user) → r.accepts x.env.ag x.env.th = true → bad = none → far = none →
    x.decodeFault r = (badRound r.rnd x.env.th.mode).map fun v => (codeBADRM, v))

/-- What stops an instruction before its effect: the checks of its issue, and the faults of its decode in their order. The order of the operands of one kind of fault is the model's reading (log entry 26). -/
def Obligations.ChecksBeforeTheEffect : Prop :=
  Sys2Proof.Claim.IssueChecks ∧ Sys2Proof.Claim.DecodeFaults

/-- Results (R88, R99, R101, R102): a write that lands is read in its register and lane, every other register of the thread reads as
before, and a write to p7, q7 or the sink is discarded. -/
def Sys2Proof.Claim.RegisterWrites : Prop := ∀ (th : Thread) (code lane : Nat) (x : Word),
  let t := th.putReg ⟨code, [(lane, x)]⟩
  (code < th.budget → code < 0x80 → lane < 32 → t.raw code lane = x) ∧
  (0x80 ≤ code → code < 0xC0 → t.raw code lane = x) ∧
  (0xC0 ≤ code → code < 0xC7 → lane < 32 → t.raw code lane = x &&& 1) ∧ (0xC8 ≤ code → code < 0xCF → t.raw code lane = x &&& 1) ∧
  (code = 0xC7 ∨ code = 0xCF ∨ code = 0xFF → t = th) ∧
  (∀ l, l < 32 → lane < 32 → l ≠ lane → code < 0x80 ∨ (0xC0 ≤ code ∧ code < 0xC8) → t.raw code l = th.raw code l) ∧
  (∀ c l, c < 0xD0 → c ≠ code → l < 32 → lane < 32 → t.raw c l = th.raw c l)

/-- Results in flight land in time (R88): those due are in place, the others are still in flight. -/
def Sys2Proof.Claim.ResultsLand : Prop := ∀ (th : Thread) (t : Nat) (f : Flight) (fs : List Flight), th.flights = f :: fs →
  (f.due ≤ t → th.settle t = ({ th.land f with flights := fs } : Thread).settle t) ∧ (t < f.due → th.settle t = th)

/-- Registers: what a write leaves, and when results in flight are in place. -/
def Obligations.RegisterResults : Prop :=
  Sys2Proof.Claim.RegisterWrites ∧ Sys2Proof.Claim.ResultsLand

/-- Taking a trap (R110, R179, R185): a group that no GKILL has marked stops at its PC with the cause, the PC, the mask and the value saved, its record is posted when the queue has room, and its other registers, main memory, the host's, the dies and every other comb are as before. -/
def Obligations.TrapTaken : Prop := ∀ (s : State) (die comb k : Nat) (th : Thread) (f : TrapInfo),
  let a : Agent := .group die comb k
  let t := s.takeTrap a th f
  th.doomed = none →
  ∃ u, t.thread a = some u ∧ u.stopped = true ∧ u.pc = th.pc ∧ u.v = th.v ∧ u.s = th.s ∧ u.p = th.p ∧ u.q = th.q ∧ u.em = th.em ∧ u.lm = th.lm ∧ u.mode = th.mode ∧
    u.trap.tcause = BitVec.ofNat 32 f.cause ∧ u.trap.tpc = th.pc ∧ u.trap.tmask = f.mask ∧ u.trap.tval = BitVec.ofNat 32 f.tval ∧ u.trap.tval2 = BitVec.ofNat 32 f.tval2 ∧
    ((s.comb (agentKey a)).evq.length < 512 → (t.comb (agentKey a)).evq =
      insertRec { trapRecord k (th.stop f) with clk := (s.comb (agentKey a)).clk } (s.comb (agentKey a)).evq) ∧
    t.hbm = s.hbm ∧ t.host = s.host ∧ t.dies = s.dies ∧ (∀ ck, ck ≠ agentKey a → t.comb ck = s.comb ck)

/-- The frame of every instruction that only writes registers, under whose completion the statements above say `Writes`: the arithmetic, logic,
comparison, move, lane, floating and conversion instructions, RDSR, TBWAIT, CREST, of a group that a GKILL has not named (R191). Memory, pending
writes, messages, dies, contexts, every other comb and every other thread are as before; of its own thread only what had
landed, the results in flight, the PC, the loop counters and the issue times change. -/
def Sys2Proof.Claim.RegisterInstructionFrame : Prop := ∀ (s : State) (die comb k : Nat) (th : Thread) (r : Rule) (ws : List RegWrite),
  let a : Agent := .group die comb k
  let e := s.env a th r
  let t := s.after a th r ⟨s, e.th, ws, 0, none, .seq⟩
  let ck := agentKey a
  s.thread a = some th → th.doomed = none →
  (∀ loc, t.rawByte loc = s.rawByte loc ∧ t.byteNow loc = s.byteNow loc) ∧
  t.stores = s.stores ∧ t.msgs = s.msgs ∧ t.dies = s.dies ∧ t.ctxs = s.ctxs ∧ t.l2 = s.l2 ∧ t.hive = s.hive ∧ t.adapter = s.adapter ∧
  (∀ c, c ≠ ck → t.comb c = s.comb c) ∧ (∀ j, j ≠ k → Sparse.find? (t.comb ck).groups j = Sparse.find? (s.comb ck).groups j) ∧
  (t.comb ck).evq = (s.comb ck).evq ∧ (t.comb ck).ops = (s.comb ck).ops ∧ (t.comb ck).teams = (s.comb ck).teams ∧ (t.comb ck).steward = (s.comb ck).steward ∧
  ∃ u, t.thread a = some u ∧ u.v = e.th.v ∧ u.s = e.th.s ∧ u.p = e.th.p ∧ u.q = e.th.q ∧ u.em = e.th.em ∧ u.lm = e.th.lm ∧ u.lk = e.th.lk ∧ u.cd = e.th.cd ∧
    u.mode = e.th.mode ∧ u.fstat = e.th.fstat ∧ u.trap = e.th.trap ∧ u.stopped = e.th.stopped ∧ u.budget = e.th.budget ∧ u.place = e.th.place ∧ u.uncov = e.th.uncov

/-- Straight-line code advances by 12 (R68, R171): outside any loop that ends here the PC after an instruction is the next one's. -/
def Sys2Proof.Claim.NextPc : Prop := ∀ th : Thread, (∀ l ∈ th.loops, l.valid = false ∨ l.endPc ≠ th.pc.setWidth 32 ∨ l.depth ≠ th.cd) →
  th.advance.pc = th.pc + 12 ∧ th.advance.loops = th.loops

/-- The frame of register instructions, and the PC of straight-line code. -/
def Obligations.RegisterFrame : Prop :=
  Sys2Proof.Claim.RegisterInstructionFrame ∧ Sys2Proof.Claim.NextPc

/-- The frame of the memory instructions of a group. A store, a reduction or an atomic on global memory, and a load from scratch, leave every
byte of memory, every message, context, other comb, other group and team as before, whether they complete, trap or wait: a
store's bytes change when its write reaches its home. A load leaves every byte as before too, unless a lane reads a REPLICATED
page, whose sector it brings into the die's own copy (R225). The group is one that a GKILL has not named (R191). -/
def Obligations.MemoryInstructionFrame : Prop := ∀ f : MForm,
  let bytes (s t : State) : Prop := ∀ loc, t.rawByte loc = s.rawByte loc ∧ t.byteNow loc = s.byteNow loc
  let same (i : Instr) : Prop := ∀ (s t : State) (d c k : Nat), s.cur = some (.group d c k) →
    (∀ th, s.thread (.group d c k) = some th → th.doomed = none) → exec i s = .next t →
    bytes s t ∧ t.msgs = s.msgs ∧ t.ctxs = s.ctxs ∧ t.hive = s.hive ∧ t.adapter = s.adapter ∧ (∀ ck, ck ≠ combKey d c → t.comb ck = s.comb ck) ∧
    (∀ j, j ≠ k → Sparse.find? (t.comb (combKey d c)).groups j = Sparse.find? (s.comb (combKey d c)).groups j) ∧
    (t.comb (combKey d c)).teams = (s.comb (combKey d c)).teams
  let n : Nat := sizeBytes f.size.toNat
  let plain (e : Env) (as : List LaneAcc) : Prop := e.laneAccs .read (fun _ => n) n false (e.each (e.ea f)) = .ok as ∧ ∀ a ∈ as, a.leaf.place ≠ 2 ∧ a.last.place ≠ 2
  same (.st f) ∧ same (.putv f) ∧ same (.atom f) ∧ same (.atomcas f) ∧ same (.red f) ∧ same (.redv f) ∧ same (.ldsc f) ∧
  (∀ as, Completes (.ld f) (ruleLd f) (fun e => plain e as) (fun e o => bytes e.s o.s)) ∧
  (∀ as, Completes (.getv f) (ruleGetv f) (fun e => plain e as) (fun e o => bytes e.s o.s))

/-- Bytes of HBM, host memory and scratch read as they were last written, and a write changes no other. -/
def Sys2Proof.Claim.ReadAfterWrite : Prop := ∀ (s : State) (loc l : Nat) (b : Byte),
  (s.setRaw loc b).rawByte loc = b ∧ (l ≠ loc → (s.setRaw loc b).rawByte l = s.rawByte l)

/-- Scratch that is granted reads 0 (R237), and what is not granted is as before; a granted granule belongs to its team. -/
def Sys2Proof.Claim.GrantedScratch : Prop := ∀ (c : Comb) (gs : List Nat) (key a : Nat),
  (a / 8192 ∈ gs → Sparse.get 0 (c.grant gs key).scratch a = 0) ∧ (a / 8192 ∉ gs → Sparse.get 0 (c.grant gs key).scratch a = Sparse.get 0 c.scratch a) ∧
  (∀ g ∈ gs, Sparse.find? (c.grant gs key).alloc g = some (key + 1))

/-- A little-endian number is its bytes (R1). -/
def Sys2Proof.Claim.LittleEndian : Prop := ∀ n x : Nat, leNat (leBytes n x) = x % 256 ^ n ∧ (leBytes n x).length = n

/-- Every operation on scratch keeps its canonical form: writing a byte, a run of bytes, granting and freeing granules. -/
def Sys2Proof.Claim.ScratchStaysCanonical : Prop := ∀ (s : State) (ck loc : Nat) (b : Byte) (bs : List Byte) (c : Comb) (gs : List Nat) (key : Nat) (t : Team),
  (∀ k, Memory.wf (s.comb k).scratch = true) →
  (∀ k, Memory.wf ((s.setRaw loc b).comb k).scratch = true) ∧ (∀ k, Memory.wf ((s.putScratch ck loc bs).comb k).scratch = true) ∧
  (Memory.wf c.scratch = true → Memory.wf (c.grant gs key).scratch = true ∧ Memory.wf (c.freeTeam key t).scratch = true)

/-- Reading memory and scratch after it was written or granted, and their bytes in order. That memory nobody has written reads 0 is the model's choice (log entry 4); no clause rests on it. -/
def Obligations.MemoryReads : Prop :=
  Sys2Proof.Claim.ReadAfterWrite ∧ Sys2Proof.Claim.GrantedScratch ∧ Sys2Proof.Claim.LittleEndian ∧ Sys2Proof.Claim.ScratchStaysCanonical

/-- After a reset (R14, R18, R19, R98, R105, R218, R236, R330, R391, R447, R452, R454): STATE 3 in generation 0 with 36 live dies, an empty event queue and ready
queue, banks 0 to 3 CACHE and 4 to 15 SCRATCH, memory and scratch 0, no context, and the adapter closed; and what a group's
first instruction finds. That reset is a cold start that finds no dead part is the model's choice (log entry 5), and so is the
0 of memory the spec gives no contents (log entry 4) and of the values of log entry 3. -/
def Obligations.ResetValues : Prop :=
  let s := State.reset
  s.hive.state = 3 ∧ s.liveDies.length = 36 ∧ s.adapter.accepted = false ∧ s.adapter.queueOpen = false ∧ s.adapter.qhead = 0 ∧ s.adapter.qtail = 0 ∧ s.ctxs = [] ∧
  (∀ d < 36, (s.die d).gen = 0 ∧ (s.die d).owners = [] ∧ (s.die d).lmap = List.range 36) ∧
  (∀ loc < hostBase, s.byteNow loc = 0) ∧
  (∀ ck, (s.comb ck).evq = [] ∧ (s.comb ck).ready = [] ∧ (s.comb ck).groups = [] ∧ (s.comb ck).clk = 0 ∧ (∀ r, (s.comb ck).order r = 0) ∧ (∀ a, Sparse.get 0 (s.comb ck).scratch a = 0) ∧
    (s.comb ck).banks.map (·.mode) = List.replicate 4 .cache ++ List.replicate 12 .scratch) ∧
  Thread.reset.em = 0xFFFFFFFF ∧ Thread.reset.lm = 0xFFFFFFFF ∧ Thread.reset.mode = 1 ∧ Thread.reset.fstat = 0 ∧ Thread.reset.cd = 0 ∧
  Thread.reset.v = [] ∧ Thread.reset.s = [] ∧ Thread.reset.p = [] ∧ Thread.reset.q = 0

/-- Main memory and host memory keep their canonical form in every step. -/
def Obligations.MainMemoryStaysCanonical : Prop := ∀ s t : State, Memory.wf s.hbm = true → Memory.wf s.host = true → step s = .next t →
  Memory.wf t.hbm = true ∧ Memory.wf t.host = true

/-- At reset main memory, host memory and every comb's scratch have the canonical form. -/
def Obligations.ResetMemoryCanonical : Prop :=
  Memory.wf State.reset.hbm = true ∧ Memory.wf State.reset.host = true ∧ ∀ ck, Memory.wf (State.reset.comb ck).scratch = true
end

