-- ==== Sys2Proof/Laws/Issue.lean ====
section
/-! SUPPORT. What the issue of an instruction can do, said once: the machine it answers when the agent is ready, and that
it always answers a next state. -/

namespace Sys2Proof.Machine

/-- An instruction issued by an agent that is ready ends as its effect says. -/
theorem issue_ready {s : State} {a : Agent} {th : Thread} {r : Rule} (h : Ready s a th r) (body : Env → Eff) :
    issue s r body = .next ((s.issueOf a th r).finish r (body (s.env a th r))) := by
  simp [issue, h.cur, h.thread, h.running, h.clear, State.env]

/-- The issue of an instruction answers a next state, whatever the state (traps are next states, R8). -/
theorem issue_next (s : State) (r : Rule) (body : Env → Eff) : ∃ t, issue s r body = .next t := by
  unfold issue
  split
  · exact ⟨_, rfl⟩
  · split
    · exact ⟨_, rfl⟩
    · split
      · exact ⟨_, rfl⟩
      · dsimp only
        split <;> exact ⟨_, rfl⟩

/-- What an issue sees of the machine is the machine itself. -/
@[simp] theorem env_s (s : State) (a : Agent) (th : Thread) (r : Rule) : (s.issueOf a th r).env.s = s := rfl
@[simp] theorem env_ag (s : State) (a : Agent) (th : Thread) (r : Rule) : (s.issueOf a th r).env.ag = a := rfl
@[simp] theorem env_ck (s : State) (a : Agent) (th : Thread) (r : Rule) : (s.issueOf a th r).env.ck = agentKey a := rfl

@[simp] theorem finish_ok (x : Issue) (r : Rule) (o : Out) : x.finish r (.ok o) = x.done r o := rfl
@[simp] theorem finish_fault (x : Issue) (r : Rule) (f : TrapInfo) : x.finish r (.fault f) = x.trap f := rfl
@[simp] theorem finish_wait (x : Issue) (r : Rule) (s : State) (th : Thread) :
    x.finish r (.wait s th) = s.endWait x.env.ag th x.env.t := rfl

/-- To show that an instruction only writes registers, show that its body is the one of a plain result. -/
theorem Writes.of_body {i : Instr} {r : Rule} {P : Env → Prop} {ws : Env → List RegWrite}
    (h : ∀ s, ∃ body : Env → Eff, exec i s = issue s r body ∧ ∀ e : Env, P e → body e = e.done (ws e)) : Writes i r P ws := by
  intro s a th hr hp
  obtain ⟨body, hb, he⟩ := h s
  rw [hb, issue_ready hr, he _ hp]
  rfl

/-- To show that an instruction completes, show that its body answers an effect without a trap. -/
theorem Completes.of_body {i : Instr} {r : Rule} {P : Env → Prop} {Q : Env → Out → Prop}
    (h : ∀ s, ∃ body : Env → Eff, exec i s = issue s r body ∧ ∀ e : Env, P e → ∃ o, body e = .ok o ∧ o.trap = none ∧ Q e o) :
    Completes i r P Q := by
  intro s a th hr hp
  obtain ⟨body, hb, he⟩ := h s
  obtain ⟨o, h1, h2, h3⟩ := he _ hp
  exact ⟨o, by rw [hb, issue_ready hr, h1]; rfl, h2, h3⟩

/-- To show that an instruction traps, show that its body answers the trap. -/
theorem Traps.of_body {i : Instr} {r : Rule} {P : Env → Prop} {f : Env → TrapInfo}
    (h : ∀ s, ∃ body : Env → Eff, exec i s = issue s r body ∧ ∀ e : Env, P e → body e = .fault (f e)) : Traps i r P f := by
  intro s a th hr hp
  obtain ⟨body, hb, he⟩ := h s
  rw [hb, issue_ready hr, he _ hp]
  rfl

/-- To show that an instruction waits, show that its body answers what it leaves. -/
theorem Blocks.of_body {i : Instr} {r : Rule} {P : Env → Prop} {Q : Env → State → Thread → Prop}
    (h : ∀ s, ∃ body : Env → Eff, exec i s = issue s r body ∧ ∀ e : Env, P e → ∃ s' th', body e = .wait s' th' ∧ Q e s' th') :
    Blocks i r P Q := by
  intro s a th hr hp
  obtain ⟨body, hb, he⟩ := h s
  obtain ⟨s', th', h1, h2⟩ := he _ hp
  exact ⟨s', th', by rw [hb, issue_ready hr, h1]; rfl, h2⟩

end Sys2Proof.Machine
end

