-- ==== Sys2Proof/Laws/Sparse.lean ====
section
/-! SUPPORT. The laws of sparse maps: reading after writing, in any list, and that every operation keeps the canonical
form. -/

namespace Sys2Proof.Machine.Sparse

universe u
variable {α : Type u}

@[simp] theorem find?_nil (i : Nat) : find? ([] : List (Nat × α)) i = none := rfl

theorem find?_put_self (m : List (Nat × α)) (i : Nat) (x : α) : find? (put m i x) i = some x := by
  induction m with
  | nil => simp [put, find?]
  | cons p m ih =>
    obtain ⟨k, v⟩ := p
    simp only [put]
    split
    · simp [find?]
    · split
      · simp [find?]
      · simp [find?, *]

theorem find?_put_ne (m : List (Nat × α)) {i j : Nat} (x : α) (h : j ≠ i) : find? (put m i x) j = find? m j := by
  induction m with
  | nil => simp [put, find?, h]
  | cons p m ih =>
    obtain ⟨k, v⟩ := p
    simp only [put]
    split
    · subst_vars; simp [find?, h]
    · split
      · simp [find?, h]
      · simp only [find?, ih]

theorem find?_erase_self (m : List (Nat × α)) (i : Nat) : find? (erase m i) i = none := by
  induction m with
  | nil => rfl
  | cons p m ih =>
    by_cases hk : p.1 = i
    · simpa [erase, hk] using ih
    · have hk' : i ≠ p.1 := fun h => hk h.symm
      simpa [erase, hk, find?, hk'] using ih

theorem find?_erase_ne (m : List (Nat × α)) {i j : Nat} (h : j ≠ i) : find? (erase m i) j = find? m j := by
  induction m with
  | nil => rfl
  | cons p m ih =>
    obtain ⟨k, v⟩ := p
    by_cases hk : k = i
    · have e : erase ((k, v) :: m) i = erase m i := by simp [erase, hk]
      rw [e, ih, find?, if_neg (fun e => h (e.trans hk))]
    · have e : erase ((k, v) :: m) i = (k, v) :: erase m i := by simp [erase, hk]
      rw [e, find?, find?, ih]

@[simp] theorem get_put_self (d : α) (m : List (Nat × α)) (i : Nat) (x : α) : get d (put m i x) i = x := by
  simp [get, find?_put_self]

theorem get_put_ne (d : α) (m : List (Nat × α)) {i j : Nat} (x : α) (h : j ≠ i) : get d (put m i x) j = get d m j := by
  simp [get, find?_put_ne m x h]

variable [DecidableEq α]

/-- Reading the key just written gives the value. -/
@[simp] theorem get_set_self (d : α) (m : List (Nat × α)) (i : Nat) (x : α) : get d (set d m i x) i = x := by
  unfold set
  split
  · next h => simp [get, find?_erase_self, h]
  · simp

/-- Every other key reads as before. -/
theorem get_set_ne (d : α) (m : List (Nat × α)) {i j : Nat} (x : α) (h : j ≠ i) : get d (set d m i x) j = get d m j := by
  unfold set
  split
  · simp [get, find?_erase_ne m h]
  · exact get_put_ne d m x h

theorem get_setRun_lt (d : α) (xs : List α) (m : List (Nat × α)) {i j : Nat} (h : j < i) :
    get d (setRun d m i xs) j = get d m j := by
  induction xs generalizing m i with
  | nil => rfl
  | cons x xs ih =>
    simp only [setRun]
    rw [ih _ (Nat.lt_succ_of_lt h), get_set_ne d m x (Nat.ne_of_lt h)]

/-- A run written reads back, and every key outside it reads as before. -/
theorem get_setRun (d : α) (xs : List α) (m : List (Nat × α)) (i j : Nat) :
    get d (setRun d m i xs) j = if i ≤ j then xs.getD (j - i) (get d m j) else get d m j := by
  induction xs generalizing m i with
  | nil => simp [setRun]
  | cons x xs ih =>
    simp only [setRun]
    rw [ih]
    rcases Nat.lt_trichotomy j i with h | h | h
    · rw [if_neg (by omega), if_neg (by omega), get_set_ne d m x (by omega)]
    · subst h
      rw [if_neg (by omega), if_pos (by omega)]
      simp
    · rw [if_pos (by omega), if_pos (by omega), get_set_ne d m x (by omega)]
      obtain ⟨n, hn⟩ : ∃ n, j - i = n + 1 := ⟨j - i - 1, by omega⟩
      have : j - (i + 1) = n := by omega
      rw [hn, this]
      simp

theorem wfFrom_mono (d : α) {m : List (Nat × α)} {a b : Nat} (hab : a ≤ b) (h : wfFrom d b m = true) : wfFrom d a m = true := by
  cases m with
  | nil => rfl
  | cons p m =>
    simp only [wfFrom, Bool.and_eq_true, decide_eq_true_eq] at h ⊢
    exact ⟨⟨by omega, h.1.2⟩, h.2⟩

theorem wfFrom_put (d : α) {m : List (Nat × α)} {b i : Nat} {x : α} (hx : x ≠ d) (hb : b ≤ i) (h : wfFrom d b m = true) :
    wfFrom d b (put m i x) = true := by
  induction m generalizing b with
  | nil => simp [put, wfFrom, hx, hb]
  | cons p m ih =>
    simp only [wfFrom, Bool.and_eq_true, decide_eq_true_eq] at h
    simp only [put]
    split
    · next e => subst e; simp [wfFrom, hx, hb, h.2]
    · split
      · next e => simp only [wfFrom, Bool.and_eq_true, decide_eq_true_eq]; exact ⟨⟨hb, hx⟩, ⟨by omega, h.1.2⟩, h.2⟩
      · simp only [wfFrom, Bool.and_eq_true, decide_eq_true_eq]; exact ⟨h.1, ih (by omega) h.2⟩

theorem wfFrom_erase (d : α) {m : List (Nat × α)} {b : Nat} (i : Nat) (h : wfFrom d b m = true) : wfFrom d b (erase m i) = true := by
  induction m generalizing b with
  | nil => rfl
  | cons p m ih =>
    simp only [wfFrom, Bool.and_eq_true, decide_eq_true_eq] at h
    by_cases hk : p.1 = i
    · have : erase (p :: m) i = erase m i := by simp [erase, hk]
      rw [this]
      exact wfFrom_mono d (by omega) (ih h.2)
    · have : erase (p :: m) i = p :: erase m i := by simp [erase, hk]
      rw [this]
      simp only [wfFrom, Bool.and_eq_true, decide_eq_true_eq]
      exact ⟨h.1, ih h.2⟩

/-- Writing one key keeps the canonical form. -/
theorem wf_set {d : α} {m : List (Nat × α)} (i : Nat) (x : α) (h : wf d m = true) : wf d (set d m i x) = true := by
  unfold set
  split
  · exact wfFrom_erase d i h
  · next hx => exact wfFrom_put d hx (Nat.zero_le i) h

/-- Writing a run keeps the canonical form. -/
theorem wf_setRun {d : α} (xs : List α) {m : List (Nat × α)} (i : Nat) (h : wf d m = true) : wf d (setRun d m i xs) = true := by
  induction xs generalizing m i with
  | nil => exact h
  | cons x xs ih => exact ih (i + 1) (wf_set i x h)

/-- Dropping entries keeps the canonical form. -/
theorem wfFrom_filter (d : α) (p : Nat × α → Bool) {m : List (Nat × α)} {b : Nat} (h : wfFrom d b m = true) : wfFrom d b (m.filter p) = true := by
  induction m generalizing b with
  | nil => rfl
  | cons q m ih =>
    simp only [wfFrom, Bool.and_eq_true, decide_eq_true_eq] at h
    by_cases hq : p q
    · rw [List.filter_cons_of_pos hq]
      simp only [wfFrom, Bool.and_eq_true, decide_eq_true_eq]
      exact ⟨h.1, ih h.2⟩
    · rw [List.filter_cons_of_neg hq]
      exact wfFrom_mono d (by omega) (ih h.2)

end Sys2Proof.Machine.Sparse
end

