-- ==== Sys2Proof/Laws/State.lean ====
section
/-! SUPPORT. The state record: what each field and each comb, die and thread reads as after an update. -/

namespace Sys2Proof.Machine

@[simp] theorem State.setComb_agenda (s : State) (ck : Nat) (c : Comb) : (s.setComb ck c).agenda = s.agenda := rfl
@[simp] theorem State.setComb_cur (s : State) (ck : Nat) (c : Comb) : (s.setComb ck c).cur = s.cur := rfl
@[simp] theorem State.setComb_freeN (s : State) (ck : Nat) (c : Comb) : (s.setComb ck c).freeN = s.freeN := rfl
@[simp] theorem State.setComb_nextUid (s : State) (ck : Nat) (c : Comb) : (s.setComb ck c).nextUid = s.nextUid := rfl
@[simp] theorem State.setComb_dies (s : State) (ck : Nat) (c : Comb) : (s.setComb ck c).dies = s.dies := rfl
@[simp] theorem State.setComb_hbm (s : State) (ck : Nat) (c : Comb) : (s.setComb ck c).hbm = s.hbm := rfl
@[simp] theorem State.setComb_host (s : State) (ck : Nat) (c : Comb) : (s.setComb ck c).host = s.host := rfl
@[simp] theorem State.setComb_badWords (s : State) (ck : Nat) (c : Comb) : (s.setComb ck c).badWords = s.badWords := rfl
@[simp] theorem State.setComb_l2 (s : State) (ck : Nat) (c : Comb) : (s.setComb ck c).l2 = s.l2 := rfl
@[simp] theorem State.setComb_tiles (s : State) (ck : Nat) (c : Comb) : (s.setComb ck c).tiles = s.tiles := rfl
@[simp] theorem State.setComb_fills (s : State) (ck : Nat) (c : Comb) : (s.setComb ck c).fills = s.fills := rfl
@[simp] theorem State.setComb_stores (s : State) (ck : Nat) (c : Comb) : (s.setComb ck c).stores = s.stores := rfl
@[simp] theorem State.setComb_acks (s : State) (ck : Nat) (c : Comb) : (s.setComb ck c).acks = s.acks := rfl
@[simp] theorem State.setComb_msgs (s : State) (ck : Nat) (c : Comb) : (s.setComb ck c).msgs = s.msgs := rfl
@[simp] theorem State.setComb_batches (s : State) (ck : Nat) (c : Comb) : (s.setComb ck c).batches = s.batches := rfl
@[simp] theorem State.setComb_bcasts (s : State) (ck : Nat) (c : Comb) : (s.setComb ck c).bcasts = s.bcasts := rfl
@[simp] theorem State.setComb_ctxs (s : State) (ck : Nat) (c : Comb) : (s.setComb ck c).ctxs = s.ctxs := rfl
@[simp] theorem State.setComb_kernels (s : State) (ck : Nat) (c : Comb) : (s.setComb ck c).kernels = s.kernels := rfl
@[simp] theorem State.setComb_grids (s : State) (ck : Nat) (c : Comb) : (s.setComb ck c).grids = s.grids := rfl
@[simp] theorem State.setComb_adapter (s : State) (ck : Nat) (c : Comb) : (s.setComb ck c).adapter = s.adapter := rfl
@[simp] theorem State.setComb_hive (s : State) (ck : Nat) (c : Comb) : (s.setComb ck c).hive = s.hive := rfl
@[simp] theorem State.setComb_journal (s : State) (ck : Nat) (c : Comb) : (s.setComb ck c).journal = s.journal := rfl
@[simp] theorem State.setComb_commits (s : State) (ck : Nat) (c : Comb) : (s.setComb ck c).commits = s.commits := rfl
@[simp] theorem State.setComb_images (s : State) (ck : Nat) (c : Comb) : (s.setComb ck c).images = s.images := rfl

@[simp] theorem State.modComb_agenda (s : State) (ck : Nat) (f : Comb → Comb) : (s.modComb ck f).agenda = s.agenda := rfl
@[simp] theorem State.modComb_cur (s : State) (ck : Nat) (f : Comb → Comb) : (s.modComb ck f).cur = s.cur := rfl
@[simp] theorem State.modComb_freeN (s : State) (ck : Nat) (f : Comb → Comb) : (s.modComb ck f).freeN = s.freeN := rfl
@[simp] theorem State.modComb_nextUid (s : State) (ck : Nat) (f : Comb → Comb) : (s.modComb ck f).nextUid = s.nextUid := rfl
@[simp] theorem State.modComb_dies (s : State) (ck : Nat) (f : Comb → Comb) : (s.modComb ck f).dies = s.dies := rfl
@[simp] theorem State.modComb_hbm (s : State) (ck : Nat) (f : Comb → Comb) : (s.modComb ck f).hbm = s.hbm := rfl
@[simp] theorem State.modComb_host (s : State) (ck : Nat) (f : Comb → Comb) : (s.modComb ck f).host = s.host := rfl
@[simp] theorem State.modComb_badWords (s : State) (ck : Nat) (f : Comb → Comb) : (s.modComb ck f).badWords = s.badWords := rfl
@[simp] theorem State.modComb_l2 (s : State) (ck : Nat) (f : Comb → Comb) : (s.modComb ck f).l2 = s.l2 := rfl
@[simp] theorem State.modComb_tiles (s : State) (ck : Nat) (f : Comb → Comb) : (s.modComb ck f).tiles = s.tiles := rfl
@[simp] theorem State.modComb_fills (s : State) (ck : Nat) (f : Comb → Comb) : (s.modComb ck f).fills = s.fills := rfl
@[simp] theorem State.modComb_stores (s : State) (ck : Nat) (f : Comb → Comb) : (s.modComb ck f).stores = s.stores := rfl
@[simp] theorem State.modComb_acks (s : State) (ck : Nat) (f : Comb → Comb) : (s.modComb ck f).acks = s.acks := rfl
@[simp] theorem State.modComb_msgs (s : State) (ck : Nat) (f : Comb → Comb) : (s.modComb ck f).msgs = s.msgs := rfl
@[simp] theorem State.modComb_batches (s : State) (ck : Nat) (f : Comb → Comb) : (s.modComb ck f).batches = s.batches := rfl
@[simp] theorem State.modComb_bcasts (s : State) (ck : Nat) (f : Comb → Comb) : (s.modComb ck f).bcasts = s.bcasts := rfl
@[simp] theorem State.modComb_ctxs (s : State) (ck : Nat) (f : Comb → Comb) : (s.modComb ck f).ctxs = s.ctxs := rfl
@[simp] theorem State.modComb_kernels (s : State) (ck : Nat) (f : Comb → Comb) : (s.modComb ck f).kernels = s.kernels := rfl
@[simp] theorem State.modComb_grids (s : State) (ck : Nat) (f : Comb → Comb) : (s.modComb ck f).grids = s.grids := rfl
@[simp] theorem State.modComb_adapter (s : State) (ck : Nat) (f : Comb → Comb) : (s.modComb ck f).adapter = s.adapter := rfl
@[simp] theorem State.modComb_hive (s : State) (ck : Nat) (f : Comb → Comb) : (s.modComb ck f).hive = s.hive := rfl
@[simp] theorem State.modComb_journal (s : State) (ck : Nat) (f : Comb → Comb) : (s.modComb ck f).journal = s.journal := rfl
@[simp] theorem State.modComb_commits (s : State) (ck : Nat) (f : Comb → Comb) : (s.modComb ck f).commits = s.commits := rfl
@[simp] theorem State.modComb_images (s : State) (ck : Nat) (f : Comb → Comb) : (s.modComb ck f).images = s.images := rfl

@[simp] theorem State.setDie_agenda (s : State) (d : Nat) (x : Die) : (s.setDie d x).agenda = s.agenda := rfl
@[simp] theorem State.setDie_cur (s : State) (d : Nat) (x : Die) : (s.setDie d x).cur = s.cur := rfl
@[simp] theorem State.setDie_freeN (s : State) (d : Nat) (x : Die) : (s.setDie d x).freeN = s.freeN := rfl
@[simp] theorem State.setDie_nextUid (s : State) (d : Nat) (x : Die) : (s.setDie d x).nextUid = s.nextUid := rfl
@[simp] theorem State.setDie_combs (s : State) (d : Nat) (x : Die) : (s.setDie d x).combs = s.combs := rfl
@[simp] theorem State.setDie_hbm (s : State) (d : Nat) (x : Die) : (s.setDie d x).hbm = s.hbm := rfl
@[simp] theorem State.setDie_host (s : State) (d : Nat) (x : Die) : (s.setDie d x).host = s.host := rfl
@[simp] theorem State.setDie_badWords (s : State) (d : Nat) (x : Die) : (s.setDie d x).badWords = s.badWords := rfl
@[simp] theorem State.setDie_l2 (s : State) (d : Nat) (x : Die) : (s.setDie d x).l2 = s.l2 := rfl
@[simp] theorem State.setDie_tiles (s : State) (d : Nat) (x : Die) : (s.setDie d x).tiles = s.tiles := rfl
@[simp] theorem State.setDie_fills (s : State) (d : Nat) (x : Die) : (s.setDie d x).fills = s.fills := rfl
@[simp] theorem State.setDie_stores (s : State) (d : Nat) (x : Die) : (s.setDie d x).stores = s.stores := rfl
@[simp] theorem State.setDie_acks (s : State) (d : Nat) (x : Die) : (s.setDie d x).acks = s.acks := rfl
@[simp] theorem State.setDie_msgs (s : State) (d : Nat) (x : Die) : (s.setDie d x).msgs = s.msgs := rfl
@[simp] theorem State.setDie_batches (s : State) (d : Nat) (x : Die) : (s.setDie d x).batches = s.batches := rfl
@[simp] theorem State.setDie_bcasts (s : State) (d : Nat) (x : Die) : (s.setDie d x).bcasts = s.bcasts := rfl
@[simp] theorem State.setDie_ctxs (s : State) (d : Nat) (x : Die) : (s.setDie d x).ctxs = s.ctxs := rfl
@[simp] theorem State.setDie_kernels (s : State) (d : Nat) (x : Die) : (s.setDie d x).kernels = s.kernels := rfl
@[simp] theorem State.setDie_grids (s : State) (d : Nat) (x : Die) : (s.setDie d x).grids = s.grids := rfl
@[simp] theorem State.setDie_adapter (s : State) (d : Nat) (x : Die) : (s.setDie d x).adapter = s.adapter := rfl
@[simp] theorem State.setDie_hive (s : State) (d : Nat) (x : Die) : (s.setDie d x).hive = s.hive := rfl
@[simp] theorem State.setDie_journal (s : State) (d : Nat) (x : Die) : (s.setDie d x).journal = s.journal := rfl
@[simp] theorem State.setDie_commits (s : State) (d : Nat) (x : Die) : (s.setDie d x).commits = s.commits := rfl
@[simp] theorem State.setDie_images (s : State) (d : Nat) (x : Die) : (s.setDie d x).images = s.images := rfl

@[simp] theorem State.modDie_agenda (s : State) (d : Nat) (f : Die → Die) : (s.modDie d f).agenda = s.agenda := rfl
@[simp] theorem State.modDie_cur (s : State) (d : Nat) (f : Die → Die) : (s.modDie d f).cur = s.cur := rfl
@[simp] theorem State.modDie_freeN (s : State) (d : Nat) (f : Die → Die) : (s.modDie d f).freeN = s.freeN := rfl
@[simp] theorem State.modDie_nextUid (s : State) (d : Nat) (f : Die → Die) : (s.modDie d f).nextUid = s.nextUid := rfl
@[simp] theorem State.modDie_combs (s : State) (d : Nat) (f : Die → Die) : (s.modDie d f).combs = s.combs := rfl
@[simp] theorem State.modDie_hbm (s : State) (d : Nat) (f : Die → Die) : (s.modDie d f).hbm = s.hbm := rfl
@[simp] theorem State.modDie_host (s : State) (d : Nat) (f : Die → Die) : (s.modDie d f).host = s.host := rfl
@[simp] theorem State.modDie_badWords (s : State) (d : Nat) (f : Die → Die) : (s.modDie d f).badWords = s.badWords := rfl
@[simp] theorem State.modDie_l2 (s : State) (d : Nat) (f : Die → Die) : (s.modDie d f).l2 = s.l2 := rfl
@[simp] theorem State.modDie_tiles (s : State) (d : Nat) (f : Die → Die) : (s.modDie d f).tiles = s.tiles := rfl
@[simp] theorem State.modDie_fills (s : State) (d : Nat) (f : Die → Die) : (s.modDie d f).fills = s.fills := rfl
@[simp] theorem State.modDie_stores (s : State) (d : Nat) (f : Die → Die) : (s.modDie d f).stores = s.stores := rfl
@[simp] theorem State.modDie_acks (s : State) (d : Nat) (f : Die → Die) : (s.modDie d f).acks = s.acks := rfl
@[simp] theorem State.modDie_msgs (s : State) (d : Nat) (f : Die → Die) : (s.modDie d f).msgs = s.msgs := rfl
@[simp] theorem State.modDie_batches (s : State) (d : Nat) (f : Die → Die) : (s.modDie d f).batches = s.batches := rfl
@[simp] theorem State.modDie_bcasts (s : State) (d : Nat) (f : Die → Die) : (s.modDie d f).bcasts = s.bcasts := rfl
@[simp] theorem State.modDie_ctxs (s : State) (d : Nat) (f : Die → Die) : (s.modDie d f).ctxs = s.ctxs := rfl
@[simp] theorem State.modDie_kernels (s : State) (d : Nat) (f : Die → Die) : (s.modDie d f).kernels = s.kernels := rfl
@[simp] theorem State.modDie_grids (s : State) (d : Nat) (f : Die → Die) : (s.modDie d f).grids = s.grids := rfl
@[simp] theorem State.modDie_adapter (s : State) (d : Nat) (f : Die → Die) : (s.modDie d f).adapter = s.adapter := rfl
@[simp] theorem State.modDie_hive (s : State) (d : Nat) (f : Die → Die) : (s.modDie d f).hive = s.hive := rfl
@[simp] theorem State.modDie_journal (s : State) (d : Nat) (f : Die → Die) : (s.modDie d f).journal = s.journal := rfl
@[simp] theorem State.modDie_commits (s : State) (d : Nat) (f : Die → Die) : (s.modDie d f).commits = s.commits := rfl
@[simp] theorem State.modDie_images (s : State) (d : Nat) (f : Die → Die) : (s.modDie d f).images = s.images := rfl

@[simp] theorem State.setThread_agenda (s : State) (a : Agent) (th : Thread) : (s.setThread a th).agenda = s.agenda := rfl
@[simp] theorem State.setThread_cur (s : State) (a : Agent) (th : Thread) : (s.setThread a th).cur = s.cur := rfl
@[simp] theorem State.setThread_freeN (s : State) (a : Agent) (th : Thread) : (s.setThread a th).freeN = s.freeN := rfl
@[simp] theorem State.setThread_nextUid (s : State) (a : Agent) (th : Thread) : (s.setThread a th).nextUid = s.nextUid := rfl
@[simp] theorem State.setThread_dies (s : State) (a : Agent) (th : Thread) : (s.setThread a th).dies = s.dies := rfl
@[simp] theorem State.setThread_hbm (s : State) (a : Agent) (th : Thread) : (s.setThread a th).hbm = s.hbm := rfl
@[simp] theorem State.setThread_host (s : State) (a : Agent) (th : Thread) : (s.setThread a th).host = s.host := rfl
@[simp] theorem State.setThread_badWords (s : State) (a : Agent) (th : Thread) : (s.setThread a th).badWords = s.badWords := rfl
@[simp] theorem State.setThread_l2 (s : State) (a : Agent) (th : Thread) : (s.setThread a th).l2 = s.l2 := rfl
@[simp] theorem State.setThread_tiles (s : State) (a : Agent) (th : Thread) : (s.setThread a th).tiles = s.tiles := rfl
@[simp] theorem State.setThread_fills (s : State) (a : Agent) (th : Thread) : (s.setThread a th).fills = s.fills := rfl
@[simp] theorem State.setThread_stores (s : State) (a : Agent) (th : Thread) : (s.setThread a th).stores = s.stores := rfl
@[simp] theorem State.setThread_acks (s : State) (a : Agent) (th : Thread) : (s.setThread a th).acks = s.acks := rfl
@[simp] theorem State.setThread_msgs (s : State) (a : Agent) (th : Thread) : (s.setThread a th).msgs = s.msgs := rfl
@[simp] theorem State.setThread_batches (s : State) (a : Agent) (th : Thread) : (s.setThread a th).batches = s.batches := rfl
@[simp] theorem State.setThread_bcasts (s : State) (a : Agent) (th : Thread) : (s.setThread a th).bcasts = s.bcasts := rfl
@[simp] theorem State.setThread_ctxs (s : State) (a : Agent) (th : Thread) : (s.setThread a th).ctxs = s.ctxs := rfl
@[simp] theorem State.setThread_kernels (s : State) (a : Agent) (th : Thread) : (s.setThread a th).kernels = s.kernels := rfl
@[simp] theorem State.setThread_grids (s : State) (a : Agent) (th : Thread) : (s.setThread a th).grids = s.grids := rfl
@[simp] theorem State.setThread_adapter (s : State) (a : Agent) (th : Thread) : (s.setThread a th).adapter = s.adapter := rfl
@[simp] theorem State.setThread_hive (s : State) (a : Agent) (th : Thread) : (s.setThread a th).hive = s.hive := rfl
@[simp] theorem State.setThread_journal (s : State) (a : Agent) (th : Thread) : (s.setThread a th).journal = s.journal := rfl
@[simp] theorem State.setThread_commits (s : State) (a : Agent) (th : Thread) : (s.setThread a th).commits = s.commits := rfl
@[simp] theorem State.setThread_images (s : State) (a : Agent) (th : Thread) : (s.setThread a th).images = s.images := rfl

@[simp] theorem State.post_agenda (s : State) (ck : Nat) (r : EvRec) : (s.post ck r).agenda = s.agenda := rfl
@[simp] theorem State.post_cur (s : State) (ck : Nat) (r : EvRec) : (s.post ck r).cur = s.cur := rfl
@[simp] theorem State.post_freeN (s : State) (ck : Nat) (r : EvRec) : (s.post ck r).freeN = s.freeN := rfl
@[simp] theorem State.post_nextUid (s : State) (ck : Nat) (r : EvRec) : (s.post ck r).nextUid = s.nextUid := rfl
@[simp] theorem State.post_dies (s : State) (ck : Nat) (r : EvRec) : (s.post ck r).dies = s.dies := rfl
@[simp] theorem State.post_hbm (s : State) (ck : Nat) (r : EvRec) : (s.post ck r).hbm = s.hbm := rfl
@[simp] theorem State.post_host (s : State) (ck : Nat) (r : EvRec) : (s.post ck r).host = s.host := rfl
@[simp] theorem State.post_badWords (s : State) (ck : Nat) (r : EvRec) : (s.post ck r).badWords = s.badWords := rfl
@[simp] theorem State.post_l2 (s : State) (ck : Nat) (r : EvRec) : (s.post ck r).l2 = s.l2 := rfl
@[simp] theorem State.post_tiles (s : State) (ck : Nat) (r : EvRec) : (s.post ck r).tiles = s.tiles := rfl
@[simp] theorem State.post_fills (s : State) (ck : Nat) (r : EvRec) : (s.post ck r).fills = s.fills := rfl
@[simp] theorem State.post_stores (s : State) (ck : Nat) (r : EvRec) : (s.post ck r).stores = s.stores := rfl
@[simp] theorem State.post_acks (s : State) (ck : Nat) (r : EvRec) : (s.post ck r).acks = s.acks := rfl
@[simp] theorem State.post_msgs (s : State) (ck : Nat) (r : EvRec) : (s.post ck r).msgs = s.msgs := rfl
@[simp] theorem State.post_batches (s : State) (ck : Nat) (r : EvRec) : (s.post ck r).batches = s.batches := rfl
@[simp] theorem State.post_bcasts (s : State) (ck : Nat) (r : EvRec) : (s.post ck r).bcasts = s.bcasts := rfl
@[simp] theorem State.post_ctxs (s : State) (ck : Nat) (r : EvRec) : (s.post ck r).ctxs = s.ctxs := rfl
@[simp] theorem State.post_kernels (s : State) (ck : Nat) (r : EvRec) : (s.post ck r).kernels = s.kernels := rfl
@[simp] theorem State.post_grids (s : State) (ck : Nat) (r : EvRec) : (s.post ck r).grids = s.grids := rfl
@[simp] theorem State.post_adapter (s : State) (ck : Nat) (r : EvRec) : (s.post ck r).adapter = s.adapter := rfl
@[simp] theorem State.post_hive (s : State) (ck : Nat) (r : EvRec) : (s.post ck r).hive = s.hive := rfl
@[simp] theorem State.post_journal (s : State) (ck : Nat) (r : EvRec) : (s.post ck r).journal = s.journal := rfl
@[simp] theorem State.post_commits (s : State) (ck : Nat) (r : EvRec) : (s.post ck r).commits = s.commits := rfl
@[simp] theorem State.post_images (s : State) (ck : Nat) (r : EvRec) : (s.post ck r).images = s.images := rfl

/-! ## Combs and dies -/

@[simp] theorem State.comb_setComb_self (s : State) (ck : Nat) (c : Comb) : (s.setComb ck c).comb ck = c := by
  simp [State.comb, State.setComb]

theorem State.comb_setComb_ne (s : State) {ck k : Nat} (c : Comb) (h : k ≠ ck) : (s.setComb ck c).comb k = s.comb k := by
  simp [State.comb, State.setComb, Sparse.get_set_ne _ _ _ h]

@[simp] theorem State.comb_modComb_self (s : State) (ck : Nat) (f : Comb → Comb) : (s.modComb ck f).comb ck = f (s.comb ck) := by
  simp [State.modComb]

theorem State.comb_modComb_ne (s : State) {ck k : Nat} (f : Comb → Comb) (h : k ≠ ck) : (s.modComb ck f).comb k = s.comb k := by
  simp [State.modComb, State.comb_setComb_ne _ _ h]

theorem State.comb_modComb (s : State) (ck k : Nat) (f : Comb → Comb) : (s.modComb ck f).comb k = if k = ck then f (s.comb ck) else s.comb k := by
  split
  · next h => simp [h]
  · next h => simp [State.comb_modComb_ne _ _ h]

@[simp] theorem State.die_setDie_self (s : State) (d : Nat) (x : Die) : (s.setDie d x).die d = x := by
  simp [State.die, State.setDie]

theorem State.die_setDie_ne (s : State) {d k : Nat} (x : Die) (h : k ≠ d) : (s.setDie d x).die k = s.die k := by
  simp [State.die, State.setDie, Sparse.get_set_ne _ _ _ h]

@[simp] theorem State.die_modDie_self (s : State) (d : Nat) (f : Die → Die) : (s.modDie d f).die d = f (s.die d) := by
  simp [State.modDie]

theorem State.die_modDie_ne (s : State) {d k : Nat} (f : Die → Die) (h : k ≠ d) : (s.modDie d f).die k = s.die k := by
  simp [State.modDie, State.die_setDie_ne _ _ h]

@[simp] theorem State.die_setComb (s : State) (ck : Nat) (c : Comb) (d : Nat) : (s.setComb ck c).die d = s.die d := rfl
@[simp] theorem State.die_modComb (s : State) (ck : Nat) (f : Comb → Comb) (d : Nat) : (s.modComb ck f).die d = s.die d := rfl
@[simp] theorem State.die_setThread (s : State) (a : Agent) (th : Thread) (d : Nat) : (s.setThread a th).die d = s.die d := rfl
@[simp] theorem State.die_post (s : State) (ck : Nat) (r : EvRec) (d : Nat) : (s.post ck r).die d = s.die d := rfl
@[simp] theorem State.comb_setDie (s : State) (d : Nat) (x : Die) (ck : Nat) : (s.setDie d x).comb ck = s.comb ck := rfl
@[simp] theorem State.comb_modDie (s : State) (d : Nat) (f : Die → Die) (ck : Nat) : (s.modDie d f).comb ck = s.comb ck := rfl
@[simp] theorem State.comb_reset (ck : Nat) : State.reset.comb ck = Comb.reset := rfl
@[simp] theorem State.die_reset (d : Nat) : State.reset.die d = Die.reset := rfl

/-! ## Threads -/

/-- The thread of a group in its slot. -/
@[simp] theorem State.thread_group (s : State) (d c k : Nat) :
    s.thread (.group d c k) = Sparse.find? (s.comb (combKey d c)).groups k := rfl

/-- A group's thread that is set is read back. -/
theorem State.thread_setThread_group (s : State) (d c k : Nat) (th : Thread) :
    (s.setThread (.group d c k) th).thread (.group d c k) = some th := by
  simp only [State.thread, State.setThread, State.comb_modComb_self]
  exact Sparse.find?_put_self _ _ _

/-- Setting a group's thread leaves every other slot of its comb. -/
theorem State.groups_setThread_ne (s : State) (d c k j : Nat) (th : Thread) (h : j ≠ k) :
    Sparse.find? ((s.setThread (.group d c k) th).comb (combKey d c)).groups j = Sparse.find? (s.comb (combKey d c)).groups j := by
  have hk : agentKey (.group d c k) = combKey d c := rfl
  simp only [State.setThread, hk, State.comb_modComb_self]
  exact Sparse.find?_put_ne _ _ h

/-- Setting a thread leaves every other comb. -/
theorem State.comb_setThread_ne (s : State) (a : Agent) (th : Thread) {ck : Nat} (h : ck ≠ agentKey a) :
    (s.setThread a th).comb ck = s.comb ck := State.comb_modComb_ne s _ h

/-- A posted record leaves every other comb. -/
theorem State.comb_post_ne (s : State) {ck k : Nat} (r : EvRec) (h : k ≠ ck) : (s.post ck r).comb k = s.comb k :=
  State.comb_modComb_ne s _ h

end Sys2Proof.Machine
end

