-- ==== Sys2Proof/Laws/Memory.lean ====
section
/-! SUPPORT. Memory: little-endian numbers, a byte and a word read after they are written, lines filled, written back
and dropped, scratch granted and freed, and that each of these keeps the canonical form. -/

namespace Sys2Proof

/-! ## Little-endian numbers (R1) -/

theorem leBytes_length (n x : Nat) : (leBytes n x).length = n := by
  induction n generalizing x with
  | zero => rfl
  | succ n ih => simp [leBytes, ih]

theorem leNat_leBytes (n x : Nat) : leNat (leBytes n x) = x % 256 ^ n := by
  induction n generalizing x with
  | zero => simp [leBytes, leNat, Nat.mod_one]
  | succ n ih =>
    simp only [leBytes, leNat, ih, BitVec.toNat_ofNat]
    rw [show 256 ^ (n + 1) = 256 * 256 ^ n by rw [Nat.pow_succ, Nat.mul_comm], Nat.mod_mul]

theorem leBytes_getD (n x k : Nat) (d : Byte) (h : k < n) : (leBytes n x).getD k d = BitVec.ofNat 8 (x / 256 ^ k) := by
  induction n generalizing x k with
  | zero => omega
  | succ n ih =>
    cases k with
    | zero => simp [leBytes]
    | succ k =>
      simp only [leBytes, List.getD_cons_succ]
      rw [ih _ _ (by omega), Nat.div_div_eq_div_mul, ← Nat.pow_succ']

namespace Machine

/-! ## Keys filtered out -/

theorem Sparse.find?_filter {α : Type} (m : List (Nat × α)) (q : Nat → Bool) (i : Nat) :
    Sparse.find? (m.filter fun x => q x.1) i = if q i then Sparse.find? m i else none := by
  induction m with
  | nil => simp
  | cons p m ih =>
    obtain ⟨k, v⟩ := p
    by_cases hk : q k <;> by_cases hi : i = k <;> simp_all [List.filter, Sparse.find?]

theorem Sparse.get_filter {α : Type} (d : α) (m : List (Nat × α)) (q : Nat → Bool) (i : Nat) :
    Sparse.get d (m.filter fun x => q x.1) i = if q i then Sparse.get d m i else d := by
  simp only [Sparse.get, Sparse.find?_filter]
  cases q i <;> rfl

/-! ## Raw bytes -/

/-- The byte just written is read. -/
theorem rawByte_setRaw_self (s : State) (loc : Nat) (b : Byte) : (s.setRaw loc b).rawByte loc = b := by
  unfold State.setRaw State.rawByte
  split
  · simp
  · split <;> simp

/-- Every other byte reads as before. -/
theorem rawByte_setRaw_ne (s : State) {loc l : Nat} (b : Byte) (h : l ≠ loc) : (s.setRaw loc b).rawByte l = s.rawByte l := by
  unfold State.setRaw
  split
  · next h1 =>
    simp only [State.rawByte, State.modComb_host, State.modComb_hbm]
    split
    · next h2 =>
      by_cases hk : (l - scratchBase) / 2 ^ 21 = (loc - scratchBase) / 2 ^ 21
      · rw [hk, State.comb_modComb_self]
        apply Sparse.get_set_ne
        intro hm
        apply h
        have a := Nat.div_add_mod (l - scratchBase) (2 ^ 21)
        have b := Nat.div_add_mod (loc - scratchBase) (2 ^ 21)
        rw [hk, hm] at a
        omega
      · rw [State.comb_modComb_ne _ _ hk]
    · rfl
  · split
    · next h1 h2 =>
      have hc : ∀ k, ({ s with host := Sparse.set 0 s.host (loc - hostBase) b } : State).comb k = s.comb k := fun _ => rfl
      simp only [State.rawByte, hc]
      split
      · rfl
      · split
        · apply Sparse.get_set_ne; omega
        · rfl
    · next h1 h2 =>
      have hc : ∀ k, ({ s with hbm := Sparse.set 0 s.hbm loc b } : State).comb k = s.comb k := fun _ => rfl
      simp only [State.rawByte, hc]
      split
      · rfl
      · split
        · rfl
        · exact Sparse.get_set_ne _ _ _ h

/-! ## Words of HBM and lines -/

theorem getRun_setRun_self (m : List Host.Cell) (i : Nat) (bs : List Byte) :
    Sparse.getRun 0 (Sparse.setRun 0 m i bs) i bs.length = bs := by
  suffices ∀ n k, n + k = bs.length → Sparse.getRun 0 (Sparse.setRun 0 m i bs) (i + k) n = bs.drop k by
    simpa using this bs.length 0 (by omega)
  intro n
  induction n with
  | zero => intro k hk; simp [Sparse.getRun, ← hk]
  | succ n ih =>
    intro k hk
    have hlt : k < bs.length := by omega
    simp only [Sparse.getRun, Sparse.get_setRun, Nat.add_assoc i k 1, ih (k + 1) (by omega)]
    rw [if_pos (by omega), Nat.add_sub_cancel_left, List.drop_eq_getElem_cons hlt, List.getD_eq_getElem?_getD,
      List.getElem?_eq_getElem hlt, Option.getD_some]

theorem getRun_congr (a b : List Host.Cell) (i n : Nat) (h : ∀ j, i ≤ j → j < i + n → Sparse.get 0 a j = Sparse.get 0 b j) :
    Sparse.getRun 0 a i n = Sparse.getRun 0 b i n := by
  induction n generalizing i with
  | zero => rfl
  | succ n ih =>
    simp only [Sparse.getRun]
    rw [h i (by omega) (by omega), ih (i + 1) (fun j h1 h2 => h j (by omega) (by omega))]

/-- A word of HBM just written is read. -/
@[simp] theorem hbmWord_setHbmWord_self (s : State) (w : Nat) (x : Word) : (s.setHbmWord w x).hbmWord w = x := by
  have h := getRun_setRun_self s.hbm (4 * w) (leBytes 4 x.toNat)
  rw [leBytes_length] at h
  simp only [State.hbmWord, State.setHbmWord, h, leNat_leBytes]
  apply BitVec.eq_of_toNat_eq
  simp only [BitVec.toNat_ofNat]
  have := x.isLt
  omega

/-- Every other word of HBM reads as before. -/
theorem hbmWord_setHbmWord_ne (s : State) {w v : Nat} (x : Word) (h : v ≠ w) : (s.setHbmWord w x).hbmWord v = s.hbmWord v := by
  simp only [State.hbmWord, State.setHbmWord]
  rw [getRun_congr]
  intro j h1 h2
  rw [Sparse.get_setRun]
  split
  · next hle =>
    rw [List.getD_eq_getElem?_getD, List.getElem?_eq_none (by rw [leBytes_length]; omega), Option.getD_none]
  · rfl

/-- A byte written to a line leaves the words of every other word number, and their validity. -/
theorem putLine_other (s : State) (ctx : Nat) (it : Nat × Byte × Byte) {w : Nat} (h : w ≠ it.1 / 4) :
    (s.putLine ctx it).wordNow w = s.wordNow w ∧ (s.putLine ctx it).wordValid w = s.wordValid w := by
  simp only [State.putLine, State.wordNow, State.wordValid]
  by_cases hk : w / 32 = it.1 / 4 / 32
  · have hm : w % 32 ≠ it.1 / 4 % 32 := by omega
    have hb : ((BitVec.ofNat 32 (2 ^ (it.1 / 4 % 32))).getLsbD (w % 32)) = false := by
      simp only [BitVec.getLsbD_ofNat, Nat.testBit_two_pow, Bool.and_eq_false_iff, decide_eq_false_iff_not]
      omega
    rw [hk, Sparse.find?_put_self]
    simp only [BitVec.getLsbD_or, hb, Bool.or_false, Line.word, Sparse.get_set_ne _ _ _ hm]
    cases hf : Sparse.find? s.l2 (it.1 / 4 / 32) <;> simp [Line.empty, State.hbmWord]
  · rw [Sparse.find?_put_ne _ _ hk]
    simp [State.hbmWord]

/-- The word of a byte written to a line is valid, and holds the byte merged into what it held. -/
theorem putLine_self (s : State) (ctx : Nat) (it : Nat × Byte × Byte) :
    (s.putLine ctx it).wordValid (it.1 / 4) = true ∧
    (s.putLine ctx it).wordNow (it.1 / 4) =
      mergeByte (s.wordNow (it.1 / 4)) (it.1 % 4) it.2.1 it.2.2 := by
  have hb : ((BitVec.ofNat 32 (2 ^ (it.1 / 4 % 32))).getLsbD (it.1 / 4 % 32)) = true := by
    simp only [BitVec.getLsbD_ofNat, Nat.testBit_two_pow, decide_true, Bool.and_true, decide_eq_true_eq]
    omega
  simp only [State.putLine, State.wordNow, State.wordValid, Sparse.find?_put_self, BitVec.getLsbD_or, hb, Bool.or_true, true_and, if_true]
  simp only [Line.word, Sparse.get_set_self]
  obtain ⟨o, hf⟩ : ∃ o, Sparse.find? s.l2 (it.1 / 4 / 32) = o := ⟨_, rfl⟩
  cases o with
  | none => simp [hf, Line.empty, State.hbmWord]
  | some l => cases hv : l.valid.getLsbD (it.1 / 4 % 32) <;> simp [hf, hv, State.hbmWord]

/-- A line dropped: its words read as HBM's. -/
theorem wordNow_dropLine (s : State) (k w : Nat) :
    (s.dropLine k).wordNow w = if w / 32 = k then s.hbmWord w else s.wordNow w := by
  by_cases h : w / 32 = k
  · rw [if_pos h]
    simp [State.dropLine, State.wordNow, h, Sparse.find?_erase_self, State.hbmWord]
  · rw [if_neg h]
    simp only [State.dropLine, State.wordNow, Sparse.find?_erase_ne _ h]
    rfl

/-! ## Scratch -/

/-- Granted scratch reads 0, and all other scratch reads as before (R237). -/
theorem scratch_grant (c : Comb) (gs : List Nat) (key a : Nat) :
    Sparse.get 0 (c.grant gs key).scratch a = if gs.contains (a / 8192) then 0 else Sparse.get 0 c.scratch a := by
  have h := Sparse.get_filter 0 c.scratch (fun x => !gs.contains (x / 8192)) a
  simp only [Comb.grant, h]
  cases gs.contains (a / 8192) <;> rfl

/-- The scratch of a team that is freed reads 0, and all other scratch reads as before. -/
theorem scratch_freeTeam (c : Comb) (key : Nat) (t : Team) (a : Nat) :
    Sparse.get 0 (c.freeTeam key t).scratch a = if t.granules.contains (a / 8192) then 0 else Sparse.get 0 c.scratch a := by
  have h := Sparse.get_filter 0 c.scratch (fun x => !t.granules.contains (x / 8192)) a
  simp only [Comb.freeTeam, h]
  cases t.granules.contains (a / 8192) <;> rfl

/-! ## The canonical form -/

theorem wf_filter {m : List Host.Cell} (p : Host.Cell → Bool) (h : Memory.wf m = true) : Memory.wf (m.filter p) = true :=
  Sparse.wfFrom_filter 0 p h

/-- A byte written keeps the canonical form of HBM and of host memory. -/
theorem wf_setRaw (s : State) (loc : Nat) (b : Byte) (h1 : Memory.wf s.hbm = true) (h2 : Memory.wf s.host = true) :
    Memory.wf (s.setRaw loc b).hbm = true ∧ Memory.wf (s.setRaw loc b).host = true := by
  unfold State.setRaw
  split
  · exact ⟨h1, h2⟩
  · split
    · exact ⟨h1, Sparse.wf_set _ _ h2⟩
    · exact ⟨Sparse.wf_set _ _ h1, h2⟩

/-- A byte written keeps the canonical form of every scratch. -/
theorem wf_scratch_setRaw (s : State) (loc : Nat) (b : Byte) (k : Nat) (h : ∀ k, Memory.wf (s.comb k).scratch = true) :
    Memory.wf ((s.setRaw loc b).comb k).scratch = true := by
  unfold State.setRaw
  split
  · rw [State.comb_modComb]
    split
    · exact Sparse.wf_set _ _ (h _)
    · exact h k
  · split <;> exact h k

theorem wf_setHbmWord (s : State) (w : Nat) (x : Word) (h : Memory.wf s.hbm = true) : Memory.wf (s.setHbmWord w x).hbm = true :=
  Sparse.wf_setRun _ _ h

/-- What each step of a fold keeps the fold keeps. -/
theorem foldl_keeps {α β : Type} (g : State → β) (f : State → α → State) (h : ∀ s x, g (f s x) = g s) (xs : List α) (s : State) :
    g (xs.foldl f s) = g s := by
  induction xs generalizing s with
  | nil => rfl
  | cons x xs ih => exact (ih _).trans (h s x)

/-- A property that each step of a fold keeps the fold keeps. -/
theorem foldl_inv {α : Type} (p : State → Prop) (f : State → α → State) (h : ∀ s x, p s → p (f s x)) (xs : List α) (s : State) (hs : p s) :
    p (xs.foldl f s) := by
  induction xs generalizing s with
  | nil => exact hs
  | cons x xs ih => exact ih _ (h s x hs)

/-- Nothing but the words' errors changes. -/
theorem setBad_frame (s : State) (w k : Nat) (b : Bool) : s.setBad w k b = { s with badWords := (s.setBad w k b).badWords } := rfl

theorem wordBack_hbm (s : State) (w : Nat) (x : Word) : (s.wordBack w x).hbm = (s.setHbmWord w x).hbm := by
  unfold State.wordBack
  dsimp only
  split <;> rfl

/-- What a write does to the errors of its words changes nothing else. -/
theorem rewrite_frame (s : State) (m : Nat) (its : List (Nat × Byte × Byte)) :
    s.rewrite m its = { s with badWords := (s.rewrite m its).badWords } := by
  unfold State.rewrite
  split
  · rfl
  · suffices ∀ (f : State → Nat × Byte × Byte → State) (_ : ∀ t x, f t x = { t with badWords := (f t x).badWords })
        (xs : List (Nat × Byte × Byte)) (t : State), xs.foldl f t = { t with badWords := (xs.foldl f t).badWords } from by
      refine this _ (fun t x => ?_) its s
      dsimp only
      repeat' split
      all_goals rfl
    intro f hf xs
    induction xs with
    | nil => intro t; rfl
    | cons it xs ih =>
      intro t
      rw [List.foldl_cons, ih, hf]

@[simp] theorem rewrite_hbm (s : State) (m : Nat) (its : List (Nat × Byte × Byte)) : (s.rewrite m its).hbm = s.hbm := by rw [rewrite_frame]
@[simp] theorem rewrite_host (s : State) (m : Nat) (its : List (Nat × Byte × Byte)) : (s.rewrite m its).host = s.host := by rw [rewrite_frame]
@[simp] theorem rewrite_combs (s : State) (m : Nat) (its : List (Nat × Byte × Byte)) : (s.rewrite m its).combs = s.combs := by rw [rewrite_frame]

theorem notice_hbm (s : State) (ws : List Word) : (s.notice ws).hbm = s.hbm := by
  unfold State.notice
  dsimp only
  repeat' split
  all_goals rfl

/-- A notice keeps the canonical form of host memory. -/
theorem wf_notice (s : State) (ws : List Word) (h : Memory.wf s.host = true) : Memory.wf (s.notice ws).host = true := by
  unfold State.notice
  dsimp only
  repeat' split
  · exact Sparse.wf_setRun _ _ h
  all_goals exact h

theorem dropGrids_memory (s : State) (ctx : Nat) : (s.dropGrids ctx).hbm = s.hbm ∧ (s.dropGrids ctx).host = s.host :=
  ⟨foldl_keeps State.hbm (fun s d => s.modDie d fun x => { x with forage := x.forage.filter fun f => decide (f.2.ctx ≠ ctx) }) (fun _ _ => rfl) s.liveDies s,
   foldl_keeps State.host (fun s d => s.modDie d fun x => { x with forage := x.forage.filter fun f => decide (f.2.ctx ≠ ctx) }) (fun _ _ => rfl) s.liveDies s⟩

/-- The end of a context leaves HBM as it is, and keeps the canonical form of host memory, to which its notice goes. -/
theorem endContext_memory (s : State) (ctx reason cause pc : Nat) :
    (s.endContext ctx reason cause pc).hbm = s.hbm ∧ (Memory.wf s.host = true → Memory.wf (s.endContext ctx reason cause pc).host = true) := by
  unfold State.endContext
  split
  · exact ⟨rfl, id⟩
  · split
    · exact ⟨rfl, id⟩
    · exact ⟨(notice_hbm ..).trans (dropGrids_memory ..).1, fun h => wf_notice _ _ ((congrArg _ (dropGrids_memory ..).2).trans h)⟩

theorem wf_wordBack (s : State) (w : Nat) (x : Word) (h : Memory.wf s.hbm = true) : Memory.wf (s.wordBack w x).hbm = true := by
  rw [wordBack_hbm]
  exact wf_setHbmWord _ _ _ h

theorem wf_tileWordBack (s : State) (a : Nat) (x : Word) (h : Memory.wf s.hbm = true) : Memory.wf (s.tileWordBack a x).hbm = true := by
  unfold State.tileWordBack
  dsimp only
  split
  · exact wf_wordBack _ _ _ h
  · split <;> exact wf_wordBack _ _ _ h

theorem wf_putUncached (s : State) (ctx : Nat) (it : Nat × Byte × Byte) (h1 : Memory.wf s.hbm = true) (h2 : Memory.wf s.host = true) :
    Memory.wf (s.putUncached ctx it).hbm = true ∧ Memory.wf (s.putUncached ctx it).host = true := by
  unfold State.putUncached
  split
  · exact ⟨h1, h2⟩
  · exact wf_setRaw s _ _ h1 h2

/-- Bytes written at their homes keep the canonical form of HBM and of host memory. -/
theorem wf_putBytes (s : State) (ctx mtype : Nat) (items : List (Nat × Byte × Byte)) (h1 : Memory.wf s.hbm = true) (h2 : Memory.wf s.host = true) :
    Memory.wf (s.putBytes ctx mtype items).hbm = true ∧ Memory.wf (s.putBytes ctx mtype items).host = true := by
  unfold State.putBytes
  refine foldl_inv (fun s => Memory.wf s.hbm = true ∧ Memory.wf s.host = true) _ (fun s it h => ?_) _ _ ⟨by simpa using h1, by simpa using h2⟩
  split
  · exact wf_putUncached s ctx it h.1 h.2
  · exact h


theorem wf_writeBackLine (s : State) (k : Nat) (h : Memory.wf s.hbm = true) : Memory.wf (s.writeBackLine k).hbm = true := by
  unfold State.writeBackLine
  split
  · exact h
  · extract_lets dirty s1 s2
    split
    · rw [(endContext_memory ..).1]
      exact foldl_inv (fun s => Memory.wf s.hbm = true) (fun s i => s.setBad (32 * k + i) 1 false) (fun _ _ h => h) dirty _ h
    · exact foldl_inv (fun s => Memory.wf s.hbm = true) _ (fun _ _ h => wf_wordBack _ _ _ h) _ _ h

theorem wf_putScratch (s : State) (ck a : Nat) (bs : List Byte) (k : Nat) (h : ∀ k, Memory.wf (s.comb k).scratch = true) :
    Memory.wf ((s.putScratch ck a bs).comb k).scratch = true := by
  unfold State.putScratch
  rw [State.comb_modComb]
  split
  · exact Sparse.wf_setRun _ _ (h _)
  · exact h k

theorem wf_grant (c : Comb) (gs : List Nat) (key : Nat) (h : Memory.wf c.scratch = true) : Memory.wf (c.grant gs key).scratch = true :=
  wf_filter _ h

theorem wf_freeTeam (c : Comb) (key : Nat) (t : Team) (h : Memory.wf c.scratch = true) : Memory.wf (c.freeTeam key t).scratch = true :=
  wf_filter _ h

end Machine
end Sys2Proof
end

