-- ==== Sys2Proof/Laws/Serve.lean ====
section
/-! SUPPORT. What serving loads can do, said once: it changes fills on their way, the L1s and the operations, and nothing
else; loads with no lane left stay as they are. -/

namespace Sys2Proof.Machine

/-- Nothing but the fills, the L1s and operations of the combs, what they note of lost data, and the dies' error counts
differs. -/
def ServeFrame (s t : State) : Prop :=
  t = { s with fills := t.fills, combs := t.combs, dies := t.dies } ∧
  (∀ d, t.die d = { s.die d with errCounts := (t.die d).errCounts }) ∧
  ∀ k, t.comb k = { s.comb k with l1 := (t.comb k).l1, ops := (t.comb k).ops, lostData := (t.comb k).lostData }

theorem ServeFrame.refl (s : State) : ServeFrame s s := ⟨rfl, fun _ => rfl, fun _ => rfl⟩

theorem ServeFrame.trans {s t u : State} (h : ServeFrame s t) (g : ServeFrame t u) : ServeFrame s u := by
  refine ⟨?_, fun d => ?_, fun k => ?_⟩
  · rw [g.1, h.1]
  · rw [g.2.1 d, h.2.1 d]
  · rw [g.2.2 k, h.2.2 k]

/-- A comb's L1, operations and notes of lost data changed. -/
theorem ServeFrame.modComb (s : State) (ck : Nat) (f : Comb → Comb) (h : ∀ c, f c = { c with l1 := (f c).l1, ops := (f c).ops, lostData := (f c).lostData }) :
    ServeFrame s (s.modComb ck f) := by
  refine ⟨rfl, fun _ => rfl, fun k => ?_⟩
  rw [State.comb_modComb]
  split
  · next hk => subst hk; exact h _
  · rfl

theorem ServeFrame.startFill (s : State) (x : Fill) : ServeFrame s (s.startFill x) := by
  unfold State.startFill
  split
  · exact .refl s
  · exact ⟨rfl, fun _ => rfl, fun _ => rfl⟩

/-- An error counted keeps the frame, and every comb. -/
theorem ServeFrame.countErr (s : State) (die cls : Nat) (b : Bool) : ServeFrame s (s.countErr die cls b) ∧ (s.countErr die cls b).combs = s.combs := by
  refine ⟨⟨rfl, fun d => ?_, fun _ => rfl⟩, rfl⟩
  unfold State.countErr
  by_cases h : d = die
  · subst h; dsimp only; rw [State.die_modDie_self]
  · dsimp only; rw [State.die_modDie_ne _ _ h]

/-- A line that joins an L1 changes nothing else of the comb. -/
theorem addL1_frame (c : Comb) (l : L1Line) : c.addL1 l = { c with l1 := (c.addL1 l).l1 } := by
  unfold Comb.addL1
  dsimp only
  split <;> rfl

theorem combs_startFill (s : State) (x : Fill) : (s.startFill x).combs = s.combs := by
  unfold State.startFill
  split <;> rfl

/-- Steps that each keep a frame keep it together. -/
theorem ServeFrame.foldl {α : Type} (f : State → α → State) (h : ∀ s x, ServeFrame s (f s x)) (xs : List α) (s : State) : ServeFrame s (xs.foldl f s) := by
  induction xs generalizing s with
  | nil => exact .refl s
  | cons x xs ih => exact (h s x).trans (ih _)

theorem combs_foldl {α : Type} (f : State → α → State) (h : ∀ s x, (f s x).combs = s.combs) (xs : List α) (s : State) : (xs.foldl f s).combs = s.combs := by
  induction xs generalizing s with
  | nil => rfl
  | cons x xs ih => exact (ih _).trans (h s x)

theorem laneFills_frame (s : State) (u : Nat) (r : LaneRead) : ServeFrame s (s.laneFills u r) ∧ (s.laneFills u r).combs = s.combs := by
  unfold State.laneFills
  split
  · refine ⟨.foldl _ (fun s x => ?_) _ _, combs_foldl _ (fun s x => ?_) _ _⟩ <;> split
    · exact .refl s
    · exact .startFill ..
    · rfl
    · exact combs_startFill ..
  · refine ⟨.foldl _ (fun s x => ?_) _ _, combs_foldl _ (fun s x => ?_) _ _⟩ <;> split
    · exact .refl s
    · exact .startFill ..
    · rfl
    · exact combs_startFill ..

/-- Serving a lane keeps every comb's operations. -/
theorem serveLane_frame (s : State) (ck : Nat) (op : AsyncOp) (u a : Bool) (r : LaneRead) :
    ServeFrame s (s.serveLane ck op u a r).1 ∧ ∀ k, ((s.serveLane ck op u a r).1.comb k).ops = (s.comb k).ops := by
  have keep (t : State) (f : Comb → List L1Line) : ServeFrame t (t.modComb ck fun c => { c with l1 := f c }) ∧
      ∀ k, ((t.modComb ck fun c => { c with l1 := f c }).comb k).ops = (t.comb k).ops := by
    refine ⟨.modComb _ _ _ fun _ => rfl, fun k => ?_⟩
    rw [State.comb_modComb]; split
    · next h => subst h; rfl
    · rfl
  have add (t : State) (l : L1Line) : ServeFrame t (t.modComb ck fun c => c.addL1 l) ∧ ∀ k, ((t.modComb ck fun c => c.addL1 l).comb k).ops = (t.comb k).ops := by
    refine ⟨.modComb _ _ _ fun c => by rw [addL1_frame], fun k => ?_⟩
    rw [State.comb_modComb]; split
    · next h => subst h; rw [addL1_frame]
    · rfl
  unfold State.serveLane
  split
  · exact ⟨.refl s, fun _ => rfl⟩
  · split
    · exact ⟨.refl s, fun _ => rfl⟩
    split
    · exact ⟨.refl s, fun _ => rfl⟩
    split
    · exact ⟨.refl s, fun _ => rfl⟩
    split
    · exact ⟨(laneFills_frame s _ r).1, fun k => by unfold State.comb; rw [(laneFills_frame s _ r).2]⟩
    dsimp only
    have h0 : ServeFrame s (if a = true then s.dropL1 ck else s.dropL1Where ck fun l => l.holds r) ∧
        ∀ k, ((if a = true then s.dropL1 ck else s.dropL1Where ck fun l => l.holds r).comb k).ops = (s.comb k).ops := by
      split
      · exact keep s fun _ => []
      · exact keep s fun c => c.l1.filter fun l => !l.holds r
    generalize (if a = true then s.dropL1 ck else s.dropL1Where ck fun l => l.holds r) = t at h0 ⊢
    split
    · split
      · exact ⟨h0.1.trans (add _ _).1, fun k => ((add _ _).2 k).trans (h0.2 k)⟩
      · exact h0
    · exact h0

theorem serveLanes_frame (ck : Nat) (op : AsyncOp) (u a : Bool) (rs : List LaneRead) (s : State) (d : Served) :
    ServeFrame s (s.serveLanes ck op u a rs d).1 ∧ ∀ k, ((s.serveLanes ck op u a rs d).1.comb k).ops = (s.comb k).ops := by
  induction rs generalizing s d with
  | nil => exact ⟨.refl s, fun _ => rfl⟩
  | cons r rs ih =>
    have h := serveLane_frame s ck op u a r
    unfold State.serveLanes
    split
    all_goals
      next s' _ he =>
      rw [he] at h
      exact ⟨h.1.trans (ih ..).1, fun k => ((ih ..).2 k).trans (h.2 k)⟩

/-- Noting the errors that served lanes met keeps every comb's operations. -/
theorem noteBad_frame (ck ctx : Nat) (rs : List LaneRead) (s : State) :
    ServeFrame s (s.noteBad ck ctx rs) ∧ ∀ k, ((s.noteBad ck ctx rs).comb k).ops = (s.comb k).ops := by
  have count (es : List (Nat × Nat × Bool)) (t : State) : ServeFrame t (es.foldl (fun x e => x.countLost e.2.1 e.2.2) t) ∧
      (es.foldl (fun x e => x.countLost e.2.1 e.2.2) t).combs = t.combs :=
    ⟨.foldl _ (fun t _ => (ServeFrame.countErr t _ _ _).1) _ _, combs_foldl _ (fun t _ => (ServeFrame.countErr t _ _ _).2) _ _⟩
  have note (t : State) (n : Nat) : ServeFrame t (t.modComb ck fun c => { c with lostData := c.lostData ++ [n] }) ∧
      ∀ k, ((t.modComb ck fun c => { c with lostData := c.lostData ++ [n] }).comb k).ops = (t.comb k).ops := by
    refine ⟨.modComb _ _ _ fun _ => rfl, fun k => ?_⟩
    rw [State.comb_modComb]; split
    · next h => subst h; rfl
    · rfl
  unfold State.noteBad
  generalize s.laneErrs = errs
  induction rs generalizing s with
  | nil => exact ⟨.refl s, fun _ => rfl⟩
  | cons r rs ih =>
    rw [List.foldl_cons]
    dsimp only
    split
    · have hc := count (errs r) (s.modComb ck fun c => { c with lostData := c.lostData ++ [lostKey ctx r.va] })
      refine ⟨((note s _).1.trans hc.1).trans (ih _).1, fun k => ((ih _).2 k).trans ?_⟩
      exact (congrArg (fun cs => (Sparse.get Comb.reset cs k).ops) hc.2).trans ((note s _).2 k)
    · have hc := count (errs r) s
      refine ⟨hc.1.trans (ih _).1, fun k => ((ih _).2 k).trans ?_⟩
      exact congrArg (fun cs => (Sparse.get Comb.reset cs k).ops) hc.2

/-- Serving an operation keeps every comb's operations; what it answers has the number of the operation. -/
theorem serveOp_frame (s : State) (ck : Nat) (op : AsyncOp) :
    ServeFrame s (s.serveOp ck op).1 ∧ (∀ k, ((s.serveOp ck op).1.comb k).ops = (s.comb k).ops) ∧ (s.serveOp ck op).2.uid = op.uid := by
  unfold State.serveOp
  split
  · next sh p got tog l1 acq n _ =>
    have h := serveLanes_frame ck op l1 (acq && decide (2 ≤ op.scope)) p s ⟨[], got, []⟩
    generalize State.serveLanes .. = x at h ⊢
    dsimp only
    cases op.release <;> dsimp only <;> repeat' split
    all_goals first
      | exact ⟨h.1.trans (noteBad_frame ..).1, fun k => ((noteBad_frame ..).2 k).trans (h.2 k), rfl⟩
      | exact ⟨h.1, h.2, rfl⟩
      | exact ⟨.refl s, fun _ => rfl, rfl⟩
  · exact ⟨.refl s, fun _ => rfl, rfl⟩

/-- An operation with no lane left to serve stays as it is. -/
theorem serveOp_idle (s : State) (ck : Nat) {op : AsyncOp} (h : op.pending = []) : s.serveOp ck op = (s, op) := by
  obtain ⟨uid, owner, ouid, ctx, team, cls, scope, release, after, engine, inv, kind, due, bad⟩ := op
  cases kind <;> try rfl
  next sh p got tog l1 acq n =>
  have hp : p = [] := h
  subst hp
  simp [State.serveOp, State.serveLanes, State.noteBad]

theorem serveComb_frame (s : State) (ck : Nat) : ServeFrame s (s.serveComb ck) := by
  unfold State.serveComb
  refine .foldl _ (fun s op => ?_) _ _
  have h := serveOp_frame s ck op
  exact h.1.trans (.modComb _ _ _ fun _ => rfl)

theorem serveComb_ops_ne (s : State) {ck k : Nat} (hk : k ≠ ck) : ((s.serveComb ck).comb k).ops = (s.comb k).ops := by
  have step (ops : List AsyncOp) : ∀ s : State, ((ops.foldl (fun s op =>
      match s.serveOp ck op with
      | (s', op') => s'.modComb ck fun c => c.setOp op') s).comb k).ops = (s.comb k).ops := by
    induction ops with
    | nil => exact fun _ => rfl
    | cons op ops ih =>
      intro s
      refine (ih _).trans ?_
      show (((s.serveOp ck op).1.modComb ck fun c => c.setOp (s.serveOp ck op).2).comb k).ops = _
      rw [State.comb_modComb, if_neg hk]
      exact (serveOp_frame s ck op).2.1 k
  exact step _ s

/-- An operation put in its own place changes nothing. -/
theorem setOp_self (c : Comb) (op : AsyncOp) (h : ∀ o ∈ c.ops, o.uid = op.uid → o = op) : (c.setOp op).ops = c.ops := by
  show c.ops.map _ = c.ops
  conv => rhs; rw [← List.map_id c.ops]
  refine List.map_congr_left fun o ho => ?_
  split
  · next hu => exact (h o ho hu).symm
  · rfl

/-- A comb whose loads have no lane left keeps its operations, which have numbers of their own. -/
theorem serveComb_ops_idle (s : State) (ck k : Nat) (h : ∀ op ∈ (s.comb k).ops, op.pending = [])
    (hu : ∀ o ∈ (s.comb k).ops, ∀ p ∈ (s.comb k).ops, o.uid = p.uid → o = p) : ((s.serveComb ck).comb k).ops = (s.comb k).ops := by
  by_cases hk : k = ck
  · subst hk
    have step (ops : List AsyncOp) : ∀ t : State, (t.comb k).ops = (s.comb k).ops → (∀ op ∈ ops, op ∈ (s.comb k).ops) →
        ((ops.foldl (fun s op =>
        match s.serveOp k op with
        | (s', op') => s'.modComb k fun c => c.setOp op') t).comb k).ops = (s.comb k).ops := by
      induction ops with
      | nil => exact fun t ht _ => ht
      | cons op ops ih =>
        intro t ht hm
        have hop : op ∈ (s.comb k).ops := hm op (List.mem_cons_self ..)
        refine ih _ ?_ fun o ho => hm o (List.mem_cons_of_mem _ ho)
        show (((t.serveOp k op).1.modComb k fun c => c.setOp (t.serveOp k op).2).comb k).ops = _
        rw [serveOp_idle t k (h op hop)]
        rw [State.comb_modComb, if_pos rfl, setOp_self _ _ (by rw [ht]; exact fun o ho e => hu o ho op hop e), ht]
    unfold State.serveComb
    exact step _ s rfl fun _ h => h
  · exact serveComb_ops_ne s hk

theorem serveAll_frame (s : State) : ServeFrame s s.serveAll := by
  have h := ServeFrame.foldl (fun (s : State) (kc : Nat × Comb) => s.serveComb kc.1) (fun s kc => serveComb_frame s kc.1) s.combs s
  rwa [State.serveAll]

/-- A comb whose loads have no lane left keeps its operations while the package's loads are served. -/
theorem serveAll_ops_idle (s : State) (k : Nat) (h : ∀ op ∈ (s.comb k).ops, op.pending = [])
    (hu : ∀ o ∈ (s.comb k).ops, ∀ p ∈ (s.comb k).ops, o.uid = p.uid → o = p) : (s.serveAll.comb k).ops = (s.comb k).ops := by
  have step (cs : List (Nat × Comb)) : ∀ t : State, (t.comb k).ops = (s.comb k).ops → ((cs.foldl (fun s kc => s.serveComb kc.1) t).comb k).ops = (s.comb k).ops := by
    induction cs with
    | nil => exact fun t ht => ht
    | cons kc cs ih => exact fun t ht => ih _ ((serveComb_ops_idle t kc.1 k (by rwa [ht]) (by rwa [ht])).trans ht)
  unfold State.serveAll
  exact step _ s rfl

/-- Serving loads leaves every byte behind the caches as it is. -/
theorem ServeFrame.rawByte {s t : State} (h : ServeFrame s t) (loc : Nat) : t.rawByte loc = s.rawByte loc := by
  unfold State.rawByte
  rw [h.2.2]
  rw [h.1]

theorem ServeFrame.stores {s t : State} (h : ServeFrame s t) : t.stores = s.stores := by rw [h.1]
theorem ServeFrame.nextUid {s t : State} (h : ServeFrame s t) : t.nextUid = s.nextUid := by rw [h.1]
theorem ServeFrame.die {s t : State} (h : ServeFrame s t) (d : Nat) : t.die d = { s.die d with errCounts := (t.die d).errCounts } := h.2.1 d
theorem ServeFrame.l2 {s t : State} (h : ServeFrame s t) : t.l2 = s.l2 := by rw [h.1]
theorem ServeFrame.hbm {s t : State} (h : ServeFrame s t) : t.hbm = s.hbm := by rw [h.1]
theorem ServeFrame.groups {s t : State} (h : ServeFrame s t) (k : Nat) : (t.comb k).groups = (s.comb k).groups := by rw [h.2.2]
theorem ServeFrame.scratch {s t : State} (h : ServeFrame s t) (k : Nat) : (t.comb k).scratch = (s.comb k).scratch := by rw [h.2.2]
theorem ServeFrame.teams {s t : State} (h : ServeFrame s t) (k : Nat) : (t.comb k).teams = (s.comb k).teams := by rw [h.2.2]

end Sys2Proof.Machine
end

