-- ==== Sys2Proof/Laws/Effects.lean ====
section
/-! SUPPORT. What the shared ends of instructions can do, each said once: the end of an issue and a wait store a thread and
advance a clock, an asynchronous operation joins its comb, and bytes written at scratch or host locations are written
as they stand. -/

namespace Sys2Proof.Machine

/-! ## Frames of bytes -/

theorem rawByte_congr {s t : State} (h1 : t.combs = s.combs) (h2 : t.hbm = s.hbm) (h3 : t.host = s.host) (loc : Nat) : t.rawByte loc = s.rawByte loc := by
  unfold State.rawByte State.comb
  rw [h1, h2, h3]

/-- A comb changed outside its scratch leaves every byte. -/
theorem rawByte_modComb (s : State) (ck : Nat) (f : Comb → Comb) (h : (f (s.comb ck)).scratch = (s.comb ck).scratch) (loc : Nat) :
    (s.modComb ck f).rawByte loc = s.rawByte loc := by
  unfold State.rawByte
  rw [State.comb_modComb]
  split
  · split
    · next hk => rw [h, hk]
    · rfl
  · rfl

theorem rawByte_setThread (s : State) (a : Agent) (th : Thread) (loc : Nat) : (s.setThread a th).rawByte loc = s.rawByte loc := by
  unfold State.setThread
  apply rawByte_modComb
  cases a <;> dsimp only
  split <;> rfl

/-! ## Ends of an issue -/

/-- An issue slot taken changes the comb's issue slots alone. -/
theorem occupy_frame (c : Comb) (a : Agent) (t : Nat) : c.occupy a t = { c with slotFree := (c.occupy a t).slotFree } := by
  unfold Comb.occupy
  cases a <;> rfl

/-- A comb whose issue slot is taken, or is not, while its clock advances. -/
theorem tick_frame (c : Comb) (a : Agent) (w : Bool) (n t : Nat) :
    ({ (if w = true then c else c.occupy a n) with clk := t } : Comb) = { c with slotFree := (if w = true then c else c.occupy a n).slotFree, clk := t } := by
  cases w
  · simp only [Bool.false_eq_true, if_false]; rw [occupy_frame]
  · rfl

/-- The end of an issue keeps what storing a thread and taking the issue slot keep, unless the thread is to be killed at the
end of its run. -/
theorem endIssue_keeps {α : Type} (g : State → α) (s : State) (a : Agent) (th : Thread) (r : Rule) (t due : Nat) (hd : th.doomed = none)
    (hg : ∀ (s : State) (c : Option Agent) (n : Nat), g { s with cur := c, freeN := n } = g s)
    (h : ∀ x w n, g ((s.setThread a x).modComb (agentKey a) fun c => { (if w = true then c else c.occupy a n) with clk := Nat.max c.clk t }) = g s) :
    g (s.endIssue a th r t due) = g s := by
  unfold State.endIssue
  extract_lets waited n at' leaves th0 th' s1 s2
  have hth : th'.doomed = none := by
    show (if _ then _ else _ : Thread).doomed = none
    split <;> exact hd
  have h1 : g s1 = g s := h th' _ _
  have h2 : g s2 = g s := (hg s1 none _).trans h1
  clear_value s1 s2 th' leaves
  repeat' split
  · next h => simp [hth] at h
  · exact h2
  · exact h2

/-- The end of an issue leaves every byte. -/
theorem rawByte_endIssue (s : State) (a : Agent) (th : Thread) (r : Rule) (t due loc : Nat) (hd : th.doomed = none) :
    (s.endIssue a th r t due).rawByte loc = s.rawByte loc :=
  endIssue_keeps (State.rawByte · loc) s a th r t due hd (fun _ _ _ => rfl) fun _ _ _ =>
    (rawByte_modComb _ _ _ (by rw [tick_frame]) loc).trans (rawByte_setThread ..)

theorem ops_setThread (s : State) (a : Agent) (th : Thread) (k : Nat) : ((s.setThread a th).comb k).ops = (s.comb k).ops := by
  unfold State.setThread
  rw [State.comb_modComb]
  split
  · next h => subst h; cases a <;> dsimp only; split <;> rfl
  · rfl

/-- The end of an issue leaves every comb's operations. -/
theorem ops_endIssue (s : State) (a : Agent) (th : Thread) (r : Rule) (t due k : Nat) (hd : th.doomed = none) :
    ((s.endIssue a th r t due).comb k).ops = (s.comb k).ops := by
  refine endIssue_keeps (fun s => (s.comb k).ops) s a th r t due hd (fun _ _ _ => rfl) fun x w n => ?_
  rw [State.comb_modComb]
  split
  · next h => subst h; rw [tick_frame]; exact ops_setThread ..
  · exact ops_setThread ..

/-! ## Asynchronous operations (R90, R270) -/

/-- An asynchronous operation joins its comb's operations under the next number; nothing else of the machine changes. -/
theorem async_state (e : Env) (s : State) (th : Thread) (cls scope : Nat) (release : Option Nat) (kind : OpKind) (dsts : List (Nat × List Nat)) :
    ∃ op : AsyncOp, (e.async s th cls scope release kind dsts).1 = { s with nextUid := s.nextUid + 1 }.modComb e.ck (fun c => { c with ops := c.ops ++ [op] }) ∧
      op.uid = s.nextUid ∧ op.owner = e.ag ∧ op.ownerUid = th.uid ∧ op.cls = cls ∧ op.kind = kind :=
  ⟨_, rfl, rfl, rfl, rfl, rfl, rfl⟩

/-- The operations of the combs after an asynchronous operation was registered. -/
theorem async_ops (e : Env) (s : State) (th : Thread) (cls scope : Nat) (release : Option Nat) (kind : OpKind) (dsts : List (Nat × List Nat)) :
    ∃ op : AsyncOp, ((e.async s th cls scope release kind dsts).1.comb e.ck).ops = (s.comb e.ck).ops ++ [op] ∧
      op.uid = s.nextUid ∧ op.owner = e.ag ∧ op.ownerUid = th.uid ∧ op.cls = cls ∧ op.kind = kind := by
  obtain ⟨op, h, h1⟩ := async_state e s th cls scope release kind dsts
  refine ⟨op, ?_, h1⟩
  rw [h, State.comb_modComb, if_pos rfl]
  rfl

/-- Its registers are covered by no WAITC yet. -/
theorem async_uncov (e : Env) (s : State) (th : Thread) (cls scope : Nat) (release : Option Nat) (kind : OpKind) (dsts : List (Nat × List Nat)) :
    (e.async s th cls scope release kind dsts).2 = { th with uncov := th.uncov ++ dsts.map fun d => e.uncover s.nextUid cls d.1 d.2 } := rfl

/-! ## Bytes at scratch and host locations (R236, R265) -/

/-- Bytes above the physical locations carry no error. -/
theorem rewrite_outside (m : Nat) (its : List (Nat × Byte × Byte)) (s : State) (h : ∀ it ∈ its, hostBase ≤ it.1) : s.rewrite m its = s := by
  unfold State.rewrite
  split
  · rfl
  · suffices ∀ (f : State → Nat × Byte × Byte → State) (_ : ∀ t x, hostBase ≤ x.1 → f t x = t) (t : State), its.foldl f t = t from
      this _ (fun t x hx => by simp [hx]) s
    intro f hf
    induction its with
    | nil => exact fun _ => rfl
    | cons it its ih =>
      intro t
      rw [List.foldl_cons, hf _ _ (h it (List.mem_cons_self ..))]
      exact ih (fun x hx => h x (List.mem_cons_of_mem _ hx)) t

/-- Whole bytes at locations above the physical ones are written one by one as they stand. -/
theorem putBytes_outside (ctx m : Nat) (its : List (Nat × Byte × Byte)) (s : State) (h : ∀ it ∈ its, hostBase ≤ it.1 ∧ it.2.2 = 0xFF) :
    s.putBytes ctx m its = its.foldl (fun s it => s.setRaw it.1 it.2.1) s := by
  unfold State.putBytes
  rw [rewrite_outside m its s fun it hi => (h it hi).1]
  induction its generalizing s with
  | nil => rfl
  | cons it its ih =>
    have h0 := h it (List.mem_cons_self ..)
    simp only [List.foldl_cons]
    rw [← ih _ (fun x hx => h x (List.mem_cons_of_mem _ hx))]
    congr 1
    have h1 : (decide (2 ≤ m) || decide (hostBase ≤ it.1)) = true := by simp [h0.1]
    have h2 : (decide (it.1 < hostBase) && s.wordValid (it.1 / 4)) = false := by simp; intro h; omega
    have h3 := BitVec.and_allOnes (x := it.2.1)
    rw [if_pos h1, State.putUncached, h2, h0.2]
    simp at h3 ⊢
    rw [h3]

/-- A number written to consecutive locations is read there byte by byte, and every other byte is as before. -/
theorem rawByte_run (base x n : Nat) (s : State) (loc : Nat) :
    ((byteItems ((List.range n).map fun k => base + k) x).foldl (fun s it => s.setRaw it.1 it.2.1) s).rawByte loc =
      if base ≤ loc ∧ loc < base + n then BitVec.ofNat 8 (x / 256 ^ (loc - base)) else s.rawByte loc := by
  unfold byteItems
  simp only [List.length_map, List.length_range]
  induction n generalizing x base s with
  | zero => rw [if_neg (by omega)]; rfl
  | succ n ih =>
    rw [List.range_succ_eq_map]
    simp only [List.map_cons, List.map_map, leBytes, List.zip_cons_cons, List.foldl_cons, Nat.add_zero]
    have e : ((fun k => base + k) ∘ Nat.succ) = fun k => base + 1 + k := by funext k; simp; omega
    rw [e, ih (base + 1) (x / 256) (s.setRaw base (BitVec.ofNat 8 x))]
    by_cases h1 : loc = base
    · subst h1; simp [rawByte_setRaw_self]
    · by_cases h2 : base ≤ loc ∧ loc < base + (n + 1)
      · rw [if_pos h2, if_pos (by omega), Nat.div_div_eq_div_mul, ← Nat.pow_succ', show (loc - (base + 1)).succ = loc - base by omega]
      · rw [if_neg h2, if_neg (by omega), rawByte_setRaw_ne _ _ h1]

/-- The locations of scratch lie above the physical ones. -/
theorem byteItems_scratch (ck x n d : Nat) : ∀ it ∈ byteItems (scratchLocs ck x n) d, hostBase ≤ it.1 ∧ it.2.2 = 0xFF := by
  intro it h
  simp only [byteItems, List.mem_map] at h
  obtain ⟨lb, h1, rfl⟩ := h
  have h2 := (List.of_mem_zip h1).1
  simp only [scratchLocs, List.mem_map] at h2
  obtain ⟨k, _, hk⟩ := h2
  refine ⟨?_, rfl⟩
  show hostBase ≤ lb.1
  rw [← hk]
  unfold scratchLoc scratchBase hostBase
  omega

end Sys2Proof.Machine
end

