-- ==== Sys2Proof/Laws/PerInstr.lean ====
section
/-! SUPPORT. Facts about the syntax of each instruction, one lemma per constructor: the opcode an instruction is encoded with
fits in its ten bits, and its major selects the form the instruction is written in (R71, R72). -/

namespace Sys2Proof.Laws

/-- The form of a body, as a major selects it. -/
def OpcodeForm.kind : Form → FormKind
  | .r _ => .r
  | .m _ => .m
  | .b _ => .b
  | .s _ => .s

/-- An instruction with a word has a ten-bit opcode, and its major selects the form of its body. -/
def OpcodeForm.Statement (i : Instr) : Prop :=
  ∀ op f, opForm i = some (op, f) → op < 1024 ∧ formOfMajor (op / 16) = some (OpcodeForm.kind f)

theorem OpcodeForm.of_word {i : Instr} {op : Nat} {f : Form} (h : opForm i = some (op, f)) (hb : op < 1024)
    (hf : formOfMajor (op / 16) = some (OpcodeForm.kind f)) : OpcodeForm.Statement i := by
  intro op' f' h'
  obtain ⟨rfl, rfl⟩ : op = op' ∧ f = f' := by simpa [h] using h'
  exact ⟨hb, hf⟩

theorem OpcodeForm.of_event {i : Instr} (h : opForm i = none) : OpcodeForm.Statement i := by
  intro op f h'
  simp [h] at h'

theorem OpcodeForm.nop (x0 : SForm) : OpcodeForm.Statement (.nop x0) := OpcodeForm.of_word rfl (by decide) rfl
theorem OpcodeForm.exit (x0 : SForm) : OpcodeForm.Statement (.exit x0) := OpcodeForm.of_word rfl (by decide) rfl
theorem OpcodeForm.yield (x0 : SForm) : OpcodeForm.Statement (.yield x0) := OpcodeForm.of_word rfl (by decide) rfl
theorem OpcodeForm.trap (x0 : SForm) : OpcodeForm.Statement (.trap x0) := OpcodeForm.of_word rfl (by decide) rfl
theorem OpcodeForm.brk (x0 : SForm) : OpcodeForm.Statement (.brk x0) := OpcodeForm.of_word rfl (by decide) rfl
theorem OpcodeForm.rdsr (x0 : SForm) : OpcodeForm.Statement (.rdsr x0) := OpcodeForm.of_word rfl (by decide) rfl
theorem OpcodeForm.wrsr (x0 : SForm) : OpcodeForm.Statement (.wrsr x0) := OpcodeForm.of_word rfl (by decide) rfl
theorem OpcodeForm.iadd (x0 : RForm) : OpcodeForm.Statement (.iadd x0) := OpcodeForm.of_word rfl (by decide) rfl
theorem OpcodeForm.isub (x0 : RForm) : OpcodeForm.Statement (.isub x0) := OpcodeForm.of_word rfl (by decide) rfl
theorem OpcodeForm.imul (x0 : RForm) : OpcodeForm.Statement (.imul x0) := OpcodeForm.of_word rfl (by decide) rfl
theorem OpcodeForm.imulhi (x0 : RForm) : OpcodeForm.Statement (.imulhi x0) := OpcodeForm.of_word rfl (by decide) rfl
theorem OpcodeForm.imad (x0 : RForm) : OpcodeForm.Statement (.imad x0) := OpcodeForm.of_word rfl (by decide) rfl
theorem OpcodeForm.imin (x0 : RForm) : OpcodeForm.Statement (.imin x0) := OpcodeForm.of_word rfl (by decide) rfl
theorem OpcodeForm.imax (x0 : RForm) : OpcodeForm.Statement (.imax x0) := OpcodeForm.of_word rfl (by decide) rfl
theorem OpcodeForm.iabs (x0 : RForm) : OpcodeForm.Statement (.iabs x0) := OpcodeForm.of_word rfl (by decide) rfl
theorem OpcodeForm.iaddc (x0 : RForm) : OpcodeForm.Statement (.iaddc x0) := OpcodeForm.of_word rfl (by decide) rfl
theorem OpcodeForm.lea (x0 : RForm) : OpcodeForm.Statement (.lea x0) := OpcodeForm.of_word rfl (by decide) rfl
theorem OpcodeForm.idp4 (x0 : RForm) : OpcodeForm.Statement (.idp4 x0) := OpcodeForm.of_word rfl (by decide) rfl
theorem OpcodeForm.idp2 (x0 : RForm) : OpcodeForm.Statement (.idp2 x0) := OpcodeForm.of_word rfl (by decide) rfl
theorem OpcodeForm.and (x0 : RForm) : OpcodeForm.Statement (.and x0) := OpcodeForm.of_word rfl (by decide) rfl
theorem OpcodeForm.or (x0 : RForm) : OpcodeForm.Statement (.or x0) := OpcodeForm.of_word rfl (by decide) rfl
theorem OpcodeForm.xor (x0 : RForm) : OpcodeForm.Statement (.xor x0) := OpcodeForm.of_word rfl (by decide) rfl
theorem OpcodeForm.andn (x0 : RForm) : OpcodeForm.Statement (.andn x0) := OpcodeForm.of_word rfl (by decide) rfl
theorem OpcodeForm.lop3 (x0 : RForm) : OpcodeForm.Statement (.lop3 x0) := OpcodeForm.of_word rfl (by decide) rfl
theorem OpcodeForm.shl (x0 : RForm) : OpcodeForm.Statement (.shl x0) := OpcodeForm.of_word rfl (by decide) rfl
theorem OpcodeForm.shr (x0 : RForm) : OpcodeForm.Statement (.shr x0) := OpcodeForm.of_word rfl (by decide) rfl
theorem OpcodeForm.sar (x0 : RForm) : OpcodeForm.Statement (.sar x0) := OpcodeForm.of_word rfl (by decide) rfl
theorem OpcodeForm.fshl (x0 : RForm) : OpcodeForm.Statement (.fshl x0) := OpcodeForm.of_word rfl (by decide) rfl
theorem OpcodeForm.bfe (x0 : RForm) : OpcodeForm.Statement (.bfe x0) := OpcodeForm.of_word rfl (by decide) rfl
theorem OpcodeForm.bfi (x0 : RForm) : OpcodeForm.Statement (.bfi x0) := OpcodeForm.of_word rfl (by decide) rfl
theorem OpcodeForm.popc (x0 : RForm) : OpcodeForm.Statement (.popc x0) := OpcodeForm.of_word rfl (by decide) rfl
theorem OpcodeForm.clz (x0 : RForm) : OpcodeForm.Statement (.clz x0) := OpcodeForm.of_word rfl (by decide) rfl
theorem OpcodeForm.brev (x0 : RForm) : OpcodeForm.Statement (.brev x0) := OpcodeForm.of_word rfl (by decide) rfl
theorem OpcodeForm.isetp (x0 : RForm) : OpcodeForm.Statement (.isetp x0) := OpcodeForm.of_word rfl (by decide) rfl
theorem OpcodeForm.fsetp (x0 : RForm) : OpcodeForm.Statement (.fsetp x0) := OpcodeForm.of_word rfl (by decide) rfl
theorem OpcodeForm.sel (x0 : RForm) : OpcodeForm.Statement (.sel x0) := OpcodeForm.of_word rfl (by decide) rfl
theorem OpcodeForm.plop (x0 : RForm) : OpcodeForm.Statement (.plop x0) := OpcodeForm.of_word rfl (by decide) rfl
theorem OpcodeForm.pmov (x0 : RForm) : OpcodeForm.Statement (.pmov x0) := OpcodeForm.of_word rfl (by decide) rfl
theorem OpcodeForm.mov (x0 : RForm) : OpcodeForm.Statement (.mov x0) := OpcodeForm.of_word rfl (by decide) rfl
theorem OpcodeForm.xperm (x0 : RForm) : OpcodeForm.Statement (.xperm x0) := OpcodeForm.of_word rfl (by decide) rfl
theorem OpcodeForm.vote (x0 : RForm) : OpcodeForm.Statement (.vote x0) := OpcodeForm.of_word rfl (by decide) rfl
theorem OpcodeForm.gredi (x0 : RForm) : OpcodeForm.Statement (.gredi x0) := OpcodeForm.of_word rfl (by decide) rfl
theorem OpcodeForm.gredf (x0 : RForm) : OpcodeForm.Statement (.gredf x0) := OpcodeForm.of_word rfl (by decide) rfl
theorem OpcodeForm.gscan (x0 : RForm) : OpcodeForm.Statement (.gscan x0) := OpcodeForm.of_word rfl (by decide) rfl
theorem OpcodeForm.matchEq (x0 : RForm) : OpcodeForm.Statement (.matchEq x0) := OpcodeForm.of_word rfl (by decide) rfl
theorem OpcodeForm.fadd (x0 : RForm) : OpcodeForm.Statement (.fadd x0) := OpcodeForm.of_word rfl (by decide) rfl
theorem OpcodeForm.fsub (x0 : RForm) : OpcodeForm.Statement (.fsub x0) := OpcodeForm.of_word rfl (by decide) rfl
theorem OpcodeForm.fmul (x0 : RForm) : OpcodeForm.Statement (.fmul x0) := OpcodeForm.of_word rfl (by decide) rfl
theorem OpcodeForm.ffma (x0 : RForm) : OpcodeForm.Statement (.ffma x0) := OpcodeForm.of_word rfl (by decide) rfl
theorem OpcodeForm.ffms (x0 : RForm) : OpcodeForm.Statement (.ffms x0) := OpcodeForm.of_word rfl (by decide) rfl
theorem OpcodeForm.fnfma (x0 : RForm) : OpcodeForm.Statement (.fnfma x0) := OpcodeForm.of_word rfl (by decide) rfl
theorem OpcodeForm.fdiv (x0 : RForm) : OpcodeForm.Statement (.fdiv x0) := OpcodeForm.of_word rfl (by decide) rfl
theorem OpcodeForm.fmin (x0 : RForm) : OpcodeForm.Statement (.fmin x0) := OpcodeForm.of_word rfl (by decide) rfl
theorem OpcodeForm.fmax (x0 : RForm) : OpcodeForm.Statement (.fmax x0) := OpcodeForm.of_word rfl (by decide) rfl
theorem OpcodeForm.fabs (x0 : RForm) : OpcodeForm.Statement (.fabs x0) := OpcodeForm.of_word rfl (by decide) rfl
theorem OpcodeForm.fneg (x0 : RForm) : OpcodeForm.Statement (.fneg x0) := OpcodeForm.of_word rfl (by decide) rfl
theorem OpcodeForm.fcpsgn (x0 : RForm) : OpcodeForm.Statement (.fcpsgn x0) := OpcodeForm.of_word rfl (by decide) rfl
theorem OpcodeForm.frnd (x0 : RForm) : OpcodeForm.Statement (.frnd x0) := OpcodeForm.of_word rfl (by decide) rfl
theorem OpcodeForm.fclass (x0 : RForm) : OpcodeForm.Statement (.fclass x0) := OpcodeForm.of_word rfl (by decide) rfl
theorem OpcodeForm.rcp (x0 : RForm) : OpcodeForm.Statement (.rcp x0) := OpcodeForm.of_word rfl (by decide) rfl
theorem OpcodeForm.rsq (x0 : RForm) : OpcodeForm.Statement (.rsq x0) := OpcodeForm.of_word rfl (by decide) rfl
theorem OpcodeForm.sqrt (x0 : RForm) : OpcodeForm.Statement (.sqrt x0) := OpcodeForm.of_word rfl (by decide) rfl
theorem OpcodeForm.exp2 (x0 : RForm) : OpcodeForm.Statement (.exp2 x0) := OpcodeForm.of_word rfl (by decide) rfl
theorem OpcodeForm.log2 (x0 : RForm) : OpcodeForm.Statement (.log2 x0) := OpcodeForm.of_word rfl (by decide) rfl
theorem OpcodeForm.sinpi (x0 : RForm) : OpcodeForm.Statement (.sinpi x0) := OpcodeForm.of_word rfl (by decide) rfl
theorem OpcodeForm.cospi (x0 : RForm) : OpcodeForm.Statement (.cospi x0) := OpcodeForm.of_word rfl (by decide) rfl
theorem OpcodeForm.tanh (x0 : RForm) : OpcodeForm.Statement (.tanh x0) := OpcodeForm.of_word rfl (by decide) rfl
theorem OpcodeForm.cvt (x0 : RForm) : OpcodeForm.Statement (.cvt x0) := OpcodeForm.of_word rfl (by decide) rfl
theorem OpcodeForm.pack2 (x0 : RForm) : OpcodeForm.Statement (.pack2 x0) := OpcodeForm.of_word rfl (by decide) rfl
theorem OpcodeForm.unpk2 (x0 : RForm) : OpcodeForm.Statement (.unpk2 x0) := OpcodeForm.of_word rfl (by decide) rfl
theorem OpcodeForm.cvtmx (x0 : RForm) : OpcodeForm.Statement (.cvtmx x0) := OpcodeForm.of_word rfl (by decide) rfl
theorem OpcodeForm.cvtqn (x0 : RForm) : OpcodeForm.Statement (.cvtqn x0) := OpcodeForm.of_word rfl (by decide) rfl
theorem OpcodeForm.qndec (x0 : RForm) : OpcodeForm.Statement (.qndec x0) := OpcodeForm.of_word rfl (by decide) rfl
theorem OpcodeForm.bra (x0 : BForm) : OpcodeForm.Statement (.bra x0) := OpcodeForm.of_word rfl (by decide) rfl
theorem OpcodeForm.brz (x0 : BForm) : OpcodeForm.Statement (.brz x0) := OpcodeForm.of_word rfl (by decide) rfl
theorem OpcodeForm.brnz (x0 : BForm) : OpcodeForm.Statement (.brnz x0) := OpcodeForm.of_word rfl (by decide) rfl
theorem OpcodeForm.brany (x0 : BForm) : OpcodeForm.Statement (.brany x0) := OpcodeForm.of_word rfl (by decide) rfl
theorem OpcodeForm.brall (x0 : BForm) : OpcodeForm.Statement (.brall x0) := OpcodeForm.of_word rfl (by decide) rfl
theorem OpcodeForm.call (x0 : BForm) : OpcodeForm.Statement (.call x0) := OpcodeForm.of_word rfl (by decide) rfl
theorem OpcodeForm.ret (x0 : BForm) : OpcodeForm.Statement (.ret x0) := OpcodeForm.of_word rfl (by decide) rfl
theorem OpcodeForm.jmpi (x0 : BForm) : OpcodeForm.Statement (.jmpi x0) := OpcodeForm.of_word rfl (by decide) rfl
theorem OpcodeForm.jmpv (x0 : BForm) : OpcodeForm.Statement (.jmpv x0) := OpcodeForm.of_word rfl (by decide) rfl
theorem OpcodeForm.emand (x0 : BForm) : OpcodeForm.Statement (.emand x0) := OpcodeForm.of_word rfl (by decide) rfl
theorem OpcodeForm.emandn (x0 : BForm) : OpcodeForm.Statement (.emandn x0) := OpcodeForm.of_word rfl (by decide) rfl
theorem OpcodeForm.emset (x0 : BForm) : OpcodeForm.Statement (.emset x0) := OpcodeForm.of_word rfl (by decide) rfl
theorem OpcodeForm.emget (x0 : BForm) : OpcodeForm.Statement (.emget x0) := OpcodeForm.of_word rfl (by decide) rfl
theorem OpcodeForm.exitl (x0 : BForm) : OpcodeForm.Statement (.exitl x0) := OpcodeForm.of_word rfl (by decide) rfl
theorem OpcodeForm.loop (x0 : BForm) : OpcodeForm.Statement (.loop x0) := OpcodeForm.of_word rfl (by decide) rfl
theorem OpcodeForm.lbrk (x0 : BForm) : OpcodeForm.Statement (.lbrk x0) := OpcodeForm.of_word rfl (by decide) rfl
theorem OpcodeForm.lcnt (x0 : BForm) : OpcodeForm.Statement (.lcnt x0) := OpcodeForm.of_word rfl (by decide) rfl
theorem OpcodeForm.rgive (x0 : BForm) : OpcodeForm.Statement (.rgive x0) := OpcodeForm.of_word rfl (by decide) rfl
theorem OpcodeForm.rclaim (x0 : BForm) : OpcodeForm.Statement (.rclaim x0) := OpcodeForm.of_word rfl (by decide) rfl
theorem OpcodeForm.winsel (x0 : SForm) : OpcodeForm.Statement (.winsel x0) := OpcodeForm.of_word rfl (by decide) rfl
theorem OpcodeForm.winrd (x0 : SForm) : OpcodeForm.Statement (.winrd x0) := OpcodeForm.of_word rfl (by decide) rfl
theorem OpcodeForm.winwr (x0 : SForm) : OpcodeForm.Statement (.winwr x0) := OpcodeForm.of_word rfl (by decide) rfl
theorem OpcodeForm.gresumeReplay (x0 : SForm) : OpcodeForm.Statement (.gresumeReplay x0) := OpcodeForm.of_word rfl (by decide) rfl
theorem OpcodeForm.gresumeSkip (x0 : SForm) : OpcodeForm.Statement (.gresumeSkip x0) := OpcodeForm.of_word rfl (by decide) rfl
theorem OpcodeForm.gkill (x0 : SForm) : OpcodeForm.Statement (.gkill x0) := OpcodeForm.of_word rfl (by decide) rfl
theorem OpcodeForm.bankcfgOff (x0 : SForm) : OpcodeForm.Statement (.bankcfgOff x0) := OpcodeForm.of_word rfl (by decide) rfl
theorem OpcodeForm.bankcfgCache (x0 : SForm) : OpcodeForm.Statement (.bankcfgCache x0) := OpcodeForm.of_word rfl (by decide) rfl
theorem OpcodeForm.bankcfgScratch (x0 : SForm) : OpcodeForm.Statement (.bankcfgScratch x0) := OpcodeForm.of_word rfl (by decide) rfl
theorem OpcodeForm.bankcfgFifo (x0 : SForm) : OpcodeForm.Statement (.bankcfgFifo x0) := OpcodeForm.of_word rfl (by decide) rfl
theorem OpcodeForm.tlbinvPage (x0 : SForm) : OpcodeForm.Statement (.tlbinvPage x0) := OpcodeForm.of_word rfl (by decide) rfl
theorem OpcodeForm.tlbinvPagePurge (x0 : SForm) : OpcodeForm.Statement (.tlbinvPagePurge x0) := OpcodeForm.of_word rfl (by decide) rfl
theorem OpcodeForm.tlbinvCtx (x0 : SForm) : OpcodeForm.Statement (.tlbinvCtx x0) := OpcodeForm.of_word rfl (by decide) rfl
theorem OpcodeForm.tlbinvAll (x0 : SForm) : OpcodeForm.Statement (.tlbinvAll x0) := OpcodeForm.of_word rfl (by decide) rfl
theorem OpcodeForm.ctxsaveFreeze (x0 : SForm) : OpcodeForm.Statement (.ctxsaveFreeze x0) := OpcodeForm.of_word rfl (by decide) rfl
theorem OpcodeForm.ctxsaveCopies (x0 : SForm) : OpcodeForm.Statement (.ctxsaveCopies x0) := OpcodeForm.of_word rfl (by decide) rfl
theorem OpcodeForm.ctxsaveGroup (x0 : SForm) : OpcodeForm.Statement (.ctxsaveGroup x0) := OpcodeForm.of_word rfl (by decide) rfl
theorem OpcodeForm.ctxsaveTeam (x0 : SForm) : OpcodeForm.Statement (.ctxsaveTeam x0) := OpcodeForm.of_word rfl (by decide) rfl
theorem OpcodeForm.ctxsaveQueues (x0 : SForm) : OpcodeForm.Statement (.ctxsaveQueues x0) := OpcodeForm.of_word rfl (by decide) rfl
theorem OpcodeForm.ctxsaveFifo (x0 : SForm) : OpcodeForm.Statement (.ctxsaveFifo x0) := OpcodeForm.of_word rfl (by decide) rfl
theorem OpcodeForm.ctxloadThaw (x0 : SForm) : OpcodeForm.Statement (.ctxloadThaw x0) := OpcodeForm.of_word rfl (by decide) rfl
theorem OpcodeForm.ctxloadCopies (x0 : SForm) : OpcodeForm.Statement (.ctxloadCopies x0) := OpcodeForm.of_word rfl (by decide) rfl
theorem OpcodeForm.ctxloadGroup (x0 : SForm) : OpcodeForm.Statement (.ctxloadGroup x0) := OpcodeForm.of_word rfl (by decide) rfl
theorem OpcodeForm.ctxloadTeam (x0 : SForm) : OpcodeForm.Statement (.ctxloadTeam x0) := OpcodeForm.of_word rfl (by decide) rfl
theorem OpcodeForm.ctxloadQueues (x0 : SForm) : OpcodeForm.Statement (.ctxloadQueues x0) := OpcodeForm.of_word rfl (by decide) rfl
theorem OpcodeForm.ctxloadFifo (x0 : SForm) : OpcodeForm.Statement (.ctxloadFifo x0) := OpcodeForm.of_word rfl (by decide) rfl
theorem OpcodeForm.ld (x0 : MForm) : OpcodeForm.Statement (.ld x0) := OpcodeForm.of_word rfl (by decide) rfl
theorem OpcodeForm.st (x0 : MForm) : OpcodeForm.Statement (.st x0) := OpcodeForm.of_word rfl (by decide) rfl
theorem OpcodeForm.ldsc (x0 : MForm) : OpcodeForm.Statement (.ldsc x0) := OpcodeForm.of_word rfl (by decide) rfl
theorem OpcodeForm.stsc (x0 : MForm) : OpcodeForm.Statement (.stsc x0) := OpcodeForm.of_word rfl (by decide) rfl
theorem OpcodeForm.ldp (x0 : MForm) : OpcodeForm.Statement (.ldp x0) := OpcodeForm.of_word rfl (by decide) rfl
theorem OpcodeForm.prf (x0 : MForm) : OpcodeForm.Statement (.prf x0) := OpcodeForm.of_word rfl (by decide) rfl
theorem OpcodeForm.ldte (x0 : MForm) : OpcodeForm.Statement (.ldte x0) := OpcodeForm.of_word rfl (by decide) rfl
theorem OpcodeForm.stte (x0 : MForm) : OpcodeForm.Statement (.stte x0) := OpcodeForm.of_word rfl (by decide) rfl
theorem OpcodeForm.cctlIcinv (x0 : MForm) : OpcodeForm.Statement (.cctlIcinv x0) := OpcodeForm.of_word rfl (by decide) rfl
theorem OpcodeForm.cctlL1inv (x0 : MForm) : OpcodeForm.Statement (.cctlL1inv x0) := OpcodeForm.of_word rfl (by decide) rfl
theorem OpcodeForm.cctlWb (x0 : MForm) : OpcodeForm.Statement (.cctlWb x0) := OpcodeForm.of_word rfl (by decide) rfl
theorem OpcodeForm.cctlWbinv (x0 : MForm) : OpcodeForm.Statement (.cctlWbinv x0) := OpcodeForm.of_word rfl (by decide) rfl
theorem OpcodeForm.cctlPin (x0 : MForm) : OpcodeForm.Statement (.cctlPin x0) := OpcodeForm.of_word rfl (by decide) rfl
theorem OpcodeForm.cctlUnpin (x0 : MForm) : OpcodeForm.Statement (.cctlUnpin x0) := OpcodeForm.of_word rfl (by decide) rfl
theorem OpcodeForm.fenceAcq (x0 : MForm) : OpcodeForm.Statement (.fenceAcq x0) := OpcodeForm.of_word rfl (by decide) rfl
theorem OpcodeForm.fenceRel (x0 : MForm) : OpcodeForm.Statement (.fenceRel x0) := OpcodeForm.of_word rfl (by decide) rfl
theorem OpcodeForm.fenceAcqrel (x0 : MForm) : OpcodeForm.Statement (.fenceAcqrel x0) := OpcodeForm.of_word rfl (by decide) rfl
theorem OpcodeForm.fenceSc (x0 : MForm) : OpcodeForm.Statement (.fenceSc x0) := OpcodeForm.of_word rfl (by decide) rfl
theorem OpcodeForm.fenceI (x0 : MForm) : OpcodeForm.Statement (.fenceI x0) := OpcodeForm.of_word rfl (by decide) rfl
theorem OpcodeForm.tsync (x0 : MForm) : OpcodeForm.Statement (.tsync x0) := OpcodeForm.of_word rfl (by decide) rfl
theorem OpcodeForm.tsyncAll (x0 : MForm) : OpcodeForm.Statement (.tsyncAll x0) := OpcodeForm.of_word rfl (by decide) rfl
theorem OpcodeForm.tdinv (x0 : MForm) : OpcodeForm.Statement (.tdinv x0) := OpcodeForm.of_word rfl (by decide) rfl
theorem OpcodeForm.tdinvAll (x0 : MForm) : OpcodeForm.Statement (.tdinvAll x0) := OpcodeForm.of_word rfl (by decide) rfl
theorem OpcodeForm.atom (x0 : MForm) : OpcodeForm.Statement (.atom x0) := OpcodeForm.of_word rfl (by decide) rfl
theorem OpcodeForm.atomcas (x0 : MForm) : OpcodeForm.Statement (.atomcas x0) := OpcodeForm.of_word rfl (by decide) rfl
theorem OpcodeForm.red (x0 : MForm) : OpcodeForm.Statement (.red x0) := OpcodeForm.of_word rfl (by decide) rfl
theorem OpcodeForm.atomsc (x0 : MForm) : OpcodeForm.Statement (.atomsc x0) := OpcodeForm.of_word rfl (by decide) rfl
theorem OpcodeForm.cassc (x0 : MForm) : OpcodeForm.Statement (.cassc x0) := OpcodeForm.of_word rfl (by decide) rfl
theorem OpcodeForm.copy (x0 : MForm) : OpcodeForm.Statement (.copy x0) := OpcodeForm.of_word rfl (by decide) rfl
theorem OpcodeForm.copyo (x0 : MForm) : OpcodeForm.Statement (.copyo x0) := OpcodeForm.of_word rfl (by decide) rfl
theorem OpcodeForm.copym (x0 : MForm) : OpcodeForm.Statement (.copym x0) := OpcodeForm.of_word rfl (by decide) rfl
theorem OpcodeForm.gather (x0 : MForm) : OpcodeForm.Statement (.gather x0) := OpcodeForm.of_word rfl (by decide) rfl
theorem OpcodeForm.copyl (x0 : MForm) : OpcodeForm.Statement (.copyl x0) := OpcodeForm.of_word rfl (by decide) rfl
theorem OpcodeForm.ccancel (x0 : MForm) : OpcodeForm.Statement (.ccancel x0) := OpcodeForm.of_word rfl (by decide) rfl
theorem OpcodeForm.putv (x0 : MForm) : OpcodeForm.Statement (.putv x0) := OpcodeForm.of_word rfl (by decide) rfl
theorem OpcodeForm.getv (x0 : MForm) : OpcodeForm.Statement (.getv x0) := OpcodeForm.of_word rfl (by decide) rfl
theorem OpcodeForm.redv (x0 : MForm) : OpcodeForm.Statement (.redv x0) := OpcodeForm.of_word rfl (by decide) rfl
theorem OpcodeForm.mma (x0 : SForm) : OpcodeForm.Statement (.mma x0) := OpcodeForm.of_word rfl (by decide) rfl
theorem OpcodeForm.mzero (x0 : SForm) : OpcodeForm.Statement (.mzero x0) := OpcodeForm.of_word rfl (by decide) rfl
theorem OpcodeForm.mst (x0 : SForm) : OpcodeForm.Statement (.mst x0) := OpcodeForm.of_word rfl (by decide) rfl
theorem OpcodeForm.mld (x0 : SForm) : OpcodeForm.Statement (.mld x0) := OpcodeForm.of_word rfl (by decide) rfl
theorem OpcodeForm.mrows (x0 : SForm) : OpcodeForm.Statement (.mrows x0) := OpcodeForm.of_word rfl (by decide) rfl
theorem OpcodeForm.mrowmax (x0 : SForm) : OpcodeForm.Statement (.mrowmax x0) := OpcodeForm.of_word rfl (by decide) rfl
theorem OpcodeForm.mrowsum (x0 : SForm) : OpcodeForm.Statement (.mrowsum x0) := OpcodeForm.of_word rfl (by decide) rfl
theorem OpcodeForm.mbar (x0 : SForm) : OpcodeForm.Statement (.mbar x0) := OpcodeForm.of_word rfl (by decide) rfl
theorem OpcodeForm.mwaitb (x0 : SForm) : OpcodeForm.Statement (.mwaitb x0) := OpcodeForm.of_word rfl (by decide) rfl
theorem OpcodeForm.spawn (x0 : SForm) : OpcodeForm.Statement (.spawn x0) := OpcodeForm.of_word rfl (by decide) rfl
theorem OpcodeForm.tret (x0 : SForm) : OpcodeForm.Statement (.tret x0) := OpcodeForm.of_word rfl (by decide) rfl
theorem OpcodeForm.refill (x0 : SForm) : OpcodeForm.Statement (.refill x0) := OpcodeForm.of_word rfl (by decide) rfl
theorem OpcodeForm.wqpush (x0 : SForm) : OpcodeForm.Statement (.wqpush x0) := OpcodeForm.of_word rfl (by decide) rfl
theorem OpcodeForm.send (x0 : SForm) : OpcodeForm.Statement (.send x0) := OpcodeForm.of_word rfl (by decide) rfl
theorem OpcodeForm.fpush (x0 : SForm) : OpcodeForm.Statement (.fpush x0) := OpcodeForm.of_word rfl (by decide) rfl
theorem OpcodeForm.fpop (x0 : SForm) : OpcodeForm.Statement (.fpop x0) := OpcodeForm.of_word rfl (by decide) rfl
theorem OpcodeForm.evpop (x0 : SForm) : OpcodeForm.Statement (.evpop x0) := OpcodeForm.of_word rfl (by decide) rfl
theorem OpcodeForm.primemit (x0 : SForm) : OpcodeForm.Statement (.primemit x0) := OpcodeForm.of_word rfl (by decide) rfl
theorem OpcodeForm.vtwr (x0 : SForm) : OpcodeForm.Statement (.vtwr x0) := OpcodeForm.of_word rfl (by decide) rfl
theorem OpcodeForm.ownwr (x0 : SForm) : OpcodeForm.Statement (.ownwr x0) := OpcodeForm.of_word rfl (by decide) rfl
theorem OpcodeForm.pswr (x0 : SForm) : OpcodeForm.Statement (.pswr x0) := OpcodeForm.of_word rfl (by decide) rfl
theorem OpcodeForm.bari (x0 : SForm) : OpcodeForm.Statement (.bari x0) := OpcodeForm.of_word rfl (by decide) rfl
theorem OpcodeForm.bara (x0 : SForm) : OpcodeForm.Statement (.bara x0) := OpcodeForm.of_word rfl (by decide) rfl
theorem OpcodeForm.barw (x0 : SForm) : OpcodeForm.Statement (.barw x0) := OpcodeForm.of_word rfl (by decide) rfl
theorem OpcodeForm.tbinit (x0 : SForm) : OpcodeForm.Statement (.tbinit x0) := OpcodeForm.of_word rfl (by decide) rfl
theorem OpcodeForm.tbexp (x0 : SForm) : OpcodeForm.Statement (.tbexp x0) := OpcodeForm.of_word rfl (by decide) rfl
theorem OpcodeForm.tbarr (x0 : SForm) : OpcodeForm.Statement (.tbarr x0) := OpcodeForm.of_word rfl (by decide) rfl
theorem OpcodeForm.tbwait (x0 : SForm) : OpcodeForm.Statement (.tbwait x0) := OpcodeForm.of_word rfl (by decide) rfl
theorem OpcodeForm.waitc (x0 : SForm) : OpcodeForm.Statement (.waitc x0) := OpcodeForm.of_word rfl (by decide) rfl
theorem OpcodeForm.depset (x0 : SForm) : OpcodeForm.Statement (.depset x0) := OpcodeForm.of_word rfl (by decide) rfl
theorem OpcodeForm.depdec (x0 : SForm) : OpcodeForm.Statement (.depdec x0) := OpcodeForm.of_word rfl (by decide) rfl
theorem OpcodeForm.owait (x0 : SForm) : OpcodeForm.Statement (.owait x0) := OpcodeForm.of_word rfl (by decide) rfl
theorem OpcodeForm.orels (x0 : SForm) : OpcodeForm.Statement (.orels x0) := OpcodeForm.of_word rfl (by decide) rfl
theorem OpcodeForm.orelsSet (x0 : SForm) : OpcodeForm.Statement (.orelsSet x0) := OpcodeForm.of_word rfl (by decide) rfl
theorem OpcodeForm.timew (x0 : SForm) : OpcodeForm.Statement (.timew x0) := OpcodeForm.of_word rfl (by decide) rfl
theorem OpcodeForm.crest (x0 : SForm) : OpcodeForm.Statement (.crest x0) := OpcodeForm.of_word rfl (by decide) rfl
theorem OpcodeForm.cwait (x0 : SForm) : OpcodeForm.Statement (.cwait x0) := OpcodeForm.of_word rfl (by decide) rfl
theorem OpcodeForm.csub (x0 : SForm) : OpcodeForm.Statement (.csub x0) := OpcodeForm.of_word rfl (by decide) rfl
theorem OpcodeForm.csubCancel (x0 : SForm) : OpcodeForm.Statement (.csubCancel x0) := OpcodeForm.of_word rfl (by decide) rfl
theorem OpcodeForm.pcnt (x0 : SForm) : OpcodeForm.Statement (.pcnt x0) := OpcodeForm.of_word rfl (by decide) rfl
theorem OpcodeForm.pflush (x0 : SForm) : OpcodeForm.Statement (.pflush x0) := OpcodeForm.of_word rfl (by decide) rfl
theorem OpcodeForm.nred (x0 : SForm) : OpcodeForm.Statement (.nred x0) := OpcodeForm.of_word rfl (by decide) rfl
theorem OpcodeForm.wring (x0 : SForm) : OpcodeForm.Statement (.wring x0) := OpcodeForm.of_word rfl (by decide) rfl
theorem OpcodeForm.wringClose (x0 : SForm) : OpcodeForm.Statement (.wringClose x0) := OpcodeForm.of_word rfl (by decide) rfl
theorem OpcodeForm.wpost (x0 : SForm) : OpcodeForm.Statement (.wpost x0) := OpcodeForm.of_word rfl (by decide) rfl
theorem OpcodeForm.wtake (x0 : SForm) : OpcodeForm.Statement (.wtake x0) := OpcodeForm.of_word rfl (by decide) rfl
theorem OpcodeForm.wdone (x0 : SForm) : OpcodeForm.Statement (.wdone x0) := OpcodeForm.of_word rfl (by decide) rfl
theorem OpcodeForm.instructionFetch (x0 : Agent) : OpcodeForm.Statement (.instructionFetch x0) := OpcodeForm.of_event rfl
theorem OpcodeForm.issueArbitration (x0 x1 x2 : Nat) : OpcodeForm.Statement (.issueArbitration x0 x1 x2) := OpcodeForm.of_event rfl
theorem OpcodeForm.operationCompletion (x0 x1 x2 : Nat) : OpcodeForm.Statement (.operationCompletion x0 x1 x2) := OpcodeForm.of_event rfl
theorem OpcodeForm.tlbinvAcknowledge (x0 : Nat) : OpcodeForm.Statement (.tlbinvAcknowledge x0) := OpcodeForm.of_event rfl
theorem OpcodeForm.storeAtHomeSlice (x0 : Nat) : OpcodeForm.Statement (.storeAtHomeSlice x0) := OpcodeForm.of_event rfl
theorem OpcodeForm.mergingFill (x0 : Nat) : OpcodeForm.Statement (.mergingFill x0) := OpcodeForm.of_event rfl
theorem OpcodeForm.replicaUpdate (x0 x1 x2 : Nat) : OpcodeForm.Statement (.replicaUpdate x0 x1 x2) := OpcodeForm.of_event rfl
theorem OpcodeForm.remoteWriteAck (x0 : Nat) : OpcodeForm.Statement (.remoteWriteAck x0) := OpcodeForm.of_event rfl
theorem OpcodeForm.copySectorWrite (x0 x1 x2 x3 : Nat) : OpcodeForm.Statement (.copySectorWrite x0 x1 x2 x3) := OpcodeForm.of_event rfl
theorem OpcodeForm.copyResume (x0 x1 x2 : Nat) : OpcodeForm.Statement (.copyResume x0 x1 x2) := OpcodeForm.of_event rfl
theorem OpcodeForm.firstRouterCheck (x0 : Nat) : OpcodeForm.Statement (.firstRouterCheck x0) := OpcodeForm.of_event rfl
theorem OpcodeForm.messageDelivery (x0 : Nat) : OpcodeForm.Statement (.messageDelivery x0) := OpcodeForm.of_event rfl
theorem OpcodeForm.taskArrival (x0 x1 : Nat) : OpcodeForm.Statement (.taskArrival x0 x1) := OpcodeForm.of_event rfl
theorem OpcodeForm.messageConsumption (x0 x1 : Nat) : OpcodeForm.Statement (.messageConsumption x0 x1) := OpcodeForm.of_event rfl
theorem OpcodeForm.parkedEntry (x0 x1 : Nat) : OpcodeForm.Statement (.parkedEntry x0 x1) := OpcodeForm.of_event rfl
theorem OpcodeForm.taskDequeue (x0 x1 : Nat) : OpcodeForm.Statement (.taskDequeue x0 x1) := OpcodeForm.of_event rfl
theorem OpcodeForm.forageClaim (x0 x1 x2 : Nat) : OpcodeForm.Statement (.forageClaim x0 x1 x2) := OpcodeForm.of_event rfl
theorem OpcodeForm.teamRetirement (x0 x1 x2 : Nat) : OpcodeForm.Statement (.teamRetirement x0 x1 x2) := OpcodeForm.of_event rfl
theorem OpcodeForm.commitPerform (x0 : Nat) : OpcodeForm.Statement (.commitPerform x0) := OpcodeForm.of_event rfl
theorem OpcodeForm.dependencyOpArrival (x0 x1 : Nat) : OpcodeForm.Statement (.dependencyOpArrival x0 x1) := OpcodeForm.of_event rfl
theorem OpcodeForm.pushDelivery (x0 x1 : Nat) : OpcodeForm.Statement (.pushDelivery x0 x1) := OpcodeForm.of_event rfl
theorem OpcodeForm.packetDelivery (x0 x1 : Nat) : OpcodeForm.Statement (.packetDelivery x0 x1) := OpcodeForm.of_event rfl
theorem OpcodeForm.spillReload (x0 x1 x2 : Nat) : OpcodeForm.Statement (.spillReload x0 x1 x2) := OpcodeForm.of_event rfl
theorem OpcodeForm.primitiveBinning (x0 : Nat) : OpcodeForm.Statement (.primitiveBinning x0) := OpcodeForm.of_event rfl
theorem OpcodeForm.boundAdvance (x0 x1 : Nat) : OpcodeForm.Statement (.boundAdvance x0 x1) := OpcodeForm.of_event rfl
theorem OpcodeForm.eventRecordArrival (x0 x1 : Nat) : OpcodeForm.Statement (.eventRecordArrival x0 x1) := OpcodeForm.of_event rfl
theorem OpcodeForm.batchApply (x0 : Nat) : OpcodeForm.Statement (.batchApply x0) := OpcodeForm.of_event rfl
theorem OpcodeForm.csubRequestArrival (x0 : Nat) : OpcodeForm.Statement (.csubRequestArrival x0) := OpcodeForm.of_event rfl
theorem OpcodeForm.batchAcknowledgement (x0 : Nat) : OpcodeForm.Statement (.batchAcknowledgement x0) := OpcodeForm.of_event rfl
theorem OpcodeForm.pendingTimeMerge (x0 : Nat) : OpcodeForm.Statement (.pendingTimeMerge x0) := OpcodeForm.of_event rfl
theorem OpcodeForm.passGrant (x0 x1 : Nat) : OpcodeForm.Statement (.passGrant x0 x1) := OpcodeForm.of_event rfl
theorem OpcodeForm.passCompletion (x0 x1 : Nat) : OpcodeForm.Statement (.passCompletion x0 x1) := OpcodeForm.of_event rfl
theorem OpcodeForm.passResume (x0 x1 x2 : Nat) : OpcodeForm.Statement (.passResume x0 x1 x2) := OpcodeForm.of_event rfl
theorem OpcodeForm.reductionPartial (x0 x1 : Nat) : OpcodeForm.Statement (.reductionPartial x0 x1) := OpcodeForm.of_event rfl
theorem OpcodeForm.reductionResult (x0 x1 : Nat) : OpcodeForm.Statement (.reductionResult x0 x1) := OpcodeForm.of_event rfl
theorem OpcodeForm.ringTransfer (x0 x1 : Nat) : OpcodeForm.Statement (.ringTransfer x0 x1) := OpcodeForm.of_event rfl
theorem OpcodeForm.ringForwardComplete (x0 x1 x2 : Nat) : OpcodeForm.Statement (.ringForwardComplete x0 x1 x2) := OpcodeForm.of_event rfl
theorem OpcodeForm.ringGrant (x0 : Nat) : OpcodeForm.Statement (.ringGrant x0) := OpcodeForm.of_event rfl
theorem OpcodeForm.trapRecordDispatch (x0 x1 : Nat) : OpcodeForm.Statement (.trapRecordDispatch x0 x1) := OpcodeForm.of_event rfl
theorem OpcodeForm.handlerTimeLimit (x0 x1 : Nat) : OpcodeForm.Statement (.handlerTimeLimit x0 x1) := OpcodeForm.of_event rfl
theorem OpcodeForm.contextTeardown (x0 x1 : Nat) : OpcodeForm.Statement (.contextTeardown x0 x1) := OpcodeForm.of_event rfl
theorem OpcodeForm.broadcastAcknowledge (x0 : Nat) : OpcodeForm.Statement (.broadcastAcknowledge x0) := OpcodeForm.of_event rfl
theorem OpcodeForm.debugContinue (x0 x1 : Nat) : OpcodeForm.Statement (.debugContinue x0 x1) := OpcodeForm.of_event rfl
theorem OpcodeForm.grantResend : OpcodeForm.Statement .grantResend := OpcodeForm.of_event rfl
theorem OpcodeForm.pageWalk (x0 x1 x2 : Nat) (x3 : Access) (x4 : BitVec 64) : OpcodeForm.Statement (.pageWalk x0 x1 x2 x3 x4) := OpcodeForm.of_event rfl
theorem OpcodeForm.releaseComplete (x0 : Agent) : OpcodeForm.Statement (.releaseComplete x0) := OpcodeForm.of_event rfl
theorem OpcodeForm.writeBack (x0 : Bool) (x1 : Nat) : OpcodeForm.Statement (.writeBack x0 x1) := OpcodeForm.of_event rfl
theorem OpcodeForm.replicaRead (x0 : Nat) (x1 : Nat) : OpcodeForm.Statement (.replicaRead x0 x1) := OpcodeForm.of_event rfl
theorem OpcodeForm.qtailWrite (x0 : BitVec 64) : OpcodeForm.Statement (.qtailWrite x0) := OpcodeForm.of_event rfl
theorem OpcodeForm.qbaseWrite (x0 : BitVec 64) : OpcodeForm.Statement (.qbaseWrite x0) := OpcodeForm.of_event rfl
theorem OpcodeForm.qsizeWrite (x0 : BitVec 64) : OpcodeForm.Statement (.qsizeWrite x0) := OpcodeForm.of_event rfl
theorem OpcodeForm.nbaseWrite (x0 : BitVec 64) : OpcodeForm.Statement (.nbaseWrite x0) := OpcodeForm.of_event rfl
theorem OpcodeForm.nsizeNheadWrite (x0 : BitVec 64) : OpcodeForm.Statement (.nsizeNheadWrite x0) := OpcodeForm.of_event rfl
theorem OpcodeForm.facceptWrite (x0 : BitVec 128) : OpcodeForm.Statement (.facceptWrite x0) := OpcodeForm.of_event rfl
theorem OpcodeForm.registerWrite (x0 : Nat) (x1 : BitVec 64) : OpcodeForm.Statement (.registerWrite x0 x1) := OpcodeForm.of_event rfl
theorem OpcodeForm.errorCountClear (x0 x1 : Nat) : OpcodeForm.Statement (.errorCountClear x0 x1) := OpcodeForm.of_event rfl
theorem OpcodeForm.reportRequest (x0 : BitVec 256) : OpcodeForm.Statement (.reportRequest x0) := OpcodeForm.of_event rfl
theorem OpcodeForm.flitReceive (x0 : Nat) (x1 : Flit) : OpcodeForm.Statement (.flitReceive x0 x1) := OpcodeForm.of_event rfl
theorem OpcodeForm.coldStart (x0 : StartFindings) : OpcodeForm.Statement (.coldStart x0) := OpcodeForm.of_event rfl
theorem OpcodeForm.warmStart (x0 : StartFindings) : OpcodeForm.Statement (.warmStart x0) := OpcodeForm.of_event rfl
theorem OpcodeForm.heartbeat (x0 : Nat) : OpcodeForm.Statement (.heartbeat x0) := OpcodeForm.of_event rfl
theorem OpcodeForm.heartbeatMiss (x0 : Nat) (x1 : Bool) : OpcodeForm.Statement (.heartbeatMiss x0 x1) := OpcodeForm.of_event rfl
theorem OpcodeForm.combErrorRetirement (x0 : Nat) (x1 : CombErrors) : OpcodeForm.Statement (.combErrorRetirement x0 x1) := OpcodeForm.of_event rfl
theorem OpcodeForm.retireRequest (x0 : Nat) (x1 : Option Nat) : OpcodeForm.Statement (.retireRequest x0 x1) := OpcodeForm.of_event rfl
theorem OpcodeForm.clockStretch (x0 x1 x2 : Nat) : OpcodeForm.Statement (.clockStretch x0 x1 x2) := OpcodeForm.of_event rfl
theorem OpcodeForm.thermalTrip (x0 x1 : Nat) : OpcodeForm.Statement (.thermalTrip x0 x1) := OpcodeForm.of_event rfl
theorem OpcodeForm.securityAlarm (x0 x1 x2 : Nat) : OpcodeForm.Statement (.securityAlarm x0 x1 x2) := OpcodeForm.of_event rfl
theorem OpcodeForm.fabricPortDown (x0 : Nat) : OpcodeForm.Statement (.fabricPortDown x0) := OpcodeForm.of_event rfl
theorem OpcodeForm.retirement : OpcodeForm.Statement .retirement := OpcodeForm.of_event rfl
theorem OpcodeForm.ctxnew : OpcodeForm.Statement .ctxnew := OpcodeForm.of_event rfl
theorem OpcodeForm.grid : OpcodeForm.Statement .grid := OpcodeForm.of_event rfl
theorem OpcodeForm.ctxend : OpcodeForm.Statement .ctxend := OpcodeForm.of_event rfl
theorem OpcodeForm.tree : OpcodeForm.Statement .tree := OpcodeForm.of_event rfl
theorem OpcodeForm.reportComplete : OpcodeForm.Statement .reportComplete := OpcodeForm.of_event rfl
theorem OpcodeForm.powerLoss : OpcodeForm.Statement .powerLoss := OpcodeForm.of_event rfl

end Sys2Proof.Laws
end

