-- ==== Sys2Proof/Tests/Slice0.lean ====
section
/-! SUPPORT. Tests: small checks of decoding, of ill-formed terms and of single steps, and for every statement states and
operands that meet its hypotheses together. Words and results are written out from the tables and rules cited. -/

open Sys2Proof Sys2Proof.Machine

namespace Sys2Proof.Tests

set_option Elab.async false

/-! ## Witnesses: how they are shown -/

/-- What the instruction of a rule sees, where the current agent is ready for it. -/
def seen (s : State) (r : Rule) : Option Env :=
  match s.cur with
  | none => none
  | some a => match s.thread a with
    | none => none
    | some th => if !th.stopped && ((s.issueOf a th r).halt r).isNone then some (s.env a th r) else none

/-- A state meets the hypotheses of a clause: its agent is ready, and `P` holds of what the instruction sees. -/
def Meets (s : State) (r : Rule) (P : Env → Prop) : Prop := ∃ a th, Ready s a th r ∧ P (s.env a th r)

theorem meets_of {s : State} {r : Rule} {P : Env → Prop} (Q : Env → Bool) (h : (seen s r).any Q = true) (hq : ∀ e, Q e = true → P e) : Meets s r P := by
  unfold seen at h
  split at h
  · simp at h
  · rename_i a ha
    split at h
    · simp at h
    · rename_i th hth
      split at h
      · rename_i hc
        simp only [Bool.and_eq_true, Bool.not_eq_true', Option.isNone_iff_eq_none] at hc
        exact ⟨a, th, ⟨ha, hth, hc.1, hc.2⟩, hq _ h⟩
      · simp at h

theorem meets_at {s : State} {r : Rule} {P : Env → Prop} (Q : Env → Bool) (h : (seen s r).any Q = true) (hq : ∀ e : Env, e.s = s → Q e = true → P e) : Meets s r P := by
  obtain ⟨a, th, hr, hp⟩ := meets_of (P := fun e => Q e = true) Q h fun _ h => h
  exact ⟨a, th, hr, hq _ rfl hp⟩

theorem meets {s : State} {r : Rule} {P : Env → Prop} [DecidablePred P] (h : (seen s r).any (fun e => decide (P e)) = true) : Meets s r P :=
  meets_of _ h fun _ => of_decide_eq_true

theorem meets_all {s : State} {rs : List Rule} {P : Env → Prop} [DecidablePred P] (h : (rs.all fun r => (seen s r).any fun e => decide (P e)) = true) :
    ∀ r ∈ rs, Meets s r P := fun r hr => meets (List.all_eq_true.mp h r hr)

theorem ready_all {s : State} {rs : List Rule} (h : (rs.all fun r => (seen s r).isSome) = true) : ∀ r ∈ rs, Meets s r always := by
  intro r hr
  have := List.all_eq_true.mp h r hr
  obtain ⟨a, th, x, _⟩ := meets_of (P := always) (fun _ => true) (r := r) (s := s) (by cases hs : seen s r <;> simp_all) (fun _ _ => trivial)
  exact ⟨a, th, x, trivial⟩

/-! ## The states -/

/-- Guards off, no stall. -/
def hd : Head := ⟨⟨false, 7⟩, ⟨false, 7⟩, 0, false, false, false⟩

/-- A group of context 1 with a page at 0 and granule 64, about to issue. -/
def base : State := State.reset.withFetchWord 96 0

/-- Its thread changed; its comb changed. -/
def onT (g : Thread → Thread) : State := base.modComb 0 fun c => { c with groups := c.groups.map fun x => (x.1, g x.2) }
def onC (g : Comb → Comb) : State := base.modComb 0 g

/-- Its s registers. -/
def sregs (xs : List (Nat × Word)) : State := onT fun t => { t with s := xs }

/-- The steward of the same comb about to issue; and a matrix stream of the team. -/
def stew : State := { base.modComb 0 fun c => { c with steward := { c.steward with th := { c.steward.th with stopped := false } } } with cur := some (.steward 0 0) }
def strm : State := { base.modComb 0 fun c => { c with seqs := [(0, ⟨{ loadThread with pc := 0x1000 }, 1, List.replicate 16 0, false, []⟩)] } with cur := some (.stream 0 0 0) }

/-- Forms with registers that suit most entries. -/
def fr : RForm := { h := hd, d := .v 8, a := .v 16, b := .v 24, c := .v 32, e := .v 0, ty := 6, apat := 0, bpat := 0, flags := 0, sat2 := 0, hint := 0, imm := none }
def fb : BForm := ⟨hd, .v 0, .v 0, 4, 0⟩
def fs : SForm := ⟨hd, .v 0, .v 0, .v 0, .v 0, .v 0, 0, 0⟩
def fm : MForm := { h := hd, d := .v 8, a := .v 16, b := .sink, c := .v 0, size := 4, ord := 0, scope := 0, hint := 0, inv := false, aop := 0, offs := 0 }

/-! ## Witnesses of the data instructions -/

theorem witness_IntegerResults : ∀ r ∈ [dataOpRule 0x010 fr false false false true, dataOpRule 0x011 fr false false false true, dataOpRule 0x012 fr false false false true,
    dataOpRule 0x013 fr false false false true, dataOpRule 0x014 fr false true false true, dataOpRule 0x015 fr false false false true,
    dataOpRule 0x016 fr false false false true, dataOpRule 0x017 fr true false false true,
    ruleIaddc { fr with ty := 5, c := .p 1, e := .p 2 }, dotOpRule 0x01A { fr with ty := 0x1D }, dotOpRule 0x01B { fr with ty := 0x1C }], Meets base r always :=
  ready_all (by decide +kernel)

theorem witness_Lea : (let f : RForm := { fr with ty := 7 }; Meets base (ruleLea f) fun _ => f.a ≠ .sink ∧ f.typ = .u64) ∧
    (let f : RForm := { fr with ty := 8 }; Meets base (ruleLea f) fun _ => f.a ≠ .sink ∧ f.typ = .s64) ∧
    (let f : RForm := { fr with ty := 7, a := .sink, imm := some 12 }; Meets base (ruleLea f) fun _ => f.a = .sink ∧ f.imm.isSome ∧ f.typ = .u64) :=
  ⟨meets (by decide +kernel), meets (by decide +kernel), meets (by decide +kernel)⟩

theorem witness_BitAndShiftResults : ∀ r ∈ ([0x020, 0x021, 0x022, 0x023].map fun op => dataOpRule op { fr with ty := 0 } false false false true) ++
    [dataOpRule 0x024 { fr with ty := 0 } false true false true] ++ ([0x025, 0x026, 0x027, 0x029].map fun op => dataOpRule op fr false false true true) ++
    [dataOpRule 0x028 fr false true true true, dataOpRule 0x02A fr false true true true, countOpRule 0x02B fr, countOpRule 0x02C fr, dataOpRule 0x02D fr true false false true],
    Meets base r always := ready_all (by decide +kernel)

theorem witness_CompareSelectMoveResults :
    (∀ r ∈ [ruleIsetp { fr with d := .p 1, c := .p 2 }, ruleSel { fr with c := .p 2 }, rulePlop { fr with d := .p 1, a := .p 2, b := .p 3, c := .p 4 }], Meets base r always) ∧
    Meets base (ruleFsetp { fr with d := .p 1, c := .p 2, ty := 0x10 }) (fun e => trapEnables e.th.mode = 0) ∧
    (let f : RForm := { fr with d := .p 1 }; Meets base (rulePmov f) fun _ => f.d.kind = .p ∧ f.imm.isNone ∧ f.b.kind = .v) ∧
    (let f : RForm := { fr with d := .p 1, b := .s 3 }; Meets base (rulePmov f) fun _ => f.d.kind = .p ∧ (f.imm.isSome ∨ f.b.kind = .s)) ∧
    (let f : RForm := { fr with d := .q 1, b := .s 3 }; Meets base (rulePmov f) fun _ => f.d.kind = .q) ∧
    (let f : RForm := { fr with d := .s 1, b := .p 3 }; Meets base (rulePmov f) fun _ => f.d.kind = .s ∧ f.imm.isNone ∧ f.b.kind = .p) ∧
    Meets base (ruleMov fr base) always :=
  ⟨ready_all (by decide +kernel), meets (by decide +kernel), meets (by decide +kernel), meets (by decide +kernel), meets (by decide +kernel), meets (by decide +kernel),
    ready_all (rs := [ruleMov fr base]) (by decide +kernel) _ (by simp)⟩

theorem witness_LaneInstructionResults : (∀ r ∈ [ruleXperm fr, ruleVote { fr with a := .p 1, d := .q 1 }, ruleVote { fr with a := .p 1, d := .s 1, flags := 2 },
      ruleVote { fr with a := .p 1, d := .p 2, flags := 1 }, ruleGredi fr, ruleGredi { fr with d := .s 3 }, ruleGscan fr, ruleMatchEq fr], Meets base r always) ∧
    Meets base (ruleGredf { fr with ty := 0x10 }) (fun e => trapEnables e.th.mode = 0) :=
  ⟨ready_all (by decide +kernel), meets (by decide +kernel)⟩

/-- With no flag enabled the hypothesis of every floating clause holds. -/
theorem quiet_lane (e : Env) (g : Nat → Nat × Exc) (h : trapEnables e.th.mode = 0) : ∀ k ∈ e.lanes, (g k).2 &&& trapEnables e.th.mode = 0  := by
  intro k _; rw [h]; exact BitVec.and_zero

/-- The rules of majors 0x05 to 0x07, in the order of their codes. -/
def fpRules : List Rule :=
  let f : RForm := { fr with ty := 0x10 }
  ([0x050, 0x051, 0x052].map fun op => fpOpRule op f false false true true 6) ++ ([0x053, 0x054, 0x055].map fun op => fpOpRule op f false true true true 6) ++
  ([0x056, 0x057].map fun op => fpOpRule op f false false false true 6) ++ ([0x058, 0x059].map fun op => fpOpRule op f true false false false 6) ++
  [fpOpRule 0x05A f false false false false 6, fpOpRule 0x05B f true false true true 6, fpOpRule 0x05C f true false false false 6, fpOpRule 0x05D f false false true true 14] ++
  ([0x060, 0x061, 0x063, 0x064, 0x065, 0x066, 0x067].map fun op => fpOpRule op f true false false true 14) ++ [fpOpRule 0x062 f true false true true 14] ++
  [ruleCvt { f with e := .v 5 }, rulePack2 { f with ty := 0x13 }, rulePack2 { f with ty := 0x15 }, ruleUnpk2 { f with ty := 0x13 }, ruleCvtmx { f with ty := 0x15, e := .s 4 }, ruleCvtqn { f with ty := 0x1B }, ruleQndec f]

theorem witness_FloatResults_ConversionResults : ∀ r ∈ fpRules, Meets base r fun e => trapEnables e.th.mode = 0 := meets_all (by decide +kernel)

/-- 0 x infinity in every lane with NV enabled (R9, R59). -/
def nvState : State := onT fun t => { t with mode := 0x101, v := (List.range 32).map fun i => (16 * 32 + i, 0x7F800000) }

theorem witness_FloatCornersAndTraps :
    ((fpOpRule 0x052 { fr with ty := 0x10 } false false true true 6).vec = true ∧
      Meets nvState (fpOpRule 0x052 { fr with ty := 0x10 } false false true true 6) fun e =>
        e.lanes.any (fun k => decide ((fmtF32.mul (e.fopt 0 0) (fmtF32.decode (e.a32 fr k).toNat) (fmtF32.decode (e.b32 fr k).toNat)).2 &&& trapEnables e.th.mode ≠ 0)) = true) ∧
    (∃ (o : FOpt) (a b c : FV) (n : Bool) (e : Int), o.sat2 = 0 ∧ a = .num n 0 e ∧ b = .inf false ∧ c = .nan true false 5) :=
  ⟨⟨by decide +kernel, meets (by decide +kernel)⟩, ⟨.rne, false, false, 0⟩, _, _, _, false, 0, rfl, rfl, rfl, rfl⟩

theorem witness_ImmediateOperand : ({ fr with imm := some 5 } : RForm).imm = some 5 ∧ ({ fr with ty := 8, imm := some 5 } : RForm).typ = .s64 ∧ ({ fr with ty := 7 } : RForm).typ.wide = true := by decide

/-! ## Witnesses of control flow and of the registers -/

def ctl : State := sregs [(2, 1), (4, 0x1000)]
def bf : BForm := { fb with a := .s 2 }

theorem witness_SpecialRegisters : (∀ r ∈ [ruleNop fs, ruleYield fs, ruleTrap fs, ruleBrk fs, ruleRdsr { fs with d := .s 1, a := .special .em }, ruleWrsr { fs with d := .special .em, a := .s 2 } ctl], Meets ctl r always) ∧
    Meets base (ruleRdsr { fs with d := .s 1, a := .special .em }) (fun e => !e.ag.isSteward ∨ stewardReads .em) ∧
    Meets stew (ruleRdsr { fs with d := .s 1, a := .special .em }) (fun e => e.ag.isSteward ∧ stewardReads .em = false) :=
  ⟨ready_all (by decide +kernel), meets (by decide +kernel), meets (by decide +kernel)⟩

/-- A task's group whose sends are delivered. -/
def task : State := onT fun t => { t with place := { t.place with isTask := true } }

theorem witness_GroupsEnd : Meets base (ruleExit fs) (fun e => e.ag = .group 0 0 0 ∧ e.th.place.isTask = false) ∧
    Meets base (ruleTret fs) (fun e => e.ag = .group 0 0 0 ∧ e.th.place.isTask = false) ∧
    Meets task (ruleTret fs) (fun e => e.ag = .group 0 0 0 ∧ e.th.place.isTask = true ∧ e.th.doomed = none ∧ e.th.place.atomic = false ∧ (e.s.commits.any fun c => c.th.uid = e.th.uid) = false ∧
      e.s.sendsDone e.ck e.th.uid = true ∧ e.s.releaseDone e.ck e.th.uid 3 e.s.nextUid = true) ∧
    Meets task (ruleExit fs) (fun e => e.ag = .group 0 0 0 ∧ e.th.place.isTask = true ∧ e.th.doomed = none ∧ e.th.place.atomic = false ∧ (e.s.commits.any fun c => c.th.uid = e.th.uid) = false ∧
      e.s.sendsDone e.ck e.th.uid = true ∧ e.s.releaseDone e.ck e.th.uid 3 e.s.nextUid = true) ∧
    Meets strm (ruleExit fs) (fun e => e.ag = .stream 0 0 0) :=
  ⟨meets (by decide +kernel), meets (by decide +kernel), meets (by decide +kernel), meets (by decide +kernel), meets (by decide +kernel)⟩

/-- A steward in a handler at one call's depth, whose firmware waits at 0x2000. -/
def handling (lk : DWord) : State :=
  { base.modComb 0 fun c => { c with steward := { c.steward with th := { c.steward.th with stopped := false, cd := 1, lk := lk }, handler := some ⟨0, 1, 1, 1, 0, 0, [], 0x2000⟩ } } with cur := some (.steward 0 0) }

theorem witness_ControlTransfers :
    Meets ctl (ruleBra fb) (fun e => e.th.pc.toNat % 4 = 0) ∧
    Meets ctl (brCondRule { fb with a := .s 3 } 0x081) (fun e => e.th.pc.toNat % 4 = 0 ∧ e.read32 (.s 3) 0 = 0) ∧
    Meets ctl (brCondRule bf 0x081) (fun e => e.read32 (.s 2) 0 ≠ 0) ∧
    Meets ctl (brCondRule bf 0x082) (fun e => e.th.pc.toNat % 4 = 0 ∧ e.read32 (.s 2) 0 ≠ 0) ∧
    Meets ctl (brCondRule { fb with a := .s 3 } 0x082) (fun e => e.read32 (.s 3) 0 = 0) ∧
    Meets ctl (ruleBrany { fb with a := .p 7 }) (fun e => e.th.pc.toNat % 4 = 0 ∧ e.pmask (.p 7) &&& e.th.em ≠ 0) ∧
    Meets ctl (ruleBrany { fb with a := .p 1 }) (fun e => ¬ e.pmask (.p 1) &&& e.th.em ≠ 0) ∧
    Meets ctl (ruleBrall { fb with a := .p 7 }) (fun e => e.th.pc.toNat % 4 = 0 ∧ e.pmask (.p 7) &&& e.th.em = e.th.em) ∧
    Meets ctl (ruleBrall { fb with a := .p 1 }) (fun e => ¬ e.pmask (.p 1) &&& e.th.em = e.th.em) ∧
    Meets ctl (ruleCall fb) (fun e => e.th.pc.toNat % 4 = 0 ∧ e.th.cd ≠ 15) ∧
    Meets (onT fun t => { t with cd := 14 }) (ruleCall fb) (fun e => e.th.pc.toNat % 4 = 0 ∧ e.th.cd ≠ 15) ∧
    Meets (onT fun t => { t with cd := 15 }) (ruleCall fb) (fun e => e.th.cd = 15) ∧
    Meets (onT fun t => { t with cd := 1, lk := 0x1000 }) (ruleRet fb) (fun e => e.endsHandler = false ∧ e.th.cd ≠ 0 ∧ e.th.lk.toNat % 4 = 0) ∧
    Meets (onT fun t => { t with cd := 1, lk := 0x1001 }) (ruleRet fb) (fun e => e.endsHandler = false ∧ e.th.cd ≠ 0 ∧ e.th.lk.toNat % 4 ≠ 0) ∧
    Meets base (ruleRet fb) (fun e => e.ag = .group 0 0 0 ∧ e.th.cd = 0 ∧ e.th.place.isTask = false) ∧
    Meets stew (ruleRet fb) (fun e => e.ag.isSteward = true ∧ e.th.cd = 0 ∧ e.endsHandler = true) ∧
    Meets (handling 0x2000) (ruleRet fb) (fun e => e.endsHandler = true ∧ e.th.cd = 1) ∧
    Meets (handling 0x1000) (ruleRet fb) (fun e => e.endsHandler = false ∧ e.th.cd ≠ 0 ∧ e.th.lk.toNat % 4 = 0) ∧
    Meets (onT fun t => { t with pc := 0x1002 }) (ruleBra fb) (fun e => (directTarget e.th.pc 4).toNat % 4 ≠ 0) := by
  and_intros <;> exact meets (by decide +kernel)

/-- A group whose page holds, at 0x1000, an instruction with LAND (R70). -/
def land : State := (State.reset.withFetchWord 96 (2 ^ 89)).modComb 0 fun c => { c with groups := c.groups.map fun x => (x.1, { x.2 with em := 1, s := [(4, 0x1000)], v := [(4 * 32, 0x1000)] }) }

theorem witness_IndirectTransfers :
    (let f : BForm := { fb with a := .s 4, aux := 1 }; Meets land (ruleCall f) fun e => e.th.cd ≠ 15 ∧ e.landing (e.read64 f.a 0) = none) ∧
    Meets land (ruleJmpi { fb with a := .s 4 }) (fun e => e.landing (e.read64 (.s 4) 0) = none) ∧
    Meets base (ruleJmpi { fb with a := .s 4 }) (fun e => e.landing (e.read64 (.s 4) 0) = some codeLANDING) ∧
    Meets (sregs [(4, 2)]) (ruleJmpi { fb with a := .s 4 }) (fun e => e.landing (e.read64 (.s 4) 0) = some codeMISALIGNPC) ∧
    Meets land (ruleJmpv { fb with d := .s 1, a := .v 4 }) (fun e => e.lanes = [0] ∧ ∀ i ∈ e.lanes, e.landing (e.read64 (.v 4) i) = none) :=
  ⟨meets (by decide +kernel), meets (by decide +kernel), meets (by decide +kernel), meets (by decide +kernel), meets (by decide +kernel)⟩

/-- Four loops on the stack; the innermost one ends at the group's PC. -/
def looping : State := onT fun t => { t with loops := List.replicate 4 ⟨0x1000, 0x1018, true, 0, 2⟩ }

/-- The thread that leaves its innermost loop, behind it. -/
def brkLeft (e : Env) : Thread :=
  match innermost e.th.cd e.th.loops with
  | some (k, x) => ({ e.th with loops := e.th.loops.set k { x with valid := false }, pc := BitVec.ofNat 64 (e.th.pc.toNat / 2 ^ 32 * 2 ^ 32 + x.endPc.toNat) } : Thread).advance
  | none => e.th

theorem witness_MasksAndLoops :
    (∀ r ∈ [emOpRule { fb with d := .s 1, a := .p 2 } 0x090, emOpRule { fb with d := .s 1, a := .s 2 } 0x091, emOpRule { fb with d := .sink, a := .p 2 } 0x092,
      ruleEmget { fb with d := .s 1 }, ruleLcnt { fb with d := .s 1 }], Meets base r always) ∧
    Meets (onT fun t => { t with em := 1 }) (ruleExitl fb) (fun e => e.th.lm &&& ~~~e.act ≠ 0) ∧
    Meets base (ruleExitl fb) (fun e => e.th.lm &&& ~~~e.act = 0 ∧ e.th.place.isTask = false ∧ e.ag = .group 0 0 0) ∧
    (let f : BForm := { fb with aux := 0x2FFFFFF }; Meets base (ruleLoop f) fun e => 0 < f.aux.toNat % 2 ^ 24 ∧ f.aux.toNat % 2 ^ 24 ≤ 0xFFFFFF ∧ loopDepth e.th.loops < 4) ∧
    Meets base (ruleLoop { fb with a := .s 2 }) (fun e => (e.read32 (.s 2) 0).toNat = 0) ∧
    Meets looping (ruleLoop { fb with aux := 0x2000001 }) (fun e => 4 ≤ loopDepth e.th.loops) ∧
    Meets (sregs [(2, 0x1000000)]) (ruleLoop { fb with a := .s 2 }) (fun e => 0xFFFFFF < (e.read32 (.s 2) 0).toNat ∧ loopDepth e.th.loops < 4) ∧
    Meets base (ruleLbrk fb) (fun e => innermost e.th.cd e.th.loops = none) ∧
    Meets looping (ruleLbrk fb) (fun e => innermost e.th.cd e.th.loops = some (3, ⟨0x1000, 0x1018, true, 0, 2⟩) ∧ (brkLeft e).pc.toNat % 4 = 0) ∧
    Meets (onT fun t => { t with loops := List.replicate 3 ⟨0x1000, 0x1018, true, 0, 2⟩ ++ [⟨0x1000, 0x1019, true, 0, 2⟩] }) (ruleLbrk fb) (fun e =>
      innermost e.th.cd e.th.loops = some (3, ⟨0x1000, 0x1019, true, 0, 2⟩) ∧ (brkLeft e).pc.toNat % 4 ≠ 0) := by
  refine ⟨ready_all (by decide +kernel), ?_⟩; and_intros <;> exact meets (by decide +kernel)

/-- A mask instruction under a guard that does not hold (R77). -/
theorem witness_MaskGuardedOff : (let f : BForm := { fb with h := { hd with g1 := ⟨false, 1⟩ }, d := .s 1, a := .p 2 }
    (base.thread (.group 0 0 0)).any (fun th => (base.issueOf (.group 0 0 0) th (emOpRule f 0x090)).decodeFault (emOpRule f 0x090) = none ∧
      (base.env (.group 0 0 0) th (emOpRule f 0x090)).act = 0) = true) := by decide +kernel

def pool (n : Nat) : State := onC fun c => { c with teams := c.teams.map fun t => (t.1, { t.2 with pools := [(0, n)] }), groups := c.groups.map fun x => (x.1, { x.2 with budget := 120 }) }

theorem witness_RegisterBudget :
    (∀ n ∈ [0, 120], Meets base (ruleRgive { fb with aux := BitVec.ofNat 26 n }) (fun e => n + 8 ≤ e.th.budget)) ∧
    Meets base (ruleRgive { fb with aux := 128 }) (fun e => e.th.budget < 128 + 8) ∧
    Meets (pool 8) (ruleRclaim { fb with aux := 8 }) (fun e => e.th.budget + 8 ≤ 128 ∧ (e.s.comb e.ck).rclaims = [] ∧
      (Sparse.find? (e.s.comb e.ck).teams e.th.place.team).any (fun t => decide (8 ≤ Sparse.get 0 t.pools (poolKey (Agent.slotOf e.ag) e.th.place.role))) = true) ∧
    Meets (pool 0) (ruleRclaim { fb with aux := 8 }) (fun e => e.th.budget + 8 ≤ 128 ∧
      ((Sparse.find? (e.s.comb e.ck).teams e.th.place.team).all fun t => decide (Sparse.get 0 t.pools (poolKey (Agent.slotOf e.ag) e.th.place.role) < 8)) = true) ∧
    Meets ((pool 8).modComb 0 fun c => { c with rclaims := [⟨9, 64, 8⟩] }) (ruleRclaim { fb with aux := 8 }) (fun e => e.th.budget + 8 ≤ 128 ∧
      ((e.s.comb e.ck).rclaims.find? fun r => decide (r.tag = e.th.place.team * 64 + poolKey (Agent.slotOf e.ag) e.th.place.role)).any (fun r => decide (r.uid ≠ e.th.uid)) = true) ∧
    Meets (pool 0) (ruleRclaim { fb with aux := 16 }) (fun e => 128 < e.th.budget + 16) := by
  refine ⟨fun n hn => ?_, ?_⟩
  · simp only [List.mem_cons, List.not_mem_nil, or_false] at hn
    rcases hn with rfl | rfl <;> exact meets (by decide +kernel)
  · and_intros <;> exact meets (by decide +kernel)

/-! ## Witnesses of the steward's instructions and of storage -/

/-- The steward with s registers and a window on slot 0, whose group is stopped or not. -/
def stewS (xs : List (Nat × Word)) (g : Thread → Thread) (h : Comb → Comb) : State :=
  { base.modComb 0 fun c => h { c with steward := { c.steward with th := { c.steward.th with stopped := false, s := xs }, winsel := some 0 }, groups := c.groups.map fun x => (x.1, g x.2) } with cur := some (.steward 0 0) }
def halted (t : Thread) : Thread := { t with stopped := true }
def fw : SForm := { fs with d := .s 8, a := .s 4, b := .s 6, c := .s 10 }

def fk : SForm := { fw with a := .v 0, b := .v 0, c := .v 0 }
def noGroups (c : Comb) : Comb := { c with groups := [] }

theorem witness_StoppedGroups :
    Meets (stewS [] halted id) (ruleWinsel { fw with a := .s 6 }) always ∧
    Meets (stewS [] halted id) (ruleWinrd { fw with sub := 0 }) (fun e => e.selected.any (fun x => x.2.stopped) = true) ∧
    Meets (stewS [] halted id) (ruleWinrd { fw with sub := 2 }) (fun e => e.selected.any (fun x => x.2.stopped) = true) ∧
    Meets (stewS [] id id) (ruleWinrd { fw with sub := 0 }) (fun e => e.selected.all (fun x => !x.2.stopped) = true) ∧
    Meets (stewS [] halted id) (ruleWinwr fw) (fun e => e.selected.any (fun x => x.2.stopped) = true) ∧
    Meets (stewS [] id id) (ruleWinwr fw) (fun e => e.selected.all (fun x => !x.2.stopped) = true) ∧
    Meets (stewS [] halted id) (gresumeRule fk) (fun e => e.selected.any (fun x => x.2.stopped && decide (x.2.place.ctx = some 1)) = true ∧ e.s.isFrozen e.ck 1 = false) ∧
    Meets (stewS [] id id) (gresumeRule fk) (fun e => e.selected.any (fun x => !x.2.stopped) = true) ∧
    Meets ((stewS [] halted id).modDie 0 fun d => { d with frozen := [1] }) (gresumeRule fk) (fun e =>
      e.selected.any (fun x => decide (x.2.place.ctx = some 1)) = true ∧ e.s.isFrozen e.ck 1 = true) ∧
    Meets (stewS [] id noGroups) (gresumeRule fk) (fun e => e.selected.isNone = true) ∧
    Meets (stewS [] halted id) (ruleGkill fk) (fun e => e.selected.any (fun x => !e.s.isRunning e.ck x.1 x.2 e.t && decide (x.2.wait ≠ .ending e.t)) = true) ∧
    Meets (stewS [] (fun t => { t with wait := .ending 0 }) id) (ruleGkill fk) (fun e => e.selected.any (fun x => !e.s.isRunning e.ck x.1 x.2 e.t && decide (x.2.wait = .ending e.t)) = true) ∧
    Meets (stewS [] (fun t => { t with runLen := 1 }) id) (ruleGkill fk) (fun e => e.selected.any (fun x => e.s.isRunning e.ck x.1 x.2 e.t) = true) ∧
    Meets (stewS [] id noGroups) (ruleGkill fk) (fun e => e.selected.isNone = true) := by
  refine ⟨ready_all (rs := [ruleWinsel { fw with a := .s 6 }]) (by decide +kernel) _ (by simp), ?_⟩
  and_intros <;> exact meets (by decide +kernel)

/-- A group resumed at its instruction or behind it; and loops that end at an instruction, or do not (R171). -/
theorem witness_ResumeAndKill :
    (∃ th : Thread, th.trap.tpc.toNat % 4 = 0 ∧ (endStep th.cd th.loops th.trap.tpc).2.toNat % 4 = 0 ∧ th.lm ≠ 0 ∧ loopsOk th.cd th.loops = true) ∧
    (∀ x ∈ [(⟨0x1000, 0x1018, true, 0, 2⟩ : LoopEnt), ⟨0x1000, 0x1018, false, 0, 2⟩], x.valid = true → x.depth = 0 → x.endPc ≠ (0x100C : DWord).setWidth 32) ∧
    ∀ n ∈ [(1 : BitVec 24), 2], let x : LoopEnt := ⟨0x1000, 0x1018, true, 0, n⟩; x.valid = true ∧ x.depth = 0 ∧ x.endPc = (0x1018 : DWord).setWidth 32 :=
  ⟨⟨Thread.reset, by decide +kernel⟩, by simp, by simp⟩

/-- Bank 5 free, bank 4 with a granted granule, bank 6 a FIFO bank of context 1 with an entry. -/
def banks : State := stewS [(4, 1)] id fun c => c.setBank 6 { Bank.ofMode .fifo with owner := 1, ents := [⟨[1, 2, 3, 4], 0, 0⟩] }

theorem witness_BanksAndTables :
    (∀ k ∈ [5, 15], Meets banks (ruleBankcfgOff { fw with imm := BitVec.ofNat 20 k, d := .v 0 }) fun e =>
      ((e.s.comb e.ck).alloc.any fun a => decide (a.1 / 16 = k)) = false ∧ ((e.s.comb e.ck).bank k).mode = .scratch ∧ k < (e.s.comb e.ck).banks.length) ∧
    (∀ r ∈ [ruleBankcfgOff fw, ruleBankcfgCache fw, ruleBankcfgScratch fw, ruleBankcfgFifo { fw with a := .s 4 }], Meets banks r fun e =>
      ((e.s.comb e.ck).bank 5).mode = .scratch ∧ ((e.s.comb e.ck).alloc.any fun a => decide (a.1 / 16 = 5)) = false ∧
      ((e.s.comb e.ck).bank 4).mode = .scratch ∧ ((e.s.comb e.ck).alloc.any fun a => decide (a.1 / 16 = 4)) = true ∧
      ((e.s.comb e.ck).bank 6).mode = .fifo ∧ ((e.s.comb e.ck).bank 6).empty = false) := by
  constructor
  · intro k hk; simp only [List.mem_cons, List.not_mem_nil, or_false] at hk
    rcases hk with rfl | rfl <;> exact meets (by decide +kernel)
  · exact meets_all (by decide +kernel)

/-- A bank in CACHE mode is given up with no release store on its comb; an unused scratch bank stays one. -/
theorem witness_BankModes :
    (∀ r ∈ [ruleBankcfgOff { fw with imm := 5 }, ruleBankcfgFifo { fw with imm := 5, a := .s 4 }], Meets (stewS [(4, 1)] id fun c => c.setBank 5 (Bank.ofMode .cache)) r fun e =>
      ((e.s.comb e.ck).bank 5).mode = .cache ∧ 5 < (e.s.comb e.ck).banks.length ∧ (e.s.stores.any fun st => decide (combKey st.die st.comb = e.ck) && st.release.isSome) = false) ∧
    Meets banks (ruleBankcfgScratch { fw with imm := 5 }) (fun e => ((e.s.comb e.ck).bank 5).mode = .scratch ∧ 5 < (e.s.comb e.ck).banks.length ∧
      ((e.s.comb e.ck).alloc.any fun a => decide (a.1 / 16 = 5)) = false) :=
  ⟨meets_all (by decide +kernel), meets (by decide +kernel)⟩

/-- A bank turned off can be made a scratch bank. -/
theorem witness_BankcfgScratch : Meets (stewS [] id fun c => c.setBank 5 (Bank.ofMode .off)) (ruleBankcfgScratch { fw with imm := 5 }) fun e =>
    ((e.s.comb e.ck).bank 5).mode = .off ∧ 5 < (e.s.comb e.ck).banks.length := meets (by decide +kernel)

def answeredS : State := { stewS [(6, 1)] id fun c => { c with steward := { c.steward with th := { c.steward.th with wait := .answered 0 } } } with cur := some (.steward 0 0) }
def answeredT : State := onT fun t => { t with wait := .answered 0 }
def rend (r : Nat) (g : Thread → Thread) : State := { onT g with ctxs := [(1, { loadCtx with rset := r })] }

theorem witness_Broadcasts :
    (∀ r ∈ [tlbinvRule fw [useSPair fw.a, useS fw.b], tlbinvRule fw [useS fw.b]], Meets (stewS [(6, 1)] id id) r fun e =>
      e.th.wait = .none ∧ (Sparse.find? e.s.ctxs ((e.read32 (.s 6) 0).toNat % 256)).isSome = true) ∧
    (∀ r ∈ [tlbinvRule fw [useSPair fw.a, useS fw.b], tlbinvRule fw [useS fw.b], tlbinvRule fw []], Meets answeredS r fun e =>
      e.th.wait = .answered 0 ∧ (Sparse.find? e.s.ctxs ((e.read32 (.s 6) 0).toNat % 256)).isSome = true) ∧
    Meets (stewS [] id id) (tlbinvRule fw []) (fun e => e.th.wait = .none) ∧
    (∀ r ∈ [tlbinvRule fw [useSPair fw.a, useS fw.b], tlbinvRule fw [useS fw.b]], Meets (stewS [(6, 2)] id id) r fun e =>
      (Sparse.find? e.s.ctxs ((e.read32 (.s 6) 0).toNat % 256)).isNone = true) ∧
    (∀ r ∈ [tdinvRule { fm with a := .s 2, scope := 2 } [useS (.s 2)], tdinvRule { fm with scope := 3 } [], tsyncRule { fm with a := .s 2, scope := 3 } [useS (.s 2)],
      tsyncRule { fm with scope := 3 } []], Meets stew r fun e => (e.s.agentCtx e.ag).isNone = true) ∧
    (∀ k ∈ [2, 3], ∀ r ∈ [tdinvRule { fm with a := .s 2, scope := k, d := .v 0 } [useS (.s 2)], tdinvRule { fm with scope := k } [], tsyncRule { fm with a := .s 2, scope := k } [useS (.s 2)],
        tsyncRule { fm with scope := k } []], Meets base r fun e =>
      e.th.wait = .none ∧ e.s.releaseDone e.ck e.th.uid k.toNat e.s.nextUid = true ∧ (e.s.agentCtx e.ag).isSome = true) ∧
    (∀ r ∈ [tdinvRule { fm with a := .s 2, scope := 3 } [useS (.s 2)], tdinvRule { fm with scope := 3 } [], tsyncRule { fm with a := .s 2, scope := 3 } [useS (.s 2)],
        tsyncRule { fm with scope := 3 } []], Meets answeredT r fun e => e.th.wait = .answered 0 ∧ (e.s.agentCtx e.ag).isSome = true) := by
  refine ⟨?_, ?_, meets (by decide +kernel), ?_, ?_, ?_, ?_⟩
  · exact meets_all (by decide +kernel)
  · exact meets_all (by decide +kernel)
  · exact meets_all (by decide +kernel)
  · exact meets_all (by decide +kernel)
  · intro k hk; simp only [List.mem_cons, List.not_mem_nil, or_false] at hk
    rcases hk with rfl | rfl <;> exact meets_all (by decide +kernel)
  · exact meets_all (by decide +kernel)

/-- A die does its part of each broadcast (R203). -/
theorem witness_BroadcastEffects : ∀ b ∈ [BcastBody.tlbinv (some 1) none none, .tdinv 1 none, .tsync 1 (some 5) 3 0, .icinv, .table 0 0 1, .freeze 1, .thaw 1],
    ((base.startFreeze 0 b).applyBcast 0 9 b).isSome = true := by decide +kernel

def tw (bc : Bool) : SForm := { fs with a := .s 2, b := .s 3, sub := if bc then 1 else 0 }

theorem witness_RenderTables : ∀ op ∈ [0x1A0, 0x1A1],
    (∀ k ∈ [0, 3], Meets (rend k id) (tableWriteRule op (tw false)) fun e => ((e.s.agentCtx e.ag).bind fun c => Sparse.find? e.s.ctxs c).map (·.rset) = some k) ∧
    Meets (rend 3 id) (tableWriteRule op (tw true)) (fun e => ((e.s.agentCtx e.ag).bind fun c => Sparse.find? e.s.ctxs c).map (·.rset) = some 3 ∧ e.th.wait = .none) ∧
    Meets (rend 3 fun t => { t with wait := .answered 0 }) (tableWriteRule op (tw true)) (fun e => ((e.s.agentCtx e.ag).bind fun c => Sparse.find? e.s.ctxs c).map (·.rset) = some 3 ∧ e.th.wait = .answered 0) ∧
    Meets (rend 7 id) (tableWriteRule op (tw true)) (fun e => ((e.s.agentCtx e.ag).bind fun c => Sparse.find? e.s.ctxs c).map (·.rset) = some 7) := by
  intro op hop; simp only [List.mem_cons, List.not_mem_nil, or_false] at hop
  rcases hop with rfl | rfl <;> (refine ⟨fun k hk => ?_, meets (by decide +kernel), meets (by decide +kernel), meets (by decide +kernel)⟩; simp only [List.mem_cons, List.not_mem_nil, or_false] at hk; rcases hk with rfl | rfl <;> exact meets (by decide +kernel))

def fc : MForm := { fm with d := .s 8, a := .s 4, c := .v 0 }

/-- A store on its way that a release at DIE scope waits for (R257). -/
def storing : State := { base with stores := [{ uid := 1, ctx := 1, agentUid := 1, issuer := 1, acq := none, after := 0, die := 0, comb := 0, release := none, mtype := 0, kind := .bytes [(0x40000, 1, 0xFF)], op := none }] }

/-- Its page in DEVICE memory; and 12 other pinned lines on the die. -/
def device : State := base.pokeEntry 0x31000 (loadFrame + 0xF + 2 * 2 ^ 4)
def pinned12 : State := { base with l2 := (List.range 12).map fun k => (k, ⟨0, 0, [], 1, some 1⟩) }

theorem witness_CachesAndFences :
    (∀ r ∈ [ruleCctlWb fc, ruleCctlWbinv fc, ruleCctlPin fc, ruleCctlUnpin fc], Meets base r fun e =>
      (match e.laneAccs .read (fun _ => 1) 1 false [(0, e.ea fc 0)] with
        | .ok [a] => decide (a.mtype < 2) && decide (a.place ≠ 3) && !(e.s.stores.any fun st => decide (st.agentUid = e.th.uid) && st.locs.any fun l => decide (l / 128 = a.locs.headD 0 / 128)) &&
          decide ((e.s.noteAccs e.ck ((e.s.agentCtx e.ag).getD 0) .read [a]).pinned (locDie (a.locs.headD 0 / 128 * 128)) < 12)
        | _ => false) = true) ∧
    (∀ r ∈ [ruleCctlWb fc, ruleCctlWbinv fc, ruleCctlPin fc, ruleCctlUnpin fc], Meets storing r fun e =>
      (match e.laneAccs .read (fun _ => 1) 1 false [(0, e.ea fc 0)] with
        | .ok [a] => decide (a.mtype < 2) && decide (a.place ≠ 3) && e.s.stores.any fun st => decide (st.agentUid = e.th.uid) && st.locs.any fun l => decide (l / 128 = a.locs.headD 0 / 128)
        | _ => false) = true) ∧
    (∀ r ∈ [ruleCctlWb fc, ruleCctlWbinv fc, ruleCctlPin fc, ruleCctlUnpin fc], Meets device r fun e =>
      (match e.laneAccs .read (fun _ => 1) 1 false [(0, e.ea fc 0)] with
        | .ok [a] => decide (2 ≤ a.mtype)
        | _ => false) = true) ∧
    Meets pinned12 (ruleCctlPin fc) (fun e =>
      (match e.laneAccs .read (fun _ => 1) 1 false [(0, e.ea fc 0)] with
        | .ok [a] => let s := e.s.noteAccs e.ck ((e.s.agentCtx e.ag).getD 0) .read [a]
          decide (a.mtype < 2) && decide (a.place ≠ 3) && ((Sparse.find? s.l2 (a.locs.headD 0 / 128)).bind (·.pin)).isNone &&
          !decide (s.pinned (locDie (a.locs.headD 0 / 128 * 128)) < 12)
        | _ => false) = true) ∧
    Meets base (ruleCctlIcinv { fc with scope := 3 }) (fun e => e.th.wait = .none ∧ e.s.releaseDone e.ck e.th.uid 3 e.s.nextUid = true) ∧
    Meets base (ruleCctlL1inv fc) (fun _ => True) ∧
    Meets base (ruleCctlIcinv { fc with scope := 2 }) (fun e => e.th.wait = .none ∧ e.s.releaseDone e.ck e.th.uid 2 e.s.nextUid = true) ∧
    Meets answeredT (ruleCctlIcinv { fc with scope := 3 }) (fun e => e.th.wait = .answered 0) ∧
    (∀ o ∈ [1, 2, 3], Meets base (fenceRule { fc with ord := o, scope := 4 }) fun e =>
      ((e.s.comb e.ck).ops.any fun o => decide (o.agent = e.th.uid) && decide (o.cls = 0) && o.unread) = false ∧ e.s.releaseDone e.ck e.th.uid 4 e.s.nextUid = true) ∧
    Meets base (ruleFenceI fc) (fun _ => True) := by
  refine ⟨?_, ?_, ?_, meets (by decide +kernel), meets (by decide +kernel), meets (by decide +kernel), meets (by decide +kernel), meets (by decide +kernel), ?_, meets (by decide +kernel)⟩
  · exact meets_all (by decide +kernel)
  · exact meets_all (by decide +kernel)
  · exact meets_all (by decide +kernel)
  · intro o ho; simp only [List.mem_cons, List.not_mem_nil, or_false] at ho
    rcases ho with rfl | rfl | rfl <;> exact meets (by decide +kernel)

theorem witness_FenceWaits : Meets storing (fenceRule { fc with ord := 2, scope := 4 }) fun e => ¬ e.s.releaseDone e.ck e.th.uid 4 e.s.nextUid = true := meets (by decide +kernel)

/-- A load of the group whose read is not served yet. -/
def unread : State := onC fun c => { c with ops := [⟨1, .group 0 0 0, 1, 1, 1, 0, 0, none, 0, false, false, .load ⟨0, 8, 1⟩ [⟨0, 0, [0x40000], 0, 8, none, 0, [], none⟩] [] false false false 0, 0, []⟩] }

/-- An acquire waits for the read of an earlier load (R276). -/
theorem witness_FenceAcquireWaits :
    Meets unread (fenceRule { fc with ord := 1, scope := 4 }) (fun e => ((e.s.comb e.ck).ops.any fun o => decide (o.agent = e.th.uid) && decide (o.cls = 0) && o.unread) = true) ∧
    Meets unread (fenceRule { fc with ord := 3, scope := 0 }) (fun e => ((e.s.comb e.ck).ops.any fun o => decide (o.agent = e.th.uid) && decide (o.cls = 0) && o.unread) = true ∧
      e.s.releaseDone e.ck e.th.uid 0 e.s.nextUid = true) := ⟨meets (by decide +kernel), meets (by decide +kernel)⟩

/-! ## Witnesses of pre-emption -/

/-- The steward of a comb with contexts `fz` frozen and s4:s5 = an address of the firmware region of die 0, s6 = `n`; feature 3 is
applied when the driver has accepted `acc`. -/
def saving (lo : Word) (fz : List Nat) (acc : BitVec 128) (n : Word) (g : Thread → Thread) (h : Comb → Comb) : State :=
  let s := stewS [(4, lo), (5, 0xB), (6, n)] g h
  { s.modDie 0 fun d => { d with frozen := fz } with adapter := { s.adapter with accepted := true, faccept := acc }, hive := { s.hive with foffer := 0x3F } }

/-- Context 1 is frozen and feature 3 applied. -/
def frozen (n : Word) (g : Thread → Thread) (h : Comb → Comb) : State := saving 0xC0000000 [1] 8 n g h

def copyOp : AsyncOp := ⟨1, .group 0 0 0, 1, 1, 1, 1, 0, none, 0, true, false, .values [], 0, []⟩
def recOf (n : Nat) : TaskRec := TaskRec.ofBytes (leBytes 64 n)
def noGroup (c : Comb) : Comb := { c with groups := [], savedSlots := [(1, 1)] }
def fifo6 (c : Comb) : Comb := c.setBank 6 { Bank.ofMode .fifo with owner := 1, ents := [⟨[1, 2, 3, 4], 0, 0⟩] }
def queued (c : Comb) : Comb := { c with ready := [⟨1, recOf 0x1000, 1, 0, 1⟩] }
def parkedOp (c : Comb) : Comb := { c with cancelled := [copyOp] }
def small (t : Thread) : Thread := { halted t with budget := 8 }

/-- What there is to save: copies, a group, a team, queues, a FIFO bank; with B, the thread and the comb. -/
def saved : Nat → Word × (Thread → Thread) × (Comb → Comb)
  | 0 => (1, id, parkedOp)
  | 1 => (0, small, id)
  | 2 => (1, id, noGroup)
  | 3 => (1, id, queued)
  | _ => (6, id, fifo6)

/-- Whether there is something of context 1 to save. -/
def hasWork (k : Nat) (e : Env) : Bool :=
  let c := e.s.comb e.ck
  match k with
  | 0 => c.cancelled.any fun o => decide (o.ctx = 1)
  | 1 => (Sparse.find? c.groups 0).any fun th => decide (th.place.ctx = some 1)
  | 2 => decide (c.namedTeam 1 = some 1) && (Sparse.find? c.teams 1).any (fun t => decide (t.ctx = 1)) && !c.groups.any fun g => g.2.place.team = 1
  | 3 => c.readyOrder.any fun r => decide (r.ctx = 1)
  | _ => decide ((c.bank 6).mode = .fifo) && decide ((c.bank 6).owner = 1)

/-- How long its image is. -/
def savedLen (k : Nat) (e : Env) : Nat :=
  let c := e.s.comb e.ck
  match k with
  | 0 => (copiesImage e.s.nextUid 1 c.cancelled).length
  | 1 => (groupImage e.s e.ck 0 e.s.nextUid (small loadThread)).length
  | 2 => (teamImage c e.s.nextUid loadTeam []).length
  | 3 => (queueImage c e.s.nextUid 1 [] c.ready).length
  | _ => (fifoImage e.s.nextUid 6 (c.bank 6)).length

def savingOf (k : Nat) (lo : Word) (fz : List Nat) (acc : BitVec 128) : State := saving lo fz acc (saved k).1 (saved k).2.1 (saved k).2.2

/-- For every kind of image: it is saved, its address is none of an image, its context is not frozen, and feature 3 is not
applied (R345 to R347). -/
theorem witness_SavedState : ∀ k ∈ [0, 1, 2, 3, 4],
    Meets (savingOf k 0xC0000000 [1] 8) (ctxsaveRule fw) (fun e => e.s.feature 3 = true ∧ hasWork k e = true ∧ e.s.isFrozen e.ck 1 = true ∧
      e.s.imageOk (e.read64 (.s 4) 0).toNat (savedLen k e) = true) ∧
    Meets (savingOf k 0xC0000004 [1] 8) (ctxsaveRule fw) (fun e => e.s.feature 3 = true ∧ hasWork k e = true ∧ e.s.isFrozen e.ck 1 = true ∧
      e.s.imageOk (e.read64 (.s 4) 0).toNat (savedLen k e) = false) ∧
    Meets (savingOf k 0xC0000000 [] 8) (ctxsaveRule fw) (fun e => e.s.feature 3 = true ∧ hasWork k e = true ∧ e.s.isFrozen e.ck 1 = false) ∧
    Meets (savingOf k 0xC0000000 [1] 0) (ctxsaveRule fw) (fun e => e.s.feature 3 = false) := by
  intro k hk; simp only [List.mem_cons, List.not_mem_nil, or_false] at hk
  rcases hk with rfl | rfl | rfl | rfl | rfl <;> (and_intros <;> exact meets (by decide +kernel))

/-- A freeze, and what is not there to be saved. -/
theorem witness_NothingSaved :
    Meets (frozen 1 id id) (ruleCtxsaveFreeze fw) (fun e => e.s.feature 3 = true ∧ e.th.wait = .none) ∧
    Meets (saving 0 [] 0 1 id id) (ruleCtxsaveFreeze fw) (fun e => e.s.feature 3 = false) ∧
    Meets (frozen 1 id id) (ctxsaveRule fw) (fun e => e.s.isFrozen e.ck 1 = true ∧ (e.s.comb e.ck).cancelled = [] ∧ (e.s.comb e.ck).ready = [] ∧
      ((e.s.comb e.ck).table.all fun t => t.2.task.isNone) = true ∧ ((e.s.comb e.ck).bank 1).mode ≠ .fifo ∧ (Sparse.find? (e.s.comb e.ck).groups 1).isNone = true ∧ (e.s.comb e.ck).namedTeam 1 = none) ∧
    Meets (frozen 0 id id) (ctxsaveRule fw) (fun e => (e.s.comb e.ck).namedTeam 0 = some 1 ∧
      (Sparse.find? (e.s.comb e.ck).teams 1).any (fun t => decide (t.ctx = 1) && !t.isTask) = true ∧ ((e.s.comb e.ck).groups.any fun g => g.2.place.team = 1) = true) := by
  and_intros <;> exact meets (by decide +kernel)

/-- An image stored where the firmware region begins (R347, R351). -/
theorem witness_ImageStored : base.imageOk firmwareBase (zeros 128).length = true ∧ (zeros 128).length % 4 = 0 := by decide +kernel

/-! An image with a reference of zero bytes: the number that they name is not evaluated. -/

/-- The number that 24 zero bytes name. -/
def zeroRef : Nat := refNum (List.replicate 24 0)

/-- The bytes a load of an image at `x` reads. -/
def loadedBytes (e : Env) (x : Nat) : List Byte := e.s.bytesNow x (imageField (e.s.bytesNow x 1024) 4 4)

/-- The checks of a load but for the number of its image (R350). -/
def headOk (e : Env) (kind x : Nat) (i : Image) : Bool :=
  let head := e.s.bytesNow x 1024
  let at' := imageField head
  let reserved := if kind = 1 then decide (at' 54 10 ≠ 0) || decide (at' 512 512 ≠ 0) else decide (at' 9 55 ≠ 0) || decide (at' 3 1 ≠ 0)
  e.s.feature 3 && e.s.imageOk x 128 && e.s.isFrozen e.ck (at' 8 1) &&
  !(decide (at' 0 2 ≠ 1) || decide (at' 2 1 ≠ kind) || reserved || decide (i.body.kind ≠ kind) || decide (i.ctx ≠ at' 8 1) || i.loaded) &&
  e.s.imageOk x (at' 4 4) && decide (i.die = keyDie e.ck) && decide (i.lcomb = (e.s.die (keyDie e.ck)).lcomb (keyComb e.ck)) &&
  decide ((head.drop (if kind = 1 then 424 else 64)).take 24 = List.replicate 24 0)

theorem loadImage_of {e : Env} {kind x : Nat} {i : Image} (h : headOk e kind x i = true) (hi : e.s.images = [i]) (hn : i.num = zeroRef) :
    e.loadImage kind x = .ok (loadedBytes e x, i) := by
  simp only [headOk, Bool.and_eq_true, Bool.not_eq_true', decide_eq_true_eq] at h
  obtain ⟨⟨⟨⟨⟨⟨⟨h1, h2⟩, h3⟩, h4⟩, h5⟩, h6⟩, h7⟩, h8⟩ := h
  unfold Env.loadImage
  simp only [h1, h2, h3, Bool.not_true, if_false, Bool.false_eq_true, hi, List.find?_cons, hn, zeroRef, h8, decide_true]
  rw [if_neg (by rw [h4]; simp), if_neg (by rw [h5]; simp), if_neg (by simp [h6, h7])]
  rfl

/-- A steward of the frozen context with one image in the firmware region, whose reference is zero bytes; s6 = `n`. -/
def stored (n : Word) (bs : List Byte) (body : ImageBody) (g : Thread → Thread) (h : Comb → Comb) : State :=
  let s := frozen n g h
  let cells := ((List.range bs.length).zip bs).filterMap fun kb => if kb.2 = 0 then none else some (firmwareBase + kb.1, kb.2)
  { s with hbm := s.hbm ++ cells, images := [⟨zeroRef, 1, 0, 0, false, body⟩] }

/-- What a load of kind `k` meets: its image and something of its bytes and the comb. -/
def Loads (n : Word) (k : Nat) (bs : List Byte) (body : ImageBody) (g : Thread → Thread) (h : Comb → Comb) (P : List Byte → Env → Prop) : Prop :=
  Meets (stored n bs body g h) (ctxloadRule fw) fun e => ∃ b i, e.loadImage k (e.read64 (.s 4) 0).toNat = .ok (b, i) ∧ i.body = body ∧ i.ctx = 1 ∧ (e.read32 (.s 6) 0) = n ∧ P b e

theorem loads_of {n : Word} {k : Nat} {bs : List Byte} {body : ImageBody} {g : Thread → Thread} {h : Comb → Comb} {P : List Byte → Env → Prop} [∀ b e, Decidable (P b e)]
    (hd : (seen (stored n bs body g h) (ctxloadRule fw)).any (fun e =>
      headOk e k (e.read64 (.s 4) 0).toNat ⟨0, 1, 0, 0, false, body⟩ && decide ((e.read32 (.s 6) 0) = n) && decide (P (loadedBytes e (e.read64 (.s 4) 0).toNat) e)) = true) :
    Loads n k bs body g h P := by
  refine meets_at _ hd fun e he hq => ?_
  simp only [Bool.and_eq_true, decide_eq_true_eq] at hq
  exact ⟨_, ⟨zeroRef, 1, 0, 0, false, body⟩, loadImage_of hq.1.1 (by rw [he]; rfl) rfl, rfl, rfl, hq.1.2, hq.2⟩

/-- An image with its reference cleared. -/
def noRef (at' : Nat) (bs : List Byte) : List Byte := bs.take at' ++ zeros 24 ++ bs.drop (at' + 24)

/-- The image of the group as it stands in slot 16. -/
def groupBytes : List Byte := noRef 424 (groupImage base 0 16 0 { loadThread with budget := 8, place := { loadThread.place with team := 1 } })
def groupBody : ImageBody := .group { loadThread with budget := 8 } 16 none false
def teamBody (t : Team) (x : Option Seq) : ImageBody := .team 7 t x [] []
def fresh : Team := { loadTeam with granules := [] }
def emptySeq : Seq := ⟨loadThread, 7, [], false, []⟩
def queueBody : ImageBody := .queues [] [⟨1, recOf 0x1000, 1, 0, 1⟩] 0
def fifoBody : ImageBody := .fifo 6 { Bank.ofMode .fifo with owner := 1, ents := [⟨[1, 2, 3, 4], 0, 0⟩] }
def noEnts (c : Comb) : Comb := c.setBank 6 { Bank.ofMode .fifo with owner := 1 }

/-- A team's matrix image begins as R322 says. -/
def sound (bs : List Byte) : Bool :=
  let m := imageField bs 92 4
  decide (imageField bs m 2 = 1 ∧ imageField bs (m + 10) 2 = 0 ∧ imageField bs (m + 24) 40 = 0 ∧ imageField bs (m + 3) 1 < 4)

/-- A pass of sequencer 3. -/
def waitingPass : Pass := ⟨9, 3, 0x141, 5, 0, 0, [], [], 0x1000, 0, false, 0, false, none, 0, 0⟩

theorem witness_LoadedState :
    Loads 1 5 (noRef 64 (copiesImage 0 1 [copyOp])) (.copies [copyOp]) id id (fun _ _ => True) ∧
    Loads 16 1 groupBytes groupBody id id (fun b e => imageField b 10 1 = 1 ∧ Sparse.find? (e.s.comb e.ck).groups 16 = none ∧
      (groupOf b loadThread).budget ≤ (e.s.comb e.ck).freeRegs 1 ∧ (Sparse.find? (e.s.comb e.ck).teams (groupOf b loadThread).place.team).isSome = true) ∧
    Loads 0 1 groupBytes groupBody id id (fun b _ => imageField b 10 1 ≠ 0) ∧
    Loads 0 2 (noRef 64 (teamImage Comb.reset 0 fresh [])) (teamBody fresh none) id id (fun b e => (teamOf b fresh).granules = [] ∧
      (∀ k < 4, poolRegs (teamOf b fresh).pools k ≤ (e.s.comb e.ck).freeRegs k) ∧ (e.s.comb e.ck).freeTiles 0 = some []) ∧
    Loads 0 2 (noRef 64 (teamImage Comb.reset 0 fresh (matrixHead Comb.reset none fresh []))) (teamBody { fresh with tiles := [3] } none) id id (fun b e => sound b = true ∧ (e.s.comb e.ck).freeTiles 1 = some [0]) ∧
    Loads 0 2 (noRef 64 (teamImage Comb.reset 0 fresh (matrixHead Comb.reset (some emptySeq) fresh []))) (teamBody fresh (some emptySeq)) id id (fun b e => sound b = true ∧
      (e.s.comb e.ck).freeTiles 0 = some [] ∧ (e.s.comb e.ck).freeSeq = some 0) ∧
    Loads 0 2 (noRef 64 (teamImage Comb.reset 0 fresh (matrixHead Comb.reset (some emptySeq) fresh []))) (teamBody fresh (some emptySeq)) id
      (fun c => { c with seqs := (List.range 4).map fun k => (k, emptySeq) }) (fun b e => sound b = true ∧ (e.s.comb e.ck).freeSeq = none) ∧
    Loads 0 2 (noRef 64 (teamImage Comb.reset 0 fresh (matrixHead Comb.reset none fresh []))) (.team 7 { fresh with tiles := [3] } none [] [waitingPass]) id
      (fun c => { c with passes := List.replicate 16 waitingPass }) (fun b e => sound b = true ∧ 16 < (e.s.comb e.ck).passes.length + [waitingPass].length) ∧
    Loads 1 3 (noRef 64 (queueImage Comb.reset 0 1 [] [⟨1, recOf 0x1000, 1, 0, 1⟩])) queueBody id id (fun _ e => (e.s.comb e.ck).ready.length + 1 ≤ 256) ∧
    Loads 1 3 (noRef 64 (queueImage Comb.reset 0 1 [] [⟨1, recOf 0x1000, 1, 0, 1⟩])) queueBody id (fun c => { c with ready := List.replicate 256 ⟨1, recOf 0x1000, 1, 0, 1⟩ })
      (fun _ e => 256 < (e.s.comb e.ck).ready.length + 1) ∧
    Loads 6 4 (noRef 64 (fifoImage 0 6 { Bank.ofMode .fifo with owner := 1 })) fifoBody id noEnts (fun _ e => ((e.s.comb e.ck).bank 6).mode = .fifo ∧
      ((e.s.comb e.ck).bank 6).ord = false ∧ ((e.s.comb e.ck).bank 6).owner = 1 ∧ ((e.s.comb e.ck).bank 6).empty = true) ∧
    Loads 5 4 (noRef 64 (fifoImage 0 6 { Bank.ofMode .fifo with owner := 1 })) fifoBody id noEnts (fun _ e => (e.read32 (.s 6) 0).toNat % 16 ≠ 6) := by
  and_intros <;> exact loads_of (by decide +kernel)

theorem witness_ImageRefused : ∀ k ∈ [1, 2, 3, 4, 5], Meets (saving 0xC0000000 [1] 0 1 id id) (ctxloadRule fw) fun e => e.loadImage k (e.read64 (.s 4) 0).toNat = .error 7 := by
  intro k _
  exact meets_of (fun e => !e.s.feature 3) (by decide +kernel) fun e h => by unfold Env.loadImage; rw [h]; rfl

theorem witness_Thaw :
    Meets (frozen 1 id id) (ruleCtxloadThaw fw) (fun e => e.s.feature 3 = true ∧ e.th.wait = .none ∧ (e.s.images.any fun i => decide (i.ctx = 1) && !i.loaded) = false) ∧
    Meets ((frozen 1 id id).modComb 0 fun c => { c with steward := { c.steward with th := { c.steward.th with wait := .answered 0 } } }) (ruleCtxloadThaw fw) (fun e =>
      e.s.feature 3 = true ∧ e.th.wait = .answered 0 ∧ (e.s.images.any fun i => decide (i.ctx = 1) && !i.loaded) = false) ∧
    Meets (stored 1 [] (.copies [copyOp]) id id) (ruleCtxloadThaw fw) (fun e => (e.s.images.any fun i => decide (i.ctx = (e.read32 (.s 6) 0).toNat % 256) && !i.loaded) = true) ∧
    Meets (saving 0 [] 0 1 id id) (ruleCtxloadThaw fw) (fun e => e.s.feature 3 = false) := by
  and_intros <;> exact meets (by decide +kernel)

/-- A buffered store of 4 bytes at 0x1000 (R340: "an 8-byte header and an 8-byte address or target word, followed by the payload
rounded up to a multiple of 8 bytes"). -/
theorem test_commit_entry_bytes :
    ((⟨0x101, 24, 0, [8 * 0x1000, 32, 0, 0], [0x12345678]⟩ : CommitEnt).toBytes 0).drop 8 =
      [0x00, 0x10, 0, 0, 0, 0, 0, 0, 0x78, 0x56, 0x34, 0x12, 0, 0, 0, 0] := by decide

/-! ## Witnesses of memory -/

/-- Whether every lane of an access has its page. -/
def okAccs (x : Except TrapInfo (List LaneAcc)) : Bool :=
  match x with
  | .ok (_ :: _) => true
  | _ => false

/-- A uniform access at s4:s5 or s4 with the datum s10; its group has s4 = 0x100, in the page and, with s6 = 0x80000, in granule 64. -/
def um : MForm := { fm with d := .s 8, a := .s 4, c := .s 10 }
def mem : State := sregs [(4, 0x100), (6, 0x80000), (10, 7)]
def sm : MForm := { um with a := .s 6 }
def atomicT (t : Thread) : Thread := { t with place := { t.place with isTask := true, atomic := true } }
def taskMem : State := { mem with combs := mem.combs.map fun c => (c.1, { c.2 with groups := c.2.groups.map fun x => (x.1, atomicT x.2) }) }
def params : State := mem.modComb 0 fun c => { c with teams := c.teams.map fun t => (t.1, { t.2 with param := 0x200 }) }
def plainTask : State := mem.modComb 0 fun c => { c with groups := c.groups.map fun x => (x.1, { x.2 with place := { x.2.place with isTask := true } }) }

theorem witness_LoadsAndStores :
    (∀ r ∈ [ruleLd um, ruleGetv um], Meets mem r fun e => okAccs (e.laneAccs .read (fun _ => 4) 4 false (e.each (e.ea um))) = true) ∧
    (∀ r ∈ [ruleLdsc sm, ruleStsc sm], Meets mem r fun e => e.scratchFault 4 4 (e.each (e.eaScratch sm)) = none) ∧
    Meets params (ruleLdp { um with a := .v 0, b := .sink }) (fun e => e.th.place.isTask = false ∧
      okAccs (e.laneAccs .read (fun _ => 4) 4 false (e.each fun _ => 0x200)) = true ∧ (Sparse.find? (e.s.comb e.ck).teams e.th.place.team).any (fun t => decide (t.param = 0x200)) = true) ∧
    Meets plainTask (ruleLdp { um with a := .v 0, b := .sink }) (fun e => e.th.place.isTask = true ∧ e.scratchFault 4 4 (e.each fun _ => (e.s.comb e.ck).teamBase e.th.place.team) = none) ∧
    Meets mem (rulePrf { um with d := .v 0, c := .v 0 }) (fun _ => True) ∧
    (∀ r ∈ [ruleSt { um with d := .v 0 }, rulePutv { um with d := .v 0 }], Meets mem r fun e => e.th.place.atomic = false ∧ okAccs (e.laneAccs .write (fun _ => 4) 4 false (e.each (e.ea um))) = true) ∧
    Meets taskMem (ruleSt { um with d := .v 0 }) (fun e => e.th.place.atomic = true ∧ okAccs (e.laneAccs .write (fun _ => 4) 4 false (e.each (e.ea um))) = true ∧ commitUsed e.th.commit + 24 ≤ 4096) := by
  refine ⟨meets_all (by decide +kernel), meets_all (by decide +kernel), ?_, ?_, ?_, meets_all (by decide +kernel), ?_⟩ <;> exact meets (by decide +kernel)

/-- A uniform scratch instruction has one lane, and nothing of the machine holds it up. -/
theorem witness_ScratchEffects : (sm.ord = 0 ∧ sm.aop.toNat ≤ 14) ∧ ∀ r ∈ [ruleStsc sm, ruleAtomsc sm, ruleCassc { sm with b := .s 12 }], Meets mem r fun e =>
    e.lanes = [0] ∧ e.s.stores = [] ∧ (e.s.comb e.ck).ops = [] ∧ e.scratchFault 4 4 [(0, e.eaScratch sm 0)] = none ∧ e.scratchFault 4 4 [(0, e.eaCasScratch sm 0)] = none :=
  ⟨by decide, meets_all (by decide +kernel)⟩

/-- Descriptor 0: an F32 tensor of 64 by 32 elements at 0x2000, writable (R205). -/
def descBytes : List Byte :=
  leBytes 8 0x2000 ++ leBytes 4 64 ++ leBytes 4 32 ++ leBytes 4 1 ++ leBytes 4 1 ++ leBytes 4 1 ++ leBytes 5 256 ++ List.replicate 15 0 ++ leBytes 4 0 ++
  leBytes 4 (0x10 + 2 * 2 ^ 6 + 2 ^ 18 + 2 ^ 21) ++ leBytes 8 0
def withDesc (s : State) : State :=
  { s.modComb 0 fun c => { c with dcache := [⟨1, 0, descBytes⟩] } with ctxs := [(1, { loadCtx with dtcount := 1 })] }
def isDesc (x : DescRes) : Bool :=
  match x with
  | .ok _ d => decide (d.ndim = 2) && d.w
  | _ => false
/-- Whether the elements of the descriptor at s2 are within reach of the lanes inside. -/
def elems (e : Env) (f : MForm) (acc : Access) (data : Spec × Bool) : Bool :=
  match e.s.descriptor e.ck (e.s.agentCtx e.ag) 0 with
  | .ok s d => (e.runFault f.b d.ndim [data] (decide (d.ebits = 64))).isNone && okAccs (({ e with s := s } : Env).elemAccs d 0 acc (e.insideLanes f d))
  | _ => false

def te : MForm := { um with a := .s 2, b := .s 4, size := 0 }
def tens : State := withDesc (sregs [(4, 1), (5, 1)])

/-- The same tensor in tiles of 8 rows (TL = 1); a lane outside; an atomic task. -/
def tiledBytes : List Byte := descBytes.take 52 ++ leBytes 4 (0x10 + 2 * 2 ^ 6 + 3 * 2 ^ 9 + 2 ^ 18 + 2 ^ 19 + 2 ^ 21) ++ descBytes.drop 56
def tiled : State := tens.modComb 0 fun c => { c with dcache := [⟨1, 0, tiledBytes⟩] }
def beyond : State := withDesc (sregs [(4, 64), (5, 1)])
def tensTask : State := tens.modComb 0 fun c => { c with groups := c.groups.map fun x => (x.1, atomicT x.2) }

/-- Whether the descriptor is one of tiles, and whether no lane lies inside. -/
def viaTiles (e : Env) (f : MForm) (acc : Access) : Bool :=
  match e.s.descriptor e.ck (e.s.agentCtx e.ag) 0 with
  | .ok s d => match ({ e with s := s } : Env).elemAccs d 0 acc (e.insideLanes f d) with
    | .ok as => !as.isEmpty && as.all d.viaTile
    | .error _ => false
  | _ => false
def noneInside (e : Env) (f : MForm) : Bool :=
  match e.s.descriptor e.ck (e.s.agentCtx e.ag) 0 with
  | .ok _ d => (e.insideLanes f d).isEmpty
  | _ => false

theorem witness_TensorElements :
    Meets tens (ruleLdte { te with c := .v 0 }) (fun e => elems e { te with c := .v 0 } .read (.s 8, true) = true) ∧
    Meets tiled (ruleLdte { te with c := .v 0 }) (fun e => elems e { te with c := .v 0 } .read (.s 8, true) = true ∧ viaTiles e { te with c := .v 0 } .read = true) ∧
    Meets beyond (ruleLdte { te with c := .v 0 }) (fun e => noneInside e { te with c := .v 0 } = true) ∧
    Meets tens (ruleStte { te with d := .v 0 }) (fun e => e.th.place.atomic = false ∧ elems e { te with d := .v 0 } .write (.s 10, false) = true) ∧
    Meets tiled (ruleStte { te with d := .v 0 }) (fun e => e.th.place.atomic = false ∧ elems e { te with d := .v 0 } .write (.s 10, false) = true ∧ viaTiles e { te with d := .v 0 } .write = true) ∧
    Meets tensTask (ruleStte { te with d := .v 0 }) (fun e => e.th.place.atomic = true ∧ elems e { te with d := .v 0 } .write (.s 10, false) = true ∧
      commitUsed e.th.commit + 24 ≤ 4096) := by
  and_intros <;> exact meets (by decide +kernel)

theorem witness_AtomicsIssue :
    (∀ r ∈ [ruleAtom um, ruleRed { um with d := .v 0 }, ruleRedv { um with d := .v 0 }], Meets mem r fun e => okAccs (e.laneAccs .write (fun _ => 4) 4 true (e.each (e.ea um))) = true) ∧
    Meets mem (ruleAtomcas { um with b := .s 12 }) (fun e => okAccs (e.laneAccs .write (fun _ => 4) 4 true (e.each (e.eaCas um))) = true) ∧
    Meets mem (ruleAtomsc sm) (fun e => e.scratchFault 4 4 (e.each (e.eaScratch sm)) = none) ∧
    Meets mem (ruleCassc { sm with b := .s 12 }) (fun e => e.scratchFault 4 4 (e.each (e.eaCasScratch sm)) = none) := by
  refine ⟨meets_all (by decide +kernel), ?_, ?_, ?_⟩ <;> exact meets (by decide +kernel)

/-- One lane of a vector access: at 0x10000 no page, at 0x102 a misaligned word, and 2^21 beyond the scratch. -/
def lane (x : Word) : State := onT fun t => { t with em := 1, v := [(16 * 32, x)] }
def bad (x : Except Nat (Leaf × Leaf)) : Bool :=
  match x with
  | .error c => decide (c = codeDPAGE)
  | .ok _ => false
def fine (x : Except Nat (Leaf × Leaf)) : Bool :=
  match x with
  | .ok ls => decide (ls.1.place ≠ 3) && decide (ls.2.place ≠ 3)
  | .error _ => false

theorem witness_MemoryAccessTraps :
    (∀ r ∈ [ruleLd fm, ruleSt { fm with d := .v 0 }, ruleAtom { fm with c := .v 8 }], Meets (lane 0x10000) r fun e => e.lanes = [0] ∧ e.vec = true ∧
      bad (e.s.transBytes e.ck (e.s.agentCtx e.ag) (e.ea fm 0) 4 .read) = true ∧ bad (e.s.transBytes e.ck (e.s.agentCtx e.ag) (e.ea fm 0) 4 .write) = true) ∧
    Meets (lane 0x102) (ruleAtom { fm with c := .v 8 }) (fun e => e.lanes = [0] ∧ e.vec = true ∧ e.ea fm 0 % 4 ≠ 0 ∧ fine (e.s.transBytes e.ck (e.s.agentCtx e.ag) (e.ea fm 0) 4 .write) = true) ∧
    (∀ r ∈ [ruleLdsc fm, ruleStsc { fm with d := .v 0 }], Meets (lane 0x200000) r fun e => e.lanes = [0] ∧ e.vec = true ∧ 2 ^ 21 ≤ e.eaScratch fm 0) :=
  ⟨meets_all (by decide +kernel), meets (by decide +kernel), meets_all (by decide +kernel)⟩

/-! ## Witnesses of barriers, waits and order -/

def teamT (g : Team → Team) : State := onC fun c => { c with teams := c.teams.map fun t => (t.1, g t.2) }
/-- Barrier 3 of the team with two arrivals of an expected count 4, phase 9 (R380). -/
def half : State := teamT fun t => { t with barriers := t.barriers.set 3 ⟨4, 2, 9⟩ }
def last : State := teamT fun t => { t with barriers := t.barriers.set 3 ⟨4, 3, 9⟩ }
/-- Barrier 3 with a count in IMM20. -/
def nbf (n : Nat) : SForm := { fs with imm := BitVec.ofNat 20 (3 + 16 * n), sub := 1 }
def arrived (e : Env) (n : Nat) : Option (Nat × Nat) :=
  match (e.s.comb e.ck).arrive e.th.place.team 3 n with
  | .ok x => some (((e.s.setComb e.ck x.1).comb e.ck).phases e.th.place.team 3, x.2)
  | .error _ => none
def waitingT (w : Wait) (s : State) : State := s.modComb 0 fun c => { c with groups := c.groups.map fun x => (x.1, { x.2 with wait := w }) }

theorem witness_NamedBarriers :
    Meets half (ruleBari (nbf 0)) (fun e => ((Sparse.find? (e.s.comb e.ck).teams e.th.place.team).any fun t => decide (3 < t.barriers.length)) = true) ∧
    Meets half (ruleBara (nbf 4)) (fun e => e.s.releaseDone e.ck e.th.uid 1 e.s.nextUid = true ∧ e.barCount (nbf 4) = 4 ∧ arrived e 4 = some (9, 9)) ∧
    Meets last (ruleBarw (nbf 4)) (fun e => e.th.wait = .none ∧ e.s.releaseDone e.ck e.th.uid 1 e.s.nextUid = true ∧ arrived e 4 = some (10, 9)) ∧
    Meets half (ruleBarw (nbf 4)) (fun e => e.th.wait = .none ∧ e.s.releaseDone e.ck e.th.uid 1 e.s.nextUid = true ∧ arrived e 4 = some (9, 9)) ∧
    Meets (waitingT (.phase 3 8) half) (ruleBarw (nbf 4)) (fun e => e.th.wait = .phase 3 8 ∧ (e.s.comb e.ck).phases e.th.place.team 3 ≠ 8) ∧
    Meets half (ruleBara (nbf 5)) (fun e => e.s.releaseDone e.ck e.th.uid 1 e.s.nextUid = true ∧ arrived e (e.barCount (nbf 5)) = none) := by
  and_intros <;> exact meets (by decide +kernel)

/-- Arrivals at the ends of the range of counts. -/
theorem witness_BarrierCounts : (∃ x : Barrier, x.expect = 0 ∧ x.arrive 255 = .ok (⟨255, 1, 0⟩, 0)) ∧ (∃ x : Barrier, x.arrive 1 = .ok (⟨0, 0, 1⟩, 0)) ∧
    (∃ x : Barrier, x.arrive 256 = .error 4) := ⟨⟨⟨0, 0, 0⟩, rfl, rfl⟩, ⟨⟨0, 0, 0⟩, rfl⟩, ⟨⟨4, 1, 0⟩, rfl⟩⟩

/-- A transaction barrier at 0x80000, in granule 64: SECT 5, ARR 2, PHASE 1 (R382). -/
def tx (xs : List (Nat × Word)) : State := (sregs ([(4, 0x80000), (6, 5)] ++ xs)).modComb 0 fun c => c.modTxBar 0x80000 fun _ => ⟨2, false, 5, 2, 1⟩
def tf (sub : BitVec 6) (imm : BitVec 20) : SForm := { fs with d := .s 8, a := .s 4, sub := sub, imm := imm }
def txOk (e : Env) : Prop := e.scratchFault 16 16 [(0, 0x80000)] = none ∧ e.txBusy 0x80000 = false ∧ (e.read32 (.s 4) 0).toNat = 0x80000 ∧ e.s.releaseDone e.ck e.th.uid 1 e.s.nextUid = true

theorem witness_TransactionBarriers :
    Meets (tx []) (ruleTbinit (tf 0 2)) (fun e => txOk e) ∧
    Meets (tx []) (ruleTbexp (tf 5 3)) (fun e => txOk e ∧ ((e.s.comb e.ck).txBar 0x80000).sect + 3 < 2 ^ 24) ∧
    Meets (tx []) (ruleTbexp (tf 3 5)) (fun e => txOk e ∧ 5 ≤ ((e.s.comb e.ck).txBar 0x80000).sect) ∧
    Meets (tx []) (ruleTbexp (tf 3 6)) (fun e => txOk e ∧ ¬ 6 ≤ ((e.s.comb e.ck).txBar 0x80000).sect) ∧
    Meets (tx []) (ruleTbarr (tf 0 0)) (fun e => txOk e) ∧
    Meets (tx []) (ruleTbwait (tf 1 0)) (fun e => txOk e ∧ ((e.s.comb e.ck).txBar 0x80000).phase ≠ 0) ∧
    Meets (tx []) (ruleTbwait (tf 1 1)) (fun e => txOk e ∧ ((e.s.comb e.ck).txBar 0x80000).phase = 1) := by
  unfold txOk; and_intros <;> exact meets (by decide +kernel)

/-- One load of the group outstanding; region counter 5 at 7. -/
def loadOut : State := onC fun c => { c with rorder := [(5, 7)], ops := [⟨9, .group 0 0 0, 1, 1, 1, 0, 0, none, 0, false, false, .values [], 0, []⟩] }

theorem witness_WaitsAndOrder :
    Meets loadOut (ruleWaitc { fs with imm := 0x1F }) (fun e => (e.s.comb e.ck).outstanding e.th.uid 0 = 1 ∧
      ((List.range 4).any fun k => (15 : Nat).testBit k && decide (1 < (e.s.comb e.ck).outstanding e.th.uid k)) = false ∧ e.th.uncov = []) ∧
    Meets loadOut (ruleWaitc { fs with imm := 1 }) (fun e => ((List.range 4).any fun k => (1 : Nat).testBit k && decide (0 < (e.s.comb e.ck).outstanding e.th.uid k)) = true) ∧
    Meets (loadOut.modComb 0 fun c => { c with groups := c.groups.map fun x => (x.1, { x.2 with s := [(4, 0x10007)] }) }) (ruleOwait (tf 0 5)) (fun e =>
      (e.s.comb e.ck).order 5 = (e.read32 (.s 4) 0).toNat % 2 ^ 16) ∧
    Meets loadOut (ruleOwait (tf 0 5)) (fun e => (e.s.comb e.ck).order 5 ≠ (e.read32 (.s 4) 0).toNat % 2 ^ 16) ∧
    (∀ r ∈ [ruleOrels (tf 0 5), ruleOrelsSet (tf 0 5)], Meets loadOut r fun e => e.s.releaseDone e.ck e.th.uid 2 e.s.nextUid = true) := by
  refine ⟨?_, ?_, ?_, ?_, meets_all (by decide +kernel)⟩ <;> exact meets (by decide +kernel)

/-! ## Witnesses of copies and matrix passes -/

/-- Descriptor 0 at s2, coordinates s4:s5, scratch s6 = 0x80000, a barrier s7 = 0x80400, a global address s10:s11, a length s12. -/
def cs : State := withDesc (sregs [(6, 0x80000), (7, 0x80400), (10, 0x100), (12, 300), (13, 0x80800)])
def cf : MForm := { fm with d := .s 7, a := .s 2, b := .s 4, c := .s 6 }
def tileAt (e : Env) (f : MForm) : Bool :=
  match e.s.descriptor e.ck (e.s.agentCtx e.ag) ((e.read32 f.a 0).toNat % 4096) with
  | .ok _ d => decide (d.w = true) && (e.runFault f.b d.ndim [] false).isNone
  | _ => false
def lanes1 : State := cs.modComb 0 fun c => { c with groups := c.groups.map fun x => (x.1, { x.2 with em := 1, v := [(16 * 32, 0x100)] }) }

theorem witness_CopiesIssue :
    Meets cs (ruleCopyOp cf) (fun e => tileAt e cf = true ∧ e.scratchRanges [(0x80000, 1024, 128), (0x80400, 16, 16)] = none ∧ (e.read32 cf.c 0).toNat = 0x80000 ∧ (e.read32 cf.d 0).toNat = 0x80400) ∧
    Meets cs (ruleCopyo { cf with d := .v 0 }) (fun e => tileAt e cf = true ∧ e.scratchRanges [(0x80000, 1024, 128)] = none) ∧
    Meets cs (ruleCopym { cf with d := .v 0, size := 7 }) (fun e => tileAt e cf = true ∧ e.scratchRanges [(0x80000, 128, 16)] = none) ∧
    (let f : MForm := { cf with a := .v 16, b := .v 0, size := 5 }
     Meets lanes1 (ruleGather f) (fun e => e.lanes = [0] ∧ okAccs (e.laneAccs .read (fun _ => 32) 1 false (e.each fun i => (e.read64 f.a i).toNat)) = true ∧
       (e.read64 f.a 0).toNat % 32 = 0 ∧ e.scratchRanges [(0x80000, 32, 1), (0x80400, 16, 16)] = none)) ∧
    (let f : MForm := { cf with a := .s 6, b := .s 10, c := .s 12, aop := 4 }
     Meets cs (ruleCopyl f) (fun e => (e.read32 f.c 0).toNat = 300 ∧ e.scratchRanges [(0x80000, 300, 1), (0x80400, 16, 16)] = none)) ∧
    (let f : MForm := { cf with a := .s 6, b := .s 10, c := .s 8, aop := 4 }
     Meets cs (ruleCopyl f) (fun e => (e.read32 f.c 0).toNat = 0 ∧ f.aop.getLsbD 0 = false ∧ e.scratchRanges [(0x80000, 0, 1), (0x80400, 16, 16)] = none)) ∧
    (let f : MForm := { cf with a := .s 6, b := .s 10, c := .s 8, aop := 5 }
     Meets cs (ruleCopyl f) (fun e => (e.read32 f.c 0).toNat = 0 ∧ f.aop.getLsbD 0 = true ∧ (e.s.comb e.ck).canPost = true ∧
       e.scratchRanges [(0x80000, 0, 1), (0x80400, 16, 16)] = none)) ∧
    (let f : MForm := { cf with a := .s 6, b := .s 13, c := .s 12, aop := 12 }
     Meets cs (ruleCopyl f) (fun e => e.scratchRanges [(0x80000, 300, 1), (0x80800, 300, 1), (0x80400, 16, 16)] = none)) := by
  and_intros <;> exact meets (by decide +kernel)

/-- A tensor without W. -/
def readOnly : State := cs.modComb 0 fun c => { c with dcache := [⟨1, 0, descBytes.set 54 0⟩] }
theorem witness_CopyoReadOnly : Meets readOnly (ruleCopyo { cf with d := .v 0 }) (fun e =>
    (match e.s.descriptor e.ck (e.s.agentCtx e.ag) ((e.read32 cf.a 0).toNat % 4096) with
      | .ok _ d => decide (d.w = false) && (e.runFault cf.b d.ndim [] false).isNone
      | _ => false) = true) := meets (by decide +kernel)

/-- A copy of the group under way, one that has ended, and a load. -/
def copying : State := cs.modComb 0 fun c => { c with ops := [⟨9, .group 0 0 0, 1, 1, 1, 1, 0, none, 0, true, false, .copy ⟨0x124, [0, 0, 0, 0, 0], false, false, none, 0, [], [], none, false, false⟩, 0, []⟩,
  ⟨10, .group 0 0 0, 1, 1, 1, 1, 0, none, 0, true, false, .copy ⟨0x124, [0, 0, 0, 0, 0], false, false, none, 0, [], [], none, true, false⟩, 0, []⟩,
  ⟨11, .group 0 0 0, 1, 1, 1, 0, 0, none, 0, false, false, .values [], 0, []⟩] }

theorem witness_CopyCancel : Meets copying (ruleCcancel { fm with d := .s 8, a := .v 0, c := .v 0 }) fun e =>
    ((e.s.comb e.ck).ops.map fun op => (op.uid, decide (op.ownerUid = e.th.uid), match op.kind with
      | .copy c => some c.ended
      | _ => none)) = [(9, true, some false), (10, true, some true), (11, true, none)] := meets (by decide +kernel)

/-- The stream of a team with physical tile 5, and its x registers. -/
def strmX (xs : List (Nat × DWord)) : State := strm.modComb 0 fun c => { c with
  teams := c.teams.map fun t => (t.1, { t.2 with tiles := [5] }), seqs := c.seqs.map fun q => (q.1, { q.2 with th := { q.2.th with x := xs } }) }
def mf : SForm := { fs with a := .s 0 }
def tileIs (e : Env) (d : Spec) : Bool :=
  match e.accTile d with
  | .ok t => decide (t = 5)
  | .error _ => false
def descsOk (x : Except TrapInfo (State × List (List Nat))) : Bool :=
  match x with
  | .ok _ => true
  | .error _ => false
/-- 32 by 64 by 16 of BF16 from scratch: A at 0x80000 with stride 32, B at 0x80400 with stride 32 (R311). -/
def mmaRegs : List (Nat × DWord) := [(0, 0x80000), (1, 0x80400), (2, 0x2000000020), (3, 0x402000000010)]
def draft (op : Nat) (e : Env) (n : Nat) : Pass := Pass.draft op 5 mf ((List.range n).map fun i => e.xreg i)
def noneBefore (e : Env) : Prop := (e.s.comb e.ck).passes = []

theorem witness_PassesPost :
    Meets (strmX mmaRegs) (ruleMma mf) (fun e => tileIs e mf.d = true ∧ mmaBlock mf = 4 ∧ (draft 0x140 e 4).mmaBad = none ∧ (∀ x ∈ (draft 0x140 e 4).mmaAligns, x % 16 = 0) ∧
      e.matScratch (draft 0x140 e 4).mmaRuns = none ∧ descsOk (e.mmaDescs (draft 0x140 e 4)) = true ∧ (e.s.comb e.ck).passes = []) ∧
    Meets (strmX []) (ruleMzero { mf with a := .v 0 }) (fun e => tileIs e mf.d = true ∧ (e.s.comb e.ck).passes = []) ∧
    (∀ r ∈ [matMoveRule 0x142 { mf with sub := 6 }, matMoveRule 0x143 { mf with sub := 6 }], Meets (strmX [(0, 0x80000), (1, 0x402000000100)]) r fun e =>
      let p := Pass.draft 0x142 5 { mf with sub := 6 } [e.xreg 0, e.xreg 1]
      tileIs e mf.d = true ∧ p.moveBad = none ∧ p.reg 0 % 16 = 0 ∧ p.opM.stride % 16 = 0 ∧ p.imm % 4 = 0 ∧ e.matScratch p.moveRuns = none ∧
      descsOk (e.moveDescs p true) = true ∧ descsOk (e.moveDescs p false) = true) ∧
    (∀ r ∈ [matRowRule 0x144 mf, matRowRule 0x145 mf, matRowRule 0x146 mf], Meets (strmX [(0, 0x80000), (1, 0x402000000000)]) r fun e =>
      tileIs e mf.d = true ∧ badMN (e.xreg 1).toNat = false ∧ (e.xreg 1).toNat % 2 ^ 32 = 0 ∧ e.matScratch [(0x80000, 128)] = none) := by
  refine ⟨?_, ?_, meets_all ?_, meets_all ?_⟩
  · exact meets (by unfold draft; decide +kernel)
  · exact meets (by decide +kernel)
  · decide +kernel
  · decide +kernel

/-- Barrier 3 of the stream's team, and a pass of the stream posted before. -/
def barsS (x : Barrier) (ps : List Pass) : State := (strmX []).modComb 0 fun c => { c with passes := ps, teams := c.teams.map fun t => (t.1, { t.2 with barriers := t.2.barriers.set 3 x }) }
def pass : Pass := ⟨9, 0, 0x141, 5, 0, 0, [], [], 0x1000, 0, false, 0, false, none, 0, 0⟩
def mb (sub : BitVec 6) (n : Nat) : SForm := { fs with sub := sub, imm := BitVec.ofNat 20 (3 + 16 * n) }
def waitS (w : Wait) (s : State) : State := s.modComb 0 fun c => { c with seqs := c.seqs.map fun q => (q.1, { q.2 with th := { q.2.th with wait := w } }) }
def quietS (e : Env) : Bool := (Sparse.find? (e.s.comb e.ck).seqs 0).any (fun x => x.deferred.isEmpty) && (e.s.comb e.ck).passes.isEmpty

theorem witness_StreamBarriers :
    Meets (barsS ⟨0, 0, 9⟩ []) (ruleMbar (mb 1 2)) (fun e => e.th.wait = .none ∧ quietS e = true ∧ arrived e 2 = some (9, 9)) ∧
    Meets (barsS ⟨0, 0, 9⟩ [pass]) (ruleMbar (mb 1 2)) (fun e => e.th.wait = .none ∧ (Sparse.find? (e.s.comb e.ck).seqs 0).isSome ∧ ((e.s.comb e.ck).passes.filter fun p => p.seq = 0) ≠ []) ∧
    Meets (barsS ⟨0, 0, 9⟩ []) (ruleMbar (mb 3 2)) (fun e => e.th.wait = .none ∧ quietS e = true ∧ arrived e 2 = some (9, 9)) ∧
    Meets (waitS (.phase 3 8) (barsS ⟨0, 0, 9⟩ [])) (ruleMbar (mb 2 2)) (fun e => e.th.wait = .phase 3 8 ∧ (e.s.comb e.ck).phases e.th.place.team 3 ≠ 8) ∧
    Meets (barsS ⟨0, 0, 9⟩ []) (ruleMbar (mb 2 1)) (fun e => e.th.wait = .none ∧ arrived e 1 = some (10, 9)) ∧
    Meets (barsS ⟨0, 0, 9⟩ []) (ruleMwaitb (mb 0 0)) (fun e => ((e.s.comb e.ck).phases e.th.place.team 3 + 2 ^ 16 - (e.s.comb e.ck).seen (e.ag.src % 0x40) 3) % 2 ^ 16 ≠ 0) ∧
    Meets (barsS ⟨0, 0, 0⟩ []) (ruleMwaitb (mb 0 0)) (fun e => ((e.s.comb e.ck).phases e.th.place.team 3 + 2 ^ 16 - (e.s.comb e.ck).seen (e.ag.src % 0x40) 3) % 2 ^ 16 = 0) := by
  and_intros <;> exact meets (by decide +kernel)

/-! ## Witnesses of tasks, counters and queues -/

/-- Flow 2 of context 1: eight locations, channel 4, one count at location 3 and time 5 (R398). -/
def flow2 : Flow := ⟨1, 2, [16, 16, 16, 16], 16, 8, [0], false, [], [⟨3, 5, false, 1⟩], []⟩
def withFlow (s : State) : State := s.modDie 0 fun d => { d with flows := [flow2] }
/-- A task record with entry 0x1000, time 5, one granule of registers, in flow 2 at station 3 (R326). -/
def taskRec (sel target : Word) : TaskRec := ⟨0x1000, 5, target, 1 + sel * 4096, 0x302, List.replicate 8 0⟩
/-- The record in scratch at s4 = 0x80000; channel 4 in s6. -/
def recS (bs : List Byte) : State := (withFlow (sregs [(4, 0x80000), (6, 4), (7, 5)])).putScratch 0 0x80000 bs
def sf : SForm := { fs with d := .s 8, a := .s 4, b := .s 6 }
def bytesAt (e : Env) : List Byte := (List.range 64).map fun i => e.s.rawByte (scratchLoc e.ck (0x80000 + i))
/-- The record breaks no rule and is not late. -/
def recFits (e : Env) (loc : Nat) : Bool :=
  (e.scratchFault 64 64 [(0, (e.read32 (.s 4) 0).toNat)]).isNone && !e.s.recBad (keyDie e.ck) ((e.s.agentCtx e.ag).getD 0) (bytesAt e) &&
  match e.s.findFlow (keyDie e.ck) ((e.s.agentCtx e.ag).getD 0) (TaskRec.ofBytes (bytesAt e)).flow with
  | some fl => !e.th.timeBack fl loc (TaskRec.ofBytes (bytesAt e)).time.toNat && fl.chan.testBit ((e.read32 (.s 6) 0).toNat % 64)
  | none => false
def goes (e : Env) : Target := e.s.recTarget e.ck (TaskRec.ofBytes (bytesAt e))
def atom (s : State) : State := s.modComb 0 fun c => { c with groups := c.groups.map fun x => (x.1, atomicT x.2) }
def created (e : Env) : Bool := (e.s.create e.ck ((e.s.agentCtx e.ag).getD 0) (TaskRec.ofBytes (bytesAt e)) (rankLocal e.s.nextUid)).isSome

theorem witness_RecordsLeave :
    (∀ r ∈ [ruleSpawn sf, ruleSend sf], Meets (recS (taskRec 1 1).bytes) r fun e => recFits e 3 = true ∧ recFits e 4 = true ∧ goes e = .other 1 0 ∧ e.th.place.atomic = false ∧
      e.s.releaseDone e.ck e.th.uid ((Target.other 1 0).scope e.ck) e.s.nextUid = true ∧ (e.s.comb e.ck).outstanding e.th.uid 3 < 63) ∧
    (∀ r ∈ [ruleSpawn sf, ruleSend sf], Meets (recS (taskRec 0 0).bytes) r fun e => recFits e 3 = true ∧ recFits e 4 = true ∧ goes e = .here ∧ e.th.place.atomic = false ∧
      e.s.releaseDone e.ck e.th.uid 2 e.s.nextUid = true ∧ created e = true) ∧
    (∀ r ∈ [ruleSpawn sf, ruleSend sf], Meets (atom (recS (taskRec 0 0).bytes)) r fun e => recFits e 3 = true ∧ recFits e 4 = true ∧ goes e = .here ∧ e.th.place.atomic = true ∧
      commitUsed e.th.commit + 80 ≤ 4096) ∧
    Meets (recS ((taskRec 0 0).bytes.set 28 1)) (ruleSpawn sf) (fun e => e.scratchFault 64 64 [(0, 0x80000)] = none ∧ e.s.recBad (keyDie e.ck) ((e.s.agentCtx e.ag).getD 0) (bytesAt e) = true) ∧
    Meets (recS (taskRec 0 0).bytes) (ruleSend { sf with b := .s 7 }) (fun e => recFits e 3 = true ∧ (e.read32 (.s 7) 0).toNat % 64 = 5 ∧
      (flow2.chan.testBit 5) = false ∧ (e.s.findFlow (keyDie e.ck) ((e.s.agentCtx e.ag).getD 0) 2).isSome) := by
  refine ⟨meets_all (by decide +kernel), meets_all (by decide +kernel), meets_all (by decide +kernel), ?_, ?_⟩ <;> exact meets (by decide +kernel)

theorem witness_RecordBytes : ∃ r : TaskRec, r.args.length = 8 ∧ r.args.getD 7 0 = 0xFFFFFFFF := ⟨⟨1, 2, 3, 4, 5, List.replicate 8 0xFFFFFFFF⟩, by decide⟩

/-- A task waits in slot 7 with SEQ 3 and counter 2; its handle names this comb (R328, R389). -/
def waitSlot (n : Nat) : State := (sregs [(4, 0x30000007), (6, 1), (7, 0x30000407)]).modComb 0 fun c => { c with table := [(7, ⟨9, 3, some (taskRec 0 0), 1, n, false, 0⟩)] }
def df (imm : BitVec 20) : SForm := { fs with a := .s 4, b := .s 6, imm := imm }
def slotIs (e : Env) : Bool :=
  let t := (e.s.comb e.ck).slot ((e.read32 (.s 4) 0).toNat % 1024)
  t.task.isSome && decide ((e.read32 (.s 4) 0).toNat / 2 ^ 28 = t.seq) && !t.roomOnly && decide (e.th.wait = .none)
def hereH (e : Env) (atomic : Bool) : Bool :=
  decide (e.th.place.atomic = atomic) && decide (e.s.nameTarget e.ck (handleName (e.read32 (.s 4) 0)) = .here) && e.s.releaseDone e.ck e.th.uid 2 e.s.nextUid

theorem witness_DependencyCounters :
    (∀ r ∈ [ruleDepset (df 0), ruleDepdec (df 2)], Meets (waitSlot 2) r fun e => hereH e false = true ∧ slotIs e = true ∧ 2 ≤ ((e.s.comb e.ck).slot 7).counter) ∧
    Meets (waitSlot 2) (ruleDepdec (df 3)) (fun e => hereH e false = true ∧ slotIs e = true ∧ ((e.s.comb e.ck).slot 7).counter < 3) ∧
    (∀ r ∈ [ruleDepset (df 0), ruleDepdec (df 0)], Meets mem r fun e => e.th.wait = .none ∧ (e.s.nameTarget e.ck (handleName (e.read32 (.s 4) 0))) = .here ∧ e.th.place.atomic = false ∧
      e.s.releaseDone e.ck e.th.uid 2 e.s.nextUid = true ∧ (e.s.comb e.ck).slot ((e.read32 (.s 4) 0).toNat % 1024) = TaskSlot.reset) ∧
    (let f : SForm := { df 0 with a := .s 7 }; ∀ r ∈ [ruleDepset f, ruleDepdec f], Meets (waitSlot 2) r fun e => e.th.wait = .none ∧ e.th.place.atomic = false ∧
      e.s.nameTarget e.ck (handleName (e.read32 (.s 7) 0)) = .other 1 0 ∧ e.s.releaseDone e.ck e.th.uid ((Target.other 1 0).scope e.ck) e.s.nextUid = true ∧
      (e.s.comb e.ck).outstanding e.th.uid 3 < 63) ∧
    (∀ r ∈ [ruleDepset (df 0), ruleDepdec (df 0)], Meets (waitingT (.answered 0) (waitSlot 2)) r fun e => e.th.wait = .answered 0) ∧
    (∀ r ∈ [ruleDepset (df 0), ruleDepdec (df 0)], Meets (atom (waitSlot 2)) r fun e => e.th.wait = .none ∧ hereH e true = true ∧ commitUsed e.th.commit + 16 ≤ 4096) := by
  refine ⟨meets_all (by decide +kernel), meets (by decide +kernel), ?_, ?_, ?_, ?_⟩ <;> exact meets_all (by decide +kernel)

/-- FIFO bank 6 of context 1, plain or ordered, with some entries; s2 names this comb, s3 another, s6 the bank. -/
def fifo (ord : Bool) (es : List FifoEnt) : State := (sregs [(2, 0), (3, 1), (6, 6)]).modComb 0 fun c =>
  { c.setBank 6 { Bank.ofMode .fifo with owner := 1, ord := ord, ents := es, bound := 8 } with groups := c.groups.map fun x => (x.1, { x.2 with em := 3, lm := 3 }) }
def qf (sub : BitVec 6) : SForm := { fs with d := .v 8, a := .s 2, b := .s 6, c := .v 16, e := .s 12, sub := sub }
def pf (sub : BitVec 6) : SForm := { qf sub with a := .s 6, b := .v 0, c := .v 0 }
def kindOf (e : Env) (ord : Bool) : Bool := let b := (e.s.comb e.ck).bank ((e.read32 (.s 6) 0).toNat % 16); decide (b.mode = .fifo) && decide (b.ord = ord) && decide (b.owner = 1)
abbrev awayName (e : Env) : Prop := e.th.place.atomic = false ∧ e.s.nameTarget e.ck (e.read32 (.s 3) 0).toNat = .other 1 0 ∧ (e.s.comb e.ck).outstanding e.th.uid 3 < 63
def ent (t : DWord) : FifoEnt := ⟨List.replicate 16 7, t, 0⟩
/-- A task, whose ordered pushes R364 allows. -/
def asTask (s : State) : State := s.modComb 0 fun c => { c with groups := c.groups.map fun x => (x.1, { x.2 with place := { x.2.place with isTask := true } }) }

theorem witness_FifoBanks :
    (∀ r ∈ [ruleWqpush (qf 0), ruleFpush (qf 0)], Meets (fifo false []) r fun e => e.th.place.atomic = false ∧ e.s.nameTarget e.ck (e.read32 (.s 2) 0).toNat = .here ∧ kindOf e false = true) ∧
    Meets (asTask (fifo true [])) (ruleFpush (qf 1)) (fun e => e.th.place.atomic = false ∧ e.s.nameTarget e.ck (e.read32 (.s 2) 0).toNat = .here ∧ kindOf e true = true) ∧
    (let f : SForm := { qf 0 with a := .s 3 }; ∀ r ∈ [ruleWqpush f, ruleFpush f], Meets (fifo false []) r awayName) ∧
    (∀ r ∈ [ruleWqpush (qf 0), ruleFpush (qf 0)], Meets (atom (fifo false [])) r fun e => e.th.place.atomic = true ∧ commitUsed e.th.commit + 2 * 32 ≤ 4096 ∧ e.lanes = [0, 1] ∧ kindOf e false = true) ∧
    Meets (asTask (fifo false [])) (ruleFpush (qf 1)) (fun e => kindOf e true = false ∧ e.s.nameTarget e.ck (e.read32 (.s 2) 0).toNat = .here) ∧
    Meets (fifo false [ent 0, ent 0]) (ruleRefill (pf 1)) (fun e => kindOf e false = true ∧ (e.s.comb e.ck).outstanding e.th.uid 0 = 0 ∧ (e.s.comb e.ck).bank 6 ≠ Bank.ofMode .fifo) ∧
    Meets (fifo false []) (ruleRefill (pf 1)) (fun e => kindOf e false = true ∧ (e.s.comb e.ck).outstanding e.th.uid 0 = 0 ∧ ((e.s.comb e.ck).bank 6).ents = []) ∧
    Meets (fifo true []) (ruleRefill (pf 1)) (fun e => kindOf e false = false) ∧
    Meets (fifo false [ent 0]) (ruleFpop (pf 0)) (fun e => kindOf e false = true ∧ (useV (.v 8) 4 1 true).range e.th.budget = false ∧ e.th.mode.getLsbD 4 = false) ∧
    Meets (fifo true [ent 5]) (ruleFpop (pf 0)) (fun e => kindOf e true = true ∧ (useV (.v 8) 16 1 true).range e.th.budget = false ∧ e.th.mode.getLsbD 4 = false ∧
      ((e.s.comb e.ck).bank 6).popAt = some 5) := by
  refine ⟨meets_all (by decide +kernel), ?_, meets_all (by decide +kernel), meets_all (by decide +kernel), ?_, ?_, ?_, ?_, ?_, ?_⟩
  all_goals exact meets (by decide +kernel)

def evq (rs : List EvRec) : State := stewS [] id fun c => { c with evq := rs }
def evf (sub : BitVec 6) : SForm := { fs with d := .s 8, sub := sub }
def rec1 (a : Option Nat) : EvRec := ⟨0x102, 1, 2, 3, false, 0, a⟩
def emitT (s : State) : State := asTask s
def pe : SForm := { fs with a := .v 16, b := .s 2, c := .s 3 }
def setOf (e : Env) : Option Nat := (Sparse.find? e.s.ctxs ((e.s.agentCtx e.ag).getD 0)).map (·.rset)

theorem witness_EventQueueAndPrimitives :
    (∀ a ∈ [none, some 2], Meets (evq [rec1 a]) (ruleEvpop (evf 0)) fun e => (e.s.comb e.ck).evq = [rec1 a]) ∧
    (∀ sub ∈ [0, 1], Meets (evq []) (ruleEvpop (evf sub)) fun e => (e.s.comb e.ck).evq = []) ∧
    Meets (asTask base) (rulePrimemit pe) (fun e => setOf e = some 0 ∧ e.th.ordinal + e.lanes.length ≤ 65536 ∧ e.th.place.atomic = false ∧ (e.s.comb e.ck).outstanding e.th.uid 3 < 63) ∧
    Meets (onT fun t => { atomicT t with em := 3 }) (rulePrimemit pe) (fun e => setOf e = some 0 ∧ e.th.ordinal + e.lanes.length ≤ 65536 ∧ e.th.place.atomic = true ∧ commitUsed e.th.commit + 2 * 80 ≤ 4096 ∧ e.lanes = [0, 1]) ∧
    Meets (asTask { base with ctxs := [(1, { loadCtx with rset := 7 })] }) (rulePrimemit pe) (fun e => setOf e = some 7) := by
  refine ⟨?_, ?_, ?_, ?_, ?_⟩
  · simp only [List.mem_cons, List.not_mem_nil, or_false, forall_eq_or_imp, forall_eq]
    and_intros <;> exact meets (by decide +kernel)
  · simp only [List.mem_cons, List.not_mem_nil, or_false, forall_eq_or_imp, forall_eq]
    and_intros <;> exact meets (by decide +kernel)
  all_goals exact meets (by decide +kernel)

/-! ## Witnesses of logical time, reductions and rings -/

/-- A task of flow 2 at station 3 and time 5; a time in s4:s5, flow and location in s6, a register pair s2:s3. -/
def timeS (w : Wait) (xs : List (Nat × Word)) : State := (withFlow (sregs xs)).modComb 0 fun c => { c with groups := c.groups.map fun x =>
  (x.1, { x.2 with wait := w, place := { x.2.place with isTask := true, record := some (taskRec 0 0) } }) }
def stewC (w : Wait) (xs : List (Nat × Word)) : State := stewS xs id fun c => { c with steward := { c.steward with ctx := some 1, th := { c.steward.th with wait := w } } }
def stewF (xs : List (Nat × Word)) : State := withFlow (stewC .none xs)
def tm : SForm := { fs with d := .s 8, a := .s 6, b := .s 4 }
def code (e : Env) : Option Bool :=
  match (e.s.die (keyDie e.ck)).flow e.ctxNo ((e.read32 (.s 6) 0).toNat % 16) with
  | none => none
  | some y => if y.failed then none else some (aboveO (y.frontier ((e.read32 (.s 6) 0).toNat / 256 % 64) none) (e.read64 (.s 4) 0).toNat)
def nloc (e : Env) : Option Nat := (e.s.findFlow (keyDie e.ck) e.ctxNo ((e.read32 (.s 6) 0).toNat % 16)).map (·.nloc)
def flushedNow (e : Env) : Bool := (e.s.sendAll e.ck e.th 1).1.flushed e.ck (e.s.sendAll e.ck e.th 1).2

theorem witness_TimeInstructions :
    Meets (timeS .none [(4, 6)]) (ruleTimew { tm with a := .s 4 }) (fun e => e.th.place.record = some (taskRec 0 0) ∧ (taskRec 0 0).time < e.read64 (.s 4) 0) ∧
    Meets (timeS .none [(4, 5)]) (ruleTimew { tm with a := .s 4 }) (fun e => e.th.place.record = some (taskRec 0 0) ∧ e.read64 (.s 4) 0 = (taskRec 0 0).time) ∧
    Meets (timeS .none [(4, 4)]) (ruleTimew { tm with a := .s 4 }) (fun e => e.th.place.record = some (taskRec 0 0) ∧ e.read64 (.s 4) 0 < (taskRec 0 0).time) ∧
    Meets (stewF [(6, 0x302), (4, 5)]) (rulePcnt { tm with imm := 1 }) (fun e => nloc e = some 8 ∧ code e = some false ∧ e.ctxNo = 1) ∧
    Meets (stewF [(6, 0x302), (4, 4)]) (rulePcnt { tm with imm := 0xFFFFF }) (fun e => nloc e = some 8 ∧ code e = some true) ∧
    Meets (stewF [(6, 0x302), (4, 4)]) (rulePcnt { tm with imm := 1 }) (fun e => nloc e = some 8 ∧ code e = some true) ∧
    Meets (timeS .none []) (rulePflush fs) (fun e => flushedNow e = true) ∧
    Meets ((timeS .none []).modComb 0 fun c => { c with groups := c.groups.map fun x => (x.1, { x.2 with batches := [⟨2, 1, [⟨3, 6, false, 1⟩]⟩] }) }) (rulePflush fs) (fun e => flushedNow e = false) ∧
    (∀ r ∈ [ruleCrest tm, ruleCwait tm], Meets (timeS .none [(6, 0x302), (4, 4)]) r fun e => nloc e = some 8 ∧ code e = some true) ∧
    (∀ r ∈ [ruleCrest tm, ruleCwait tm], Meets (timeS .none [(6, 0x702)]) r fun e => nloc e = some 8 ∧ (e.read32 (.s 6) 0).toNat / 256 % 64 = 7) ∧
    Meets (timeS .none [(6, 0x302), (4, 5)]) (ruleCwait tm) (fun e => nloc e = some 8 ∧ code e = some false) ∧
    (∀ r ∈ [ruleCrest tm, ruleCwait tm], Meets (timeS .none [(6, 0x802)]) r fun e => nloc e = some 8 ∧ (e.read32 (.s 6) 0).toNat / 256 % 64 = 8) := by
  refine ⟨?_, ?_, ?_, ?_, ?_, ?_, ?_, ?_, meets_all (by decide +kernel), meets_all (by decide +kernel), ?_, meets_all (by decide +kernel)⟩ <;> exact meets (by decide +kernel)

/-- A subscription record at time 5 and (flow 2, location 3) with its action, name and bank, then a task record (R413). -/
def subRec (act name bank : Nat) : List Byte := leBytes 8 5 ++ leBytes 4 (0x302 + act * 2 ^ 16) ++ leBytes 4 name ++ leBytes 4 bank ++ leBytes 44 0 ++ (taskRec 0 0).bytes
def csubS (w : Wait) (bs : List Byte) (h : Word) : State := (timeS w [(4, 0x80000), (5, h)]).putScratch 0 0x80000 bs
def cf' : SForm := { fs with d := .s 8, a := .s 4 }
def hf : SForm := { fs with d := .s 8, a := .s 5 }
def sb (e : Env) (o n : Nat) : List Byte := (List.range n).map fun i => e.s.rawByte (scratchLoc e.ck (0x80000 + o + i))
def nameIs (e : Env) (n : Nat) : Option (Nat × Nat) :=
  match e.s.nameRes (keyDie e.ck) n with
  | .ok p l => some (p, l)
  | _ => none
def subFine (e : Env) : Prop := (e.read32 (.s 4) 0).toNat = 0x80000 ∧ e.th.wait = .none ∧ e.scratchFault 64 64 [(0, 0x80000)] = none ∧ csubBad (sb e 0 64) = false ∧ (e.s.findFlow 0 1 2).map (·.nloc) = some 8 ∧ e.ctxNo = 1

theorem witness_Subscriptions :
    Meets (csubS .none (subRec 0 1 0) 0) (ruleCsub cf') (fun e => subFine e ∧ nameIs e 1 = some (0, 1)) ∧
    Meets (csubS .none (subRec 2 1 15) 0) (ruleCsub cf') (fun e => subFine e ∧ nameIs e 1 = some (0, 1)) ∧
    Meets (csubS .none (subRec 1 0 0) 0) (ruleCsub cf') (fun e => subFine e ∧ e.scratchFault 128 64 [(0, 0x80000)] = none ∧ e.s.recBad 0 1 (sb e 64 64) = false ∧
      (TaskRec.ofBytes (sb e 64 64)).sel = 0 ∧ (TaskRec.ofBytes (sb e 64 64)).time = 5 ∧ applyS flow2.widths (flow2.summary 3 3) 5 = some 5 ∧ e.th.timeBack flow2 3 5 = false) ∧
    Meets (csubS (.answered 4) (subRec 0 1 0) 0) (ruleCsub cf') (fun e => e.th.wait = .answered 4) ∧
    Meets (csubS .none (subRec 3 1 0) 0) (ruleCsub cf') (fun e => e.th.wait = .none ∧ e.scratchFault 64 64 [(0, 0x80000)] = none ∧ csubBad (sb e 0 64) = true) ∧
    Meets (csubS .none (subRec 1 1 0) 0) (ruleCsub cf') (fun e => e.th.wait = .none ∧ e.scratchFault 64 64 [(0, 0x80000)] = none ∧ leNat (((sb e 0 64).drop 8).take 4) / 2 ^ 16 % 4 = 1 ∧
      e.scratchFault 128 64 [(0, 0x80000)] = none ∧ csubBad (sb e 0 64) = true) ∧
    Meets (csubS .none [] 0x123) (ruleCsubCancel hf) (fun e => e.th.wait = .none ∧ (e.s.die 0).lmap[(e.read32 (.s 5) 0).toNat / 256 % 64]? = some 1 ∧ (e.read32 (.s 5) 0).toNat / 2 ^ 14 % 16 = (e.s.die 0).gen.toNat) ∧
    Meets (csubS (.answered 1) [] 0x123) (ruleCsubCancel hf) (fun e => e.th.wait = .answered 1) ∧
    Meets (csubS .none [] 0x3FFFF) (ruleCsubCancel { hf with a := .s 5 }) (fun e => (e.s.die 0).lmap[(e.read32 (.s 5) 0).toNat / 256 % 64]? = none) ∧
    Meets (csubS .none [] 0x4123) (ruleCsubCancel hf) (fun e => e.th.wait = .none ∧ (e.s.die 0).lmap[(e.read32 (.s 5) 0).toNat / 256 % 64]? = some 1 ∧ (e.read32 (.s 5) 0).toNat / 2 ^ 14 % 16 ≠ (e.s.die 0).gen.toNat) ∧
    Meets (csubS .none [] 0x40000) (ruleCsubCancel hf) (fun e => 2 ^ 18 ≤ (e.read32 (.s 5) 0).toNat) := by
  unfold subFine; and_intros <;> exact meets (by decide +kernel)

/-- The steward about to load a flow image; its page is in the TLB. -/
def imgS (w : Wait) (a : Word) (bs : List Host.Cell) : State := { State.reset with
  cur := some (.steward 0 0), ctxs := [(1, loadCtx)], hbm := bs,
  combs := [(0, { Comb.reset with
    dtlb := [⟨1, 0, 65536, loadFrame + 0xF⟩]
    steward := { Steward.reset with ctx := some 1, th := { Thread.reset with wait := w, s := [(4, a), (6, 2)] } } })] }
/-- At 0x2000: widths 16 each, one location, die 0 (R402). -/
def img : List Host.Cell := [(0x42000, 16), (0x42001, 16), (0x42002, 16), (0x42003, 16), (0x4200C, 1), (0x42010, 1)]
def psf : SForm := { fs with d := .s 8, a := .s 4, b := .s 6 }
def imgStatus (e : Env) : Option Nat :=
  match e.laneAccs .read (fun _ => 4160) 1 false [(0, (e.read64 (.s 4) 0).toNat)] with
  | .error _ => none
  | .ok as =>
    if e.s.stores.any fun st => decide (st.agentUid = e.th.uid) && overlaps st.locs (as.flatMap (·.locs)) then none
    else
      let bs := (as.flatMap (·.locs)).map e.s.byteNow
      some (e.s.flowStatus bs (Flow.ofImage e.ctxNo ((e.read32 (.s 6) 0).toNat % 16) bs))

theorem witness_FlowImages :
    Meets (imgS .none 0x2000 img) (rulePswr psf) (fun e => e.th.wait = .none ∧ imgStatus e = some 0) ∧
    Meets (imgS (.answered 0) 0x2000 img) (rulePswr psf) (fun e => e.th.wait = .answered 0) ∧
    Meets (imgS .none 0x4000 []) (rulePswr psf) (fun e => e.th.wait = .none ∧ imgStatus e = some 1) ∧
    Meets (imgS .none 0x2020 []) (rulePswr psf) (fun e => e.th.wait = .none ∧ okAccs (e.laneAccs .read (fun _ => 4160) 1 false [(0, 0x2020)]) = true ∧ (e.read64 (.s 4) 0).toNat % 64 ≠ 0) := by
  and_intros <;> exact meets (by decide +kernel)

/-- Tree 3 of the die: a root with a local input alone, 32 words summed (R425). -/
def tree (ctx mask : Nat) : Tree := ⟨ctx, 0, mask, 0, 6, 32, 0, [], none, none⟩
def treeS (ctx mask : Nat) : State := (sregs [(4, 0x80000), (6, 0x80080)]).setTree 0 3 (tree ctx mask)
def nf : SForm := { fs with d := .s 8, a := .s 4, b := .s 6, imm := 3 }

theorem witness_Reductions :
    Meets (treeS 1 1) (ruleNred nf) (fun e => e.s.tree (keyDie e.ck) 3 = some (tree 1 1) ∧ e.ctxNo = 1 ∧ (tree 1 1).mask.testBit 0 = true ∧ e.s.nredOf (keyDie e.ck) 3 = none ∧
      e.scratchFault 128 128 [(0, 0x80000), (0, 0x80080)] = none) ∧
    Meets base (ruleNred { nf with a := .s 2, b := .s 2 }) (fun e => e.s.tree (keyDie e.ck) 3 = none) ∧
    Meets (treeS 1 2) (ruleNred nf) (fun e => e.s.tree (keyDie e.ck) 3 = some (tree 1 2) ∧ (tree 1 2).mask.testBit 0 = false) := by
  and_intros <;> exact meets (by decide +kernel)

/-- A ring record of two members, two slots of 1 KiB and four steps at 0x4000, in flow 2 at location 3 (R431). -/
def ringBytes (succ : Nat) : List Byte := leBytes 4 7 ++ [2, 0, 2, 1] ++ leBytes 4 1024 ++ leBytes 4 4 ++ leBytes 8 0x4000 ++ leBytes 8 5 ++ leBytes 4 0x30302 ++ leBytes 4 succ ++ leBytes 4 2 ++ leBytes 20 0
def ring (present : List Nat) : Ring :=
  { ctx := 1, num := 1, comb := 0, key := 7, members := 2, idx := 0, slots := 2, cons := 1, bytes := 1024, nstep := 4, base := 0x4000, t0 := 5, flow := 2, loc := 3, pk := 0, succ := 1, pred := 2, sub := 0, present := present, counted := 1, lo := 0, dones := [], grants := [], forwarded := [], posted := [], inbound := [], refused := [], lost := [], stopped := false }
def ringS (w : Wait) (succ : Nat) (rs : List Ring) : State := ((timeS w [(4, 0x80000)]).putScratch 0 0x80000 (ringBytes succ)).modDie 0 fun d => { d with rings := rs }
def wf : SForm := { fs with d := .s 8, a := .s 4, imm := 1 }
def rb (e : Env) : List Byte := (List.range 64).map fun i => e.s.rawByte (scratchLoc e.ck (0x80000 + i))
def peerIs (e : Env) (o : Nat) : Option Nat :=
  match ringPeer e.s (keyDie e.ck) (leNat (((rb e).drop o).take 4)) with
  | .ok p => some p
  | .error _ => none
def soundRing (e : Env) : Bool := decide (e.th.wait = .none) && (e.scratchFault 64 64 [(0, 0x80000)]).isNone && !ringBad (rb e) (e.ringOf 1 (rb e)) && !e.ringLeaves (rb e) (e.ringOf 1 (rb e)) &&
  decide (peerIs e 36 = some 1) && decide (peerIs e 40 = some 2)

theorem witness_RingCreation :
    Meets (ringS .none 1 []) (ruleWring wf) (fun e => soundRing e = true ∧ e.ringCode (e.ringOf 1 (rb e)) 1 2 = 0) ∧
    Meets (ringS .none 1 [ring []]) (ruleWring wf) (fun e => soundRing e = true ∧ e.ringCode (e.ringOf 1 (rb e)) 1 2 = 1) ∧
    Meets (ringS (.answered 3) 1 []) (ruleWring wf) (fun e => e.th.wait = .answered 3) ∧
    Meets (ringS .none 1024 []) (ruleWring wf) (fun e => e.th.wait = .none ∧ e.scratchFault 64 64 [(0, 0x80000)] = none ∧ peerIs e 36 = none ∧ leNat (((rb e).drop 36).take 4) = 2 ^ 10) ∧
    Meets ((ringS .none 1 []).putScratch 0 0x80004 [1]) (ruleWring wf) (fun e => e.th.wait = .none ∧ e.scratchFault 64 64 [(0, 0x80000)] = none ∧ ringBad (rb e) (e.ringOf 1 (rb e)) = true) := by
  and_intros <;> exact meets (by decide +kernel)

def wr (sub : BitVec 6) : SForm := { fs with d := .s 8, a := .s 4, b := .s 6, sub := sub, imm := 1 }
/-- The ring with step 0 present; numbers or addresses in s4 and s6. -/
def inRing (a b : Word) : State := (timeS .none [(4, a), (6, b)]).modDie 0 fun d => { d with rings := [ring [0]] }
def theRing (e : Env) : Prop := (e.s.die (keyDie e.ck)).ring e.ctxNo 1 = some (ring [0])
def inRingS (ps : List Pass) : State := ((strmX []).modDie 0 fun d => { d with rings := [ring [0]], flows := [flow2] }).modComb 0 fun c => { c with passes := ps }

theorem witness_RingInstructions :
    Meets base (ruleWringClose { wr 0 with a := .v 0, b := .v 0 }) (fun e => (e.s.die (keyDie e.ck)).ring e.ctxNo 1 = none) ∧
    Meets (inRing 0 0) (ruleWringClose { wr 0 with a := .v 0, b := .v 0 }) (fun e => theRing e) ∧
    Meets (inRing 0x80000 2) (ruleWpost { wr 1 with d := .v 0 }) (fun e => theRing e ∧ (ring [0]).origin 2 = true ∧ (e.read32 (.s 6) 0).toNat = 2 ∧ e.scratchFault 1024 1 [(0, (e.read32 (.s 4) 0).toNat)] = none) ∧
    Meets (inRing 0x100 2) (ruleWpost { wr 0 with d := .v 0 }) (fun e => theRing e ∧ (e.read32 (.s 6) 0).toNat = 2 ∧
      (let parts := sectorsOf (e.read64 (.s 4) 0).toNat 1024
       okAccs (e.laneAccs .read (fun k => (parts.getD k (0, 0)).2) 1 false ((List.range parts.length).zip (parts.map (·.1)))) = true)) ∧
    (∀ n ∈ [1, 4], Meets (inRing 0x80000 n) (ruleWpost { wr 1 with d := .v 0 }) fun e => theRing e ∧ e.read32 (.s 6) 0 = n) ∧
    (∀ n ∈ [0, 1, 2], Meets (inRing n 0) (ruleWtake { wr 0 with b := .v 0 }) fun e => theRing e ∧ e.read32 (.s 4) 0 = n) ∧
    Meets (inRing 0 0) (ruleWdone { wr 0 with d := .v 0, b := .v 0 }) (fun e => theRing e ∧ (ring [0]).doneBad (e.read32 (.s 4) 0).toNat = false ∧ e.ag.isStream = false ∧ (e.s.comb e.ck).ops = [] ∧
      e.s.releaseDone e.ck e.th.uid 3 e.s.nextUid = true) ∧
    (∀ ps ∈ [[], [pass]], Meets (inRingS ps) (ruleWdone { wr 0 with d := .v 0, b := .v 0 }) fun e => theRing e ∧ (ring [0]).doneBad (e.read32 (.s 4) 0).toNat = false ∧ e.ag.isStream = true ∧ (e.s.comb e.ck).passes = ps ∧
      e.s.releaseDone e.ck e.th.uid 3 e.s.nextUid = true ∧ (Sparse.find? (e.s.comb e.ck).seqs 0).any (fun x => x.deferred.isEmpty) = true) ∧
    (∀ n ∈ [1, 2], Meets (inRing n 0) (ruleWdone { wr 0 with d := .v 0, b := .v 0 }) fun e => theRing e ∧ e.read32 (.s 4) 0 = n) ∧
    (∀ r ∈ [ruleWpost { wr 1 with d := .v 0 }, ruleWtake { wr 0 with b := .v 0 }, ruleWdone { wr 0 with d := .v 0, b := .v 0 }], Meets (timeS .none []) r fun e => (e.s.die (keyDie e.ck)).ring e.ctxNo 1 = none) := by
  unfold theRing
  refine ⟨?_, ?_, ?_, ?_, ?_, ?_, ?_, ?_, ?_, meets_all (by decide +kernel)⟩
  all_goals (try simp only [List.mem_cons, List.not_mem_nil, or_false, forall_eq_or_imp, forall_eq])
  all_goals (and_intros <;> exact meets (by decide +kernel))

/-! ## Witnesses of the events of cores, memory, messages and work -/

def aG : Agent := .group 0 0 0
def thOf (s : State) (a : Agent) (p : Thread → Bool) : Bool :=
  match s.thread a with
  | some th => p th
  | none => false
def fetches (s : State) (ok : Bool) : Bool :=
  match s.thread aG with
  | none => false
  | some th => !th.stopped && match s.fetch aG th with
    | .ok _ => ok
    | .error _ => !ok

/-- A stream whose PC no page maps. -/
def strmLost (s : State) : Bool :=
  let a := Agent.stream 0 0 0
  thOf s a fun th => !th.stopped && a.isStream && match s.fetch a th with
    | .ok _ => false
    | .error _ => true
theorem witness_CoreEvents :
    ((onC fun c => c).icFill 0 [0x41000]).arbitrate (combKey 0 0) 0 = some 0 ∧ fetches base true = true ∧ fetches (onT fun t => { t with pc := 0x20000 }) false = true ∧
    (let s := waitingT (.release 2) base; thOf s aG fun th => decide (th.wait = .release 2) && s.releaseDone (agentKey aG) th.uid 2 s.nextUid) = true ∧
    (let s := strm.modComb 0 fun c => { c with seqs := c.seqs.map fun q => (q.1, { q.2 with th := { q.2.th with pc := 0x20000 } }) }
      let s' := s.modComb 0 fun c => { c with overflow := List.replicate 3584 (rec1 none) }
      strmLost s = true ∧ (s.comb 0).canPost = true ∧ strmLost s' = true ∧ (s'.comb 0).canPost = false) := by
  and_intros <;> decide +kernel

/-- Two groups of a core; and one of them in the middle of its run. -/
def two (n : Nat) : State := (onC fun c => { c with groups := [(0, loadThread), (1, { loadThread with uid := 2, runLen := n })] }).icFill 0 [0x41000]
/-- The group of the higher priority is ready 5 clk later. -/
def later : State := (onC fun c => { c with groups := [(0, loadThread), (1, { loadThread with uid := 2, issueAt := 5, place := { loadThread.place with prio := 7 } })] }).icFill 0 [0x41000]
theorem witness_ArbitrationOrder :
    (two 0).arbitrate 0 0 = some 0 ∧ ((two 0).readyGroups 0 0).map (·.1) = [0, 1] ∧ (two 3).arbitrate 0 0 = some 1 ∧ ((two 3).readyGroups 0 0).map (·.1) = [0, 1] ∧
    later.arbitrate 0 0 = some 0 ∧ (later.readyGroups 0 0).map (·.1) = [0, 1] ∧ (∀ g ∈ later.readyGroups 0 0, g.2.runLen = 0) := by
  and_intros <;> decide +kernel

def opOf (k : OpKind) (cls : Nat) : AsyncOp := ⟨9, aG, 1, 1, 1, cls, 0, none, 0, false, false, k, 0, []⟩
def withOp (op : AsyncOp) (s : State) : State := s.modComb 0 fun c => { c with ops := [op] }
theorem witness_OperationCompletes : let op := opOf (.values []) 0; let s := withOp op (onT fun t => { t with uncov := [⟨9, 0, 8, [], false, []⟩] })
    (s.comb 0).ops[0]? = some op ∧ op.finished s = true ∧ (s.comb 0).isOldest op = true ∧ op.due ≤ (s.comb 0).clk ∧ (s.comb 0).canPost = true ∧ agentKey op.owner = 0 ∧
    thOf s aG (fun th => decide (th.uid = op.ownerUid)) = true ∧ thOf (s.completeOp 0 op) aG (fun _ => true) = true := by decide +kernel

def line : Line := ⟨0xFFFFFFFF, 1, [(0, 7)], 1, none⟩
def tline : TileLine := ⟨⟨0, 1, 0, [0, 0]⟩, 0, List.replicate 256 none, 0, 0, [], 1⟩
def ruCopy : CopyOp := ⟨0x121, [], false, true, none, 0, [], [], none, false, false⟩
def cached : State := { base with l2 := [(0x800, line)], tiles := [tline] }
/-- A die with a REPLICATED page of frame 0x50000 in its TLB. -/
def repl : State := base.modDie 0 fun d => { d with dtlb := [⟨1, 0x10000, 65536, 0x50000 + 0x83⟩] }
def isLeaf (x : WalkRes) : Bool :=
  match x with
  | .leaf _ => true
  | _ => false

theorem witness_MemoryEvents :
    (storing.stores.any fun st => storing.storeReady st) = true ∧ ({ base with fills := [⟨0x800, none, 0⟩] } : State).fills[0]? = some ⟨0x800, none, 0⟩ ∧
    (let f : Fill := ⟨0, some (tline.tile, 3), 0⟩; let s : State := { base with fills := [f] }; s.fills[0]? = some f ∧ s.fillWaits f = false) ∧
    cached.l2[0]? = some (0x800, line) ∧ line.pin = none ∧ cached.tiles[0]? = some tline ∧ cached.fills = [] ∧
    ((repl.die 0).dtlb.any fun e => decide ((⟨e.base, e.size, e.leaf⟩ : Leaf).place = 2) && decide ((⟨e.base, e.size, e.leaf⟩ : Leaf).frame / 2 ^ 16 = 0x51234 / 2 ^ 16)) = true ∧
    (repl.die 0).live = true ∧ repl.noMemory 0x51234 = false ∧
    (let s := withOp (opOf (.copy ruCopy) 1) base; (s.comb 0).ops[0]? = some (opOf (.copy ruCopy) 1)) ∧
    ((Sparse.find? base.ctxs 1).any fun cr => isLeaf (base.walk cr 0x1000)) = true := by decide +kernel

theorem witness_Lines : Sparse.find? cached.l2 0x800 = some line ∧ (∀ i < 32, cached.badAt (32 * 0x800 + i) 1 = false) ∧ (∃ loc, loc < hostBase ∧ cached.wordValid (loc / 4) = true) :=
  ⟨by decide +kernel, by decide +kernel, 0x40001, by decide +kernel, by decide +kernel⟩

/-- A message in its place; die 5 dead; logical comb 3 of die 0 moved in this generation. -/
def msg (name : Word) (st : MsgStage) (b : MsgBody) : Msg := ⟨9, 0x1C8, 1, 0, 0, some 1, name, true, st, b⟩
def sent (m : Msg) : State := { (base.modDie 5 fun d => { d with live := false }).modDie 0 (fun d => { d with gen := 2, cmap := [(3, ⟨4, 2, true⟩)] }) with msgs := [m] }
def dep : MsgBody := .dep true 0 0 none none

theorem witness_MessageRouting :
    (∀ m ∈ [msg 0x4001 .outbound dep, msg 0x8001 .outbound dep, msg 0xBF01 .outbound dep, msg 0x8001 (.mesh 5) dep, msg 0x4003 (.mesh 0) dep, msg 0x8003 (.mesh 0) dep, msg 0x80FF (.mesh 0) (.task (taskRec 0 0) none none)],
      (sent m).msgs[0]? = some m ∧ (sent m).behind 0 m = false) ∧
    (0x4001 / 2 ^ 14 % 16 ≠ ((sent (msg 0x4001 .outbound dep)).die 0).gen.toNat) ∧ (0x8001 / 2 ^ 14 % 16 = ((sent (msg 0x8001 .outbound dep)).die 0).gen.toNat) ∧
    ((sent (msg 0x8001 .outbound dep)).die 0).lmap[0x8001 / 256 % 64]? = some 0 ∧ 0xBF01 / 2 ^ 14 % 16 = 2 ∧ ((sent (msg 0xBF01 .outbound dep)).die 0).lmap[0xBF01 / 256 % 64]? = none ∧ ((sent (msg 0x8001 (.mesh 5) dep)).die 5).live = false ∧
    (sent (msg 0x4003 (.mesh 0) dep)).movedSince 0 3 1 = true ∧ (sent (msg 0x8003 (.mesh 0) dep)).movedSince 0 3 2 = false := by decide +kernel

theorem witness_DiscardedSpawn : let op := opOf (.message (some 0x88) (some 9)) 3; ((withOp op base).comb 0).ops = [op] ∧ op.uid = 9 ∧ op.kind = .message (some 0x88) (some 9) := by decide +kernel

/-- A message of each kind at comb 0; the same of a frozen context; a task that finds no room. -/
def atComb (b : MsgBody) : Msg := msg 0 (.arrived 0 0) b
def arriving (b : MsgBody) : State := { (fifo true []) with msgs := [atComb b] }
def kinds : List (MsgBody × (MsgBody → Bool)) := [(.task (taskRec 0 0) none none, MsgBody.isTask), (.task (taskRec 0 0) (some 4) none, MsgBody.isCounted), (dep, MsgBody.isDep),
  (.push true 6 [ent 5], MsgBody.isPush), (.packet 6 (ent 5), MsgBody.isPacket), (.advance 6 9, MsgBody.isAdvance), (.record (rec1 none), MsgBody.isRecord)]
def fullQueue (s : State) : State := s.modComb 0 fun c => { c with ready := List.replicate 256 ⟨1, taskRec 0 0, 1, 0, 0⟩, freshSlot := 1024 }
def parkedS (m : Msg) : State := base.modComb 0 fun c => { c with parked := [m] }

theorem witness_MessageArrivals :
    (kinds.all fun x => let s := arriving x.1; decide (s.firstAt 0 0 x.2 = some (0, atComb x.1)) && !s.mustPark 0 (atComb x.1) && ((s.dropMsg 0).enter 0 (atComb x.1)).isSome) = true ∧
    ((kinds.take 6).all fun x => ((arriving x.1).modDie 0 fun d => { d with frozen := [1] }).mustPark 0 (atComb x.1)) = true ∧
    ((kinds.take 2).all fun x => let s := fullQueue (arriving x.1); !s.mustPark 0 (atComb x.1) && ((s.dropMsg 0).enter 0 (atComb x.1)).isNone && x.1.spills) = true ∧
    (let m := atComb dep; let s := parkedS m; (s.comb 0).parked.find? (fun m => !s.isFrozen 0 m.ctx) = some m ∧ ((s.setComb 0 { s.comb 0 with parked := (s.comb 0).parked.erase m }).enter 0 m).isSome) := by
  and_intros <;> decide +kernel

theorem witness_EnteredEntries : ∀ o ∈ [true, false], ((fifo o []).comb 0).bank 6 = { Bank.ofMode .fifo with owner := 1, ord := o, bound := 8 } := by decide +kernel

theorem witness_FifoOrder : let b := Bank.ofMode .fifo
    b.ents.length + [ent 5].length ≤ b.capacity ∧ b.spilled = [] ∧ ({ b with spilled := [ent 5] } : Bank).spilled ≠ [] := by decide

/-- A task in the ready queue; a team that is done; a claim; a commit. -/
def readyTask : State := onC fun c => { c with ready := [⟨7, taskRec 0 0, 1, 0, 0⟩] }
def doneS (grid : Option Nat) : State := { (teamT fun t => { t with live := 0, grid := grid }) with
  grids := [{ num := 5, ctx := 1, entry := 0x1000, param := 0, prio := 0, count := 20, ring := [0], doneAddr := 0, doneVal := 0, recAddr := 0, waiting := false, retired := 0, lost := 0, launched := 0 }] }
def claims : State := { (doneS (some 5)).modDie 0 (fun d => { d with forage := [(0, ⟨0, 0, 1, 5, 20, 12⟩)] }) with kernels := [⟨1, 0x1000, [(1, 16)], 1, 0, none⟩] }

/-- A commit of the group on slot 0 with some entries: a local DEPSET of slot 0, and a release store that a write of the task holds up. -/
def depEnt : CommitEnt := ⟨0x1C8, 16, 0, [0, 0], []⟩
def relEnt : CommitEnt := ⟨0x101, 16, 0, [0, 32, 2, 3], []⟩
def committing (s : State) (es : List CommitEnt) : State := { s with commits := [⟨0, 0, loadThread, es, 5⟩] }
def commitAt (s : State) (p : State → Commit → Bool) : Bool := s.commits[0]?.any (p s)

theorem witness_WorkEvents :
    ((readyTask.nextTask 0).isSome = true ∧ readyTask.taskFirst 0 = true) ∧
    (((claims.firstGrid 0).any fun g => decide (g.num = 5) && !claims.taskFirst 0 && !claims.keepsFree 0 && (claims.claimDie g.num 0 37 0).isSome) = true) ∧
    (∀ g ∈ [none, some 5], (Sparse.find? ((doneS g).comb 0).teams 1).any (fun t => decide (t.grid = g) && ((doneS g).comb 0).teamDone 1 t && !(doneS g).isFrozen 0 t.ctx) = true) ∧
    ((doneS (some 5)).grids.find? (fun (g : Grid) => g.num = 5)).isSome = true ∧
    commitAt (committing base [depEnt]) (fun s c => decide (c.ents = [depEnt]) && s.entReady c depEnt && ((s.comb c.key).groups.find? (fun g => decide (g.2.uid = c.th.uid))).isSome) = true ∧
    commitAt (committing { storing with nextUid := 9 } [relEnt]) (fun s c => decide (c.ents = [relEnt]) && !s.entReady c relEnt) = true ∧
    commitAt (committing base []) (fun _ c => c.ents.isEmpty) = true := by
  and_intros <;> decide +kernel

theorem witness_StartedTask : ((readyTask.comb 0).freeRun 1).isSome = true := by decide +kernel
theorem witness_FreedTeam : Sparse.find? (base.comb 0).teams 1 = some loadTeam := by decide +kernel

/-! ## Witnesses of the events of the frontier unit, engines, trees and rings -/

def batch (d : List Nat) : Batch := ⟨1, 2, 0, 0, 1, [⟨3, 6, false, 1⟩], d, [0]⟩
def sub2 (a : SubAction) : Sub := ⟨1, 2, 3, 5, a, 0, none⟩
def csubR (c : Option Nat) (b : Option Sub) : State := (withFlow base).modDie 0 fun d => { d with csubs := [⟨9, aG, c, b, false, none, 1⟩] }

theorem witness_FrontierEvents :
    (let s : State := { withFlow base with batches := [batch [0]] }; s.nextBatch 0 = some 0 ∧ s.batches[0]? = some (batch [0])) ∧
    (let s : State := { withFlow base with batches := [batch []] }; s.batches.findIdx? (fun b => b.toAck.contains 0 && !b.toReach.contains 0) = some 0 ∧ s.batches[0]? = some (batch [])) ∧
    (let s := base.modDie 0 fun d => { d with flows := [{ flow2 with spilled := [⟨3, 9, false, 1⟩] }] }; (s.die 0).pending < 1024 ∧ (s.die 0).smallestSpilled = some (0, ⟨3, 9, false, 1⟩)) ∧
    (let s := csubR none (some (sub2 (.post 0 1))); (s.die 0).csubs.find? (s.die 0).csubReady = some ⟨9, aG, none, some (sub2 (.post 0 1)), false, none, 1⟩) ∧
    (let s := csubR (some 0) none; (s.die 0).csubs.find? (s.die 0).csubReady = some ⟨9, aG, some 0, none, false, none, 1⟩) := by decide +kernel

theorem witness_SubscriptionAnswers :
    ((withFlow base).die 0).flow 1 3 = none ∧ ((base.modDie 0 fun d => { d with flows := [{ flow2 with failed := true }] }).die 0).flow 1 2 = some { flow2 with failed := true } ∧
    (let d := (withFlow base).die 0; d.flow 1 2 = some flow2 ∧ d.freeSub = some 0 ∧ (SubAction.post 0 1).isSpawn = false) ∧
    (let d := ((withFlow base).modDie 0 fun d => { d with subs := (List.range 256).map fun n => (n, sub2 (.post 0 1)) }).die 0; d.flow 1 2 = some flow2 ∧ d.freeSub = none) := by
  and_intros <;> decide +kernel

theorem witness_CountsAdd : ∃ es : List CountEnt, es ≠ [] ∧ ∀ x ∈ es, x.delta ≠ 0 := ⟨[⟨3, 5, false, 1⟩], by decide⟩

def prim : Prim := ⟨1, 0, 0, 1, 9, List.replicate 12 0, 0, 0, 0, 0⟩
theorem witness_PrimitiveBinning : ((base.modDie 0 fun d => { d with router := [prim] }).die 0).router = [prim] := by decide +kernel

def tcopy : CopyOp := ⟨0x124, [0x80000, 0x80800, 128, 1, 1], false, false, none, 1, [], [], none, false, false⟩
def gcopy : CopyOp := { tcopy with nums := [0x20000, 0x80800, 128, 0, 1] }
def sectorOk (s : State) (c : CopyOp) : Option Bool :=
  if s.copyReady 0 (opOf (.copy c) 1) c then match s.copySector 0 (opOf (.copy c) 1) c 0 with
    | .ok _ => some true
    | .error _ => some false
  else none
def pausedCopy : CopyOp := { tcopy with paused := some 0x100 }
def transOk (s : State) (va : Nat) : Bool :=
  match s.translate 0 (some 1) va .read with
  | .ok _ => true
  | .error _ => false
def passing (p : Pass) : State := barsS ⟨0, 0, 0⟩ [p]

theorem witness_EngineEvents :
    (let s := passing pass; (s.comb 0).arrayFree = true ∧ (s.comb 0).canPost = true ∧ (s.comb 0).nextPass (s.die 0).frozen = some pass ∧
      ((s.comb 0).seqTeam 0).isSome = true) ∧
    (let p := { pass with running := true }; ((passing p).comb 0).passes.find? ((passing p).passDone 0) = none ∧ ((passing p).comb 0).holder = some p ∧ ((passing p).comb 0).canPost = true ∧
      (((passing p).comb 0).seqTeam 0).any (fun x => decide (((passing p).stepPass 0 x.2.ctx x.1.th.uid p).fault = none)) = true) ∧
    (let p := { pass with running := true, fin := true }; ((passing p).comb 0).passes.find? ((passing p).passDone 0) = some p ∧ (Sparse.find? ((passing p).comb 0).seqs p.seq).isSome = true) ∧
    (let p := { pass with paused := some 0x100 }; ((passing p).comb 0).passes.find? (fun p => decide (p.seq = 0) && p.paused.isSome) = some p ∧ (((passing p).comb 0).seqTeam 0).isSome = true ∧ transOk (passing p) 0x100 = true) ∧
    (let s := withOp (opOf (.copy tcopy) 1) base; (s.comb 0).ops[0]? = some (opOf (.copy tcopy) 1) ∧ sectorOk s tcopy = some true) ∧
    (let s := withOp (opOf (.copy gcopy) 1) base; (s.comb 0).ops[0]? = some (opOf (.copy gcopy) 1) ∧ sectorOk s gcopy = some false) ∧
    (let s := withOp (opOf (.copy pausedCopy) 1) base; (s.comb 0).ops[0]? = some (opOf (.copy pausedCopy) 1) ∧ transOk s 0x100 = true) := by
  and_intros <;> decide +kernel

/-- A node with its local input of round 0, and the result of round 0 on its way down at a node. -/
def full (mask parent : Nat) : Tree := { tree 1 mask with parent := parent, inputs := [⟨0, 0, List.replicate 32 1, 1⟩] }
def down (mask : Nat) : Tree := { tree 1 mask with sent := some 0, result := some (0, List.replicate 32 1, 1) }
def nredOp : AsyncOp := opOf (.nred 3 0 0x80000 0x80080 (some 0x88) none) 2
/-- What a node of the state forms next, after its local input. -/
def node (s : State) (x : Tree) : Option Nat × Bool × Nat := let y := s.takeLocal 0 3 x; (y.next, s.treeFull 0 3 y 0, y.parent)

theorem witness_TreeEvents :
    (let s := base.setTree 0 3 (full 1 0); s.tree 0 3 = some (full 1 0) ∧ node s (full 1 0) = (some 0, true, 0)) ∧
    (let s := (base.setTree 0 3 (full 1 2)).setTree 1 3 (tree 1 17); s.tree 0 3 = some (full 1 2) ∧ node s (full 1 2) = (some 0, true, 2) ∧ neighbour 0 2 = some 1 ∧ s.tree 1 3 = some (tree 1 17)) ∧
    (let s := (base.setTree 0 3 (full 5 0)).setTree 1 3 (tree 1 1); s.tree 0 3 = some (full 5 0) ∧ node s (full 5 0) = (some 0, false, 0)) ∧
    (let s := base.setTree 0 3 (tree 1 1); s.tree 0 3 = some (tree 1 1) ∧ node s (tree 1 1) = (none, false, 0) ∧ (tree 1 1).result = none) ∧
    (let s := (base.setTree 0 3 (down 4)).setTree 1 3 (tree 1 1); s.tree 0 3 = some (down 4) ∧ (down 4).result = some (0, List.replicate 32 1, 1) ∧ (down 4).mask.testBit 2 = true ∧ neighbour 0 2 = some 1 ∧
      s.tree 1 3 = some (tree 1 1) ∧ s.nredOf 0 3 = none ∧ ∀ k, 1 ≤ k → k ≤ 4 → (down 4).mask.testBit k = true → neighbour 0 k ≠ some 6) ∧
    (let s := withOp nredOp (base.setTree 0 3 (down 1)); s.tree 0 3 = some (down 1) ∧ s.nredOf 0 3 = some (0, nredOp)) := by
  refine ⟨?_, ?_, ?_, ?_, ⟨?_, ?_, ?_, ?_, ?_, ?_, ?_⟩, ?_⟩
  case refine_11 =>
    intro k h1 h2 h
    obtain rfl | rfl | rfl | rfl : k = 1 ∨ k = 2 ∨ k = 3 ∨ k = 4 := by omega
    all_goals revert h; decide +kernel
  all_goals decide +kernel

/-- Ring 7 on die 0 with step 0 present and step 1 granted, and its peer on die 1. -/
def member : Ring := { ring [0] with grants := [1], bytes := 4 }
def ringOk (x : Except CopyFault (List Byte)) : Bool :=
  match x with
  | .ok _ => true
  | .error _ => false
def rings (r : Ring) : State := ((withFlow base).modDie 0 fun d => { d with rings := [r] }).modDie 1 fun d => { d with rings := [{ ring [] with idx := 1 }] }

theorem witness_RingEvents :
    (let r := { ring [] with inbound := [(1, [7])] }; ((rings r).die 0).rings[0]? = some r ∧ r.stopped = false) ∧
    (let s := rings member; (s.die 0).rings[0]? = some member ∧ member.forwards 0 = true ∧ member.reaches 1 = true ∧ isPort member.succ = false ∧
      ringOk (s.ringRead 0 1 (member.slotVa 0) 4) = true ∧ ((((s.ringCounts 0 member [(0, -1)]).setRing 0 { member with forwarded := [0] }).die 1).ringOf 7 1).isSome = true) ∧
    (let s := (rings (ring [0])).modDie 0 fun d => { d with grantsWaiting := [(7 * 256 + 1, 1)] }; (s.die 0).grantsWaiting = [(7 * 256 + 1, 1)] ∧ (s.die 0).ringOf 7 1 = some (ring [0]) ∧ (ring [0]).reaches 1 = true) := by
  and_intros <;> decide +kernel

def bcast (b : BcastBody) (d : List Nat) : Bcast := ⟨9, aG, 1, d, b⟩
theorem witness_Acknowledgements :
    (∀ b ∈ [BcastBody.icinv, .tlbinv none none none], ∀ d ∈ [[0], [0, 1]], let s : State := { base with bcasts := [bcast b d] }
      s.bcasts.find? (fun x => x.dies.contains 0 && decide (x.body.isTlbinv = b.isTlbinv)) = some (bcast b d) ∧ ((s.startFreeze 0 b).applyBcast 0 9 b).isSome = true) := by decide +kernel

/-! ## Witnesses of the firmware, the host and the package -/

def rec8 (a : Nat) : EvRec := evRec 8 (some 1) 0x40 (0x300 + a) 0x1000 0 false
def trapped : EvRec := evRec 1 (some 1) 0 2 0x1000 0xFFFFFFFF false
def stewMsgOf (code w2 : Nat) : EvRec := evRec 6 none 0xFF code w2 0 true
/-- The TRAP record of a commit. -/
def commitTrap : EvRec := evRec 1 (some 1) 0xFF 2 0x1000 0 false
def popS (r : EvRec) : State := (onT fun t => { t with stopped := true, undisp := true, trap := { t.trap with tcause := 2 } }).modComb 0 fun c => { c with evq := [r] }
def handled : State := onC fun c => { c with clk := 3000000, steward := { c.steward with handler := some ⟨0, 1, 1, 2, 0x1000, 0, [], 0⟩ } }

theorem witness_FirmwareEvents :
    (∀ r ∈ [trapped, rec8 1, stewMsgOf 5 0x100, stewMsgOf 0x104 1, stewMsgOf 4 1], (popS r).headRecord 0 = some r) ∧ trapped.kind = 1 ∧
    (Sparse.find? (((popS trapped).popRecord 0 trapped).comb 0).groups trapped.src).any (fun th => th.stopped && th.undisp && decide (th.place.ctx = some trapped.ctxid)) = true ∧
    (∀ r ∈ [trapped, rec8 1], (popS r).keeps 0 r = false ∧ (let s := (popS r).modDie 0 fun d => { d with frozen := [1] }; s.headRecord 0 = some r ∧ s.keeps 0 r = true)) ∧
    ((rec8 1).kind = 8 ∧ (rec8 1).w1.toNat / 256 % 4 = 3) ∧ (stewMsgOf 5 0x100).isStewMsg 5 = true ∧
    ((stewMsgOf 0x104 1).isStewMsg 4 = true ∧ (stewMsgOf 0x104 1).w1.getLsbD 8 = true) ∧
    (let r := stewMsgOf 4 1; r.isStewMsg 4 = true ∧ r.w1.getLsbD 8 = false ∧ ((popS r).popRecord 0 r).liveDies.head? = some 0 ∧ ((popS r).popRecord 0 r).lkey 0 0 = 0) ∧
    (let r := commitTrap; r.kind = 1 ∧ r.src = 0xFF ∧ (popS r).headRecord 0 = some r ∧ (popS r).keeps 0 r = false) ∧
    (let r := evRec 10 (some 1) 0xFF 1 0 0 true; (popS r).headRecord 0 = some r ∧ r.forFirmware = false ∧ ∀ x ∈ ((popS r).comb 0).evq, x.forFirmware = false) ∧
    ((handled.comb 0).steward.handler.any fun h => decide (2097152 < (handled.comb 0).clk - h.began)) = true := by decide +kernel

def trapCtx (m : DWord) : State := { base with ctxs := [(1, { loadCtx with causes := m })] }
theorem witness_UserTraps : (Sparse.find? (trapCtx 4).ctxs 1).any (fun x => x.causes.getLsbD 2) = true ∧ (Sparse.find? (trapCtx 0).ctxs 1).any (fun x => !x.causes.getLsbD 2) = true := by decide +kernel

/-- The adapter with its queue of 16 records at 0x100000 and notices, and the record at its head. -/
def hostS (head tail : Nat) : State := { base with adapter := { Adapter.reset with
  qbase := 0x100000, qbaseOk := true, qsize := 16, qsizeOk := true, qhead := head, qtail := tail, nsize := 16, nsizeOk := true, accepted := true, faccept := 0x3F } }

theorem witness_AdapterRegisters :
    (base.hive.state = 3 ∧ base.adapter.qhead = base.adapter.qtail ∧ base.ringFits 0x100000 16 = true ∧ pow2In 4096 16 4096 = true ∧ base.adapter.qbaseOk = false ∧
      base.adapter.queueOpen = false ∧ base.adapter.nhead = base.adapter.ntail ∧ pow2In 65536 16 65536 = true ∧ pow2In 17 16 65536 = false ∧ pow2In 17 16 4096 = false ∧ 65536 ≠ base.adapter.nsize ∧ base.adapter.accepted = false) ∧
    (let ad := (hostS 0 3).adapter; ad.queueOpen = true ∧ ¬ (ad.qhead + 16 + 16 - ad.qtail - 1) % 16 < (15 + 16 - ad.qtail) % 16 ∧ ad.accepted = true ∧ pow2In 16 16 65536 = true ∧ ad.nsize = 16) ∧
    (let ad := (hostS 5 3).adapter; ad.queueOpen = true ∧ (ad.qhead + 16 + 16 - ad.qtail - 1) % 16 < (5 + 16 - ad.qtail) % 16) := by decide +kernel

def flit (k : Nat) (a : Nat) : Flit := ⟨k, 0, 0, 8, a, List.replicate 8 1, 0⟩
def reads (f : Flit) : Flit := { f with payload := [] }
theorem witness_HostAccesses : (∀ k ∈ [1, 3, 4, 5], ∀ link ∈ [0, 1], link < 2 ∧ (base.die (linkDie link)).live = true ∧ (flit k 0x40).seq % 256 = base.adapter.rxSeq.getD link 0 ∧ 0 < (flit k 0x40).len ∧ (flit k 0x40).len ≤ 240) ∧
    (let r : State := { base with adapter := { base.adapter with rxSeq := base.adapter.rxSeq.set 0 1 } }; (r.sendFlit 0 4 0 0 (leBytes 1 0)).hostMay 0x100000 8 = true) ∧
    ({ flit 3 0 with seq := 1 } : Flit).seq % 256 ≠ base.adapter.rxSeq.getD 0 0 ∧ ((flit 5 0).payload.take 8 ≠ [] ∧ (reads (flit 5 0)).payload.take 8 = []) ∧
    [hiveReg 0x100, hiveReg 0x100000, hiveReg 0x700000, hiveReg 0x200000, hiveReg 0x900000, hiveReg 0xA00000] = [.plain, .errors, .steward, .cairn, .pairing, .cap] ∧
    (0x100000 % 2 ^ 12 / 4 < 16 ∧ 0x900000 % 2 ^ 20 / 8 < 48 ∧ 0xA00000 / 2 ^ 12 % 64 < 36 ∧ (300#64).toNat ≤ 360 ∧ 200 ≤ (300#64).toNat ∧ (100#64).toNat < 200 ∧ 360 < (400#64).toNat) ∧
    ([0x000, 0x010, 0x020, 0x040, 0x048, 0x050, 0x058, 0x060, 0x068, 0x070] : List Nat).contains 0x100 = false ∧ 0 < base.adapter.txSeq.length := by decide +kernel
/-- A CRC that a flit passes, one that it fails; and a replay buffer with a flit of each link. -/
theorem witness_FlitCrc : (∃ f : Flit, f.crc = flitCrc f) ∧ ∃ f : Flit, f.crc ≠ flitCrc f :=
  ⟨⟨{ flit 1 0 with crc := flitCrc (flit 1 0) }, rfl⟩, { flit 1 0 with crc := flitCrc (flit 1 0) + 1 }, by simp [flitCrc, flitBytes]⟩
theorem witness_Replay : ∃ ad : Adapter, ∃ pre post g, ad.replay = pre ++ (0, g) :: post ∧ pre ≠ [] ∧ ∀ y ∈ pre, y.1 = 0 → y.2.seq ≠ g.seq :=
  ⟨{ Adapter.reset with replay := [(1, flit 2 0), (0, flit 2 0)] }, [(1, flit 2 0)], [], flit 2 0, rfl, by simp, by simp⟩

def pad (bs : List Byte) : List Byte := bs ++ List.replicate (128 - bs.length) 0
def ctxnewRec (ctx : Byte) : List Byte := pad ([1, ctx, 0, 1, 0, 0, 0, 0] ++ leBytes 8 0x10000 ++ leBytes 32 0 ++ [0])
def gridRec (ctx : Byte) : List Byte := pad ([2, ctx, 0, 1, 0, 0, 0, 0] ++ leBytes 8 0x1000 ++ leBytes 8 0 ++ leBytes 8 20 ++ leBytes 16 0 ++ [0])
def ctxendRec (ctx : Byte) : List Byte := pad [3, ctx]
def treeRec : List Byte := pad ([4, 1, 3, 0, 0, 0, 0, 0] ++ leBytes 8 0x4000)
/-- The nonzero bytes of a list as cells from a location. -/
def cellsAt (loc : Nat) (bs : List Byte) : List Host.Cell := (((List.range bs.length).map (loc + ·)).zip bs).filter fun x => decide (x.2 ≠ 0)
def placed (bs : List Byte) : State := { (hostS 0 1).modComb 0 (fun c => { c with dtlb := [⟨1, 0, 65536, loadFrame + 0xF⟩] }) with hbm := base.hbm ++ cellsAt (loadFrame + 0x4000) (leBytes 8 0x8001002060000020) ++ cellsAt 0x100000 bs }
def recIs (s : State) (bs : List Byte) : Bool := decide (s.launchRec = some (0x100000, bs))

def read (s : State) : State := s.dropL1 s.station
theorem witness_LaunchRecords :
    (recIs (placed (ctxnewRec 2)) (ctxnewRec 2) = true ∧ (read (placed (ctxnewRec 2))).ctxnewBad (ctxnewRec 2) = 0) ∧
    (recIs (placed (ctxnewRec 1)) (ctxnewRec 1) = true ∧ (read (placed (ctxnewRec 1))).ctxnewBad (ctxnewRec 1) ≠ 0) ∧
    (∀ c ∈ [1, 2], recIs (placed (ctxendRec c)) (ctxendRec c) = true ∧ zeroOutside (ctxendRec c) [(0, 2), (4, 1), (32, 16)] = true) ∧
    (Sparse.find? (read (placed (ctxendRec 1))).ctxs 1).isSome = true ∧ (Sparse.find? (read (placed (ctxendRec 2))).ctxs 2).isNone = true ∧
    (let s := placed treeRec; let t := read s; recIs s treeRec = true ∧ (t.earlyReject 4 || !zeroOutside treeRec [(0, 3), (4, 1), (8, 8), (32, 16)] || decide (16 ≤ recField treeRec 2 1)) = false ∧ t.ctxAlive 1 = true ∧
      (t.treeTable 1 0x4000).any t.treeOk = true) ∧
    (let s := (placed (gridRec 1)).startGrids; let g := read s; recIs s (gridRec 1) = true ∧ g.gridBad (gridRec 1) = 0 ∧ g.grids = []) ∧
    (let s := (placed (gridRec 2)).startGrids; recIs s (gridRec 2) = true ∧ (read s).gridBad (gridRec 2) ≠ 0) := by
  and_intros <;> decide +kernel

/-- Three sound images, the second of which may be unsigned or absent; and a package that has measured them. -/
def imageOf (k : Nat) (ok : Bool) : FwImage := ⟨k, 1, shake256 [], [], ok⟩
def found (ok : Bool) : StartFindings := ⟨[imageOf 0 true, imageOf 1 ok, imageOf 2 true], [], []⟩
def hiveS (g : Hive → Hive) : State := { base with hive := g base.hive }
theorem witness_StartsAndPower : verifyErr base.hive.floors (found true) = 0 ∧ verifyErr base.hive.floors (found false) = 4 ∧
    verifyErr [0, 2, 0] (found true) = 5 ∧ verifyErr [0, 0, 0] ⟨[imageOf 0 true], [], []⟩ = 4 ∧
    base.hive.coldOnly = false ∧ measured (found true) = (hiveS fun h => { h with stored := measured (found true) }).hive.stored ∧ measured (found true) ≠ (hiveS fun h => { h with stored := [] }).hive.stored ∧
    (hiveS fun h => { h with coldOnly := true }).hive.coldOnly = true := by
  refine ⟨?_, ?_, ?_, ?_, rfl, rfl, ?_, rfl⟩
  · simp [verifyErr, found, imageOf, image, List.range, List.range.loop, show base.hive.floors = [0, 0, 0] by decide +kernel]
  · simp [verifyErr, found, imageOf, image, List.range, List.range.loop, show base.hive.floors = [0, 0, 0] by decide +kernel]
  · simp [verifyErr, found, imageOf, image, List.range, List.range.loop]
  · simp [verifyErr, imageOf, image, List.range, List.range.loop]
  · simp [measured, hiveS]

def reportNo (n : Nat) : Report := ⟨n, 0, some 0, [], 1, 0, 0, 36, 0, 0⟩
theorem witness_AlarmsAndReports :
    (base.hive.state = 3 ∧ base.hive.seeds.isSome = true ∧ base.hive.nextLeaf < 2 ^ 20 ∧ base.hive.reports = []) ∧
    (let h := { base.hive with reports := [reportNo 0] }; h.state = 3 ∧ h.reports = [reportNo 0]) ∧
    (∀ n ∈ [0, 2 ^ 20], let h := { base.hive with reports := [reportNo 0, reportNo 1], nextLeaf := n }; h.reports = [reportNo 0, reportNo 1] ∧ (n < 2 ^ 20 ∨ 2 ^ 20 ≤ h.nextLeaf)) ∧
    (let h := { base.hive with state := 4 }; h.state ≠ 3 ∧ h.seeds.isSome = true ∧ h.nextLeaf < 2 ^ 20) ∧
    (∀ st ∈ [3, 4], 2 ^ 20 ≤ ({ base.hive with state := st, nextLeaf := 2 ^ 20 } : Hive).nextLeaf ∧ ({ base.hive with state := st, seeds := none } : Hive).seeds = none) ∧
    (let h := { base.hive with reports := [reportNo 1], statuses := [0, 2] }; (∀ r ∈ h.reports, r.num < h.statuses.length) ∧ ∀ r ∈ h.reports, r.num ≠ 0) := by
  and_intros <;> decide +kernel

def handledErr : SramErr := ⟨0, none, false, true⟩
theorem witness_Retirements :
    ((base.die 35).live = true ∧ 35 < 36 ∧ base.oldMessage = false ∧ (base.die 35).missed + 1 < 3 ∧ base.hive.portDown.contains 47 = false ∧ (Sparse.find? (base.die 35).cairn 155).isNone = true) ∧
    (let s := onC fun c => { c with errs := List.replicate 16 handledErr }; (s.comb (combKey 0 0)).errs.all (·.handled) = true ∧ 16 ≤ ((s.comb (combKey 0 0)).errs.filter fun e => !e.corrected).length) ∧ (let s := base.modDie 35 fun d => { d with missed := 2 }; 3 ≤ (s.die 35).missed + 1 ∧ (s.die 35).live = true) ∧
    (∀ x ∈ [none, some 155], let s : State := { base with hive := { base.hive with pending := [(35, x, 3)] } }; (s.combs.all fun c => c.2.errs.all (·.handled)) = true ∧ s.hive.pending = [(35, x, 3)] ∧ s.oldMessage = false ∧ (s.die 35).live = true) := by decide +kernel

/-! ## Witnesses of encoding, steps, issue, frames and memory -/

theorem witness_DecodeEncode : WellFormed (.nop fs) := by unfold WellFormed; decide
theorem witness_EncodeDecode : (match decodeWord 0x1dc00 with | .ok _ => true | .error _ => false) = true := by decide +kernel

def decodes (w : Nat) : Option Bool :=
  let s := State.reset.withFetchWord 96 w
  match s.thread aG with
  | none => none
  | some th => match s.fetch aG th with
    | .error _ => none
    | .ok (_, x) => match decode (leBytes 12 x.toNat) with
      | .ok _ => some true
      | .error _ => some false

theorem witness_StepRunsDecodedInstruction :
    (base.agenda = [] ∧ base.running = true ∧ base.cur = some aG ∧ thOf base aG (fun th => !th.stopped) = true) ∧ decodes 0x1dc00 = some true ∧ decodes (2 ^ 92) = some false ∧
    fetches (onT fun t => { t with pc := 0x20000 }) false = true := by decide +kernel

/-- A thread whose readiness the look moves: its class has drained since. -/
theorem witness_LookingChangesReadinessOnly : ((onT fun t => { t with full := true }).modComb 0 fun c => { c with clk := 9 }).thread aG ≠ (((onT fun t => { t with full := true }).modComb 0 fun c => { c with clk := 9 }).look).thread aG := by
  decide +kernel

/-- No page of the fetch is REPLICATED. -/
def unreplicated (s : State) (va : Nat) : Bool :=
  match s.translate 0 (s.agentCtx aG) va .exec with
  | .ok l => decide (l.place ≠ 2)
  | .error _ => true
theorem witness_FetchedBytes : thOf base aG (fun th => th.waiting.isNone && th.buffered.isNone && unreplicated base th.pc.toNat && unreplicated base (th.pc.toNat + 11) && (match base.fetchLocs 0 (base.agentCtx aG) th.pc.toNat with
    | .ok locs => locs.all fun l => decide (l / 128 = locs.headD 0 / 128) || decide (l / 128 = locs.getLastD 0 / 128)
    | .error _ => false)) = true ∧ (base.comb (agentKey aG)).icache = [] ∧ fetches base true = true := by decide +kernel

/-- Which kind of turn is next. -/
def turnIs (s : State) : Nat :=
  match s.nextTurn with
  | some (.event _) => 1
  | some (.timed _ _ _) => 2
  | some (.carryOn _) => 3
  | none => 0
/-- An agent that waits in a NOP's place. -/
def heldNop : State := (waitingT (.answered 0) base).modComb 0 fun c => { c with groups := c.groups.map fun x => (x.1, { x.2 with held := some 0x1DC00 }) }
theorem witness_StepOfEvents :
    (let s : State := { base with agenda := [.powerLoss] }; s.agenda = [.powerLoss] ∧ s.acts .powerLoss = true) ∧
    (let s : State := { base with agenda := [.grantResend], hive := { base.hive with state := 4 } }; s.acts .grantResend = false) ∧
    (let s : State := { storing with cur := none }; s.agenda = [] ∧ s.running = true ∧ turnIs s = 1) ∧
    (turnIs { base with cur := none } = 2 ∧ turnIs { heldNop with cur := none } = 3 ∧ turnIs State.reset = 0) ∧
    (let s : State := { base with hive := { base.hive with power := false } }; s.agenda = [] ∧ s.hive.power = false) ∧
    (let s : State := { base with hive := { base.hive with state := 4 } }; s.agenda = [] ∧ s.hive.power = true ∧ s.hive.state ≠ 3) := by
  and_intros <;> decide +kernel

theorem witness_EveryInstructionIssues : opForm (.nop fs) = some (0x000, .s fs) := by decide

/-- What an issue of a rule by the group of a state meets. -/
def issueIs (s : State) (r : Rule) (p : Issue → Bool) : Bool := thOf s aG fun th => p (s.issueOf aG th r)
def add : Rule := dataOpRule 0x010 fr false false false true
def uncov (mode : Word) (landed : Bool) (bad : List (Nat × Nat)) : State := onT fun t => { t with mode := mode, uncov := [⟨9, 0, 16, [], landed, bad⟩] }
def busy : State := onC fun c => { c with ops := List.replicate 63 (opOf (.values []) 0) }

theorem witness_IssueChecks :
    issueIs base (rulePswr psf) (fun x => (x.decodeFault (rulePswr psf)).isSome) = true ∧
    (let r := dataOpRule 0x010 { fr with h := { hd with g1 := ⟨false, 1⟩ } } false false false true; issueIs base r (fun x => (x.decodeFault r).isNone && decide (x.env.act = 0)) = true) ∧
    issueIs (uncov 0x11 false []) add (fun x => (x.decodeFault add).isNone && decide (x.env.act ≠ 0) && x.env.th.mode.getLsbD 4 && (hazard x.env.rv x.due (guardUses add.h add.vec ++ add.uses)).isSome) = true ∧
    issueIs (uncov 1 true [(0, 0x100)]) add (fun x => decide (x.env.act ≠ 0) && !x.env.th.mode.getLsbD 4 && !(badLanes x.env.rv add.uses).isEmpty) = true ∧
    issueIs busy (ruleLd fm) (fun x => (x.decodeFault (ruleLd fm)).isNone && decide (x.env.act ≠ 0) && !x.env.th.mode.getLsbD 4 && (badLanes x.env.rv (ruleLd fm).uses).isEmpty && x.mustWait (ruleLd fm)) = true ∧
    issueIs base add (fun x => (x.decodeFault add).isNone && decide (x.env.act ≠ 0) && !x.env.th.mode.getLsbD 4 && (badLanes x.env.rv add.uses).isEmpty && !x.mustWait add) = true := by
  and_intros <;> decide +kernel

theorem witness_DecodeFaults :
    issueIs base (rulePswr psf) (fun x => (rulePswr psf).priv && !x.env.ag.isSteward && !x.env.ag.isStream) = true ∧
    issueIs base (ruleTimew tm) (fun x => !(ruleTimew tm).priv && !(ruleTimew tm).accepts x.env.ag x.env.th) = true ∧
    (let r := dataOpRule 0x010 { fr with d := .p 1 } false false false true; issueIs base r (fun x => r.accepts x.env.ag x.env.th && (r.uses.find? fun u => u.bad false).isSome) = true) ∧
    (let s := onT fun t => { t with budget := 16 }; issueIs s add (fun x => add.accepts x.env.ag x.env.th && (add.uses.find? fun u => u.bad false).isNone && (add.uses.find? fun u => u.range x.env.th.budget).isSome) = true) ∧
    issueIs base add (fun x => add.accepts x.env.ag x.env.th && (add.uses.find? fun u => u.bad false).isNone && (add.uses.find? fun u => u.range x.env.th.budget).isNone) = true := by
  and_intros <;> decide +kernel

theorem witness_RegisterWrites : loadThread.budget = 128 ∧ (0x7F : Nat) < loadThread.budget := by decide
theorem witness_ResultsLand : ∀ t ∈ [4, 5], ∃ th : Thread, th.flights = [⟨5, [⟨0x80, [(0, 7)]⟩], 0, false⟩] ∧ (5 ≤ t ∨ t < 5) := fun t _ =>
  ⟨{ loadThread with flights := [⟨5, [⟨0x80, [(0, 7)]⟩], 0, false⟩] }, rfl, Nat.lt_or_ge t 5 |>.symm.imp id id⟩
theorem witness_TrapTaken : (base.comb (agentKey aG)).evq.length < 512 ∧ loadThread.doomed = none := by decide +kernel
theorem witness_RegisterInstructionFrame : thOf base aG (fun th => th.doomed.isNone) = true := by decide +kernel

theorem witness_MemoryInstructionFrame : base.cur = some aG ∧ thOf base aG (fun th => th.doomed.isNone) = true ∧
    ∀ r ∈ [ruleLd um, ruleGetv um], Meets mem r fun e => (match e.laneAccs .read (fun _ => 4) 4 false (e.each (e.ea um)) with
      | .ok as => as.all fun a => decide (a.leaf.place ≠ 2) && decide (a.last.place ≠ 2)
      | .error _ => false) = true := ⟨by decide +kernel, by decide +kernel, meets_all (by decide +kernel)⟩

theorem witness_NextPc : (∀ l ∈ loadThread.loops, l.valid = false) ∧
    ∃ th : Thread, ∃ l ∈ th.loops, l.valid = true ∧ l.endPc ≠ th.pc.setWidth 32 ∧ ∀ l ∈ th.loops, l.valid = false ∨ l.endPc ≠ th.pc.setWidth 32 ∨ l.depth ≠ th.cd :=
  ⟨by decide, { loadThread with loops := [⟨0x1000, 0x1018, true, 0, 2⟩] }, ⟨0x1000, 0x1018, true, 0, 2⟩, by decide⟩

def nextOf (o : Host.Outcome State Fault Refusal) : Bool :=
  match o with
  | .next _ => true
  | _ => false
theorem witness_MainMemoryStaysCanonical : Memory.wf State.reset.hbm = true ∧ Memory.wf State.reset.host = true ∧ nextOf (step State.reset) = true ∧
    Memory.wf (State.reset.withFetchWord 96 0x1dc00).hbm = true ∧ nextOf (step (State.reset.withFetchWord 96 0x1dc00)) = true := by decide +kernel
theorem witness_ScratchStaysCanonical : ∀ k, Memory.wf (State.reset.comb k).scratch = true := fun _ => rfl

/-! ## Words of every major, written out from the fields of R71 to R73 and the entries' rules -/

def r0 : RForm := ⟨hd, .v 0, .v 0, .v 0, .v 0, .v 0, 0, 0, 0, 0, 0, 0, none⟩
def m0 : MForm := ⟨hd, .v 0, .v 0, .v 0, .v 0, 0, 0, 0, 0, false, 0, 0⟩

/-- a TRAP with IMM20 5 under q3 and not p2, STALL 4, END. -/
theorem test_decode_trap : decodeTableWord 96 0x1400005000000000000e803 = some (.trap { fs with h := ⟨⟨true, 2⟩, ⟨false, 3⟩, 4, true, false, false⟩, imm := 5 }) := by decide +kernel

/-- RDSR s4, em. -/
theorem test_decode_rdsr : decodeTableWord 96 0x34611dc05 = some (.rdsr { fs with d := .s 4, a := .special .em }) := by decide +kernel

/-- IADD.S8x4.S v3, v1, v2 with patterns 16 and 3. -/
theorem test_decode_iadd_pattern : decodeTableWord 96 0x207074000008040ddc10 = some (.iadd { r0 with d := .v 3, a := .v 1, b := .v 2, ty := 0x1D, apat := 16, bpat := 3, flags := 8 }) := by decide +kernel

/-- LOP3.B32 v127, s63, 1, -1 with the table in v9. -/
theorem test_decode_lop3 : decodeTableWord 96 0x278b86fdfddc24 = some (.lop3 { r0 with d := .v 127, a := .s 63, b := .const .one, c := .const .minusOne, e := .v 9 }) := by decide +kernel

/-- ISETP.U32 p1, v2, IMM32 7, combined with p5, FLAGS 3: the I form. -/
theorem test_decode_isetp : decodeTableWord 96 0x8000000007317140b05dc30 = some (.isetp { r0 with d := .p 1, a := .v 2, c := .p 5, ty := 5, flags := 3, imm := some 7 }) := by decide +kernel

/-- VOTE s1, p2 with FLAGS 2. -/
theorem test_decode_vote : decodeTableWord 96 0x800000000030a05dc41 = some (.vote { r0 with d := .s 1, a := .p 2, flags := 2 }) := by decide +kernel

/-- FFMA.F32 v5, v6, v7, v8 rounding down, S, SAT2 1. -/
theorem test_decode_ffma : decodeTableWord 96 0x68004000201c1815dc53 = some (.ffma { r0 with d := .v 5, a := .v 6, b := .v 7, c := .v 8, ty := 0x10, flags := 10, sat2 := 1 }) := by decide +kernel

/-- RCP.F32 v5, v6, LAND and YLD. -/
theorem test_decode_rcp : decodeTableWord 96 0x6000000400000001815dc60 = some (.rcp { r0 with h := ⟨⟨false, 7⟩, ⟨false, 7⟩, 0, false, true, true⟩, d := .v 5, a := .v 6, ty := 0x10 }) := by decide +kernel

/-- CVT to F16 from S32 (code 6 in E). -/
theorem test_decode_cvt : decodeTableWord 96 0x400441800001815dc70 = some (.cvt { r0 with d := .v 5, a := .v 6, e := .v 6, ty := 0x11, flags := 1 }) := by decide +kernel

/-- BRZ s2, +5 words. -/
theorem test_decode_brz : decodeTableWord 96 0x160801dc81 = some (.brz { fb with a := .s 2, disp := 5 }) := by decide +kernel

/-- LOOP of 0xFFFFFF passes over 3 words. -/
theorem test_decode_loop : decodeTableWord 96 0xbfffffc00000c0001dc95 = some (.loop { fb with disp := 3, aux := 0x2FFFFFF }) := by decide +kernel

/-- WINRD s8 from IMM20 0x1FFFF. -/
theorem test_decode_winrd : decodeTableWord 96 0x1ffff040000000221dca1 = some (.winrd { fs with d := .s 8, sub := 1, imm := 0x1FFFF }) := by decide +kernel

/-- LDSC.ACQ of SIZE 6 at v10 + v11 - 1. -/
theorem test_decode_ldsc : decodeTableWord 96 0xffff00058002c2821dd02 = some (.ldsc { m0 with d := .v 8, a := .v 10, b := .v 11, size := 6, ord := 1, offs := 0xFFFF }) := by decide +kernel

/-- ATOMCAS of SIZE 5, ACQREL at SYS scope. -/
theorem test_decode_atomcas : decodeTableWord 96 0x10004d438302821dd11 = some (.atomcas { m0 with d := .v 8, a := .v 10, b := .v 12, c := .v 14, size := 5, ord := 3, scope := 4, offs := 16 }) := by decide +kernel

/-- COPYL from global to scratch with a barrier: AOP 4. -/
theorem test_decode_copyl : decodeTableWord 96 0x20002322a1a1ddd24 = some (.copyl { m0 with d := .s 7, a := .s 6, b := .s 10, c := .s 12, aop := 4 }) := by decide +kernel

/-- PUTV.REL of SIZE 4, HINT 2, at PKG scope. -/
theorem test_decode_putv : decodeTableWord 96 0x139030002801dd30 = some (.putv { m0 with a := .v 10, c := .v 12, size := 4, ord := 2, scope := 3, hint := 2 }) := by decide +kernel

/-- MMA of pair 9, A and B tensors, Z. -/
theorem test_decode_mma : decodeTableWord 96 0x1a24000002680ddd40 = some (.mma { fs with d := .v 3, a := .s 26, sub := 9, imm := 0x1A }) := by decide +kernel

/-- SPAWN with its handle dropped. -/
theorem test_decode_spawn : decodeTableWord 96 0x213fddd80 = some (.spawn { fs with d := .sink, a := .s 4 }) := by decide +kernel

/-- FPUSH.ord to comb. -/
theorem test_decode_fpush : decodeTableWord 96 0x400420b5801dd91 = some (.fpush { fs with a := .special .comb, b := .s 2, c := .v 16, sub := 1 }) := by decide +kernel

/-- PSWR s8, s4, s6. -/
theorem test_decode_pswr : decodeTableWord 96 0x21a1221dda2 = some (.pswr { fs with d := .s 8, a := .s 4, b := .s 6 }) := by decide +kernel

/-- BARW of barrier 15 with count 255. -/
theorem test_decode_barw : decodeTableWord 96 0xfff040000000001ddc2 = some (.barw { fs with sub := 1, imm := 0xFFF }) := by decide +kernel

/-- PCNT by -1. -/
theorem test_decode_pcnt : decodeTableWord 96 0xffff000002121801ddd4 = some (.pcnt { fs with a := .s 6, b := .s 4, imm := 0xFFFF }) := by decide +kernel

/-- WRING.close of ring 7. -/
theorem test_decode_wring_close : decodeTableWord 96 0x7040000000221dde1 = some (.wringClose { fs with d := .s 8, sub := 1, imm := 7 }) := by decide +kernel

/-- What has no meaning is refused: the top four bits, an undefined major, IMM = 1 outside the R majors, a reserved type. -/
theorem test_decode_refused : ∀ w ∈ [0x10000000000000000001dc00, 0x80000000000000000001dc00, 0x1dff0, 0x1dcb0, 0x8000000000000000001dc00, 0x24000008040ddc10, 0x14001008040ddc10, 0x1dda3, 0x1c00002821dd00], decodeTableWord 96 w = none := by decide +kernel

/-! ## Ill-formed terms: one for each check -/

/-- The R and I forms: a reserved type, a type the entry does not take, an unused C or E, FLAGS, SAT2, HINT, a pattern on an s register or
with no value, and in the I form an entry without one or a field it lacks. -/
theorem test_illformed_r : ∀ i ∈ [Instr.iadd { r0 with ty := 9 }, .iadd { r0 with ty := 0x10 }, .iadd { r0 with ty := 5, c := .v 1 }, .iadd { r0 with ty := 5, e := .v 1 },
    .iadd { r0 with ty := 5, flags := 1 }, .iadd { r0 with ty := 5, sat2 := 1 }, .iadd { r0 with ty := 5, hint := 1 }, .iadd { r0 with ty := 5, a := .s 1, apat := 1 },
    .iadd { r0 with ty := 5, apat := 13 }, .iabs { r0 with ty := 6, b := .v 1 }, .iabs { r0 with ty := 6, imm := some 0 }, .iadd { r0 with ty := 5, b := .v 1, imm := some 0 },
    .mov { r0 with a := .v 1 }, .shl { r0 with flags := 8 }, .isetp { r0 with flags := 7 }, .isetp { r0 with hint := 3 }, .fsetp { r0 with ty := 0x11, imm := some 0 }, .vote { r0 with flags := 4 },
    .gredi { r0 with flags := 0 }, .gscan { r0 with ty := 6, flags := 6 }, .rcp { r0 with ty := 0x10, imm := some 1 }, .cvt { r0 with ty := 0x10, e := .v 0x10 }, .cvt { r0 with ty := 6, e := .v 0x10, sat2 := 1 },
    .pack2 { r0 with ty := 0x13, c := .v 1 }, .unpk2 { r0 with ty := 0x13, hint := 2 }, .cvtmx { r0 with ty := 0x10 }, .qndec { r0 with ty := 0x11 }], staticOk i = false := by decide +kernel

/-- The B form: an unused field, a reserved AUX, a loop below 3 words or with a register beside its constant, a register count. -/
theorem test_illformed_b : ∀ i ∈ [Instr.bra { fb with d := .v 1 }, .bra { fb with a := .v 1 }, .bra { fb with aux := 1 }, .brz { fb with aux := 2 }, .brz { fb with d := .v 1 }, .ret { fb with disp := 0 , d := .v 1 },
    .call { fb with aux := 1 }, .call { fb with a := .s 1 }, .loop { fb with disp := 2, aux := 0x2000001 }, .loop { fb with a := .s 1, aux := 0x2000001 }, .loop { fb with aux := 1 },
    .rgive { fb with disp := 0, aux := 12 }, .rclaim { fb with disp := 0, aux := 128 }], staticOk i = false := by decide +kernel

/-- The M form: SIZE, ORD, SCOPE, HINT, INV with an order, AOP, OFFS, unused registers, a width the operation does not take. -/
theorem test_illformed_m : ∀ i ∈ [Instr.ld { m0 with size := 7 }, .st { m0 with size := 1 }, .ld { m0 with ord := 2 }, .st { m0 with ord := 1 }, .ld { m0 with scope := 5 }, .ldsc { m0 with scope := 2 }, .ld { m0 with hint := 3 },
    .ld { m0 with inv := true, ord := 1 }, .st { m0 with inv := true }, .ld { m0 with aop := 1 }, .ld { m0 with c := .v 1 }, .st { m0 with d := .v 1 }, .fenceAcq { m0 with ord := 1, offs := 1 }, .fenceAcq { m0 with ord := 2 },
    .fenceSc { m0 with ord := 3, scope := 0, aop := 1 }, .cctlIcinv m0, .atom { m0 with size := 3 }, .atom { m0 with size := 4, aop := 15 }, .atom { m0 with size := 5, aop := 9 }, .redv { m0 with size := 4, aop := 8 }, .copyo { m0 with aop := 4 },
    .gather { m0 with size := 1 }, .ccancel { m0 with a := .v 1 }], staticOk i = false := by decide +kernel

/-- The S form: SUB, IMM20, an unused register, a register beside an immediate, and the matrix engine's pair, spaces and rounding. -/
theorem test_illformed_s : ∀ i ∈ [Instr.nop { fs with sub := 1 }, .nop { fs with imm := 1 }, .nop { fs with d := .v 1 }, .nop { fs with a := .v 1 }, .nop { fs with b := .v 1 }, .nop { fs with c := .v 1 }, .nop { fs with e := .v 1 },
    .wrsr { fs with sub := 2, a := .s 1 }, .wrsr { fs with imm := 1 }, .winrd { fs with sub := 1, b := .v 1 }, .winrd { fs with imm := 1 }, .bankcfgFifo { fs with sub := 3, imm := 16 }, .mma { fs with sub := 14 },
    .mma { fs with imm := 3 }, .mma { fs with sub := 7, imm := 32 }, .mst { fs with sub := 0x12, imm := 0 }, .mst { fs with sub := 6, imm := 4 }, .mld { fs with sub := 0x15 }, .mbar { fs with imm := 3 }, .barw { fs with sub := 1, imm := 3 },
    .barw { fs with sub := 1, imm := 0x13, a := .s 1 }, .tbinit fs, .tbexp { fs with imm := 1 }, .waitc { fs with imm := 16 }, .depdec fs, .depset { fs with sub := 1, b := .v 1 }, .pcnt fs, .wring { fs with imm := 8 }, .orels { fs with sub := 1 },
    .refill { fs with c := .v 1 }], staticOk i = false := by decide +kernel

/-! ## Single steps on words, with the results the rules give -/

/-- The group after one step on a word with some s registers, every result landed. -/
def ran (w : Nat) (xs : List (Nat × Word)) : Option Thread :=
  let s := State.reset.withFetchWord 96 w
  match step (s.modComb 0 fun c => { c with groups := c.groups.map fun x => (x.1, { x.2 with s := xs }) }) with
  | .next t => (t.thread aG).map fun th => th.settle 1000
  | _ => none

/-- IADD.U32 of 0xFFFFFFFF and 2 is 1 (R114). -/
theorem test_step_iadd_wraps : (ran 0x140002161221dc10 [(4, 0xFFFFFFFF), (5, 2)]).any (fun t => decide (t.raw 0x88 0 = 1)) = true := by decide +kernel

/-- IADD.S32.S of the largest number and 1 stays (R114). -/
theorem test_step_iadd_saturates : (ran 0x2000180002161221dc10 [(4, 0x7FFFFFFF), (5, 1)]).any (fun t => decide (t.raw 0x88 0 = 0x7FFFFFFF)) = true := by decide +kernel

/-- ISUB.U32 s4, s5, s4: the operands are read before the result is written. -/
theorem test_step_isub_source_is_destination : (ran 0x140002121611dc11 [(4, 3), (5, 10)]).any (fun t => decide (t.raw 0x84 0 = 7)) = true := by decide +kernel

/-- IMULHI.S32 of -1 and 1 is -1. -/
theorem test_step_imulhi_signed : (ran 0x180002161221dc13 [(4, 0xFFFFFFFF), (5, 1)]).any (fun t => decide (t.raw 0x88 0 = 0xFFFFFFFF)) = true := by decide +kernel

/-- 1.0 + 2.0 = 3.0 in F32. -/
theorem test_step_fadd : (ran 0x400002161221dc50 [(4, 0x3F800000), (5, 0x40000000)]).any (fun t => decide (t.raw 0x88 0 = 0x40400000)) = true := by decide +kernel

/-- an infinity minus itself is the canonical NaN 0x7FC00000. -/
theorem test_step_fadd_nan : (ran 0x400002121221dc51 [(4, 0x7F800000)]).any (fun t => decide (t.raw 0x88 0 = 0x7FC00000)) = true := by decide +kernel

/-- BRZ of 0 goes 5 words on (R69). -/
theorem test_step_brz_taken : (ran 0x161001dc81 []).any (fun t => decide (t.pc = 0x1000 + 20)) = true := by decide +kernel

/-- BRZ of 1 goes to the next instruction (R68). -/
theorem test_step_brz_falls : (ran 0x161001dc81 [(4, 1)]).any (fun t => decide (t.pc = 0x100C)) = true := by decide +kernel

/-- BRA by -12 bytes. -/
theorem test_step_bra_back : (ran 0x3fffff40001dc80 []).any (fun t => decide (t.pc = 0xFF4)) = true := by decide +kernel

/-- TRAP stops the group at its PC with its cause (R110, R178). -/
theorem test_step_trap : (ran 0x5000000000001dc03 []).any (fun t => t.stopped && decide (t.trap.tcause = BitVec.ofNat 32 codeTRAPI) && decide (t.trap.tpc = 0x1000) && decide (t.trap.tval = 5)) = true := by decide +kernel

/-- a word of no instruction traps ILLOP (R81). -/
theorem test_step_illop : (ran 0x1dff0 []).any (fun t => t.stopped && decide (t.trap.tcause = BitVec.ofNat 32 codeILLOP)) = true := by decide +kernel

/-- a guard that does not hold leaves the register as it was. -/
theorem test_step_guarded_off : (ran 0x140002161221c410 [(4, 1), (5, 2), (8, 9)]).any (fun t => decide (t.raw 0x88 0 = 9) && decide (t.pc = 0x100C)) = true := by decide +kernel

end Sys2Proof.Tests
end

section
namespace Sys2Proof.Proofs
open Sys2Proof Sys2Proof.Machine

/-- Settles O60: nothing is listed at reset. -/
theorem resetMemoryCanonical : Obligations.ResetMemoryCanonical :=
  ⟨rfl, rfl, fun ck => congrArg (fun c : Comb => Memory.wf c.scratch) (State.comb_reset ck)⟩

/-- Reading a byte after it is written, and any other byte. -/
theorem readAfterWrite : Claim.ReadAfterWrite := fun s loc _ b =>
  ⟨rawByte_setRaw_self s loc b, rawByte_setRaw_ne s b⟩

/-- Keys put one after another with one value: each of them holds it, and every other key what it held. -/
theorem find?_putAll {α : Type} (x : α) (i : Nat) (ks : List Nat) (m : List (Nat × α)) :
    Sparse.find? (ks.foldl (fun m k => Sparse.put m k x) m) i = if i ∈ ks then some x else Sparse.find? m i := by
  induction ks generalizing m with
  | nil => simp
  | cons k ks ih =>
    rw [List.foldl_cons, ih]
    by_cases hi : i = k
    · subst hi
      simp [Sparse.find?_put_self]
    · simp [Sparse.find?_put_ne m x hi, hi]

theorem grantedScratch : Claim.GrantedScratch := by
  intro c gs key a
  refine ⟨fun h => ?_, fun h => ?_, fun g h => ?_⟩
  · exact (scratch_grant c gs key a).trans (by simp [h])
  · exact (scratch_grant c gs key a).trans (by simp [h])
  · exact (find?_putAll (key + 1) g gs c.alloc).trans (if_pos h)

theorem littleEndian : Claim.LittleEndian := fun n x => ⟨leNat_leBytes n x, leBytes_length n x⟩

theorem scratchStaysCanonical : Claim.ScratchStaysCanonical := by
  intro s ck loc b bs c gs key t h
  exact ⟨fun k => wf_scratch_setRaw s loc b k h, fun k => wf_putScratch s ck loc bs k h,
    fun hc => ⟨wf_grant c gs key hc, wf_freeTeam c key t hc⟩⟩

/-- Settles O57, part by part: bytes read as written, granted scratch, little-endian numbers, and scratch's canonical form. -/
theorem memoryReads : Obligations.MemoryReads :=
  ⟨readAfterWrite, grantedScratch, littleEndian, scratchStaysCanonical⟩

end Sys2Proof.Proofs
end

section
namespace Sys2Proof.Proofs
open Sys2Proof Sys2Proof.Machine

/-! ## Multiply-add of zero and infinity (R59) -/

/-- The product of a zero and an infinity is invalid, whichever comes first (R57). -/
theorem mulV_zero_inf {a b : FV} (h : ∃ n e m, (a = .num n 0 e ∧ b = .inf m) ∨ (a = .inf m ∧ b = .num n 0 e)) :
    mulV a b = none ∧ a.isNan = false ∧ b.isNan = false := by
  obtain ⟨n, e, m, ⟨rfl, rfl⟩ | ⟨rfl, rfl⟩⟩ := h <;> exact ⟨rfl, rfl, rfl⟩

/-- Without SAT2 an encoding is delivered as it is (R55). -/
theorem clamp_zero (fm : Fmt) (bits : Nat) : fm.clamp 0 bits = bits := by
  unfold Fmt.clamp
  cases fm.decode bits <;> rfl

theorem nanpick_of_not_nan (fm : Fmt) {v : FV} (vs : List FV) (hv : v.isNan = false) : fm.nanpick (v :: vs) = fm.nanpick vs := by
  cases v with
  | nan neg sig m => cases hv
  | _ => rfl

/-- A NaN that stands after two operands that are none is the one that is picked (R7). -/
theorem nanpick_third (fm : Fmt) {a b : FV} (ha : a.isNan = false) (hb : b.isNan = false) (neg sig : Bool) (m : Nat) :
    fm.nanpick [a, b, .nan neg sig m] = fm.quiet neg m := by
  rw [nanpick_of_not_nan fm _ ha, nanpick_of_not_nan fm _ hb]
  rfl

/-- The result and the flags of multiply-add where the product is invalid and no factor is a NaN. -/
theorem fma_of_invalid_product (fm : Fmt) (o : FOpt) (np nc : Bool) {a b : FV} (c : FV)
    (hp : mulV a b = none) (ha : a.isNan = false) (hb : b.isNan = false) :
    fm.fma o np nc a b c = ((fm.finish o [a, b, c] none).1, (fm.finish o [a, b, c] none).2 ||| excNV) := by
  simp [Fmt.fma, hp, ha, hb]

theorem zeroTimesInfinity : Claim.ZeroTimesInfinity := by
  intro fm o np nc a b c _ hsat hzi
  obtain ⟨hp, ha, hb⟩ := mulV_zero_inf hzi
  rw [fma_of_invalid_product fm o np nc c hp ha hb]
  refine ⟨?_, ?_, fun hc => ?_⟩
  · exact BitVec.eq_of_getLsbD_eq fun i _ => by simpa using Or.inr
  · rintro neg sig m rfl
    have hn : (FV.nan neg sig m).isNan = true := rfl
    simp [Fmt.finish, ha, hb, hn, hsat, clamp_zero, nanpick_third]
  · simp [Fmt.finish, ha, hb, hc, hsat, clamp_zero]

/-! ## The trap after an enabled flag (R9) -/

/-- The lanes that fault, of results given lane by lane. -/
theorem faulting_each (mode : Word) (lanes : List Nat) (g : Nat → BitVec 5) :
    faulting mode (lanes.map fun i => (i, g i)) = (lanes.filter fun i => decide (g i &&& trapEnables mode ≠ 0)).map fun i => (i, g i) := by
  rw [faulting, List.filter_map]
  rfl

/-- Of results given lane by lane, a lane is among those that fault if its own flags are enabled. -/
theorem faulting_any {mode : Word} {lanes : List Nat} {g : Nat → BitVec 5} {i : Nat} (hi : i ∈ lanes) :
    ((faulting mode (lanes.map fun i => (i, g i))).any fun b => b.1 = i) = decide (g i &&& trapEnables mode ≠ 0) := by
  rw [faulting_each, List.any_map, Bool.eq_iff_iff, List.any_eq_true, decide_eq_true_iff]
  constructor
  · rintro ⟨j, hj, he⟩
    obtain rfl : j = i := of_decide_eq_true he
    exact of_decide_eq_true (List.mem_filter.1 hj).2
  · exact fun h => ⟨i, List.mem_filter.2 ⟨hi, decide_eq_true h⟩, decide_eq_true rfl⟩

/-- The lanes that are written are those that raise no enabled flag. -/
theorem written_each (mode : Word) (lanes : List Nat) (g : Nat → BitVec 5) :
    ((lanes.map fun i => (i, g i)).filter fun p => !((faulting mode (lanes.map fun i => (i, g i))).any fun b => b.1 = p.1)).map (·.1) =
      lanes.filter fun i => decide (g i &&& trapEnables mode = 0) := by
  rw [List.filter_map, List.map_map]
  refine (List.map_id _).trans (List.filter_congr fun i hi => ?_)
  rw [Function.comp_apply, faulting_any hi, decide_not, Bool.not_not]

/-- What an instruction that raises flags leaves when a lane raises an enabled one: every flag, a trap that names the lanes
that raised it, and the writes of the others. -/
theorem fpDone_traps (e : Env) (d : Spec) (g : Nat → BitVec 5) (mk : List Nat → List RegWrite) (hv : e.vec = true)
    (h : ∃ k ∈ e.lanes, g k &&& trapEnables e.th.mode ≠ 0) :
    ∃ t : TrapInfo, e.fpDone d (e.each g) mk =
        .ok ⟨e.s, e.th, mk (e.lanes.filter fun k => decide (g k &&& trapEnables e.th.mode = 0)), excAll (e.each g), some t, .seq⟩ ∧
      t.cause = codeFPEXC ∧ t.tval = d.code ∧ t.mask = laneMask (e.lanes.filter fun k => decide (g k &&& trapEnables e.th.mode ≠ 0)) := by
  refine ⟨fpTrap e d (faulting e.th.mode (e.each g)), ?_, rfl, rfl, ?_⟩
  · have hbad : (faulting e.th.mode (e.each g)).isEmpty = false := by
      obtain ⟨k, hk, hg⟩ := h
      rw [Env.each, faulting_each, List.isEmpty_eq_false_iff]
      exact List.ne_nil_of_mem (List.mem_map_of_mem (List.mem_filter.2 ⟨hk, decide_eq_true hg⟩))
    rw [Env.fpDone, hbad, Env.each, written_each]
    rfl
  · rw [fpTrap, hv, if_pos rfl, Env.each, faulting_each, List.map_map]
    exact congrArg laneMask (List.map_id _)

/-- What a floating-point instruction computes in a lane, and the flags it raises there (R143, R145). -/
def fpResult (f : RForm) (g : FOpt → Fmt → Nat → Nat → Nat → Nat × Exc) (e : Env) (i : Nat) : Nat × Exc :=
  fpLane f.typ e.ftz (g (e.fopt f.flags f.sat2.toNat) (fmtOf f.typ)) (e.a32 f i).toNat (e.b32 f i).toNat (e.c32 f i).toNat

theorem fpOp_eq (s : State) (op : Nat) (f : RForm) (three : Bool) (g : FOpt → Fmt → Nat → Nat → Nat → Nat × Exc) :
    fpOp s op f false three true true 6 g = issue s (fpOpRule op f false three true true 6) fun e =>
      e.fpDone f.d (e.each fun i => (fpResult f g e i).2) fun good =>
        e.write32 f.d false (good.map fun i => (i, BitVec.ofNat 32 (fpResult f g e i).1)) := rfl

/-- A floating-point instruction of a ready agent of which a lane raises an enabled flag: its effect holds the trap. -/
theorem fpOp_traps (op : Nat) (f : RForm) (three : Bool) (g : FOpt → Fmt → Nat → Nat → Nat → Nat × Exc) {s : State} {a : Agent}
    {th : Thread} (hr : Ready s a th (fpOpRule op f false three true true 6)) (e : Env) (he : e = s.env a th (fpOpRule op f false three true true 6))
    (hv : e.vec = true) (hk : ∃ k ∈ e.lanes, (fpResult f g e k).2 &&& trapEnables e.th.mode ≠ 0) :
    ∃ o : Out, fpOp s op f false three true true 6 g = .next (s.after a th (fpOpRule op f false three true true 6) o) ∧ o.s = s ∧
      o.exc = excAll (e.each fun k => (fpResult f g e k).2) ∧
      (∃ t : TrapInfo, o.trap = some t ∧ t.cause = codeFPEXC ∧ t.tval = f.d.code ∧
        t.mask = laneMask (e.lanes.filter fun k => decide ((fpResult f g e k).2 &&& trapEnables e.th.mode ≠ 0))) ∧
      o.writes = e.write32 f.d false ((e.lanes.filter fun k => decide ((fpResult f g e k).2 &&& trapEnables e.th.mode = 0)).map
        fun k => (k, BitVec.ofNat 32 (fpResult f g e k).1)) := by
  obtain ⟨t, ht, hc, hd, hm⟩ := fpDone_traps e f.d (fun k => (fpResult f g e k).2)
    (fun good => e.write32 f.d false (good.map fun i => (i, BitVec.ofNat 32 (fpResult f g e i).1))) hv hk
  have hs : e.s = s := by rw [he, env_s]
  refine ⟨⟨e.s, e.th, _, _, some t, .seq⟩, ?_, hs, rfl, ⟨t, rfl, hc, hd, hm⟩, rfl⟩
  rw [fpOp_eq, issue_ready hr, ← he, ht]
  rfl

theorem exec_fadd (f : RForm) (s : State) :
    exec (.fadd f) s = fpOp s 0x050 f false false true true 6 fun o fm a b _ => fm.add o (fm.decode a) (fm.decode b) := rfl

theorem exec_fmul (f : RForm) (s : State) :
    exec (.fmul f) s = fpOp s 0x052 f false false true true 6 fun o fm a b _ => fm.mul o (fm.decode a) (fm.decode b) := rfl

theorem exec_ffma (f : RForm) (s : State) :
    exec (.ffma f) s = fpOp s 0x053 f false true true true 6 fun o fm a b c => fm.fma o false false (fm.decode a) (fm.decode b) (fm.decode c) := rfl

theorem enabledFlagTraps : Claim.EnabledFlagTraps := by
  intro f lane tr
  have of_fpOp (i : Instr) (op : Nat) (three : Bool) (g : FOpt → Fmt → Nat → Nat → Nat → Nat × Exc)
      (he : ∀ s, exec i s = fpOp s op f false three true true 6 g) : tr i (fpOpRule op f false three true true 6) g := by
    intro s a th hr hv hk
    rw [he]
    exact fpOp_traps op f three g hr _ rfl hv hk
  exact ⟨of_fpOp _ _ false (fun o fm a b _ => fm.add o (fm.decode a) (fm.decode b)) (exec_fadd f),
    of_fpOp _ _ false (fun o fm a b _ => fm.mul o (fm.decode a) (fm.decode b)) (exec_fmul f),
    of_fpOp _ _ true (fun o fm a b c => fm.fma o false false (fm.decode a) (fm.decode b) (fm.decode c)) (exec_ffma f)⟩

/-- Settles O7: the corners of multiply-add (R59), and the trap of an enabled flag after the other lanes are written (R9). -/
theorem floatCornersAndTraps : Obligations.FloatCornersAndTraps := ⟨zeroTimesInfinity, enabledFlagTraps⟩

end Sys2Proof.Proofs
end

section
namespace Sys2Proof.Proofs
open Sys2Proof Sys2Proof.Machine

/-! # Main memory and host memory (R1, R230)

First what leaves both as they are (`memory_…`), one lemma for each operation on the machine, then what writes them and keeps their
canonical form (`canonical_…`). The equations are proved `by rfl`, not by `rfl` as a term, so that `simp` uses them as rewriting rules
inside the hypotheses of other lemmas. -/

/-- The contents of main memory and of host memory. -/
def memory (s : State) : List Host.Cell × List Host.Cell := (s.hbm, s.host)

@[simp] theorem memory_mk (agenda : List Instr) (cur : Option Agent) (freeN nextUid combs dies hbm host badWords l2 tiles fills stores acks
    msgs batches bcasts ctxs kernels grids adapter hive journal commits images) :
    memory ⟨agenda, cur, freeN, nextUid, combs, dies, hbm, host, badWords, l2, tiles, fills, stores, acks, msgs, batches, bcasts, ctxs,
      kernels, grids, adapter, hive, journal, commits, images⟩ = (hbm, host) := by rfl

@[simp] theorem hbm_host_eq_memory (s : State) : (s.hbm, s.host) = memory s := by rfl

@[simp] theorem memory_ite (c : Prop) [Decidable c] (s t : State) : memory (if c then s else t) = if c then memory s else memory t :=
  apply_ite memory c s t

@[simp] theorem memory_foldl {α : Type} (f : State → α → State) (h : ∀ s x, memory (f s x) = memory s) (xs : List α) (s : State) :
    memory (xs.foldl f s) = memory s := foldl_keeps memory f h xs s

/-- A fold that carries something beside the machine. -/
theorem memory_foldl_fst {α β : Type} (f : State × β → α → State × β) (h : ∀ p x, memory (f p x).1 = memory p.1) (xs : List α)
    (p : State × β) : memory (xs.foldl f p).1 = memory p.1 := by
  induction xs generalizing p with
  | nil => rfl
  | cons x xs ih => exact (ih _).trans (h p x)

@[simp] theorem memory_setComb (s : State) (ck c) : memory (s.setComb ck c) = memory s := by rfl

@[simp] theorem memory_setDie (s : State) (d x) : memory (s.setDie d x) = memory s := by rfl

@[simp] theorem memory_modComb (s : State) (ck) (f : Comb → Comb) : memory (s.modComb ck f) = memory s := by rfl

@[simp] theorem memory_modDie (s : State) (d) (f : Die → Die) : memory (s.modDie d f) = memory s := by rfl

@[simp] theorem memory_post (s : State) (ck r) : memory (s.post ck r) = memory s := by rfl

@[simp] theorem memory_sendFlit (s : State) (link kind tag addr payload) :
    memory (s.sendFlit link kind tag addr payload) = memory s := by rfl

@[simp] theorem memory_sendRecord (s : State) (ck ctx r) : memory (s.sendRecord ck ctx r) = memory s := by rfl

@[simp] theorem memory_dropGrids (s : State) (ctx) : memory (s.dropGrids ctx) = memory s := by
  unfold State.dropGrids
  simp

@[simp] theorem memory_sendRecords (s : State) (keys ctx r) : memory (s.sendRecords keys ctx r) = memory s := by rfl

@[simp] theorem memory_setBad (s : State) (w k b) : memory (s.setBad w k b) = memory s := by rfl

@[simp] theorem memory_countErr (s : State) (die cls corrected) : memory (s.countErr die cls corrected) = memory s := by rfl

@[simp] theorem memory_countLost (s : State) (die lost) : memory (s.countLost die lost) = memory s := by rfl

@[simp] theorem memory_countWords (s : State) (ws) : memory (s.countWords ws) = memory s :=
  foldl_keeps memory _ (fun _ _ => by split <;> simp) _ _

@[simp] theorem memory_putLine (s : State) (ctx it) : memory (s.putLine ctx it) = memory s := by rfl

@[simp] theorem memory_rewrite (s : State) (mtype items) : memory (s.rewrite mtype items) = memory s := by
  unfold State.rewrite
  simp

@[simp] theorem memory_fillLine (s : State) (k) : memory (s.fillLine k) = memory s := by rfl

@[simp] theorem memory_dropLine (s : State) (k) : memory (s.dropLine k) = memory s := by rfl

@[simp] theorem memory_setTile (s : State) (l) : memory (s.setTile l) = memory s := by rfl

@[simp] theorem memory_allocTile (s : State) (l) : memory (s.allocTile l) = memory s := by
  unfold State.allocTile
  split <;> simp

@[simp] theorem memory_fillTile (s : State) (t sector) : memory (s.fillTile t sector) = memory s := by
  unfold State.fillTile
  split <;> simp

@[simp] theorem memory_dropTile (s : State) (t) : memory (s.dropTile t) = memory s := by rfl

@[simp] theorem memory_tlbNote (s : State) (ck ctx acc l) : memory (s.tlbNote ck ctx acc l) = memory s := by rfl

@[simp] theorem memory_dropL1 (s : State) (ck) : memory (s.dropL1 ck) = memory s := by rfl

@[simp] theorem memory_dropL1Where (s : State) (ck) (p : L1Line → Bool) : memory (s.dropL1Where ck p) = memory s := by rfl

@[simp] theorem memory_startFill (s : State) (f) : memory (s.startFill f) = memory s := by
  unfold State.startFill
  simp

@[simp] theorem memory_fillsFor (s : State) (items) : memory (s.fillsFor items) = memory s := by
  unfold State.fillsFor
  simp

@[simp] theorem memory_serveLanes (s : State) (ck op useL1 acq rs d) : memory (s.serveLanes ck op useL1 acq rs d).1 = memory s := by
  have h := (serveLanes_frame ck op useL1 acq rs s d).1.1
  unfold memory
  rw [h]

@[simp] theorem memory_noteBad (s : State) (ck ctx rs) : memory (s.noteBad ck ctx rs) = memory s := by
  unfold State.noteBad
  simp

@[simp] theorem memory_serveOp (s : State) (ck op) : memory (s.serveOp ck op).1 = memory s := by
  unfold State.serveOp
  dsimp only
  repeat' split
  all_goals simp

@[simp] theorem memory_serveComb (s : State) (ck) : memory (s.serveComb ck) = memory s := by
  unfold State.serveComb
  simp

@[simp] theorem memory_serveAll (s : State) : memory (s.serveAll) = memory s := by
  unfold State.serveAll
  simp

@[simp] theorem memory_storeFills (s : State) (st) : memory (s.storeFills st) = memory s := by
  unfold State.storeFills
  split <;> simp

@[simp] theorem memory_setThread (s : State) (a th) : memory (s.setThread a th) = memory s := by rfl

@[simp] theorem memory_sendBatch (s : State) (die snd ctx f kind ents) : memory (s.sendBatch die snd ctx f kind ents).1 = memory s := by
  unfold State.sendBatch
  simp

@[simp] theorem memory_sendOpen (s : State) (ck ctx th f kind) : memory (s.sendOpen ck ctx th f kind).1 = memory s := by
  unfold State.sendOpen
  split <;> simp

@[simp] theorem memory_sendAll (s : State) (ck th kind) : memory (s.sendAll ck th kind).1 = memory s :=
  memory_foldl_fst _ (fun _ _ => by simp) _ _

@[simp] theorem memory_count (s : State) (ck ctx th f loc t note d) : memory (s.count ck ctx th f loc t note d).1 = memory s := by
  unfold State.count
  dsimp only
  repeat' split
  all_goals simp

@[simp] theorem memory_closeTask (s : State) (ck th) : memory (s.closeTask ck th) = memory s := by
  unfold State.closeTask
  repeat' split
  all_goals simp

@[simp] theorem memory_flushKilled (s : State) (ck) : memory (s.flushKilled ck) = memory s := by
  unfold State.flushKilled
  simp

@[simp] theorem memory_flushAll (s : State) : memory (s.flushAll) = memory s := by
  unfold State.flushAll
  simp

/-- Whatever is done with the thread of a task leaves what it leaves. -/
theorem memory_withTask {s t : State} {ck uid : Nat} {f : Thread → State × Thread} (hf : ∀ th, memory (f th).1 = memory s)
    (h : s.withTask ck uid f = some t) : memory t = memory s := by
  unfold State.withTask at h
  repeat' split at h
  · obtain rfl := Option.some.inj h
    simp [hf]
  · obtain rfl := Option.some.inj h
    simp [hf]
  · cases h

@[simp] theorem memory_freeSlot (s : State) (ck slot th) : memory (s.freeSlot ck slot th) = memory s := by
  unfold State.freeSlot
  dsimp only
  repeat' split
  all_goals simp

@[simp] theorem memory_retire (s : State) (ck slot th) : memory (s.retire ck slot th) = memory s := by
  unfold State.retire
  simp

@[simp] theorem memory_kill (s : State) (ck slot th) : memory (s.kill ck slot th) = memory s := by
  unfold State.kill
  simp

@[simp] theorem memory_killRun (s : State) (ck slot th) : memory (s.killRun ck slot th) = memory s := by
  unfold State.killRun
  simp

@[simp] theorem memory_endIssue (s : State) (a th r t due) : memory (s.endIssue a th r t due) = memory s := by
  unfold State.endIssue
  repeat' split
  all_goals simp

@[simp] theorem memory_endWait (s : State) (a th t) : memory (s.endWait a th t) = memory s := by
  unfold State.endWait
  split <;> simp

@[simp] theorem memory_tick (s : State) (ck t) : memory (s.tick ck t) = memory s := by rfl

@[simp] theorem memory_countTables (s : State) (ck ctx code va) : memory (s.countTables ck ctx code va) = memory s := by
  unfold State.countTables
  simp

@[simp] theorem memory_async (e : Env) (s : State) (th cls scope release kind dsts due inv engine) :
    memory (e.async s th cls scope release kind dsts due inv engine).1 = memory s := by rfl

@[simp] theorem memory_takePort (e : Env) (s : State) (n) : memory (e.takePort s n).1 = memory s := by
  unfold Env.takePort
  split <;> simp

@[simp] theorem memory_answer (s : State) (a agentUid u w) : memory (s.answer a agentUid u w) = memory s := by
  unfold State.answer
  split <;> simp

@[simp] theorem memory_icFill (s : State) (ck locs) : memory (s.icFill ck locs) = memory s := by rfl

@[simp] theorem memory_countFetch (s : State) (ck ctx va code) : memory (s.countFetch ck ctx va code) = memory s := by
  unfold State.countFetch
  repeat' split
  all_goals simp

@[simp] theorem memory_scratchPort (e : Env) (s : State) (lanes) : memory (e.scratchPort s lanes).1 = memory s := by
  unfold Env.scratchPort
  simp

@[simp] theorem memory_addStore (s : State) (ck ctx w release mtype kind op) :
    memory (s.addStore ck ctx w release mtype kind op) = memory s := by rfl

@[simp] theorem memory_storeLane (e : Env) (s : State) (who rel scope a x) : memory (e.storeLane s who rel scope a x) = memory s := by
  unfold Env.storeLane
  simp

@[simp] theorem memory_storeLanes (e : Env) (s : State) (who rel scope n as) (x : Nat → Nat) :
    memory (e.storeLanes s who rel scope n as x) = memory s := by
  unfold Env.storeLanes
  simp

@[simp] theorem memory_atomLanes (e : Env) (s : State) (who op rel scope code as) (d : Nat → Nat) (cmp : Nat → Nat) :
    memory (e.atomLanes s who op rel scope code as d cmp) = memory s := by
  unfold Env.atomLanes
  simp

@[simp] theorem memory_storeElem (s : State) (ck ctx who rel scope n d a cs x) :
    memory (s.storeElem ck ctx who rel scope n d a cs x) = memory s := by
  unfold State.storeElem
  simp

@[simp] theorem memory_engineStore (s : State) (ck op as items) : memory (s.engineStore ck op as items) = memory s := by
  unfold State.engineStore
  simp

@[simp] theorem memory_putScratch (s : State) (ck a bytes) : memory (s.putScratch ck a bytes) = memory s := by rfl

@[simp] theorem memory_modRecvBar (s : State) (ctx r) (f : TxBar → TxBar) : memory (s.modRecvBar ctx r f) = memory s := by
  unfold State.modRecvBar
  split <;> simp

@[simp] theorem memory_loseRecv (s : State) (ctx r done) : memory (s.loseRecv ctx r done) = memory s := by
  unfold State.loseRecv
  simp

@[simp] theorem memory_multicast (s : State) (ctx c k bytes) : memory (s.multicast ctx c k bytes).1 = memory s := by
  refine memory_foldl_fst _ (fun _ _ => ?_) _ _
  dsimp only
  repeat' split
  all_goals simp

@[simp] theorem memory_loseSectors (s : State) (ck op c) : memory (s.loseSectors ck op c) = memory s := by
  unfold State.loseSectors
  repeat' split
  all_goals simp

@[simp] theorem memory_dropReplica (s : State) (die frame size) : memory (s.dropReplica die frame size) = memory s := by
  unfold State.dropReplica
  simp

@[simp] theorem memory_dropReplicas (s : State) (frame size) : memory (s.dropReplicas frame size) = memory s := by
  unfold State.dropReplicas
  simp

@[simp] theorem memory_matAdd (s : State) (ck ctx p as k0 k1) : memory (s.matAdd ck ctx p as k0 k1).1 = memory s := by rfl

@[simp] theorem memory_stampJournal (s : State) (ck) : memory (s.stampJournal ck) = memory s := by
  unfold State.stampJournal
  simp

@[simp] theorem memory_admitRoom (s : State) (ck) : memory (s.admitRoom ck) = memory s := by
  unfold State.admitRoom
  simp

theorem memory_create {s : State} {ck ctx : Nat} {r : TaskRec} {rank : Nat} {x : State × Nat} (h : s.create ck ctx r rank = some x) :
    memory x.1 = memory s := by
  unfold State.create at h
  dsimp only at h
  repeat' split at h
  all_goals cases h
  all_goals rfl

@[simp] theorem memory_send (s : State) (op ck ctx sender t body) : memory (s.send op ck ctx sender t body) = memory s := by rfl

@[simp] theorem memory_finishOp (s : State) (ck u val) : memory (s.finishOp ck u val) = memory s := by rfl

@[simp] theorem memory_answerUid (s : State) (ck uid u w) : memory (s.answerUid ck uid u w) = memory s := by rfl

@[simp] theorem memory_countFor (s : State) (ck uid ctx f loc t d) : memory (s.countFor ck uid ctx f loc t d) = memory s := by
  unfold State.countFor
  split
  · next h => exact memory_withTask (fun _ => by simp) h
  · simp

@[simp] theorem memory_completeDiscarded (s : State) (m) : memory (s.completeDiscarded m) = memory s := by
  unfold State.completeDiscarded
  repeat' split
  all_goals simp

@[simp] theorem memory_discardStale (s : State) (m) : memory (s.discardStale m) = memory s := by
  unfold State.discardStale
  simp

@[simp] theorem memory_dropMsg (s : State) (i) : memory (s.dropMsg i) = memory s := by rfl

@[simp] theorem memory_setMsg (s : State) (i m) : memory (s.setMsg i m) = memory s := by rfl

theorem memory_enterTask {s t : State} {ck : Nat} {m : Msg} {r : TaskRec} {ch answer : Option Nat} (h : s.enterTask ck m r ch answer = some t) :
    memory t = memory s := by
  unfold State.enterTask at h
  split at h
  · cases h
  · next hc =>
    obtain rfl := Option.some.inj h
    dsimp only
    repeat' split
    all_goals simpa using memory_create hc

/-- A dependency operation that is done changes a comb, and the mirror of its task. -/
theorem memory_dep {s t : State} {ck : Nat} {set : Bool} {h : Word} {v : Nat} (hd : s.dep ck set h v = .done t) : memory t = memory s := by
  unfold State.dep at hd
  dsimp only at hd
  repeat' split at hd
  all_goals cases hd
  all_goals simp

@[simp] theorem memory_enterDep (s : State) (ck m set h v answer commit) : memory (s.enterDep ck m set h v answer commit) = memory s := by
  unfold State.enterDep
  cases hd : s.dep ck set h v with
  | done t => cases answer <;> simp [memory_dep hd]
  | under => cases commit <;> cases answer <;> simp
  | bad => cases commit <;> cases answer <;> simp

@[simp] theorem memory_enterAdvance (s : State) (ck ctx bank t) : memory (s.enterAdvance ck ctx bank t) = memory s := by rfl

@[simp] theorem memory_startTask (s : State) (ck e slot) : memory (s.startTask ck e slot) = memory s := by
  unfold State.startTask
  dsimp only
  repeat' split
  all_goals simp

/-- An admission changes a comb, and the count of numbers given. -/
theorem memory_admitTeam {s t : State} {ck : Nat} {g : Grid} {i : Nat} (h : s.admitTeam ck g i = some t) : memory t = memory s := by
  unfold State.admitTeam at h
  dsimp only at h
  repeat' split at h
  all_goals cases h
  all_goals rfl

@[simp] theorem memory_startTeams (s : State) (ck g n i) : memory (s.startTeams ck g n i).1 = memory s := by
  induction n generalizing s i with
  | zero => rfl
  | succ n ih =>
    unfold State.startTeams
    split
    · rfl
    · next h => exact (ih _ _).trans (memory_admitTeam h)

@[simp] theorem memory_setCommit (s : State) (i c) : memory (s.setCommit i c) = memory s := by
  unfold State.setCommit
  simp

@[simp] theorem memory_sendPacket (s : State) (die p t v r) : memory (s.sendPacket die p t v r) = memory s := by
  unfold State.sendPacket
  dsimp only
  repeat' split
  all_goals simp

@[simp] theorem memory_binView (s : State) (die p v) : memory (s.binView die p v) = memory s := by
  unfold State.binView
  dsimp only
  repeat' split
  all_goals simp

@[simp] theorem memory_gkill (s : State) (ck slot th t) : memory (s.gkill ck slot th t) = memory s := by
  unfold State.gkill
  simp

@[simp] theorem memory_installFlow (s : State) (f) : memory (s.installFlow f) = memory s := by
  unfold State.installFlow
  simp

@[simp] theorem memory_setTree (s : State) (die t x) : memory (s.setTree die t x) = memory s := by rfl

@[simp] theorem memory_endNred (s : State) (ck o status) : memory (s.endNred ck o status) = memory s := by
  unfold State.endNred
  split <;> simp

@[simp] theorem memory_abortRound (s : State) (t r) : memory (s.abortRound t r) = memory s := by
  refine foldl_keeps memory _ (fun _ _ => ?_) _ _
  dsimp only
  repeat' split
  all_goals simp

@[simp] theorem memory_abortRounds (s : State) (ctx) : memory (s.abortRounds ctx) = memory s := by
  unfold State.abortRounds
  simp

@[simp] theorem memory_setRing (s : State) (die r) : memory (s.setRing die r) = memory s := by rfl

@[simp] theorem memory_ringCounts (s : State) (die r es) : memory (s.ringCounts die r es) = memory s := by
  unfold State.ringCounts
  split <;> simp

@[simp] theorem memory_ringEvent (s : State) (die r code step) : memory (s.ringEvent die r code step) = memory s := by rfl

@[simp] theorem memory_ringPresent (s : State) (die fuel r) : memory (s.ringPresent die fuel r).1 = memory s := by
  induction fuel generalizing s r with
  | zero => rfl
  | succ fuel ih =>
    unfold State.ringPresent
    dsimp only
    split
    · simp [ih]
    · rfl

@[simp] theorem memory_stepPresent (s : State) (die r n) : memory (s.stepPresent die r n) = memory s := by
  unfold State.stepPresent
  simp

@[simp] theorem memory_sendGrant (s : State) (die r n) : memory (s.sendGrant die r n) = memory s := by
  unfold State.sendGrant
  repeat' split
  all_goals simp

@[simp] theorem memory_firstGrants (s : State) (die r) : memory (s.firstGrants die r) = memory s := by
  unfold State.firstGrants
  simp

@[simp] theorem memory_ringFinish (s : State) (die ctx num fuel) : memory (s.ringFinish die ctx num fuel) = memory s := by
  induction fuel generalizing s with
  | zero => rfl
  | succ fuel ih =>
    unfold State.ringFinish
    repeat' split
    all_goals simp [ih]

@[simp] theorem memory_ringLost (s : State) (die r) : memory (s.ringLost die r) = memory s := by rfl

@[simp] theorem memory_dropPosts (s : State) (die r) : memory (s.dropPosts die r) = memory s := by
  unfold State.dropPosts
  simp

@[simp] theorem memory_wdone (s : State) (die r n) : memory (s.wdone die r n) = memory s := by
  unfold State.wdone
  simp

@[simp] theorem memory_copyRecords (s : State) (ck op c) : memory (s.copyRecords ck op c) = memory s := by
  unfold State.copyRecords
  simp

@[simp] theorem memory_completeOp (s : State) (ck op) : memory (s.completeOp ck op) = memory s := by
  unfold State.completeOp
  repeat' split
  all_goals simp

theorem memory_makeDeferred {s t : State} {ck : Nat} {x : Seq} {d : Deferred} (h : s.makeDeferred ck x d = .ok t) : memory t = memory s := by
  unfold State.makeDeferred at h
  dsimp only at h
  repeat' split at h
  all_goals cases h
  all_goals simp

@[simp] theorem memory_dropIcaches (s : State) (cks) : memory (s.dropIcaches cks) = memory s := by
  unfold State.dropIcaches
  simp

@[simp] theorem memory_dropDescs (s : State) (cks die ctx n) : memory (s.dropDescs cks die ctx n) = memory s := by
  unfold State.dropDescs
  simp

@[simp] theorem memory_dropTlbs (s : State) (die ctx page) : memory (s.dropTlbs die ctx page) = memory s := by
  unfold State.dropTlbs
  simp

@[simp] theorem memory_freezeComb (s : State) (ck ctx) : memory (s.freezeComb ck ctx) = memory s := by
  unfold State.freezeComb
  simp

@[simp] theorem memory_startFreeze (s : State) (die n1) : memory (s.startFreeze die n1) = memory s := by
  unfold State.startFreeze
  split <;> simp

@[simp] theorem memory_pool (s : State) (ck team key) (g : Nat → Nat) : memory (s.pool ck team key g) = memory s := by rfl

@[simp] theorem memory_unitSend (s : State) (die ctx dst lcomb body) : memory (s.unitSend die ctx dst lcomb body) = memory s := by rfl

@[simp] theorem memory_fireSub (s : State) (die n b) : memory (s.fireSub die n b) = memory s := by
  unfold State.fireSub
  repeat' split
  all_goals simp

@[simp] theorem memory_fire (s : State) (die) : memory (s.fire die) = memory s := by
  unfold State.fire
  simp

@[simp] theorem memory_csubAnswer (s : State) (q v) : memory (s.csubAnswer q v) = memory s := by
  unfold State.csubAnswer
  split <;> simp

@[simp] theorem memory_noteHold (s : State) (q b) : memory (s.noteHold q b) = memory s := by
  have task (ck : Nat) (f : Thread → State × Thread) (hf : ∀ th, memory (f th).1 = memory s) (d : State) (hd : memory d = memory s) :
      memory ((s.withTask ck q.issuer f).getD d) = memory s := by
    cases h : s.withTask ck q.issuer f with
    | none => exact hd
    | some t => exact memory_withTask hf h
  unfold State.noteHold
  dsimp only
  repeat' split
  · simp
  all_goals exact task _ _ (fun _ => by simp) _ (by simp)

@[simp] theorem memory_subscribe (s : State) (die q b) : memory (s.subscribe die q b).1 = memory s := by
  unfold State.subscribe
  dsimp only
  repeat' split
  all_goals simp

@[simp] theorem memory_unsubscribe (s : State) (die n) : memory (s.unsubscribe die n).1 = memory s := by
  unfold State.unsubscribe
  repeat' split
  all_goals simp

@[simp] theorem memory_armRing (s : State) (die n b) : memory (s.armRing die n b) = memory s := by
  unfold State.armRing
  repeat' split
  all_goals simp

@[simp] theorem memory_popRecord (s : State) (ck r) : memory (s.popRecord ck r) = memory s := by
  unfold State.popRecord
  split <;> simp

@[simp] theorem memory_callHandler (s : State) (ck slot th ctx x) : memory (s.callHandler ck slot th ctx x) = memory s := by rfl

@[simp] theorem memory_reportTrap (s : State) (ctx t) : memory (s.reportTrap ctx t) = memory s := by rfl

@[simp] theorem memory_clearCtx (s : State) (ck ctx) : memory (s.clearCtx ck ctx) = memory s := by
  unfold State.clearCtx
  simp

@[simp] theorem memory_dropCur (s : State) : memory (s.dropCur) = memory s := by
  unfold State.dropCur
  split <;> simp

@[simp] theorem memory_doorbell (s : State) : memory (s.doorbell) = memory s := by rfl

@[simp] theorem memory_reply (s : State) (link tag bs) : memory (s.reply link tag bs) = memory s := by rfl

@[simp] theorem memory_driverMsg (s : State) (die lcomb v) : memory (s.driverMsg die lcomb v) = memory s := by
  unfold State.driverMsg
  simp

@[simp] theorem memory_clearErr (s : State) (die word) : memory (s.clearErr die word) = memory s := by
  unfold State.clearErr
  simp

@[simp] theorem memory_acked (s : State) (link n) : memory (s.acked link n) = memory s := by
  unfold State.acked
  simp

@[simp] theorem memory_advanceHead (s : State) : memory (s.advanceHead) = memory s := by rfl

@[simp] theorem memory_takeRec (s : State) : memory (s.takeRec) = memory s := by rfl

@[simp] theorem memory_startGrid (s : State) (g num) : memory (s.startGrid g num) = memory s := by
  unfold State.startGrid
  simp

@[simp] theorem memory_startWaiting (s : State) (gs) : memory (s.startWaiting gs) = memory s := by
  induction gs generalizing s with
  | nil => rfl
  | cons g gs ih =>
    unfold State.startWaiting
    repeat' split
    all_goals simp [ih]

@[simp] theorem memory_startGrids (s : State) : memory (s.startGrids) = memory s := by
  unfold State.startGrids
  simp

@[simp] theorem memory_markLoaded (s : State) (num) : memory (s.markLoaded num) = memory s := by rfl

@[simp] theorem memory_unslot (s : State) (ck slot th) : memory (s.unslot ck slot th) = memory s := by rfl

@[simp] theorem memory_writeShadow (s : State) (dies) : memory (s.writeShadow dies) = memory s := by rfl

@[simp] theorem memory_wiped (s : State) : memory (s.wiped) = memory s := by rfl

@[simp] theorem memory_halt (s : State) (err) : memory (s.halt err) = memory s := by rfl

@[simp] theorem memory_powerOff (s : State) : memory (s.powerOff) = memory s := by rfl

@[simp] theorem memory_requeue (s : State) (j ck) : memory (s.requeue j ck) = memory s := by
  unfold State.requeue
  dsimp only
  repeat' split
  all_goals simp

@[simp] theorem memory_loseRange (s : State) (g lo hi) : memory (s.loseRange g lo hi) = memory s := by rfl

@[simp] theorem memory_loseTeams (s : State) (ck) : memory (s.loseTeams ck) = memory s :=
  foldl_keeps memory _ (fun _ _ => by split <;> simp) _ _

@[simp] theorem memory_moveMessages (s : State) (die comb heir) : memory (s.moveMessages die comb heir) = memory s := by
  unfold State.moveMessages
  simp

@[simp] theorem memory_modTree (s : State) (d t) (f : Tree → Tree) : memory (s.modTree d t f) = memory s := by
  unfold State.modTree
  split <;> simp

@[simp] theorem memory_takeBack (s : State) (t r n d) : memory (s.takeBack t r n d) = memory s := by
  induction n generalizing s d with
  | zero => rfl
  | succ n ih =>
    unfold State.takeBack
    dsimp only
    repeat' split
    all_goals simp [ih]

@[simp] theorem memory_adopt (s : State) (t child parent) : memory (s.adopt t child parent) = memory s := by
  unfold State.adopt
  simp

@[simp] theorem memory_clearTree (s : State) (t) : memory (s.clearTree t) = memory s := by
  unfold State.clearTree
  simp

@[simp] theorem memory_reparent (s : State) (t children) : memory (s.reparent t children).1 = memory s := by
  refine memory_foldl_fst _ (fun _ _ => ?_) _ _
  dsimp only
  split <;> simp

@[simp] theorem memory_reverseLinks (s : State) (t ds) : memory (s.reverseLinks t ds) = memory s := by
  induction ds generalizing s with
  | nil => rfl
  | cons a ds ih =>
    cases ds with
    | nil => rfl
    | cons b ds => simp [State.reverseLinks, ih]

@[simp] theorem memory_spreadResult (s : State) (t r) : memory (s.spreadResult t r) = memory s := by
  unfold State.spreadResult
  simp

@[simp] theorem memory_retireTree (s : State) (dead t) : memory (s.retireTree dead t) = memory s := by
  unfold State.retireTree
  dsimp only
  repeat' split
  all_goals simp

@[simp] theorem memory_repairBatches (s : State) (dead) : memory (s.repairBatches dead) = memory s := by
  unfold State.repairBatches
  simp

@[simp] theorem memory_moveForage (s : State) (dead) : memory (s.moveForage dead) = memory s := by
  unfold State.moveForage
  simp only [memory_mk, hbm_host_eq_memory, memory_modDie]
  refine foldl_keeps memory _ (fun _ _ => ?_) _ _
  repeat' split
  all_goals simp

@[simp] theorem memory_rewriteOwners (s : State) (dead) : memory (s.rewriteOwners dead) = memory s := by
  unfold State.rewriteOwners
  simp

@[simp] theorem memory_loseStore (s : State) (st) : memory (s.loseStore st) = memory s := by
  unfold State.loseStore
  split <;> simp

@[simp] theorem memory_loseMemory (s : State) (dead) : memory (s.loseMemory dead) = memory s := by
  unfold State.loseMemory
  simp

@[simp] theorem memory_losePeer (s : State) (peer) : memory (s.losePeer peer) = memory s := by
  unfold State.losePeer
  simp

@[simp] theorem memory_found (s : State) (die comb cause) : memory (s.found die comb cause) = memory s := by rfl

@[simp] theorem memory_mapOut (s : State) (cause) : memory (s.mapOut cause) = memory s := by
  unfold State.mapOut
  simp

/-! ## What writes main memory or host memory -/

/-- The canonical form of main memory and of host memory. -/
def Canonical (m : List Host.Cell × List Host.Cell) : Prop := Memory.wf m.1 = true ∧ Memory.wf m.2 = true

@[simp] theorem canonical_ite (c : Prop) [Decidable c] (m n : List Host.Cell × List Host.Cell) :
    Canonical (if c then m else n) ↔ if c then Canonical m else Canonical n := by split <;> rfl

@[simp] theorem canonical_foldl {α : Type} (f : State → α → State) (hf : ∀ s x, Canonical (memory s) → Canonical (memory (f s x))) (xs : List α)
    {s : State} (h : Canonical (memory s)) : Canonical (memory (xs.foldl f s)) := foldl_inv (fun s => Canonical (memory s)) f hf xs s h

@[simp] theorem canonical_putNotice {s : State} (words) (h : Canonical (memory s)) : Canonical (memory (s.putNotice words)) := by
  unfold State.putNotice
  rw [memory_sendFlit, memory_mk]
  exact ⟨h.1, Sparse.wf_setRun _ _ h.2⟩

@[simp] theorem canonical_notice {s : State} (words) (h : Canonical (memory s)) : Canonical (memory (s.notice words)) := by
  unfold State.notice
  simp [h]

@[simp] theorem canonical_drainNotices {s : State} (n) (h : Canonical (memory s)) : Canonical (memory (s.drainNotices n)) := by
  induction n generalizing s with
  | zero => exact h
  | succ n ih =>
    unfold State.drainNotices
    repeat' split
    all_goals simp [h, ih]

@[simp] theorem canonical_notify {s : State} (kind v1 v2 v3) (h : Canonical (memory s)) : Canonical (memory (s.notify kind v1 v2 v3)) := by
  unfold State.notify
  simp [h]

@[simp] theorem canonical_endContext {s : State} (ctx reason cause pc) (h : Canonical (memory s)) :
    Canonical (memory (s.endContext ctx reason cause pc)) := by
  unfold State.endContext
  split <;> simp [h]

@[simp] theorem canonical_setRaw {s : State} (loc b) (h : Canonical (memory s)) : Canonical (memory (s.setRaw loc b)) :=
  wf_setRaw s loc b h.1 h.2

@[simp] theorem canonical_setHbmWord {s : State} (w x) (h : Canonical (memory s)) : Canonical (memory (s.setHbmWord w x)) :=
  ⟨wf_setHbmWord s w x h.1, h.2⟩

@[simp] theorem canonical_putUncached {s : State} (ctx it) (h : Canonical (memory s)) : Canonical (memory (s.putUncached ctx it)) := by
  unfold State.putUncached
  simp [h]

@[simp] theorem canonical_putBytes {s : State} (ctx mtype items) (h : Canonical (memory s)) :
    Canonical (memory (s.putBytes ctx mtype items)) := by
  unfold State.putBytes
  simp +contextual [h]

@[simp] theorem canonical_wordBack {s : State} (w x) (h : Canonical (memory s)) : Canonical (memory (s.wordBack w x)) := by
  unfold State.wordBack
  simp [h]

@[simp] theorem canonical_writeBackLine {s : State} (k) (h : Canonical (memory s)) : Canonical (memory (s.writeBackLine k)) := by
  unfold State.writeBackLine
  repeat' split
  all_goals simp +contextual [h]

@[simp] theorem canonical_tileWordBack {s : State} (a x) (h : Canonical (memory s)) : Canonical (memory (s.tileWordBack a x)) := by
  unfold State.tileWordBack
  dsimp only
  repeat' split
  all_goals simp [h]

@[simp] theorem canonical_writeBackTile {s : State} (t) (h : Canonical (memory s)) : Canonical (memory (s.writeBackTile t)) := by
  unfold State.writeBackTile
  repeat' split
  all_goals simp +contextual [h]

@[simp] theorem canonical_replicaFetch {s : State} (die reads) (h : Canonical (memory s)) :
    Canonical (memory (s.replicaFetch die reads)) := by
  unfold State.replicaFetch
  dsimp only
  rw [memory_foldl _ fun _ _ => memory_modDie ..]
  exact canonical_foldl _ (fun _ _ h => canonical_foldl _ (fun _ _ h => canonical_tileWordBack _ _ h) _ h) _ h

/-- A write performed at its home keeps the canonical form. -/
theorem canonical_performStore {s t : State} {st : Store} (h : Canonical (memory s)) (ht : s.performStore st = some t) :
    Canonical (memory t) := by
  unfold State.performStore at ht
  dsimp only at ht
  split at ht
  · split at ht
    · obtain rfl := Option.some.inj ht
      simp [h]
    · cases ht
  · split at ht
    · obtain rfl := Option.some.inj ht
      rw [memory_setTile, memory_allocTile, memory_ite, memory_foldl]
      · simpa using h
      · intro s it
        repeat' split
        all_goals simp
    · cases ht
  · split at ht
    · obtain rfl := Option.some.inj ht
      repeat' split
      all_goals simp [h]
    · cases ht

@[simp] theorem canonical_storeHome {s : State} (st) (h : Canonical (memory s)) : Canonical (memory (s.storeHome st)) := by
  unfold State.storeHome
  split
  · next hp => simp [canonical_performStore h hp]
  · simpa using h

@[simp] theorem canonical_endHandler {s : State} (ck how cause pc) (h : Canonical (memory s)) :
    Canonical (memory (s.endHandler ck how cause pc)) := by
  unfold State.endHandler
  dsimp only
  repeat' split
  all_goals simp [h]

@[simp] theorem canonical_takeTrap {s : State} (a th f) (h : Canonical (memory s)) : Canonical (memory (s.takeTrap a th f)) := by
  unfold State.takeTrap
  repeat' split
  all_goals simp [h]

@[simp] theorem canonical_trapAgent {s : State} (a th f) (h : Canonical (memory s)) : Canonical (memory (s.trapAgent a th f)) := by
  unfold State.trapAgent
  simp [h]

@[simp] theorem canonical_fetchNote {s : State} (ck ctx va) (h : Canonical (memory s)) : Canonical (memory (s.fetchNote ck ctx va)) := by
  unfold State.fetchNote
  split
  · exact h
  · refine canonical_foldl _ (fun _ _ h => ?_) _ h
    split <;> simp [h]

/-- The fetch of an instruction keeps the canonical form: it may bring a sector into the die's own copy (R225). -/
theorem canonical_fetch {s t : State} {a : Agent} {th : Thread} {w : InstrWord} (h :
    Canonical (memory s)) (ht : s.fetch a th = .ok (t, w)) :
    Canonical (memory t) := by
  unfold State.fetch at ht
  dsimp only at ht
  repeat' split at ht
  all_goals cases ht
  all_goals simp [h]

@[simp] theorem canonical_illop {s : State} (a th w) (h : Canonical (memory s)) : Canonical (memory (s.illop a th w)) := by
  unfold State.illop
  simp [h]

@[simp] theorem canonical_noteAccs {s : State} (ck ctx acc as) (h : Canonical (memory s)) :
    Canonical (memory (s.noteAccs ck ctx acc as)) := by
  unfold State.noteAccs
  simp [h]

@[simp] theorem canonical_performLast {s : State} (h : Canonical (memory s)) : Canonical (memory (s.performLast)) := by
  unfold State.performLast
  split <;> simp [h]

@[simp] theorem canonical_engineNote {s : State} (ck ctx acc as) (h : Canonical (memory s)) :
    Canonical (memory (s.engineNote ck ctx acc as)) := by
  unfold State.engineNote
  simp [h]

theorem canonical_copyTile {s : State} {ck : Nat} {op : AsyncOp} {c : CopyOp} {k : Nat} {as : List (Nat × Leaf × Nat)}
    {x : State × Option TileRef} (h : Canonical (memory s)) (hx : s.copyTile ck op c k as = .ok x) : Canonical (memory x.1) := by
  unfold State.copyTile at hx
  dsimp only at hx
  repeat' split at hx
  all_goals cases hx
  all_goals simp [h]

theorem canonical_readTileSector {s : State} {ck : Nat} {op : AsyncOp} {c : CopyOp} {k : Nat} {x : State × List Byte}
    (h : Canonical (memory s)) (hx : s.readTileSector ck op c k = .ok x) : Canonical (memory x.1) := by
  unfold State.readTileSector at hx
  dsimp only at hx
  split at hx
  · cases hx
  split at hx
  · cases hx
  next hc =>
  cases hx
  dsimp only
  split <;> simp [canonical_copyTile h hc]

theorem canonical_writeTileSector {s t : State} {ck : Nat} {op : AsyncOp} {c : CopyOp} {k : Nat} {bytes : List Byte}
    (h : Canonical (memory s)) (ht : s.writeTileSector ck op c k bytes = .ok t) : Canonical (memory t) := by
  unfold State.writeTileSector at ht
  split at ht
  · cases ht
  split at ht
  · cases ht
  next hc =>
  dsimp only at ht
  split at ht <;> cases ht <;> simp [canonical_copyTile h hc]

theorem canonical_copylSector {s t : State} {ck : Nat} {op : AsyncOp} {c : CopyOp} {k : Nat}
    (h : Canonical (memory s)) (ht : s.copylSector ck op c k = .ok t) : Canonical (memory t) := by
  unfold State.copylSector at ht
  dsimp only at ht
  split at ht
  · cases ht
  split at ht
  · cases ht
  next s' bytes hr =>
  have hs' : Canonical (memory s') := by
    split at hr
    · cases hr
      exact h
    · split at hr <;> cases hr
      simp [h]
  repeat' split at ht
  all_goals cases ht
  all_goals simp [hs']

theorem canonical_gatherSector {s t : State} {ck : Nat} {op : AsyncOp} {c : CopyOp} {k : Nat}
    (h : Canonical (memory s)) (ht : s.gatherSector ck op c k = .ok t) : Canonical (memory t) := by
  unfold State.gatherSector at ht
  dsimp only at ht
  split at ht <;> cases ht
  simp [h]

@[simp] theorem canonical_engineError {s : State} (ck ctx f) (h : Canonical (memory s)) : Canonical (memory (s.engineError ck ctx f)) := by
  unfold State.engineError
  split <;> simp [h]

@[simp] theorem canonical_copyFault {s : State} (ck op c f) (h : Canonical (memory s)) : Canonical (memory (s.copyFault ck op c f)) := by
  unfold State.copyFault
  simp [h]

theorem canonical_copySector {s : State} {ck : Nat} {op : AsyncOp} {c : CopyOp} {k : Nat} {x : State × CopyOp}
    (h : Canonical (memory s)) (hx : s.copySector ck op c k = .ok x) : Canonical (memory x.1) := by
  unfold State.copySector at hx
  split at hx
  · split at hx <;> cases hx
    next hr => simpa using canonical_readTileSector h hr
  · split at hx <;> cases hx
    next hr => exact canonical_writeTileSector h hr
  · split at hx <;> cases hx
    next hr => simpa using canonical_readTileSector h hr
  · split at hx <;> cases hx
    next hr => exact canonical_gatherSector h hr
  · split at hx <;> cases hx
    next hr => exact canonical_copylSector h hr

theorem canonical_matTiles {s t : State} {ck ctx : Nat} {o : Opnd} {as : List (Nat × Leaf × Nat)} {xys : List (Nat × Nat)}
    (h : Canonical (memory s)) (ht : s.matTiles ck ctx o as xys = .ok t) : Canonical (memory t) := by
  induction xys generalizing s with
  | nil => cases ht; exact h
  | cons xy xys ih =>
    unfold State.matTiles at ht
    dsimp only at ht
    split at ht
    · exact ih h ht
    split at ht
    · split at ht
      · exact ih h ht
      · split at ht
        · cases ht
        · exact ih (by simp [h]) ht
    · exact ih h ht

@[simp] theorem canonical_passFault {s : State} (ck ctx p f) (h : Canonical (memory s)) : Canonical (memory (s.passFault ck ctx p f)) := by
  unfold State.passFault
  simp [h]

@[simp] theorem canonical_stepMma {s : State} (ck ctx p) (h : Canonical (memory s)) : Canonical (memory (s.stepMma ck ctx p).s) := by
  unfold State.stepMma
  extract_lets g s' k0 k1 ea eb bad
  have hs' : Canonical (memory s') := by
    show Canonical (memory (if _ then _ else _))
    simpa using h
  clear_value s'
  split
  · exact hs'
  split
  · exact hs'
  split
  · exact hs'
  split
  · exact hs'
  next h1 =>
  have h1 := canonical_matTiles hs' h1
  split
  · exact h1
  next h2 => simp [canonical_matTiles h1 h2]

@[simp] theorem canonical_stepMld {s : State} (ck ctx p) (h : Canonical (memory s)) : Canonical (memory (s.stepMld ck ctx p).s) := by
  unfold State.stepMld
  dsimp only
  split
  · exact h
  split
  · exact h
  split
  · exact h
  next ht => simp [canonical_matTiles h ht]

@[simp] theorem canonical_stepMst {s : State} (ck ctx owner p) (h : Canonical (memory s)) :
    Canonical (memory (s.stepMst ck ctx owner p).s) := by
  unfold State.stepMst
  dsimp only
  split
  · exact h
  split
  · exact h
  next ht =>
  rw [memory_foldl]
  · simp [canonical_matTiles h ht]
  · intro s e
    repeat' split
    all_goals simp

@[simp] theorem memory_stepRow (s : State) (ck p) : memory (s.stepRow ck p).s = memory s := by
  unfold State.stepRow
  dsimp only
  split <;> simp

@[simp] theorem canonical_stepPass {s : State} (ck ctx owner p) (h : Canonical (memory s)) :
    Canonical (memory (s.stepPass ck ctx owner p).s) := by
  unfold State.stepPass
  split <;> simp [h]

@[simp] theorem canonical_advancePass {s : State} (ck p) (h : Canonical (memory s)) : Canonical (memory (s.advancePass ck p)) := by
  unfold State.advancePass
  split
  · simpa using h
  · dsimp only
    repeat' split
    all_goals simp [h]

@[simp] theorem canonical_failFlow {s : State} (ctx f lost) (h : Canonical (memory s)) : Canonical (memory (s.failFlow ctx f lost)) := by
  unfold State.failFlow
  split
  · refine canonical_notify _ _ _ _ ?_
    have hm (t : State) (ht : Canonical (memory t)) (o : Option Nat) : Canonical (memory (match o with
        | some d => t.sendRecord (t.lkey d 0) ctx (flowFail ctx f lost)
        | none => t)) := by
      cases o <;> simpa using ht
    refine hm _ (canonical_foldl _ (fun s d h => ?_) _ h) _
    split <;> simp [h]
  · exact h

@[simp] theorem canonical_pushBank {s : State} (ck ctx k b es) (h : Canonical (memory s)) :
    Canonical (memory (s.pushBank ck ctx k b es)) := by
  unfold State.pushBank
  simp [h]

@[simp] theorem canonical_discardDead {s : State} (m lost) (h : Canonical (memory s)) : Canonical (memory (s.discardDead m lost)) := by
  unfold State.discardDead
  split <;> simp [h]

theorem canonical_enterPush {s t : State} {ck ctx src : Nat} {ord : Bool} {bank : Nat} {es : List FifoEnt} (h : Canonical (memory s))
    (ht : s.enterPush ck ctx src ord bank es = some t) : Canonical (memory t) := by
  unfold State.enterPush at ht
  dsimp only at ht
  repeat' split at ht
  all_goals cases ht
  all_goals simp [h]

theorem canonical_enter {s t : State} {ck : Nat} {m : Msg} (h : Canonical (memory s)) (ht : s.enter ck m = some t) :
    Canonical (memory t) := by
  unfold State.enter at ht
  split at ht
  · rw [memory_enterTask ht]; exact h
  · cases ht; simpa using h
  · exact canonical_enterPush h ht
  · exact canonical_enterPush h ht
  · obtain ⟨-, hr⟩ := Option.ite_none_right_eq_some.1 ht
    cases hr; simpa using h
  · cases ht; simpa using h

@[simp] theorem canonical_park {s : State} (ck i m) (h : Canonical (memory s)) : Canonical (memory (s.park ck i m)) := by
  unfold State.park
  simp [h]

@[simp] theorem canonical_arrive {s : State} (die comb kind) (h : Canonical (memory s)) : Canonical (memory (s.arrive die comb kind)) := by
  unfold State.arrive
  dsimp only
  split
  · exact h
  split
  · simp [h]
  split
  · next he => simpa using canonical_enter (by simpa using h) he
  · split <;> simp [h]

@[simp] theorem canonical_setStatus {s : State} (rec x) (h : Canonical (memory s)) : Canonical (memory (s.setStatus rec x)) := by
  unfold State.setStatus
  simp [h]

@[simp] theorem canonical_recordDone {s : State} (ctx rec addr val) (h : Canonical (memory s)) :
    Canonical (memory (s.recordDone ctx rec addr val)) := by
  unfold State.recordDone
  dsimp only
  repeat' split
  all_goals simp [h]

@[simp] theorem canonical_finishGrid {s : State} (g) (h : Canonical (memory s)) : Canonical (memory (s.finishGrid g)) := by
  unfold State.finishGrid
  simp [h]

theorem canonical_descriptor {s t : State} {ck : Nat} {ctx : Option Nat} {n : Nat} {d : Desc} (h : Canonical (memory s))
    (ht : s.descriptor ck ctx n = .ok t d) : Canonical (memory t) := by
  unfold State.descriptor tdbad at ht
  dsimp only at ht
  repeat' split at ht
  all_goals cases ht
  all_goals simp [h]

@[simp] theorem canonical_commitEnt {s : State} (c th x more) (h : Canonical (memory s)) :
    Canonical (memory (s.commitEnt c th x more).1) := by
  unfold State.commitEnt
  dsimp only
  split
  · repeat' split
    all_goals simp [h]
  · split
    · next hd =>
      have hd := canonical_descriptor h hd
      split <;> simp [hd]
    · exact h
  all_goals simp [h]

@[simp] theorem canonical_resumeGroup {s : State} (ck slot th skip now) (h : Canonical (memory s)) :
    Canonical (memory (s.resumeGroup ck slot th skip now)) := by
  unfold State.resumeGroup
  simp [h]

@[simp] theorem canonical_ringWrite {s : State} (die r n bytes) (h : Canonical (memory s)) :
    Canonical (memory (s.ringWrite die r n bytes)) := by
  unfold State.ringWrite
  split <;> simp [h]

@[simp] theorem canonical_runDeferred {s : State} (ck q n) (h : Canonical (memory s)) : Canonical (memory (s.runDeferred ck q n)) := by
  induction n generalizing s with
  | zero => exact h
  | succ n ih =>
    unfold State.runDeferred
    dsimp only
    split
    · exact h
    split
    · exact h
    split
    · exact h
    split
    · next hm =>
      refine ih ?_
      rw [memory_modComb, memory_makeDeferred hm]
      exact h
    · split <;> simp [h]

@[simp] theorem canonical_runAllDeferred {s : State} (ck) (h : Canonical (memory s)) : Canonical (memory (s.runAllDeferred ck)) :=
  canonical_foldl _ (fun _ _ h => canonical_runDeferred _ _ _ h) _ h

@[simp] theorem canonical_purge {s : State} (die place frame size iset) (h : Canonical (memory s)) :
    Canonical (memory (s.purge die place frame size iset)) := by
  unfold State.purge
  extract_lets hit s1 tiles s2 s3
  have h1 : Canonical (memory s1) := canonical_foldl _ (fun _ _ h => by simp [h]) _ h
  have h2 : Canonical (memory s2) := canonical_foldl _ (fun _ _ h => by simp [h]) _ h1
  have h3 : memory s3 = memory s2 := memory_foldl _ (fun _ _ => by simp) _ _
  split <;> simp [h2, h3]

/-- What a broadcast does on a die keeps the canonical form: of its bodies only a purge and a TSYNC write lines back. -/
theorem canonical_applyBcast {s t : State} {die uid : Nat} {body : BcastBody} (h : Canonical (memory s))
    (ht : s.applyBcast die uid body = some t) : Canonical (memory t) := by
  unfold State.applyBcast at ht
  dsimp only at ht
  split at ht
  · split at ht <;> cases ht
    split <;> simp [h]
  · cases ht; simpa using h
  · cases ht; simpa using h
  · split at ht
    all_goals
      split at ht <;> cases ht
      rw [memory_foldl _ fun _ _ => by simp]
      exact canonical_foldl _ (fun _ _ h => by simp [h]) _ (by simpa using h)
  · cases ht; simpa using h
  · repeat' split at ht
    all_goals cases ht
    all_goals simpa using h
  · cases ht; simpa using h
  · cases ht; exact h

@[simp] theorem canonical_acknowledge {s : State} (die tlb) (h : Canonical (memory s)) : Canonical (memory (s.acknowledge die tlb)) := by
  unfold State.acknowledge
  split
  · exact h
  next b _ =>
  have hs : Canonical (memory (s.startFreeze die b.body)) := by simpa using h
  dsimp only
  split
  · exact hs
  next ht =>
  have ht := canonical_applyBcast hs ht
  split <;> simp [ht]

@[simp] theorem canonical_handlerRet {s : State} (ck) (h : Canonical (memory s)) : Canonical (memory (s.handlerRet ck)) := by
  unfold State.handlerRet
  dsimp only
  repeat' split
  all_goals simp [h]

@[simp] theorem canonical_spillLimit {s : State} (die) (h : Canonical (memory s)) : Canonical (memory (s.spillLimit die)) := by
  unfold State.spillLimit
  simp +contextual [h]

@[simp] theorem canonical_applyBatch {s : State} (die b) (h : Canonical (memory s)) : Canonical (memory (s.applyBatch die b)) := by
  unfold State.applyBatch
  split <;> simp [h]

@[simp] theorem canonical_userTrap {s : State} (ck slot th ctx) (h : Canonical (memory s)) :
    Canonical (memory (s.userTrap ck slot th ctx)) := by
  unfold State.userTrap
  split <;> simp [h]

@[simp] theorem canonical_dispatchTrap {s : State} (ck slot th ctx) (h : Canonical (memory s)) :
    Canonical (memory (s.dispatchTrap ck slot th ctx)) := by
  unfold State.dispatchTrap
  simp [h]

@[simp] theorem canonical_dispatchStream {s : State} (ck r) (h : Canonical (memory s)) : Canonical (memory (s.dispatchStream ck r)) := by
  unfold State.dispatchStream
  dsimp only
  repeat' split
  all_goals simp [h]

@[simp] theorem canonical_debugResume {s : State} (ck slot replay) (h : Canonical (memory s)) :
    Canonical (memory (s.debugResume ck slot replay)) := by
  unfold State.debugResume
  split <;> simp [h]

@[simp] theorem canonical_eraseCtx {s : State} (ctx x) (h : Canonical (memory s)) : Canonical (memory (s.eraseCtx ctx x)) := by
  unfold State.eraseCtx
  simp +contextual [h]

@[simp] theorem canonical_tornDown {s : State} (die comb ctx) (h : Canonical (memory s)) :
    Canonical (memory (s.tornDown die comb ctx)) := by
  unfold State.tornDown
  dsimp only
  repeat' split
  all_goals simp [h]

@[simp] theorem canonical_reject {s : State} (at' reason) (h : Canonical (memory s)) : Canonical (memory (s.reject at' reason)) := by
  unfold State.reject
  simp [h]

@[simp] theorem canonical_putImage {s : State} (ck ctx x bs body) (h : Canonical (memory s)) :
    Canonical (memory (s.putImage ck ctx x bs body)) := by
  unfold State.putImage
  simp [h]

/-- A start drops the bytes of HBM below the firmware region. -/
@[simp] theorem canonical_zeroHbm {s : State} (h : Canonical (memory s)) : Canonical (memory s.zeroHbm) :=
  ⟨wf_filter _ h.1, h.2⟩

@[simp] theorem canonical_bringUp {s : State} (cold gen err c) (h : Canonical (memory s)) :
    Canonical (memory (s.bringUp cold gen err c)) := by
  unfold State.bringUp
  simp [h]

@[simp] theorem canonical_cold {s : State} (was c) (h : Canonical (memory s)) : Canonical (memory (s.cold was c)) := by
  unfold State.cold
  dsimp only
  repeat' split
  all_goals simp [h]

@[simp] theorem canonical_warm {s : State} (c) (h : Canonical (memory s)) : Canonical (memory (s.warm c)) := by
  unfold State.warm
  simp [h]

@[simp] theorem canonical_loseTask {s : State} (dieLost lost t) (h : Canonical (memory s)) :
    Canonical (memory (s.loseTask dieLost lost t)) := by
  unfold State.loseTask
  simp [h]

@[simp] theorem canonical_requeueAll {s : State} (mine lost target) (h : Canonical (memory s)) :
    Canonical (memory (s.requeueAll mine lost target)) := by
  unfold State.requeueAll
  refine canonical_foldl _ (fun _ _ h => ?_) _ h
  split <;> simp [h]

@[simp] theorem canonical_finishGrids {s : State} (h : Canonical (memory s)) : Canonical (memory (s.finishGrids)) := by
  unfold State.finishGrids
  simp +contextual [h]

@[simp] theorem canonical_loseMessages {s : State} (die comb lost) (h : Canonical (memory s)) :
    Canonical (memory (s.loseMessages die comb lost)) :=
  canonical_foldl _ (fun _ _ h => by simp [h]) _ h

@[simp] theorem canonical_loseComb {s : State} (ck lost heir) (h : Canonical (memory s)) :
    Canonical (memory (s.loseComb ck lost heir)) := by
  unfold State.loseComb
  extract_lets s1 s2 s3 reset s4 s5 s6 s7 s8
  have h1 : Canonical (memory s1) := canonical_foldl _ (fun _ _ h => by simp [h]) _ h
  have h2 : Canonical (memory s2) := by simpa [s2] using h1
  have h3 : Canonical (memory s3) := by
    unfold s3
    split <;> simp [h2]
  have h7 : Canonical (memory s7) := by simpa [s7, s6, s5, s4] using h3
  rw [memory_dropCur]
  exact canonical_foldl _ (fun _ _ h => by simp [h]) _ h7

@[simp] theorem canonical_advance {s : State} (name phys cause) (h : Canonical (memory s)) :
    Canonical (memory (s.advance name phys cause)) := by
  unfold State.advance
  exact canonical_notify _ _ _ _ (canonical_notify _ _ _ _ (by simpa using h))

@[simp] theorem canonical_retireDie {s : State} (die cause) (h : Canonical (memory s)) : Canonical (memory (s.retireDie die cause)) := by
  unfold State.retireDie
  extract_lets name lost combs s1 hive s2 s3 s4 fails s5 s6 s7 s8 s9 out s10 s11 s12 s13 old reset s14 s15 s16 s17 s18 s19 halted
  have h5 : Canonical (memory s5) := by simpa [s5, s4, s3, s2, s1] using h
  have h6 : Canonical (memory s6) := canonical_foldl _ (fun _ _ h => by split <;> simp [h]) _ h5
  have h7 : Canonical (memory s7) := canonical_foldl _ (fun _ _ h => by simp [h]) _ h6
  have h8 : Canonical (memory s8) := canonical_foldl _ (fun _ _ h => by simp [h]) _ h7
  have h11 : Canonical (memory s11) := canonical_foldl _ (fun _ _ h => by simp [h]) _ (by simpa [s10, s9] using h8)
  have h15 : Canonical (memory s15) := by simpa [s15, s14, s13, s12] using h11
  have h18 : Canonical (memory s18) := canonical_requeueAll _ _ _ (by simpa [s17] using canonical_advance name die cause h15)
  have h19 : Canonical (memory s19) := canonical_finishGrids h18
  split
  · exact h19
  · simpa [halted] using h19

@[simp] theorem canonical_retireComb {s : State} (die comb cause) (h : Canonical (memory s)) :
    Canonical (memory (s.retireComb die comb cause)) := by
  unfold State.retireComb
  dsimp only
  split
  · exact canonical_retireDie _ _ (by simpa using h)
  · refine canonical_finishGrids (canonical_requeueAll _ _ _ (canonical_advance _ _ _ ?_))
    rw [memory_modDie]
    exact canonical_loseComb _ _ _ h

@[simp] theorem canonical_sramErr {s : State} (die e) (h : Canonical (memory s)) : Canonical (memory (s.sramErr die e)) := by
  unfold State.sramErr
  split <;> simp [h]

@[simp] theorem canonical_combErrs {s : State} (ck) (h : Canonical (memory s)) : Canonical (memory (s.combErrs ck)) := by
  unfold State.combErrs
  simp +contextual [h]

@[simp] theorem canonical_lookAt {s : State} (a) (h : Canonical (memory s)) : Canonical (memory (s.lookAt a)) := by
  unfold State.lookAt
  split <;> simp [h]

@[simp] theorem canonical_look {s : State} (h : Canonical (memory s)) : Canonical (memory (s.look)) := by
  unfold State.look
  simp +contextual [h]

end Sys2Proof.Proofs
end

section
namespace Sys2Proof.Proofs
open Sys2Proof Sys2Proof.Machine

/-- An effect whose machine keeps the canonical form of main memory and host memory. -/
def CanonicalEff : Eff → Prop
  | .ok o => Canonical (memory o.s)
  | .fault _ => True
  | .wait s _ => Canonical (memory s)

@[simp] theorem canonicalEff_ok (o : Out) : CanonicalEff (.ok o) ↔ Canonical (memory o.s) := Iff.rfl
@[simp] theorem canonicalEff_fault (f : TrapInfo) : CanonicalEff (.fault f) ↔ True := Iff.rfl
@[simp] theorem canonicalEff_wait (s : State) (th : Thread) : CanonicalEff (.wait s th) ↔ Canonical (memory s) := Iff.rfl

@[simp] theorem canonicalEff_ite (c : Prop) [Decidable c] (x y : Eff) :
    CanonicalEff (if c then x else y) ↔ if c then CanonicalEff x else CanonicalEff y := by split <;> rfl

theorem canonicalEff_ofFault (o : Option TrapInfo) {y : Eff} (hy : CanonicalEff y) :
    CanonicalEff (match o with
      | some t => .fault t
      | none => y) := by
  cases o with
  | none => exact hy
  | some t => trivial

theorem canonicalEff_of_ite (c : Prop) [Decidable c] {x y : Eff} (hx : CanonicalEff x) (hy : CanonicalEff y) :
    CanonicalEff (if c then x else y) := by split <;> assumption

/-- A step that answers a machine keeps the canonical form. -/
def CanonicalNext : Host.Outcome State Fault Refusal → Prop
  | .next t => Canonical (memory t)
  | .fault _ => True
  | .refused _ => True

@[simp] theorem canonicalNext_next (t : State) : CanonicalNext (.next t) ↔ Canonical (memory t) := Iff.rfl

@[simp] theorem canonicalNext_ite (c : Prop) [Decidable c] (x y : Host.Outcome State Fault Refusal) :
    CanonicalNext (if c then x else y) ↔ if c then CanonicalNext x else CanonicalNext y := by split <;> rfl

/-! ## The issue of an instruction -/

@[simp] theorem canonical_issueTrap {x : Issue} (f) (h : Canonical (memory x.env.s)) : Canonical (memory (x.trap f)) := by
  unfold Issue.trap
  simp [h]

@[simp] theorem canonical_halted {x : Issue} (r w) (h : Canonical (memory x.env.s)) : Canonical (memory (x.halted r w)) := by
  unfold Issue.halted
  split <;> simp [h]

@[simp] theorem canonical_done {x : Issue} (r) {o : Out} (h : Canonical (memory o.s)) : Canonical (memory (x.done r o)) := by
  unfold Issue.done
  dsimp only
  repeat' split
  all_goals simp [h]

theorem canonical_finish {x : Issue} (r) {y : Eff} (h : Canonical (memory x.env.s)) (hy : CanonicalEff y) :
    Canonical (memory (x.finish r y)) := by
  cases y with
  | ok o => exact canonical_done r hy
  | fault f => exact canonical_issueTrap f h
  | wait s th => simpa using hy

/-- An instruction keeps the canonical form if its body does. -/
theorem canonical_issue {s : State} {r : Rule} {body : Env → Eff} (h : Canonical (memory s))
    (hb : ∀ e : Env, Canonical (memory e.s) → CanonicalEff (body e)) : CanonicalNext (issue s r body) := by
  unfold issue
  split
  · exact h
  split
  · simpa using h
  split
  · simpa using h
  dsimp only
  split
  · exact canonical_halted _ _ h
  · exact canonical_finish _ h (hb _ h)

/-! ## The shared ends of bodies -/

section
variable {e : Env}

@[simp] theorem canonicalEff_done (ws) : CanonicalEff (e.done ws) ↔ Canonical (memory e.s) := Iff.rfl
@[simp] theorem canonicalEff_out (s th) : CanonicalEff (e.out s th) ↔ Canonical (memory s) := Iff.rfl
@[simp] theorem canonicalEff_envFault (c v v2) : CanonicalEff (e.fault c v v2) ↔ True := Iff.rfl
@[simp] theorem canonicalEff_block (w) : CanonicalEff (e.block w) ↔ Canonical (memory e.s) := Iff.rfl
@[simp] theorem canonicalEff_stall : CanonicalEff e.stall ↔ Canonical (memory e.s) := Iff.rfl
@[simp] theorem canonicalEff_timeBack (t) : CanonicalEff (e.timeBack t) ↔ True := Iff.rfl
@[simp] theorem canonicalEff_status (f s code) : CanonicalEff (e.status f s code) ↔ Canonical (memory s) := Iff.rfl
@[simp] theorem canonicalEff_csubReq (die cancel sub holds) :
    CanonicalEff (e.csubReq die cancel sub holds) ↔ Canonical (memory e.s) := Iff.rfl

@[simp] theorem canonicalEff_copyStart (s f c) : CanonicalEff (e.copyStart s f c) ↔ Canonical (memory s) := by
  unfold Env.copyStart
  simp

@[simp] theorem canonicalEff_load (s shape reads together l1 acq scope inv engine due) :
    CanonicalEff (e.load s shape reads together l1 acq scope inv engine due) ↔ Canonical (memory s) := by
  unfold Env.load
  simp

variable (h : Canonical (memory e.s))
include h

@[simp] theorem canonicalEff_ringStart (r) : CanonicalEff (e.ringStart r) := by
  unfold Env.ringStart
  simp [h]

@[simp] theorem canonicalEff_jump (th target) : CanonicalEff (e.jump th target) := by
  unfold Env.jump
  split <;> simp [h]

@[simp] theorem canonicalEff_fenceAcquire (scope) : CanonicalEff (e.fenceAcquire scope) := by
  unfold Env.fenceAcquire
  split <;> simp [h]

@[simp] theorem canonicalEff_bankcfg (f new ord owner) : CanonicalEff (e.bankcfg f new ord owner) := by
  unfold Env.bankcfg
  dsimp only
  repeat' split
  all_goals simp [h]

@[simp] theorem canonicalEff_afterRelease (scope) {k : Unit → Eff} (hk : CanonicalEff (k ())) : CanonicalEff (e.afterRelease scope k) := by
  unfold Env.afterRelease
  split <;> simp [h, hk]

@[simp] theorem canonicalEff_orels (f) (g : Nat → Nat) : CanonicalEff (e.orels f g) := by
  unfold Env.orels
  simp [h]

@[simp] theorem canonicalEff_broadcast (body) {fin : Nat → Eff} (hf : ∀ n, CanonicalEff (fin n)) : CanonicalEff (e.broadcast body fin) := by
  unfold Env.broadcast
  split <;> simp [h, hf]

@[simp] theorem canonicalEff_endGroup {s : State} (th) (hs : Canonical (memory s)) : CanonicalEff (e.endGroup s th) := by
  unfold Env.endGroup
  dsimp only
  repeat' split
  all_goals simp [h, hs]

omit h in
@[simp] theorem canonicalEff_buffer (s es) {k : State → Thread → Eff} (hk : ∀ th, CanonicalEff (k s th)) :
    CanonicalEff (e.buffer s es k) := by
  unfold Env.buffer
  dsimp only
  split <;> simp [hk]

@[simp] theorem canonicalEff_loadGlobal (lanes size dst l1 acq scope inv engine) :
    CanonicalEff (e.loadGlobal lanes size dst l1 acq scope inv engine) := by
  unfold Env.loadGlobal
  dsimp only
  split <;> simp [h]

@[simp] theorem canonicalEff_loadScratch (lanes size dst scope acq) : CanonicalEff (e.loadScratch lanes size dst scope acq) := by
  unfold Env.loadScratch
  dsimp only
  split <;> simp [h]

omit h in
@[simp] theorem canonicalEff_atomOp {s : State} (size dst acq rel scope code as) (d cmp : Nat → Nat) (now) (hs : Canonical (memory s)) :
    CanonicalEff (e.atomOp s size dst acq rel scope code as d cmp now) := by
  unfold Env.atomOp
  dsimp only
  split
  · exact canonical_foldl _ (fun _ _ h => by simp [h]) _ (by simpa using hs)
  · simpa using hs

@[simp] theorem canonicalEff_atomGlobal (f code lanes) (d cmp : Nat → Nat) : CanonicalEff (e.atomGlobal f code lanes d cmp) := by
  unfold Env.atomGlobal
  dsimp only
  split <;> simp [h]

@[simp] theorem canonicalEff_atomScratch (f code lanes) (d cmp : Nat → Nat) : CanonicalEff (e.atomScratch f code lanes d cmp) := by
  unfold Env.atomScratch
  dsimp only
  split <;> simp [h]

@[simp] theorem canonicalEff_bar (f) {k : State → Nat → Eff} (hk : ∀ c ph, CanonicalEff (k (e.s.setComb e.ck c) ph)) :
    CanonicalEff (e.bar f k) := by
  unfold Env.bar
  refine canonicalEff_afterRelease h _ ?_
  split <;> simp [hk]

omit h in
@[simp] theorem canonicalEff_txAddr (a) {k : Nat → Eff} (hk : ∀ x, CanonicalEff (k x)) : CanonicalEff (e.txAddr a k) := by
  unfold Env.txAddr
  dsimp only
  split <;> simp [hk]

omit h in
theorem canonicalEff_remoteOp (f) {s : State} {put : State → Writer → State} (hs : Canonical (memory s))
    (hp : ∀ t w, memory (put t w) = memory t) : CanonicalEff (e.remoteOp f s put) := by
  unfold Env.remoteOp
  simp [hp, hs]

@[simp] theorem canonicalEff_tileCopy (f op bar) (range : Nat → List (Nat × Nat × Nat)) (recvs : State → List CopyRecv) :
    CanonicalEff (e.tileCopy f op bar range recvs) := by
  unfold Env.tileCopy
  dsimp only
  split
  · simp
  · next hd =>
    have hd := canonical_descriptor h hd
    repeat' split
    all_goals simp [hd]

@[simp] theorem canonicalEff_post {s : State} (f op tile po) (hs : Canonical (memory s)) : CanonicalEff (e.post s f op tile po) := by
  unfold Env.post
  dsimp only
  split <;> simp [h, hs]

omit h in
@[simp] theorem canonicalEff_posting (f n) {k : Nat → List DWord → Eff} (hk : ∀ t b, CanonicalEff (k t b)) :
    CanonicalEff (e.posting f n k) := by
  unfold Env.posting
  repeat' split
  all_goals simp [hk]

omit h in
@[simp] theorem canonicalEff_mbarWait {s : State} (wait b ph) (hs : Canonical (memory s)) : CanonicalEff (e.mbarWait s wait b ph) := by
  unfold Env.mbarWait
  dsimp only
  repeat' split
  all_goals simp [hs]

omit h in
@[simp] theorem canonicalEff_taskRec (a) {k : TaskRec → Target → Eff} (hk : ∀ r t, CanonicalEff (k r t)) :
    CanonicalEff (e.taskRec a k) := by
  unfold Env.taskRec
  dsimp only
  repeat' split
  all_goals simp [hk]

omit h in
@[simp] theorem canonicalEff_timeCheck (r l) {k : Unit → Eff} (hk : CanonicalEff (k ())) : CanonicalEff (e.timeCheck r l k) := by
  unfold Env.timeCheck
  repeat' split
  all_goals simp [hk]

@[simp] theorem canonicalEff_dep (op a set v) : CanonicalEff (e.dep op a set v) := by
  unfold Env.dep
  dsimp only
  split
  · simpa using h
  · split <;> simp
  · simpa using h
  split
  · simp
  · simp
  split
  · simp [h]
  refine canonicalEff_afterRelease h _ ?_
  split
  · split <;> simp [h]
  · split
    · next hd => simpa [memory_dep hd] using h
    · simp
    · simp

@[simp] theorem canonicalEff_push (op f ord) : CanonicalEff (e.push op f ord) := by
  unfold Env.push
  dsimp only
  repeat' split
  all_goals simp [h]

omit h in
@[simp] theorem canonicalEff_flowLoc (a) {k : Nat → Nat → Eff} (hk : ∀ f l, CanonicalEff (k f l)) : CanonicalEff (e.flowLoc a k) := by
  unfold Env.flowLoc
  dsimp only
  repeat' split
  all_goals simp [hk]

@[simp] theorem canonicalEff_answered (d) {k : Unit → Eff} (hk : CanonicalEff (k ())) : CanonicalEff (e.answered d k) := by
  unfold Env.answered
  split <;> simp [h, hk]

omit h in
@[simp] theorem canonicalEff_subTarget (a name) {k : Nat → Nat → Eff} (hk : ∀ d l, CanonicalEff (k d l)) :
    CanonicalEff (e.subTarget a name k) := by
  unfold Env.subTarget
  split <;> simp [hk]

omit h in
@[simp] theorem canonicalEff_spawnTarget (a r) {k : Nat → Nat → Eff} (hk : ∀ d l, CanonicalEff (k d l)) :
    CanonicalEff (e.spawnTarget a r k) := by
  unfold Env.spawnTarget
  dsimp only
  repeat' split
  all_goals simp [hk]

@[simp] theorem canonicalEff_cctlLine (f) {other : Eff} {k : State → Nat → Eff} (ho : CanonicalEff other)
    (hk : ∀ s line, Canonical (memory s) → CanonicalEff (k s line)) : CanonicalEff (e.cctlLine f other k) := by
  unfold Env.cctlLine
  dsimp only
  repeat' split
  all_goals simp [h, ho, hk]

omit h in
theorem canonical_matDesc {s : State} {addr ty sfmt bdim along align write} {x : State × List Nat} (hs : Canonical (memory s))
    (hx : e.matDesc s addr ty sfmt bdim along align write = .ok x) : Canonical (memory x.1) := by
  unfold Env.matDesc at hx
  dsimp only at hx
  split at hx
  · cases hx
  next hd =>
  repeat' split at hx
  all_goals cases hx
  exact canonical_descriptor hs hd

theorem canonical_mmaDescs {p : Pass} {x : State × List (List Nat)} (hx : e.mmaDescs p = .ok x) : Canonical (memory x.1) := by
  unfold Env.mmaDescs at hx
  dsimp only at hx
  split at hx
  · cases hx
  next s dA ha =>
  have ha : Canonical (memory s) := by
    split at ha
    · exact canonical_matDesc h ha
    · cases ha; exact h
  split at hx
  · cases hx
  next hb =>
  cases hx
  split at hb
  · exact canonical_matDesc ha hb
  · cases hb; exact ha

theorem canonical_moveDescs {p : Pass} {write : Bool} {x : State × List (List Nat)} (hx : e.moveDescs p write = .ok x) :
    Canonical (memory x.1) := by
  unfold Env.moveDescs at hx
  split at hx
  · split at hx <;> cases hx
    next hd => exact canonical_matDesc h hd
  · cases hx; exact h

end

end Sys2Proof.Proofs
end

section
namespace Sys2Proof.Proofs
open Sys2Proof Sys2Proof.Machine

/-! # The instructions that have a word: each is issued under its opcode (R76, R81), with a body that keeps the canonical form -/

/-- An instruction that is issued, in every state, under a rule of the opcode and with a body that keeps the canonical form of main
memory and host memory. -/
structure Issues (op : Nat) (x : State → Host.Outcome State Fault Refusal) : Prop where
  issued : ∀ s, ∃ (r : Rule) (body : Env → Eff), x s = issue s r body ∧ r.op = op ∧ ∀ e : Env, Canonical (memory e.s) → CanonicalEff (body e)

/-! ## The bodies that several instructions share -/

section
variable (op : Nat)

theorem issues_dataOp (f one three bNarrow stream) (g : Nat → Nat → Nat → Nat) :
    Issues op fun s => dataOp s op f one three bNarrow stream g := by
  unfold dataOp
  exact ⟨fun _ => ⟨_, _, rfl, rfl, fun _ h => h⟩⟩

theorem issues_intOp (f one three) (g : Int → Int → Int → Int) : Issues op fun s => intOp s op f one three g := issues_dataOp ..

theorem issues_bitOp (f) (g : Nat → Nat → Nat) : Issues op fun s => bitOp s op f g := issues_dataOp ..

theorem issues_dotOp (f) : Issues op fun s => dotOp s op f := by
  unfold dotOp
  exact ⟨fun _ => ⟨_, _, rfl, rfl, fun _ h => h⟩⟩

theorem issues_countOp (f) (g : Nat → Nat) : Issues op fun s => countOp s op f g := ⟨fun _ => ⟨_, _, rfl, rfl, fun _ h => h⟩⟩

theorem issues_fpOp (f one three rounds flags lat) (g : FOpt → Fmt → Nat → Nat → Nat → Nat × Exc) :
    Issues op fun s => fpOp s op f one three rounds flags lat g := ⟨fun _ => ⟨_, _, rfl, rfl, fun _ h => h⟩⟩

theorem issues_emOp (f) (new : Word → Word → Word → Word) : Issues op fun s => emOp f s op new :=
  ⟨fun _ => ⟨_, _, rfl, rfl, fun _ h => h⟩⟩

theorem issues_brCond (f zero) : Issues op fun s => brCond f s op zero := by
  unfold brCond
  refine ⟨fun s => ⟨_, _, rfl, rfl, fun e h => ?_⟩⟩
  split <;> simp [h]

theorem issues_tableWrite (f) (loc : Nat → Nat → Nat × Nat) : Issues op fun s => tableWrite op f s loc := by
  unfold tableWrite
  refine ⟨fun s => ⟨_, _, rfl, rfl, fun e h => ?_⟩⟩
  dsimp only
  repeat' split
  all_goals simp [h]

theorem issues_matRow (f) : Issues op fun s => matRow op f s := by
  refine ⟨fun s => ⟨_, _, rfl, rfl, fun e h => canonicalEff_posting _ _ fun t b => ?_⟩⟩
  dsimp only
  repeat' split
  all_goals simp [h]

theorem issues_matMove (f write) : Issues op fun s => matMove op f s write := by
  refine ⟨fun s => ⟨_, _, rfl, rfl, fun e h => canonicalEff_posting _ _ fun t b => ?_⟩⟩
  dsimp only
  split
  · simp
  split
  · simp
  split
  · simp
  next hd =>
  have hd := canonical_moveDescs h hd
  split <;> simp [h, hd]

end

theorem issues_fence (f) : Issues 0x109 (fence f) := by
  refine ⟨fun s => ⟨_, _, rfl, rfl, fun e h => ?_⟩⟩
  dsimp only
  repeat' split
  all_goals simp [h]

theorem issues_tsyncOp (f uses) (n : Env → Option Nat) : Issues 0x10A fun s => tsync f s uses n := by
  refine ⟨fun s => ⟨_, _, rfl, rfl, fun e h => ?_⟩⟩
  dsimp only
  repeat' split
  all_goals simp [h]

theorem issues_tdinvOp (f uses) (n : Env → Option Nat) : Issues 0x10B fun s => tdinv f s uses n := by
  refine ⟨fun s => ⟨_, _, rfl, rfl, fun e h => ?_⟩⟩
  dsimp only
  repeat' split
  all_goals simp [h]

theorem issues_tlbinv (f uses) (body : Env → Option BcastBody) : Issues 0x0A6 fun s => tlbinv f s uses body := by
  refine ⟨fun s => ⟨_, _, rfl, rfl, fun e h => ?_⟩⟩
  split <;> simp [h]

theorem issues_gresume (f skip) : Issues 0x0A3 fun s => gresume f s skip := by
  refine ⟨fun s => ⟨_, _, rfl, rfl, fun e h => ?_⟩⟩
  dsimp only
  split <;> simp [h]

/-- A save writes its image, and then does to the comb what leaves memory. -/
theorem issues_ctxsave (f) {what : Env → Nat → Except Nat (Nat × (Nat → List Byte) × ImageBody × (State → State))}
    (hw : ∀ e b x, what e b = .ok x → ∀ t, memory (x.2.2.2 t) = memory t) : Issues 0x0A7 fun s => ctxsave f s what := by
  refine ⟨fun s => ⟨_, _, rfl, rfl, fun e h => ?_⟩⟩
  dsimp only
  split
  · simpa using h
  split
  · simpa using h
  next hx =>
  split
  · simpa using h
  · simp [hw _ _ _ hx, h]

theorem issues_ctxload (f kind) {put : Env → Nat → List Byte → Image → Except Nat State}
    (hp : ∀ e b bs i t, put e b bs i = .ok t → memory t = memory e.s) : Issues 0x0A8 fun s => ctxload f s kind put := by
  refine ⟨fun s => ⟨_, _, rfl, rfl, fun e h => ?_⟩⟩
  split
  · simpa using h
  split
  · simpa using h
  next ht => simpa [hp _ _ _ _ _ ht] using h

/-! ## Each instruction, in the order of `exec` -/

theorem issues_nop (f) : Issues 0x000 (execNop f) := ⟨fun _ => ⟨_, _, rfl, rfl, fun _ h => h⟩⟩

theorem issues_exit (f) : Issues 0x001 (execExit f) := ⟨fun _ => ⟨_, _, rfl, rfl, fun _ h => by simp [h]⟩⟩

theorem issues_yield (f) : Issues 0x002 (execYield f) := ⟨fun _ => ⟨_, _, rfl, rfl, fun _ h => h⟩⟩

theorem issues_trap (f) : Issues 0x003 (execTrap f) := ⟨fun _ => ⟨_, _, rfl, rfl, fun _ _ => by simp⟩⟩

theorem issues_brk (f) : Issues 0x004 (execBrk f) := ⟨fun _ => ⟨_, _, rfl, rfl, fun _ _ => by simp⟩⟩

theorem issues_rdsr (f) : Issues 0x005 (execRdsr f) := by
  unfold execRdsr
  exact ⟨fun _ => ⟨_, _, rfl, rfl, fun _ h => by simp [h]⟩⟩

theorem issues_wrsr (f) : Issues 0x006 (execWrsr f) := by
  unfold execWrsr
  refine ⟨fun _ => ⟨_, _, rfl, rfl, fun _ h => ?_⟩⟩
  repeat' split
  all_goals simp [h]

theorem issues_iadd (f) : Issues 0x010 (execIadd f) := issues_intOp ..

theorem issues_isub (f) : Issues 0x011 (execIsub f) := issues_intOp ..

theorem issues_imul (f) : Issues 0x012 (execImul f) := issues_intOp ..

theorem issues_imulhi (f) : Issues 0x013 (execImulhi f) := issues_intOp ..

theorem issues_imad (f) : Issues 0x014 (execImad f) := issues_intOp ..

theorem issues_imin (f) : Issues 0x015 (execImin f) := issues_intOp ..

theorem issues_imax (f) : Issues 0x016 (execImax f) := issues_intOp ..

theorem issues_iabs (f) : Issues 0x017 (execIabs f) := issues_intOp ..

theorem issues_iaddc (f) : Issues 0x018 (execIaddc f) := ⟨fun _ => ⟨_, _, rfl, rfl, fun _ h => h⟩⟩

theorem issues_lea (f) : Issues 0x019 (execLea f) := ⟨fun _ => ⟨_, _, rfl, rfl, fun _ h => h⟩⟩

theorem issues_idp4 (f) : Issues 0x01A (execIdp4 f) := issues_dotOp ..

theorem issues_idp2 (f) : Issues 0x01B (execIdp2 f) := issues_dotOp ..

theorem issues_and (f) : Issues 0x020 (execAnd f) := issues_bitOp ..

theorem issues_or (f) : Issues 0x021 (execOr f) := issues_bitOp ..

theorem issues_xor (f) : Issues 0x022 (execXor f) := issues_bitOp ..

theorem issues_andn (f) : Issues 0x023 (execAndn f) := issues_bitOp ..

theorem issues_lop3 (f) : Issues 0x024 (execLop3 f) := issues_dataOp ..

theorem issues_shl (f) : Issues 0x025 (execShl f) := issues_dataOp ..

theorem issues_shr (f) : Issues 0x026 (execShr f) := issues_dataOp ..

theorem issues_sar (f) : Issues 0x027 (execSar f) := issues_dataOp ..

theorem issues_fshl (f) : Issues 0x028 (execFshl f) := issues_dataOp ..

theorem issues_bfe (f) : Issues 0x029 (execBfe f) := by
  unfold execBfe
  exact issues_dataOp ..

theorem issues_bfi (f) : Issues 0x02A (execBfi f) := issues_dataOp ..

theorem issues_popc (f) : Issues 0x02B (execPopc f) := issues_countOp ..

theorem issues_clz (f) : Issues 0x02C (execClz f) := issues_countOp ..

theorem issues_brev (f) : Issues 0x02D (execBrev f) := by
  unfold execBrev
  exact issues_dataOp ..

theorem issues_isetp (f) : Issues 0x030 (execIsetp f) := by
  unfold execIsetp
  exact ⟨fun _ => ⟨_, _, rfl, rfl, fun _ h => h⟩⟩

theorem issues_fsetp (f) : Issues 0x031 (execFsetp f) := ⟨fun _ => ⟨_, _, rfl, rfl, fun _ h => h⟩⟩

theorem issues_sel (f) : Issues 0x032 (execSel f) := by
  unfold execSel
  exact ⟨fun _ => ⟨_, _, rfl, rfl, fun _ h => h⟩⟩

theorem issues_plop (f) : Issues 0x033 (execPlop f) := ⟨fun _ => ⟨_, _, rfl, rfl, fun _ h => h⟩⟩

theorem issues_pmov (f) : Issues 0x034 (execPmov f) := by
  unfold execPmov
  refine ⟨fun _ => ⟨_, _, rfl, rfl, fun _ h => ?_⟩⟩
  repeat' split
  all_goals simp [h]

theorem issues_mov (f) : Issues 0x035 (execMov f) := by
  unfold execMov
  exact ⟨fun _ => ⟨_, _, rfl, rfl, fun _ h => h⟩⟩

theorem issues_xperm (f) : Issues 0x040 (execXperm f) := ⟨fun _ => ⟨_, _, rfl, rfl, fun _ h => by simp [h]⟩⟩

theorem issues_vote (f) : Issues 0x041 (execVote f) := by
  unfold execVote
  refine ⟨fun _ => ⟨_, _, rfl, rfl, fun _ h => ?_⟩⟩
  repeat' split
  all_goals simp [h]

theorem issues_gredi (f) : Issues 0x042 (execGredi f) := ⟨fun _ => ⟨_, _, rfl, rfl, fun _ h => h⟩⟩

theorem issues_gredf (f) : Issues 0x043 (execGredf f) := ⟨fun _ => ⟨_, _, rfl, rfl, fun _ h => by simp [h]⟩⟩

theorem issues_gscan (f) : Issues 0x044 (execGscan f) := by
  unfold execGscan
  exact ⟨fun _ => ⟨_, _, rfl, rfl, fun _ h => h⟩⟩

theorem issues_matchEq (f) : Issues 0x045 (execMatchEq f) := ⟨fun _ => ⟨_, _, rfl, rfl, fun _ h => h⟩⟩

theorem issues_fadd (f) : Issues 0x050 (execFadd f) := issues_fpOp ..

theorem issues_fsub (f) : Issues 0x051 (execFsub f) := issues_fpOp ..

theorem issues_fmul (f) : Issues 0x052 (execFmul f) := issues_fpOp ..

theorem issues_ffma (f) : Issues 0x053 (execFfma f) := issues_fpOp ..

theorem issues_ffms (f) : Issues 0x054 (execFfms f) := issues_fpOp ..

theorem issues_fnfma (f) : Issues 0x055 (execFnfma f) := issues_fpOp ..

theorem issues_fdiv (f) : Issues 0x05D (execFdiv f) := issues_fpOp ..

theorem issues_fmin (f) : Issues 0x056 (execFmin f) := issues_fpOp ..

theorem issues_fmax (f) : Issues 0x057 (execFmax f) := issues_fpOp ..

theorem issues_fabs (f) : Issues 0x058 (execFabs f) := issues_fpOp ..

theorem issues_fneg (f) : Issues 0x059 (execFneg f) := issues_fpOp ..

theorem issues_fcpsgn (f) : Issues 0x05A (execFcpsgn f) := issues_fpOp ..

theorem issues_frnd (f) : Issues 0x05B (execFrnd f) := issues_fpOp ..

theorem issues_fclass (f) : Issues 0x05C (execFclass f) := issues_fpOp ..

theorem issues_rcp (f) : Issues 0x060 (execRcp f) := issues_fpOp ..

theorem issues_rsq (f) : Issues 0x061 (execRsq f) := issues_fpOp ..

theorem issues_sqrt (f) : Issues 0x062 (execSqrt f) := issues_fpOp ..

theorem issues_exp2 (f) : Issues 0x063 (execExp2 f) := issues_fpOp ..

theorem issues_log2 (f) : Issues 0x064 (execLog2 f) := issues_fpOp ..

theorem issues_sinpi (f) : Issues 0x065 (execSinpi f) := issues_fpOp ..

theorem issues_cospi (f) : Issues 0x066 (execCospi f) := issues_fpOp ..

theorem issues_tanh (f) : Issues 0x067 (execTanh f) := issues_fpOp ..

theorem issues_cvt (f) : Issues 0x070 (execCvt f) := by
  unfold execCvt
  exact ⟨fun _ => ⟨_, _, rfl, rfl, fun _ h => h⟩⟩

theorem issues_pack2 (f) : Issues 0x071 (execPack2 f) := by
  unfold execPack2
  exact ⟨fun _ => ⟨_, _, rfl, rfl, fun _ h => h⟩⟩

theorem issues_unpk2 (f) : Issues 0x072 (execUnpk2 f) := by
  unfold execUnpk2
  exact ⟨fun _ => ⟨_, _, rfl, rfl, fun _ h => h⟩⟩

theorem issues_cvtmx (f) : Issues 0x073 (execCvtmx f) := ⟨fun _ => ⟨_, _, rfl, rfl, fun _ h => h⟩⟩

theorem issues_cvtqn (f) : Issues 0x074 (execCvtqn f) := ⟨fun _ => ⟨_, _, rfl, rfl, fun _ h => h⟩⟩

theorem issues_qndec (f) : Issues 0x075 (execQndec f) := ⟨fun _ => ⟨_, _, rfl, rfl, fun _ h => h⟩⟩

theorem issues_bra (f) : Issues 0x080 (execBra f) := ⟨fun _ => ⟨_, _, rfl, rfl, fun _ h => by simp [h]⟩⟩

theorem issues_brz (f) : Issues 0x081 (execBrz f) := issues_brCond ..

theorem issues_brnz (f) : Issues 0x082 (execBrnz f) := issues_brCond ..

theorem issues_brany (f) : Issues 0x083 (execBrany f) := ⟨fun _ => ⟨_, _, rfl, rfl, fun _ h => by simp [h]⟩⟩

theorem issues_brall (f) : Issues 0x084 (execBrall f) := ⟨fun _ => ⟨_, _, rfl, rfl, fun _ h => by simp [h]⟩⟩

theorem issues_call (f) : Issues 0x085 (execCall f) := by
  unfold execCall
  refine ⟨fun _ => ⟨_, _, rfl, rfl, fun _ h => ?_⟩⟩
  dsimp only
  repeat' split
  all_goals simp [h]

theorem issues_ret (f) : Issues 0x086 (execRet f) := ⟨fun _ => ⟨_, _, rfl, rfl, fun _ h => by simp [h]⟩⟩

theorem issues_jmpi (f) : Issues 0x087 (execJmpi f) := by
  refine ⟨fun _ => ⟨_, _, rfl, rfl, fun _ h => ?_⟩⟩
  dsimp only
  repeat' split
  all_goals simp [h]

theorem issues_jmpv (f) : Issues 0x088 (execJmpv f) := by
  refine ⟨fun _ => ⟨_, _, rfl, rfl, fun _ h => ?_⟩⟩
  dsimp only
  repeat' split
  all_goals simp [h]

theorem issues_emand (f) : Issues 0x090 (execEmand f) := issues_emOp ..

theorem issues_emandn (f) : Issues 0x091 (execEmandn f) := issues_emOp ..

theorem issues_emset (f) : Issues 0x092 (execEmset f) := issues_emOp ..

theorem issues_emget (f) : Issues 0x093 (execEmget f) := ⟨fun _ => ⟨_, _, rfl, rfl, fun _ h => h⟩⟩

theorem issues_exitl (f) : Issues 0x094 (execExitl f) := ⟨fun _ => ⟨_, _, rfl, rfl, fun _ h => by simp [h]⟩⟩

theorem issues_loop (f) : Issues 0x095 (execLoop f) := by
  unfold execLoop
  exact ⟨fun _ => ⟨_, _, rfl, rfl, fun _ h => by simp [h]⟩⟩

theorem issues_lbrk (f) : Issues 0x096 (execLbrk f) := by
  refine ⟨fun _ => ⟨_, _, rfl, rfl, fun _ h => ?_⟩⟩
  split <;> simp [h]

theorem issues_lcnt (f) : Issues 0x097 (execLcnt f) := ⟨fun _ => ⟨_, _, rfl, rfl, fun _ h => h⟩⟩

theorem issues_rgive (f) : Issues 0x098 (execRgive f) := ⟨fun _ => ⟨_, _, rfl, rfl, fun _ h => by simp [h]⟩⟩

theorem issues_rclaim (f) : Issues 0x099 (execRclaim f) := ⟨fun _ => ⟨_, _, rfl, rfl, fun _ h => by simp [h]⟩⟩

theorem issues_winsel (f) : Issues 0x0A0 (execWinsel f) := by
  unfold execWinsel
  exact ⟨fun _ => ⟨_, _, rfl, rfl, fun _ h => h⟩⟩

theorem issues_winrd (f) : Issues 0x0A1 (execWinrd f) := by
  unfold execWinrd
  exact ⟨fun _ => ⟨_, _, rfl, rfl, fun _ h => h⟩⟩

theorem issues_winwr (f) : Issues 0x0A2 (execWinwr f) := by
  unfold execWinwr
  refine ⟨fun _ => ⟨_, _, rfl, rfl, fun _ h => ?_⟩⟩
  repeat' split
  all_goals simp [h]

theorem issues_gresumeReplay (f) : Issues 0x0A3 (execGresumeReplay f) := issues_gresume ..

theorem issues_gresumeSkip (f) : Issues 0x0A3 (execGresumeSkip f) := issues_gresume ..

theorem issues_gkill (f) : Issues 0x0A4 (execGkill f) := by
  refine ⟨fun _ => ⟨_, _, rfl, rfl, fun _ h => ?_⟩⟩
  split <;> simp [h]

theorem issues_bankcfgOff (f) : Issues 0x0A5 (execBankcfgOff f) := ⟨fun _ => ⟨_, _, rfl, rfl, fun _ h => by simp [h]⟩⟩

theorem issues_bankcfgCache (f) : Issues 0x0A5 (execBankcfgCache f) := ⟨fun _ => ⟨_, _, rfl, rfl, fun _ h => by simp [h]⟩⟩

theorem issues_bankcfgScratch (f) : Issues 0x0A5 (execBankcfgScratch f) := ⟨fun _ => ⟨_, _, rfl, rfl, fun _ h => by simp [h]⟩⟩

theorem issues_bankcfgFifo (f) : Issues 0x0A5 (execBankcfgFifo f) := ⟨fun _ => ⟨_, _, rfl, rfl, fun _ h => by simp [h]⟩⟩

theorem issues_tlbinvPage (f) : Issues 0x0A6 (execTlbinvPage f) := issues_tlbinv ..

theorem issues_tlbinvPagePurge (f) : Issues 0x0A6 (execTlbinvPagePurge f) := issues_tlbinv ..

theorem issues_tlbinvCtx (f) : Issues 0x0A6 (execTlbinvCtx f) := issues_tlbinv ..

theorem issues_tlbinvAll (f) : Issues 0x0A6 (execTlbinvAll f) := issues_tlbinv ..

theorem issues_ctxsaveFreeze (f) : Issues 0x0A7 (execCtxsaveFreeze f) := ⟨fun _ => ⟨_, _, rfl, rfl, fun _ h => by simp [h]⟩⟩

theorem issues_ctxsaveCopies (f) : Issues 0x0A7 (execCtxsaveCopies f) :=
  issues_ctxsave f fun e b x hx t => by
    dsimp only at hx
    repeat' split at hx
    all_goals cases hx
    all_goals rfl

theorem issues_ctxsaveGroup (f) : Issues 0x0A7 (execCtxsaveGroup f) :=
  issues_ctxsave f fun e b x hx t => by
    dsimp only at hx
    repeat' split at hx
    all_goals cases hx
    all_goals exact memory_unslot ..

theorem issues_ctxsaveTeam (f) : Issues 0x0A7 (execCtxsaveTeam f) :=
  issues_ctxsave f fun e b x hx t => by
    dsimp only at hx
    repeat' split at hx
    all_goals cases hx
    all_goals rfl

theorem issues_ctxsaveQueues (f) : Issues 0x0A7 (execCtxsaveQueues f) :=
  issues_ctxsave f fun e b x hx t => by
    dsimp only at hx
    repeat' split at hx
    all_goals cases hx
    all_goals exact memory_admitRoom ..

theorem issues_ctxsaveFifo (f) : Issues 0x0A7 (execCtxsaveFifo f) :=
  issues_ctxsave f fun e b x hx t => by
    dsimp only at hx
    repeat' split at hx
    all_goals cases hx
    all_goals rfl

theorem issues_ctxloadThaw (f) : Issues 0x0A8 (execCtxloadThaw f) := ⟨fun _ => ⟨_, _, rfl, rfl, fun _ h => by simp [h]⟩⟩

theorem issues_ctxloadCopies (f) : Issues 0x0A8 (execCtxloadCopies f) :=
  issues_ctxload f 5 fun e b bs i t ht => by
    dsimp only at ht
    repeat' split at ht
    all_goals cases ht
    all_goals rfl

theorem issues_ctxloadGroup (f) : Issues 0x0A8 (execCtxloadGroup f) :=
  issues_ctxload f 1 fun e b bs i t ht => by
    dsimp only at ht
    repeat' split at ht
    all_goals cases ht
    all_goals rfl

theorem issues_ctxloadTeam (f) : Issues 0x0A8 (execCtxloadTeam f) :=
  issues_ctxload f 2 fun e b bs i t ht => by
    dsimp only at ht
    repeat' split at ht
    all_goals cases ht
    all_goals rfl

theorem issues_ctxloadQueues (f) : Issues 0x0A8 (execCtxloadQueues f) :=
  issues_ctxload f 3 fun e b bs i t ht => by
    dsimp only at ht
    repeat' split at ht
    all_goals cases ht
    all_goals exact memory_admitRoom ..

theorem issues_ctxloadFifo (f) : Issues 0x0A8 (execCtxloadFifo f) :=
  issues_ctxload f 4 fun e b bs i t ht => by
    dsimp only at ht
    repeat' split at ht
    all_goals cases ht
    all_goals rfl

theorem issues_ld (f) : Issues 0x100 (execLd f) := ⟨fun _ => ⟨_, _, rfl, rfl, fun _ h => by simp [h]⟩⟩

theorem issues_st (f) : Issues 0x101 (execSt f) := by
  unfold execSt
  refine ⟨fun _ => ⟨_, _, rfl, rfl, fun _ h => ?_⟩⟩
  split <;> simp [h]

theorem issues_ldsc (f) : Issues 0x102 (execLdsc f) := ⟨fun _ => ⟨_, _, rfl, rfl, fun _ h => by simp [h]⟩⟩

theorem issues_stsc (f) : Issues 0x103 (execStsc f) := by
  unfold execStsc
  refine ⟨fun s => ⟨_, _, rfl, rfl, fun e h => ?_⟩⟩
  dsimp only
  split
  · simp
  · exact canonical_foldl _ (fun s a hs => canonical_performLast (by simpa using hs)) _ (by simpa using h)

theorem issues_ldp (f) : Issues 0x104 (execLdp f) := by
  refine ⟨fun _ => ⟨_, _, rfl, rfl, fun _ h => ?_⟩⟩
  dsimp only
  repeat' split
  all_goals simp [h]

theorem issues_prf (f) : Issues 0x105 (execPrf f) := by
  refine ⟨fun s => ⟨_, _, rfl, rfl, fun e h => canonical_foldl _ (fun s i hs => ?_) _ h⟩⟩
  dsimp only
  split
  · exact hs
  split
  · exact hs
  split
  · split <;> (split <;> simp [hs])
  · split <;> simp [hs]

theorem issues_ldte (f) : Issues 0x106 (execLdte f) := by
  refine ⟨fun s => ⟨_, _, rfl, rfl, fun e h => ?_⟩⟩
  dsimp only
  split
  · simp
  next hd =>
  have hd := canonical_descriptor h hd
  split
  · simp
  split
  · simp
  · simp [hd]

theorem issues_stte (f) : Issues 0x107 (execStte f) := by
  refine ⟨fun s => ⟨_, _, rfl, rfl, fun e h => ?_⟩⟩
  dsimp only
  split
  · simp
  next hd =>
  have hd := canonical_descriptor h hd
  split
  · simp
  split
  · simp
  split
  · simp
  split
  · exact canonicalEff_buffer _ _ fun _ => by simp [hd]
  · simp [hd]

theorem issues_cctlIcinv (f) : Issues 0x108 (execCctlIcinv f) := by
  refine ⟨fun _ => ⟨_, _, rfl, rfl, fun _ h => ?_⟩⟩
  split <;> simp [h]

theorem issues_cctlL1inv (f) : Issues 0x108 (execCctlL1inv f) := ⟨fun _ => ⟨_, _, rfl, rfl, fun _ h => h⟩⟩

theorem issues_cctlWb (f) : Issues 0x108 (execCctlWb f) :=
  ⟨fun s => ⟨_, _, rfl, rfl, fun e h => canonicalEff_cctlLine h _ h fun s l hs => by simp [hs]⟩⟩

theorem issues_cctlWbinv (f) : Issues 0x108 (execCctlWbinv f) :=
  ⟨fun s => ⟨_, _, rfl, rfl, fun e h => canonicalEff_cctlLine h _ h fun s l hs => by simp [hs]⟩⟩

theorem issues_cctlPin (f) : Issues 0x108 (execCctlPin f) := by
  refine ⟨fun s => ⟨_, _, rfl, rfl, fun e h => canonicalEff_cctlLine h _ h fun s l hs => ?_⟩⟩
  dsimp only
  repeat' split
  all_goals simp [hs]

theorem issues_cctlUnpin (f) : Issues 0x108 (execCctlUnpin f) := by
  refine ⟨fun s => ⟨_, _, rfl, rfl, fun e h => canonicalEff_cctlLine h _ h fun s l hs => ?_⟩⟩
  split <;> simp [hs]

theorem issues_fenceAcq (f) : Issues 0x109 (execFenceAcq f) := issues_fence ..

theorem issues_fenceRel (f) : Issues 0x109 (execFenceRel f) := issues_fence ..

theorem issues_fenceAcqrel (f) : Issues 0x109 (execFenceAcqrel f) := issues_fence ..

theorem issues_fenceSc (f) : Issues 0x109 (execFenceSc f) := issues_fence ..

theorem issues_fenceI (f) : Issues 0x109 (execFenceI f) := ⟨fun _ => ⟨_, _, rfl, rfl, fun _ h => h⟩⟩

theorem issues_tsync (f) : Issues 0x10A (execTsync f) := issues_tsyncOp ..

theorem issues_tsyncAll (f) : Issues 0x10A (execTsyncAll f) := issues_tsyncOp ..

theorem issues_tdinv (f) : Issues 0x10B (execTdinv f) := issues_tdinvOp ..

theorem issues_tdinvAll (f) : Issues 0x10B (execTdinvAll f) := issues_tdinvOp ..

theorem issues_atom (f) : Issues 0x110 (execAtom f) := ⟨fun _ => ⟨_, _, rfl, rfl, fun _ h => by simp [h]⟩⟩

theorem issues_atomcas (f) : Issues 0x111 (execAtomcas f) := ⟨fun _ => ⟨_, _, rfl, rfl, fun _ h => by simp [h]⟩⟩

theorem issues_red (f) : Issues 0x112 (execRed f) := by
  unfold execRed
  refine ⟨fun _ => ⟨_, _, rfl, rfl, fun _ h => ?_⟩⟩
  split <;> simp [h]

theorem issues_atomsc (f) : Issues 0x113 (execAtomsc f) := ⟨fun _ => ⟨_, _, rfl, rfl, fun _ h => by simp [h]⟩⟩

theorem issues_cassc (f) : Issues 0x114 (execCassc f) := ⟨fun _ => ⟨_, _, rfl, rfl, fun _ h => by simp [h]⟩⟩

theorem issues_copy (f) : Issues 0x120 (execCopy f) := ⟨fun _ => ⟨_, _, rfl, rfl, fun _ h => by simp [h]⟩⟩

theorem issues_copyo (f) : Issues 0x121 (execCopyo f) := ⟨fun _ => ⟨_, _, rfl, rfl, fun _ h => by simp [h]⟩⟩

theorem issues_copym (f) : Issues 0x122 (execCopym f) := by
  unfold execCopym
  exact ⟨fun _ => ⟨_, _, rfl, rfl, fun _ h => by simp [h]⟩⟩

theorem issues_gather (f) : Issues 0x123 (execGather f) := by
  unfold execGather
  refine ⟨fun _ => ⟨_, _, rfl, rfl, fun _ h => ?_⟩⟩
  dsimp only
  repeat' split
  all_goals simp [h]

theorem issues_copyl (f) : Issues 0x124 (execCopyl f) := by
  unfold execCopyl
  refine ⟨fun _ => ⟨_, _, rfl, rfl, fun _ h => ?_⟩⟩
  dsimp only
  repeat' split
  all_goals simp [h]

theorem issues_ccancel (f) : Issues 0x125 (execCcancel f) := ⟨fun _ => ⟨_, _, rfl, rfl, fun _ h => by simp [h]⟩⟩

theorem issues_putv (f) : Issues 0x130 (execPutv f) := by
  unfold execPutv
  refine ⟨fun s => ⟨_, _, rfl, rfl, fun e h => ?_⟩⟩
  dsimp only
  split
  · simp
  · exact canonicalEff_remoteOp _ (by simp [h]) fun _ _ => memory_storeLanes ..

theorem issues_getv (f) : Issues 0x131 (execGetv f) := ⟨fun _ => ⟨_, _, rfl, rfl, fun _ h => by simp [h]⟩⟩

theorem issues_redv (f) : Issues 0x132 (execRedv f) := by
  unfold execRedv
  refine ⟨fun s => ⟨_, _, rfl, rfl, fun e h => ?_⟩⟩
  dsimp only
  split
  · simp
  · exact canonicalEff_remoteOp _ (by simp [h]) fun _ _ => memory_atomLanes ..

theorem issues_mma (f) : Issues 0x140 (execMma f) := by
  refine ⟨fun s => ⟨_, _, rfl, rfl, fun e h => canonicalEff_posting _ _ fun t b => ?_⟩⟩
  dsimp only
  split
  · simp
  split
  · simp
  split
  · simp
  next hd =>
  have hd := canonical_mmaDescs h hd
  split
  · simp
  · exact canonicalEff_post h _ _ _ _ hd

theorem issues_mzero (f) : Issues 0x141 (execMzero f) := by
  refine ⟨fun _ => ⟨_, _, rfl, rfl, fun _ h => ?_⟩⟩
  split <;> simp [h]

theorem issues_mst (f) : Issues 0x142 (execMst f) := issues_matMove ..

theorem issues_mld (f) : Issues 0x143 (execMld f) := issues_matMove ..

theorem issues_mrows (f) : Issues 0x144 (execMrows f) := issues_matRow ..

theorem issues_mrowmax (f) : Issues 0x145 (execMrowmax f) := issues_matRow ..

theorem issues_mrowsum (f) : Issues 0x146 (execMrowsum f) := issues_matRow ..

theorem issues_mbar (f) : Issues 0x147 (execMbar f) := by
  refine ⟨fun _ => ⟨_, _, rfl, rfl, fun _ h => ?_⟩⟩
  dsimp only
  repeat' split
  all_goals simp [h]

theorem issues_mwaitb (f) : Issues 0x148 (execMwaitb f) := ⟨fun _ => ⟨_, _, rfl, rfl, fun _ h => by simp [h]⟩⟩

theorem issues_spawn (f) : Issues 0x180 (execSpawn f) := by
  refine ⟨fun s => ⟨_, _, rfl, rfl, fun e h => canonicalEff_taskRec _ fun r t => canonicalEff_timeCheck _ _ ?_⟩⟩
  split
  · simp [h]
  refine canonicalEff_afterRelease h _ ?_
  split
  · split <;> simp [h]
  split
  · simp [h]
  next hc => simp [memory_create hc, h]

theorem issues_tret (f) : Issues 0x181 (execTret f) := ⟨fun _ => ⟨_, _, rfl, rfl, fun _ h => by simp [h]⟩⟩

theorem issues_refill (f) : Issues 0x182 (execRefill f) := by
  refine ⟨fun _ => ⟨_, _, rfl, rfl, fun _ h => ?_⟩⟩
  dsimp only
  repeat' split
  all_goals simp [h]

theorem issues_wqpush (f) : Issues 0x183 (execWqpush f) := ⟨fun _ => ⟨_, _, rfl, rfl, fun _ h => by simp [h]⟩⟩

theorem issues_send (f) : Issues 0x190 (execSend f) := by
  refine ⟨fun s => ⟨_, _, rfl, rfl, fun e h => canonicalEff_taskRec _ fun r t => ?_⟩⟩
  dsimp only
  refine canonicalEff_of_ite _ (by simp) (canonicalEff_timeCheck _ _ ?_)
  split
  · simp [h]
  refine canonicalEff_afterRelease h _ ?_
  split
  · split <;> simp [h]
  · simp [h]

theorem issues_fpush (f) : Issues 0x191 (execFpush f) := by
  unfold execFpush
  exact ⟨fun _ => ⟨_, _, rfl, rfl, fun _ h => by simp [h]⟩⟩

theorem issues_fpop (f) : Issues 0x192 (execFpop f) := by
  refine ⟨fun _ => ⟨_, _, rfl, rfl, fun _ h => ?_⟩⟩
  dsimp only
  repeat' split
  all_goals simp [h]

theorem issues_evpop (f) : Issues 0x193 (execEvpop f) := by
  refine ⟨fun _ => ⟨_, _, rfl, rfl, fun _ h => ?_⟩⟩
  repeat' split
  all_goals simp [h]

theorem issues_primemit (f) : Issues 0x194 (execPrimemit f) := ⟨fun _ => ⟨_, _, rfl, rfl, fun _ h => by simp [h]⟩⟩

theorem issues_vtwr (f) : Issues 0x1A0 (execVtwr f) := issues_tableWrite ..

theorem issues_ownwr (f) : Issues 0x1A1 (execOwnwr f) := issues_tableWrite ..

theorem issues_pswr (f) : Issues 0x1A2 (execPswr f) := by
  refine ⟨fun _ => ⟨_, _, rfl, rfl, fun _ h => ?_⟩⟩
  dsimp only
  repeat' split
  all_goals simp [h]

theorem issues_bari (f) : Issues 0x1C0 (execBari f) := ⟨fun _ => ⟨_, _, rfl, rfl, fun _ h => h⟩⟩

theorem issues_bara (f) : Issues 0x1C1 (execBara f) := ⟨fun _ => ⟨_, _, rfl, rfl, fun _ h => by simp [h]⟩⟩

theorem issues_barw (f) : Issues 0x1C2 (execBarw f) := by
  refine ⟨fun _ => ⟨_, _, rfl, rfl, fun _ h => ?_⟩⟩
  split <;> simp [h]

theorem issues_tbinit (f) : Issues 0x1C3 (execTbinit f) := ⟨fun _ => ⟨_, _, rfl, rfl, fun _ h => by simp [h]⟩⟩

theorem issues_tbexp (f) : Issues 0x1C4 (execTbexp f) := ⟨fun _ => ⟨_, _, rfl, rfl, fun _ h => by simp [h]⟩⟩

theorem issues_tbarr (f) : Issues 0x1C5 (execTbarr f) := ⟨fun _ => ⟨_, _, rfl, rfl, fun _ h => by simp [h]⟩⟩

theorem issues_tbwait (f) : Issues 0x1C6 (execTbwait f) := ⟨fun _ => ⟨_, _, rfl, rfl, fun _ h => by simp [h]⟩⟩

theorem issues_waitc (f) : Issues 0x1C7 (execWaitc f) := ⟨fun _ => ⟨_, _, rfl, rfl, fun _ h => by simp [h]⟩⟩

theorem issues_depset (f) : Issues 0x1C8 (execDepset f) := ⟨fun _ => ⟨_, _, rfl, rfl, fun _ h => by simp [h]⟩⟩

theorem issues_depdec (f) : Issues 0x1C9 (execDepdec f) := ⟨fun _ => ⟨_, _, rfl, rfl, fun _ h => by simp [h]⟩⟩

theorem issues_owait (f) : Issues 0x1CA (execOwait f) := ⟨fun _ => ⟨_, _, rfl, rfl, fun _ h => by simp [h]⟩⟩

theorem issues_orels (f) : Issues 0x1CB (execOrels f) := ⟨fun _ => ⟨_, _, rfl, rfl, fun _ h => by simp [h]⟩⟩

theorem issues_orelsSet (f) : Issues 0x1CB (execOrelsSet f) := ⟨fun _ => ⟨_, _, rfl, rfl, fun _ h => by simp [h]⟩⟩

theorem issues_timew (f) : Issues 0x1D0 (execTimew f) := by
  refine ⟨fun _ => ⟨_, _, rfl, rfl, fun _ h => ?_⟩⟩
  dsimp only
  repeat' split
  all_goals simp [h]

theorem issues_crest (f) : Issues 0x1D1 (execCrest f) := ⟨fun _ => ⟨_, _, rfl, rfl, fun _ h => by simp [h]⟩⟩

theorem issues_cwait (f) : Issues 0x1D2 (execCwait f) := ⟨fun _ => ⟨_, _, rfl, rfl, fun _ h => by simp [h]⟩⟩

theorem issues_csub (f) : Issues 0x1D3 (execCsub f) := by
  refine ⟨fun s => ⟨_, _, rfl, rfl, fun e h => canonicalEff_answered h _ (canonicalEff_ofFault _ (canonicalEff_ofFault _
    (canonicalEff_of_ite _ trivial ?_)))⟩⟩
  split
  · exact canonicalEff_subTarget _ _ fun _ _ => h
  · exact canonicalEff_subTarget _ _ fun _ _ => h
  · exact canonicalEff_of_ite _ trivial (canonicalEff_spawnTarget _ _ fun die lc => canonicalEff_of_ite _ trivial
      (canonicalEff_of_ite _ trivial (canonicalEff_of_ite _ trivial h)))

theorem issues_csubCancel (f) : Issues 0x1D3 (execCsubCancel f) := by
  refine ⟨fun _ => ⟨_, _, rfl, rfl, fun _ h => ?_⟩⟩
  dsimp only
  repeat' split
  all_goals simp [h]

theorem issues_pcnt (f) : Issues 0x1D4 (execPcnt f) := ⟨fun _ => ⟨_, _, rfl, rfl, fun _ h => by simp [h]⟩⟩

theorem issues_pflush (f) : Issues 0x1D5 (execPflush f) := ⟨fun _ => ⟨_, _, rfl, rfl, fun _ h => by simp [h]⟩⟩

theorem issues_nred (f) : Issues 0x1E0 (execNred f) := by
  refine ⟨fun _ => ⟨_, _, rfl, rfl, fun _ h => ?_⟩⟩
  dsimp only
  repeat' split
  all_goals simp [h]

theorem issues_wring (f) : Issues 0x1E1 (execWring f) := by
  refine ⟨fun s => ⟨_, _, rfl, rfl, fun e h => canonicalEff_answered h _ ?_⟩⟩
  lift_lets
  intro die x
  split
  · simp
  intro bs r peer
  generalize peer 36 = su, peer 40 = pr
  split
  · simp
  · simp
  refine canonicalEff_of_ite _ (by simp) ?_
  split
  · exact canonicalEff_of_ite _ h (canonicalEff_ringStart h _)
  · simp

theorem issues_wringClose (f) : Issues 0x1E1 (execWringClose f) := by
  refine ⟨fun _ => ⟨_, _, rfl, rfl, fun _ h => ?_⟩⟩
  dsimp only
  repeat' split
  all_goals simp [h]

theorem issues_wpost (f) : Issues 0x1E2 (execWpost f) := by
  unfold execWpost
  refine ⟨fun _ => ⟨_, _, rfl, rfl, fun _ h => ?_⟩⟩
  dsimp only
  repeat' split
  all_goals simp [h]

theorem issues_wtake (f) : Issues 0x1E3 (execWtake f) := by
  refine ⟨fun _ => ⟨_, _, rfl, rfl, fun _ h => ?_⟩⟩
  dsimp only
  repeat' split
  all_goals simp [h]

theorem issues_wdone (f) : Issues 0x1E4 (execWdone f) := by
  refine ⟨fun _ => ⟨_, _, rfl, rfl, fun _ h => ?_⟩⟩
  dsimp only
  repeat' split
  all_goals simp [h]

end Sys2Proof.Proofs
end

section
namespace Sys2Proof.Proofs
open Sys2Proof Sys2Proof.Machine

/-! # The events: each keeps the canonical form of main memory and host memory -/

theorem canonical_execInstructionFetch (a) {s : State} (h : Canonical (memory s)) : CanonicalNext (execInstructionFetch a s) := by
  unfold execInstructionFetch
  split
  · exact h
  split
  · exact h
  split
  · simp [h]
  next hf =>
  have hs := canonical_fetch h hf
  split <;> exact hs

theorem canonical_execIssueArbitration (die comb core) {s : State} (h : Canonical (memory s)) :
    CanonicalNext (execIssueArbitration die comb core s) := by
  unfold execIssueArbitration
  split <;> simp [h]

theorem canonical_execOperationCompletion (die comb i) {s : State} (h : Canonical (memory s)) :
    CanonicalNext (execOperationCompletion die comb i s) := by
  unfold execOperationCompletion
  dsimp only
  repeat' split
  all_goals simp [h]

theorem canonical_execTlbinvAcknowledge (die) {s : State} (h : Canonical (memory s)) : CanonicalNext (execTlbinvAcknowledge die s) := by
  unfold execTlbinvAcknowledge
  simp [h]

theorem canonical_execStoreAtHomeSlice (i) {s : State} (h : Canonical (memory s)) : CanonicalNext (execStoreAtHomeSlice i s) := by
  unfold execStoreAtHomeSlice
  split <;> simp [h]

theorem canonical_execMergingFill (i) {s : State} (h : Canonical (memory s)) : CanonicalNext (execMergingFill i s) := by
  unfold execMergingFill
  repeat' split
  all_goals simp [h]

theorem canonical_execReplicaUpdate (die comb idx) {s : State} (h : Canonical (memory s)) :
    CanonicalNext (execReplicaUpdate die comb idx s) := by
  unfold execReplicaUpdate
  dsimp only
  split
  · exact h
  split
  · split
    · refine canonical_foldl _ (fun s va hs => ?_) _ h
      split <;> simp [hs]
    · exact h
  · exact h

theorem canonical_execRemoteWriteAck (i) {s : State} (h : Canonical (memory s)) : CanonicalNext (execRemoteWriteAck i s) := by
  unfold execRemoteWriteAck
  simp [h]

theorem canonical_execCopySectorWrite (die comb idx sector) {s : State} (h : Canonical (memory s)) :
    CanonicalNext (execCopySectorWrite die comb idx sector s) := by
  unfold execCopySectorWrite
  dsimp only
  split
  · exact h
  split
  · split
    · split
      · simp [h]
      next hs =>
      have hs := canonical_copySector h hs
      repeat' split
      all_goals simp [hs]
    · exact h
  · exact h

theorem canonical_execCopyResume (die comb idx) {s : State} (h : Canonical (memory s)) : CanonicalNext (execCopyResume die comb idx s) := by
  unfold execCopyResume
  dsimp only
  repeat' split
  all_goals simp [h]

theorem canonical_execFirstRouterCheck (i) {s : State} (h : Canonical (memory s)) : CanonicalNext (execFirstRouterCheck i s) := by
  unfold execFirstRouterCheck
  dsimp only
  repeat' split
  all_goals simp [h]

theorem canonical_execMessageDelivery (i) {s : State} (h : Canonical (memory s)) : CanonicalNext (execMessageDelivery i s) := by
  unfold execMessageDelivery
  repeat' split
  all_goals simp [h]

theorem canonical_execTaskArrival (die comb) {s : State} (h : Canonical (memory s)) : CanonicalNext (execTaskArrival die comb s) := by
  unfold execTaskArrival
  simp [h]

theorem canonical_execMessageConsumption (die comb) {s : State} (h : Canonical (memory s)) :
    CanonicalNext (execMessageConsumption die comb s) := by
  unfold execMessageConsumption
  simp [h]

theorem canonical_execParkedEntry (die comb) {s : State} (h : Canonical (memory s)) : CanonicalNext (execParkedEntry die comb s) := by
  unfold execParkedEntry
  dsimp only
  split
  · exact h
  split
  next ht => exact canonical_enter (s := s.setComb ..) (by simpa using h) ht
  · exact h

theorem canonical_execTaskDequeue (die comb) {s : State} (h : Canonical (memory s)) : CanonicalNext (execTaskDequeue die comb s) := by
  unfold execTaskDequeue
  dsimp only
  repeat' split
  all_goals simp [h]

theorem canonical_execForageClaim (die comb grid) {s : State} (h : Canonical (memory s)) :
    CanonicalNext (execForageClaim die comb grid s) := by
  unfold execForageClaim
  dsimp only
  repeat' split
  all_goals simp [h]

theorem canonical_execTeamRetirement (die comb team) {s : State} (h : Canonical (memory s)) :
    CanonicalNext (execTeamRetirement die comb team s) := by
  unfold execTeamRetirement
  dsimp only
  repeat' split
  all_goals simp [h]

theorem canonical_withTask {s t : State} {ck uid : Nat} {f : Thread → State × Thread} (hf : ∀ th, Canonical (memory (f th).1))
    (h : s.withTask ck uid f = some t) : Canonical (memory t) := by
  unfold State.withTask at h
  split at h
  · cases h
    exact hf _
  split at h
  · cases h
    exact hf _
  · cases h

theorem canonical_execCommitPerform (i) {s : State} (h : Canonical (memory s)) : CanonicalNext (execCommitPerform i s) := by
  unfold execCommitPerform
  split
  · exact h
  split
  · simp [h]
  split
  · dsimp only
    split
    next ht => simp [canonical_withTask (fun th => canonical_commitEnt _ th _ _ h) ht]
    · simp [h]
  · exact h

theorem canonical_execDependencyOpArrival (die comb) {s : State} (h : Canonical (memory s)) :
    CanonicalNext (execDependencyOpArrival die comb s) := by
  unfold execDependencyOpArrival
  simp [h]

theorem canonical_execPushDelivery (die comb) {s : State} (h : Canonical (memory s)) : CanonicalNext (execPushDelivery die comb s) := by
  unfold execPushDelivery
  simp [h]

theorem canonical_execPacketDelivery (die comb) {s : State} (h : Canonical (memory s)) : CanonicalNext (execPacketDelivery die comb s) := by
  unfold execPacketDelivery
  simp [h]

theorem canonical_execSpillReload (die comb bank) {s : State} (h : Canonical (memory s)) :
    CanonicalNext (execSpillReload die comb bank s) := h

theorem canonical_execPrimitiveBinning (die) {s : State} (h : Canonical (memory s)) : CanonicalNext (execPrimitiveBinning die s) := by
  unfold execPrimitiveBinning
  split <;> simp [h]

theorem canonical_execBoundAdvance (die comb) {s : State} (h : Canonical (memory s)) : CanonicalNext (execBoundAdvance die comb s) := by
  unfold execBoundAdvance
  simp [h]

theorem canonical_execEventRecordArrival (die comb) {s : State} (h : Canonical (memory s)) :
    CanonicalNext (execEventRecordArrival die comb s) := by
  unfold execEventRecordArrival
  simp [h]

theorem canonical_execBatchApply (die) {s : State} (h : Canonical (memory s)) : CanonicalNext (execBatchApply die s) := by
  unfold execBatchApply
  repeat' split
  all_goals simp [h]

theorem canonical_execCsubRequestArrival (die) {s : State} (h : Canonical (memory s)) : CanonicalNext (execCsubRequestArrival die s) := by
  unfold execCsubRequestArrival
  repeat' split
  all_goals simp [h]

theorem canonical_execBatchAcknowledgement (die) {s : State} (h : Canonical (memory s)) :
    CanonicalNext (execBatchAcknowledgement die s) := by
  unfold execBatchAcknowledgement
  repeat' split
  all_goals simp [h]

theorem canonical_execPendingTimeMerge (die) {s : State} (h : Canonical (memory s)) : CanonicalNext (execPendingTimeMerge die s) := by
  unfold execPendingTimeMerge
  dsimp only
  repeat' split
  all_goals simp [h]

theorem canonical_execPassGrant (die comb) {s : State} (h : Canonical (memory s)) : CanonicalNext (execPassGrant die comb s) := by
  unfold execPassGrant
  dsimp only
  repeat' split
  all_goals simp [h]

theorem canonical_execPassCompletion (die comb) {s : State} (h : Canonical (memory s)) : CanonicalNext (execPassCompletion die comb s) := by
  unfold execPassCompletion
  dsimp only
  repeat' split
  all_goals simp [h]

theorem canonical_execPassResume (die comb seq) {s : State} (h : Canonical (memory s)) : CanonicalNext (execPassResume die comb seq s) := by
  unfold execPassResume
  dsimp only
  repeat' split
  all_goals simp [h]

theorem canonical_execReductionPartial (die t) {s : State} (h : Canonical (memory s)) : CanonicalNext (execReductionPartial die t s) := by
  unfold execReductionPartial
  dsimp only
  repeat' split
  all_goals simp [h]

theorem canonical_execReductionResult (die t) {s : State} (h : Canonical (memory s)) : CanonicalNext (execReductionResult die t s) := by
  unfold execReductionResult
  split
  · exact h
  split
  · exact h
  refine canonical_foldl _ (fun s k hs => ?_) _ ?_
  · split
    · split <;> simp [hs]
    · exact hs
  · simp only [memory_setTree]
    repeat' split
    all_goals simp [h]

theorem canonical_execRingTransfer (die num) {s : State} (h : Canonical (memory s)) : CanonicalNext (execRingTransfer die num s) := by
  unfold execRingTransfer
  repeat' split
  all_goals simp [h]

theorem canonical_execRingForwardComplete (die num step) {s : State} (h : Canonical (memory s)) :
    CanonicalNext (execRingForwardComplete die num step s) := by
  unfold execRingForwardComplete
  dsimp only
  repeat' split
  all_goals simp [h]

theorem canonical_execRingGrant (die) {s : State} (h : Canonical (memory s)) : CanonicalNext (execRingGrant die s) := by
  unfold execRingGrant
  dsimp only
  repeat' split
  all_goals simp [h]

theorem canonical_execTrapRecordDispatch (die comb) {s : State} (h : Canonical (memory s)) :
    CanonicalNext (execTrapRecordDispatch die comb s) := by
  unfold execTrapRecordDispatch
  dsimp only
  repeat' split
  all_goals simp [h]

theorem canonical_execHandlerTimeLimit (die comb) {s : State} (h : Canonical (memory s)) :
    CanonicalNext (execHandlerTimeLimit die comb s) := by
  unfold execHandlerTimeLimit
  dsimp only
  repeat' split
  all_goals simp [h]

theorem canonical_execContextTeardown (die comb) {s : State} (h : Canonical (memory s)) :
    CanonicalNext (execContextTeardown die comb s) := by
  unfold execContextTeardown
  dsimp only
  repeat' split
  all_goals simp [h]

theorem canonical_execBroadcastAcknowledge (die) {s : State} (h : Canonical (memory s)) :
    CanonicalNext (execBroadcastAcknowledge die s) := by
  unfold execBroadcastAcknowledge
  simp [h]

theorem canonical_execDebugContinue (die comb) {s : State} (h : Canonical (memory s)) : CanonicalNext (execDebugContinue die comb s) := by
  unfold execDebugContinue
  dsimp only
  repeat' split
  all_goals simp [h]

theorem canonical_execGrantResend {s : State} (h : Canonical (memory s)) : CanonicalNext (execGrantResend s) :=
  canonical_foldl _ (fun s die hs => canonical_foldl _ (fun s r hs => by simp [hs]) _ hs) _ h

theorem canonical_execPageWalk (die comb ctx acc va) {s : State} (h : Canonical (memory s)) :
    CanonicalNext (execPageWalk die comb ctx acc va s) := by
  unfold execPageWalk
  repeat' split
  all_goals simp [h]

theorem canonical_execReleaseComplete (a) {s : State} (h : Canonical (memory s)) : CanonicalNext (execReleaseComplete a s) := by
  unfold execReleaseComplete
  repeat' split
  all_goals simp [h]

theorem canonical_execWriteBack (tile i) {s : State} (h : Canonical (memory s)) : CanonicalNext (execWriteBack tile i s) := by
  unfold execWriteBack
  repeat' split
  all_goals simp [h]

theorem canonical_execReplicaRead (die pa) {s : State} (h : Canonical (memory s)) : CanonicalNext (execReplicaRead die pa s) := by
  unfold execReplicaRead
  simp [h]

theorem canonical_execQtailWrite (v) {s : State} (h : Canonical (memory s)) : CanonicalNext (execQtailWrite v s) := by
  unfold execQtailWrite
  simp [h]

theorem canonical_execQbaseWrite (v) {s : State} (h : Canonical (memory s)) : CanonicalNext (execQbaseWrite v s) := by
  unfold execQbaseWrite
  simp [h]

theorem canonical_execQsizeWrite (v) {s : State} (h : Canonical (memory s)) : CanonicalNext (execQsizeWrite v s) := by
  unfold execQsizeWrite
  simp [h]

theorem canonical_execNbaseWrite (v) {s : State} (h : Canonical (memory s)) : CanonicalNext (execNbaseWrite v s) := by
  unfold execNbaseWrite
  simp [h]

theorem canonical_execNsizeNheadWrite (v) {s : State} (h : Canonical (memory s)) : CanonicalNext (execNsizeNheadWrite v s) := by
  unfold execNsizeNheadWrite
  simp [h]

theorem canonical_execFacceptWrite (v) {s : State} (h : Canonical (memory s)) : CanonicalNext (execFacceptWrite v s) := by
  unfold execFacceptWrite
  simp [h]

theorem canonical_execRegisterWrite (off v) {s : State} (h : Canonical (memory s)) : CanonicalNext (execRegisterWrite off v s) := by
  unfold execRegisterWrite
  split <;> simp [h]

theorem canonical_execErrorCountClear (die word) {s : State} (h : Canonical (memory s)) :
    CanonicalNext (execErrorCountClear die word s) := by
  unfold execErrorCountClear
  simp [h]

theorem canonical_execReportRequest (nonce) {s : State} (h : Canonical (memory s)) : CanonicalNext (execReportRequest nonce s) := by
  unfold execReportRequest
  simp [h]

theorem canonical_execColdStart (c) {s : State} (h : Canonical (memory s)) : CanonicalNext (execColdStart c s) := by
  unfold execColdStart
  simp [h]

theorem canonical_execWarmStart (c) {s : State} (h : Canonical (memory s)) : CanonicalNext (execWarmStart c s) := by
  unfold execWarmStart
  simp [h]

theorem canonical_execHeartbeat (die) {s : State} (h : Canonical (memory s)) : CanonicalNext (execHeartbeat die s) := h

theorem canonical_execHeartbeatMiss (die probeOk) {s : State} (h : Canonical (memory s)) :
    CanonicalNext (execHeartbeatMiss die probeOk s) := by
  unfold execHeartbeatMiss
  simp [h]

theorem canonical_execCombErrorRetirement (die met) {s : State} (h : Canonical (memory s)) :
    CanonicalNext (execCombErrorRetirement die met s) := by
  unfold execCombErrorRetirement
  simp [h]

theorem canonical_execRetireRequest (die comb) {s : State} (h : Canonical (memory s)) : CanonicalNext (execRetireRequest die comb s) := by
  unfold execRetireRequest
  simp [h]

theorem canonical_execClockStretch (die temp power) {s : State} (h : Canonical (memory s)) :
    CanonicalNext (execClockStretch die temp power s) := h

theorem canonical_execThermalTrip (_die temp) {s : State} (h : Canonical (memory s)) : CanonicalNext (execThermalTrip _die temp s) := by
  unfold execThermalTrip
  simp [h]

theorem canonical_execSecurityAlarm (level sensor die) {s : State} (h : Canonical (memory s)) :
    CanonicalNext (execSecurityAlarm level sensor die s) := by
  unfold execSecurityAlarm
  simp [h]

theorem canonical_execFabricPortDown (port) {s : State} (h : Canonical (memory s)) : CanonicalNext (execFabricPortDown port s) := by
  unfold execFabricPortDown
  simp [h]

theorem canonical_execRetirement {s : State} (h : Canonical (memory s)) : CanonicalNext (execRetirement s) := by
  unfold execRetirement
  lift_lets
  intro t
  have ht : Canonical (memory t) := canonical_foldl _ (fun s ck hs => canonical_combErrs ck hs) _ h
  clear_value t
  split
  · exact ht
  split
  · exact ht
  dsimp only
  split
  · exact ht
  split
  · simp [ht]
  split <;> simp [ht]

theorem canonical_execCtxnew {s : State} (h : Canonical (memory s)) : CanonicalNext (execCtxnew s) := by
  unfold execCtxnew
  dsimp only
  repeat' split
  all_goals simp [h]

theorem canonical_execGrid {s : State} (h : Canonical (memory s)) : CanonicalNext (execGrid s) := by
  unfold execGrid
  dsimp only
  repeat' split
  all_goals simp [h]

theorem canonical_execCtxend {s : State} (h : Canonical (memory s)) : CanonicalNext (execCtxend s) := by
  unfold execCtxend
  dsimp only
  repeat' split
  all_goals simp [h]

theorem canonical_execTree {s : State} (h : Canonical (memory s)) : CanonicalNext (execTree s) := by
  unfold execTree
  dsimp only
  repeat' split
  all_goals simp [h]

theorem canonical_execReportComplete {s : State} (h : Canonical (memory s)) : CanonicalNext (execReportComplete s) := by
  unfold execReportComplete
  dsimp only
  repeat' split
  all_goals simp [h]

theorem canonical_execPowerLoss {s : State} (h : Canonical (memory s)) : CanonicalNext (execPowerLoss s) := h

theorem canonical_hostRegister (link tag n off bs) {s : State} (h : Canonical (memory s)) :
    CanonicalNext (s.hostRegister link tag n off bs) := by
  unfold State.hostRegister
  dsimp only
  split
  · simp [h]
  split
  · exact canonical_execFacceptWrite _ h
  · exact canonical_execQbaseWrite _ h
  · exact canonical_execQsizeWrite _ h
  · exact canonical_execQtailWrite _ h
  · exact canonical_execNbaseWrite _ h
  · exact canonical_execNsizeNheadWrite _ h
  · exact h
  · exact h
  · exact h
  · exact h
  · exact canonical_execRegisterWrite _ _ h

theorem canonical_execFlitReceive (link f) {s : State} (h : Canonical (memory s)) : CanonicalNext (execFlitReceive link f s) := by
  unfold execFlitReceive
  lift_lets
  intro want adapter s₁ s₂ bs
  have h₁ : Canonical (memory s₁) := h
  have h₂ : Canonical (memory s₂) := by
    dsimp only [s₂]
    split <;> simp [h₁]
  clear_value s₂
  split
  · split
    · exact h₂
    split
    · split <;> simp [h₂]
    · split <;> simp [h₂]
    · simp [h₂]
    · exact canonical_hostRegister _ _ _ _ _ h₂
    · exact h₂
  · exact h

end Sys2Proof.Proofs
end

section
namespace Sys2Proof.Proofs
open Sys2Proof Sys2Proof.Machine

/-! # Every instruction and event, and the step -/

/-- What the model's meaning of an instruction gives: an instruction with a word is issued under its opcode, and every instruction
keeps the canonical form of main memory and host memory. -/
structure Meaning (i : Instr) : Prop where
  issues : ∀ p, opForm i = some p → Issues p.1 (exec i)
  canonical : ∀ {s}, Canonical (memory s) → CanonicalNext (exec i s)

theorem Meaning.of_word {i : Instr} {p : Nat × Form} (hp : opForm i = some p) (h : Issues p.1 (exec i)) : Meaning i := by
  refine ⟨fun q hq => ?_, fun {s} hs => ?_⟩
  · obtain rfl := Option.some.inj (hp.symm.trans hq)
    exact h
  · obtain ⟨r, body, hx, -, hb⟩ := h.issued s
    exact hx ▸ canonical_issue hs hb

theorem Meaning.of_event {i : Instr} (hp : opForm i = none) (h : ∀ {s}, Canonical (memory s) → CanonicalNext (exec i s)) : Meaning i :=
  ⟨fun q hq => (by cases hp.symm.trans hq), h⟩

/-- The instructions in the order of `exec`. -/
theorem meaning : ∀ i : Instr, Meaning i
  | .nop f => .of_word rfl (issues_nop f)
  | .exit f => .of_word rfl (issues_exit f)
  | .yield f => .of_word rfl (issues_yield f)
  | .trap f => .of_word rfl (issues_trap f)
  | .brk f => .of_word rfl (issues_brk f)
  | .rdsr f => .of_word rfl (issues_rdsr f)
  | .wrsr f => .of_word rfl (issues_wrsr f)
  | .iadd f => .of_word rfl (issues_iadd f)
  | .isub f => .of_word rfl (issues_isub f)
  | .imul f => .of_word rfl (issues_imul f)
  | .imulhi f => .of_word rfl (issues_imulhi f)
  | .imad f => .of_word rfl (issues_imad f)
  | .imin f => .of_word rfl (issues_imin f)
  | .imax f => .of_word rfl (issues_imax f)
  | .iabs f => .of_word rfl (issues_iabs f)
  | .iaddc f => .of_word rfl (issues_iaddc f)
  | .lea f => .of_word rfl (issues_lea f)
  | .idp4 f => .of_word rfl (issues_idp4 f)
  | .idp2 f => .of_word rfl (issues_idp2 f)
  | .and f => .of_word rfl (issues_and f)
  | .or f => .of_word rfl (issues_or f)
  | .xor f => .of_word rfl (issues_xor f)
  | .andn f => .of_word rfl (issues_andn f)
  | .lop3 f => .of_word rfl (issues_lop3 f)
  | .shl f => .of_word rfl (issues_shl f)
  | .shr f => .of_word rfl (issues_shr f)
  | .sar f => .of_word rfl (issues_sar f)
  | .fshl f => .of_word rfl (issues_fshl f)
  | .bfe f => .of_word rfl (issues_bfe f)
  | .bfi f => .of_word rfl (issues_bfi f)
  | .popc f => .of_word rfl (issues_popc f)
  | .clz f => .of_word rfl (issues_clz f)
  | .brev f => .of_word rfl (issues_brev f)
  | .isetp f => .of_word rfl (issues_isetp f)
  | .fsetp f => .of_word rfl (issues_fsetp f)
  | .sel f => .of_word rfl (issues_sel f)
  | .plop f => .of_word rfl (issues_plop f)
  | .pmov f => .of_word rfl (issues_pmov f)
  | .mov f => .of_word rfl (issues_mov f)
  | .xperm f => .of_word rfl (issues_xperm f)
  | .vote f => .of_word rfl (issues_vote f)
  | .gredi f => .of_word rfl (issues_gredi f)
  | .gredf f => .of_word rfl (issues_gredf f)
  | .gscan f => .of_word rfl (issues_gscan f)
  | .matchEq f => .of_word rfl (issues_matchEq f)
  | .fadd f => .of_word rfl (issues_fadd f)
  | .fsub f => .of_word rfl (issues_fsub f)
  | .fmul f => .of_word rfl (issues_fmul f)
  | .ffma f => .of_word rfl (issues_ffma f)
  | .ffms f => .of_word rfl (issues_ffms f)
  | .fnfma f => .of_word rfl (issues_fnfma f)
  | .fdiv f => .of_word rfl (issues_fdiv f)
  | .fmin f => .of_word rfl (issues_fmin f)
  | .fmax f => .of_word rfl (issues_fmax f)
  | .fabs f => .of_word rfl (issues_fabs f)
  | .fneg f => .of_word rfl (issues_fneg f)
  | .fcpsgn f => .of_word rfl (issues_fcpsgn f)
  | .frnd f => .of_word rfl (issues_frnd f)
  | .fclass f => .of_word rfl (issues_fclass f)
  | .rcp f => .of_word rfl (issues_rcp f)
  | .rsq f => .of_word rfl (issues_rsq f)
  | .sqrt f => .of_word rfl (issues_sqrt f)
  | .exp2 f => .of_word rfl (issues_exp2 f)
  | .log2 f => .of_word rfl (issues_log2 f)
  | .sinpi f => .of_word rfl (issues_sinpi f)
  | .cospi f => .of_word rfl (issues_cospi f)
  | .tanh f => .of_word rfl (issues_tanh f)
  | .cvt f => .of_word rfl (issues_cvt f)
  | .pack2 f => .of_word rfl (issues_pack2 f)
  | .unpk2 f => .of_word rfl (issues_unpk2 f)
  | .cvtmx f => .of_word rfl (issues_cvtmx f)
  | .cvtqn f => .of_word rfl (issues_cvtqn f)
  | .qndec f => .of_word rfl (issues_qndec f)
  | .bra f => .of_word rfl (issues_bra f)
  | .brz f => .of_word rfl (issues_brz f)
  | .brnz f => .of_word rfl (issues_brnz f)
  | .brany f => .of_word rfl (issues_brany f)
  | .brall f => .of_word rfl (issues_brall f)
  | .call f => .of_word rfl (issues_call f)
  | .ret f => .of_word rfl (issues_ret f)
  | .jmpi f => .of_word rfl (issues_jmpi f)
  | .jmpv f => .of_word rfl (issues_jmpv f)
  | .emand f => .of_word rfl (issues_emand f)
  | .emandn f => .of_word rfl (issues_emandn f)
  | .emset f => .of_word rfl (issues_emset f)
  | .emget f => .of_word rfl (issues_emget f)
  | .exitl f => .of_word rfl (issues_exitl f)
  | .loop f => .of_word rfl (issues_loop f)
  | .lbrk f => .of_word rfl (issues_lbrk f)
  | .lcnt f => .of_word rfl (issues_lcnt f)
  | .rgive f => .of_word rfl (issues_rgive f)
  | .rclaim f => .of_word rfl (issues_rclaim f)
  | .winsel f => .of_word rfl (issues_winsel f)
  | .winrd f => .of_word rfl (issues_winrd f)
  | .winwr f => .of_word rfl (issues_winwr f)
  | .gresumeReplay f => .of_word rfl (issues_gresumeReplay f)
  | .gresumeSkip f => .of_word rfl (issues_gresumeSkip f)
  | .gkill f => .of_word rfl (issues_gkill f)
  | .bankcfgOff f => .of_word rfl (issues_bankcfgOff f)
  | .bankcfgCache f => .of_word rfl (issues_bankcfgCache f)
  | .bankcfgScratch f => .of_word rfl (issues_bankcfgScratch f)
  | .bankcfgFifo f => .of_word rfl (issues_bankcfgFifo f)
  | .tlbinvPage f => .of_word rfl (issues_tlbinvPage f)
  | .tlbinvPagePurge f => .of_word rfl (issues_tlbinvPagePurge f)
  | .tlbinvCtx f => .of_word rfl (issues_tlbinvCtx f)
  | .tlbinvAll f => .of_word rfl (issues_tlbinvAll f)
  | .ctxsaveFreeze f => .of_word rfl (issues_ctxsaveFreeze f)
  | .ctxsaveCopies f => .of_word rfl (issues_ctxsaveCopies f)
  | .ctxsaveGroup f => .of_word rfl (issues_ctxsaveGroup f)
  | .ctxsaveTeam f => .of_word rfl (issues_ctxsaveTeam f)
  | .ctxsaveQueues f => .of_word rfl (issues_ctxsaveQueues f)
  | .ctxsaveFifo f => .of_word rfl (issues_ctxsaveFifo f)
  | .ctxloadThaw f => .of_word rfl (issues_ctxloadThaw f)
  | .ctxloadCopies f => .of_word rfl (issues_ctxloadCopies f)
  | .ctxloadGroup f => .of_word rfl (issues_ctxloadGroup f)
  | .ctxloadTeam f => .of_word rfl (issues_ctxloadTeam f)
  | .ctxloadQueues f => .of_word rfl (issues_ctxloadQueues f)
  | .ctxloadFifo f => .of_word rfl (issues_ctxloadFifo f)
  | .ld f => .of_word rfl (issues_ld f)
  | .st f => .of_word rfl (issues_st f)
  | .ldsc f => .of_word rfl (issues_ldsc f)
  | .stsc f => .of_word rfl (issues_stsc f)
  | .ldp f => .of_word rfl (issues_ldp f)
  | .prf f => .of_word rfl (issues_prf f)
  | .ldte f => .of_word rfl (issues_ldte f)
  | .stte f => .of_word rfl (issues_stte f)
  | .cctlIcinv f => .of_word rfl (issues_cctlIcinv f)
  | .cctlL1inv f => .of_word rfl (issues_cctlL1inv f)
  | .cctlWb f => .of_word rfl (issues_cctlWb f)
  | .cctlWbinv f => .of_word rfl (issues_cctlWbinv f)
  | .cctlPin f => .of_word rfl (issues_cctlPin f)
  | .cctlUnpin f => .of_word rfl (issues_cctlUnpin f)
  | .fenceAcq f => .of_word rfl (issues_fenceAcq f)
  | .fenceRel f => .of_word rfl (issues_fenceRel f)
  | .fenceAcqrel f => .of_word rfl (issues_fenceAcqrel f)
  | .fenceSc f => .of_word rfl (issues_fenceSc f)
  | .fenceI f => .of_word rfl (issues_fenceI f)
  | .tsync f => .of_word rfl (issues_tsync f)
  | .tsyncAll f => .of_word rfl (issues_tsyncAll f)
  | .tdinv f => .of_word rfl (issues_tdinv f)
  | .tdinvAll f => .of_word rfl (issues_tdinvAll f)
  | .atom f => .of_word rfl (issues_atom f)
  | .atomcas f => .of_word rfl (issues_atomcas f)
  | .red f => .of_word rfl (issues_red f)
  | .atomsc f => .of_word rfl (issues_atomsc f)
  | .cassc f => .of_word rfl (issues_cassc f)
  | .copy f => .of_word rfl (issues_copy f)
  | .copyo f => .of_word rfl (issues_copyo f)
  | .copym f => .of_word rfl (issues_copym f)
  | .gather f => .of_word rfl (issues_gather f)
  | .copyl f => .of_word rfl (issues_copyl f)
  | .ccancel f => .of_word rfl (issues_ccancel f)
  | .putv f => .of_word rfl (issues_putv f)
  | .getv f => .of_word rfl (issues_getv f)
  | .redv f => .of_word rfl (issues_redv f)
  | .mma f => .of_word rfl (issues_mma f)
  | .mzero f => .of_word rfl (issues_mzero f)
  | .mst f => .of_word rfl (issues_mst f)
  | .mld f => .of_word rfl (issues_mld f)
  | .mrows f => .of_word rfl (issues_mrows f)
  | .mrowmax f => .of_word rfl (issues_mrowmax f)
  | .mrowsum f => .of_word rfl (issues_mrowsum f)
  | .mbar f => .of_word rfl (issues_mbar f)
  | .mwaitb f => .of_word rfl (issues_mwaitb f)
  | .spawn f => .of_word rfl (issues_spawn f)
  | .tret f => .of_word rfl (issues_tret f)
  | .refill f => .of_word rfl (issues_refill f)
  | .wqpush f => .of_word rfl (issues_wqpush f)
  | .send f => .of_word rfl (issues_send f)
  | .fpush f => .of_word rfl (issues_fpush f)
  | .fpop f => .of_word rfl (issues_fpop f)
  | .evpop f => .of_word rfl (issues_evpop f)
  | .primemit f => .of_word rfl (issues_primemit f)
  | .vtwr f => .of_word rfl (issues_vtwr f)
  | .ownwr f => .of_word rfl (issues_ownwr f)
  | .pswr f => .of_word rfl (issues_pswr f)
  | .bari f => .of_word rfl (issues_bari f)
  | .bara f => .of_word rfl (issues_bara f)
  | .barw f => .of_word rfl (issues_barw f)
  | .tbinit f => .of_word rfl (issues_tbinit f)
  | .tbexp f => .of_word rfl (issues_tbexp f)
  | .tbarr f => .of_word rfl (issues_tbarr f)
  | .tbwait f => .of_word rfl (issues_tbwait f)
  | .waitc f => .of_word rfl (issues_waitc f)
  | .depset f => .of_word rfl (issues_depset f)
  | .depdec f => .of_word rfl (issues_depdec f)
  | .owait f => .of_word rfl (issues_owait f)
  | .orels f => .of_word rfl (issues_orels f)
  | .orelsSet f => .of_word rfl (issues_orelsSet f)
  | .timew f => .of_word rfl (issues_timew f)
  | .crest f => .of_word rfl (issues_crest f)
  | .cwait f => .of_word rfl (issues_cwait f)
  | .csub f => .of_word rfl (issues_csub f)
  | .csubCancel f => .of_word rfl (issues_csubCancel f)
  | .pcnt f => .of_word rfl (issues_pcnt f)
  | .pflush f => .of_word rfl (issues_pflush f)
  | .nred f => .of_word rfl (issues_nred f)
  | .wring f => .of_word rfl (issues_wring f)
  | .wringClose f => .of_word rfl (issues_wringClose f)
  | .wpost f => .of_word rfl (issues_wpost f)
  | .wtake f => .of_word rfl (issues_wtake f)
  | .wdone f => .of_word rfl (issues_wdone f)
  | .instructionFetch a => .of_event rfl (canonical_execInstructionFetch a)
  | .issueArbitration die comb core => .of_event rfl (canonical_execIssueArbitration die comb core)
  | .operationCompletion die comb i => .of_event rfl (canonical_execOperationCompletion die comb i)
  | .tlbinvAcknowledge die => .of_event rfl (canonical_execTlbinvAcknowledge die)
  | .storeAtHomeSlice i => .of_event rfl (canonical_execStoreAtHomeSlice i)
  | .mergingFill i => .of_event rfl (canonical_execMergingFill i)
  | .replicaUpdate die comb idx => .of_event rfl (canonical_execReplicaUpdate die comb idx)
  | .remoteWriteAck i => .of_event rfl (canonical_execRemoteWriteAck i)
  | .copySectorWrite die comb idx sector => .of_event rfl (canonical_execCopySectorWrite die comb idx sector)
  | .copyResume die comb idx => .of_event rfl (canonical_execCopyResume die comb idx)
  | .firstRouterCheck i => .of_event rfl (canonical_execFirstRouterCheck i)
  | .messageDelivery i => .of_event rfl (canonical_execMessageDelivery i)
  | .taskArrival die comb => .of_event rfl (canonical_execTaskArrival die comb)
  | .messageConsumption die comb => .of_event rfl (canonical_execMessageConsumption die comb)
  | .parkedEntry die comb => .of_event rfl (canonical_execParkedEntry die comb)
  | .taskDequeue die comb => .of_event rfl (canonical_execTaskDequeue die comb)
  | .forageClaim die comb grid => .of_event rfl (canonical_execForageClaim die comb grid)
  | .teamRetirement die comb team => .of_event rfl (canonical_execTeamRetirement die comb team)
  | .commitPerform i => .of_event rfl (canonical_execCommitPerform i)
  | .dependencyOpArrival die comb => .of_event rfl (canonical_execDependencyOpArrival die comb)
  | .pushDelivery die comb => .of_event rfl (canonical_execPushDelivery die comb)
  | .packetDelivery die comb => .of_event rfl (canonical_execPacketDelivery die comb)
  | .spillReload die comb bank => .of_event rfl (canonical_execSpillReload die comb bank)
  | .primitiveBinning die => .of_event rfl (canonical_execPrimitiveBinning die)
  | .boundAdvance die comb => .of_event rfl (canonical_execBoundAdvance die comb)
  | .eventRecordArrival die comb => .of_event rfl (canonical_execEventRecordArrival die comb)
  | .batchApply die => .of_event rfl (canonical_execBatchApply die)
  | .csubRequestArrival die => .of_event rfl (canonical_execCsubRequestArrival die)
  | .batchAcknowledgement die => .of_event rfl (canonical_execBatchAcknowledgement die)
  | .pendingTimeMerge die => .of_event rfl (canonical_execPendingTimeMerge die)
  | .passGrant die comb => .of_event rfl (canonical_execPassGrant die comb)
  | .passCompletion die comb => .of_event rfl (canonical_execPassCompletion die comb)
  | .passResume die comb seq => .of_event rfl (canonical_execPassResume die comb seq)
  | .reductionPartial die t => .of_event rfl (canonical_execReductionPartial die t)
  | .reductionResult die t => .of_event rfl (canonical_execReductionResult die t)
  | .ringTransfer die num => .of_event rfl (canonical_execRingTransfer die num)
  | .ringForwardComplete die num step => .of_event rfl (canonical_execRingForwardComplete die num step)
  | .ringGrant die => .of_event rfl (canonical_execRingGrant die)
  | .trapRecordDispatch die comb => .of_event rfl (canonical_execTrapRecordDispatch die comb)
  | .handlerTimeLimit die comb => .of_event rfl (canonical_execHandlerTimeLimit die comb)
  | .contextTeardown die comb => .of_event rfl (canonical_execContextTeardown die comb)
  | .broadcastAcknowledge die => .of_event rfl (canonical_execBroadcastAcknowledge die)
  | .debugContinue die comb => .of_event rfl (canonical_execDebugContinue die comb)
  | .grantResend => .of_event rfl canonical_execGrantResend
  | .pageWalk die comb ctx acc va => .of_event rfl (canonical_execPageWalk die comb ctx acc va)
  | .releaseComplete a => .of_event rfl (canonical_execReleaseComplete a)
  | .writeBack tile i => .of_event rfl (canonical_execWriteBack tile i)
  | .replicaRead die pa => .of_event rfl (canonical_execReplicaRead die pa)
  | .qtailWrite v => .of_event rfl (canonical_execQtailWrite v)
  | .qbaseWrite v => .of_event rfl (canonical_execQbaseWrite v)
  | .qsizeWrite v => .of_event rfl (canonical_execQsizeWrite v)
  | .nbaseWrite v => .of_event rfl (canonical_execNbaseWrite v)
  | .nsizeNheadWrite v => .of_event rfl (canonical_execNsizeNheadWrite v)
  | .facceptWrite v => .of_event rfl (canonical_execFacceptWrite v)
  | .registerWrite off v => .of_event rfl (canonical_execRegisterWrite off v)
  | .errorCountClear die word => .of_event rfl (canonical_execErrorCountClear die word)
  | .reportRequest nonce => .of_event rfl (canonical_execReportRequest nonce)
  | .flitReceive link f => .of_event rfl (canonical_execFlitReceive link f)
  | .coldStart c => .of_event rfl (canonical_execColdStart c)
  | .warmStart c => .of_event rfl (canonical_execWarmStart c)
  | .heartbeat die => .of_event rfl (canonical_execHeartbeat die)
  | .heartbeatMiss die probeOk => .of_event rfl (canonical_execHeartbeatMiss die probeOk)
  | .combErrorRetirement die met => .of_event rfl (canonical_execCombErrorRetirement die met)
  | .retireRequest die comb => .of_event rfl (canonical_execRetireRequest die comb)
  | .clockStretch die temp power => .of_event rfl (canonical_execClockStretch die temp power)
  | .thermalTrip die temp => .of_event rfl (canonical_execThermalTrip die temp)
  | .securityAlarm level sensor die => .of_event rfl (canonical_execSecurityAlarm level sensor die)
  | .fabricPortDown port => .of_event rfl (canonical_execFabricPortDown port)
  | .retirement => .of_event rfl canonical_execRetirement
  | .ctxnew => .of_event rfl canonical_execCtxnew
  | .grid => .of_event rfl canonical_execGrid
  | .ctxend => .of_event rfl canonical_execCtxend
  | .tree => .of_event rfl canonical_execTree
  | .reportComplete => .of_event rfl canonical_execReportComplete
  | .powerLoss => .of_event rfl canonical_execPowerLoss

/-- Settles O51: an instruction with a word is an issue under a rule of its opcode, and an issue answers a next state. -/
theorem everyInstructionIssues : Obligations.EveryInstructionIssues := by
  intro i p s hp
  obtain ⟨r, body, hx, hr, -⟩ := ((meaning i).issues p hp).issued s
  exact ⟨r, body, hr, hx, hx ▸ issue_next s r body⟩

theorem canonical_stepAgent {s : State} (a : Agent) (h : Canonical (memory s)) : CanonicalNext (stepAgent s a) := by
  unfold stepAgent
  split
  · exact h
  split
  · exact h
  split
  · simp [h]
  next hf =>
  have hs := canonical_fetch h hf
  split
  · simp [hs]
  next i _ _ => exact (meaning i).canonical hs

theorem canonical_turn {s : State} (x : Turn) (h : Canonical (memory s)) : CanonicalNext (s.turn x) := by
  cases x with
  | carryOn a => exact canonical_stepAgent a h
  | event e => exact (meaning e).canonical h
  | timed ck t e => exact (meaning e).canonical (by simpa using h)

theorem canonical_looked {o : Host.Outcome State Fault Refusal} (h : CanonicalNext o) : CanonicalNext (looked o) := by
  cases o with
  | next s => exact canonical_look h
  | fault f => trivial
  | refused r => trivial

theorem canonical_step {s : State} (h : Canonical (memory s)) : CanonicalNext (step s) := by
  unfold step
  split
  · split
    · exact canonical_looked ((meaning _).canonical h)
    · exact h
  · split
    · split
      · exact canonical_looked (canonical_stepAgent _ h)
      · split
        · exact canonical_looked (canonical_turn _ h)
        · exact h
    · split <;> trivial

/-- Settles O59: what writes main memory or host memory writes it byte by byte, or empties it, and each of these keeps the canonical
form; everything else a step does leaves both as they are. -/
theorem mainMemoryStaysCanonical : Obligations.MainMemoryStaysCanonical := by
  intro s t hbm host h
  have hs : CanonicalNext (step s) := canonical_step ⟨hbm, host⟩
  rw [h] at hs
  exact hs

end Sys2Proof.Proofs
end

section
namespace Sys2Proof.Proofs
open Sys2Proof Sys2Proof.Machine

/-! # The end of a group (R34, R176, R338) -/

/-- No comb changes with the agent that issues next. -/
theorem comb_setCur (s : State) (a : Option Agent) (k : Nat) : ({ s with cur := a } : State).comb k = s.comb k := by rfl

/-! ## The slot it leaves -/

/-- A group that leaves its slot is gone from its comb, its team counts one group less, and no other comb changes. -/
theorem comb_freeSlot (s : State) (ck slot : Nat) (th : Thread) :
    ∃ c : Comb, (∀ k, (s.freeSlot ck slot th).comb k = if k = ck then c else s.comb k) ∧
      c.groups = Sparse.erase (s.comb ck).groups slot ∧
      ∀ t, Sparse.find? (s.comb ck).teams th.place.team = some t →
        c.teams = Sparse.put (s.comb ck).teams th.place.team { t with live := t.live - 1 } := by
  unfold State.freeSlot
  extract_lets s1
  refine ⟨s1.comb ck, fun k => ?_, ?_, fun t ht => ?_⟩
  · have h : s1.comb k = if k = ck then s1.comb ck else s.comb k := by
      simp only [s1, State.comb_modComb, if_true]
    split
    · split <;> exact h
    · exact h
  · simp only [s1, State.comb_modComb_self]
    split <;> rfl
  · simp only [s1, State.comb_modComb_self, ht]

theorem freedSlotIsEmpty : Claim.FreedSlotIsEmpty := by
  intro s ck k th
  obtain ⟨c, hcomb, hgroups, hteams⟩ := comb_freeSlot s ck k th
  have hself : (s.freeSlot ck k th).comb ck = c := (hcomb ck).trans (if_pos rfl)
  rw [hself, hgroups]
  refine ⟨Sparse.find?_erase_self _ _, fun j hj => Sparse.find?_erase_ne _ hj, fun t ht => ?_, fun j hj => ?_⟩
  · rw [hteams t ht, Sparse.find?_put_self]
  · exact (hcomb j).trans (if_neg hj)

/-! ## The instruction that ends it -/

/-- The effect of an instruction that retires the group of a slot: nothing is written, and no PC follows. -/
def retired (e : Env) (slot : Nat) : Out := ⟨e.s.retire e.ck slot e.th, e.th, [], 0, none, .gone⟩

/-- A team's group retires at once (R34). -/
theorem endGroup_of_team {e : Env} {d c k : Nat} (ha : e.ag = .group d c k) (ht : e.th.place.isTask = false) :
    e.endGroup e.s e.th = .ok (retired e k) := by
  simp [Env.endGroup, ha, ht, retired]

/-- A task with nothing to commit, whose sends are delivered and whose release is complete, retires (R338, R341). -/
theorem endGroup_of_task {e : Env} {d c k : Nat} (ha : e.ag = .group d c k) (ht : e.th.place.isTask = true)
    (hdoomed : e.th.doomed.any (· < e.t) = false)
    (hcommit : e.th.place.atomic = false ∨ (e.th.commit = [] ∧ (e.s.journal.any fun j => j.uid = e.th.uid) = false))
    (hsends : e.s.sendsDone e.ck e.th.uid = true) (hrel : e.s.releaseDone e.ck e.th.uid 3 e.s.nextUid = true) :
    e.endGroup e.s e.th = .ok (retired e k) := by
  have hc : (e.th.place.atomic && (!e.th.commit.isEmpty || e.s.journal.any fun j => j.uid = e.th.uid)) = false := by
    obtain h | ⟨h, hj⟩ := hcommit
    · simp only [h, Bool.false_and]
    · simp only [h, hj, List.isEmpty_nil, Bool.not_true, Bool.or_self, Bool.and_false]
  simp only [Env.endGroup, ha, ht, hdoomed, hc, hsends, hrel, retired, Bool.not_true, Bool.or_self, Bool.false_eq_true, if_true, if_false]

/-- A stream's EXIT ends the stream, and no agent is current (R176). -/
theorem endGroup_of_stream {e : Env} {d c q : Nat} (ha : e.ag = .stream d c q) :
    ∃ o : Out, e.endGroup e.s e.th = .ok o ∧ o.trap = none ∧ o.next = .gone ∧ o.writes = [] ∧ o.s.cur = none ∧
      ∀ x, Sparse.find? (e.s.comb e.ck).seqs q = some x →
        Sparse.find? (o.s.comb e.ck).seqs q = some { x with th := e.th, ended := true } := by
  simp only [Env.endGroup, ha]
  refine ⟨_, rfl, rfl, rfl, rfl, rfl, fun x hx => ?_⟩
  simp only [comb_setCur, State.comb_modComb_self, hx]
  exact Sparse.find?_put_self _ _ _

theorem groupEnd : Claim.GroupEnd := by
  intro f gone team group taskDone
  have of_team (e : Env) (h : group e ∧ e.th.place.isTask = false) : ∃ o, e.endGroup e.s e.th = .ok o ∧ o.trap = none ∧ team e o := by
    obtain ⟨⟨d, c, k, ha⟩, ht⟩ := h
    refine ⟨_, endGroup_of_team ha ht, rfl, ⟨rfl, rfl⟩, fun d' c' k' ha' => ?_⟩
    cases ha.symm.trans ha'
    rfl
  have of_task (e : Env) (h : taskDone e) : ∃ o, e.endGroup e.s e.th = .ok o ∧ o.trap = none ∧ team e o := by
    obtain ⟨⟨d, c, k, ha⟩, ht, hdoomed, hcommit, -, hsends, hrel⟩ := h
    refine ⟨_, endGroup_of_task ha ht hdoomed hcommit hsends hrel, rfl, ⟨rfl, rfl⟩, fun d' c' k' ha' => ?_⟩
    cases ha.symm.trans ha'
    rfl
  have of_stream (e : Env) (h : ∃ d c q, e.ag = .stream d c q) : ∃ o, e.endGroup e.s e.th = .ok o ∧ o.trap = none ∧ gone o ∧ o.s.cur = none ∧
      ∀ d c q x, e.ag = .stream d c q → Sparse.find? (e.s.comb e.ck).seqs q = some x →
        Sparse.find? (o.s.comb e.ck).seqs q = some { x with th := e.th, ended := true } := by
    obtain ⟨d, c, q, ha⟩ := h
    obtain ⟨o, ho, htrap, hnext, hwrites, hcur, hseq⟩ := endGroup_of_stream ha
    refine ⟨o, ho, htrap, ⟨hnext, hwrites⟩, hcur, fun d' c' q' x ha' hx => ?_⟩
    cases ha.symm.trans ha'
    exact hseq x hx
  exact ⟨.of_body fun _ => ⟨_, rfl, of_team⟩, .of_body fun _ => ⟨_, rfl, of_task⟩, .of_body fun _ => ⟨_, rfl, of_stream⟩,
    .of_body fun _ => ⟨_, rfl, of_team⟩, .of_body fun _ => ⟨_, rfl, of_task⟩⟩

/-- Settles O9: what EXIT and TRET do where the group, stream or task ends, and the slot that is left. -/
theorem groupsEnd : Obligations.GroupsEnd := ⟨groupEnd, freedSlotIsEmpty⟩

end Sys2Proof.Proofs
end

section
namespace Sys2Proof.Proofs
open Sys2Proof Sys2Proof.Machine

/-! # Reset (R14, R18, R98, R236, R447, R454) -/

/-- No word of main memory holds a bit at reset, and no line covers one (R454; log entry 4). -/
theorem wordNow_reset (w : Nat) : State.reset.wordNow w = 0 := rfl

/-- A byte of main memory reads 0 at reset. -/
theorem byteNow_reset {loc : Nat} (h : loc < hostBase) : State.reset.byteNow loc = 0 := by
  rw [State.byteNow, if_neg (Nat.not_le.2 h), wordNow_reset]
  simp

/-- Every die is live at reset (log entry 5). -/
theorem liveDies_reset : State.reset.liveDies.length = 36 := rfl

/-- Settles O58: a comb and a die that nothing has changed are as their reset records say. -/
theorem resetValues : Obligations.ResetValues := by
  refine ⟨rfl, liveDies_reset, rfl, rfl, rfl, rfl, rfl, fun d _ => ?_, fun loc h => byteNow_reset h, fun ck => ?_, rfl, rfl, rfl, rfl, rfl, rfl, rfl, rfl, rfl⟩
  · rw [State.die_reset]
    exact ⟨rfl, rfl, rfl⟩
  · rw [State.comb_reset]
    exact ⟨rfl, rfl, rfl, rfl, fun _ => rfl, fun _ => rfl, rfl⟩

end Sys2Proof.Proofs
end

section
namespace Sys2Proof.Proofs
open Sys2Proof Sys2Proof.Machine

/-! # What issues next (R36, R68, R86, R87, R335, R465) -/

/-! ## The events of a core -/

/-- Counting the errors that a read met changes no comb. -/
theorem combs_countWords (s : State) (ws : List Nat) : (s.countWords ws).combs = s.combs :=
  foldl_keeps State.combs _ (fun _ _ => by split <;> rfl) ws s

/-- Counting the error behind a fetch changes no comb. -/
theorem combs_countFetch (s : State) (ck : Nat) (ctx : Option Nat) (va code : Nat) : (s.countFetch ck ctx va code).combs = s.combs := by
  unfold State.countFetch
  split
  · rfl
  · split <;> exact combs_countWords ..

theorem comb_countFetch (s : State) (ck : Nat) (ctx : Option Nat) (va code k : Nat) : (s.countFetch ck ctx va code).comb k = s.comb k := by
  rw [State.comb, State.comb, combs_countFetch]

/-- A trap is taken unless it is a stream's whose record finds no place (R357). -/
theorem trapAgent_of_place {s : State} {a : Agent} (th : Thread) (f : TrapInfo)
    (h : a.isStream = true → (s.comb (agentKey a)).canPost = true) : s.trapAgent a th f = s.takeTrap a th f := by
  refine if_neg fun hn => ?_
  obtain ⟨ha, hp⟩ := Bool.and_eq_true_iff.1 hn
  rw [h ha] at hp
  exact absurd hp (by decide)

/-- A stream whose record finds no place waits (R357). -/
theorem trapAgent_of_full {s : State} {a : Agent} (th : Thread) (f : TrapInfo) (ha : a.isStream = true)
    (hp : (s.comb (agentKey a)).canPost = false) :
    s.trapAgent a th f = { (s.setThread a { th with wait := if th.wait = .none then .again else th.wait }) with cur := none } :=
  if_pos (by rw [ha, hp]; rfl)

theorem exec_issueArbitration {s : State} {die comb core k : Nat} (h : s.arbitrate (combKey die comb) core = some k) :
    exec (.issueArbitration die comb core) s = .next { s with cur := some (.group die comb k), freeN := s.freeN + 1 } := by
  simp only [exec, execIssueArbitration, h]

/-- A fetch that fails traps, with what it met counted (R68, R248). -/
theorem exec_instructionFetch_error {s : State} {a : Agent} {th : Thread} {f : TrapInfo} (ht : s.thread a = some th)
    (hr : th.stopped = false) (hf : s.fetch a th = .error f) :
    exec (.instructionFetch a) s = .next ((s.countFetch (agentKey a) (s.agentCtx a) th.pc.toNat f.cause).trapAgent a th f) := by
  simp only [exec, execInstructionFetch, ht, hr, hf, Bool.false_eq_true, if_false]

theorem exec_releaseComplete {s : State} {a : Agent} {th : Thread} {sc : Nat} (ht : s.thread a = some th) (hw : th.wait = .release sc)
    (hd : s.releaseDone (agentKey a) th.uid sc s.nextUid = true) :
    exec (.releaseComplete a) s = .next { (s.setThread a { th with wait := .released }) with cur := some a } := by
  simp only [exec, execReleaseComplete, ht, hw, hd, if_true]

theorem coreEvents : Claim.CoreEvents := by
  intro s a th die comb core
  refine ⟨fun _ => exec_issueArbitration, fun s' w ht hr hf => ?_, fun f ht hr hf => ?_, fun _ => exec_releaseComplete⟩
  · cases a <;> simp only [exec, execInstructionFetch, ht, hr, hf, Bool.false_eq_true, if_false]
  · intro x
    have hx : x.comb (agentKey a) = s.comb (agentKey a) := comb_countFetch ..
    rw [exec_instructionFetch_error ht hr hf]
    exact ⟨fun hp => congrArg _ (trapAgent_of_place th f (by rwa [hx])), fun ha hp => congrArg _ (trapAgent_of_full th f ha (by rwa [hx]))⟩

/-! ## The order in which groups go (R36, R335) -/

/-- Group `b` does not go before group `a`: not by priority and waiting, and where these are equal its slot is no lower (R36, R335). -/
def NotAfter (now : Nat) (a b : Nat × Thread) : Prop := b.2.before now a.2 = false ∧ (a.2.before now b.2 = false → a.1 ≤ b.1)

/-- Going before, as an order of two numbers: the effective priority downward, then the clk of readiness upward. -/
theorem before_eq_false {now : Nat} {a b : Thread} :
    a.before now b = false ↔ aged a.place.prio a.readyAt now < aged b.place.prio b.readyAt now ∨
      (aged a.place.prio a.readyAt now = aged b.place.prio b.readyAt now ∧ b.readyAt ≤ a.readyAt) := by
  simp only [Thread.before, Bool.or_eq_false_iff, Bool.and_eq_false_iff, decide_eq_false_iff_not]
  omega

theorem before_asymm {now : Nat} {a b : Thread} (h : a.before now b = true) : b.before now a = false := by
  rw [before_eq_false]
  have hn := mt before_eq_false.2 (Bool.not_eq_false _ ▸ h)
  omega

theorem NotAfter.refl (now : Nat) (a : Nat × Thread) : NotAfter now a a :=
  ⟨before_eq_false.2 (.inr ⟨rfl, Nat.le_refl _⟩), fun _ => Nat.le_refl _⟩

theorem NotAfter.trans {now : Nat} {a b c : Nat × Thread} (h : NotAfter now a b) (g : NotAfter now b c) : NotAfter now a c := by
  unfold NotAfter at *
  simp only [before_eq_false] at *
  omega

/-- The one of two groups that wins the slot. -/
def winner (now : Nat) (x g : Nat × Thread) : Nat × Thread :=
  if g.2.before now x.2 || (!x.2.before now g.2 && decide (g.1 < x.1)) then g else x

theorem winner_notAfter (now : Nat) (x g : Nat × Thread) :
    (winner now x g = x ∨ winner now x g = g) ∧ NotAfter now (winner now x g) x ∧ NotAfter now (winner now x g) g := by
  unfold winner
  cases hg : g.2.before now x.2 <;> cases hx : x.2.before now g.2
  · by_cases hs : g.1 < x.1
    · rw [if_pos (by simpa using hs)]
      exact ⟨.inr rfl, ⟨hx, fun _ => Nat.le_of_lt hs⟩, .refl now g⟩
    · rw [if_neg (by simpa using hs)]
      exact ⟨.inl rfl, .refl now x, hg, fun _ => Nat.le_of_not_lt hs⟩
  · exact ⟨.inl rfl, .refl now x, hg, fun h => absurd (hx.symm.trans h) (by decide)⟩
  · exact ⟨.inr rfl, ⟨hx, fun h => absurd (hg.symm.trans h) (by decide)⟩, .refl now g⟩
  · exact absurd hx (by rw [before_asymm hg]; decide)

theorem firstGroup_cons_cons (now : Nat) (x g : Nat × Thread) (gs : List (Nat × Thread)) :
    firstGroup now (x :: g :: gs) = firstGroup now (winner now x g :: gs) := by
  unfold firstGroup winner
  simp only [List.foldl_cons]
  split <;> rfl

/-- Of some groups there is one that wins the slot, and none of them goes before it. -/
theorem firstGroup_notAfter (now : Nat) (gs : List (Nat × Thread)) : ∀ x, ∃ y ∈ x :: gs, firstGroup now (x :: gs) = some y ∧
    ∀ g ∈ x :: gs, NotAfter now y g := by
  induction gs with
  | nil => exact fun x => ⟨x, List.mem_cons_self .., rfl, fun g hg => by rw [List.mem_singleton.1 hg]; exact .refl now x⟩
  | cons g gs ih =>
    intro x
    obtain ⟨hw, hx, hg⟩ := winner_notAfter now x g
    obtain ⟨y, hy, he, hall⟩ := ih (winner now x g)
    have hyw := hall _ (List.mem_cons_self ..)
    refine ⟨y, ?_, (firstGroup_cons_cons now x g gs).trans he, fun z hz => ?_⟩
    · obtain h | h := hw <;> rw [h] at hy <;> simp only [List.mem_cons] at hy ⊢ <;> tauto
    · obtain rfl | rfl | hz := by simpa only [List.mem_cons] using hz
      · exact hyw.trans hx
      · exact hyw.trans hg
      · exact hall z (List.mem_cons_of_mem _ hz)

/-- Of some groups there is a first clk at which any of them can issue. -/
theorem firstClk_le (s : State) (ck : Nat) (gs : List (Nat × Thread)) (h : gs ≠ []) :
    ∃ t, s.firstClk ck gs = some t ∧ (∃ g ∈ gs, s.groupClk ck g = t) ∧ ∀ g ∈ gs, t ≤ s.groupClk ck g := by
  induction gs with
  | nil => exact absurd rfl h
  | cons g gs ih =>
    by_cases hn : gs = []
    · subst hn
      exact ⟨_, rfl, ⟨g, List.mem_cons_self .., rfl⟩, fun x hx => by rw [List.mem_singleton.1 hx]⟩
    · obtain ⟨t, ht, ⟨m, hm, hmt⟩, hall⟩ := ih hn
      refine ⟨Nat.min t (s.groupClk ck g), by simp only [State.firstClk, ht], ?_, fun x hx => ?_⟩
      · obtain hle | hle := Nat.le_total t (s.groupClk ck g)
        · exact ⟨m, List.mem_cons_of_mem _ hm, hmt.trans (Nat.min_eq_left hle).symm⟩
        · exact ⟨g, List.mem_cons_self .., (Nat.min_eq_right hle).symm⟩
      · obtain rfl | hx := List.mem_cons.1 hx
        · exact Nat.min_le_right ..
        · exact (Nat.min_le_left ..).trans (hall x hx)

/-! ## Arbitration -/

/-- A core whose ready groups hold none in the middle of its run gives the slot to one of those that can issue first, after which
none of these goes. -/
theorem arbitrate_of_first {s : State} {ck core : Nat} (hne : s.readyGroups ck core ≠ []) (hr : ∀ g ∈ s.readyGroups ck core, g.2.runLen = 0) :
    ∃ x ∈ s.readyGroups ck core, s.arbitrate ck core = some x.1 ∧ ∀ g ∈ s.readyGroups ck core,
      s.groupClk ck x ≤ s.groupClk ck g ∧ (s.groupClk ck g = s.groupClk ck x → NotAfter (s.groupClk ck x) x g) := by
  obtain ⟨t, ht, ⟨m, hm, hmt⟩, hall⟩ := firstClk_le s ck _ hne
  have hnone : (s.readyGroups ck core).find? (fun g => decide (0 < g.2.runLen)) = none :=
    List.find?_eq_none.2 fun g hg => by simp [hr g hg]
  have hmem (g) : g ∈ (s.readyGroups ck core).filter (fun g => decide (s.groupClk ck g ≤ t)) ↔ g ∈ s.readyGroups ck core ∧ s.groupClk ck g = t := by
    rw [List.mem_filter, decide_eq_true_iff]
    exact ⟨fun h => ⟨h.1, Nat.le_antisymm h.2 (hall g h.1)⟩, fun h => ⟨h.1, Nat.le_of_eq h.2⟩⟩
  obtain ⟨y, ys, hy⟩ := List.exists_cons_of_ne_nil (List.ne_nil_of_mem ((hmem m).2 ⟨hm, hmt⟩))
  obtain ⟨x, hx, he, hbest⟩ := firstGroup_notAfter t ys y
  rw [← hy] at hx he hbest
  obtain ⟨hxr, hxt⟩ := (hmem x).1 hx
  refine ⟨x, hxr, ?_, fun g hg => ⟨hxt ▸ hall g hg, fun h => ?_⟩⟩
  · simp only [State.arbitrate, hnone, ht, Option.bind_some, he, Option.map_some]
  · rw [hxt] at h ⊢
    exact hbest g ((hmem g).2 ⟨hg, h⟩)

/-- A core one of whose ready groups is in the middle of its run gives the slot to such a group (R86). -/
theorem arbitrate_of_run {s : State} {ck core : Nat} (hr : ∃ g ∈ s.readyGroups ck core, 0 < g.2.runLen) :
    ∃ x ∈ s.readyGroups ck core, s.arbitrate ck core = some x.1 ∧ 0 < x.2.runLen := by
  obtain ⟨g, hg, hl⟩ := hr
  obtain ⟨x, hx⟩ := Option.isSome_iff_exists.1 (List.find?_isSome (p := fun g : Nat × Thread => decide (0 < g.2.runLen)).2 ⟨g, hg, decide_eq_true hl⟩)
  exact ⟨x, List.mem_of_find?_eq_some hx, by simp only [State.arbitrate, hx], by simpa using List.find?_some hx⟩

/-- No group is ready, no group wins. -/
theorem arbitrate_of_none {s : State} {ck core : Nat} (h : s.readyGroups ck core = []) : s.arbitrate ck core = none := by
  simp only [State.arbitrate, h, List.find?_nil, State.firstClk, Option.bind_none]

theorem arbitrationOrder : Claim.ArbitrationOrder := by
  intro s ck core ready
  have norun (hr : ¬ ∃ g ∈ ready, 0 < g.2.runLen) : ∀ g ∈ ready, g.2.runLen = 0 :=
    fun g hg => Nat.eq_zero_of_not_pos fun h => hr ⟨g, hg, h⟩
  refine ⟨fun g hg => List.mem_filter.1 hg, fun hne => ?_, fun k hk => ?_⟩
  · by_cases hr : ∃ g ∈ ready, 0 < g.2.runLen
    · obtain ⟨x, -, hx, -⟩ := arbitrate_of_run hr
      rw [hx, Option.isSome_some]
    · obtain ⟨x, -, hx, -⟩ := arbitrate_of_first hne (norun hr)
      rw [hx, Option.isSome_some]
  · by_cases hr : ∃ g ∈ ready, 0 < g.2.runLen
    · obtain ⟨x, hm, hx, hl⟩ := arbitrate_of_run hr
      obtain rfl := Option.some.inj (hx.symm.trans hk)
      exact ⟨x.2, hm, fun _ => hl, fun h => absurd hl (by rw [h x hm]; decide)⟩
    · have hne : ready ≠ [] := fun h => absurd (hk.symm.trans (arbitrate_of_none h)) (by simp)
      obtain ⟨x, hm, hx, hfirst⟩ := arbitrate_of_first hne (norun hr)
      obtain rfl := Option.some.inj (hx.symm.trans hk)
      exact ⟨x.2, hm, fun h => absurd h hr, fun _ => hfirst⟩

/-- Settles O34: the events of a core, and what the winner of arbitration goes before: among the groups
that can issue at the first clk it is least in priority downward, readiness and slot. -/
theorem issueAndArbitration : Obligations.IssueAndArbitration := ⟨coreEvents, arbitrationOrder⟩

end Sys2Proof.Proofs
end

section
namespace Sys2Proof.Proofs
open Sys2Proof Sys2Proof.Machine

/-! # Messages (R20, R21, R215, R216, R333, R348, R361, R363) -/

/-! ## Routers -/

/-- The first router discards a message that stands behind no other and names another generation (R20). -/
theorem exec_firstRouterCheck_stale {s : State} {i : Nat} {m : Msg} (hm : s.msgs[i]? = some m) (hb : s.behind i m = false)
    (ho : m.stage = .outbound) (hg : m.carriesGen = true) (hst : m.name.toNat / 2 ^ 14 % 16 ≠ (s.die m.srcDie).gen.toNat) :
    exec (.firstRouterCheck i) s = .next (((s.dropMsg i).discardStale m).flushKilled m.src) := by
  have hgo : ¬ (m.stage ≠ .outbound ∨ s.behind i m = true) := by simp [ho, hb]
  simp only [exec, execFirstRouterCheck, hm, if_neg hgo, hg, decide_eq_true hst, Bool.and_self, if_true]

/-- The first router sends a message that is not stale to the die that its LMAP gives, if it gives one (R215). -/
theorem exec_firstRouterCheck_current {s : State} {i : Nat} {m : Msg} (hm : s.msgs[i]? = some m) (hb : s.behind i m = false)
    (ho : m.stage = .outbound) (hst : ¬ (m.carriesGen = true ∧ m.name.toNat / 2 ^ 14 % 16 ≠ (s.die m.srcDie).gen.toNat)) :
    (∀ phys, (s.die m.srcDie).lmap[m.name.toNat / 256 % 64]? = some phys →
      exec (.firstRouterCheck i) s = .next (s.setMsg i { m with stage := .mesh phys })) ∧
    ((s.die m.srcDie).lmap[m.name.toNat / 256 % 64]? = none →
      exec (.firstRouterCheck i) s = .next (((s.dropMsg i).discardDead m (m.name.toNat / 256 % 64)).flushKilled m.src)) := by
  have hn : (m.carriesGen && decide (m.name.toNat / 2 ^ 14 % 16 ≠ (s.die m.srcDie).gen.toNat)) = false := by
    rwa [← Bool.not_eq_true, Bool.and_eq_true, decide_eq_true_eq]
  have hgo : ¬ (m.stage ≠ .outbound ∨ s.behind i m = true) := by simp [ho, hb]
  constructor
  · intro phys hl
    simp only [exec, execFirstRouterCheck, hm, if_neg hgo, hn, hl, Bool.false_eq_true, if_false]
  · intro hl
    simp only [exec, execFirstRouterCheck, hm, if_neg hgo, hn, hl, Bool.false_eq_true, if_false]

/-- A message that travels to a dead die is discarded (R375). -/
theorem exec_messageDelivery_dead {s : State} {i die : Nat} {m : Msg} (hm : s.msgs[i]? = some m) (hb : s.behind i m = false)
    (hs : m.stage = .mesh die) (hd : (s.die die).live = false) :
    exec (.messageDelivery i) s = .next (((s.dropMsg i).discardDead m ((s.die die).ldie die)).flushKilled m.src) := by
  simp [exec, execMessageDelivery, hm, hb, hs, hd]

/-- A live die looks up the comb of a message that travels to it behind no other (R216). -/
theorem exec_messageDelivery_live {s : State} {i die : Nat} {m : Msg} (hm : s.msgs[i]? = some m) (hb : s.behind i m = false)
    (hs : m.stage = .mesh die) (hd : (s.die die).live = true) (l : Nat)
    (hl : l = if m.name.toNat % 256 = 0xFF then s.leastLoaded die else m.name.toNat % 256) :
    exec (.messageDelivery i) s =
      if m.body.perComb = true ∧ m.carriesGen = true ∧ s.movedSince die l (m.name.toNat / 2 ^ 14 % 16) = true then
        .next (((s.dropMsg i).discardStale m).flushKilled m.src)
      else .next { s with msgs := s.msgs.eraseIdx i ++ [{ m with stage := .arrived die ((s.die die).combEnt l).phys }] } := by
  subst hl
  simp only [exec, execMessageDelivery, hm, hb, hs, hd, Bool.not_true, Bool.false_eq_true, if_false, Bool.and_eq_true, and_assoc]

theorem messageRouting : Claim.MessageRouting := by
  intro s i m hm hb name stale
  refine ⟨fun ho hst => exec_firstRouterCheck_stale hm hb ho hst.1 hst.2,
    fun phys ho hst => (exec_firstRouterCheck_current hm hb ho hst).1 phys,
    fun ho hst => (exec_firstRouterCheck_current hm hb ho hst).2,
    fun die => exec_messageDelivery_dead hm hb, fun die hs hd => ?_⟩
  intro l
  split
  · next h => exact (exec_messageDelivery_live hm hb hs hd l rfl).trans (if_pos h)
  · next h => exact (exec_messageDelivery_live hm hb hs hd l rfl).trans (if_neg h)

/-! ## Arrivals at a comb -/

/-- The first message of a kind that must park is parked (R348). -/
theorem arrive_of_mustPark {s : State} {die comb i : Nat} {kind : MsgBody → Bool} {m : Msg} (hf : s.firstAt die comb kind = some (i, m))
    (hp : s.mustPark (combKey die comb) m = true) : s.arrive die comb kind = (s.park (combKey die comb) i m).flushKilled m.src := by
  simp only [State.arrive, hf, hp, if_true]

/-- The first message of a kind that finds room enters (R333). -/
theorem arrive_of_enter {s t : State} {die comb i : Nat} {kind : MsgBody → Bool} {m : Msg} (hf : s.firstAt die comb kind = some (i, m))
    (hp : s.mustPark (combKey die comb) m = false) (he : (s.dropMsg i).enter (combKey die comb) m = some t) :
    s.arrive die comb kind = t.flushKilled m.src := by
  simp only [State.arrive, hf, hp, he, Bool.false_eq_true, if_false]

/-- A task's record that finds no room is parked (R333). -/
theorem arrive_of_noRoom {s : State} {die comb i : Nat} {kind : MsgBody → Bool} {m : Msg} (hf : s.firstAt die comb kind = some (i, m))
    (hp : s.mustPark (combKey die comb) m = false) (he : (s.dropMsg i).enter (combKey die comb) m = none) (hb : m.body.spills = true) :
    s.arrive die comb kind = (s.park (combKey die comb) i m).flushKilled m.src := by
  simp only [State.arrive, hf, hp, he, hb, Bool.false_eq_true, if_false, if_true]

/-- A parked message of a context that is not frozen enters once it finds room (R333, R348). -/
theorem exec_parkedEntry {s t : State} {die comb : Nat} {m : Msg}
    (hf : (s.comb (combKey die comb)).parked.find? (fun m => !s.isFrozen (combKey die comb) m.ctx) = some m)
    (he : (s.setComb (combKey die comb) { s.comb (combKey die comb) with parked := (s.comb (combKey die comb)).parked.erase m }).enter
      (combKey die comb) m = some t) : exec (.parkedEntry die comb) s = .next t := by
  simp only [exec, execParkedEntry, hf, he]

theorem messageArrivals : Claim.MessageArrivals := by
  intro s die comb ck delivers
  have of_arrive (e : Instr) (kind : MsgBody → Bool) (h : exec e s = .next (s.arrive die comb kind)) : delivers e kind := by
    intro i m hf
    rw [h]
    exact ⟨fun hp => congrArg _ (arrive_of_mustPark hf hp), fun t hp he => congrArg _ (arrive_of_enter hf hp he),
      fun hp he hb => congrArg _ (arrive_of_noRoom hf hp he hb)⟩
  exact ⟨of_arrive _ _ rfl, of_arrive _ _ rfl, of_arrive _ _ rfl, of_arrive _ _ rfl, of_arrive _ _ rfl, of_arrive _ _ rfl, of_arrive _ _ rfl,
    fun _ _ => exec_parkedEntry, fun _ => rfl⟩

/-! ## Discarded messages -/

theorem discardedSpawn : Claim.DiscardedSpawn := by
  intro s ck u d op hops hu hkind
  rw [State.finishOp, State.comb_modComb_self, hops]
  simp only [List.map_cons, List.map_nil, hu, if_true, hkind]

/-! ## What enters a bank -/

/-- A bank that is put in its place is read back; a number that names no bank names one that is OFF. -/
theorem bank_setBank {c : Comb} {k : Nat} (b : Bank) (h : (c.bank k).mode ≠ .off) : (c.setBank k b).bank k = b := by
  have hk : k < c.banks.length := by
    by_contra hn
    exact h (congrArg Bank.mode (List.getD_eq_default _ _ (Nat.le_of_not_lt hn)))
  simp [Comb.setBank, Comb.bank, hk]

/-- A bank refuses nothing of its own kind and context. -/
theorem refuse_eq_none {b : Bank} {ord : Bool} {ctx : Nat} : b.refuse ord ctx = none ↔ b.mode = .fifo ∧ b.ord = ord ∧ b.owner = ctx := by
  unfold Bank.refuse
  split <;> simp_all

/-- A notice changes no comb. -/
theorem combs_notice (s : State) (ws : List Word) : (s.notice ws).combs = s.combs := by
  unfold State.notice
  dsimp only
  repeat' split
  all_goals rfl

/-- The end of a context changes no comb: its records are on their way (R356). -/
theorem combs_endContext (s : State) (ctx reason cause pc : Nat) : (s.endContext ctx reason cause pc).combs = s.combs := by
  have hdrop (s : State) : (s.dropGrids ctx).combs = s.combs :=
    foldl_keeps State.combs (fun s d => s.modDie d fun x => { x with forage := x.forage.filter fun f => decide (f.2.ctx ≠ ctx) }) (fun _ _ => rfl) _ s
  unfold State.endContext
  split
  · rfl
  · split
    · rfl
    · exact (combs_notice ..).trans (hdrop _)

/-- Entries pushed change the bank, whatever becomes of their context (R362). -/
theorem comb_pushBank (s : State) (ck ctx k : Nat) (b : Bank) (es : List FifoEnt) :
    (s.pushBank ck ctx k b es).comb ck = (s.comb ck).setBank k (b.push es) := by
  have hself := State.comb_modComb_self s ck fun c => c.setBank k (b.push es)
  unfold State.pushBank
  extract_lets b' s1
  split
  · exact hself
  · exact (congrArg (fun cs => Sparse.get Comb.reset cs ck) (combs_endContext ..)).trans hself

/-- A bound advance at a bank of its kind: the last one releases everything, another one moves the bound past its time (R361). -/
theorem comb_enterAdvance {s : State} {ck ctx k : Nat} (t : DWord) (h : ((s.comb ck).bank k).refuse true ctx = none) :
    (s.enterAdvance ck ctx k t).comb ck = (s.comb ck).setBank k
      (if t = 0xFFFFFFFFFFFFFFFF then { (s.comb ck).bank k with releaseAll := true }
      else { (s.comb ck).bank k with bound := if ((s.comb ck).bank k).bound ≤ t then t + 1 else ((s.comb ck).bank k).bound }) := by
  rw [State.enterAdvance, State.comb_modComb_self, apply_ite ((s.comb ck).setBank k)]
  exact if_neg (by rw [h]; decide)

/-- A bound advance leaves a bank of another kind (R377). -/
theorem comb_enterAdvance_of_refused {s : State} {ck ctx k : Nat} (t : DWord) (h : ((s.comb ck).bank k).refuse true ctx ≠ none) :
    (s.enterAdvance ck ctx k t).comb ck = s.comb ck :=
  (State.comb_modComb_self ..).trans (if_pos (Option.isSome_iff_ne_none.2 h))

theorem enteredEntries : Claim.EnteredEntries := by
  intro s ck ctx src bank ord es t b kind after
  have hset (o : Bool) (h : kind o) (b' : Bank) : ((s.comb ck).setBank bank b').bank bank = b' := bank_setBank b' (by rw [h.1]; decide)
  have hpush (h : kind ord) : s.enterPush ck ctx src ord bank es = some (s.pushBank ck ctx bank b es) := by
    simp only [State.enterPush, refuse_eq_none.2 h, b]
  have hadvance (h : kind true) : after (s.enterAdvance ck ctx bank t) = _ :=
    (congrArg (Comb.bank · bank) (comb_enterAdvance t (refuse_eq_none.2 h))).trans (hset true h _)
  exact ⟨fun h => ⟨_, hpush h, (congrArg (Comb.bank · bank) (comb_pushBank ..)).trans (hset ord h _)⟩,
    fun h ht => (hadvance h).trans (if_pos ht), fun h ht => (hadvance h).trans (if_neg ht),
    fun h => comb_enterAdvance_of_refused t (mt refuse_eq_none.1 h)⟩

/-- Settles O37: routers, arrivals, discarded messages, and what enters a bank. -/
theorem messages : Obligations.Messages := ⟨messageRouting, messageArrivals, discardedSpawn, enteredEntries⟩

end Sys2Proof.Proofs
end

section
namespace Sys2Proof.Proofs
open Sys2Proof Sys2Proof.Machine

/-! # Work on a comb (R28, R30, R31, R98, R331, R334, R341, R393) -/

/-! ## Tasks that start -/

/-- The task that goes ahead of the grids is started (R331, R332). -/
theorem exec_taskDequeue {s : State} {die comb k : Nat} {e : ReadyEnt} (hn : s.nextTask (combKey die comb) = some (e, k))
    (hf : s.taskFirst (combKey die comb) = true) : exec (.taskDequeue die comb) s = .next (s.startTask (combKey die comb) e k) := by
  simp only [exec, execTaskDequeue, hn, hf, if_true]

/-- Words put at consecutive keys from `a` on, as far as the keys are below `a + n` and `c`: each key reads its word. -/
theorem get_foldl_zip_range' (c k : Nat) (ws : List Word) : ∀ (a n : Nat) (m : List (Nat × Word)),
    Sparse.get 0 ((((List.range' a n).zip ws).filter fun (x : Nat × Word) => decide (x.1 < c)).foldl (fun m x => Sparse.set 0 m x.1 x.2) m) k =
      if a ≤ k ∧ k < a + n ∧ k < c then ws.getD (k - a) (Sparse.get 0 m k) else Sparse.get 0 m k := by
  induction ws with
  | nil => intro a n m; simp
  | cons w ws ih =>
    intro a n m
    cases n with
    | zero => rw [if_neg (by omega)]; rfl
    | succ n =>
      rw [List.range'_succ, List.zip_cons_cons]
      by_cases ha : a < c
      · rw [List.filter_cons_of_pos (by simpa using ha), List.foldl_cons, ih]
        obtain hk | rfl | hk := Nat.lt_trichotomy k a
        · rw [if_neg (by omega), if_neg (by omega), Sparse.get_set_ne _ _ _ (by omega)]
        · rw [if_neg (by omega), if_pos (by omega), Sparse.get_set_self, Nat.sub_self, List.getD_cons_zero]
        · rw [Sparse.get_set_ne _ _ _ (by omega), show k - a = k - (a + 1) + 1 by omega, List.getD_cons_succ]
          exact if_congr (by omega) rfl rfl
      · rw [List.filter_cons_of_neg (by simpa using ha), ih, if_neg (by omega), if_neg (by omega)]

/-- Tasks that enter the ready queue leave the groups (R32). -/
theorem groups_admitRoom (c : Comb) : c.admitRoom.groups = c.groups := by
  have hslot (c : Comb) (k : Nat) : (c.releaseSlot k).groups = c.groups := by
    unfold Comb.releaseSlot
    dsimp only
    split
    · rfl
    · split <;> rfl
  unfold Comb.admitRoom
  generalize c.table = ts
  induction ts generalizing c with
  | nil => rfl
  | cons t ts ih =>
    rw [List.foldl_cons, ih]
    split
    · exact hslot c t.1
    · rfl

theorem comb_admitRoom (s : State) (ck : Nat) : ((s.admitRoom ck).comb ck).groups = (s.comb ck).groups := by
  have hstamp (s : State) : (s.stampJournal ck).combs = s.combs := by
    unfold State.stampJournal
    split <;> rfl
  rw [State.admitRoom, State.comb, hstamp, ← State.comb, State.comb_modComb_self, groups_admitRoom]

theorem groups_putScratch (c : Comb) (a : Nat) (bs : List Byte) : (c.putScratch a bs).groups = c.groups := by
  have hmark (n : Nat) : (c.markWritten a n).groups = c.groups := by
    induction n with
    | zero => rfl
    | succ n ih => exact ih
  exact hmark _

/-- The clock of a comb has no part in which granules are free. -/
theorem freeRun_tick (s : State) (ck t n : Nat) : ((s.tick ck t).comb ck).freeRun n = (s.comb ck).freeRun n := by
  rw [State.tick, State.comb_modComb_self]
  rfl

theorem startedTask : Claim.StartedTask := by
  intro s ck slot e gs t hrun
  simp only [t, State.startTask, freeRun_tick, hrun, comb_admitRoom, State.comb_setComb_self, groups_putScratch]
  refine ⟨_, Sparse.find?_put_self _ _ _, rfl, rfl, rfl, rfl, rfl, rfl, rfl, fun k _ => ?_⟩
  dsimp only
  rw [List.range_eq_range', get_foldl_zip_range']
  exact if_congr (by omega) rfl rfl

/-! ## Teams that start -/

theorem startTeams_le (ck : Nat) (g : Grid) (n : Nat) : ∀ (s : State) (i : Nat), (s.startTeams ck g n i).2 ≤ n := by
  induction n with
  | zero => exact fun _ _ => Nat.le_refl 0
  | succ n ih =>
    intro s i
    unfold State.startTeams
    split
    · exact Nat.zero_le _
    · exact Nat.succ_le_succ (ih _ _)

/-- A claim starts teams of the grid that goes first, from the counter that serves it (R393). -/
theorem exec_forageClaim {s : State} {die comb d : Nat} {g : Grid} {f : Forage} (hg : s.firstGrid (combKey die comb) = some g)
    (ht : s.taskFirst (combKey die comb) = false) (hk : s.keepsFree (combKey die comb) = false)
    (hc : s.claimDie g.num die 37 die = some (d, f)) :
    let r := s.startTeams (combKey die comb) g (Nat.min 8 (f.limit - f.next)) f.next
    exec (.forageClaim die comb g.num) s =
      .next (r.1.modDie d fun x => { x with forage := x.forage.map fun y => if y.2 = f then (y.1, { f with next := f.next + r.2 }) else y }) := by
  have hgo : ¬ (g.num ≠ g.num ∨ s.taskFirst (combKey die comb) = true ∨ s.keepsFree (combKey die comb) = true) := by simp [ht, hk]
  simp only [exec, execForageClaim, hg, if_neg hgo, hc]

/-! ## Teams that retire -/

/-- The grids after a team of one of them has retired. -/
theorem find?_map_retired (gs : List Grid) (n : Nat) (g : Grid) (h : gs.find? (fun (g : Grid) => g.num = n) = some g) :
    (gs.map fun (g : Grid) => if g.num = n then { g with retired := g.retired + 1 } else g).find? (fun (g : Grid) => g.num = n) =
      some { g with retired := g.retired + 1 } := by
  have hkey : ((fun (g : Grid) => decide (g.num = n)) ∘ fun (g : Grid) => if g.num = n then { g with retired := g.retired + 1 } else g) =
      fun (g : Grid) => decide (g.num = n) := by
    funext x
    rw [Function.comp_apply]
    split <;> rfl
  have hn : g.num = n := by simpa using List.find?_some h
  rw [List.find?_map, hkey, h, Option.map_some, if_pos hn]

/-- A team without a grid that is done frees what it holds (R28). -/
theorem exec_teamRetirement {s : State} {die comb key : Nat} {t : Team} (ht : Sparse.find? (s.comb (combKey die comb)).teams key = some t)
    (hd : (s.comb (combKey die comb)).teamDone key t = true) (hf : s.isFrozen (combKey die comb) t.ctx = false) :
    (t.grid = none → exec (.teamRetirement die comb key) s =
      .next (s.setComb (combKey die comb) ((s.comb (combKey die comb)).freeTeam key t))) ∧
    ∀ n g, t.grid = some n → s.grids.find? (fun (g : Grid) => g.num = n) = some g →
      let s' : State := { s.setComb (combKey die comb) ((s.comb (combKey die comb)).freeTeam key t) with
        grids := s.grids.map fun (g : Grid) => if g.num = n then { g with retired := g.retired + 1 } else g }
      let g' : Grid := { g with retired := g.retired + 1 }
      exec (.teamRetirement die comb key) s = .next (if s'.gridDone g' then s'.finishGrid g' else s') := by
  have hgo : ((s.comb (combKey die comb)).teamDone key t && !s.isFrozen (combKey die comb) t.ctx) = true := by simp [hd, hf]
  refine ⟨fun hn => ?_, fun n g hn hg => ?_⟩
  · simp only [exec, execTeamRetirement, ht, if_pos hgo, hn]
  · simp only [exec, execTeamRetirement, ht, if_pos hgo, hn, State.setComb_grids, find?_map_retired _ _ _ hg]
    rfl

theorem freedTeam : Claim.FreedTeam := by
  intro c key t d
  refine ⟨Sparse.find?_erase_self _ _, fun k hk => Sparse.find?_erase_ne _ hk, fun a ha => ?_, fun x hx => ?_, fun g hg a ha => ?_⟩
  · exact of_decide_eq_true (List.mem_filter.1 ha).2
  · exact of_decide_eq_true (List.mem_filter.1 hx).2
  · exact (scratch_freeTeam c key t a).trans (if_pos (List.contains_iff_mem.2 (ha ▸ hg)))

/-! ## Commits -/

/-- The first entry of a commit is performed with the rest of its push, once what it releases is performed (R341, R364). -/
theorem exec_commitPerform_ready {s : State} {i : Nat} {c : Commit} {g : Nat × Thread} {x : CommitEnt} {rest : List CommitEnt}
    (hc : s.commits[i]? = some c) (hx : c.ents = x :: rest) (hr : s.entReady c x = true)
    (hg : (s.comb c.key).groups.find? (fun g => decide (g.2.uid = c.th.uid)) = some g) :
    let more := rest.takeWhile x.samePush
    let r := s.commitEnt c g.2 x more
    exec (.commitPerform i) s =
      .next ((r.1.modComb c.key fun k => { k with groups := Sparse.put k.groups g.1 r.2 }).setCommit i { c with ents := rest.drop more.length }) := by
  simp only [exec, execCommitPerform, hc, hx, hr, if_true, State.withTask, hg]

/-- An entry that releases what is not performed yet waits (R252). -/
theorem exec_commitPerform_waits {s : State} {i : Nat} {c : Commit} {x : CommitEnt} {rest : List CommitEnt}
    (hc : s.commits[i]? = some c) (hx : c.ents = x :: rest) (hr : s.entReady c x = false) : exec (.commitPerform i) s = .next s := by
  simp only [exec, execCommitPerform, hc, hx, hr, Bool.false_eq_true, if_false]

/-- A commit without entries is over (R341). -/
theorem exec_commitPerform_over {s : State} {i : Nat} {c : Commit} (hc : s.commits[i]? = some c) (hx : c.ents = []) :
    exec (.commitPerform i) s = .next (({ s with commits := s.commits.eraseIdx i } : State).flushKilled c.key) := by
  simp only [exec, execCommitPerform, hc, hx, State.setCommit, List.isEmpty_nil, if_true]

theorem workEvents : Claim.WorkEvents := by
  intro s die comb ck
  refine ⟨fun e k => exec_taskDequeue, fun g d f hg ht hk hc => ⟨?_, exec_forageClaim hg ht hk hc⟩,
    fun key t ht hd hf => (exec_teamRetirement ht hd hf).1, fun key t n g ht hd hf => (exec_teamRetirement ht hd hf).2 n g,
    fun i c g x rest => exec_commitPerform_ready, fun i c x rest => exec_commitPerform_waits, fun i c => exec_commitPerform_over⟩
  exact (startTeams_le ..).trans (Nat.min_le_left ..)

/-- Settles O38: work that starts and ends, what a task finds as it starts, and what a team leaves as it retires. -/
theorem workStartsAndEnds : Obligations.WorkStartsAndEnds := ⟨workEvents, startedTask, freedTeam⟩

end Sys2Proof.Proofs
end

section
namespace Sys2Proof

/-! ## The codes of specifiers (R79) -/

theorem Spec.code_lt (x : Spec) : x.code < 256 := by
  cases x with
  | special x => cases x <;> decide
  | const x => cases x <;> decide
  | sink => decide
  | _ n => simp only [Spec.code]; omega

theorem Spec.ofCode_code (x : Spec) : Spec.ofCode x.code = x := by
  cases x with
  | v n => revert n; decide
  | s n => revert n; decide
  | p n => revert n; decide
  | q n => revert n; decide
  | special x => cases x <;> rfl
  | const x => cases x <;> rfl
  | reserved n => revert n; decide
  | sink => rfl

theorem Special.code_ofCode {n : Nat} (h : n < 16) : (Special.ofCode n).code = n := by
  revert n; decide

theorem Const.code_ofCode {n : Nat} (h : n < 13) : (Const.ofCode n).code = n := by
  revert n; decide

theorem Spec.code_ofCode {c : Nat} (h : c < 256) : (Spec.ofCode c).code = c := by
  unfold Spec.ofCode
  split_ifs with hv hs hp hq hx hc hr
  · simp only [Spec.code, Fin.val_ofNat]; omega
  · simp only [Spec.code, Fin.val_ofNat]; omega
  · simp only [Spec.code, Fin.val_ofNat]; omega
  · simp only [Spec.code, Fin.val_ofNat]; omega
  · simp only [Spec.code, Special.code_ofCode (show c - 0xD0 < 16 by omega)]; omega
  · simp only [Spec.code, Const.code_ofCode (show c - 0xE0 < 13 by omega)]; omega
  · simp only [Spec.code, Fin.val_ofNat]; omega
  · simp only [Spec.code]; omega

end Sys2Proof

namespace Sys2Proof.Proofs
open Sys2Proof

/-! # The instruction word (R68, R71 to R74): a word and its instruction determine each other -/

/-! ## Rows of fields -/

/-- Every value of a row fits its field. -/
abbrev Fits : List Nat → List Nat → Prop := List.Forall₂ fun w v => v < 2 ^ w

theorem unpackFields_packFields {ws vs : List Nat} (h : Fits ws vs) : unpackFields ws (packFields (ws.zip vs)) = vs := by
  induction h with
  | nil => rfl
  | @cons w v ws vs hv _ ih =>
    simp only [List.zip_cons_cons, packFields, unpackFields, Nat.mod_eq_of_lt hv, Nat.add_mul_mod_self_left,
      Nat.add_mul_div_left _ _ (Nat.two_pow_pos w), Nat.div_eq_of_lt hv, Nat.zero_add, ih]

theorem packFields_unpackFields (ws : List Nat) (n : Nat) : packFields (ws.zip (unpackFields ws n)) = n % 2 ^ ws.sum := by
  induction ws generalizing n with
  | nil => simp [packFields, Nat.mod_one]
  | cons w ws ih =>
    simp only [unpackFields, List.zip_cons_cons, packFields, ih, Nat.mod_mod, List.sum_cons, Nat.pow_add, Nat.mod_mul]

theorem fits_unpackFields (ws : List Nat) (n : Nat) : Fits ws (unpackFields ws n) := by
  induction ws generalizing n with
  | nil => exact .nil
  | cons w ws ih => exact .cons (Nat.mod_lt _ (Nat.two_pow_pos w)) (ih _)

/-! ## The forms (R71 to R73) -/

theorem bit_lt (b : Bool) : bit b < 2 := by cases b <;> decide

@[simp] theorem bit_true : bit true = 1 := rfl

@[simp] theorem bit_false : bit false = 0 := rfl

theorem bit_eq_one (b : Bool) : decide (bit b = 1) = b := by cases b <;> rfl

theorem bit_decide (n : Nat) : bit (decide (n % 2 = 1)) = n % 2 := by
  rcases Nat.mod_two_eq_zero_or_one n with h | h <;> rw [h] <;> rfl

/-- Whether a body is one of the I form. -/
def immForm : Form → Bool
  | .r f => f.imm.isSome
  | _ => false

theorem fits_headVals {op : Nat} (hop : op < 1024) (h : Head) (d a : Spec) : Fits headWidths (headVals op h d a) :=
  .cons hop <| .cons h.g1.idx.isLt <| .cons (bit_lt _) <| .cons h.g2.idx.isLt <| .cons (bit_lt _) <| .cons d.code_lt <|
    .cons a.code_lt .nil

theorem fits_tailVals (h : Head) (imm : Bool) : Fits tailWidths (tailVals h imm) :=
  .cons h.stall.isLt <| .cons (bit_lt _) <| .cons (bit_lt _) <| .cons (bit_lt _) <| .cons (bit_lt _) <| .cons (by decide) .nil

theorem Fits.append {us ws us' ws' : List Nat} (h : Fits us us') (g : Fits ws ws') : Fits (us ++ ws) (us' ++ ws') :=
  List.rel_append h g

theorem fits_formFields {op : Nat} (hop : op < 1024) (f : Form) : Fits (formFields op f).1 (formFields op f).2 := by
  have frame (h : Head) (d a : Spec) (imm : Bool) {ws vs : List Nat} (hb : Fits ws vs) :
      Fits (headWidths ++ ws ++ tailWidths) (headVals op h d a ++ vs ++ tailVals h imm) :=
    ((fits_headVals hop h d a).append hb).append (fits_tailVals h imm)
  cases f with
  | r f =>
    cases hi : f.imm <;> simp only [formFields, hi]
    · exact frame _ _ _ _ <| .cons f.b.code_lt <| .cons f.c.code_lt <| .cons f.e.code_lt <| .cons f.ty.isLt <| .cons f.apat.isLt <|
        .cons f.bpat.isLt <| .cons f.flags.isLt <| .cons f.sat2.isLt <| .cons f.hint.isLt <| .cons (by decide) .nil
    · exact frame _ _ _ _ <| .cons f.c.code_lt <| .cons f.ty.isLt <| .cons f.flags.isLt <| .cons (BitVec.isLt _) .nil
  | m f =>
    exact frame _ _ _ _ <| .cons f.b.code_lt <| .cons f.c.code_lt <| .cons f.size.isLt <| .cons f.ord.isLt <| .cons f.scope.isLt <|
      .cons f.hint.isLt <| .cons (bit_lt _) <| .cons f.aop.isLt <| .cons f.offs.isLt .nil
  | b f => exact frame _ _ _ _ <| .cons f.disp.isLt <| .cons f.aux.isLt .nil
  | s f =>
    exact frame _ _ _ _ <| .cons f.b.code_lt <| .cons f.c.code_lt <| .cons f.e.code_lt <| .cons f.sub.isLt <| .cons f.imm.isLt .nil

/-- The word of a form holds its fields. -/
theorem unpackFields_packForm {op : Nat} (hop : op < 1024) (f : Form) :
    unpackFields (formFields op f).1 (packForm op f) = (formFields op f).2 :=
  unpackFields_packFields (fits_formFields hop f)

/-- What every form's word holds outside its body: the opcode, IMM and the reserved bits (R71). -/
theorem frame_of_unpackFields {op n : Nat} {f : Form} (h : unpackFields (formFields op f).1 n = (formFields op f).2) :
    n % 1024 = op ∧ n / 2 ^ 91 % 2 = bit (immForm f) ∧ n / 2 ^ 92 % 16 = 0 := by
  cases f with
  | r f =>
    cases hi : f.imm <;>
    · simp [formFields, hi, widthsR, widthsI, headWidths, tailWidths, headVals, tailVals, unpackFields, Nat.div_div_eq_div_mul] at h
      simp [immForm, hi, h]
  | _ f =>
    simp [formFields, widthsM, widthsB, widthsS, headWidths, tailWidths, headVals, tailVals, unpackFields, Nat.div_div_eq_div_mul] at h
    simp [immForm, h]

theorem mkHead_vals (h : Head) : mkHead h.g1.idx (bit h.g1.neg) h.g2.idx (bit h.g2.neg) h.stall (bit h.endRun) (bit h.land) (bit h.yld) = h := by
  simp [mkHead, bit_eq_one]

/-! ## Reading the word of a form -/

/-- An I form has none of the fields that its word has no place for (R72). -/
def ImmClears (f : RForm) : Prop :=
  f.imm.isSome → f.b = .unused ∧ f.e = .unused ∧ f.apat = 0 ∧ f.bpat = 0 ∧ f.sat2 = 0 ∧ f.hint = 0

theorem readR_packForm {op : Nat} (hop : op < 1024) {f : RForm} (hi : f.imm = none) : readR (packForm op (.r f)) = .ok (.r f) := by
  have h := unpackFields_packForm hop (.r f)
  simp only [formFields, hi] at h
  simp only [readR, h, headVals, tailVals, List.cons_append, List.nil_append, mkHead_vals, Spec.ofCode_code, BitVec.ofNat_toNat]
  obtain ⟨⟩ := f
  subst hi
  simp

theorem readI_packForm {op : Nat} (hop : op < 1024) {f : RForm} (hi : f.imm.isSome) (hc : ImmClears f) :
    readI (packForm op (.r f)) = .ok (.r f) := by
  obtain ⟨w, hw⟩ := Option.isSome_iff_exists.1 hi
  obtain ⟨hb, he, hap, hbp, hs, hh⟩ := hc hi
  have h := unpackFields_packForm hop (.r f)
  simp only [formFields, hw] at h
  simp only [readI, h, headVals, tailVals, List.cons_append, List.nil_append, mkHead_vals, Spec.ofCode_code]
  obtain ⟨⟩ := f
  simp_all

theorem readM_packForm {op : Nat} (hop : op < 1024) (f : MForm) : readM (packForm op (.m f)) = .ok (.m f) := by
  have h := unpackFields_packForm hop (.m f)
  simp only [formFields] at h
  simp only [readM, h, headVals, tailVals, List.cons_append, List.nil_append, mkHead_vals, Spec.ofCode_code, bit_eq_one]
  simp

theorem readB_packForm {op : Nat} (hop : op < 1024) (f : BForm) : readB (packForm op (.b f)) = .ok (.b f) := by
  have h := unpackFields_packForm hop (.b f)
  simp only [formFields] at h
  simp only [readB, h, headVals, tailVals, List.cons_append, List.nil_append, mkHead_vals, Spec.ofCode_code]
  simp

theorem readS_packForm {op : Nat} (hop : op < 1024) (f : SForm) : readS (packForm op (.s f)) = .ok (.s f) := by
  have h := unpackFields_packForm hop (.s f)
  simp only [formFields] at h
  simp only [readS, h, headVals, tailVals, List.cons_append, List.nil_append, mkHead_vals, Spec.ofCode_code]
  simp

/-- Whether a body is what its word says: an I form has none of the fields that its word has no place for. -/
def Stated : Form → Prop
  | .r f => ImmClears f
  | _ => True

/-- The word of a form is read as the form, under an opcode whose major selects it. -/
theorem readForm_packForm {op : Nat} {f : Form} (hop : op < 1024) (hf : formOfMajor (op / 16) = some (Laws.OpcodeForm.kind f)) (hs : Stated f) :
    readForm (packForm op f) = .ok f := by
  obtain ⟨hn, h91, h92⟩ := frame_of_unpackFields (unpackFields_packForm hop f)
  have hm : packForm op f / 16 % 64 = op / 16 := by omega
  simp only [readForm, h92, ne_eq, not_true_eq_false, if_false, hm, hf, h91]
  cases f with
  | r f =>
    cases hi : f.imm.isSome
    · simpa [immForm, hi, Laws.OpcodeForm.kind] using readR_packForm hop (Option.not_isSome_iff_eq_none.1 (by simp [hi]))
    · simpa [immForm, hi, Laws.OpcodeForm.kind] using readI_packForm hop hi hs
  | m f => simpa [immForm, Laws.OpcodeForm.kind] using readM_packForm hop f
  | b f => simpa [immForm, Laws.OpcodeForm.kind] using readB_packForm hop f
  | s f => simpa [immForm, Laws.OpcodeForm.kind] using readS_packForm hop f

/-! ## The form that a word is read as -/

/-- A form says what a word holds: its fields are the word's. -/
def Says (n : Nat) (f : Form) : Prop := Stated f ∧ (formFields (n % 1024) f).2 = unpackFields (formFields (n % 1024) f).1 n

theorem says_of_readR {n : Nat} {f : Form} (h91 : n / 2 ^ 91 % 2 = 0) (h92 : n / 2 ^ 92 % 16 = 0) (h : readR n = .ok f) : Says n f := by
  simp only [readR, widthsR, headWidths, tailWidths, List.cons_append, List.nil_append, unpackFields] at h
  split at h
  · contradiction
  · next hz =>
    obtain rfl := Except.ok.inj h
    clear h
    refine ⟨fun hi => by simp at hi, ?_⟩
    simp [Nat.div_div_eq_div_mul] at h91 h92 hz
    simp [formFields, widthsR, headWidths, tailWidths, headVals, tailVals, unpackFields, mkHead, Spec.code_ofCode, Nat.mod_lt, bit_decide,
      Nat.div_div_eq_div_mul, hz, h91, h92]

theorem says_of_readForm {n : Nat} {f : Form} (h : readForm n = .ok f) : Says n f := by
  unfold readForm at h
  split at h
  · contradiction
  next h92 =>
  have h92 := not_not.1 h92
  have h91 : ¬ n / 2 ^ 91 % 2 = 1 → n / 2 ^ 91 % 2 = 0 := (Nat.mod_two_eq_zero_or_one _).resolve_right
  dsimp only at h
  split at h
  · contradiction
  all_goals split at h
  case h_2.isFalse hi => exact says_of_readR (h91 hi) h92 h
  case h_3.isTrue | h_4.isTrue | h_5.isTrue => contradiction
  all_goals
    next hi =>
    simp only [readI, readM, readB, readS, widthsI, widthsM, widthsB, widthsS, headWidths, tailWidths, List.cons_append, List.nil_append,
      unpackFields] at h
    obtain rfl := Except.ok.inj h
    clear h
    refine ⟨by simp [Stated, ImmClears], ?_⟩
    simp at h91 h92 hi
    simp [formFields, widthsI, widthsM, widthsB, widthsS, headWidths, tailWidths, headVals, tailVals, unpackFields, mkHead, Spec.code_ofCode,
      Nat.mod_lt, bit_decide, Nat.div_div_eq_div_mul, h92, hi]

theorem sum_formFields (op : Nat) (f : Form) : (formFields op f).1.sum = 96 := by
  cases f with
  | r f => cases hi : f.imm <;> simp only [formFields, hi] <;> rfl
  | _ f => rfl

/-- The form a word is read as has the word. -/
theorem packForm_of_readForm {n : Nat} {f : Form} (hn : n < 2 ^ 96) (h : readForm n = .ok f) : packForm (n % 1024) f = n := by
  rw [packForm, (says_of_readForm h).2, packFields_unpackFields, sum_formFields, Nat.mod_eq_of_lt hn]

/-! ## The opcode map (R92) -/

/-- What the opcode map gives an opcode and a body to is an instruction with this opcode and this body, under a major of the body's form. -/
def Mapped (op : Nat) (f : Form) (i : Instr) : Prop :=
  opForm i = some (op, f) ∧ op < 1024 ∧ formOfMajor (op / 16) = some (Laws.OpcodeForm.kind f)

theorem mapped_buildR {op : Nat} {f : RForm} {i : Instr} (h : buildR op f = some i) : Mapped op (.r f) i := by
  unfold buildR at h
  split at h <;> cases h <;> exact ⟨rfl, by decide, rfl⟩

theorem mapped_buildM {op : Nat} {f : MForm} {i : Instr} (h : buildM op f = some i) : Mapped op (.m f) i := by
  unfold buildM at h
  (repeat' split at h) <;> cases h <;> exact ⟨rfl, by decide, rfl⟩

theorem mapped_buildB {op : Nat} {f : BForm} {i : Instr} (h : buildB op f = some i) : Mapped op (.b f) i := by
  unfold buildB at h
  split at h <;> cases h <;> exact ⟨rfl, by decide, rfl⟩

theorem mapped_buildS {op : Nat} {f : SForm} {i : Instr} (h : buildS op f = some i) : Mapped op (.s f) i := by
  unfold buildS at h
  (repeat' split at h) <;> cases h <;> exact ⟨rfl, by decide, rfl⟩

theorem mapped_build {op : Nat} {f : Form} {i : Instr} (h : build op f = some i) : Mapped op f i := by
  cases f with
  | r f => exact mapped_buildR h
  | m f => exact mapped_buildM h
  | b f => exact mapped_buildB h
  | s f => exact mapped_buildS h

theorem rOk_of_not_immClears {f : RForm} (h : ¬ ImmClears f) (x : RInfo) : rOk x f = false := by
  refine Bool.eq_false_iff.2 fun hr => h fun hi => ?_
  simp [rOk, Option.isSome_iff_ne_none.1 hi] at hr
  tauto

/-- A body that passes R81's first step is what its word says. -/
theorem stated_of_staticOk {op : Nat} {f : Form} {i : Instr} (h : build op f = some i) (hs : staticOk i = true) : Stated f := by
  cases f with
  | r f =>
    by_contra hc
    simp only [build] at h
    unfold buildR at h
    split at h <;> cases h <;> simp [staticOk, rOk_of_not_immClears hc] at hs
  | _ f => trivial

/-! ## Words and instructions -/

theorem encodeWord_of_build {op : Nat} {f : Form} {i : Instr} (h : build op f = some i) : encodeWord i = packForm op f := by
  simp only [encodeWord, (mapped_build h).1]

/-- The word of a well-formed instruction decodes to it. -/
theorem decodeWord_encodeWord {i : Instr} (h : WellFormed i) : decodeWord (encodeWord i) = .ok i := by
  obtain ⟨hs, ⟨op, f⟩, -, hb⟩ := h
  obtain ⟨-, hop, hf⟩ := mapped_build hb
  have hn : packForm op f % 1024 = op := (frame_of_unpackFields (unpackFields_packForm hop f)).1
  simp only [decodeWord, encodeWord_of_build hb, readForm_packForm hop hf (stated_of_staticOk hb hs), hn, hb, hs, if_true]

theorem packFields_lt (ws vs : List Nat) : packFields (ws.zip vs) < 2 ^ ws.sum := by
  induction ws generalizing vs with
  | nil => simp [packFields]
  | cons w ws ih =>
    cases vs with
    | nil => simp [packFields]
    | cons v vs =>
      have h1 := Nat.mod_lt v (Nat.two_pow_pos w)
      have h2 : 2 ^ w * packFields (ws.zip vs) + 2 ^ w ≤ 2 ^ w * 2 ^ ws.sum := Nat.mul_le_mul_left (2 ^ w) (ih vs)
      simp only [List.zip_cons_cons, packFields, List.sum_cons, Nat.pow_add]
      omega

theorem encodeWord_lt {op : Nat} {f : Form} {i : Instr} (h : build op f = some i) : encodeWord i < 2 ^ 96 := by
  rw [encodeWord_of_build h, packForm, ← sum_formFields op f]
  exact packFields_lt _ _

/-- Settles O47: the bytes of a well-formed instruction hold its word, whose fields are read back one by one. -/
theorem decodeEncode : Obligations.DecodeEncode := by
  intro i h
  have hl : (leBytes 12 (encodeWord i)).length = 12 := leBytes_length ..
  obtain ⟨p, -, hb⟩ := h.2
  have hn : leNat (leBytes 12 (encodeWord i)) = encodeWord i := by
    rw [leNat_leBytes]
    exact Nat.mod_eq_of_lt (encodeWord_lt hb)
  simp [decode, encode, hl, List.take_of_length_le, List.drop_of_length_le, hn, decodeWord_encodeWord h]

/-- Settles O48: a word's form holds every bit of it, and the opcode map is one to one. -/
theorem encodeDecode : Obligations.EncodeDecode := by
  intro n i hn h
  unfold decodeWord at h
  split at h
  · contradiction
  next f hf =>
  split at h
  · contradiction
  next hb =>
  split at h
  · next hs =>
    obtain rfl := Except.ok.inj h
    exact ⟨⟨hs, _, (mapped_build hb).1, hb⟩, (encodeWord_of_build hb).trans (packForm_of_readForm hn hf)⟩
  · contradiction

end Sys2Proof.Proofs
end

section
namespace Sys2Proof.Proofs
open Sys2Proof Sys2Proof.Machine

/-! # Integer arithmetic (R38, R75, R115, R117 to R120) -/

/-! ## Operations on A, B and C -/

theorem dataOp_eq (s : State) (op : Nat) (f : RForm) (one three bNarrow stream : Bool) (g : Nat → Nat → Nat → Nat) :
    dataOp s op f one three bNarrow stream g = issue s (dataOpRule op f one three bNarrow stream) fun e =>
      e.done (e.results f.typ f.d fun k => g (e.aN f k) (if bNarrow then (e.b32 f k).toNat else e.bN f k) (e.cN f k)) := rfl

/-- An operation of majors 0x01 and 0x02 writes the results of its type. -/
theorem writes_dataOp {i : Instr} {op : Nat} {f : RForm} {one three bNarrow stream : Bool} {g : Nat → Nat → Nat → Nat} {P : Env → Prop}
    {ws : Env → List RegWrite} (hx : ∀ s, exec i s = dataOp s op f one three bNarrow stream g)
    (hw : ∀ e, P e → e.results f.typ f.d (fun k => g (e.aN f k) (if bNarrow then (e.b32 f k).toNat else e.bN f k) (e.cN f k)) = ws e) :
    Writes i (dataOpRule op f one three bNarrow stream) P ws :=
  Writes.of_body fun s => ⟨_, (hx s).trans (dataOp_eq ..), fun e he => congrArg e.done (hw e he)⟩

/-- An operation of R117 writes the exact results of its elements, reduced or saturated. -/
theorem writes_intOp {i : Instr} {op : Nat} {f : RForm} {one three : Bool} {g g' : Int → Int → Int → Int}
    (hx : ∀ s, exec i s = intOp s op f one three g) (hg : ∀ a b c, g a b c = g' a b c) :
    Writes i (dataOpRule op f one three false true) always (fun e =>
      e.results f.typ f.d fun k => elementwise f.typ (f.flags.getLsbD 3) g' (e.aN f k) (e.bN f k) (e.cN f k)) := by
  obtain rfl : g = g' := funext fun a => funext fun b => funext fun c => hg a b c
  exact writes_dataOp hx fun _ _ => rfl

theorem exec_iadd (f : RForm) (s : State) : exec (.iadd f) s = intOp s 0x010 f false false fun a b _ => a + b := rfl

theorem exec_isub (f : RForm) (s : State) : exec (.isub f) s = intOp s 0x011 f false false fun a b _ => a - b := rfl

theorem exec_imul (f : RForm) (s : State) : exec (.imul f) s = intOp s 0x012 f false false fun a b _ => a * b := rfl

theorem integerArithmeticResults : Claim.IntegerArithmeticResults := by
  intro f
  refine ⟨writes_intOp (exec_iadd f) fun _ _ _ => rfl, writes_intOp (exec_isub f) fun _ _ _ => rfl,
    writes_intOp (exec_imul f) fun _ _ _ => rfl, writes_intOp (fun _ => rfl) fun _ _ _ => rfl,
    writes_intOp (fun _ => rfl) fun _ _ _ => rfl, writes_intOp (fun _ => rfl) fun a b _ => ?_,
    writes_intOp (fun _ => rfl) fun a b _ => ?_, writes_intOp (fun _ => rfl) fun a _ _ => ?_⟩
  · omega
  · omega
  · omega

/-! ## IADDC, LEA, IDP4 and IDP2 -/

theorem exec_lea (f : RForm) (s : State) : exec (.lea f) s = issue s (ruleLea f) fun e =>
    e.done (e.write64 f.d (e.each fun i => (if f.imm.isSome ∧ f.a = .sink then e.th.pc else e.a64 f i) +
      (if f.typ = .s64 then (e.b32 f i).signExtend 64 else (e.b32 f i).setWidth 64) <<< (f.flags.toNat % 8))) := rfl

/-- LEA adds the shifted offset to its base (R119). -/
theorem writes_lea {f : RForm} {P : Env → Prop} {base off : Env → Nat → DWord}
    (hb : ∀ e, P e → ∀ i, (if f.imm.isSome ∧ f.a = .sink then e.th.pc else e.a64 f i) = base e i)
    (ho : ∀ e, P e → ∀ i, (if f.typ = .s64 then (e.b32 f i).signExtend 64 else (e.b32 f i).setWidth 64) = off e i) :
    Writes (.lea f) (ruleLea f) P (fun e => e.write64 f.d (e.each fun i => base e i + off e i <<< (f.flags.toNat % 8))) :=
  Writes.of_body fun s => ⟨_, exec_lea f s, fun e he => by simp only [hb e he, ho e he]⟩

theorem carryAddressAndDotResults : Claim.CarryAddressAndDotResults := by
  intro f
  refine ⟨Writes.of_body fun s => ⟨_, rfl, fun e _ => rfl⟩, writes_lea ?_ ?_, writes_lea ?_ ?_, writes_lea ?_ ?_,
    Writes.of_body fun s => ⟨_, rfl, fun e _ => rfl⟩, Writes.of_body fun s => ⟨_, rfl, fun e _ => rfl⟩⟩
  · exact fun e he i => if_neg fun h => he.1 h.2
  · exact fun e he i => if_neg (by simp [he.2])
  · exact fun e he i => if_neg fun h => he.1 h.2
  · exact fun e he i => if_pos he.2
  · exact fun e he i => if_pos ⟨he.2.1, he.1⟩
  · exact fun e he i => if_neg (by simp [he.2.2])

/-! ## The operations of bit vectors -/

theorem toInt_unsigned (x : Word) : Machine.toInt false 32 x.toNat = x.toNat := by
  simp [Machine.toInt, Nat.mod_eq_of_lt x.isLt]

theorem toInt_signed (x : Word) : Machine.toInt true 32 x.toNat = x.toInt := by
  simp only [Machine.toInt, Nat.mod_eq_of_lt x.isLt, BitVec.toInt, Bool.true_and, decide_eq_true_eq]
  split <;> split <;> omega

theorem ofNat_narrow (signed : Bool) (x : Int) : BitVec.ofNat 32 (narrow signed false 32 x) = BitVec.ofInt 32 x := by
  apply BitVec.eq_of_toInt_eq
  have h : 0 ≤ x % 4294967296 := Int.emod_nonneg _ (by decide)
  simpa [narrow, BitVec.toInt_ofNat', max_eq_left h] using Int.emod_bmod x 4294967296

/-- An operation on one element of 32 bits, without saturation, is taken modulo 2^32. -/
theorem ofNat_elementwise_u32 (g : Int → Int → Int → Int) (a : Word) (b c : Nat) :
    BitVec.ofNat 32 (elementwise .u32 false g a.toNat b c) = BitVec.ofInt 32 (g a.toNat (Machine.toInt false 32 b) (Machine.toInt false 32 c)) := by
  simp [elementwise, Ty.elems, toInt_unsigned, ofNat_narrow]

theorem ofNat_elementwise_s32 (g : Int → Int → Int → Int) (a : Word) (b c : Nat) :
    BitVec.ofNat 32 (elementwise .s32 false g a.toNat b c) = BitVec.ofInt 32 (g a.toInt (Machine.toInt true 32 b) (Machine.toInt true 32 c)) := by
  simp [elementwise, Ty.elems, toInt_signed, ofNat_narrow]

/-- An operation at 32 bits that is an operation of bit vectors writes what that gives. -/
theorem writes_wordOp {i : Instr} {op : Nat} {f : RForm} {bNarrow : Bool} {g : Nat → Nat → Nat → Nat}
    (hx : ∀ s, exec i s = dataOp s op f false false bNarrow true g) (h : Word → Word → Word) (ht : f.typ = .u32 ∨ f.typ = .s32 ∨ f.typ = .b32)
    (hg : ∀ (a b : Word) (c : Nat), BitVec.ofNat 32 (g a.toNat b.toNat c) = h a b) :
    Writes i (dataOpRule op f false false bNarrow true) always (fun e =>
      e.write32 f.d (f.typ = .s32) (e.each fun k => h (e.a32 f k) (e.b32 f k))) := by
  have hw : f.typ.wide = false := by rcases ht with ht | ht | ht <;> rw [ht] <;> rfl
  have hx32 : (f.typ = .u32 || f.typ = .b32 || f.typ = .s32) = true := by rcases ht with ht | ht | ht <;> simp [ht]
  refine writes_dataOp hx fun e _ => ?_
  simp [Env.results, Env.writeTy, Env.aN, Env.bN, Env.cN, hw, hx32, hg]

/-- IADD, ISUB and IMUL at 32 bits without S. -/
theorem writes_wordIntOp {i : Instr} {op : Nat} {f : RForm} {g : Int → Int → Int → Int}
    (hx : ∀ s, exec i s = intOp s op f false false g) (h : Word → Word → Word) (hu : ∀ (a b : Word) (c : Int), BitVec.ofInt 32 (g a.toNat b.toNat c) = h a b)
    (hs : ∀ (a b : Word) (c : Int), BitVec.ofInt 32 (g a.toInt b.toInt c) = h a b) (ht : f.typ = .u32 ∨ f.typ = .s32)
    (hf : f.flags.getLsbD 3 = false) :
    Writes i (dataOpRule op f false false false true) always (fun e =>
      e.write32 f.d (f.typ = .s32) (e.each fun k => h (e.a32 f k) (e.b32 f k))) := by
  refine writes_wordOp hx h (by tauto) fun a b c => ?_
  rcases ht with ht | ht <;> rw [ht, hf]
  · rw [ofNat_elementwise_u32, toInt_unsigned, hu]
  · rw [ofNat_elementwise_s32, toInt_signed, hs]

theorem exec_and (f : RForm) (s : State) : exec (.and f) s = dataOp s 0x020 f false false false true fun a b _ => a &&& b := rfl

theorem exec_or (f : RForm) (s : State) : exec (.or f) s = dataOp s 0x021 f false false false true fun a b _ => a ||| b := rfl

theorem exec_xor (f : RForm) (s : State) : exec (.xor f) s = dataOp s 0x022 f false false false true fun a b _ => a ^^^ b := rfl

theorem exec_andn (f : RForm) (s : State) : exec (.andn f) s = dataOp s 0x023 f false false false true fun a b _ => a &&& (2 ^ 64 - 1 - b) := rfl

theorem exec_shl (f : RForm) (s : State) : exec (.shl f) s = dataOp s 0x025 f false false true true fun a n _ =>
    elementwise f.typ (f.flags.getLsbD 3) (fun x _ _ => x * ((2 ^ (Nat.min n 64) : Nat) : Int)) a 0 0 := rfl

theorem exec_shr (f : RForm) (s : State) : exec (.shr f) s = dataOp s 0x026 f false false true true fun a n _ => a >>> Nat.min n 64 := rfl

theorem exec_sar (f : RForm) (s : State) : exec (.sar f) s = dataOp s 0x027 f false false true true fun a n _ =>
    elementwise f.typ false (fun x _ _ => x / ((2 ^ (Nat.min n 64) : Nat) : Int)) a 0 0 := rfl

theorem ofInt_sub (a b : Int) : BitVec.ofInt 32 (a - b) = BitVec.ofInt 32 a - BitVec.ofInt 32 b := by
  rw [Int.sub_eq_add_neg, BitVec.ofInt_add, BitVec.ofInt_neg, BitVec.sub_eq_add_neg]

theorem ofNat_andn (a b : Word) : BitVec.ofNat 32 (a.toNat &&& (2 ^ 64 - 1 - b.toNat)) = a &&& ~~~b := by
  apply BitVec.eq_of_getLsbD_eq
  intro k hk
  have hb : b.toNat < 2 ^ 64 := by omega
  have h64 : k < 64 := by omega
  rw [Nat.sub_sub, Nat.add_comm 1]
  simp only [BitVec.getLsbD_ofNat, Nat.testBit_and, Nat.testBit_two_pow_sub_succ hb, BitVec.getLsbD_and, BitVec.getLsbD_not, hk, h64,
    BitVec.testBit_toNat, decide_true, Bool.true_and]

/-- A count of 64 or more leaves no bit of a word, as a count of 64 does. -/
theorem ofInt_mul_two_pow (a : Word) (n : Nat) : BitVec.ofInt 32 ((a.toNat : Int) * ((2 ^ min n 64 : Nat) : Int)) = a <<< n := by
  have h : BitVec.ofInt 32 ((a.toNat : Int) * ((2 ^ min n 64 : Nat) : Int)) = a <<< min n 64 := by
    apply BitVec.eq_of_toNat_eq
    rw [BitVec.toNat_shiftLeft, Nat.shiftLeft_eq, ← Int.natCast_mul, BitVec.ofInt_natCast, BitVec.toNat_ofNat]
  rw [h]
  rcases Nat.le_total n 64 with hn | hn
  · rw [Nat.min_eq_left hn]
  · rw [Nat.min_eq_right hn, BitVec.shiftLeft_eq_zero (by decide), BitVec.shiftLeft_eq_zero (by omega)]

theorem ofNat_shiftRight (a : Word) (n : Nat) : BitVec.ofNat 32 (a.toNat >>> min n 64) = a >>> n := by
  apply BitVec.eq_of_toNat_eq
  have h (k : Nat) : a.toNat >>> k < 2 ^ 32 := Nat.lt_of_le_of_lt (Nat.shiftRight_le ..) a.isLt
  rw [BitVec.toNat_ofNat, Nat.mod_eq_of_lt (h _), BitVec.toNat_ushiftRight]
  rcases Nat.le_total n 64 with hn | hn
  · rw [Nat.min_eq_left hn]
  · have ha (k : Nat) (hk : 64 ≤ k) : a.toNat >>> k = 0 := Nat.shiftRight_eq_zero _ _ (Nat.lt_of_lt_of_le a.isLt (Nat.pow_le_pow_right (by decide) (by omega)))
    rw [Nat.min_eq_right hn, ha 64 (Nat.le_refl _), ha n hn]

theorem ofInt_div_two_pow (a : Word) (n : Nat) : BitVec.ofInt 32 (a.toInt / ((2 ^ min n 64 : Nat) : Int)) = a.sshiftRight n := by
  have h : BitVec.ofInt 32 (a.toInt / ((2 ^ min n 64 : Nat) : Int)) = a.sshiftRight (min n 64) := by
    rw [BitVec.sshiftRight, Int.shiftRight_eq_div_pow]
  rw [h]
  rcases Nat.le_total n 64 with hn | hn
  · rw [Nat.min_eq_left hn]
  · rw [Nat.min_eq_right hn]
    apply BitVec.eq_of_getLsbD_eq
    intro k hk
    rw [BitVec.getLsbD_sshiftRight, BitVec.getLsbD_sshiftRight, if_neg (by omega), if_neg (by omega)]

theorem wordOperationsAreBitVectorOperations : Claim.WordOperationsAreBitVectorOperations := by
  intro f
  refine ⟨fun ht hf => ?_, fun ht hf => ?_, fun ht hf => ?_, fun ht => ?_, fun ht => ?_, fun ht => ?_, fun ht => ?_, fun ht hf => ?_, fun ht => ?_,
    fun ht => ?_⟩
  · exact writes_wordIntOp (exec_iadd f) (· + ·) (by simp [BitVec.ofInt_add]) (by simp [BitVec.ofInt_add]) ht hf
  · exact writes_wordIntOp (exec_isub f) (· - ·) (by simp [ofInt_sub]) (by simp [ofInt_sub]) ht hf
  · exact writes_wordIntOp (exec_imul f) (· * ·) (by simp [BitVec.ofInt_mul]) (by simp [BitVec.ofInt_mul]) ht hf
  · exact writes_wordOp (exec_and f) (· &&& ·) (.inr (.inr ht)) (by simp)
  · exact writes_wordOp (exec_or f) (· ||| ·) (.inr (.inr ht)) (by simp)
  · exact writes_wordOp (exec_xor f) (· ^^^ ·) (.inr (.inr ht)) (by simp)
  · exact writes_wordOp (exec_andn f) (fun a b => a &&& ~~~b) (.inr (.inr ht)) fun a b _ => ofNat_andn a b
  · refine writes_wordOp (exec_shl f) (fun a b => a <<< b.toNat) (.inl ht) fun a b _ => ?_
    rw [ht, hf, ofNat_elementwise_u32]
    exact ofInt_mul_two_pow a b.toNat
  · exact writes_wordOp (exec_shr f) (fun a b => a >>> b.toNat) (.inl ht) fun a b _ => ofNat_shiftRight a b.toNat
  · refine writes_wordOp (exec_sar f) (fun a b => a.sshiftRight b.toNat) (.inr (.inl ht)) fun a b _ => ?_
    rw [ht, ofNat_elementwise_s32]
    exact ofInt_div_two_pow a b.toNat

/-! ## Operand B (R75) -/

theorem immediateOperand : Claim.ImmediateOperand := by
  intro e f i
  refine ⟨fun x hx => ⟨?_, fun ht => ?_, fun ht => ?_, fun ht => ?_⟩, fun hi => ⟨?_, fun ht => ?_⟩⟩
  · simp [Env.b32, hx]
  · simp only [Env.bN, Env.b64, ht, hx]
    exact BitVec.toNat_setWidth_of_le (by decide)
  · simp only [Env.bN, Env.b64, ht, hx]
    rfl
  · simp [Env.bN, Env.b32, ht, hx]
  · simp [Env.b32, hi]
  · simp [Env.bN, Env.b64, ht, hi]

/-- Settles O1: the values of major 0x01, the operations of bit vectors among them, and where operand B comes from. -/
theorem integerResults : Obligations.IntegerResults :=
  ⟨integerArithmeticResults, carryAddressAndDotResults, wordOperationsAreBitVectorOperations, immediateOperand⟩

end Sys2Proof.Proofs
end

section
namespace Sys2Proof.Proofs
open Sys2Proof Sys2Proof.Machine

/-! # Control transfers (R69, R70, R162 to R167) -/

/-! ## Targets -/

theorem directTarget_eq (pc : DWord) (d : BitVec 24) : directTarget pc d = pc + BitVec.ofInt 64 (4 * d.toInt) := by
  rw [directTarget, BitVec.signExtend, Int.mul_comm 4, BitVec.ofInt_mul]
  rfl

theorem directTarget_aligned {pc : DWord} (d : BitVec 24) (h : pc.toNat % 4 = 0) : (directTarget pc d).toNat % 4 = 0 := by
  have h4 : (4 : DWord).toNat = 4 := rfl
  simp only [directTarget, BitVec.toNat_add, BitVec.toNat_mul, h4]
  omega

/-- A target that passes its checks is aligned (R70). -/
theorem aligned_of_landing {e : Env} {t : DWord} (h : e.landing t = none) : t.toNat % 4 = 0 := by
  by_contra hn
  simp [Env.landing, hn] at h

theorem landing_of_misaligned (e : Env) {t : DWord} (h : t.toNat % 4 ≠ 0) : e.landing t = some codeMISALIGNPC := if_pos h

/-! ## A transfer -/

/-- The effect of a taken transfer (R162). -/
def gone (e : Env) (th : Thread) : Out := ⟨e.s, th, [], 0, none, .taken⟩

theorem jump_of_aligned (e : Env) (th : Thread) {t : DWord} (h : t.toNat % 4 = 0) : e.jump th t = .ok (gone e (th.take t)) :=
  if_neg (not_not.2 h)

theorem jump_of_misaligned (e : Env) (th : Thread) {t : DWord} (h : t.toNat % 4 ≠ 0) :
    e.jump th t = .fault ⟨codeMISALIGNPC, e.th.em, t.toNat % 2 ^ 32, t.toNat / 2 ^ 32⟩ := if_pos h

/-- To show that an instruction transfers, show that its body answers the taken transfer. -/
theorem completes_of_gone {i : Instr} {r : Rule} {P : Env → Prop} {th : Env → Thread}
    (h : ∀ s, ∃ body : Env → Eff, exec i s = issue s r body ∧ ∀ e : Env, P e → body e = .ok (gone e (th e))) :
    Completes i r P (fun e o => o = ⟨e.s, th e, [], 0, none, .taken⟩) :=
  Completes.of_body fun s => (h s).imp fun _ hb => ⟨hb.1, fun e he => ⟨_, hb.2 e he, rfl, rfl⟩⟩

theorem jmpvFault_of_landing {e : Env} {ts : List (Nat × DWord)} (h : ∀ t ∈ ts, e.landing t.2 = none) : jmpvFault e ts = none := by
  have hb (c : Nat) : ts.filter (fun t => decide (e.landing t.2 = some c)) = [] := by
    refine List.filter_eq_nil_iff.2 fun t ht => ?_
    simp [h t ht]
  simp [jmpvFault, hb]

theorem exec_bra (f : BForm) (s : State) : exec (.bra f) s = execBra f s := rfl

/-- What BRZ and BRNZ do: a branch where A is zero, or is not, and with SETEM a new `em` (R164). -/
def brCondBody (f : BForm) (zero : Bool) (e : Env) : Eff :=
  if decide (e.read32 f.a 0 = 0) = zero then
    e.jump (if f.aux.getLsbD 0 then { e.th with em := e.read32 f.d 0 &&& e.th.lm } else e.th) (directTarget e.th.pc f.disp)
  else e.done []

theorem exec_brz (f : BForm) (s : State) : exec (.brz f) s = issue s (brCondRule f 0x081) (brCondBody f true) := rfl

theorem exec_brnz (f : BForm) (s : State) : exec (.brnz f) s = issue s (brCondRule f 0x082) (brCondBody f false) := rfl

theorem exec_brany (f : BForm) (s : State) : exec (.brany f) s = execBrany f s := rfl

theorem exec_brall (f : BForm) (s : State) : exec (.brall f) s = execBrall f s := rfl

/-- The target of a CALL (R165). -/
def callTarget (f : BForm) (e : Env) : DWord := if f.aux.getLsbD 0 then e.read64 f.a 0 else directTarget e.th.pc f.disp

theorem exec_call (f : BForm) (s : State) : exec (.call f) s = issue s (ruleCall f) fun e =>
    if e.th.cd = 15 then .fault ⟨codeCALLOVF, e.th.em, (callTarget f e).toNat % 2 ^ 32, (callTarget f e).toNat / 2 ^ 32⟩
    else match (if f.aux.getLsbD 0 then e.landing (callTarget f e) else none) with
      | some c => .fault ⟨c, e.th.em, (callTarget f e).toNat % 2 ^ 32, (callTarget f e).toNat / 2 ^ 32⟩
      | none => e.jump { e.th with lk := e.th.pc + 12, cd := e.th.cd + 1 } (callTarget f e) := rfl

theorem exec_ret (f : BForm) (s : State) : exec (.ret f) s = execRet f s := rfl

theorem exec_jmpi (f : BForm) (s : State) : exec (.jmpi f) s = execJmpi f s := rfl

theorem exec_jmpv (f : BForm) (s : State) : exec (.jmpv f) s = execJmpv f s := rfl

theorem transfersTrap : Claim.TransfersTrap := by
  intro f tv
  refine ⟨.of_body fun s => ⟨_, exec_call f s, fun e he => if_pos he⟩, fun c => .of_body fun s => ⟨_, exec_jmpi f s, fun e he => ?_⟩,
    .of_body fun s => ⟨_, exec_bra f s, fun e he => jump_of_misaligned e _ he⟩, .of_body fun s => ⟨_, exec_ret f s, fun e he => ?_⟩,
    fun e t => landing_of_misaligned e⟩
  · simp only [he, tv]
  · obtain ⟨hend, hcd, hlk⟩ := he
    simp only [hend, hcd, hlk, tv, Bool.false_eq_true, if_false, ne_eq, not_false_eq_true, if_true]

/-- JMPV finds no fault where every lane's target passes its checks (R167). -/
theorem jmpvFault_each {e : Env} {f : BForm} {j : Nat} {js : List Nat} (hj : e.lanes = j :: js)
    (h : ∀ i ∈ e.lanes, e.landing (e.read64 f.a i) = none) :
    ∃ ts, e.each (e.read64 f.a) = (j, e.read64 f.a j) :: ts ∧ jmpvFault e ((j, e.read64 f.a j) :: ts) = none := by
  have hts : e.each (e.read64 f.a) = (j, e.read64 f.a j) :: js.map fun i => (i, e.read64 f.a i) := by simp [Env.each, hj]
  refine ⟨_, hts, jmpvFault_of_landing fun t ht => ?_⟩
  obtain ⟨i, hi, rfl⟩ := List.mem_map.1 (hts ▸ ht)
  exact h i hi

theorem filter_each (e : Env) (g : Nat → DWord) (x : DWord) :
    ((e.each g).filter fun t => t.2 = x).map (·.1) = e.lanes.filter fun i => g i = x := by
  simp [Env.each, List.filter_map, Function.comp_def]

theorem transfers : Claim.Transfers := by
  intro f aligned target went setem any all called
  have jump {e : Env} (th : Thread) (h : aligned e) : e.jump th (target e) = .ok (gone e (th.take (target e))) :=
    jump_of_aligned e th (directTarget_aligned f.disp h)
  refine ⟨fun pc d => ⟨directTarget_eq pc d, ?_, ?_⟩, completes_of_gone fun s => ⟨_, exec_bra f s, fun e he => jump _ he⟩,
    completes_of_gone fun s => ⟨_, exec_brz f s, fun e he => ?_⟩, .of_body fun s => ⟨_, exec_brz f s, fun e he => ?_⟩,
    completes_of_gone fun s => ⟨_, exec_brnz f s, fun e he => ?_⟩, .of_body fun s => ⟨_, exec_brnz f s, fun e he => ?_⟩,
    completes_of_gone fun s => ⟨_, exec_brany f s, fun e he => ?_⟩, .of_body fun s => ⟨_, exec_brany f s, fun e he => ?_⟩,
    completes_of_gone fun s => ⟨_, exec_brall f s, fun e he => ?_⟩, .of_body fun s => ⟨_, exec_brall f s, fun e he => ?_⟩,
    fun hf => completes_of_gone fun s => ⟨_, exec_call f s, fun e he => ?_⟩,
    fun hf => completes_of_gone fun s => ⟨_, exec_call f s, fun e he => ?_⟩,
    completes_of_gone fun s => ⟨_, exec_ret f s, fun e he => ?_⟩, .of_body fun s => ⟨_, exec_ret f s, fun e he => ?_⟩,
    .of_body fun s => ⟨_, exec_ret f s, fun e he => ?_⟩, fun e he => ?_, fun e he hc => ?_,
    completes_of_gone fun s => ⟨_, exec_jmpi f s, fun e he => ?_⟩,
    .of_body fun s => ⟨_, exec_jmpv f s, fun e he => ?_⟩⟩
  · have := BitVec.le_toInt d; omega
  · have := BitVec.toInt_lt (x := d); omega
  · obtain ⟨hal, hz⟩ := he
    exact (if_pos (decide_eq_true hz)).trans (jump _ hal)
  · exact if_neg (by simpa using he)
  · obtain ⟨hal, hz⟩ := he
    exact (if_pos (decide_eq_false hz)).trans (jump _ hal)
  · exact if_neg (by simpa using he)
  · obtain ⟨hal, hany⟩ := he
    exact (if_pos hany).trans (jump _ hal)
  · exact if_neg he
  · obtain ⟨hal, hall⟩ := he
    exact (if_pos hall).trans (jump _ hal)
  · exact if_neg he
  · obtain ⟨hal, hcd⟩ := he
    simp only [hcd, hf, callTarget, if_false, Bool.false_eq_true]
    exact jump _ hal
  · obtain ⟨hcd, hland⟩ := he
    simp only [hcd, hf, callTarget, if_false, if_true, hland]
    exact jump_of_aligned _ _ (aligned_of_landing hland)
  · obtain ⟨hend, hcd, hlk⟩ := he
    simp only [hend, hcd, hlk, Bool.false_eq_true, if_false, ne_eq, not_true_eq_false]
    rfl
  · obtain ⟨⟨d, c, k, hag⟩, hcd, hteam⟩ := he
    have hend : e.endsHandler = false := by simp [Env.endsHandler, hag, Agent.isSteward]
    refine ⟨retired e k, ?_, rfl, rfl, fun d' c' k' hag' => ?_⟩
    · simp only [hend, hcd, Bool.false_eq_true, if_false, if_true, endGroup_of_team hag hteam]
    · cases hag.symm.trans hag'
      rfl
  · exact ⟨_, if_pos he, rfl, rfl, rfl, rfl⟩
  · simp [Env.endsHandler, he]
  · simp [Env.endsHandler, he, hc]
  · simp only [he]
    exact jump_of_aligned _ _ (aligned_of_landing he)
  · obtain ⟨j, js, hj, hland⟩ := he
    obtain ⟨ts, hts, hno⟩ := jmpvFault_each hj hland
    refine ⟨_, ?_, rfl, j, js, hj, rfl⟩
    rw [← filter_each]
    simp only [hts, hno]

/-- Settles O10: where a transfer goes, and where it traps. -/
theorem controlTransfers : Obligations.ControlTransfers := ⟨transfers, transfersTrap⟩

end Sys2Proof.Proofs
end

section
namespace Sys2Proof.Proofs
open Sys2Proof Sys2Proof.Machine

/-! # Asynchronous operations that complete (R90, R270, R387) -/

/-! ## What the last batches of ended tasks leave of a comb

A batch that leaves counts up the sender's sequence numbers, and an ended task whose batches have left is forgotten; `g` is any
part of a comb that holds neither. -/

theorem view_foldl {β σ γ : Type} (v : σ → γ) {f : σ → β → σ} (h : ∀ s x, v (f s x) = v s) (xs : List β) (s : σ) :
    v (xs.foldl f s) = v s := by
  induction xs generalizing s with
  | nil => rfl
  | cons x xs ih => exact (ih _).trans (h s x)

section
variable {α : Type} {g : Comb → α} (hseq : ∀ c x, g { c with seqOut := x } = g c)
include hseq

theorem comb_sendBatch (s : State) (die snd ctx f kind : Nat) (ents : List CountEnt) (k : Nat) :
    g ((s.sendBatch die snd ctx f kind ents).1.comb k) = g (s.comb k) := by
  unfold State.sendBatch
  extract_lets ck key seq next s' dies
  have hs : g (s'.comb k) = g (s.comb k) := by
    dsimp only [s']
    split
    · rfl
    · rw [State.comb_modComb]
      split
      · next h => rw [hseq, h]
      · rfl
  clear_value s' dies
  dsimp only
  split <;> exact hs

theorem comb_sendOpen (s : State) (ck ctx : Nat) (th : Thread) (f kind k : Nat) : g ((s.sendOpen ck ctx th f kind).1.comb k) = g (s.comb k) := by
  unfold State.sendOpen
  split
  · rfl
  · exact comb_sendBatch hseq ..

theorem comb_sendAll (s : State) (ck : Nat) (th : Thread) (kind k : Nat) : g ((s.sendAll ck th kind).1.comb k) = g (s.comb k) := by
  exact view_foldl (fun p : State × Thread => g (p.1.comb k)) (fun p b => comb_sendOpen hseq ..) th.batches (s, th)

theorem comb_count (s : State) (ck ctx : Nat) (th : Thread) (f loc : Nat) (t : DWord) (note : Bool) (d : Int) (k : Nat) :
    g ((s.count ck ctx th f loc t note d).1.comb k) = g (s.comb k) := by
  unfold State.count
  dsimp only
  split
  · rfl
  · exact comb_sendOpen hseq ..

theorem comb_closeTask (s : State) (ck : Nat) (th : Thread) (k : Nat) : g ((s.closeTask ck th).comb k) = g (s.comb k) := by
  unfold State.closeTask
  split
  · rfl
  · refine (comb_sendAll hseq ..).trans ?_
    split
    · exact comb_count hseq ..
    · rfl

theorem comb_flushKilled (hkilled : ∀ c x, g { c with killed := x } = g c) (s : State) (ck k : Nat) :
    g ((s.flushKilled ck).comb k) = g (s.comb k) := by
  refine view_foldl (fun s : State => g (s.comb k)) (fun s x => ?_) _ s
  split
  · rw [State.comb_modComb]
    split
    · next h => rw [hkilled, ← h]; exact comb_closeTask hseq ..
    · exact comb_closeTask hseq ..
  · rfl

end

/-! ## The threads of a comb -/

/-- What a comb's threads are read from. -/
def threadParts (c : Comb) : List (Nat × Thread) × Steward × List (Nat × Seq) := (c.groups, c.steward, c.seqs)

theorem thread_congr {s t : State} {a : Agent} (h : threadParts (t.comb (agentKey a)) = threadParts (s.comb (agentKey a))) :
    t.thread a = s.thread a := by
  obtain ⟨hg, hst, hq⟩ : _ ∧ _ ∧ _ := by simpa only [threadParts, Prod.mk.injEq] using h
  simp only [State.thread, hg, hst, hq]

/-- The thread that is read where one was set is that one, but for a steward's number. -/
theorem thread_setThread {s : State} {a : Agent} {th x th' : Thread} (h : s.thread a = some th) (h' : (s.setThread a x).thread a = some th') :
    ∃ n, th' = { x with uid := n } := by
  cases a with
  | group d c k =>
    rw [State.thread_setThread_group] at h'
    cases h'
    exact ⟨x.uid, rfl⟩
  | steward d c =>
    simp only [State.thread, State.setThread, State.comb_modComb_self, Option.some.injEq] at h'
    exact ⟨_, h'.symm⟩
  | stream d c q =>
    simp only [State.thread] at h
    split at h
    · next y hy =>
      simp only [State.thread, State.setThread, State.comb_modComb_self, hy, Sparse.find?_put_self] at h'
      split at h'
      · contradiction
      · cases h'
        exact ⟨x.uid, rfl⟩
    · contradiction

/-! ## An operation completes -/

/-- The machine once an operation's results are in place in its owner. -/
def landed (s : State) (op : AsyncOp) : State :=
  match s.thread op.owner with
  | some th => if th.uid = op.ownerUid then s.setThread op.owner (th.landOp op) else s
  | none => s

/-- An operation that is no copy lands, leaves its class, and drops the L1 where its scope says so (R270). -/
theorem completeOp_eq {op : AsyncOp} (hk : ∀ c, op.kind ≠ .copy c) (s : State) (ck : Nat) :
    s.completeOp ck op =
      let t := (landed s op).modComb ck fun c => { c with ops := c.ops.filter fun o => decide (o.uid ≠ op.uid) }
      (if 2 ≤ op.scope then t.dropL1 ck else t).flushKilled ck := by
  unfold State.completeOp
  extract_lets s1 s2 s3
  split
  · next c hc => exact absurd hc (hk c)
  · rfl

/-- A part of a comb without sequence numbers, ended tasks, L1 lines and operations is as the landing leaves it. -/
theorem comb_completeOp {α : Type} {g : Comb → α} {op : AsyncOp} (hk : ∀ c, op.kind ≠ .copy c) (hseq : ∀ c x, g { c with seqOut := x } = g c)
    (hkilled : ∀ c x, g { c with killed := x } = g c) (hl1 : ∀ c x, g { c with l1 := x } = g c) (s : State) (ck : Nat) :
    g ((s.completeOp ck op).comb ck) = g { (landed s op).comb ck with ops := ((landed s op).comb ck).ops.filter fun o => decide (o.uid ≠ op.uid) } := by
  rw [completeOp_eq hk]
  refine (comb_flushKilled hseq hkilled ..).trans ?_
  split
  · rw [State.dropL1, State.comb_modComb_self, hl1, State.comb_modComb_self]
  · rw [State.comb_modComb_self]

theorem ops_landed (s : State) (op : AsyncOp) (k : Nat) : ((landed s op).comb k).ops = (s.comb k).ops := by
  unfold landed
  split
  · split
    · exact ops_setThread ..
    · rfl
  · rfl

/-- Every register that a landed operation covers reads as landed. -/
theorem landed_of_mem_landOp {th : Thread} {op : AsyncOp} {u : Uncov} (hu : u ∈ (th.landOp op).uncov) (ho : u.op = op.uid) : u.landed = true := by
  unfold Thread.landOp at hu
  obtain ⟨x, -, rfl⟩ := List.mem_map.1 hu
  by_cases hx : x.op = op.uid
  · rw [if_pos hx]
  · rw [if_neg hx] at ho
    exact absurd ho hx

theorem exec_operationCompletion {s : State} {die comb i : Nat} {op : AsyncOp} (hop : (s.comb (combKey die comb)).ops[i]? = some op)
    (hf : op.finished s = true) (ho : (s.comb (combKey die comb)).isOldest op = true) (hd : op.due ≤ (s.comb (combKey die comb)).clk)
    (hp : op.posts = true → (s.comb (combKey die comb)).canPost = true) :
    exec (.operationCompletion die comb i) s = .next (s.completeOp (combKey die comb) op) := by
  have hp : (!op.posts || (s.comb (combKey die comb)).canPost) = true := by
    cases h : op.posts
    · rfl
    · exact hp h
  simp only [exec, execOperationCompletion, Comb.op, hop, hf, ho, decide_eq_true hd, hp, Bool.and_self, if_true]

/-- Settles O35: an operation that completes lands in its owner and leaves its class. -/
theorem operationCompletes : Obligations.OperationCompletes := by
  intro s die comb i op ck hop hf ho hd hp
  refine ⟨exec_operationCompletion hop hf ho hd hp, fun hk hck => ⟨?_, fun th hth hu th' hth' u humem huop => ?_⟩⟩
  · rw [comb_completeOp (g := Comb.ops) hk (fun _ _ => rfl) (fun _ _ => rfl) (fun _ _ => rfl), ops_landed]
  · have hland : landed s op = s.setThread op.owner (th.landOp op) := by simp only [landed, hth, hu, if_true]
    have hparts : threadParts ((s.completeOp ck op).comb (agentKey op.owner)) = threadParts ((landed s op).comb (agentKey op.owner)) := by
      rw [hck]
      exact comb_completeOp (g := threadParts) hk (fun _ _ => rfl) (fun _ _ => rfl) (fun _ _ => rfl) s ck
    rw [thread_congr hparts, hland] at hth'
    obtain ⟨n, rfl⟩ := thread_setThread hth hth'
    exact landed_of_mem_landOp humem huop

end Sys2Proof.Proofs
end

section
namespace Sys2Proof.Proofs
open Sys2Proof Sys2Proof.Machine

/-! # Fetches (R68, R225, R244, R249) -/

/-! ## Uncorrectable errors never spread by a write-back (R249) -/

/-- Taking a set bit away leaves no bit that was not set. -/
theorem testBit_of_testBit_sub_two_pow {x k j : Nat} (hk : x.testBit k = true) (h : (x - 2 ^ k).testBit j = true) : x.testBit j = true := by
  obtain ⟨y, rfl⟩ : ∃ y, x = 2 ^ k + y := ⟨x - 2 ^ k, (Nat.add_sub_cancel' (Nat.ge_two_pow_of_testBit hk)).symm⟩
  rw [Nat.add_sub_cancel_left] at h
  rw [Nat.testBit_two_pow_add_eq, Bool.not_eq_true'] at hk
  rcases Nat.lt_trichotomy j k with hj | rfl | hj
  · rwa [Nat.testBit_two_pow_add_gt hj]
  · rw [hk] at h; contradiction
  · have hq : (2 ^ k + y) / 2 ^ (k + 1) = y / 2 ^ (k + 1) := by
      have hr : y / 2 ^ k % 2 = 0 := by simpa [Nat.testBit_eq_decide_div_mod_eq] using hk
      rw [Nat.pow_succ, ← Nat.div_div_eq_div_mul, ← Nat.div_div_eq_div_mul, Nat.add_div_left _ (Nat.two_pow_pos k)]
      omega
    obtain ⟨d, rfl⟩ : ∃ d, j = d + (k + 1) := ⟨j - (k + 1), by omega⟩
    rw [← Nat.testBit_div_two_pow] at h ⊢
    rwa [hq]

theorem badAt_of_setBad_false {s : State} {w k w' k' : Nat} (h : (s.setBad w k false).badAt w' k' = true) : s.badAt w' k' = true := by
  simp only [State.badAt, State.setBad, Bool.false_eq_true, if_false, Nat.add_zero] at h ⊢
  by_cases hw : w' = w
  · subst hw
    rw [Sparse.get_set_self] at h
    split at h
    · next hk => exact testBit_of_testBit_sub_two_pow hk h
    · exact h
  · rwa [Sparse.get_set_ne _ _ _ hw] at h

/-- A machine with no uncorrectable errors but those of another, its lines valid and dirty as the other's. -/
def NoWorse (t s : State) : Prop :=
  (∀ w, t.wordDirty w = s.wordDirty w ∧ t.wordValid w = s.wordValid w) ∧ ∀ w k, t.badAt w k = true → s.badAt w k = true

theorem NoWorse.refl (s : State) : NoWorse s s := ⟨fun _ => ⟨rfl, rfl⟩, fun _ _ => id⟩

theorem NoWorse.trans {r s t : State} (h : NoWorse r s) (g : NoWorse s t) : NoWorse r t :=
  ⟨fun w => ⟨(h.1 w).1.trans (g.1 w).1, (h.1 w).2.trans (g.1 w).2⟩, fun w k hb => g.2 w k (h.2 w k hb)⟩

/-- The errors and the lines are all that counts. -/
theorem NoWorse.of_eq {s t : State} (hb : t.badWords = s.badWords) (hl : t.l2 = s.l2) : NoWorse t s :=
  ⟨fun w => by simp only [State.wordDirty, State.wordValid, hl, and_self], fun w k h => by simpa only [State.badAt, hb] using h⟩

theorem NoWorse.foldl {β : Type} {f : State → β → State} (h : ∀ s x, NoWorse (f s x) s) (xs : List β) (s : State) : NoWorse (xs.foldl f s) s := by
  induction xs generalizing s with
  | nil => exact .refl s
  | cons x xs ih => exact (ih _).trans (h s x)

theorem NoWorse.locBad {s t : State} (h : NoWorse t s) {loc : Nat} (hb : t.locBad loc = true) : s.locBad loc = true := by
  obtain ⟨hd, hv⟩ := h.1 (loc / 4)
  have h0 := h.2 (loc / 4) 0
  have h1 := h.2 (loc / 4) 1
  simp only [State.locBad, State.wordBad, State.wordErr, hd, hv, Bool.and_eq_true, decide_eq_true_eq] at hb ⊢
  refine ⟨hb.1, ?_⟩
  obtain ⟨-, hb⟩ := hb
  cases hdirty : s.wordDirty (loc / 4) with
  | true =>
    simp only [hdirty, if_true] at hb ⊢
    split at hb
    · next hbad => rw [if_pos (h1 hbad)]; rfl
    · contradiction
  | false =>
    simp only [hdirty, Bool.false_eq_true, if_false] at hb ⊢
    split at hb
    · next hbad =>
      rw [Bool.or_eq_true] at hbad
      rw [if_pos ⟨h0 hbad.1, Bool.or_eq_true _ _ ▸ hbad.2.imp_right h1⟩]
      rfl
    · contradiction

theorem noWorse_setBad_false (s : State) (w k : Nat) : NoWorse (s.setBad w k false) s := ⟨fun _ => ⟨rfl, rfl⟩, fun _ _ => badAt_of_setBad_false⟩

theorem noWorse_wordBack (s : State) (w : Nat) (x : Word) : NoWorse (s.wordBack w x) s := by
  have h : NoWorse (s.setHbmWord w x) s := .of_eq rfl rfl
  unfold State.wordBack
  dsimp only
  split
  · exact h
  · exact ((noWorse_setBad_false _ _ _).trans (noWorse_setBad_false _ _ _)).trans h

theorem noWorse_tileWordBack (s : State) (a : Nat) (x : Word) : NoWorse (s.tileWordBack a x) s := by
  refine NoWorse.trans ?_ (noWorse_wordBack s (a / 4) x)
  unfold State.tileWordBack
  extract_lets w t
  change NoWorse _ t
  split
  · exact .refl _
  next l hl =>
  split
  · refine ⟨fun w' => ?_, fun _ _ => id⟩
    by_cases hw : w' / 32 = w / 32
    · simp only [State.wordDirty, State.wordValid, hw, hl, Sparse.find?_put_self, and_self]
    · simp only [State.wordDirty, State.wordValid, Sparse.find?_put_ne _ _ hw, and_self]
  · exact .refl _

theorem noWorse_replicaFetch (s : State) (die : Nat) (reads : List (Nat × Nat)) : NoWorse (s.replicaFetch die reads) s := by
  unfold State.replicaFetch
  refine NoWorse.trans (.foldl (fun _ _ => ?_) _ _) (.foldl (fun _ _ => .foldl (fun _ _ => noWorse_tileWordBack ..) _ _) _ _)
  exact .of_eq rfl rfl

theorem noWorse_fetchNote (s : State) (ck : Nat) (ctx : Option Nat) (va : Nat) : NoWorse (s.fetchNote ck ctx va) s := by
  unfold State.fetchNote
  split
  · exact .refl s
  · refine .foldl (fun x a => ?_) _ _
    split
    · exact (noWorse_replicaFetch ..).trans (.of_eq rfl rfl)
    · exact .refl _

/-! ## The instruction cache after a fill (R244) -/

theorem bytesNow_getD (s : State) (loc n k : Nat) (h : k < n) : (s.bytesNow loc n).getD k 0 = s.byteNow (loc + k) := by
  induction n generalizing loc k with
  | zero => omega
  | succ n ih =>
    cases k with
    | zero => rfl
    | succ k => simpa [State.bytesNow, Nat.add_assoc, Nat.add_comm 1] using ih (loc + 1) k (by omega)

theorem locBad_congr (s : State) {x y : Nat} (h : x / 4 = y / 4) : s.locBad x = s.locBad y := by
  have hh : decide (x < hostBase) = decide (y < hostBase) := decide_eq_decide.2 (by unfold hostBase; omega)
  simp only [State.locBad, h, hh]

/-- A line that a fill has just brought, of the bytes at their homes (R244). -/
def filledLine (s : State) (line : Nat) : IcLine := ⟨line, s.nextUid, s.bytesNow (line * 128) 128, s.badOf line⟩

theorem comb_setNextUid (s : State) (n k : Nat) : ({ s with nextUid := n } : State).comb k = s.comb k := rfl

theorem icache_icFill {s : State} {ck : Nat} (h : (s.comb ck).icache = []) (ls : List Nat) :
    ((s.icFill ck ls).comb ck).icache = ls.map fun l => filledLine s (l / 128) := by
  simp only [State.icFill, comb_setNextUid, State.comb_modComb_self, h, List.filter_nil, List.drop_nil, List.nil_append]
  rfl

/-- A cache of the lines that some locations lie in holds each of these. -/
theorem icLine_of_lineHeads {c : Comb} {s : State} {locs : List Nat} (hc : c.icache = (lineHeads locs).map fun l => filledLine s (l / 128))
    {loc : Nat} (h : loc / 128 = locs.headD 0 / 128 ∨ loc / 128 = locs.getLastD 0 / 128) : c.icLine (loc / 128) = some (filledLine s (loc / 128)) := by
  simp only [Comb.icLine, hc, lineHeads]
  generalize locs.headD 0 = a, locs.getLastD 0 = b at h ⊢
  by_cases hl : a / 128 = loc / 128
  · split <;> simp [filledLine, hl]
  · have hr : b / 128 = loc / 128 := by omega
    rw [if_neg (by omega)]
    simp [filledLine, hl, hr]

theorem icByte_of_filledLine {c : Comb} {s : State} {loc : Nat} (hl : c.icLine (loc / 128) = some (filledLine s (loc / 128)))
    (hb : s.locBad loc = false) : c.icByte loc = some (s.byteNow loc) := by
  have hgood : (s.badOf (loc / 128)).contains (loc % 128 / 4) = false := by
    rw [← Bool.not_eq_true, List.contains_iff_mem]
    intro hm
    unfold State.badOf at hm
    split at hm
    · contradiction
    · have h4 := (List.mem_filter.1 hm).2
      rw [locBad_congr s (show (128 * (loc / 128) + 4 * (loc % 128 / 4)) / 4 = loc / 4 by omega), hb] at h4
      contradiction
  have hbyte := bytesNow_getD s (loc / 128 * 128) 128 (loc % 128) (Nat.mod_lt _ (by decide))
  rw [Nat.div_add_mod'] at hbyte
  simp only [Comb.icByte, hl, Option.bind_some, filledLine, hgood, hbyte, Bool.false_eq_true, if_false]

theorem mapM_eq_some_map {α β : Type} {f : α → Option β} {g : α → β} {l : List α} (h : ∀ x ∈ l, f x = some (g x)) : l.mapM f = some (l.map g) := by
  induction l with
  | nil => rfl
  | cons x l ih =>
    rw [List.mapM_cons, h x (List.mem_cons_self ..), ih fun y hy => h y (List.mem_cons_of_mem _ hy)]
    rfl

/-- After a fill of their lines the cache holds the bytes of good locations as they stand at their homes. -/
theorem icWord_icFill {s : State} {ck : Nat} {locs : List Nat} (hic : (s.comb ck).icache = [])
    (hlines : ∀ l ∈ locs, l / 128 = locs.headD 0 / 128 ∨ l / 128 = locs.getLastD 0 / 128) (hgood : ∀ l ∈ locs, s.locBad l = false) :
    ((s.icFill ck (lineHeads locs)).comb ck).icWord locs = some (BitVec.ofNat 96 (leNat (locs.map s.byteNow))) := by
  have hc := icache_icFill hic (lineHeads locs)
  generalize (s.icFill ck (lineHeads locs)).comb ck = c at hc
  have hline {loc : Nat} (h : loc / 128 = locs.headD 0 / 128 ∨ loc / 128 = locs.getLastD 0 / 128) := icLine_of_lineHeads hc h
  have hgens : ((lineHeads locs).map fun l => (c.icLine (l / 128)).map (·.gen)) = (lineHeads locs).map fun _ => some s.nextUid := by
    refine List.map_congr_left fun l hl => ?_
    have : l / 128 = locs.headD 0 / 128 ∨ l / 128 = locs.getLastD 0 / 128 := by
      simp only [lineHeads] at hl
      split at hl <;> simp only [List.mem_cons, List.not_mem_nil, or_false] at hl
      · exact .inl (by rw [hl])
      · exact hl.imp (fun h => by rw [h]) (fun h => by rw [h])
    rw [hline this]
    rfl
  have hall : ((lineHeads locs).map fun _ => some s.nextUid).all (fun g => decide (g = ((lineHeads locs).map fun _ => some s.nextUid).headD none)) = true := by
    simp only [lineHeads]
    split <;> simp
  simp only [Comb.icWord, hgens, hall, if_true, mapM_eq_some_map fun l hl => icByte_of_filledLine (hline (hlines l hl)) (hgood l hl), Option.map_some]

/-- An empty cache holds no word. -/
theorem icWord_of_empty {c : Comb} {locs : List Nat} (hc : c.icache = []) (hl : locs ≠ []) : c.icWord locs = none := by
  have hb (l : Nat) : c.icByte l = none := by simp [Comb.icByte, Comb.icLine, hc]
  obtain ⟨l, ls, rfl⟩ := List.exists_cons_of_ne_nil hl
  have hm : (l :: ls).mapM c.icByte = none := by rw [List.mapM_cons, hb]; rfl
  unfold Comb.icWord
  extract_lets gens
  split
  · rw [hm]; rfl
  · rfl

/-! ## What a fill leaves behind -/

theorem combs_tileWordBack (s : State) (a : Nat) (x : Word) : (s.tileWordBack a x).combs = s.combs := by
  have h : (s.wordBack (a / 4) x).combs = s.combs := by
    unfold State.wordBack
    dsimp only
    split <;> rfl
  unfold State.tileWordBack
  dsimp only
  split
  · exact h
  · split <;> exact h

theorem combs_replicaFetch (s : State) (die : Nat) (reads : List (Nat × Nat)) : (s.replicaFetch die reads).combs = s.combs := by
  unfold State.replicaFetch
  refine (view_foldl State.combs (fun _ _ => ?_) _ _).trans
    (view_foldl State.combs (fun _ _ => view_foldl State.combs (fun _ _ => combs_tileWordBack ..) _ _) _ _)
  rfl

theorem icache_fetchNote (s : State) (ck : Nat) (ctx : Option Nat) (va k : Nat) : ((s.fetchNote ck ctx va).comb k).icache = (s.comb k).icache := by
  unfold State.fetchNote
  split
  · rfl
  · refine view_foldl (fun s : State => (s.comb k).icache) (fun x a => ?_) _ _
    split
    · rw [State.comb, combs_replicaFetch, ← State.comb, State.tlbNote, State.comb_modDie, State.comb_modComb]
      split
      · next h => rw [h]; rfl
      · rfl
    · rfl

/-- Bytes stand where lines and memories stand. -/
theorem byteNow_congr {s t : State} (hl : t.l2 = s.l2) (hm : t.hbm = s.hbm) (hr : ∀ loc, t.rawByte loc = s.rawByte loc) (loc : Nat) :
    t.byteNow loc = s.byteNow loc := by
  simp only [State.byteNow, State.wordNow, State.hbmWord, hl, hm, hr]

theorem byteNow_tlbNote (s : State) (ck ctx : Nat) (acc : Access) (l : Leaf) (loc : Nat) : (s.tlbNote ck ctx acc l).byteNow loc = s.byteNow loc := by
  have hl : (s.tlbNote ck ctx acc l).l2 = s.l2 := rfl
  have hm : (s.tlbNote ck ctx acc l).hbm = s.hbm := rfl
  refine byteNow_congr hl hm (fun loc => ?_) loc
  simp only [State.tlbNote]
  have hd (t : State) (d : Nat) (f : Die → Die) : (t.modDie d f).rawByte loc = t.rawByte loc := rawByte_congr rfl rfl rfl loc
  refine (hd _ _ _).trans (rawByte_modComb s ck _ ?_ loc)
  split <;> rfl

theorem byteNow_fetchNote {s : State} {ck : Nat} {ctx : Option Nat} {va : Nat}
    (h : ∀ x ∈ [va, va + 11], ∀ l, s.translate ck ctx x .exec = .ok l → l.place ≠ 2) (loc : Nat) :
    (s.fetchNote ck ctx va).byteNow loc = s.byteNow loc := by
  cases ctx with
  | none => rfl
  | some cx =>
    have step (x : State) {a : Nat} (ha : a ∈ [va, va + 11]) :
        (match s.translate ck (some cx) a .exec with
          | .ok l => (x.tlbNote ck cx .exec l).replicaFetch (keyDie ck) (l.replicaReads a 1)
          | .error _ => x).byteNow loc = x.byteNow loc := by
      split
      · next l hl => rw [Leaf.replicaReads, if_neg (h a ha l hl)]; exact byteNow_tlbNote ..
      · rfl
    exact (step _ (by simp)).trans (step _ (by simp))

/-! ## The fetch -/

theorem ne_nil_of_fetchLocs {s : State} {ck : Nat} {ctx : Option Nat} {va : Nat} {locs : List Nat} (h : s.fetchLocs ck ctx va = .ok locs) :
    locs ≠ [] := by
  unfold State.fetchLocs at h
  split at h
  · contradiction
  split at h
  · contradiction
  dsimp only at h
  split at h
  · contradiction
  · rintro rfl
    simp at h

/-- A fetch that must fill finds no bad word, and reads the word that the fill brings (R68, R244). -/
theorem fetch_of_miss {s s' : State} {a : Agent} {th : Thread} {w : InstrWord} {locs : List Nat} (hw : th.waiting = none)
    (hb : th.buffered = none) (hl : s.fetchLocs (agentKey a) (s.agentCtx a) th.pc.toNat = .ok locs)
    (hm : (s.comb (agentKey a)).icWord locs = none) (h : s.fetch a th = .ok (s', w)) :
    locs.any s.locBad = false ∧ w = ((((s.fetchNote (agentKey a) (s.agentCtx a) th.pc.toNat).icFill (agentKey a) (lineHeads locs)).comb
      (agentKey a)).icWord locs).getD 0 := by
  unfold State.fetch at h
  simp only [hw, hb, hl] at h
  split at h
  · contradiction
  · contradiction
  next ls _ heq =>
  obtain rfl := Except.ok.inj heq
  simp only [hm, Option.isSome_none, Bool.not_false, Bool.true_and, Bool.false_eq_true, if_false] at h
  split at h
  · contradiction
  next hgood =>
  refine ⟨Bool.not_eq_true _ ▸ hgood, ?_⟩
  split at h
  · contradiction
  · exact (Prod.ext_iff.1 (Except.ok.inj h)).2.symm

theorem fetchedBytes : Claim.FetchedBytes := by
  intro s s' a th w locs n hw hb hic hl hlines h
  obtain ⟨hgood, rfl⟩ := fetch_of_miss hw hb hl (icWord_of_empty hic (ne_nil_of_fetchLocs hl)) h
  have hn : (n.comb (agentKey a)).icache = [] := (icache_fetchNote ..).trans hic
  have hgood' : ∀ l ∈ locs, n.locBad l = false := fun l hl => by
    rw [← Bool.not_eq_true]
    intro hbad
    exact Bool.eq_false_iff.1 hgood (List.any_eq_true.2 ⟨l, hl, (noWorse_fetchNote ..).locBad hbad⟩)
  refine ⟨?_, byteNow_fetchNote⟩
  rw [icWord_icFill hn hlines hgood', Option.getD_some]

/-! ## Events and steps (log entry 1) -/

theorem step_cons {s : State} {e : Instr} {rest : List Instr} (h : s.agenda = e :: rest) :
    step s = if s.acts e then looked (exec e { s with agenda := rest }) else .next { s with agenda := rest } := by
  simp only [step, h]

theorem step_nextTurn {s : State} (h : s.agenda = []) (hr : s.running = true) (hc : s.cur = none) :
    step s = match s.nextTurn with
      | some x => looked (s.turn x)
      | none => .next s := by
  simp only [step, h, hr, if_true, hc] <;> rfl

theorem step_halted {s : State} (h : s.agenda = []) (hr : s.running = false) :
    step s = .fault (if s.hive.power then .halted else .unpowered) := by
  simp only [step, h, hr, Bool.false_eq_true, if_false]
  split <;> rfl

theorem stepOfEvents : Claim.StepOfEvents := by
  intro s e rest
  refine ⟨fun h ha => ?_, fun h ha => ?_, fun h hr hc => ⟨fun hn => ?_, fun ck t hn => ?_, fun a hn => ?_, fun hn => ?_⟩, fun h hp => ?_,
    fun h hp hst => ?_⟩
  · rw [step_cons h, if_pos ha]
  · rw [step_cons h, if_neg (by simp [ha])]
  · rw [step_nextTurn h hr hc, hn]; rfl
  · rw [step_nextTurn h hr hc, hn]; rfl
  · rw [step_nextTurn h hr hc, hn]; rfl
  · rw [step_nextTurn h hr hc, hn]
  · rw [step_halted h (by simp [State.running, hp]), if_neg (by simp [hp])]
  · rw [step_halted h (by simp [State.running, hst]), if_pos hp]

/-! ## A look at every thread (R335) -/

/-- A thread that is set is read by every agent that the old one was read by, and by no other; combs of two names may be one. -/
theorem thread_setThread_eq_or {s : State} {b : Agent} {x y : Thread} (hb : s.thread b = some y) (hu : x.uid = y.uid) (a : Agent) :
    (s.setThread b x).thread a = s.thread a ∨ (s.thread a = some y ∧ (s.setThread b x).thread a = some x) := by
  by_cases hk : agentKey a = agentKey b
  · have hc : (s.setThread b x).comb (agentKey a) = _ := (congrArg _ hk).trans (State.comb_modComb_self ..)
    rw [← hk] at hc
    cases b with
    | group d c k =>
      simp only [State.thread, ← hk] at hb
      cases a with
      | group d' c' k' =>
        by_cases hkk : k' = k
        · subst hkk
          exact .inr ⟨hb, by simp only [State.thread, hc, Sparse.find?_put_self]⟩
        · exact .inl (by simp only [State.thread, hc, Sparse.find?_put_ne _ _ hkk])
      | steward d' c' => exact .inl (by simp only [State.thread, hc])
      | stream d' c' q => exact .inl (by simp only [State.thread, hc])
    | steward d c =>
      simp only [State.thread, ← hk, Option.some.injEq] at hb
      cases a with
      | group d' c' k' => exact .inl (by simp only [State.thread, hc])
      | steward d' c' =>
        refine .inr ⟨by rw [← hb]; rfl, ?_⟩
        simp only [State.thread, hc, show stewardUid (agentKey (.steward d' c')) = x.uid by rw [hu, ← hb]]
      | stream d' c' q => exact .inl (by simp only [State.thread, hc])
    | stream d c q =>
      simp only [State.thread, ← hk] at hb
      split at hb
      · next z hz =>
        simp only [hz] at hc
        cases a with
        | group d' c' k' => exact .inl (by simp only [State.thread, hc])
        | steward d' c' => exact .inl (by simp only [State.thread, hc])
        | stream d' c' q' =>
          by_cases hq : q' = q
          · subst hq
            split at hb
            · contradiction
            · next he => exact .inr ⟨by simp only [State.thread, hz, he, hb]; rfl, by simp only [State.thread, hc, Sparse.find?_put_self, he]; rfl⟩
          · exact .inl (by simp only [State.thread, hc, Sparse.find?_put_ne _ _ hq])
      · contradiction
  · exact .inl (thread_congr (congrArg threadParts (State.comb_setThread_ne _ _ _ hk)))

/-- A thread after looks at it: at rest it may be ready later, and may have become full or no longer be. -/
def LookedAt (th x : Thread) : Prop :=
  ∃ full at', x = { th with full := full, readyAt := at' } ∧ th.readyAt ≤ at' ∧ (at' ≠ th.readyAt → th.stopped = false ∧ th.wait = .none ∧ th.runLen = 0)

theorem LookedAt.refl (th : Thread) : LookedAt th th := ⟨_, _, rfl, Nat.le_refl _, fun h => absurd rfl h⟩

theorem LookedAt.trans {x y z : Thread} (h : LookedAt x y) (g : LookedAt y z) : LookedAt x z := by
  obtain ⟨f, t, rfl, ht, hx⟩ := h
  obtain ⟨f', t', rfl, ht', hy⟩ := g
  refine ⟨f', t', rfl, Nat.le_trans ht ht', fun hne => ?_⟩
  by_cases hte : t = x.readyAt
  · exact hy (hte ▸ hne)
  · exact hx hte

/-- A look at an agent leaves the machine, or sets the thread it looked at. -/
theorem lookAt_cases (s : State) (a : Agent) :
    s.lookAt a = s ∨ ∃ th x, s.thread a = some th ∧ LookedAt th x ∧ x.uid = th.uid ∧ s.lookAt a = s.setThread a x := by
  unfold State.lookAt
  split
  · exact .inl rfl
  next th hth =>
  split
  · exact .inl rfl
  next hrest =>
  simp only [Bool.or_eq_true, decide_eq_true_eq, Bool.not_eq_true', not_or, Decidable.not_not, Nat.not_lt, Bool.not_eq_true,
    Nat.le_zero_eq] at hrest
  obtain ⟨⟨⟨hstop, hrun⟩, hwait⟩, -⟩ := hrest
  extract_lets still
  split
  · exact .inl rfl
  · refine .inr ⟨th, _, hth, ?_, ?_, rfl⟩
    · refine ⟨_, _, rfl, ?_, fun _ => ⟨hstop, hwait, hrun⟩⟩
      split
      · exact Nat.le_refl _
      · exact Nat.le_max_left ..
    · rfl

/-- What no thread is part of stays as before. -/
theorem look_keeps {γ : Type} (v : State → γ) (h : ∀ s a th, v (s.setThread a th) = v s) (s : State) : v s.look = v s := by
  refine view_foldl v (fun s a => ?_) _ s
  obtain he | ⟨th, x, -, -, -, he⟩ := lookAt_cases s a
  · rw [he]
  · rw [he, h]

theorem thread_foldl_lookAt (as : List Agent) {s : State} {a : Agent} {th : Thread} (h : s.thread a = some th) :
    ∃ x, (as.foldl State.lookAt s).thread a = some x ∧ LookedAt th x := by
  induction as generalizing s th with
  | nil => exact ⟨th, h, .refl th⟩
  | cons b as ih =>
    obtain ⟨y, hy, hl⟩ : ∃ y, (s.lookAt b).thread a = some y ∧ LookedAt th y := by
      obtain he | ⟨z, x, hz, hl, hu, he⟩ := lookAt_cases s b
      · exact ⟨th, by rw [he, h], .refl th⟩
      · obtain hs | ⟨hs, hx⟩ := thread_setThread_eq_or hz hu a
        · exact ⟨th, by rw [he, hs, h], .refl th⟩
        · obtain rfl : z = th := Option.some.inj (hs.symm.trans h)
          exact ⟨x, by rw [he, hx], hl⟩
    obtain ⟨x, hx, hl'⟩ := ih hy
    exact ⟨x, hx, hl.trans hl'⟩

/-- The parts of a comb that a look is said to leave. -/
def restParts (c : Comb) := (c.evq, c.ops, c.scratch, c.teams, c.table, c.clk, c.banks)

theorem restParts_setThread (s : State) (a : Agent) (th : Thread) (ck : Nat) : restParts ((s.setThread a th).comb ck) = restParts (s.comb ck) := by
  rw [State.setThread, State.comb_modComb]
  split
  · next h =>
    subst h
    cases a with
    | group d c k => rfl
    | steward d c => rfl
    | stream d c q => dsimp only; split <;> rfl
  · rfl

theorem lookingChangesReadinessOnly : Claim.LookingChangesReadinessOnly := by
  intro s f r
  have hc (ck : Nat) := look_keeps (fun s => restParts (s.comb ck)) (fun s a th => restParts_setThread s a th ck) s
  simp only [restParts, Prod.mk.injEq] at hc
  refine ⟨rfl, rfl, rfl, look_keeps _ State.setThread_hbm s, look_keeps _ State.setThread_host s, look_keeps _ State.setThread_l2 s,
    look_keeps _ State.setThread_stores s, look_keeps _ State.setThread_msgs s, look_keeps _ State.setThread_dies s,
    look_keeps _ State.setThread_ctxs s, look_keeps _ State.setThread_hive s, look_keeps _ State.setThread_adapter s,
    look_keeps _ State.setThread_cur s, look_keeps _ State.setThread_agenda s, hc, fun a th h => ?_⟩
  obtain ⟨_, hx, full, t, rfl, hle, hrest⟩ := thread_foldl_lookAt _ h
  exact ⟨full, t, hx, hle, hrest⟩

/-- Settles O50: a miss fills the lines of the word from their homes; a look at a thread sets that thread only. -/
theorem fetchAndEvents : Obligations.FetchAndEvents := ⟨fetchedBytes, stepOfEvents, lookingChangesReadinessOnly⟩

end Sys2Proof.Proofs
end

section
namespace Sys2Proof.Proofs
open Sys2Proof Sys2Proof.Machine

/-! # Steps of instructions, and what is checked before an effect (R68, R76, R81, R86, R88, R256, R270, R284) -/

/-- Settles O46: the kernel decodes each word. -/
theorem decodedWords : Obligations.DecodedWords :=
  ⟨by decide +kernel, by decide +kernel, by decide +kernel, by decide +kernel, by decide +kernel, by decide +kernel⟩

/-! ## The step of the current agent -/

/-- With an empty agenda the current agent acts. -/
theorem step_cur {s : State} {a : Agent} (h : s.agenda = []) (hr : s.running = true) (hc : s.cur = some a) : step s = looked (stepAgent s a) := by
  simp only [step, h, hr, if_true, hc]

/-- A running agent whose fetch fails traps. -/
theorem stepAgent_fetch_error {s : State} {a : Agent} {th : Thread} {f : TrapInfo} (hth : s.thread a = some th) (hst : th.stopped = false)
    (hf : s.fetch a th = .error f) :
    stepAgent s a = .next ((({ s with cur := none } : State).countFetch (agentKey a) (s.agentCtx a) th.pc.toNat f.cause).trapAgent a th f) := by
  simp only [stepAgent, hth, hst, hf, Bool.false_eq_true, if_false]

section
variable {s s' : State} {a : Agent} {th : Thread} {w : InstrWord} (hth : s.thread a = some th) (hst : th.stopped = false)
  (hf : s.fetch a th = .ok (s', w))
include hth hst hf

/-- A running agent executes what its fetched word decodes to. -/
theorem stepAgent_decode {i : Instr} {rest : List Byte} (hd : decode (leBytes 12 w.toNat) = .ok (i, rest)) : stepAgent s a = exec i s' := by
  simp only [stepAgent, hth, hst, hf, hd, Bool.false_eq_true, if_false]

/-- A running agent whose fetched word decodes to nothing traps ILLOP. -/
theorem stepAgent_illop {f : DecodeFault} (hd : decode (leBytes 12 w.toNat) = .error f) :
    stepAgent s a = .next (({ s' with cur := none } : State).illop a th w) := by
  simp only [stepAgent, hth, hst, hf, hd, Bool.false_eq_true, if_false]

end

/-- Settles O49, by the outcomes of the fetch and of the decoder. -/
theorem stepRunsDecodedInstruction : Obligations.StepRunsDecodedInstruction := by
  intro s s' a th w hag hr hc hth hst
  rw [step_cur hag hr hc]
  refine ⟨fun hf => ⟨fun i rest hd => ?_, fun f hd => ?_⟩, fun f hf => ?_⟩
  · rw [stepAgent_decode hth hst hf hd]
  · rw [stepAgent_illop hth hst hf hd]
  · rw [stepAgent_fetch_error hth hst hf]

/-! ## The checks of an issue, in their order -/

/-- An instruction of a running agent ends as its checks say, or with its effect. -/
theorem issue_running {s : State} {a : Agent} {th : Thread} (hc : s.cur = some a) (hth : s.thread a = some th) (hst : th.stopped = false)
    (r : Rule) (body : Env → Eff) :
    issue s r body = .next (((s.issueOf a th r).halt r).elim ((s.issueOf a th r).finish r (body (s.issueOf a th r).env)) ((s.issueOf a th r).halted r)) := by
  simp only [issue, hc, hth, hst, Bool.false_eq_true, if_false]
  split <;> next h => rw [h]; rfl

section
variable {x : Issue} {r : Rule}

theorem halt_of_decodeFault {c v : Nat} (h : x.decodeFault r = some (c, v)) : x.halt r = some (.trap ⟨c, x.tmask, v, 0⟩) := by
  simp only [Issue.halt, h]

variable (hd : x.decodeFault r = none)
include hd

theorem halt_of_guarded_off (ha : x.env.act = 0) : x.halt r = some .off := by
  simp only [Issue.halt, hd, ha, if_true]

variable (ha : x.env.act ≠ 0)
include ha

theorem halt_of_hazard (hck : x.env.th.mode.getLsbD 4 = true ∧ x.env.ag.isStream = false) {sp : Spec}
    (h : hazard x.env.rv x.due (guardUses r.h r.vec ++ r.uses) = some sp) : x.halt r = some (.trap ⟨codeSTALLSHORT, x.tmask, sp.code, 0⟩) := by
  simp only [Issue.halt, hd, if_neg ha, hck.1, hck.2, Bool.not_false, Bool.and_true, if_true, h]

/-- Past the scoreboard, errors in the sources come before the resources. -/
theorem halt_past_hazard (h : x.env.th.mode.getLsbD 4 = true ∧ x.env.ag.isStream = false → hazard x.env.rv x.due (guardUses r.h r.vec ++ r.uses) = none) :
    x.halt r = match badLanes x.env.rv r.uses with
      | b :: bs => some (.derr (derrTrap (b :: bs)))
      | [] => if x.mustWait r then some .wait else none := by
  have hn : (if x.env.th.mode.getLsbD 4 && !x.env.ag.isStream then hazard x.env.rv x.due (guardUses r.h r.vec ++ r.uses) else none) = none := by
    split
    · next hck => exact h (by simpa using hck)
    · rfl
  simp only [Issue.halt, hd, if_neg ha, hn] <;> rfl

end

theorem issueChecks : Claim.IssueChecks := by
  intro s a th r body x e bad checked t hc hth hst
  have ht : t = .next ((x.halt r).elim (x.finish r (body e)) (x.halted r)) := issue_running hc hth hst r body
  refine ⟨fun c v hd => ?_, fun hd ha => ?_, fun sp hd ha hck hb => ?_, fun b bs hd ha hck hl => ?_, fun hd ha hck hl hw => ?_,
    fun hd ha hck hl hw => ?_⟩
  · rw [ht, halt_of_decodeFault hd]; rfl
  · rw [ht, halt_of_guarded_off hd ha]; rfl
  · rw [ht, halt_of_hazard hd ha hck hb]; rfl
  · rw [ht, halt_past_hazard hd ha hck, hl]; rfl
  · rw [ht, halt_past_hazard hd ha hck, hl, hw]; rfl
  · rw [ht, halt_past_hazard hd ha hck, hl, hw]; rfl

theorem decodeFaults : Claim.DecodeFaults := by
  intro s a th r x stream bad far user
  have hpriv : (r.priv && !x.env.ag.isSteward && !x.env.ag.isStream) = true ↔ r.priv = true ∧ user := by
    simp [user, stream, and_assoc]
  have hfault : x.decodeFault r =
      if r.priv && !x.env.ag.isSteward && !x.env.ag.isStream then some (codePRIV, 0)
      else if !r.accepts x.env.ag x.env.th then some (codeILLOP, 0)
      else match bad with
        | some u => some (codeBADSPEC, u.sp.code)
        | none => match far with
          | some u => some (codeREGRANGE, u.sp.code)
          | none => (badRound r.rnd x.env.th.mode).map fun v => (codeBADRM, v) := rfl
  rw [hfault]
  refine ⟨fun hp hu => if_pos (hpriv.2 ⟨hp, hu⟩), fun hp ha => ?_, fun u hp ha hb => ?_, fun u hp ha hb hf => ?_, fun hp ha hb hf => ?_⟩ <;>
    rw [if_neg (mt hpriv.1 hp), ha]
  · rfl
  · rw [hb]; rfl
  · rw [hb, hf]; rfl
  · rw [hb, hf]; rfl

/-- Settles O52: the checks of an issue and the faults of its decode, each past those before it. -/
theorem checksBeforeTheEffect : Obligations.ChecksBeforeTheEffect := ⟨issueChecks, decodeFaults⟩

end Sys2Proof.Proofs
end

section
namespace Sys2Proof.Proofs
open Sys2Proof Sys2Proof.Machine

/-! # Registers and their results in flight (R88, R99, R101, R102) -/

/-! ## Bits and words -/

theorem getLsbD_setBit {w : Nat} (x : BitVec w) {i : Nat} (hi : i < w) (b : Bool) (j : Nat) :
    (setBit x i b).getLsbD j = if j = i then b else x.getLsbD j := by
  have h2 : (BitVec.ofNat w (2 ^ i)).getLsbD j = decide (j = i) := by
    rw [BitVec.getLsbD_ofNat, Nat.testBit_two_pow]
    by_cases hj : j = i
    · simp [hj, hi]
    · simp [hj, Ne.symm hj]
  unfold setBit
  cases b with
  | false =>
    simp only [Bool.false_eq_true, if_false, BitVec.getLsbD_and, BitVec.getLsbD_not, h2]
    split
    · next hj => simp [hj]
    · next hj =>
      by_cases hw : j < w
      · simp [hj, hw]
      · simp [BitVec.getLsbD_of_ge x j (Nat.le_of_not_lt hw)]
  | true =>
    simp only [if_true, BitVec.getLsbD_or, h2]
    split
    · next hj => simp [hj]
    · next hj => simp [hj]

/-- The word of a bit of a word. -/
theorem setWidth_ofBool_getLsbD_zero (x : Word) : (BitVec.ofBool (x.getLsbD 0)).setWidth 32 = x &&& 1 := by
  ext i hi
  rcases i with _ | i
  · simp
  · simp

/-! ## What a register reads, by its kind -/

section
variable (th : Thread) {c : Nat} (l : Nat)

theorem raw_vector (h : c < 0x80) : th.raw c l = if c < th.budget then Sparse.get 0 th.v (c * 32 + l) else 0 := if_pos h

theorem raw_uniform (h : 0x80 ≤ c) (h' : c < 0xC0) : th.raw c l = Sparse.get 0 th.s (c - 0x80) := by
  rw [Thread.raw, if_neg (by omega), if_pos h']

theorem raw_predicate (h : 0xC0 ≤ c) (h' : c < 0xC8) :
    th.raw c l = if c = 0xC7 then 1 else (BitVec.ofBool ((Sparse.get 0 th.p (c - 0xC0)).getLsbD l)).setWidth 32 := by
  rw [Thread.raw, if_neg (by omega), if_neg (by omega), if_pos h']

theorem raw_uniform_predicate (h : 0xC8 ≤ c) (h' : c < 0xD0) :
    th.raw c l = if c = 0xCF then 1 else (BitVec.ofBool (th.q.getLsbD (c - 0xC8))).setWidth 32 := by
  rw [Thread.raw, if_neg (by omega), if_neg (by omega), if_neg (by omega), if_pos h']

theorem raw_other (h : 0xD0 ≤ c) : th.raw c l = 0 := by
  rw [Thread.raw, if_neg (by omega), if_neg (by omega), if_neg (by omega), if_neg (by omega)]

/-- A register reads alike in threads that agree in what it is read from. -/
theorem raw_congr {th th' : Thread} {c l : Nat} (hv : c < 0x80 → th'.budget = th.budget ∧ Sparse.get 0 th'.v (c * 32 + l) = Sparse.get 0 th.v (c * 32 + l))
    (hs : 0x80 ≤ c → c < 0xC0 → Sparse.get 0 th'.s (c - 0x80) = Sparse.get 0 th.s (c - 0x80))
    (hp : 0xC0 ≤ c → c < 0xC7 → (Sparse.get 0 th'.p (c - 0xC0)).getLsbD l = (Sparse.get 0 th.p (c - 0xC0)).getLsbD l)
    (hq : 0xC8 ≤ c ∧ c < 0xCF → th'.q.getLsbD (c - 0xC8) = th.q.getLsbD (c - 0xC8)) : th'.raw c l = th.raw c l := by
  rcases Nat.lt_or_ge c 0x80 with h | h
  · rw [raw_vector _ _ h, raw_vector _ _ h, (hv h).1, (hv h).2]
  rcases Nat.lt_or_ge c 0xC0 with h1 | h1
  · rw [raw_uniform _ _ h h1, raw_uniform _ _ h h1, hs h h1]
  rcases Nat.lt_or_ge c 0xC8 with h2 | h2
  · rw [raw_predicate _ _ h1 h2, raw_predicate _ _ h1 h2]
    split
    · rfl
    · rw [hp h1 (by omega)]
  rcases Nat.lt_or_ge c 0xD0 with h3 | h3
  · rw [raw_uniform_predicate _ _ h2 h3, raw_uniform_predicate _ _ h2 h3]
    split
    · rfl
    · rw [hq (by omega)]
  · rw [raw_other _ _ h3, raw_other _ _ h3]

end

/-! ## What a write to a register leaves, by its kind -/

section
variable (th : Thread) {code : Nat} (lane : Nat) (x : Word)

theorem putLane_vector (h : code < 0x80) (hb : code < th.budget) : th.putLane code lane x = { th with v := Sparse.set 0 th.v (code * 32 + lane) x } := by
  rw [Thread.putLane, if_pos h, if_pos hb]

theorem putLane_vector_out (h : code < 0x80) (hb : ¬ code < th.budget) : th.putLane code lane x = th := by
  rw [Thread.putLane, if_pos h, if_neg hb]

theorem putLane_uniform (h : 0x80 ≤ code) (h' : code < 0xC0) : th.putLane code lane x = { th with s := Sparse.set 0 th.s (code - 0x80) x } := by
  rw [Thread.putLane, if_neg (by omega), if_pos h']

theorem putLane_predicate (h : 0xC0 ≤ code) (h' : code < 0xC7) : th.putLane code lane x =
    { th with p := Sparse.set 0 th.p (code - 0xC0) (setBit (Sparse.get 0 th.p (code - 0xC0)) lane (x.getLsbD 0)) } := by
  rw [Thread.putLane, if_neg (by omega), if_neg (by omega), if_pos h']

theorem putLane_uniform_predicate (h : 0xC8 ≤ code) (h' : code < 0xCF) :
    th.putLane code lane x = { th with q := setBit th.q (code - 0xC8) (x.getLsbD 0) } := by
  rw [Thread.putLane, if_neg (by omega), if_neg (by omega), if_neg (by omega), if_pos ⟨h, h'⟩]

theorem putLane_discarded (h : code = 0xC7 ∨ 0xCF ≤ code) : th.putLane code lane x = th := by
  rw [Thread.putLane, if_neg (by omega), if_neg (by omega), if_neg (by omega), if_neg (by omega)]

end

/-! ## Reads after a write -/

section
variable (th : Thread) (x : Word) {code lane : Nat}

theorem raw_putLane_vector (hb : code < th.budget) (h : code < 0x80) : (th.putLane code lane x).raw code lane = x := by
  rw [putLane_vector _ _ _ h hb, raw_vector _ _ h, if_pos hb, Sparse.get_set_self]

theorem raw_putLane_uniform (h : 0x80 ≤ code) (h' : code < 0xC0) : (th.putLane code lane x).raw code lane = x := by
  rw [putLane_uniform _ _ _ h h', raw_uniform _ _ h h', Sparse.get_set_self]

theorem raw_putLane_predicate (h : 0xC0 ≤ code) (h' : code < 0xC7) (hl : lane < 32) : (th.putLane code lane x).raw code lane = x &&& 1 := by
  rw [putLane_predicate _ _ _ h h', raw_predicate _ _ h (by omega), if_neg (by omega), Sparse.get_set_self, getLsbD_setBit _ hl, if_pos rfl,
    setWidth_ofBool_getLsbD_zero]

theorem raw_putLane_uniform_predicate (h : 0xC8 ≤ code) (h' : code < 0xCF) : (th.putLane code lane x).raw code lane = x &&& 1 := by
  rw [putLane_uniform_predicate _ _ _ h h', raw_uniform_predicate _ _ h (by omega), if_neg (by omega), getLsbD_setBit _ (by omega), if_pos rfl,
    setWidth_ofBool_getLsbD_zero]

/-- A read that is of another register, or of another lane of a register of lanes, is of what stood there. -/
theorem raw_putLane_other {c l : Nat} (hl : l < 32) (hlane : lane < 32) (h : c ≠ code ∨ (l ≠ lane ∧ (code < 0x80 ∨ (0xC0 ≤ code ∧ code < 0xC8)))) :
    (th.putLane code lane x).raw c l = th.raw c l := by
  rcases Nat.lt_or_ge code 0x80 with hv | hv
  · by_cases hb : code < th.budget
    · rw [putLane_vector _ _ _ hv hb]
      by_cases hc : c < 0x80
      · rw [raw_vector _ _ hc, raw_vector _ _ hc, Sparse.get_set_ne _ _ _ (by omega)]
      · exact raw_congr (fun h => absurd h hc) (fun _ _ => rfl) (fun _ _ => rfl) fun _ => rfl
    · rw [putLane_vector_out _ _ _ hv hb]
  rcases Nat.lt_or_ge code 0xC0 with hs | hs
  · rw [putLane_uniform _ _ _ hv hs]
    exact raw_congr (fun _ => ⟨rfl, rfl⟩) (fun _ _ => Sparse.get_set_ne _ _ _ (by omega)) (fun _ _ => rfl) fun _ => rfl
  rcases Nat.lt_or_ge code 0xC7 with hp | hp
  · rw [putLane_predicate _ _ _ hs hp]
    refine raw_congr (fun _ => ⟨rfl, rfl⟩) (fun _ _ => rfl) (fun _ _ => ?_) fun _ => rfl
    by_cases he : c = code
    · rw [he, Sparse.get_set_self, getLsbD_setBit _ hlane, if_neg (by omega)]
    · rw [Sparse.get_set_ne _ _ _ (by omega)]
  by_cases hq : 0xC8 ≤ code ∧ code < 0xCF
  · rw [putLane_uniform_predicate _ _ _ hq.1 hq.2]
    exact raw_congr (fun _ => ⟨rfl, rfl⟩) (fun _ _ => rfl) (fun _ _ => rfl) fun _ => by rw [getLsbD_setBit _ (by omega), if_neg (by omega)]
  · rw [putLane_discarded _ _ _ (by omega)]

end

theorem registerWrites : Claim.RegisterWrites := by
  intro th code lane x t
  have ht : t = th.putLane code lane x := rfl
  rw [ht]
  exact ⟨fun hb h _ => raw_putLane_vector th x hb h, raw_putLane_uniform th x, raw_putLane_predicate th x, raw_putLane_uniform_predicate th x,
    fun h => putLane_discarded th lane x (by omega), fun l hl hlane hne h => raw_putLane_other th x hl hlane (.inr ⟨hne, h⟩),
    fun c l _ hne hl hlane => raw_putLane_other th x hl hlane (.inl hne)⟩

/-! ## Results in flight -/

/-- A thread with other results in flight. -/
def withFlights (fs : List Flight) (th : Thread) : Thread := { th with flights := fs }

theorem putLane_withFlights (fs : List Flight) (th : Thread) (code lane : Nat) (x : Word) :
    (withFlights fs th).putLane code lane x = withFlights fs (th.putLane code lane x) := by
  simp only [Thread.putLane, apply_ite (withFlights fs)]
  rfl

theorem putLast_withFlights (fs : List Flight) (th : Thread) (w : RegWrite) : (withFlights fs th).putLast w = withFlights fs (th.putLast w) := by
  have h : (withFlights fs th).putReg w = withFlights fs (th.putReg w) :=
    List.foldl_hom (withFlights fs) fun th lx => putLane_withFlights fs th w.code lx.1 lx.2
  simp only [Thread.putLast, h, apply_ite (withFlights fs)]
  rfl

theorem land_withFlights (fs : List Flight) (th : Thread) (f : Flight) : (withFlights fs th).land f = withFlights fs (th.land f) := by
  have h : f.writes.foldl Thread.putLast (withFlights fs th) = withFlights fs (f.writes.foldl Thread.putLast th) :=
    List.foldl_hom (withFlights fs) (putLast_withFlights fs)
  simp only [Thread.land, h]
  rfl

/-- What lands is what stands in the list, whatever the thread says is in flight. -/
theorem settleAux_withFlights (t : Nat) (gs fs : List Flight) (th : Thread) : Thread.settleAux t fs (withFlights gs th) = Thread.settleAux t fs th := by
  induction fs generalizing th with
  | nil => rfl
  | cons f fs ih =>
    simp only [Thread.settleAux, land_withFlights, ih]
    rfl

theorem resultsLand : Claim.ResultsLand := by
  intro th t f fs hf
  simp only [Thread.settle, hf, Thread.settleAux]
  refine ⟨fun hd => ?_, fun hd => ?_⟩
  · rw [if_pos hd]
    exact (settleAux_withFlights t fs fs (th.land f)).symm
  · rw [if_neg (by omega), ← hf]

/-- Settles O53: by the kind of the register written, and by that of the register read. -/
theorem registerResults : Obligations.RegisterResults := ⟨registerWrites, resultsLand⟩

end Sys2Proof.Proofs
end

section
namespace Sys2Proof.Proofs
open Sys2Proof Sys2Proof.Machine

/-! # The frame of instructions that only write registers, and the next PC (R68, R79, R88, R171) -/

/-! ## What landing results leaves of a thread -/

section
variable {α : Type} {g : Thread → α} (hg : ∀ th v s p q fstat uncov flights, g { th with v, s, p, q, fstat, uncov, flights } = g th)
include hg

theorem putLane_keeps (th : Thread) (code lane : Nat) (x : Word) : g (th.putLane code lane x) = g th := by
  have hr (v s p q) : g { th with v, s, p, q } = g th := hg th v s p q th.fstat th.uncov th.flights
  unfold Thread.putLane
  repeat' split
  · exact hr ..
  · rfl
  · exact hr ..
  · exact hr ..
  · exact hr ..
  · rfl

theorem putLast_keeps (th : Thread) (w : RegWrite) : g (th.putLast w) = g th := by
  have hr : g (th.putReg w) = g th :=
    view_foldl g (f := fun (th : Thread) (lx : Nat × Word) => th.putLane w.code lx.1 lx.2) (fun th lx => putLane_keeps hg th w.code lx.1 lx.2) w.lanes th
  unfold Thread.putLast
  extract_lets u
  split
  · exact hr
  · exact (hg u u.v u.s u.p u.q u.fstat _ u.flights).trans hr

theorem land_keeps (th : Thread) (f : Flight) : g (th.land f) = g th := by
  have hr : g (f.writes.foldl Thread.putLast th) = g th := view_foldl g (putLast_keeps hg) f.writes th
  unfold Thread.land
  extract_lets u
  exact (hg u u.v u.s u.p u.q _ u.uncov u.flights).trans hr

theorem settleAux_keeps (t : Nat) (fs : List Flight) (th : Thread) : g (Thread.settleAux t fs th) = g th := by
  have hr (th : Thread) (fs) : g { th with flights := fs } = g th := hg th th.v th.s th.p th.q th.fstat th.uncov fs
  induction fs generalizing th with
  | nil => exact hr th []
  | cons f fs ih =>
    unfold Thread.settleAux
    split
    · exact (ih _).trans (land_keeps hg th f)
    · exact hr th _

/-- Results that land change registers, flags and what is in flight or uncovered, and nothing else of a thread. -/
theorem settle_keeps (th : Thread) (t : Nat) : g (th.settle t) = g th := settleAux_keeps hg t th.flights th

end

/-! ## What running on leaves -/

/-- A thread without what running on changes: its results in flight, its PC and its loops, its run and its times. -/
def still (th : Thread) : Thread :=
  { th with flights := [], pc := 0, loops := [], lbuf := [], wait := .none, held := none, runLen := 0, fuse := none, issueAt := 0, readyAt := 0 }

/-- A comb with its issue slots and its clock moved. -/
def ticked (slots : Comb → List (Nat × Nat)) (clk : Comb → Nat) (c : Comb) : Comb := { c with slotFree := slots c, clk := clk c }

/-- A machine with a thread of an agent stored, its comb's issue slots and clock moved, and no current agent. -/
def ranOn (s : State) (a : Agent) (x : Thread) (slots : Comb → List (Nat × Nat)) (clk : Comb → Nat) : State :=
  { (s.setThread a x).modComb (agentKey a) (ticked slots clk) with cur := none, freeN := s.freeN + 1 }

section
variable (s : State) (a : Agent) (x : Thread) (slots : Comb → List (Nat × Nat)) (clk : Comb → Nat)

theorem comb_ranOn_self : (ranOn s a x slots clk).comb (agentKey a) = ticked slots clk ((s.setThread a x).comb (agentKey a)) :=
  State.comb_modComb_self (s.setThread a x) (agentKey a) (ticked slots clk)

theorem comb_ranOn_ne {k : Nat} (h : k ≠ agentKey a) : (ranOn s a x slots clk).comb k = s.comb k :=
  (State.comb_modComb_ne (s.setThread a x) (ticked slots clk) h).trans (State.comb_setThread_ne s a x h)

theorem rawByte_ranOn (loc : Nat) : (ranOn s a x slots clk).rawByte loc = s.rawByte loc :=
  (rawByte_modComb (s.setThread a x) (agentKey a) (ticked slots clk) rfl loc).trans (rawByte_setThread s a x loc)

end

/-- A group's thread that is stored stands in its slot; of the rest of its comb the issue slots and the clock move. -/
theorem comb_ranOn_group (s : State) (die comb k : Nat) (x : Thread) (slots : Comb → List (Nat × Nat)) (clk : Comb → Nat) :
    (ranOn s (.group die comb k) x slots clk).comb (combKey die comb) =
      ticked slots clk { s.comb (combKey die comb) with groups := Sparse.put (s.comb (combKey die comb)).groups k x } :=
  (comb_ranOn_self s (.group die comb k) x slots clk).trans (congrArg (ticked slots clk) (State.comb_modComb_self ..))

/-- The end of an issue of a thread that no GKILL has named stores it and takes the issue slot. -/
theorem endIssue_of_not_doomed (s : State) (a : Agent) (th : Thread) (r : Rule) (t due : Nat) (hd : th.doomed = none) :
    ∃ x slots clk, still x = still th ∧ s.endIssue a th r t due = ranOn s a x slots clk := by
  unfold State.endIssue
  extract_lets waited n at' leaves th0 th' s1 s2
  have hth' : still th' = still th := by
    dsimp only [th']
    split <;> rfl
  have hd' : th'.doomed = none := (congrArg Thread.doomed hth' :).trans hd
  have hdoom : ¬ (leaves && th'.doomed.isSome) = true := by rw [hd', Option.isSome_none, Bool.and_false]; exact Bool.false_ne_true
  have hs2 : s2 = ranOn s a th' (fun c => (if waited = true then c else c.occupy a (t + n)).slotFree) (fun c => Nat.max c.clk t) := by
    simp only [s2, s1, tick_frame]
    rfl
  refine ⟨th', _, _, hth', Eq.trans ?_ hs2⟩
  split
  · exact if_neg hdoom
  · rfl

/-- Results that join those in flight change nothing else of a thread that is no stream's. -/
theorem still_commitWrites (th : Thread) (due : Nat) (o : Out) (fp : Bool) : still (th.commitWrites false due o fp) = still th := by
  unfold Thread.commitWrites
  rw [if_neg Bool.false_ne_true]
  split <;> rfl

/-- An instruction of a group that only writes registers stores its thread as running on leaves it. -/
theorem after_registers (s : State) (die comb k : Nat) (th : Thread) (r : Rule) (ws : List RegWrite) (hd : th.doomed = none) :
    let a : Agent := .group die comb k
    let e := s.env a th r
    ∃ x slots clk, still x = still e.th ∧ s.after a th r ⟨s, e.th, ws, 0, none, .seq⟩ = ranOn s a x slots clk := by
  intro a e
  have hdoom : e.th.doomed = none := (settle_keeps (fun _ _ _ _ _ _ _ _ => rfl) th _).trans hd
  have hcommit := still_commitWrites e.th (s.issueOf a th r).due ⟨s, e.th, ws, 0, none, .seq⟩ r.fp
  obtain ⟨x, slots, clk, hx, hend⟩ := endIssue_of_not_doomed s a
    { ({ e.th.commitWrites false (s.issueOf a th r).due ⟨s, e.th, ws, 0, none, .seq⟩ r.fp with wait := .none } : Thread).advance with
      fuse := if (s.issueOf a th r).fused.isSome then none else fuseOf r e.th.pc e.t (s.issueOf a th r).due }
    r e.t (if ws.isEmpty then 0 else (s.issueOf a th r).due) ((congrArg Thread.doomed hcommit).trans hdoom)
  exact ⟨x, slots, clk, hx.trans hcommit, hend⟩

theorem registerInstructionFrame : Claim.RegisterInstructionFrame := by
  intro s die comb k th r ws a e t ck hth hd
  obtain ⟨x, slots, clk, hx, ht⟩ := after_registers s die comb k th r ws hd
  have hc := comb_ranOn_group s die comb k x slots clk
  have hraw := rawByte_ranOn s a x slots clk
  have hfields := fun {α : Type} (v : Thread → α) => congrArg v hx
  rw [show t = ranOn s a x slots clk from ht, show ck = combKey die comb from rfl, hc]
  exact ⟨fun loc => ⟨hraw loc, byteNow_congr (s := s) (t := ranOn s a x slots clk) rfl rfl hraw loc⟩, rfl, rfl, rfl, rfl, rfl, rfl, rfl, fun c h => comb_ranOn_ne s a x slots clk h,
    fun j hj => Sparse.find?_put_ne _ _ hj, rfl, rfl, rfl, rfl, x,
    (congrArg (fun c : Comb => Sparse.find? c.groups k) hc).trans (Sparse.find?_put_self ..),
    hfields Thread.v, hfields Thread.s, hfields Thread.p, hfields Thread.q, hfields Thread.em, hfields Thread.lm, hfields Thread.lk, hfields Thread.cd,
    hfields Thread.mode, hfields Thread.fstat, hfields Thread.trap, hfields Thread.stopped, hfields Thread.budget, hfields Thread.place, hfields Thread.uncov⟩

/-! ## The next PC -/

/-- No loop ends at a PC where none of this depth is said to. -/
theorem endStepRev_of_no_end {cd : BitVec 4} {pc : Word} {loops : List LoopEnt}
    (h : ∀ l ∈ loops, l.valid = false ∨ l.endPc ≠ pc ∨ l.depth ≠ cd) : endStepRev cd pc loops = (loops, none) := by
  induction loops with
  | nil => rfl
  | cons l ls ih =>
    rw [endStepRev, ih fun x hx => h x (List.mem_cons_of_mem _ hx)]
    split
    · next hv =>
      have hne : ¬ (l.depth = cd ∧ l.endPc = pc) := fun he => by
        rcases h l (List.mem_cons_self ..) with hn | hn | hn
        · rw [hn] at hv; contradiction
        · exact hn he.2
        · exact hn he.1
      rw [if_neg hne]
    · rfl

theorem nextPc : Claim.NextPc := by
  intro th h
  have hr : endStepRev th.cd (th.pc.setWidth 32) th.loops.reverse = (th.loops.reverse, none) :=
    endStepRev_of_no_end fun l hl => h l (List.mem_reverse.1 hl)
  simp only [Thread.advance, endStep, hr, List.reverse_reverse, and_self]

/-- Settles O55: the stored thread differs by its flights, its PC, its loops and its times; no loop that ends here leaves the next PC. -/
theorem registerFrame : Obligations.RegisterFrame := ⟨registerInstructionFrame, nextPc⟩

end Sys2Proof.Proofs
end

section
namespace Sys2Proof.Proofs
open Sys2Proof Sys2Proof.Machine

/-! # Traps of groups (R110, R179, R180, R185) -/

/-- Whether its TRAP record is queued or pending, a group that traps is stored in its slot. -/
theorem groups_postTrap (c : Comb) (slot : Nat) (th : Thread) : (c.postTrap slot th).groups = Sparse.put c.groups slot th := by
  unfold Comb.postTrap
  extract_lets
  split
  · rfl
  · split
    · split
      · split <;> rfl
      · rfl
    · rfl

/-- A queue with room takes the TRAP record at its place in R357's order. -/
theorem evq_postTrap_of_room {c : Comb} (h : c.evq.length < 512) (slot : Nat) (th : Thread) :
    (c.postTrap slot th).evq = insertRec { trapRecord slot th with clk := c.clk } c.evq := by
  rw [Comb.postTrap, if_pos h]

/-- A group that no GKILL has marked traps by stopping in its comb; else only the current agent changes. -/
theorem takeTrap_group {th : Thread} (hd : th.doomed = none) (s : State) (die comb k : Nat) (f : TrapInfo) :
    ∃ cur, s.takeTrap (.group die comb k) th f =
      ({ s with cur := cur } : State).modComb (combKey die comb) fun c => c.postTrap k { th.stop f with undisp := true } := by
  refine ⟨if s.cur = some (.group die comb k) then none else s.cur, ?_⟩
  unfold State.takeTrap
  rw [hd]
  split <;> rfl

/-- Settles O54: the comb posts the stopped thread's trap, and nothing else of the machine but the current agent changes. -/
theorem trapTaken : Obligations.TrapTaken := by
  intro s die comb k th f a t hd
  obtain ⟨cur, ht⟩ := takeTrap_group hd s die comb k f
  have hcomb : t.comb (agentKey a) = (s.comb (agentKey a)).postTrap k { th.stop f with undisp := true } :=
    (congrArg (State.comb · (agentKey a)) ht).trans (State.comb_modComb_self ..)
  have hthread : t.thread a = some { th.stop f with undisp := true } := by
    show Sparse.find? (t.comb (agentKey a)).groups k = _
    rw [hcomb, groups_postTrap, Sparse.find?_put_self]
  exact ⟨_, hthread, rfl, rfl, rfl, rfl, rfl, rfl, rfl, rfl, rfl, rfl, rfl, rfl, rfl, rfl,
    fun hroom => (congrArg Comb.evq hcomb).trans (evq_postTrap_of_room hroom ..),
    (congrArg State.hbm ht :), (congrArg State.host ht :), (congrArg State.dies ht :),
    fun ck hck => (congrArg (State.comb · ck) ht).trans (State.comb_modComb_ne _ _ hck)⟩

end Sys2Proof.Proofs
end

section
namespace Sys2Proof.Proofs
open Sys2Proof Sys2Proof.Machine

/-! # System instructions and special registers (R103 to R106, R176 to R178) -/

/-! ## RDSR (R177) -/

theorem rdsr_of_readable {e : Env} {x : Special} (h : !e.ag.isSteward ∨ stewardReads x) : e.rdsr (.special x) = e.special 0 x := by
  rcases h with h | h
  · rw [Bool.not_eq_true'] at h
    exact if_neg (by simp [h])
  · exact if_neg (by simp [h])

theorem rdsr_of_hidden {e : Env} {x : Special} (hag : e.ag.isSteward) (hx : stewardReads x = false) : e.rdsr (.special x) = 0 :=
  if_pos (by rw [hag, hx]; rfl)

theorem exec_rdsr (f : SForm) (s : State) : exec (.rdsr f) s = issue s (ruleRdsr f) fun e =>
    if f.sub.getLsbD 0 then e.done (e.write64 f.d [(0, e.rdsr f.a)])
    else e.done (e.write32 f.d false [(0, (e.rdsr f.a).setWidth 32)]) := rfl

/-- RDSR writes the special it reads to a register, or to a pair with W64. -/
theorem writes_rdsr {f : SForm} {P : Env → Prop} {val : Env → DWord} (hv : ∀ e, P e → e.rdsr f.a = val e) :
    Writes (.rdsr f) (ruleRdsr f) P fun e =>
      if f.sub.getLsbD 0 then e.write64 f.d [(0, val e)] else e.write32 f.d false [(0, (val e).setWidth 32)] :=
  .of_body fun s => ⟨_, exec_rdsr f s, fun e he => by rw [hv e he]; exact (apply_ite e.done ..).symm⟩

/-! ## WRSR (R103 to R106, R177) -/

/-- What WRSR writes: the immediate, the pair or the register (R177). -/
def wrsrValue (f : SForm) (e : Env) : DWord :=
  if f.sub.getLsbD 1 then f.imm.setWidth 64 else if f.sub.getLsbD 0 then e.read64 f.a 0 else (e.read32 f.a 0).setWidth 64

/-- WRSR of a special register does nothing but write its value there. -/
theorem exec_wrsr_special {f : SForm} {x : Special} (hd : f.d = .special x) (s : State) : exec (.wrsr f) s =
    issue s (ruleWrsr f s) fun e => e.out e.s (e.th.writeSpecial x (f.sub.getLsbD 0) (wrsrValue f e)) := by
  show execWrsr f s = _
  rw [execWrsr, hd]
  rfl

/-- A write to a special register changes `em`, `mode`, `fstat` and `lk` at most. -/
theorem writeSpecial_frame (th : Thread) (x : Special) (w64 : Bool) (v : DWord) :
    ∃ em mode fstat lk, th.writeSpecial x w64 v = { th with em, mode, fstat, lk } := by
  unfold Thread.writeSpecial
  split <;> exact ⟨_, _, _, _, rfl⟩

theorem hiWord_eq_extractLsb' (x : DWord) : hiWord x = x.extractLsb' 32 32 := by
  ext
  simp [hiWord]

/-! ## What they do -/

theorem systemInstructions : Claim.SystemInstructions := by
  intro f w64 imm
  refine ⟨.of_body fun s => ⟨_, rfl, fun e _ => rfl⟩, .of_body fun s => ⟨_, rfl, fun e _ => rfl⟩, .of_body fun s => ⟨_, rfl, fun e _ => rfl⟩,
    .of_body fun s => ⟨_, rfl, fun e _ => rfl⟩, fun x ha => writes_rdsr fun e he => ?_, fun x ha => writes_rdsr fun e he => ?_,
    fun x s a th hd hr => ?_⟩
  · rw [ha, rdsr_of_readable he]
  · rw [ha, rdsr_of_hidden he.1 he.2]
  · rw [exec_wrsr_special hd, issue_ready hr]
    rfl

theorem specialRegisterWrites : Claim.SpecialRegisterWrites := by
  intro th w64 v
  refine ⟨rfl, rfl, rfl, rfl, (BitVec.setWidth_eq_extractLsb' (by decide)).trans BitVec.extractLsb'_append_eq_right,
    (hiWord_eq_extractLsb' _).trans BitVec.extractLsb'_append_eq_left, fun x => ?_⟩
  obtain ⟨em, mode, fstat, lk, hw⟩ := writeSpecial_frame th x w64 v
  rw [hw]
  exact ⟨rfl, rfl, rfl, rfl, rfl, rfl, rfl, rfl⟩

/-- Settles O8: each body's result, the registers that WRSR can reach, and the legal part of what it writes there. -/
theorem specialRegisters : Obligations.SpecialRegisters := ⟨systemInstructions, specialRegisterWrites⟩

end Sys2Proof.Proofs
end

section
namespace Sys2Proof.Proofs
open Sys2Proof Sys2Proof.Machine

/-! # Bitwise operations, shifts, fields and counts of bits (R121 to R126) -/

/-! ## The shapes of an entry -/

/-- An operation that reads B at the width of its type. -/
theorem writes_dataOp_wideB {i : Instr} {op : Nat} {f : RForm} {one three stream : Bool} {g : Nat → Nat → Nat → Nat}
    (hx : ∀ s, exec i s = dataOp s op f one three false stream g) :
    Writes i (dataOpRule op f one three false stream) always (fun e =>
      e.results f.typ f.d fun k => g (e.aN f k) (e.bN f k) (e.cN f k)) :=
  writes_dataOp hx fun _ _ => by simp only [Bool.false_eq_true, if_false]

/-- An operation that reads B at 32 bits whatever its type: a count (R123) or a field's place (R125). -/
theorem writes_dataOp_narrowB {i : Instr} {op : Nat} {f : RForm} {one three stream : Bool} {g : Nat → Nat → Nat → Nat}
    (hx : ∀ s, exec i s = dataOp s op f one three true stream g) :
    Writes i (dataOpRule op f one three true stream) always (fun e =>
      e.results f.typ f.d fun k => g (e.aN f k) (e.b32 f k).toNat (e.cN f k)) :=
  writes_dataOp hx fun _ _ => by simp only [if_true]

/-- A count of bits writes 32 bits to D whatever its type (R126). -/
theorem writes_countOp {i : Instr} {op : Nat} {f : RForm} {g : Nat → Nat} (hx : ∀ s, exec i s = countOp s op f g) :
    Writes i (countOpRule op f) always (fun e => e.write32 f.d false (e.each fun k => BitVec.ofNat 32 (g (e.aN f k)))) :=
  Writes.of_body fun s => ⟨_, hx s, fun _ _ => rfl⟩

/-! ## The entries -/

theorem exec_lop3 (f : RForm) (s : State) : exec (.lop3 f) s = dataOp s 0x024 f false true false true fun a b c =>
    (List.range (typeWidth f.typ)).foldl (fun r j => r + (lutBit f.e.code (a.testBit j) (b.testBit j) (c.testBit j)).toNat * 2 ^ j) 0 := rfl

theorem exec_fshl (f : RForm) (s : State) : exec (.fshl f) s = dataOp s 0x028 f false true true true fun a b c =>
    (a * 2 ^ 32 + b) * 2 ^ (c % 64) / 2 ^ 32 % 2 ^ 32 := rfl

theorem exec_bfe (f : RForm) (s : State) : exec (.bfe f) s = dataOp s 0x029 f false false true true fun a b _ =>
    let field := fieldOf (typeWidth f.typ) b
    if field.2 = 0 then 0 else narrow false false (typeWidth f.typ) (Machine.toInt f.typ.elems.2.2 field.2 (a / 2 ^ field.1)) := rfl

theorem exec_bfi (f : RForm) (s : State) : exec (.bfi f) s = dataOp s 0x02A f false true true true fun a b c =>
    let field := fieldOf (typeWidth f.typ) b
    c - c / 2 ^ field.1 % 2 ^ field.2 * 2 ^ field.1 + a % 2 ^ field.2 * 2 ^ field.1 := rfl

theorem exec_popc (f : RForm) (s : State) : exec (.popc f) s = countOp s 0x02B f fun a =>
    ((List.range 64).filter fun j => a.testBit j).length := rfl

theorem exec_clz (f : RForm) (s : State) : exec (.clz f) s = countOp s 0x02C f fun a =>
    if a = 0 then typeWidth f.typ else typeWidth f.typ - 1 - Nat.log2 a := rfl

theorem exec_brev (f : RForm) (s : State) : exec (.brev f) s = dataOp s 0x02D f true false false true fun a _ _ =>
    (List.range (typeWidth f.typ)).foldl (fun r j => r + (a.testBit (typeWidth f.typ - 1 - j)).toNat * 2 ^ j) 0 := rfl

/-- Settles O2: each entry is an operation on A, B and C at the type's width, with B at 32 bits where it is a count or a field's
place, or a count of A's bits. -/
theorem bitAndShiftResults : Obligations.BitAndShiftResults := by
  intro f w on by32 count bits shift three
  -- With `( :)` the equation of an entry is read before the lemma is compared with the statement.
  refine ⟨?and, ?or, ?xor, ?andn, ?lop3, ?shl, ?shr, ?sar, ?fshl, ?bfe, ?bfi, ?popc, ?clz, ?brev⟩
  case and => exact (writes_dataOp_wideB (exec_and f) :)
  case or => exact (writes_dataOp_wideB (exec_or f) :)
  case xor => exact (writes_dataOp_wideB (exec_xor f) :)
  case andn => exact (writes_dataOp_wideB (exec_andn f) :)
  case lop3 => exact (writes_dataOp_wideB (exec_lop3 f) :)
  case shl => exact (writes_dataOp_narrowB (exec_shl f) :)
  case shr => exact (writes_dataOp_narrowB (exec_shr f) :)
  case sar => exact (writes_dataOp_narrowB (exec_sar f) :)
  case fshl => exact (writes_dataOp_narrowB (exec_fshl f) :)
  case bfe => exact (writes_dataOp_narrowB (exec_bfe f) :)
  case bfi => exact (writes_dataOp_narrowB (exec_bfi f) :)
  case popc => exact (writes_countOp (exec_popc f) :)
  case clz => exact (writes_countOp (exec_clz f) :)
  case brev => exact (writes_dataOp_wideB (exec_brev f) :)

end Sys2Proof.Proofs
end

section
namespace Sys2Proof.Proofs
open Sys2Proof Sys2Proof.Machine

/-! # Flags of which none is enabled (R9, R107) -/

theorem faulting_each_of_quiet {mode : Word} {lanes : List Nat} {g : Nat → BitVec 5} (h : ∀ i ∈ lanes, g i &&& trapEnables mode = 0) :
    faulting mode (lanes.map fun i => (i, g i)) = [] := by
  have hno : (lanes.filter fun i => decide (g i &&& trapEnables mode ≠ 0)) = [] :=
    List.filter_eq_nil_iff.2 fun i hi hn => of_decide_eq_true hn (h i hi)
  rw [faulting_each, hno, List.map_nil]

/-- An instruction that raises flags of which none is enabled writes all its lanes and raises every flag, without a trap. -/
theorem fpDone_of_quiet (e : Env) (d : Spec) (g : Nat → BitVec 5) (mk : List Nat → List RegWrite)
    (h : ∀ i ∈ e.lanes, g i &&& trapEnables e.th.mode = 0) :
    e.fpDone d (e.each g) mk = .ok ⟨e.s, e.th, mk e.lanes, excAll (e.each g), none, .seq⟩ := by
  have hall : (e.lanes.filter fun i => decide (g i &&& trapEnables e.th.mode = 0)) = e.lanes :=
    List.filter_eq_self.2 fun i hi => decide_eq_true (h i hi)
  rw [Env.fpDone, Env.each, written_each, hall, faulting_each_of_quiet h]
  rfl

end Sys2Proof.Proofs
end

section
namespace Sys2Proof.Proofs
open Sys2Proof Sys2Proof.Machine

/-! # Compares, selects and moves (R128 to R132) -/

/-! ## The kinds of specifiers that PMOV takes (R131) -/

theorem kind_eq_v_iff {x : Spec} : x.kind = .v ↔ ∃ n, x = .v n := by
  cases x <;> simp [Spec.kind]

theorem kind_eq_s_iff {x : Spec} : x.kind = .s ↔ ∃ n, x = .s n := by
  cases x <;> simp [Spec.kind]

theorem kind_eq_p_iff {x : Spec} : x.kind = .p ↔ ∃ n, x = .p n := by
  cases x <;> simp [Spec.kind]

theorem kind_eq_q_iff {x : Spec} : x.kind = .q ↔ ∃ n, x = .q n := by
  cases x <;> simp [Spec.kind]

/-! ## PMOV (R131) -/

/-- Whether B gives each lane a word of its own. -/
def pmovPerLane (f : RForm) : Bool := f.imm.isNone && (match f.b with
  | .v _ => true
  | .special .lid => true
  | _ => false)

/-- Whether B gives each lane a bit. -/
def pmovPred (f : RForm) : Bool := f.imm.isNone && (f.b.kind = .p || f.b.kind = .q)

theorem exec_pmov_p {f : RForm} {n : Fin 8} (hd : f.d = .p n) (s : State) : exec (.pmov f) s = issue s (rulePmov f) fun e =>
    e.done (e.write32 f.d false (e.each fun i =>
      if pmovPerLane f then bitWord (e.b32 f i ≠ 0) else if pmovPred f then e.b32 f i else bitWord ((e.b32 f i).getLsbD i))) := by
  show execPmov f s = _
  rw [execPmov, hd]
  rfl

theorem exec_pmov_q {f : RForm} {n : Fin 8} (hd : f.d = .q n) (s : State) : exec (.pmov f) s = issue s (rulePmov f) fun e =>
    e.done (e.write32 f.d false [(0, bitWord (e.b32 f 0 ≠ 0))]) := by
  show execPmov f s = _
  rw [execPmov, hd]

theorem exec_pmov_s {f : RForm} {n : Fin 64} (hd : f.d = .s n) (s : State) : exec (.pmov f) s = issue s (rulePmov f) fun e =>
    e.done (e.write32 f.d false [(0, if isVec f.d (if f.imm.isSome then [] else [f.b]) then
      laneMask (e.lanes.filter fun i => (e.b32 f i).getLsbD 0) else e.b32 f 0)]) := by
  show execPmov f s = _
  rw [execPmov, hd]

/-- A v register gives each lane its own bit: whether it is not 0 there. -/
theorem writes_pmov_p_of_v (f : RForm) : Writes (.pmov f) (rulePmov f) (fun _ => f.d.kind = .p ∧ f.imm.isNone ∧ f.b.kind = .v) fun e =>
    e.write32 f.d false (e.each fun i => bitWord (decide (e.b32 f i ≠ 0))) := by
  rintro s a th hr ⟨hd, hi, hb⟩
  obtain ⟨n, hd⟩ := kind_eq_p_iff.1 hd
  obtain ⟨m, hb⟩ := kind_eq_v_iff.1 hb
  have hl : pmovPerLane f = true := by simp [pmovPerLane, hi, hb]
  rw [exec_pmov_p hd, issue_ready hr]
  simp only [hl, if_true]
  rfl

/-- A word, of a register or an immediate, gives lane i its bit i. -/
theorem writes_pmov_p_of_word (f : RForm) : Writes (.pmov f) (rulePmov f) (fun _ => f.d.kind = .p ∧ (f.imm.isSome ∨ f.b.kind = .s)) fun e =>
    e.write32 f.d false (e.each fun i => bitWord ((e.b32 f i).getLsbD i)) := by
  rintro s a th hr ⟨hd, hw⟩
  obtain ⟨n, hd⟩ := kind_eq_p_iff.1 hd
  have hl : pmovPerLane f = false ∧ pmovPred f = false := by
    rcases hw with hi | hb
    · simp [pmovPerLane, pmovPred, Option.isNone_eq_false_iff.2 hi]
    · obtain ⟨m, hb⟩ := kind_eq_s_iff.1 hb
      simp [pmovPerLane, pmovPred, hb, Spec.kind]
  rw [exec_pmov_p hd, issue_ready hr]
  simp only [hl, Bool.false_eq_true, if_false]
  rfl

theorem writes_pmov_q (f : RForm) : Writes (.pmov f) (rulePmov f) (fun _ => f.d.kind = .q) fun e =>
    e.write32 f.d false [(0, bitWord (decide (e.b32 f 0 ≠ 0)))] := by
  intro s a th hr hd
  obtain ⟨n, hd⟩ := kind_eq_q_iff.1 hd
  rw [exec_pmov_q hd, issue_ready hr]
  rfl

/-- A p register makes the instruction a vector one, so that an s register gets the bits of its lanes. -/
theorem writes_pmov_s_of_p (f : RForm) : Writes (.pmov f) (rulePmov f) (fun _ => f.d.kind = .s ∧ f.imm.isNone ∧ f.b.kind = .p) fun e =>
    e.write32 f.d false [(0, laneMask (e.lanes.filter fun i => (e.b32 f i).getLsbD 0))] := by
  rintro s a th hr ⟨hd, hi, hb⟩
  obtain ⟨n, hd⟩ := kind_eq_s_iff.1 hd
  obtain ⟨m, hb⟩ := kind_eq_p_iff.1 hb
  have hvec : isVec f.d (if f.imm.isSome then [] else [f.b]) = true := by
    simp [isVec, vecSpec, hb, Option.isNone_iff_eq_none.1 hi]
  rw [exec_pmov_s hd, issue_ready hr]
  simp only [hvec, if_true]
  rfl

/-! ## FSETP and MOV (R128, R132) -/

theorem exec_fsetp (f : RForm) (s : State) : exec (.fsetp f) s = execFsetp f s := rfl

/-- MOV's rule depends on the machine, of which only the agent's class counts (R304). -/
theorem exec_mov (f : RForm) (s : State) : exec (.mov f) s = issue s (ruleMov f s) fun e => e.done (e.results f.typ f.d fun i => e.bN f i) := rfl

/-- Settles O3: each entry's body writes the value its rule gives; FSETP by the lemma for flags that are not enabled, PMOV by the
kinds of its operands. -/
theorem compareSelectMoveResults : Obligations.CompareSelectMoveResults := by
  intro f c val icmp fcmp
  refine ⟨?isetp, ?fsetp, ?sel, ?plop, writes_pmov_p_of_v f, writes_pmov_p_of_word f, writes_pmov_q f, writes_pmov_s_of_p f, ?mov⟩
  case isetp => exact .of_body fun s => ⟨_, rfl, fun e _ => rfl⟩
  case fsetp =>
    exact .of_body fun s => ⟨_, exec_fsetp f s, fun e hq => ⟨_, fpDone_of_quiet e f.d (fun i => (fcmp e i).2) _ hq, rfl, rfl⟩⟩
  case sel => exact .of_body fun s => ⟨_, rfl, fun e _ => rfl⟩
  case plop => exact .of_body fun s => ⟨_, rfl, fun e _ => rfl⟩
  case mov =>
    intro s a th hr
    rw [exec_mov, issue_ready hr]
    rfl

end Sys2Proof.Proofs
end

section
namespace Sys2Proof.Proofs
open Sys2Proof Sys2Proof.Machine

/-! # Lane instructions (R134 to R140) -/

/-! ## XPERM (R134, R135) -/

/-- Taking a core's port leaves the operations of every comb. -/
@[simp] theorem ops_takePort (e : Env) (s : State) (n ck : Nat) : ((e.takePort s n).1.comb ck).ops = (s.comb ck).ops := by
  unfold Env.takePort
  split
  · rfl
  · rw [State.comb_modComb]
    split
    · next h => rw [h]
    · rfl

/-- The operation that joins its comb's keeps the clk before which it does not land. -/
theorem async_ops_due (e : Env) (s : State) (th : Thread) (cls scope : Nat) (release : Option Nat) (kind : OpKind)
    (dsts : List (Nat × List Nat)) (due : Nat) :
    ∃ op : AsyncOp, ((e.async s th cls scope release kind dsts due).1.comb e.ck).ops = (s.comb e.ck).ops ++ [op] ∧
      op.cls = cls ∧ op.ownerUid = th.uid ∧ op.due = due ∧ op.kind = kind :=
  ⟨_, congrArg Comb.ops (State.comb_modComb_self ..), rfl, rfl, rfl, rfl⟩

theorem exec_xperm (f : RForm) (s : State) : exec (.xperm f) s = execXperm f s := rfl

theorem xperm_completes (f : RForm) : Completes (.xperm f) (ruleXperm f) always fun e o =>
    ∃ op : AsyncOp, (o.s.comb e.ck).ops = (e.s.comb e.ck).ops ++ [op] ∧ op.cls = 0 ∧ op.ownerUid = e.th.uid ∧
      op.due = (e.takePort e.s 2).2 + 12 ∧
      op.kind = .values (e.write32 f.d false (e.each fun i => e.read32 f.a (patLane f.apat ((e.b32 f i).toNat % 32)))) :=
  .of_body fun s => ⟨_, exec_xperm f s, fun e _ => ⟨_, rfl, rfl, by
    dsimp only
    rw [← ops_takePort e e.s 2 e.ck]
    exact async_ops_due ..⟩⟩

/-! ## VOTE (R136) -/

/-- The bits that VOTE combines. -/
def voteBits (f : RForm) (e : Env) : List (Nat × Bool) := e.each fun i => (e.a32 f i).getLsbD 0

/-- VOTE's result by its mode. -/
def voteResult (f : RForm) (e : Env) : Word :=
  match f.flags.toNat % 4 with
  | 0 => bitWord ((voteBits f e).any (·.2))
  | 1 => bitWord ((voteBits f e).all (·.2))
  | 2 => laneMask (((voteBits f e).filter (·.2)).map (·.1))
  | _ => bitWord ((voteBits f e).all (·.2) || (voteBits f e).all fun b => !b.2)

/-- Where VOTE writes its result: once to a q or s register, else to every lane in `act`. -/
def voteWrites (f : RForm) (e : Env) : List RegWrite :=
  match f.d with
  | .q _ => e.write32 f.d false [(0, voteResult f e)]
  | .s _ => e.write32 f.d false [(0, voteResult f e)]
  | _ => e.write32 f.d false (e.each fun _ => voteResult f e)

theorem exec_vote (f : RForm) (s : State) : exec (.vote f) s = issue s (ruleVote f) fun e => e.done (voteWrites f e) := by
  show execVote f s = _
  unfold execVote voteWrites
  extract_lets
  refine congrArg (issue s (ruleVote f)) (funext fun e => ?_)
  cases f.d <;> rfl

/-! ## GREDF (R138) -/

/-- GREDF's combination of two values. -/
def gredfNode (f : RForm) (e : Env) (x y : Nat) : Nat × Exc :=
  match f.hint.toNat % 4 with
  | 0 => fmtF32.add (e.fopt f.flags 0) (fmtF32.decode x) (fmtF32.decode y)
  | k => fmtF32.minmax (k = 2) x y

/-- GREDF's tree over the flushed sources of the lanes in `act`. -/
def gredfTree (f : RForm) (e : Env) : List (Option Nat) × Exc :=
  treeReduce (gredfNode f e) 5 ((List.range 32).map fun i => if e.act.getLsbD i then some (fmtF32.flushIn e.ftz (e.a32 f i).toNat) else none)

theorem exec_gredf (f : RForm) (s : State) : exec (.gredf f) s = issue s (ruleGredf f) fun e =>
    if (gredfTree f e).2 &&& trapEnables e.th.mode ≠ 0 then
      .ok ⟨e.s, e.th, [], (gredfTree f e).2, some ⟨codeFPEXC, e.act, f.d.code, (gredfTree f e).2.toNat⟩, .seq⟩
    else .ok ⟨e.s, e.th, e.combined f.d (BitVec.ofNat 32 (((gredfTree f e).1.headD none).getD 0)), (gredfTree f e).2, none, .seq⟩ := rfl

theorem gredf_completes (f : RForm) : Completes (.gredf f) (ruleGredf f) (fun e => trapEnables e.th.mode = 0) fun e o =>
    o = ⟨e.s, e.th, e.combined f.d (BitVec.ofNat 32 (((gredfTree f e).1.headD none).getD 0)), (gredfTree f e).2, none, .seq⟩ :=
  .of_body fun s => ⟨_, exec_gredf f s, fun e hq => ⟨_, if_neg (by simp [hq]), rfl, rfl⟩⟩

/-- Settles O4: XPERM by the operation it registers, GREDF by its tree without a trap, and the others by what they write. -/
theorem laneInstructionResults : Obligations.LaneInstructionResults := by
  intro f bits vote node tree
  refine ⟨xperm_completes f, ?vote, ?gredi, gredf_completes f, ?gscan, ?matchEq⟩
  case vote => exact .of_body fun s => ⟨_, exec_vote f s, fun e _ => rfl⟩
  case gredi => exact .of_body fun s => ⟨_, rfl, fun e _ => rfl⟩
  case gscan => exact .of_body fun s => ⟨_, rfl, fun e _ => rfl⟩
  case matchEq => exact .of_body fun s => ⟨_, rfl, fun e _ => rfl⟩

end Sys2Proof.Proofs
end

section
namespace Sys2Proof.Proofs
open Sys2Proof Sys2Proof.Machine

/-! # Floating-point arithmetic and special functions (R145 to R152) -/

/-- An instruction that computes a value and flags in each lane completes with all its writes and all its flags when no lane raises an
enabled one (R9). -/
theorem completes_fpDone {i : Instr} {r : Rule} {d : Spec} {lane : Env → Nat → Nat × Exc} {mk : Env → List Nat → List RegWrite}
    (hx : ∀ s, exec i s = issue s r fun e => e.fpDone d (e.each fun k => (lane e k).2) (mk e)) :
    Completes i r (fun e => ∀ k ∈ e.lanes, (lane e k).2 &&& trapEnables e.th.mode = 0) fun e o =>
      o = ⟨e.s, e.th, mk e e.lanes, excAll (e.each fun k => (lane e k).2), none, .seq⟩ :=
  .of_body fun s => ⟨_, hx s, fun e hq => ⟨_, fpDone_of_quiet e d (fun k => (lane e k).2) (mk e) hq, rfl, rfl⟩⟩

/-- An entry of majors 0x05 and 0x06: `fpResult` in every lane. -/
theorem completes_fpOp {i : Instr} {op : Nat} {f : RForm} {one three rounds flags : Bool} {lat : Nat}
    {g : FOpt → Fmt → Nat → Nat → Nat → Nat × Exc} (hx : ∀ s, exec i s = fpOp s op f one three rounds flags lat g) :
    Completes i (fpOpRule op f one three rounds flags lat)
      (fun e => ∀ k ∈ e.lanes, (fpResult f g e k).2 &&& trapEnables e.th.mode = 0) fun e o =>
      o = ⟨e.s, e.th, e.write32 f.d false (e.each fun k => BitVec.ofNat 32 (fpResult f g e k).1),
        excAll (e.each fun k => (fpResult f g e k).2), none, .seq⟩ :=
  completes_fpDone (lane := fpResult f g)
    (mk := fun e good => e.write32 f.d false (good.map fun k => (k, BitVec.ofNat 32 (fpResult f g e k).1))) hx

/-- Settles O5: each entry is `fpOp` of its operation, so that one lemma speaks of all of them. -/
theorem floatResults : Obligations.FloatResults := by
  intro f lane fp
  have of_fpOp {i : Instr} {op : Nat} {one three rounds flags : Bool} {lat : Nat} {g : FOpt → Fmt → Nat → Nat → Nat → Nat × Exc}
      (hx : ∀ s, exec i s = fpOp s op f one three rounds flags lat g) : fp i (fpOpRule op f one three rounds flags lat) g :=
    completes_fpOp hx
  -- Without its value `fp` is compared by its arguments, and the operation is read off the statement.
  clear_value fp
  and_intros <;> exact of_fpOp fun _ => rfl

end Sys2Proof.Proofs
end

section
namespace Sys2Proof.Proofs
open Sys2Proof Sys2Proof.Machine

/-! # Conversions, packing and block formats (R153 to R158) -/

/-- The writes of a conversion's results: pairs when its type is 64 bits wide. -/
def convWrites (d : Spec) (w64 : Bool) (lane : Env → Nat → Nat × Exc) (e : Env) (good : List Nat) : List RegWrite :=
  if w64 then e.write64 d (good.map fun k => (k, BitVec.ofNat 64 (lane e k).1))
  else e.write32 d false (good.map fun k => (k, BitVec.ofNat 32 (lane e k).1))

/-! ## PACK2 (R154) -/

/-- One of PACK2's two values, rounded to an element of its type. -/
def pack2Elem (f : RForm) (e : Env) (x : Word) : Nat × Exc :=
  fmtF32.conv (fmtOf f.typ) (e.fopt f.flags f.sat2.toNat) (fmtF32.decode (fmtF32.flushIn e.ftz x.toNat))

/-- Two elements of 16 bits fill the destination. -/
def pack2Halves (f : RForm) (e : Env) (i : Nat) : Nat × Exc :=
  ((pack2Elem f e (e.a32 f i)).1 + 2 ^ 16 * (pack2Elem f e (e.b32 f i)).1,
    (pack2Elem f e (e.a32 f i)).2 ||| (pack2Elem f e (e.b32 f i)).2)

/-- Two elements of 8 bits replace the half of C that HINT names. -/
def pack2Bytes (f : RForm) (e : Env) (i : Nat) : Nat × Exc :=
  let c := (e.c32 f i).toNat
  let place := 2 ^ (16 * (f.hint.toNat % 2))
  (c - c / place % 2 ^ 16 * place + ((pack2Elem f e (e.a32 f i)).1 + 2 ^ 8 * (pack2Elem f e (e.b32 f i)).1) * place,
    (pack2Elem f e (e.a32 f i)).2 ||| (pack2Elem f e (e.b32 f i)).2)

theorem exec_pack2_of_halves {f : RForm} (h : fpCount f.typ = 2) (s : State) : exec (.pack2 f) s = issue s (rulePack2 f) fun e =>
    e.fpDone f.d (e.each fun k => (pack2Halves f e k).2) (convWrites f.d false (pack2Halves f) e) := by
  show execPack2 f s = _
  simp only [execPack2, h, if_true]
  rfl

theorem exec_pack2_of_bytes {f : RForm} (h : fpCount f.typ ≠ 2) (s : State) : exec (.pack2 f) s = issue s (rulePack2 f) fun e =>
    e.fpDone f.d (e.each fun k => (pack2Bytes f e k).2) (convWrites f.d false (pack2Bytes f) e) := by
  show execPack2 f s = _
  simp only [execPack2, h, if_false]
  rfl

/-! ## CVTMX (R156) -/

/-- An F32 source of a block, flushed (R54). -/
def mxSource (f : RForm) (e : Env) (i : Nat) : FV := fmtF32.decode (fmtF32.flushIn e.ftz (e.a32 f i).toNat)

/-- The shared scale of the block. -/
def mxBlockScale (f : RForm) (e : Env) : Nat := mxScale f.typ (e.lanes.map (mxSource f e))

/-- A lane's element of the block, and its flags. -/
def mxLane (f : RForm) (e : Env) (i : Nat) : Nat × Exc :=
  mxElem f.typ (e.rmode (f.flags.toNat % 8)) (mxBlockScale f e) (mxSource f e i)

/-- CVTMX writes the block and its scale if every lane is written, else nothing. -/
def mxWrites (f : RForm) (e : Env) (good : List Nat) : List RegWrite :=
  if good.length = e.lanes.length then
    e.write32 f.d false (e.each fun k => BitVec.ofNat 32 (mxLane f e k).1) ++ e.write32 f.e false [(0, BitVec.ofNat 32 (mxBlockScale f e))]
  else []

/-- With no flag enabled no lane raises an enabled one (R105). -/
theorem quiet_of_no_enables {mode : Word} (h : trapEnables mode = 0) (x : Exc) : x &&& trapEnables mode = 0 := by
  rw [h]
  exact BitVec.and_zero

/-- What CVTMX writes when no lane faults. -/
theorem mxWrites_lanes (f : RForm) (e : Env) : mxWrites f e e.lanes =
    e.write32 f.d false (e.each fun k => BitVec.ofNat 32 (mxLane f e k).1) ++ e.write32 f.e false [(0, BitVec.ofNat 32 (mxBlockScale f e))] :=
  if_pos rfl

theorem exec_cvtmx (f : RForm) (s : State) : exec (.cvtmx f) s = issue s (ruleCvtmx f) fun e =>
    e.fpDone f.d (e.each fun k => (mxLane f e k).2) (mxWrites f e) := by
  show execCvtmx f s = _
  simp only [execCvtmx, Env.each, List.map_map, List.length_map]
  rfl

theorem cvtmx_completes (f : RForm) : Completes (.cvtmx f) (ruleCvtmx f) (fun e => trapEnables e.th.mode = 0) fun e o =>
    o = ⟨e.s, e.th,
      e.write32 f.d false (e.each fun k => BitVec.ofNat 32 (mxLane f e k).1) ++ e.write32 f.e false [(0, BitVec.ofNat 32 (mxBlockScale f e))],
      excAll (e.each fun k => (mxLane f e k).2), none, .seq⟩ := by
  intro s a th hr hq
  simpa only [mxWrites_lanes] using completes_fpDone (exec_cvtmx f) s a th hr fun _ _ => quiet_of_no_enables hq _

/-! ## All of major 0x07 -/

/-- Settles O6: each entry delivers a value and flags lane by lane; PACK2 by the width of its elements, CVTMX because without a
faulting lane it writes the whole block. -/
theorem conversionResults : Obligations.ConversionResults := by
  intro f fp from' narrowed widened nibble
  have of_lane {i : Instr} {r : Rule} {lane : Env → Nat → Nat × Exc} {w64 : Bool} (hx : ∀ s, exec i s = issue s r fun e =>
      e.fpDone f.d (e.each fun k => (lane e k).2) (convWrites f.d w64 lane e)) : fp i r lane w64 :=
    completes_fpDone hx
  refine ⟨?cvt, fun hc => ?halves, fun hc => ?bytes, ?unpk2, cvtmx_completes f, ?cvtqn, ?qndec⟩
  case cvt => exact of_lane fun _ => rfl
  case halves => exact of_lane (exec_pack2_of_halves hc)
  case bytes => exact of_lane (exec_pack2_of_bytes hc)
  case unpk2 => exact of_lane fun _ => rfl
  case cvtqn => exact of_lane fun _ => rfl
  case qndec => exact of_lane fun _ => rfl

end Sys2Proof.Proofs
end

section
namespace Sys2Proof.Proofs
open Sys2Proof Sys2Proof.Machine

/-! # Masks and loops (R169 to R172) -/

/-! ## An instruction whose guard leaves no lane -/

/-- A group that is killed is gone from its slot, whatever leaves the comb with it (R34, R191). -/
theorem thread_kill (s : State) (die comb k : Nat) (th : Thread) : (s.kill (combKey die comb) k th).thread (.group die comb k) = none := by
  unfold State.kill
  extract_lets s1 s2
  have hfreed : s2.thread (.group die comb k) = none := (freedSlotIsEmpty s (combKey die comb) k _).1
  refine Eq.trans (thread_congr ((comb_flushKilled (g := threadParts) (fun _ _ => rfl) (fun _ _ => rfl) ..).trans ?_)) hfreed
  rw [show agentKey (.group die comb k) = combKey die comb from rfl, State.comb_modComb_self]
  rfl

/-- What an instruction without effect leaves of a thread: its mask, its registers and the results in flight. -/
def maskAndRegs (th : Thread) := (th.em, th.s, th.v, th.flights)

/-- The thread that is stored is the one that is read. -/
theorem thread_ranOn (s : State) (a : Agent) (x : Thread) (slots : Comb → List (Nat × Nat)) (clk : Comb → Nat) :
    (ranOn s a x slots clk).thread a = (s.setThread a x).thread a :=
  thread_congr ((congrArg threadParts (comb_ranOn_self s a x slots clk)).trans rfl)

/-- An issue that ends stores a thread with the mask and the registers it ended with, or its group is killed. -/
theorem thread_endIssue (s : State) (a : Agent) (th : Thread) (r : Rule) (t due : Nat) :
    ∃ x, maskAndRegs x = maskAndRegs th ∧
      ((s.endIssue a th r t due).thread a = (s.setThread a x).thread a ∨ (s.endIssue a th r t due).thread a = none) := by
  unfold State.endIssue
  extract_lets waited n at' leaves th1 th' s1 s2
  have hth' : maskAndRegs th' = maskAndRegs th := by
    dsimp only [th']
    split <;> rfl
  have hs2 : s2 = ranOn s a th' (fun c => (if waited = true then c else c.occupy a (t + n)).slotFree) (fun c => Nat.max c.clk t) := by
    simp only [s2, s1, tick_frame]
    rfl
  have hstored : s2.thread a = (s.setThread a th').thread a := hs2 ▸ thread_ranOn ..
  clear_value s2 th' leaves
  refine ⟨th', hth', ?_⟩
  split
  · split
    · exact .inr (thread_kill ..)
    · exact .inl hstored
  · exact .inl hstored

/-- An instruction whose guard leaves no lane answers a machine whose agent has the mask, the registers and the results in flight
that it issued with (R76). -/
theorem guardedOff_keeps {i : Instr} {r : Rule} {body : Env → Eff} (hx : ∀ s, exec i s = issue s r body) {s : State} {a : Agent} {th : Thread}
    (hc : s.cur = some a) (hth : s.thread a = some th) (hst : th.stopped = false) (hd : (s.issueOf a th r).decodeFault r = none)
    (hact : (s.env a th r).act = 0) :
    ∃ t, exec i s = .next t ∧ ∀ u, t.thread a = some u → maskAndRegs u = maskAndRegs (s.env a th r).th := by
  refine ⟨(s.issueOf a th r).halted r .off, ?_, fun u hu => ?_⟩
  · rw [hx, issue_running hc hth hst, halt_of_guarded_off hd hact]
    rfl
  · obtain ⟨x, hx, hstored | hnone⟩ := thread_endIssue (s.issueOf a th r).env.s a _ { r with ends := false } _ 0
    · obtain ⟨n, rfl⟩ := thread_setThread hth (hstored.symm.trans hu)
      exact hx
    · exact absurd (hnone.symm.trans hu) (by simp)

/-! ## The last lanes -/

/-- EXITL of a team's group without a lane left retires it (R34, R170). -/
theorem endGroup_of_team_after {e : Env} {d c k : Nat} (ha : e.ag = .group d c k) {th : Thread} (ht : th.place.isTask = false) :
    e.endGroup e.s th = .ok ⟨e.s.retire e.ck k th, th, [], 0, none, .gone⟩ := by
  simp [Env.endGroup, ha, ht]

/-! ## What the instructions of masks and loops do -/

/-- The count of a LOOP (R171). -/
def loopCount (f : BForm) (e : Env) : Nat := if f.aux.getLsbD 25 then f.aux.toNat % 2 ^ 24 else (e.read32 f.a 0).toNat

/-- The end PC of a LOOP (R171). -/
def loopEnd (f : BForm) (e : Env) : DWord := e.th.pc + f.disp.setWidth 64 * 4

/-- EMAND, EMANDN and EMSET give the old `em` to D and the new one to the thread (R169). -/
theorem completes_emOp {i : Instr} {f : BForm} {op : Nat} {new : Word → Word → Word → Word} (hx : ∀ s, exec i s = emOp f s op new) :
    Completes i (emOpRule f op) always fun e o =>
      o = ⟨e.s, { e.th with em := new e.th.em (e.maskOp f.a) e.th.lm }, e.write32 f.d false [(0, e.th.em)], 0, none, .seq⟩ :=
  .of_body fun s => ⟨_, hx s, fun _ _ => ⟨_, rfl, rfl, rfl⟩⟩

theorem exec_emand (f : BForm) (s : State) : exec (.emand f) s = emOp f s 0x090 fun em m _ => em &&& m := rfl

theorem exec_emandn (f : BForm) (s : State) : exec (.emandn f) s = emOp f s 0x091 fun em m _ => em &&& ~~~m := rfl

theorem exec_emset (f : BForm) (s : State) : exec (.emset f) s = emOp f s 0x092 fun _ m lm => m &&& lm := rfl

theorem exec_emget (f : BForm) (s : State) : exec (.emget f) s = execEmget f s := rfl

theorem exec_exitl (f : BForm) (s : State) : exec (.exitl f) s = execExitl f s := rfl

theorem exec_loop (f : BForm) (s : State) : exec (.loop f) s = issue s (ruleLoop f) fun e =>
    if loopCount f e = 0 then .ok ⟨e.s, ({ e.th with pc := loopEnd f e }).advance, [], 0, none, .taken⟩
    else if 4 ≤ loopDepth e.th.loops then .fault ⟨codeLOOPOVF, e.th.em, 0, 0⟩
    else if 0xFFFFFF < loopCount f e then .fault ⟨codeLOOPOVF, e.th.em, loopCount f e, 1⟩
    else .ok ⟨e.s, { e.th with
      loops := e.th.loops.set (loopDepth e.th.loops)
        ⟨(e.th.pc + 12).setWidth 32, (loopEnd f e).setWidth 32, true, e.th.cd, BitVec.ofNat 24 (loopCount f e)⟩
      pc := e.th.pc + 12 }, [], 0, none, .taken⟩ := rfl

theorem exec_lbrk (f : BForm) (s : State) : exec (.lbrk f) s = execLbrk f s := rfl

theorem exec_lcnt (f : BForm) (s : State) : exec (.lcnt f) s = execLcnt f s := rfl

/-- Settles O11: each instruction by the branch of its body that its operands choose, and the guarded-off ones because an issue without
effect keeps mask and registers. -/
theorem masksAndLoops : Obligations.MasksAndLoops := by
  intro f old off n endPc ent
  have off_of {i : Instr} {r : Rule} {body : Env → Eff} (hx : ∀ s, exec i s = issue s r body) : off i r := by
    intro s a th hc hth hst hd hact
    obtain ⟨t, ht, hkeep⟩ := guardedOff_keeps hx hc hth hst hd hact
    refine ⟨t, ht, fun u hu => ?_⟩
    obtain ⟨hem, hs, hv, hfl⟩ : _ ∧ _ ∧ _ ∧ _ := by simpa only [maskAndRegs, Prod.mk.injEq] using hkeep u hu
    exact ⟨hem.trans (settle_keeps (g := Thread.em) (fun _ _ _ _ _ _ _ _ => rfl) th _), hs, hv, hfl⟩
  refine ⟨completes_emOp (exec_emand f), completes_emOp (exec_emandn f), completes_emOp (exec_emset f),
    .of_body fun s => ⟨_, exec_emget f s, fun _ _ => rfl⟩, off_of (exec_emand f), off_of (exec_emandn f), off_of (exec_emset f),
    off_of (exec_emget f), ?sink, ?maskOp,
    .of_body fun s => ⟨_, exec_exitl f s, fun e he => ⟨_, if_neg he, rfl, rfl⟩⟩,
    .of_body fun s => ⟨_, exec_exitl f s, ?exitlLast⟩,
    .of_body fun s => ⟨_, exec_loop f s, ?loop⟩,
    .of_body fun s => ⟨_, exec_loop f s, fun e he => ⟨_, if_pos he, rfl, rfl⟩⟩,
    .of_body fun s => ⟨_, exec_loop f s, ?loopFull⟩,
    .of_body fun s => ⟨_, exec_loop f s, ?loopLong⟩,
    .of_body fun s => ⟨_, exec_lbrk f s, ?lbrkNone⟩,
    fun k x => ⟨.of_body fun s => ⟨_, exec_lbrk f s, ?lbrk⟩, .of_body fun s => ⟨_, exec_lbrk f s, ?lbrkTraps⟩⟩,
    .of_body fun s => ⟨_, exec_lcnt f s, ?lcnt⟩⟩
  case sink =>
    intro e hd
    simp only [old, hd, Env.write32]
  case maskOp =>
    intro e
    cases f.a <;> rfl
  case exitlLast =>
    rintro e ⟨hlm, hteam, d, c, k, hag⟩
    refine ⟨_, (if_pos hlm).trans (endGroup_of_team_after hag hteam), rfl, rfl, fun d' c' k' hag' => ?_⟩
    cases hag.symm.trans hag'
    rfl
  case loop =>
    rintro e ⟨hpos, hle, hdepth⟩
    exact ⟨_, (if_neg hpos.ne').trans ((if_neg hdepth.not_ge).trans (if_neg hle.not_gt)), rfl, rfl⟩
  case loopFull =>
    rintro e ⟨hpos, hfull⟩
    exact (if_neg hpos.ne').trans (if_pos hfull)
  case loopLong =>
    rintro e ⟨hlong, hdepth⟩
    exact (if_neg (Nat.zero_lt_of_lt hlong).ne').trans ((if_neg hdepth.not_ge).trans (if_pos hlong))
  case lbrkNone =>
    intro e hnone
    simp only [hnone]
  case lbrk =>
    rintro e ⟨hin, hal⟩
    simp only [hin]
    exact ⟨_, jump_of_aligned e _ hal, rfl, rfl⟩
  case lbrkTraps =>
    rintro e ⟨hin, hmis⟩
    simp only [hin]
    exact jump_of_misaligned e _ hmis
  case lcnt =>
    intro e _
    cases innermost e.th.cd e.th.loops <;> rfl

end Sys2Proof.Proofs
end

section
namespace Sys2Proof.Proofs
open Sys2Proof Sys2Proof.Machine

/-! # The register budget (R173, R174) -/

/-- The registers in a team's pool of a core and role, when the comb holds the team. -/
def poolOf (s : State) (ck team key : Nat) : Option Nat :=
  (Sparse.find? (s.comb ck).teams team).map fun t => Sparse.get 0 t.pools key

/-- A changed pool holds the changed count. -/
theorem poolOf_pool (s : State) (ck team key : Nat) (g : Nat → Nat) : poolOf (s.pool ck team key g) ck team key = (poolOf s ck team key).map g := by
  unfold poolOf State.pool
  rw [State.comb_modComb_self]
  split
  · next t ht => simp only [ht, Sparse.find?_put_self, Option.map_some, Sparse.get_set_self]
  · next hn => simp only [hn, Option.map_none]

/-- What leaves the teams of a comb leaves their pools. -/
theorem poolOf_modComb {f : Comb → Comb} (hf : ∀ c, (f c).teams = c.teams) (s : State) (ck team key : Nat) :
    poolOf (s.modComb ck f) ck team key = poolOf s ck team key := by
  unfold poolOf
  rw [State.comb_modComb_self, hf]

/-- The pool a group gives to and claims from: its team's, on its core and for its role. -/
def poolKeyOf (e : Env) : Nat := poolKey (Agent.slotOf e.ag) e.th.place.role

/-- The oldest claim of a group's team on its core and role. -/
def olderClaim (e : Env) : Option Claim := (e.s.comb e.ck).rclaims.find? fun r => decide (r.tag = e.th.place.team * 64 + poolKeyOf e)

/-- Whether the next claim served is the group's own (R174). -/
def claimIsNext (e : Env) : Bool :=
  match olderClaim e with
  | some r => decide (r.uid = e.th.uid)
  | none => true

/-- What a waiting RCLAIM leaves: its claim stands in the order of issue. -/
def claimed (e : Env) : State :=
  if (e.s.comb e.ck).rclaims.any fun r => r.uid = e.th.uid then e.s
  else { e.s.modComb e.ck fun c => { c with rclaims := c.rclaims ++ [⟨e.th.uid, e.th.place.team * 64 + poolKeyOf e, e.s.nextUid⟩] } with nextUid := e.s.nextUid + 1 }

theorem exec_rgive (f : BForm) (s : State) : exec (.rgive f) s = execRgive f s := rfl

theorem exec_rclaim (f : BForm) (s : State) : exec (.rclaim f) s = issue s (ruleRclaim f) fun e =>
    if 128 < e.th.budget + f.aux.toNat % 256 then .fault ⟨codeREGRANGE, e.th.em, f.aux.toNat % 256, 1⟩
    else if claimIsNext e && decide (f.aux.toNat % 256 ≤ (poolOf e.s e.ck e.th.place.team (poolKeyOf e)).getD 0) then
      e.out ((e.s.pool e.ck e.th.place.team (poolKeyOf e) (· - f.aux.toNat % 256)).modComb e.ck fun c =>
          { c with rclaims := c.rclaims.filter fun r => decide (r.uid ≠ e.th.uid) })
        { e.th with budget := e.th.budget + f.aux.toNat % 256 }
    else .wait (claimed e) { e.th with wait := .rclaim (f.aux.toNat % 256) } := by
  have hpool (e : Env) : (match Sparse.find? (e.s.comb e.ck).teams e.th.place.team with
      | some t => Sparse.get 0 t.pools (poolKeyOf e)
      | none => 0) = (poolOf e.s e.ck e.th.place.team (poolKeyOf e)).getD 0 := by
    unfold poolOf
    split <;> simp [*]
  simp only [← hpool]
  rfl

/-- Settles O12: the pool of a team takes what a group gives and gives what it claims; a claim that is not served stands in line. -/
theorem registerBudget : Obligations.RegisterBudget := by
  intro f n key pool older next
  refine ⟨.of_body fun s => ⟨_, exec_rgive f s, ?give⟩, .of_body fun s => ⟨_, exec_rgive f s, fun e he => if_pos he⟩,
    fun p => .of_body fun s => ⟨_, exec_rclaim f s, ?claim⟩, .of_body fun s => ⟨_, exec_rclaim f s, ?behind⟩,
    .of_body fun s => ⟨_, exec_rclaim f s, ?short⟩, .of_body fun s => ⟨_, exec_rclaim f s, fun e he => if_pos he⟩⟩
  case give =>
    intro e he
    refine ⟨_, if_neg (Nat.not_lt.2 he), rfl, rfl, rfl, fun t ht => ?_⟩
    have hold : poolOf e.s e.ck e.th.place.team (key e) = some (Sparse.get 0 t.pools (key e)) := congrArg (Option.map _) ht
    change poolOf _ e.ck e.th.place.team (key e) = _
    rw [poolOf_modComb, poolOf_pool, hold, Option.map_some]
    exact fun _ => rfl
  case claim =>
    rintro e ⟨hle, hnext, hpool, hn⟩
    have hfirst : claimIsNext e = true := by
      unfold claimIsNext
      split
      · next r hr => exact decide_eq_true (hnext r hr)
      · rfl
    have hold : poolOf e.s e.ck e.th.place.team (poolKeyOf e) = some p := hpool
    have hroom : n ≤ (poolOf e.s e.ck e.th.place.team (poolKeyOf e)).getD 0 := by
      rw [hold]
      exact hn
    refine ⟨_, (if_neg (Nat.not_lt.2 hle)).trans (if_pos (Bool.and_eq_true_iff.2 ⟨hfirst, decide_eq_true hroom⟩)), rfl, rfl, rfl, ?_⟩
    change poolOf _ e.ck e.th.place.team (poolKeyOf e) = _
    rw [poolOf_modComb, poolOf_pool, hold, Option.map_some]
    exact fun _ => rfl
  case behind =>
    rintro e ⟨hle, r, hr, huid⟩
    have hfirst : claimIsNext e = false := by
      rw [claimIsNext, show olderClaim e = some r from hr]
      exact decide_eq_false huid
    exact ⟨_, _, (if_neg (Nat.not_lt.2 hle)).trans (if_neg fun h => Bool.false_ne_true (hfirst.symm.trans (Bool.and_eq_true_iff.1 h).1)), rfl⟩
  case short =>
    rintro e ⟨hle, hpool, hn⟩
    have hroom : ¬ n ≤ (poolOf e.s e.ck e.th.place.team (poolKeyOf e)).getD 0 := by
      cases hp : poolOf e.s e.ck e.th.place.team (poolKeyOf e) with
      | some p => exact Nat.not_le.2 (hpool p hp)
      | none => exact Nat.not_le.2 hn
    exact ⟨_, _, (if_neg (Nat.not_lt.2 hle)).trans (if_neg fun h => hroom (of_decide_eq_true (Bool.and_eq_true_iff.1 h).2)), rfl⟩

end Sys2Proof.Proofs
end

section
namespace Sys2Proof.Proofs
open Sys2Proof Sys2Proof.Machine

/-! # The group window (R186 to R193) -/

/-! ## WINSEL, WINRD and WINWR -/

/-- The slot that WINSEL selects (R187). -/
def selectedSlot (f : SForm) (e : Env) : Nat := (if f.sub.getLsbD 0 then f.imm.toNat else (e.read32 f.a 0).toNat) % 64

theorem exec_winsel (f : SForm) (s : State) : exec (.winsel f) s = issue s (ruleWinsel f) fun e =>
    .ok ⟨e.s.modComb e.ck fun c => { c with steward := { c.steward with winsel := some (selectedSlot f e) } }, e.th,
      e.write32 f.d false [(0, slotCode ((Sparse.find? (e.s.comb e.ck).groups (selectedSlot f e)).map fun th => (selectedSlot f e, th)))], 0, none, .seq⟩ := rfl

/-- The value that WINWR writes (R189). -/
def writtenValue (f : SForm) (e : Env) : DWord := if f.sub.getLsbD 1 then e.read64 f.c 0 else (e.read32 f.c 0).setWidth 64

theorem exec_winwr (f : SForm) (s : State) : exec (.winwr f) s = issue s (ruleWinwr f) fun e =>
    match e.selected with
    | some (k, th) =>
      if th.stopped then
        e.out (e.s.modComb e.ck fun c => { c with groups := Sparse.put c.groups k (winWrite (th.settle e.t) (winIdx e f).1 (winIdx e f).2 (writtenValue f e) (f.sub.getLsbD 1)) }) e.th
      else e.done []
    | none => e.done [] := rfl

/-- What the window shows at an index and a lane of the selected group, when it is stopped, and 0 otherwise (R189). -/
def windowValue (e : Env) (idx lane : Nat) : DWord :=
  match e.selected with
  | some (k, th) => if th.stopped then winRead e k (th.settle e.t) idx lane else 0
  | none => 0

theorem windowValue_of_stopped {e : Env} {k : Nat} {th : Thread} (h : e.selected = some (k, th)) (hst : th.stopped = true) (idx lane : Nat) :
    windowValue e idx lane = winRead e k (th.settle e.t) idx lane := by
  simp only [windowValue, h, hst, if_true]

theorem windowValue_of_not_stopped {e : Env} (h : ∀ k th, e.selected = some (k, th) → th.stopped = false) (idx lane : Nat) :
    windowValue e idx lane = 0 := by
  unfold windowValue
  split
  · next k th hsel => rw [h k th hsel]; rfl
  · rfl

theorem exec_winrd_32 {f : SForm} (hw : f.sub.getLsbD 1 = false) (s : State) : exec (.winrd f) s = issue s (ruleWinrd f) fun e =>
    e.done (e.write32 f.d false [(0, (windowValue e (winIdx e f).1 (winIdx e f).2).setWidth 32)]) := by
  show execWinrd f s = _
  simp only [execWinrd, hw, Bool.false_eq_true, if_false]
  rfl

theorem exec_winrd_64 {f : SForm} (hw : f.sub.getLsbD 1 = true) (s : State) : exec (.winrd f) s = issue s (ruleWinrd f) fun e =>
    e.done (e.write64 f.d [(0, if (winIdx e f).1 = 0x0DC ∨ (winIdx e f).1 = 0x0DD ∨ (winIdx e f).1 = 0x201 then
      windowValue e (winIdx e f).1 (winIdx e f).2 else ((windowValue e (winIdx e f).1 (winIdx e f).2).setWidth 32).setWidth 64)]) := by
  show execWinrd f s = _
  simp only [execWinrd, hw, if_true]
  rfl

theorem groupWindow : Claim.GroupWindow := by
  intro f slot w64 stopped idx lane
  refine ⟨.of_body fun s => ⟨_, exec_winsel f s, ?select⟩, fun hw k th => .of_body fun s => ⟨_, exec_winrd_32 hw s, ?read32⟩,
    fun hw k th => .of_body fun s => ⟨_, exec_winrd_64 hw s, ?read64⟩, fun hw => .of_body fun s => ⟨_, exec_winrd_32 hw s, ?readNone⟩,
    fun k th => .of_body fun s => ⟨_, exec_winwr f s, ?write⟩, .of_body fun s => ⟨_, exec_winwr f s, ?writeNone⟩⟩
  case select =>
    intro e _
    refine ⟨_, rfl, rfl, ?_, rfl, ?_⟩
    · rw [State.comb_modComb_self]
      rfl
    · change e.write32 f.d false [(0, slotCode ((Sparse.find? (e.s.comb e.ck).groups (slot e)).map _))] = _
      cases Sparse.find? (e.s.comb e.ck).groups (slot e) <;> rfl
  case read32 =>
    rintro e ⟨hsel, hst⟩
    rw [windowValue_of_stopped hsel hst]
  case read64 =>
    rintro e ⟨hsel, hst⟩
    rw [windowValue_of_stopped hsel hst]
  case readNone =>
    intro e he
    rw [windowValue_of_not_stopped he]
    rfl
  case write =>
    rintro e ⟨hsel, hst⟩
    simp only [hsel, hst, if_true]
    refine ⟨_, rfl, rfl, rfl, rfl, ?_⟩
    rw [State.comb_modComb_self]
    exact Sparse.find?_put_self _ _ _
  case writeNone =>
    intro e he
    split
    · next k th hsel => rw [he k th hsel]; rfl
    · rfl

/-! ## GRESUME and GKILL -/

/-- The machine after GRESUME of the selected group (R190, R353). -/
def resumedSelected (e : Env) (skip : Bool) : State :=
  match e.selected with
  | some (k, th) => if e.s.mayResume e.ck th then e.s.resumeGroup e.ck k (th.settle e.t) skip e.t else e.s
  | none => e.s

/-- The effect of GRESUME and GKILL: a machine, and the code of the slot as it was before (R187). -/
def withSlotCode (f : SForm) (e : Env) (s : State) : Out := ⟨s, e.th, e.write32 f.d false [(0, slotCode e.selected)], 0, none, .seq⟩

theorem exec_gresumeReplay (f : SForm) (s : State) : exec (.gresumeReplay f) s = issue s (gresumeRule f) fun e =>
    .ok (withSlotCode f e (resumedSelected e false)) := rfl

theorem exec_gresumeSkip (f : SForm) (s : State) : exec (.gresumeSkip f) s = issue s (gresumeRule f) fun e =>
    .ok (withSlotCode f e (resumedSelected e true)) := rfl

/-- The machine after GKILL of the selected group (R191). -/
def killedSelected (e : Env) : State :=
  match e.selected with
  | some (k, th) => e.s.gkill e.ck k th e.t
  | none => e.s

theorem exec_gkill (f : SForm) (s : State) : exec (.gkill f) s = issue s (ruleGkill f) fun e => .ok (withSlotCode f e (killedSelected e)) := rfl

/-- GRESUME acts on a stopped group whose context is not frozen, and on no other (R190, R353). -/
theorem mayResume_iff {s : State} {ck : Nat} {th : Thread} :
    s.mayResume ck th = true ↔ th.stopped = true ∧ ∀ c, th.place.ctx = some c → s.isFrozen ck c = false := by
  unfold State.mayResume
  cases th.place.ctx <;> simp

theorem resumedSelected_of_may {e : Env} {k : Nat} {th : Thread} (h : e.selected = some (k, th)) (hst : th.stopped = true)
    (hfrozen : ∀ c, th.place.ctx = some c → e.s.isFrozen e.ck c = false) (skip : Bool) :
    resumedSelected e skip = e.s.resumeGroup e.ck k (th.settle e.t) skip e.t := by
  simp only [resumedSelected, h, mayResume_iff.2 ⟨hst, hfrozen⟩, if_true]

theorem resumedSelected_of_mayNot {e : Env} (h : e.selected = none ∨ ∃ k th, e.selected = some (k, th) ∧
    (th.stopped = false ∨ ∃ c, th.place.ctx = some c ∧ e.s.isFrozen e.ck c = true)) (skip : Bool) : resumedSelected e skip = e.s := by
  obtain hnone | ⟨k, th, hsel, hnot⟩ := h
  · simp only [resumedSelected, hnone]
  · have hmay : ¬ e.s.mayResume e.ck th = true := fun hm => by
      obtain ⟨hst, hfrozen⟩ := mayResume_iff.1 hm
      obtain hrun | ⟨c, hc, hfr⟩ := hnot
      · exact absurd (hrun.symm.trans hst) Bool.false_ne_true
      · exact absurd ((hfrozen c hc).symm.trans hfr) Bool.false_ne_true
    simp only [resumedSelected, hsel, hmay, Bool.false_eq_true, if_false]

/-- A group that has returned from its trap, before its checks (R190). -/
def resumedThread (th : Thread) (now : Nat) : Thread :=
  { th with stopped := false, undisp := false, wait := .none, full := false, runLen := 0, fuse := none, issueAt := Nat.max th.issueAt (now + 1), readyAt := now + 1, pc := th.trap.tpc }

theorem resumeGroup_replay {th : Thread} (hpc : th.trap.tpc.toNat % 4 = 0) (hlm : th.lm ≠ 0) (hloops : loopsOk th.cd th.loops = true)
    (s : State) (ck k now : Nat) : s.resumeGroup ck k th false now = s.setThread (.group (keyDie ck) (keyComb ck) k) (resumedThread th now) := by
  simp only [State.resumeGroup, hloops, hpc, hlm, Bool.not_true, Bool.false_eq_true, if_false, ne_eq, not_true_eq_false]
  rfl

theorem resumeGroup_skip {th : Thread} (hpc : (endStep th.cd th.loops th.trap.tpc).2.toNat % 4 = 0) (hlm : th.lm ≠ 0)
    (hloops : loopsOk th.cd th.loops = true) (s : State) (ck k now : Nat) : s.resumeGroup ck k th true now =
      s.setThread (.group (keyDie ck) (keyComb ck) k) { (resumedThread th now).advance with entryLand := false } := by
  simp only [State.resumeGroup, hloops, Thread.advance, hpc, hlm, Bool.not_true, Bool.false_eq_true, if_false, if_true, ne_eq, not_true_eq_false]
  rfl

/-! ## Where the step of the loops goes on (R171) -/

/-- Behind an instruction at which no loop of this depth ends, the PC moves on. -/
theorem endStep_of_no_end {cd : BitVec 4} {loops : List LoopEnt} {pc : DWord}
    (h : ∀ x ∈ loops, x.valid = true → x.depth = cd → x.endPc ≠ pc.setWidth 32) : endStep cd loops pc = (loops, pc + 12) := by
  have hr : endStepRev cd (pc.setWidth 32) loops.reverse = (loops.reverse, none) := by
    refine endStepRev_of_no_end fun x hx => ?_
    by_cases hv : x.valid = true
    · by_cases hd : x.depth = cd
      · exact .inr (.inl (h x (List.mem_reverse.1 hx) hv hd))
      · exact .inr (.inr hd)
    · exact .inl (Bool.not_eq_true _ ▸ hv)
  simp only [endStep, hr, List.reverse_reverse]

/-- The innermost loop, where it ends here, starts over until its count is used up; then it is left and the outer ones decide. -/
theorem endStep_of_end {cd : BitVec 4} (outer : List LoopEnt) {x : LoopEnt} {pc : DWord} (hv : x.valid = true) (hd : x.depth = cd)
    (he : x.endPc = pc.setWidth 32) : endStep cd (outer ++ [x]) pc =
      if 1 < x.count.toNat then (outer ++ [{ x with count := x.count - 1 }], BitVec.ofNat 64 (pc.toNat / 2 ^ 32 * 2 ^ 32 + x.start.toNat))
      else ((endStep cd outer pc).1 ++ [{ x with valid := false }], (endStep cd outer pc).2) := by
  have hr : endStepRev cd (pc.setWidth 32) (outer ++ [x]).reverse =
      if 1 < x.count.toNat then ({ x with count := x.count - 1 } :: outer.reverse, some x.start)
      else ({ x with valid := false } :: (endStepRev cd (pc.setWidth 32) outer.reverse).1, (endStepRev cd (pc.setWidth 32) outer.reverse).2) := by
    rw [List.reverse_append, List.reverse_singleton, List.singleton_append, endStepRev, if_pos hv, if_pos ⟨hd, he⟩]
  simp only [endStep, hr]
  split <;> simp only [List.reverse_cons, List.reverse_reverse]

theorem resumeAndKill : Claim.ResumeAndKill := by
  intro f d may mayNot resumed
  have resumes {i : Instr} {skip : Bool} (hx : ∀ s, exec i s = issue s (gresumeRule f) fun e => .ok (withSlotCode f e (resumedSelected e skip)))
      (k : Nat) (th : Thread) : Completes i (gresumeRule f) (may k th) (resumed skip k th) := by
    refine .of_body fun s => ⟨_, hx s, fun e he => ⟨_, rfl, rfl, ?_⟩⟩
    obtain ⟨hsel, hst, hfrozen⟩ := he
    rw [resumedSelected_of_may hsel hst hfrozen]
    rfl
  have stays {i : Instr} {skip : Bool} (hx : ∀ s, exec i s = issue s (gresumeRule f) fun e => .ok (withSlotCode f e (resumedSelected e skip))) :
      Writes i (gresumeRule f) mayNot d :=
    .of_body fun s => ⟨_, hx s, fun e he => congrArg (fun s => Eff.ok (withSlotCode f e s)) (resumedSelected_of_mayNot he skip)⟩
  refine ⟨resumes (exec_gresumeReplay f), resumes (exec_gresumeSkip f), stays (exec_gresumeReplay f), stays (exec_gresumeSkip f),
    fun k th => .of_body fun s => ⟨_, exec_gkill f s, ?kill⟩, fun k th => .of_body fun s => ⟨_, exec_gkill f s, ?killRun⟩,
    fun k th => .of_body fun s => ⟨_, exec_gkill f s, ?killEnding⟩, .of_body fun s => ⟨_, exec_gkill f s, ?killNone⟩,
    fun s ck k th now hpc hlm hloops => ?replay, fun s ck k th now => ?skip,
    fun cd loops pc => endStep_of_no_end, fun cd outer x pc => endStep_of_end outer⟩
  case kill =>
    rintro e ⟨hsel, hrun, hend⟩
    refine ⟨_, rfl, rfl, ?_⟩
    simp only [killedSelected, hsel, State.gkill, hrun, hend, Bool.false_eq_true, if_false]
    rfl
  case killRun =>
    rintro e ⟨hsel, hrun⟩
    refine ⟨_, rfl, rfl, ?_⟩
    simp only [killedSelected, hsel, State.gkill, hrun, if_true]
    rfl
  case killEnding =>
    rintro e ⟨hsel, hrun, hend⟩
    simp only [killedSelected, hsel, State.gkill, hrun, hend, Bool.false_eq_true, if_false, if_true]
    rfl
  case killNone =>
    intro e hnone
    simp only [killedSelected, hnone]
    rfl
  case replay =>
    rw [resumeGroup_replay hpc hlm hloops]
    exact ⟨_, State.thread_setThread_group .., rfl, rfl, rfl, rfl, rfl, rfl, rfl⟩
  case skip =>
    intro go hpc hlm hloops
    rw [resumeGroup_skip hpc hlm hloops]
    exact ⟨_, State.thread_setThread_group .., rfl, rfl, rfl, rfl, rfl, rfl, rfl, rfl⟩

/-- Settles O13: the window reads and writes a stopped group alone; resumption and kill by the state of the selected group. -/
theorem stoppedGroups : Obligations.StoppedGroups := ⟨groupWindow, resumeAndKill⟩

end Sys2Proof.Proofs
end

section
namespace Sys2Proof.Proofs
open Sys2Proof Sys2Proof.Machine

/-! # The steward's firmware (R181 to R184, R306, R356, R358, R390) -/

/-! ## Records -/

theorem isStewMsg_of_kind_ne {r : EvRec} (h : r.kind ≠ 6) (code : Nat) : r.isStewMsg code = false := by
  simp only [EvRec.isStewMsg, h, decide_false, Bool.false_and]

theorem acts_iff {r : EvRec} : r.acts = true ↔ r.kind = 1 ∨ r.kind = 8 := by
  simp only [EvRec.acts, Bool.or_eq_true, decide_eq_true_eq]

/-- TRAP and ENGFAULT are no STEWMSG. -/
theorem isStewMsg_of_acts {r : EvRec} (h : r.acts = true) (code : Nat) : r.isStewMsg code = false :=
  isStewMsg_of_kind_ne (by have := acts_iff.1 h; omega) code

theorem forFirmware_of_acts {r : EvRec} (h : r.acts = true) : r.forFirmware = true := by
  rw [EvRec.forFirmware, h, Bool.true_or]

/-- Only TRAP and ENGFAULT records are kept (R359). -/
theorem acts_of_keeps {s : State} {ck : Nat} {r : EvRec} (h : s.keeps ck r = true) : r.acts = true := (Bool.and_eq_true_iff.1 h).1

/-! ## What the firmware does with a record -/

/-- What the firmware does with a TRAP or ENGFAULT record that it has popped (R181, R306, R390). -/
def actedOn (s : State) (ck : Nat) (r : EvRec) : Host.Outcome State Fault Refusal :=
  match r.kind with
  | 1 =>
    if r.src = 0xFF then .next (s.reportTrap r.ctxid r.trapRegs)
    else match Sparse.find? (s.comb ck).groups r.src with
    | none => .next s
    | some th =>
      if th.stopped ∧ th.undisp ∧ th.place.ctx = some r.ctxid then
        let th := { th with undisp := false }
        .next ((s.modComb ck fun c => { c with groups := Sparse.put c.groups r.src th }).dispatchTrap ck r.src th r.ctxid)
      else .next s
  | 8 => if r.w1.toNat / 256 % 4 = 3 then .next (s.dispatchStream ck r) else .next s
  | _ => .next s

theorem actedOn_commit {s : State} {ck : Nat} {r : EvRec} (hk : r.kind = 1) (hsrc : r.src = 0xFF) :
    actedOn s ck r = .next (s.reportTrap r.ctxid r.trapRegs) := by
  simp only [actedOn, hk, hsrc, if_true]

theorem actedOn_group {s : State} {ck : Nat} {r : EvRec} {th : Thread} (hk : r.kind = 1) (hsrc : r.src ≠ 0xFF)
    (hth : Sparse.find? (s.comb ck).groups r.src = some th) (hst : th.stopped = true) (hun : th.undisp = true) (hctx : th.place.ctx = some r.ctxid) :
    actedOn s ck r = .next ((s.modComb ck fun c => { c with groups := Sparse.put c.groups r.src { th with undisp := false } }).dispatchTrap ck r.src
      { th with undisp := false } r.ctxid) := by
  simp only [actedOn, hk, hsrc, hth, hst, hun, hctx, and_self, if_true, if_false]

theorem actedOn_stream {s : State} {ck : Nat} {r : EvRec} (hk : r.kind = 8) (hsrc : r.w1.toNat / 256 % 4 = 3) :
    actedOn s ck r = .next (s.dispatchStream ck r) := by
  simp only [actedOn, hk, hsrc, if_true]

section
variable {s : State} {die comb : Nat} {r : EvRec} (hr : s.headRecord (combKey die comb) = some r)
include hr

/-- A record of a frozen context is kept (R359). -/
theorem exec_trapRecordDispatch_kept (hk : s.keeps (combKey die comb) r = true) : exec (.trapRecordDispatch die comb) s =
    .next ((s.popRecord (combKey die comb) r).modComb (combKey die comb) fun c => { c with steward := { c.steward with kept := c.steward.kept ++ [r] } }) := by
  have ha := acts_of_keeps hk
  simp only [exec, execTrapRecordDispatch, hr, isStewMsg_of_acts ha, forFirmware_of_acts ha, hk, Bool.or_self, Bool.true_or, Bool.not_true,
    Bool.false_eq_true, if_false, if_true]

/-- Any other TRAP or ENGFAULT record is popped and acted on (R181, R306). -/
theorem exec_trapRecordDispatch_acts (ha : r.acts = true) (hk : s.keeps (combKey die comb) r = false) :
    exec (.trapRecordDispatch die comb) s = actedOn (s.popRecord (combKey die comb) r) (combKey die comb) r := by
  simp only [exec, execTrapRecordDispatch, hr, isStewMsg_of_acts ha, forFirmware_of_acts ha, hk, Bool.or_self, Bool.true_or, Bool.not_true,
    Bool.false_eq_true, if_false]
  rfl

/-- A queue without a record for the firmware is left as it is (R358). -/
theorem exec_trapRecordDispatch_idle (hf : r.forFirmware = false) (hq : ∀ x ∈ (s.comb (combKey die comb)).evq, x.forFirmware = false) :
    exec (.trapRecordDispatch die comb) s = .next s := by
  have hany : (s.comb (combKey die comb)).evq.any EvRec.forFirmware = false := List.any_eq_false.2 fun x hx => by rw [hq x hx]; exact Bool.false_ne_true
  simp only [exec, execTrapRecordDispatch, hr, hf, hany, Bool.or_self, Bool.not_false, if_true, ite_self]

theorem exec_debugContinue_of_record (hm : r.isStewMsg 5 = true) : exec (.debugContinue die comb) s =
    .next ((s.popRecord (combKey die comb) r).debugResume (combKey die comb) (r.w2.toNat % 64) (r.w2.getLsbD 8)) := by
  simp only [exec, execDebugContinue, hr, hm, if_true]

/-- A teardown asked by the hive controller removes the context from the comb (R356). -/
theorem exec_contextTeardown_of_controller (hm : r.isStewMsg 4 = true) (hb : r.w1.getLsbD 8 = true) : exec (.contextTeardown die comb) s =
    .next ((((s.popRecord (combKey die comb) r).clearCtx (combKey die comb) (r.w2.toNat % 256)).tornDown die comb (r.w2.toNat % 256)).dropCur) := by
  simp only [exec, execContextTeardown, hr, hm, hb, if_true]

/-- A teardown asked by the driver ends the context at the launch station (R356). -/
theorem exec_contextTeardown_of_driver (hm : r.isStewMsg 4 = true) (hb : r.w1.getLsbD 8 = false)
    (hd : (s.popRecord (combKey die comb) r).liveDies.head? = some die) (hl : combKey die comb = (s.popRecord (combKey die comb) r).lkey die 0) :
    exec (.contextTeardown die comb) s = .next ((s.popRecord (combKey die comb) r).endContext (r.w2.toNat % 256) 5 0 0) := by
  simp only [exec, execContextTeardown, hr, hm, hb, Bool.false_eq_true, if_true, if_false]
  exact if_pos ⟨hd, hl⟩

end

/-- A handler over its time ends (R184). -/
theorem exec_handlerTimeLimit_over {s : State} {die comb : Nat} {h : Handler} (hh : (s.comb (combKey die comb)).steward.handler = some h)
    (hover : handlerLimit < (s.comb (combKey die comb)).clk - h.began) :
    let t := s.endHandler (combKey die comb) 2 0 0
    exec (.handlerTimeLimit die comb) s = .next (if t.cur = some (.steward die comb) then { t with cur := none } else t) := by
  simp only [exec, execHandlerTimeLimit, hh, hover, if_true]

theorem firmwareEvents : Claim.FirmwareEvents := by
  intro s die comb r ck popped
  refine ⟨fun hr => ⟨fun th hk hsrc hkeep hth hst hun hctx => ?group, fun hk hsrc hkeep => ?commit, exec_trapRecordDispatch_idle hr,
    fun hk hkeep hsrc => ?stream, exec_trapRecordDispatch_kept hr, exec_debugContinue_of_record hr, exec_contextTeardown_of_controller hr,
    exec_contextTeardown_of_driver hr⟩, fun h => exec_handlerTimeLimit_over⟩
  case group => exact (exec_trapRecordDispatch_acts hr (acts_iff.2 (.inl hk)) hkeep).trans (actedOn_group hk hsrc hth hst hun hctx)
  case commit => exact (exec_trapRecordDispatch_acts hr (acts_iff.2 (.inl hk)) hkeep).trans (actedOn_commit hk hsrc)
  case stream => exact (exec_trapRecordDispatch_acts hr (acts_iff.2 (.inr hk)) hkeep).trans (actedOn_stream hk hsrc)

/-! ## The user handler -/

/-- What a user handler is called with in s0 to s7 (R182). -/
def handlerArgs (slot : Nat) (th : Thread) (x : CtxRec) : List Word :=
  [BitVec.ofNat 32 slot, th.trap.tcause, th.trap.tpc.setWidth 32, hiWord th.trap.tpc, th.trap.tmask, th.trap.tval, x.arg.setWidth 32, hiWord x.arg]

/-- The steward that stands at a user handler (R181, R182). -/
theorem steward_callHandler (s : State) (ck slot : Nat) (th : Thread) (ctx : Nat) (x : CtxRec) :
    let st := ((s.callHandler ck slot th ctx x).comb ck).steward
    st.th.pc = x.handler ∧ st.th.stopped = false ∧ st.winsel = some slot ∧ st.ctx = some ctx ∧ st.handler.isSome = true ∧ st.th.cd = 1 ∧
      ∀ k, k < 8 → Sparse.get 0 st.th.s k = (handlerArgs slot th x).getD k 0 := by
  unfold State.callHandler
  extract_lets args ret s1 st
  have hst : st = (s1.comb ck).steward := rfl
  rw [State.comb_modComb_self] at hst
  clear_value st
  subst hst
  refine ⟨rfl, rfl, rfl, rfl, rfl, rfl, fun k hk => ?_⟩
  have hread := get_foldl_zip_range' 8 k args 0 8 ((s.comb ck).steward.th.flights.foldl Thread.land (s.comb ck).steward.th).s
  rw [if_pos ⟨Nat.zero_le k, by omega, hk⟩] at hread
  exact hread.trans ((List.getD_eq_getElem args _ hk).trans (List.getD_eq_getElem (handlerArgs slot th x) 0 hk).symm)

theorem userTraps : Claim.UserTraps := by
  intro s ck slot ctx th x hx t
  have ht : t = if x.causes.getLsbD th.trap.tcause.toNat then s.callHandler ck slot th ctx x
      else (s.reportTrap ctx th.trap).endContext ctx 1 th.trap.tcause.toNat (th.trap.tpc.toNat % 2 ^ 32) := by
    simp only [t, State.userTrap, hx]
  refine ⟨fun hmask => ?_, fun hmask => ?_⟩
  · rw [ht, if_pos hmask]
    obtain ⟨hpc, hst, hsel, hctx, hh, hcd, hargs⟩ := steward_callHandler s ck slot th ctx x
    refine ⟨hpc, hst, hsel, hctx, hh, hcd, (List.map_congr_left fun k hk => hargs k ?_).trans rfl⟩
    have := List.mem_range.1 hk
    omega
  · rw [ht, hmask]
    rfl

/-! ## A context torn down -/

/-- The parts of a comb that the freeing of teams and table slots leaves. -/
def ctxParts (c : Comb) := (c.groups, c.ops, c.parked, c.ready, c.banks, c.dtlb)

/-- What a comb without a context keeps: of each kind what is not the context's (R356). -/
theorem withoutCtx_parts (c : Comb) (ctx : Nat) :
    let d := c.withoutCtx ctx
    d.groups = c.groups.filter (fun g => !decide (g.2.place.ctx = some ctx)) ∧ d.ops = c.ops.filter (fun o => decide (o.ctx ≠ ctx)) ∧
    d.parked = c.parked.filter (fun m => decide (m.ctx ≠ ctx)) ∧ d.ready = c.ready.filter (fun e => decide (e.ctx ≠ ctx)) ∧
    d.banks = c.banks.map (fun b => if b.mode = .fifo ∧ b.owner = ctx then Bank.ofMode .off else b) ∧
    d.dtlb = c.dtlb.filter (fun e => decide (e.ctx ≠ ctx)) ∧
    ∃ qs : List (Nat × Seq), d.seqs = qs.filter fun q => !decide (q.2.th.place.ctx = some ctx) := by
  unfold Comb.withoutCtx
  extract_lets gone uids qs c1 teams c2 c3 slots c4
  have hslots : ctxParts c4 = ctxParts c3 := view_foldl ctxParts (f := fun (c : Comb) k => c.freeTableSlot k) (fun _ _ => rfl) slots c3
  have hteams : ctxParts c2 = ctxParts c1 := view_foldl ctxParts (f := fun (c : Comb) (t : Nat × Team) => c.freeTeam t.1 t.2) (fun _ _ => rfl) teams c1
  have hseqs : c4.seqs = c3.seqs := view_foldl Comb.seqs (f := fun (c : Comb) k => c.freeTableSlot k) (fun _ _ => rfl) slots c3
  obtain ⟨hgroups, hops, hparked, hready, hbanks, hdtlb⟩ : _ ∧ _ ∧ _ ∧ _ ∧ _ ∧ _ := by
    simpa only [ctxParts, Prod.mk.injEq] using hslots.trans hteams
  exact ⟨hgroups, hops, hparked, hready, congrArg (List.map _) hbanks, congrArg (List.filter _) hdtlb, c2.seqs, hseqs⟩

/-- What stands in a list that is a filtered one meets the filter. -/
theorem holds_of_eq_filter {α : Type} {l m : List α} {p : α → Bool} (h : l = m.filter p) {x : α} (hx : x ∈ l) : p x = true :=
  List.of_mem_filter (h ▸ hx)

theorem tornDownComb : Claim.TornDownComb := by
  intro c ctx d
  obtain ⟨hgroups, hops, hparked, hready, hbanks, hdtlb, qs, hseqs⟩ := withoutCtx_parts c ctx
  refine ⟨fun g hg => of_decide_eq_false ?_, fun o ho => of_decide_eq_true (holds_of_eq_filter hops ho),
    fun m hm => of_decide_eq_true (holds_of_eq_filter hparked hm), fun e he => of_decide_eq_true (holds_of_eq_filter hready he), fun b hb => ?_,
    fun e he => of_decide_eq_true (holds_of_eq_filter hdtlb he), fun q hq => of_decide_eq_false ?_⟩
  · exact Bool.not_eq_true' _ ▸ holds_of_eq_filter hgroups hg
  · obtain ⟨b', -, rfl⟩ := List.mem_map.1 (hbanks ▸ hb)
    split
    · exact fun h => absurd h.1 (by decide)
    · assumption
  · exact Bool.not_eq_true' _ ▸ holds_of_eq_filter hseqs hq

/-- Settles O41: each event by the record the firmware takes, the call of a handler by the registers it sets, and the teardown part by
part of the comb. -/
theorem firmwareActions : Obligations.FirmwareActions := ⟨firmwareEvents, userTraps, tornDownComb⟩

end Sys2Proof.Proofs
end

section
namespace Sys2Proof.Proofs
open Sys2Proof Sys2Proof.Machine

/-! # Retirement (R211, R213, R453, R455) -/

/-! ## What finds a retirement -/

theorem exec_retireRequest {s : State} {die : Nat} (hl : (s.die die).live = true) (hd : die < 36) (oc : Option Nat) :
    exec (.retireRequest die oc) s = .next (s.found die oc 3) := if_pos ⟨hl, hd⟩

theorem exec_heartbeatMiss_early {s : State} {die : Nat} (h : (s.die die).missed + 1 < 3) (ok : Bool) :
    exec (.heartbeatMiss die ok) s = .next (s.modDie die fun d => { d with missed := (s.die die).missed + 1 }) := if_pos h

/-- The third heartbeat missed in a row and a probe that fails find a live die dead (R455). -/
theorem exec_heartbeatMiss_dead {s : State} {die : Nat} (h : 3 ≤ (s.die die).missed + 1) (hl : (s.die die).live = true) (hd : die < 36) :
    exec (.heartbeatMiss die false) s = .next ((s.modDie die fun d => { d with missed := 0 }).found die none 1) := by
  have hlive : ((s.modDie die fun d => { d with missed := 0 }).die die).live = true := (congrArg Die.live (State.die_modDie_self ..)).trans hl
  exact (if_neg h.not_gt).trans (if_neg (by simp only [hlive]; simpa using hd))

/-- Sixteen uncorrectable errors of a comb within a second, all acted on, find it dead (R455). -/
theorem combErrs_of_sixteen {s : State} {ck : Nat} (hall : (s.comb ck).errs.all (·.handled) = true)
    (h16 : 16 ≤ ((s.comb ck).errs.filter fun e => !e.corrected).length) :
    s.combErrs ck = (s.modComb ck fun c => { c with errs := [] }).found (keyDie ck) (some (keyComb ck)) 2 := by
  have hnone : (s.comb ck).errs.filter (fun e => !e.handled) = [] := by
    simpa [List.filter_eq_nil_iff] using hall
  simp only [State.combErrs, hnone, List.foldl_nil, if_pos h16]

/-! ## What applies one -/

theorem no_unhandled {s : State} (h : (s.combs.all fun c => c.2.errs.all (·.handled)) = true) :
    s.combs.filter (fun c => c.2.errs.any fun e => !e.handled) = [] := by
  simpa [List.filter_eq_nil_iff] using h

section
variable {s : State} {die cause : Nat} {rest : List (Nat × Option Nat × Nat)}
  (hset : (s.combs.all fun c => c.2.errs.all (·.handled)) = true) (ho : s.oldMessage = false) (hl : (s.die die).live = true) (hd : die < 36)
include hset ho hl hd

/-- With the errors of every comb acted on, the next retirement of a live die is applied (R455). -/
theorem exec_retirement_of_die (hp : s.hive.pending = (die, none, cause) :: rest) : exec .retirement s =
    .next ((({ s with hive := { s.hive with pending := rest } } : State).retireDie die cause).mapOut cause) := by
  have hnone := no_unhandled hset
  have hlive : ¬ (!(s.die die).live || decide (36 ≤ die)) = true := by simpa [hl] using hd
  simp only [exec, execRetirement, hnone, List.map_nil, List.foldl_nil, hp, ho, Bool.false_eq_true, if_false]
  exact if_neg hlive

/-- So is that of a comb of a live die, unless the comb is dead already (R211, R455). -/
theorem exec_retirement_of_comb {comb : Nat} (hp : s.hive.pending = (die, some comb, cause) :: rest) (hcomb : comb < 156)
    (hcairn : ∀ x, Sparse.find? (s.die die).cairn comb = some x → x.dead = false) : exec .retirement s =
    .next ((({ s with hive := { s.hive with pending := rest } } : State).retireComb die comb cause).mapOut cause) := by
  have hnone := no_unhandled hset
  have hlive : ¬ (!(s.die die).live || decide (36 ≤ die)) = true := by simpa [hl] using hd
  have hdead : ¬ (decide (156 ≤ comb) || (Sparse.find? (s.die die).cairn comb).any (fun x => x.dead)) = true := by
    cases hx : Sparse.find? (s.die die).cairn comb with
    | none => simpa using hcomb
    | some x => simpa [hcairn x hx] using hcomb
  simp only [exec, execRetirement, hnone, List.map_nil, List.foldl_nil, hp, ho, Bool.false_eq_true, if_false]
  exact (if_neg hlive).trans (if_neg hdead)

end

/-- Settles O45: what finds a die or a comb dead, the retirement whose turn it is, and the loss of a port. -/
theorem retirements : Obligations.Retirements := by
  intro s die comb port met
  refine ⟨fun oc hl hd => exec_retireRequest hl hd oc, rfl, combErrs_of_sixteen, rfl, fun ok h => exec_heartbeatMiss_early h ok,
    exec_heartbeatMiss_dead, fun cause rest hset hp ho hl hd => exec_retirement_of_die hset ho hl hd hp,
    fun cause rest hset hp ho hl hd => exec_retirement_of_comb hset ho hl hd hp, fun hport hdown => if_neg ?_⟩
  rintro (hge | hin)
  · omega
  · exact absurd (hdown.symm.trans hin) (by decide)

end Sys2Proof.Proofs
end

section
namespace Sys2Proof.Proofs
open Sys2Proof Sys2Proof.Machine

/-! # Traps of memory accesses (R199, R237, R283, R292) -/

/-- The trap of the one lane of a vector instruction, with its address in TVAL (R185, R199). -/
def oneLaneTrap (code i x : Nat) : TrapInfo := ⟨code, laneMask [i], x % 2 ^ 32, x / 2 ^ 32⟩

theorem laneFault_nil (e : Env) (code : Nat) : e.laneFault code [] = none := rfl

section
variable {e : Env} {i : Nat} (hv : e.vec = true)
include hv

theorem laneFault_one (code x : Nat) : e.laneFault code [(i, x)] = some (oneLaneTrap code i x) := by
  simp [Env.laneFault, oneLaneTrap, hv]

/-- An address that translates to no page traps DPAGE (R199). -/
theorem laneAccs_of_no_page {acc : Access} {n : Nat → Nat} {align x : Nat} {atomic : Bool}
    (h : e.s.transBytes e.ck (e.s.agentCtx e.ag) x (n i) acc = .error codeDPAGE) :
    e.laneAccs acc n align atomic [(i, x)] = .error (oneLaneTrap codeDPAGE i x) := by
  simp [Env.laneAccs, h, laneFault_one hv, firstFault]

/-- A misaligned atomic on pages that are not of the host traps DALIGN (R292). -/
theorem laneAccs_of_misaligned {acc : Access} {n : Nat → Nat} {align x : Nat} {ls : Leaf × Leaf}
    (h : e.s.transBytes e.ck (e.s.agentCtx e.ag) x (n i) acc = .ok ls) (h1 : ls.1.place ≠ 3) (h2 : ls.2.place ≠ 3) (hx : x % align ≠ 0) :
    e.laneAccs acc n align true [(i, x)] = .error (oneLaneTrap codeDALIGN i x) := by
  simp [Env.laneAccs, h, h1, h2, hx, laneFault_nil, laneFault_one hv, firstFault]

/-- A scratch address past the comb's scratch traps SCRANGE (R237). -/
theorem scratchFault_of_out {x : Nat} (h : 2 ^ 21 ≤ x) (n align : Nat) :
    e.scratchFault n align [(i, x)] = some (oneLaneTrap codeSCRANGE i x) := by
  have hr : e.scRange x = true := by simp only [Env.scRange, decide_eq_true h, Bool.true_or]
  simp [Env.scratchFault, hr, laneFault_one hv, firstFault]

end

theorem each_one {α : Type} {e : Env} {i : Nat} (h : e.lanes = [i]) (g : Nat → α) : e.each g = [(i, g i)] := by
  simp [Env.each, h]

/-- An instruction whose body answers a fault that its check of an access meets. -/
def FaultsWith (i : Instr) (r : Rule) (check : Env → TrapInfo → Prop) : Prop :=
  ∀ s, ∃ body : Env → Eff, exec i s = issue s r body ∧ ∀ e t, check e t → body e = .fault t

theorem FaultsWith.traps {i : Instr} {r : Rule} {check : Env → TrapInfo → Prop} (h : FaultsWith i r check) {P : Env → Prop}
    {f : Env → TrapInfo} (hf : ∀ e, P e → check e (f e)) : Traps i r P f :=
  .of_body fun s =>
    have ⟨body, hx, hb⟩ := h s
    ⟨body, hx, fun e he => hb e _ (hf e he)⟩

section
variable (f : MForm)

theorem faults_ld : FaultsWith (.ld f) (ruleLd f) fun e t =>
    e.laneAccs .read (fun _ => sizeBytes f.size.toNat) (sizeBytes f.size.toNat) false (e.each (e.ea f)) = .error t := fun s => by
  dsimp only [exec, execLd]
  exact ⟨_, rfl, fun e t h => by simp only [Env.loadGlobal, h]⟩

theorem faults_st : FaultsWith (.st f) (ruleSt f) fun e t =>
    e.laneAccs .write (fun _ => sizeBytes f.size.toNat) (sizeBytes f.size.toNat) false (e.each (e.ea f)) = .error t := fun s => by
  dsimp only [exec, execSt]
  exact ⟨_, rfl, fun e t h => by simp only [h]⟩

theorem faults_atom : FaultsWith (.atom f) (ruleAtom f) fun e t =>
    e.laneAccs .write (fun _ => sizeBytes f.size.toNat) (sizeBytes f.size.toNat) true (e.each (e.ea f)) = .error t := fun s => by
  dsimp only [exec, execAtom]
  exact ⟨_, rfl, fun e t h => by simp only [Env.atomGlobal, h]⟩

theorem faults_ldsc : FaultsWith (.ldsc f) (ruleLdsc f) fun e t =>
    e.scratchFault (sizeBytes f.size.toNat) (sizeBytes f.size.toNat) (e.each (e.eaScratch f)) = some t := fun s => by
  dsimp only [exec, execLdsc]
  exact ⟨_, rfl, fun e t h => by simp only [Env.loadScratch, h]⟩

theorem faults_stsc : FaultsWith (.stsc f) (ruleStsc f) fun e t =>
    e.scratchFault (sizeBytes f.size.toNat) (sizeBytes f.size.toNat) (e.each (e.eaScratch f)) = some t := fun s => by
  dsimp only [exec, execStsc]
  exact ⟨_, rfl, fun e t h => by simp only [h]⟩

end

/-- Settles O22: the check of the one lane's access meets the fault, and the instruction's body answers it. -/
theorem memoryAccessTraps : Obligations.MemoryAccessTraps := by
  intro f i n one at' absent
  have noPage (acc : Access) (atomic : Bool) (e : Env) : absent acc e →
      e.laneAccs acc (fun _ => n) n atomic (e.each (e.ea f)) = .error (at' codeDPAGE (e.ea f i)) := by
    rintro ⟨⟨hi, hv⟩, ht⟩
    rw [each_one hi]
    exact laneAccs_of_no_page hv ht
  have outOfRange (e : Env) : one e ∧ 2 ^ 21 ≤ e.eaScratch f i →
      e.scratchFault n n (e.each (e.eaScratch f)) = some (at' codeSCRANGE (e.eaScratch f i)) := by
    rintro ⟨⟨hi, hv⟩, hx⟩
    rw [each_one hi]
    exact scratchFault_of_out hv hx n n
  refine ⟨(faults_ld f).traps (noPage .read false), (faults_st f).traps (noPage .write false), (faults_atom f).traps (noPage .write true),
    (faults_atom f).traps ?misaligned, (faults_ldsc f).traps outOfRange, (faults_stsc f).traps outOfRange⟩
  case misaligned =>
    rintro e ⟨⟨hi, hv⟩, hx, ls, ht, h1, h2⟩
    rw [each_one hi]
    exact laneAccs_of_misaligned hv ht h1 h2 hx

end Sys2Proof.Proofs
end

section
namespace Sys2Proof.Proofs
open Sys2Proof Sys2Proof.Machine

/-! # Lines of the L2 (R231 to R233, R249) -/

/-! ## Words at their homes -/

/-- The linear line of a number, empty where the L2 holds none. -/
def lineOf (s : State) (k : Nat) : Line := (Sparse.find? s.l2 k).getD Line.empty

theorem wordValid_eq (s : State) (w : Nat) : s.wordValid w = (lineOf s (w / 32)).valid.getLsbD (w % 32) := by
  unfold State.wordValid lineOf
  split <;> simp [*, Line.empty]

theorem wordNow_eq (s : State) (w : Nat) :
    s.wordNow w = if (lineOf s (w / 32)).valid.getLsbD (w % 32) then (lineOf s (w / 32)).word (w % 32) else s.hbmWord w := by
  unfold State.wordNow lineOf
  split <;> simp [*, Line.empty]

/-- Words stand, and are valid, where their lines and HBM's words stand. -/
theorem word_congr {s t : State} {w : Nat} (hl : Sparse.find? t.l2 (w / 32) = Sparse.find? s.l2 (w / 32)) (hm : t.hbmWord w = s.hbmWord w) :
    t.wordNow w = s.wordNow w ∧ t.wordValid w = s.wordValid w := by
  simp only [State.wordNow, State.wordValid, hl, hm, and_self]

/-! ## Filled lines (R232, R249) -/

/-- Whether a fill of the first `n` words of a line brings a word: it was invalid, and HBM holds it without an error. -/
def fillBrings (s : State) (base : Nat) (l : Line) (n i : Nat) : Bool :=
  decide (i < n) && !l.valid.getLsbD i && !s.badAt (32 * base + i) 0

/-- A fill brings the words it may bring and leaves the others (R232, R249). -/
theorem fillWords_word (s : State) (base : Nat) (l : Line) (i : Nat) (hi : i < 32) : ∀ n,
    (fillWords s base l n).valid.getLsbD i = (l.valid.getLsbD i || fillBrings s base l n i) ∧
    (fillWords s base l n).word i = if fillBrings s base l n i then s.hbmWord (32 * base + i) else l.word i
  | 0 => by simp [fillWords, fillBrings]
  | n + 1 => by
    obtain ⟨hvalid, hword⟩ := fillWords_word s base l i hi n
    have hbit : (BitVec.ofNat 32 (2 ^ n)).getLsbD i = decide (n = i) := by
      rw [BitVec.getLsbD_ofNat, Nat.testBit_two_pow, decide_eq_true hi, Bool.true_and]
    by_cases hin : n = i
    · subst hin
      have hnot : fillBrings s base l n n = false := by simp [fillBrings]
      simp only [hnot, Bool.or_false, Bool.false_eq_true, if_false] at hvalid hword
      have hsucc : fillBrings s base l (n + 1) n = (!l.valid.getLsbD n && !s.badAt (32 * base + n) 0) := by simp [fillBrings]
      rw [hsucc]
      unfold fillWords
      dsimp only
      rw [hvalid]
      split
      · next h => cases hv : l.valid.getLsbD n <;> simp_all
      · next h =>
        simp only [Bool.not_eq_true, Bool.or_eq_false_iff] at h
        simp only [BitVec.getLsbD_or, hbit, decide_true, Bool.or_true, Line.word, Sparse.get_set_self, h, Bool.not_false, Bool.and_self, if_true, and_self]
    · have hsucc : fillBrings s base l (n + 1) i = fillBrings s base l n i := by
        have : decide (i < n + 1) = decide (i < n) := decide_eq_decide.2 (by omega)
        simp only [fillBrings, this]
      rw [hsucc]
      unfold fillWords
      dsimp only
      split
      · exact ⟨hvalid, hword⟩
      · refine ⟨?_, ?_⟩
        · simp only [BitVec.getLsbD_or, hbit, hin, decide_false, Bool.or_false, hvalid]
        · simp only [Line.word, Sparse.get_set_ne _ _ _ (Ne.symm hin)]
          exact hword

theorem lineOf_fillLine_self (s : State) (k : Nat) : lineOf (s.fillLine k) k = fillWords s k (lineOf s k) 32 := by
  simp only [lineOf, State.fillLine, Sparse.find?_put_self, Option.getD_some]

theorem fillLineReads : Claim.FilledLine := by
  intro s k i hi
  have hdiv : (32 * k + i) / 32 = k := by omega
  have hmod : (32 * k + i) % 32 = i := by omega
  obtain ⟨hvalid, hword⟩ := fillWords_word s k (lineOf s k) i hi 32
  have hbrings : fillBrings s k (lineOf s k) 32 i = (!(lineOf s k).valid.getLsbD i && !s.badAt (32 * k + i) 0) := by simp [fillBrings, hi]
  have hhbm : (s.fillLine k).hbmWord (32 * k + i) = s.hbmWord (32 * k + i) := rfl
  rw [hbrings] at hvalid hword
  refine ⟨?_, ?_, fun w hw => word_congr (Sparse.find?_put_ne _ _ hw) rfl⟩
  · rw [wordValid_eq, wordValid_eq, hdiv, hmod, lineOf_fillLine_self, hvalid]
    cases (lineOf s k).valid.getLsbD i <;> rfl
  · rw [wordNow_eq, wordNow_eq, hdiv, hmod, lineOf_fillLine_self, hvalid, hword, hhbm]
    cases (lineOf s k).valid.getLsbD i <;> cases s.badAt (32 * k + i) 0 <;> rfl

/-! ## Lines written back (R233) -/

theorem l2_wordBack (s : State) (w : Nat) (x : Word) : (s.wordBack w x).l2 = s.l2 := by
  unfold State.wordBack
  dsimp only
  split <;> rfl

theorem hbmWord_wordBack (s : State) (w v : Nat) (x : Word) : (s.wordBack w x).hbmWord v = if v = w then x else s.hbmWord v := by
  have h : (s.wordBack w x).hbmWord v = (s.setHbmWord w x).hbmWord v := by simp only [State.hbmWord, wordBack_hbm]
  rw [h]
  split
  · next e => rw [e, hbmWord_setHbmWord_self]
  · next e => exact hbmWord_setHbmWord_ne s x e

/-- Words written back from a base stand in HBM, and every other word of HBM is as before. -/
theorem hbmWord_wordsBack (base v : Nat) (g : Nat → Word) : ∀ (is : List Nat) (s : State),
    (is.foldl (fun s i => s.wordBack (base + i) (g i)) s).hbmWord v = if base ≤ v ∧ v - base ∈ is then g (v - base) else s.hbmWord v
  | [], s => by simp
  | j :: js, s => by
    rw [List.foldl_cons, hbmWord_wordsBack base v g js, hbmWord_wordBack]
    by_cases hjs : base ≤ v ∧ v - base ∈ js
    · rw [if_pos hjs, if_pos ⟨hjs.1, List.mem_cons_of_mem _ hjs.2⟩]
    · rw [if_neg hjs]
      by_cases hj : v = base + j
      · subst hj
        simp
      · rw [if_neg hj, if_neg fun h => ?_]
        obtain hv | hv := List.mem_cons.1 h.2
        · exact hj (by omega)
        · exact hjs ⟨h.1, hv⟩

/-- The numbers of a line's dirty words. -/
def dirtyWords (l : Line) : List Nat := (List.range 32).filter fun i => l.dirty.getLsbD i

theorem mem_dirtyWords {l : Line} {i : Nat} : i ∈ dirtyWords l ↔ i < 32 ∧ l.dirty.getLsbD i = true := by
  simp [dirtyWords]

/-- A line whose dirty words carry no error goes to HBM whole (R233, R249). -/
theorem writeBackLine_of_good {s : State} {k : Nat} {l : Line} (hl : Sparse.find? s.l2 k = some l)
    (hgood : ∀ i < 32, l.dirty.getLsbD i = true → s.badAt (32 * k + i) 1 = false) :
    let t := (dirtyWords l).foldl (fun s i => s.wordBack (32 * k + i) (l.word i)) s
    s.writeBackLine k = { t with l2 := Sparse.put t.l2 k { l with dirty := 0 } } := by
  have hnone : ((dirtyWords l).any fun i => s.badAt (32 * k + i) 1) = false :=
    List.any_eq_false.2 fun i hi => by
      obtain ⟨hlt, hd⟩ := mem_dirtyWords.1 hi
      rw [hgood i hlt hd]
      decide
  simp only [State.writeBackLine, hl]
  exact if_neg (by rw [show ((List.range 32).filter fun i => l.dirty.getLsbD i) = dirtyWords l from rfl, hnone]; decide)

theorem evictionWritesBack : Claim.EvictionWritesBack := by
  intro s k l hl hgood t
  have ht : t = (s.writeBackLine k).dropLine k := rfl
  rw [writeBackLine_of_good hl hgood] at ht
  clear_value t
  have hl2 : ((dirtyWords l).foldl (fun s i => s.wordBack (32 * k + i) (l.word i)) s).l2 = s.l2 :=
    view_foldl State.l2 (fun _ _ => l2_wordBack ..) _ _
  have hhbm (w : Nat) : t.hbmWord w = if 32 * k ≤ w ∧ w - 32 * k ∈ dirtyWords l then l.word (w - 32 * k) else s.hbmWord w := by
    rw [ht, ← hbmWord_wordsBack]
    rfl
  have hdropped : Sparse.find? t.l2 k = none := by rw [ht]; exact Sparse.find?_erase_self ..
  refine ⟨fun i hi => ?_, fun w hw => word_congr ?_ ?_, hdropped⟩
  · have hdiv : (32 * k + i) / 32 = k := by omega
    have hin : (32 * k ≤ 32 * k + i ∧ 32 * k + i - 32 * k ∈ dirtyWords l) ↔ l.dirty.getLsbD i = true := by
      simp [mem_dirtyWords, hi]
    rw [State.wordNow, hdiv, hdropped]
    dsimp only
    rw [hhbm, if_congr hin (by rw [Nat.add_sub_cancel_left]) rfl]
  · rw [ht]
    exact (Sparse.find?_erase_ne _ hw).trans ((Sparse.find?_put_ne _ _ hw).trans (by rw [hl2]))
  · rw [hhbm, if_neg]
    rintro ⟨hle, hmem⟩
    have := (mem_dirtyWords.1 hmem).1
    omega

/-! ## Bytes written (R231) -/

/-- A byte of a word. -/
def byteOf (x : Word) (j : Nat) : Byte := BitVec.ofNat 8 (x.toNat / 256 ^ j)

theorem byteNow_eq {s : State} {loc : Nat} (h : loc < hostBase) : s.byteNow loc = byteOf (s.wordNow (loc / 4)) (loc % 4) := if_neg h.not_ge

theorem getLsbD_byteOf (x : Word) (j b : Nat) (hb : b < 8) : (byteOf x j).getLsbD b = x.getLsbD (8 * j + b) := by
  rw [byteOf, show 256 ^ j = 2 ^ (8 * j) by rw [Nat.pow_mul]]
  rw [BitVec.getLsbD_ofNat, Nat.testBit_div_two_pow, decide_eq_true hb, Bool.true_and, Nat.add_comm, BitVec.testBit_toNat]

/-- A byte placed in a word: its bits there, and none elsewhere. -/
theorem getLsbD_placed (v : Byte) (i k : Nat) (hk : k < 32) :
    (BitVec.ofNat 32 (v.toNat * 256 ^ i)).getLsbD k = (decide (8 * i ≤ k) && v.getLsbD (k - 8 * i)) := by
  rw [show 256 ^ i = 2 ^ (8 * i) by rw [Nat.pow_mul]]
  rw [BitVec.getLsbD_ofNat, Nat.testBit_mul_two_pow, decide_eq_true hk, Bool.true_and, BitVec.testBit_toNat]

/-- A whole byte merged into a word is read there; the word's other bytes are as before. -/
theorem byteOf_mergeByte (x : Word) (v : Byte) {i j : Nat} (hi : i < 4) (hj : j < 4) :
    byteOf (mergeByte x i v 0xFF) j = if j = i then v else byteOf x j := by
  apply BitVec.eq_of_getLsbD_eq
  intro b hb
  have hk : 8 * j + b < 32 := by omega
  have hff (n : Nat) : (0xFF : Byte).getLsbD n = decide (n < 8) := by
    rw [show (0xFF : Byte) = BitVec.allOnes 8 from rfl, BitVec.getLsbD_allOnes]
  have hmask : (BitVec.ofNat 32 ((0xFF : Byte).toNat * 256 ^ i)).getLsbD (8 * j + b) = decide (j = i) := by
    rw [getLsbD_placed _ _ _ hk, hff]
    by_cases h : j = i
    · subst h; simp [hb]
    · rw [decide_eq_false h, Bool.and_eq_false_iff, decide_eq_false_iff_not, decide_eq_false_iff_not]
      omega
  rw [getLsbD_byteOf _ _ _ hb]
  simp only [mergeByte, BitVec.getLsbD_or, BitVec.getLsbD_and, BitVec.getLsbD_not, hmask, hk, decide_true, Bool.true_and]
  by_cases h : j = i
  · subst h
    simp [getLsbD_placed _ _ _ hk]
  · simp [h, getLsbD_byteOf _ _ _ hb]

/-- A byte that a NORMAL access writes in HBM goes to its line (R231). -/
theorem putBytes_one {loc : Nat} (h : loc < hostBase) (s : State) (ctx : Nat) (b m : Byte) :
    s.putBytes ctx 0 [(loc, b, m)] = (s.rewrite 0 [(loc, b, m)]).putLine ctx (loc, b, m) := by
  simp [State.putBytes, h]

theorem word_rewrite (s : State) (m : Nat) (its : List (Nat × Byte × Byte)) (w : Nat) : (s.rewrite m its).wordNow w = s.wordNow w := by
  rw [rewrite_frame]
  rfl

theorem storeLands : Claim.StoreLands := by
  intro s ctx mtype loc b hloc hm hvalid t
  subst hm
  have ht : t = (s.rewrite 0 [(loc, b, 0xFF)]).putLine ctx (loc, b, 0xFF) := putBytes_one hloc s ctx b 0xFF
  clear_value t
  subst ht
  obtain ⟨hself, hmerged⟩ := putLine_self (s.rewrite 0 [(loc, b, 0xFF)]) ctx (loc, b, 0xFF)
  rw [word_rewrite] at hmerged
  have hword (l : Nat) (hl : l / 4 = loc / 4) := hl ▸ hmerged
  refine ⟨?_, fun l hne hlt => ?_, hself⟩
  · rw [byteNow_eq hloc, hmerged, byteOf_mergeByte _ _ (by omega) (by omega), if_pos rfl]
  · rw [byteNow_eq hlt, byteNow_eq hlt]
    by_cases hl : l / 4 = loc / 4
    · rw [hl, hmerged, byteOf_mergeByte _ _ (by omega) (by omega), if_neg (by dsimp only; omega)]
    · rw [(putLine_other _ ctx (loc, b, 0xFF) hl).1, word_rewrite]

/-! ## The events of memory -/

theorem memoryEvents : Claim.MemoryEvents := by
  intro s i die comb ctx pa ck
  refine ⟨fun st hst hr => ?_, fun f hf ht => ?_, fun f t sec hf ht hw => ?_, fun k l hl hp hf => ?_, fun l hl hf => ?_,
    fun e he hp hfr hlive hm => ?_, fun op c hop hk hru hdone hend => ?_, fun cr l acc va hc hw hlive => ?_, rfl⟩
  · simp only [exec, execStoreAtHomeSlice, hst, hr, if_true]
  · have hwaits : s.fillWaits f = false := by simp only [State.fillWaits, ht, Option.bind_none]
    simp only [exec, execMergingFill, hf, hwaits, ht, Bool.false_eq_true, if_false]
  · simp only [exec, execMergingFill, hf, hw, ht, Bool.false_eq_true, if_false]
  · simp only [exec, execWriteBack, hl, hp, hf, Option.isSome_none, Bool.or_self, Bool.false_eq_true, if_false]
  · simp only [exec, execWriteBack, hl, hf, Bool.false_eq_true, if_true, if_false]
  · refine if_pos ?_
    have hmaps : (s.die die).dtlb.any (fun e => decide ((⟨e.base, e.size, e.leaf⟩ : Leaf).place = 2) &&
        decide ((⟨e.base, e.size, e.leaf⟩ : Leaf).frame / 2 ^ 16 = pa / 2 ^ 16)) = true :=
      List.any_eq_true.2 ⟨e, he, by rw [hp, hfr]; simp⟩
    simp only [hmaps, hlive, hm, Bool.not_false, Bool.and_self]
  · have hop' : (s.comb (combKey die comb)).op i = some op := hop
    simp only [exec, execReplicaUpdate, hop', hk, hru, hdone, hend, and_self, if_true]
    exact ⟨_, _, rfl, rfl⟩
  · simp only [exec, execPageWalk, hc, hw, hlive, if_true]
    rfl

/-- Settles O36: each event by its condition, and the lines word by word. -/
theorem memoryEventsAndLines : Obligations.MemoryEventsAndLines := ⟨memoryEvents, fillLineReads, evictionWritesBack, storeLands⟩

end Sys2Proof.Proofs
end

section
namespace Sys2Proof.Proofs
open Sys2Proof Sys2Proof.Machine

/-! # Bank modes and render-set tables (R217 to R219, R239, R240) -/

/-! ## BANKCFG (R239, R240) -/

/-- The bank that a BANKCFG names. -/
def namedBank (f : SForm) (e : Env) : Bank := (e.s.comb e.ck).bank (f.imm.toNat % 16)

/-- A bank in use: granules of it are granted, or it holds entries (R240). -/
def BankBusy (f : SForm) (e : Env) : Prop :=
  ((namedBank f e).mode = .scratch ∧ ((e.s.comb e.ck).alloc.any fun a => decide (a.1 / 16 = f.imm.toNat % 16)) = true) ∨
    ((namedBank f e).mode = .fifo ∧ (namedBank f e).empty = false)

/-- A bank that may change its mode now (R240). -/
def BankFree (f : SForm) (e : Env) : Prop :=
  ¬ BankBusy f e ∧ f.imm.toNat % 16 < (e.s.comb e.ck).banks.length ∧
    ((namedBank f e).mode = .cache → (e.s.stores.any fun st => decide (combKey st.die st.comb = e.ck) && st.release.isSome) = false)

/-- The machine once a bank of the issuing comb is another. -/
def bankChanged (f : SForm) (e : Env) (bank : Bank) : State :=
  e.s.modComb e.ck fun c =>
    { c with
      banks := c.banks.set (f.imm.toNat % 16) bank
      scratch := c.scratch.filter (fun x => decide (x.1 / 2 ^ 17 ≠ f.imm.toNat % 16))
      written := c.written.filter fun x => decide (x.1 / 16 ≠ f.imm.toNat % 16)
      l1 := c.l1.filter fun x => decide (x.bank ≠ f.imm.toNat % 16) }

theorem bankBusy_iff {f : SForm} {e : Env} : BankBusy f e ↔
    ((namedBank f e).mode = .scratch ∧ (e.s.comb e.ck).alloc.any fun a => decide (a.1 / 16 = f.imm.toNat % 16)) ∨
      ((namedBank f e).mode = .fifo ∧ !(namedBank f e).empty) := by
  rw [BankBusy, Bool.not_eq_true']

theorem bankcfg_of_busy {f : SForm} {e : Env} (h : BankBusy f e) (new : BankMode) (ord : Bool) (owner : Nat) :
    e.bankcfg f new ord owner = .fault ⟨codeBANKBUSY, e.th.em, f.imm.toNat % 16, new.code⟩ :=
  if_pos (bankBusy_iff.1 h)

/-- Past the checks of its use, a bank's configuration turns on whether it stays a SCRATCH bank (R240). -/
theorem bankcfg_of_free {f : SForm} {e : Env} (h : BankFree f e) (new : BankMode) (ord : Bool) (owner : Nat) :
    e.bankcfg f new ord owner = if (namedBank f e).mode = .scratch ∧ new = .scratch then e.done []
      else e.out (bankChanged f e { Bank.ofMode new with ord := ord, owner := owner }) e.th := by
  obtain ⟨hb, -, hc⟩ := h
  refine (if_neg (mt bankBusy_iff.2 hb)).trans (if_neg fun hw => ?_)
  exact absurd ((hc hw.1).symm.trans hw.2) (by decide)

theorem bank_bankChanged {f : SForm} {e : Env} (h : BankFree f e) (bank : Bank) :
    ((bankChanged f e bank).comb e.ck).bank (f.imm.toNat % 16) = bank := by
  rw [bankChanged, State.comb_modComb_self]
  exact (List.getD_eq_getElem _ _ (by simpa using h.2.1)).trans (List.getElem_set_self ..)

theorem exec_bankcfgOff (f : SForm) (s : State) : exec (.bankcfgOff f) s = execBankcfgOff f s := rfl
theorem exec_bankcfgCache (f : SForm) (s : State) : exec (.bankcfgCache f) s = execBankcfgCache f s := rfl
theorem exec_bankcfgScratch (f : SForm) (s : State) : exec (.bankcfgScratch f) s = execBankcfgScratch f s := rfl
theorem exec_bankcfgFifo (f : SForm) (s : State) : exec (.bankcfgFifo f) s = execBankcfgFifo f s := rfl

theorem bankModes : Claim.BankModes := by
  intro f b old busy free set ctx trap
  -- a free bank takes the mode, unless it is a SCRATCH bank that stays one
  have takes {i : Instr} {r : Rule} {m : BankMode} {ord : Bool} {owner : Env → Nat} {P : Env → Prop}
      (hx : ∀ s, exec i s = issue s r fun e => e.bankcfg f m ord (owner e))
      (hP : ∀ e, P e → free e ∧ ¬ ((old e).mode = .scratch ∧ m = .scratch)) : Completes i r P fun e o => set m ord (owner e) e o :=
    .of_body fun s => ⟨_, hx s, fun e he =>
      ⟨_, (bankcfg_of_free (hP e he).1 m ord (owner e)).trans (if_neg (hP e he).2), rfl, rfl, rfl, bank_bankChanged (hP e he).1 _⟩⟩
  have faults {i : Instr} {r : Rule} {m : BankMode} {ord : Bool} {owner : Env → Nat}
      (hx : ∀ s, exec i s = issue s r fun e => e.bankcfg f m ord (owner e)) : Traps i r busy (trap m) :=
    .of_body fun s => ⟨_, hx s, fun e he => bankcfg_of_busy he m ord (owner e)⟩
  exact ⟨takes (exec_bankcfgOff f) fun e he => ⟨he, fun h => nomatch h.2⟩,
    takes (exec_bankcfgCache f) fun e he => ⟨he, fun h => nomatch h.2⟩,
    takes (exec_bankcfgScratch f) fun e he => ⟨he.1, fun h => he.2 h.1⟩,
    .of_body fun s => ⟨_, exec_bankcfgScratch f s, fun e he => (bankcfg_of_free he.1 .scratch false 0).trans (if_pos ⟨he.2, rfl⟩)⟩,
    takes (exec_bankcfgFifo f) fun e he => ⟨he, fun h => nomatch h.2⟩,
    faults (exec_bankcfgOff f), faults (exec_bankcfgCache f), faults (exec_bankcfgScratch f), faults (exec_bankcfgFifo f)⟩

/-! ## Broadcasts (R203) -/

section
variable {e : Env} (body : BcastBody) (fin : Nat → Eff)

/-- The first look of a broadcast's issuer asks every live die and waits (R203). -/
theorem broadcast_of_fresh (h : e.th.wait = .none ∨ e.th.wait = .released) :
    e.broadcast body fin = .wait { e.s with nextUid := e.s.nextUid + 1, bcasts := e.s.bcasts ++ [⟨e.s.nextUid, e.ag, e.th.uid, e.s.liveDies, body⟩] }
      { e.th with wait := .answer e.s.nextUid } := by
  rcases h with h | h <;> simp only [Env.broadcast, h]

theorem broadcast_of_answered {v : Nat} (h : e.th.wait = .answered v) : e.broadcast body fin = fin v := by
  simp only [Env.broadcast, h]

end

/-! ## VTWR and OWNWR (R217 to R219) -/

/-- The render set that an instruction's context selects (R218). -/
def renderSet (e : Env) : Option Nat := ((e.s.agentCtx e.ag).bind fun c => Sparse.find? e.s.ctxs c).map (·.rset)

/-- A table write, by the render set; 7 selects none (R219). -/
def tableWriteBody (f : SForm) (loc : Nat → Nat → Nat × Nat) (e : Env) : Eff :=
  let r := (renderSet e).getD 7
  let kk := loc r (e.read32 f.a 0).toNat
  if 3 < r then e.fault codeILLOP 0 0
  else if f.sub.getLsbD 0 then e.broadcast (.table kk.1 kk.2 (e.read32 f.b 0)) fun _ => e.done []
  else e.out (e.s.modDie (keyDie e.ck) fun d => d.putTable kk.1 kk.2 (e.read32 f.b 0)) e.th

theorem tableWrite_eq (op : Nat) (f : SForm) (s : State) (loc : Nat → Nat → Nat × Nat) :
    tableWrite op f s loc = issue s (tableWriteRule op f) (tableWriteBody f loc) := by
  dsimp only [tableWrite]
  refine congrArg (issue s (tableWriteRule op f)) (funext fun e => ?_)
  unfold tableWriteBody renderSet
  cases (e.s.agentCtx e.ag).bind fun c => Sparse.find? e.s.ctxs c <;> rfl

section
variable {f : SForm} {loc : Nat → Nat → Nat × Nat} {e : Env}

theorem tableWriteBody_of_set {r : Nat} (hr : r ≤ 3) (h : renderSet e = some r) :
    tableWriteBody f loc e =
      if f.sub.getLsbD 0 then
        e.broadcast (.table (loc r (e.read32 f.a 0).toNat).1 (loc r (e.read32 f.a 0).toNat).2 (e.read32 f.b 0)) fun _ => e.done []
      else e.out (e.s.modDie (keyDie e.ck) fun d =>
        d.putTable (loc r (e.read32 f.a 0).toNat).1 (loc r (e.read32 f.a 0).toNat).2 (e.read32 f.b 0)) e.th := by
  simp only [tableWriteBody, h, Option.getD_some, if_neg hr.not_gt]

theorem tableWriteBody_of_no_set (h : renderSet e = some 7) : tableWriteBody f loc e = .fault ⟨codeILLOP, e.tmask, 0, 0⟩ := by
  simp only [tableWriteBody, h, Option.getD_some]
  rfl

end

/-- The word of a view or of a view set that VTWR names in a render set (R217, R219). -/
def viewWord (r a : Nat) : Nat × Nat :=
  if a.testBit 12 then (1, r * 4096 + a % 64 * 4 + a / 256 % 4) else (0, r * 4096 + a % 128 * 16 + a / 256 % 16)

/-- The word of the ownership table that OWNWR names in a render set (R218, R219). -/
def ownerWord (r a : Nat) : Nat × Nat := (2, r * 4096 + a % 4096)

theorem exec_vtwr (f : SForm) (s : State) : exec (.vtwr f) s = issue s (tableWriteRule 0x1A0 f) (tableWriteBody f viewWord) :=
  tableWrite_eq 0x1A0 f s viewWord

theorem exec_ownwr (f : SForm) (s : State) : exec (.ownwr f) s = issue s (tableWriteRule 0x1A1 f) (tableWriteBody f ownerWord) :=
  tableWrite_eq 0x1A1 f s ownerWord

theorem renderTableWrites : Claim.RenderTableWrites := by
  intro f rset a view own put on
  have writes {i : Instr} {op : Nat} {loc : Nat → Nat → Nat × Nat}
      (hx : ∀ s, exec i s = issue s (tableWriteRule op f) (tableWriteBody f loc)) : on i op loc := by
    refine ⟨fun hbc r hr => .of_body fun s => ⟨_, hx s, fun e he => ?here⟩, fun hbc r hr => .of_body fun s => ⟨_, hx s, fun e he => ?answered⟩,
      fun hbc r hr => .of_body fun s => ⟨_, hx s, fun e he => ?asked⟩, .of_body fun s => ⟨_, hx s, fun e he => tableWriteBody_of_no_set he⟩⟩
    case here =>
      exact ⟨_, (tableWriteBody_of_set hr he).trans (if_neg (by rw [hbc]; decide)), rfl, rfl, rfl, rfl⟩
    case answered =>
      obtain ⟨hset, v, hv⟩ := he
      exact ((tableWriteBody_of_set hr hset).trans (if_pos hbc)).trans (broadcast_of_answered _ _ hv)
    case asked =>
      obtain ⟨hset, hw⟩ := he
      exact ⟨_, _, ((tableWriteBody_of_set hr hset).trans (if_pos hbc)).trans (broadcast_of_fresh _ _ (.inl hw)), rfl⟩
  exact ⟨writes (exec_vtwr f), writes (exec_ownwr f)⟩

/-- Settles O14: a bank by its use and its mode, a table write by the render set and BC. -/
theorem banksAndTables : Obligations.BanksAndTables := ⟨bankModes, renderTableWrites⟩

end Sys2Proof.Proofs
end

section
namespace Sys2Proof.Proofs
open Sys2Proof Sys2Proof.Machine

/-! # Invalidations of tables (R202 to R204, R208, R277) -/

/-- What an issuer leaves that asks every live die for a broadcast and waits (R203). -/
def AskedEveryDie (body : Env → BcastBody) (e : Env) (s : State) (th : Thread) : Prop :=
  s = { e.s with nextUid := e.s.nextUid + 1, bcasts := e.s.bcasts ++ [⟨e.s.nextUid, e.ag, e.th.uid, e.s.liveDies, body e⟩] } ∧
  th = { e.th with wait := .answer e.s.nextUid }

/-- An issuer that has asked nothing yet. -/
def Fresh (e : Env) : Prop := e.th.wait = .none ∨ e.th.wait = .released

/-- An issuer whose broadcast every die has acknowledged. -/
def Answered (e : Env) : Prop := ∃ v, e.th.wait = .answered v

/-- An instruction that asks every live die where `P` holds, and completes once every die has acknowledged where `Q` holds. -/
def Broadcasts (i : Instr) (r : Rule) (P Q : Env → Prop) (body : Env → BcastBody) : Prop :=
  Blocks i r (fun e => Fresh e ∧ P e) (AskedEveryDie body) ∧ Writes i r (fun e => Answered e ∧ Q e) (fun _ => [])

/-- To show that an instruction broadcasts, show that its body is a broadcast where it asks and where it is answered. -/
theorem Broadcasts.of_body {i : Instr} {r : Rule} {P Q : Env → Prop} {body : Env → BcastBody} {k : Env → Eff}
    (hx : ∀ s, exec i s = issue s r k)
    (hask : ∀ e, Fresh e → P e → k e = e.broadcast (body e) fun _ => e.done [])
    (hdone : ∀ e, Answered e → Q e → k e = e.broadcast (body e) fun _ => e.done []) : Broadcasts i r P Q body :=
  ⟨.of_body fun s => ⟨_, hx s, fun e ⟨hf, hp⟩ => ⟨_, _, (hask e hf hp).trans (broadcast_of_fresh _ _ hf), rfl, rfl⟩⟩,
    .of_body fun s => ⟨_, hx s, fun e ⟨⟨v, hv⟩, hq⟩ => (hdone e ⟨v, hv⟩ hq).trans (broadcast_of_answered _ _ hv)⟩⟩

/-! ## TLBINV (R202 to R204) -/

theorem exec_tlbinvPage (f : SForm) (s : State) : exec (.tlbinvPage f) s = tlbinv f s [useSPair f.a, useS f.b] fun e =>
    (e.ctxB f).map fun c => .tlbinv (some c) (some (e.read64 f.a 0).toNat) none := rfl

theorem exec_tlbinvPagePurge (f : SForm) (s : State) : exec (.tlbinvPagePurge f) s = tlbinv f s [useSPair f.a, useS f.b] fun e =>
    (e.ctxB f).map fun c => .tlbinv (some c) (some (e.read64 f.a 0).toNat)
      ((e.s.oldLeaf c (e.read64 f.a 0).toNat).map fun l => (l.place, l.frame, l.size,
        match Sparse.find? e.s.ctxs c with
        | some cr => cr.iset
        | none => [])) := rfl

theorem exec_tlbinvCtx (f : SForm) (s : State) : exec (.tlbinvCtx f) s = tlbinv f s [useS f.b] fun e =>
    (e.ctxB f).map fun c => .tlbinv (some c) none none := rfl

theorem exec_tlbinvAll (f : SForm) (s : State) : exec (.tlbinvAll f) s = tlbinv f s [] fun _ => some (.tlbinv none none none) := rfl

section
variable {i : Instr} {f : SForm} {uses : List Use} {range : Env → Option BcastBody} (hx : ∀ s, exec i s = tlbinv f s uses range)
include hx

theorem broadcasts_tlbinv {P : Env → Prop} {body : Env → BcastBody} (h : ∀ e, P e → range e = some (body e)) :
    Broadcasts i (tlbinvRule f uses) P P body := by
  have hbody (e : Env) (hp : P e) : (match range e with
      | none => e.done []
      | some b => e.broadcast b fun _ => e.done []) = e.broadcast (body e) fun _ => e.done [] := by simp only [h e hp]
  exact .of_body hx (fun e _ hp => hbody e hp) (fun e _ hp => hbody e hp)

/-- A TLBINV of a context that does not exist has no effect (R202). -/
theorem writes_tlbinv_of_none {P : Env → Prop} (h : ∀ e, P e → range e = none) : Writes i (tlbinvRule f uses) P fun _ => [] :=
  .of_body fun s => ⟨_, hx s, fun e he => by simp only [h e he]⟩

end

theorem ctxB_of_live {f : SForm} {e : Env} (h : (Sparse.find? e.s.ctxs ((e.read32 f.b 0).toNat % 256)).isSome = true) :
    e.ctxB f = some ((e.read32 f.b 0).toNat % 256) := if_pos h

theorem ctxB_of_dead {f : SForm} {e : Env} (h : Sparse.find? e.s.ctxs ((e.read32 f.b 0).toNat % 256) = none) : e.ctxB f = none :=
  if_neg (by rw [h]; decide)

/-! ## TDINV and TSYNC (R208, R277) -/

/-- What TDINV and TSYNC do for the agent's context: nothing without one, `go` after the release, and `go` again while they wait
for its answer. -/
def afterReleaseOfContext (scope : Nat) (go : Nat → Env → Eff) (e : Env) : Eff :=
  match e.s.agentCtx e.ag with
  | none => e.done []
  | some cx =>
    match e.th.wait with
    | .answered _ => go cx e
    | .answer _ => go cx e
    | _ => e.afterRelease scope fun _ => go cx e

section
variable {scope : Nat} {go : Nat → Env → Eff} {e : Env}

theorem afterReleaseOfContext_of_none (h : e.s.agentCtx e.ag = none) : afterReleaseOfContext scope go e = e.done [] := by
  simp only [afterReleaseOfContext, h]

theorem afterReleaseOfContext_of_released (hf : Fresh e) (hr : e.s.releaseDone e.ck e.th.uid scope e.s.nextUid = true)
    (hc : (e.s.agentCtx e.ag).isSome = true) : afterReleaseOfContext scope go e = go ((e.s.agentCtx e.ag).getD 0) e := by
  obtain ⟨cx, hcx⟩ := Option.isSome_iff_exists.1 hc
  rcases hf with hw | hw <;> simp only [afterReleaseOfContext, hcx, hw, Env.afterRelease, hr, if_true, Option.getD_some]

theorem afterReleaseOfContext_of_answered (ha : Answered e) (hc : (e.s.agentCtx e.ag).isSome = true) :
    afterReleaseOfContext scope go e = go ((e.s.agentCtx e.ag).getD 0) e := by
  obtain ⟨cx, hcx⟩ := Option.isSome_iff_exists.1 hc
  obtain ⟨v, hw⟩ := ha
  simp only [afterReleaseOfContext, hcx, hw, Option.getD_some]

end

/-- TDINV's effect: the descriptors of its comb or die dropped at once, or every live die asked (R208). -/
def tdinvEffect (m : MForm) (n : Env → Option Nat) (cx : Nat) (e : Env) : Eff :=
  if m.scope.toNat ≤ 2 then e.out (e.s.dropDescs (e.s.scopeCombs e.ck m.scope.toNat) (keyDie e.ck) cx (n e)) e.th
  else e.broadcast (.tdinv cx (n e)) fun _ => e.done []

/-- TSYNC's effect: every live die asked (R277). -/
def tsyncEffect (m : MForm) (n : Env → Option Nat) (cx : Nat) (e : Env) : Eff :=
  e.broadcast (.tsync cx (n e) m.scope.toNat e.ck) fun _ => e.done []

theorem tdinv_eq (m : MForm) (s : State) (uses : List Use) (n : Env → Option Nat) :
    tdinv m s uses n = issue s (tdinvRule m uses) (afterReleaseOfContext m.scope.toNat (tdinvEffect m n)) := rfl

theorem tsync_eq (m : MForm) (s : State) (uses : List Use) (n : Env → Option Nat) :
    tsync m s uses n = issue s (tsyncRule m uses) (afterReleaseOfContext m.scope.toNat (tsyncEffect m n)) := rfl

/-- The tensor that TDINV and TSYNC name in A. -/
def namedTensor (m : MForm) (e : Env) : Option Nat := some ((e.read32 m.a 0).toNat % 4096)

theorem exec_tdinv (m : MForm) (s : State) : exec (.tdinv m) s =
    issue s (tdinvRule m [useS m.a]) (afterReleaseOfContext m.scope.toNat (tdinvEffect m (namedTensor m))) :=
  tdinv_eq m s [useS m.a] (namedTensor m)

theorem exec_tdinvAll (m : MForm) (s : State) : exec (.tdinvAll m) s =
    issue s (tdinvRule m []) (afterReleaseOfContext m.scope.toNat (tdinvEffect m fun _ => none)) :=
  tdinv_eq m s [] fun _ => none

theorem exec_tsync (m : MForm) (s : State) : exec (.tsync m) s =
    issue s (tsyncRule m [useS m.a]) (afterReleaseOfContext m.scope.toNat (tsyncEffect m (namedTensor m))) :=
  tsync_eq m s [useS m.a] (namedTensor m)

theorem exec_tsyncAll (m : MForm) (s : State) : exec (.tsyncAll m) s =
    issue s (tsyncRule m []) (afterReleaseOfContext m.scope.toNat (tsyncEffect m fun _ => none)) :=
  tsync_eq m s [] fun _ => none

theorem tableInvalidation : Claim.TableInvalidation := by
  intro f m asked fresh answered broadcasts c va live dead iset page mctx within released n dropped alone
  have atOnce {i : Instr} {r : Rule} {k : Env → Option Nat} (hsc : m.scope.toNat ≤ 2)
      (hx : ∀ s, exec i s = issue s r (afterReleaseOfContext m.scope.toNat (tdinvEffect m k))) :
      Completes i r (fun e => fresh e ∧ released e) (dropped k) :=
    .of_body fun s => ⟨_, hx s, fun e ⟨hf, hr, hc⟩ => ⟨_, (afterReleaseOfContext_of_released hf hr hc).trans (if_pos hsc), rfl, rfl⟩⟩
  have asks {i : Instr} {r : Rule} {go : Nat → Env → Eff} {body : Env → BcastBody}
      (hx : ∀ s, exec i s = issue s r (afterReleaseOfContext m.scope.toNat go))
      (hgo : ∀ e, go (mctx e) e = e.broadcast (body e) fun _ => e.done []) : broadcasts i r released within body :=
    Broadcasts.of_body hx (fun e hf ⟨hr, hc⟩ => (afterReleaseOfContext_of_released hf hr hc).trans (hgo e))
      (fun e ha hc => (afterReleaseOfContext_of_answered ha hc).trans (hgo e))
  have withoutContext {i : Instr} {r : Rule} {go : Nat → Env → Eff}
      (hx : ∀ s, exec i s = issue s r (afterReleaseOfContext m.scope.toNat go)) : alone i r :=
    .of_body fun s => ⟨_, hx s, fun e he => afterReleaseOfContext_of_none he⟩
  exact ⟨broadcasts_tlbinv (exec_tlbinvPage f) fun e he => by rw [ctxB_of_live he]; rfl,
    broadcasts_tlbinv (exec_tlbinvPagePurge f) fun e he => by rw [ctxB_of_live he]; rfl,
    broadcasts_tlbinv (exec_tlbinvCtx f) fun e he => by rw [ctxB_of_live he]; rfl,
    broadcasts_tlbinv (exec_tlbinvAll f) fun _ _ => rfl,
    writes_tlbinv_of_none (exec_tlbinvPage f) fun e he => by rw [ctxB_of_dead he]; rfl,
    writes_tlbinv_of_none (exec_tlbinvPagePurge f) fun e he => by rw [ctxB_of_dead he]; rfl,
    writes_tlbinv_of_none (exec_tlbinvCtx f) fun e he => by rw [ctxB_of_dead he]; rfl,
    fun hsc => atOnce hsc (exec_tdinv m), fun hsc => atOnce hsc (exec_tdinvAll m),
    fun hsc => asks (exec_tdinv m) fun e => if_neg hsc.not_ge, fun hsc => asks (exec_tdinvAll m) fun e => if_neg hsc.not_ge,
    asks (exec_tsync m) fun _ => rfl, asks (exec_tsyncAll m) fun _ => rfl,
    withoutContext (exec_tdinv m), withoutContext (exec_tdinvAll m), withoutContext (exec_tsync m), withoutContext (exec_tsyncAll m)⟩

end Sys2Proof.Proofs
end

section
namespace Sys2Proof.Proofs
open Sys2Proof Sys2Proof.Machine

/-! # What a die has done when it acknowledges (R203, R208, R219, R245, R277, R346, R348) -/

/-! ## What write-backs keep: the combs, the tiles that have lines, and the dies' TLBs -/

/-- The combs, the tiles that have a line in the L2, and the dies' TLBs. -/
def heldParts (s : State) : List (Nat × Comb) × List TileRef × (Nat → List TlbEnt) := (s.combs, s.tiles.map (·.tile), fun d => (s.die d).dtlb)

theorem heldParts_modDie (s : State) (d : Nat) {f : Die → Die} (h : ∀ x, (f x).dtlb = x.dtlb) : heldParts (s.modDie d f) = heldParts s := by
  have hdies : (fun k => ((s.modDie d f).die k).dtlb) = fun k => (s.die k).dtlb := funext fun k => by
    by_cases hk : k = d
    · rw [hk, State.die_modDie_self, h]
    · rw [State.die_modDie_ne _ _ hk]
  exact congrArg (fun x => (s.combs, s.tiles.map (·.tile), x)) hdies

theorem heldParts_countErr (s : State) (die cls : Nat) (corrected : Bool) : heldParts (s.countErr die cls corrected) = heldParts s :=
  heldParts_modDie s die (f := fun d => { d with errCounts := _ }) fun _ => rfl

theorem heldParts_notice (s : State) (ws : List Word) : heldParts (s.notice ws) = heldParts s := by
  unfold State.notice
  dsimp only
  repeat' split
  all_goals rfl

theorem heldParts_endContext (s : State) (ctx reason cause pc : Nat) : heldParts (s.endContext ctx reason cause pc) = heldParts s := by
  have hdrop (s : State) : heldParts (s.dropGrids ctx) = heldParts s :=
    view_foldl heldParts (f := fun s d => s.modDie d fun x => { x with forage := x.forage.filter fun f => decide (f.2.ctx ≠ ctx) })
      (fun s d => by exact heldParts_modDie s d fun _ => rfl) s.liveDies s
  unfold State.endContext
  split
  · rfl
  · split
    · rfl
    · exact (heldParts_notice ..).trans (hdrop _)

theorem heldParts_wordBack (s : State) (w : Nat) (x : Word) : heldParts (s.wordBack w x) = heldParts s := by
  unfold State.wordBack
  dsimp only
  split <;> rfl

theorem heldParts_tileWordBack (s : State) (a : Nat) (x : Word) : heldParts (s.tileWordBack a x) = heldParts s := by
  refine Eq.trans ?_ (heldParts_wordBack s (a / 4) x)
  unfold State.tileWordBack
  dsimp only
  split
  · rfl
  · split <;> rfl

/-- A tile line replaced by one of the same tile. -/
theorem heldParts_setTile (s : State) (l : TileLine) : heldParts (s.setTile l) = heldParts s := by
  refine congrArg (fun x => (s.combs, x, fun d => (s.die d).dtlb)) ((List.map_map ..).trans (List.map_congr_left fun x _ => ?_))
  dsimp only [Function.comp]
  split
  · next h => exact h.symm
  · rfl

theorem heldParts_writeBackLine (s : State) (k : Nat) : heldParts (s.writeBackLine k) = heldParts s := by
  unfold State.writeBackLine
  split
  · rfl
  · extract_lets dirty s1 s2
    split
    · exact (heldParts_endContext ..).trans ((view_foldl heldParts (f := fun s i => s.setBad (32 * k + i) 1 false) (fun _ _ => rfl) dirty _).trans
        (heldParts_countErr ..))
    · exact view_foldl heldParts (fun _ _ => heldParts_wordBack ..) dirty s

theorem heldParts_writeBackTile (s : State) (t : TileRef) : heldParts (s.writeBackTile t) = heldParts s := by
  unfold State.writeBackTile
  split
  · rfl
  next l hl =>
  extract_lets dirty word s1 s2
  split
  · refine (heldParts_endContext ..).trans ((heldParts_setTile ..).trans ?_)
    exact (view_foldl heldParts (f := fun s i => s.setBad (word i) 2 false) (fun _ _ => rfl) dirty _).trans (heldParts_countErr ..)
  · exact (heldParts_setTile ..).trans (view_foldl heldParts (fun _ _ => heldParts_tileWordBack ..) dirty s)

/-! ## The TLBs (R203, R204) -/

/-- The TLBs of the dies and of the combs. -/
def tlbs (s : State) : (Nat → List TlbEnt) × (Nat → List TlbEnt × List TlbEnt) :=
  (fun d => (s.die d).dtlb, fun k => ((s.comb k).dtlb, (s.comb k).itlb))

theorem tlbs_of_heldParts {s t : State} (h : heldParts t = heldParts s) : tlbs t = tlbs s := by
  obtain ⟨hcombs, -, hdies⟩ : _ ∧ _ ∧ _ := by simpa only [heldParts, Prod.mk.injEq] using h
  simp only [tlbs, State.comb, hcombs, hdies]

theorem tlbs_modDie (s : State) (d : Nat) {f : Die → Die} (h : ∀ x, (f x).dtlb = x.dtlb) : tlbs (s.modDie d f) = tlbs s :=
  tlbs_of_heldParts (heldParts_modDie s d h)

theorem tlbs_dropL1Where (s : State) (ck : Nat) (p : L1Line → Bool) : tlbs (s.dropL1Where ck p) = tlbs s := by
  refine congrArg (Prod.mk _) (funext fun k => ?_)
  rw [State.dropL1Where, State.comb_modComb]
  split
  · next h => rw [h]
  · rfl

theorem tlbs_dropReplicas (s : State) (frame size : Nat) : tlbs (s.dropReplicas frame size) = tlbs s := by
  have hone (s : State) (die : Nat) : tlbs (s.dropReplica die frame size) = tlbs s := by
    unfold State.dropReplica
    have hdrop (s : State) (ck : Nat) (p : L1Line → Bool) : tlbs (if keyDie ck = die then s.dropL1Where ck p else s) = tlbs s := by
      split
      · exact tlbs_dropL1Where ..
      · rfl
    exact view_foldl tlbs (fun s ck => hdrop s ck _) _ _
  unfold State.dropReplicas
  extract_lets owner mine m
  refine (tlbs_modDie _ _ (by exact fun _ => rfl)).trans (view_foldl tlbs (fun s die => ?_) _ s)
  split
  · exact hone s die
  · rfl

/-- A purge leaves the TLBs. -/
theorem tlbs_purge (s : State) (die place frame size : Nat) (iset : List Nat) : tlbs (s.purge die place frame size iset) = tlbs s := by
  unfold State.purge
  extract_lets hit s1 tiles s2 s3
  have hline (s : State) (k : Nat) : tlbs ((s.writeBackLine k).dropLine k) = tlbs s := by
    have h : tlbs (s.writeBackLine k) = tlbs s := tlbs_of_heldParts (heldParts_writeBackLine s k)
    exact h
  have htile (s : State) (t : TileRef) : tlbs ((s.writeBackTile t).dropTile t) = tlbs s := by
    have h : tlbs (s.writeBackTile t) = tlbs s := tlbs_of_heldParts (heldParts_writeBackTile s t)
    exact h
  have h1 : tlbs s1 = tlbs s := view_foldl tlbs hline _ s
  have h2 : tlbs s2 = tlbs s1 := view_foldl tlbs htile tiles s1
  have h3 : tlbs s3 = tlbs s2 := view_foldl tlbs (fun _ _ => tlbs_dropL1Where ..) _ s2
  have h : tlbs s3 = tlbs s := h3.trans (h2.trans h1)
  clear_value s3
  split
  · exact (tlbs_dropReplicas ..).trans h
  · exact h

/-! ## A change made on each of some combs -/

/-- What a change leaves true of a comb holds of every comb it was made on. -/
theorem comb_each_holds {Q : Comb → Prop} {f : Comb → Comb} (hf : ∀ c, Q (f c)) {k : Nat} : ∀ (cks : List Nat) (s : State),
    k ∈ cks ∨ Q (s.comb k) → Q ((cks.foldl (fun s ck => s.modComb ck f) s).comb k)
  | [], _, h => h.resolve_left (List.not_mem_nil)
  | ck :: cks, s, h => by
    refine comb_each_holds hf cks (s.modComb ck f) ?_
    rw [State.comb_modComb]
    split
    · exact .inr (hf _)
    · next hne => exact h.imp_left fun hm => (List.mem_cons.1 hm).resolve_left hne

/-- What is filtered out of a list is not in it. -/
theorem eq_false_of_mem_filter_not {α : Type} {p : α → Bool} {l : List α} {x : α} (h : x ∈ l.filter fun x => !p x) : p x = false := by
  have hx := (List.mem_filter.1 h).2
  rwa [Bool.not_eq_true'] at hx

/-- A TLBINV leaves no entry of its range in the TLBs of a die and of its combs (R203). -/
theorem inRange_of_dropTlbs (s : State) (die : Nat) (ctx page : Option Nat) :
    (∀ e ∈ ((s.dropTlbs die ctx page).die die).dtlb, e.inRange ctx page = false) ∧
    ∀ ck ∈ s.combsOf die, ∀ e ∈ ((s.dropTlbs die ctx page).comb ck).dtlb ++ ((s.dropTlbs die ctx page).comb ck).itlb, e.inRange ctx page = false := by
  unfold State.dropTlbs
  extract_lets keep
  refine ⟨fun e he => ?_, fun ck hck => ?_⟩
  · rw [State.die_modDie_self] at he
    exact eq_false_of_mem_filter_not he
  · rw [State.comb_modDie]
    refine comb_each_holds (Q := fun c => ∀ e ∈ c.dtlb ++ c.itlb, e.inRange ctx page = false) (fun c e he => ?_) _ s (.inl hck)
    exact (List.mem_append.1 he).elim eq_false_of_mem_filter_not eq_false_of_mem_filter_not

/-! ## Tile lines and L1 sectors (R277) -/

/-- Whether a TSYNC of a tensor of a context, or of all of them, covers a tile. -/
def covers (ctx : Nat) (n : Option Nat) (t : TileRef) : Bool :=
  decide (t.ctx = ctx) && match n with
    | some k => decide (t.tensor = k)
    | none => true

theorem covers_iff {ctx : Nat} {n : Option Nat} {t : TileRef} : covers ctx n t = true ↔ t.ctx = ctx ∧ (n = none ∨ n = some t.tensor) := by
  cases n with
  | none => simp [covers]
  | some k => simp [covers, eq_comm (a := k)]

/-- The tile lines of some tiles written back and dropped. -/
def withoutTiles (ts : List TileRef) (s : State) : State := ts.foldl (fun s t => (s.writeBackTile t).dropTile t) s

/-- The tiles that have lines are others than those dropped. -/
theorem tiles_withoutTiles {x : TileRef} : ∀ (ts : List TileRef) (s : State), x ∈ (withoutTiles ts s).tiles.map (·.tile) →
    x ∈ s.tiles.map (·.tile) ∧ x ∉ ts
  | [], _, h => ⟨h, List.not_mem_nil⟩
  | t :: ts, s, h => by
    obtain ⟨hx, hts⟩ := tiles_withoutTiles ts _ h
    obtain ⟨l, hl, rfl⟩ := List.mem_map.1 hx
    obtain ⟨hin, hne⟩ := List.mem_filter.1 hl
    have htiles : (s.writeBackTile t).tiles.map (·.tile) = s.tiles.map (·.tile) := congrArg (·.2.1) (heldParts_writeBackTile s t)
    exact ⟨htiles ▸ List.mem_map_of_mem hin, List.not_mem_cons_of_ne_of_not_mem (of_decide_eq_true hne) hts⟩

theorem combs_withoutTiles (ts : List TileRef) (s : State) : (withoutTiles ts s).combs = s.combs :=
  view_foldl State.combs (fun s t => congrArg (·.1) (heldParts_writeBackTile s t)) ts s

/-- The tiles with lines that a TSYNC covers. -/
def coveredTiles (s : State) (ctx : Nat) (n : Option Nat) : List TileRef := (s.tiles.filter fun l => covers ctx n l.tile).map (·.tile)

/-- The L1 lines that a TSYNC drops: the sectors of its tensors, and the linear ones (log entry 42). -/
def tsyncDrops (ctx : Nat) (n : Option Nat) (l : L1Line) : Bool :=
  match l.tile with
  | some (t, _) => covers ctx n t
  | none => true

/-- The machine once a die has done its part of a TSYNC (R277). -/
def tsynced (s : State) (die ctx : Nat) (n : Option Nat) (scope ck : Nat) : State :=
  let s' := withoutTiles (coveredTiles s ctx n) { s with fills := s.fills.filter fun f => !(f.tile.any fun t => covers ctx n t.1) }
  ((s'.scopeCombs ck scope).filter fun k => decide (keyDie k = die)).foldl (fun s k => s.dropL1Where k (tsyncDrops ctx n)) s'

theorem eq_tsynced {s t : State} {die uid ctx scope ck : Nat} {n : Option Nat} (h : s.applyBcast die uid (.tsync ctx n scope ck) = some t) :
    t = tsynced s die ctx n scope ck := by
  obtain ⟨waits, heq⟩ : ∃ waits : Bool, s.applyBcast die uid (.tsync ctx n scope ck) = if waits then none else some (tsynced s die ctx n scope ck) :=
    ⟨_, rfl⟩
  rw [heq] at h
  split at h
  · contradiction
  · exact (Option.some.inj h).symm

/-- No covered tile has a line once a die has done its part of a TSYNC, and no L1 of its scope on the die holds a sector of one (R277). -/
theorem covers_of_tsynced (s : State) (die ctx : Nat) (n : Option Nat) (scope ck : Nat) :
    (∀ l ∈ (tsynced s die ctx n scope ck).tiles, covers ctx n l.tile = false) ∧
    ∀ k ∈ s.scopeCombs ck scope, keyDie k = die → ∀ l ∈ ((tsynced s die ctx n scope ck).comb k).l1, tsyncDrops ctx n l = false := by
  unfold tsynced
  extract_lets s'
  have hcombs : s'.combs = s.combs := combs_withoutTiles ..
  have hscope : s'.scopeCombs ck scope = s.scopeCombs ck scope := by simp only [State.scopeCombs, hcombs]
  refine ⟨fun l hl => ?_, fun k hk hdie => ?_⟩
  · rw [view_foldl State.tiles (f := fun s k => s.dropL1Where k (tsyncDrops ctx n)) (fun _ _ => rfl)] at hl
    obtain ⟨hin, hnot⟩ := tiles_withoutTiles _ _ (List.mem_map_of_mem (f := (·.tile)) hl)
    obtain ⟨l', hl', he⟩ := List.mem_map.1 hin
    rw [← Bool.not_eq_true]
    exact fun hcov => hnot (he ▸ List.mem_map_of_mem (f := (·.tile)) (List.mem_filter.2 ⟨hl', he ▸ hcov⟩))
  · refine comb_each_holds (Q := fun c => ∀ l ∈ c.l1, tsyncDrops ctx n l = false) (fun c l hl => eq_false_of_mem_filter_not hl) _ s' (.inl ?_)
    exact List.mem_filter.2 ⟨hscope ▸ hk, decide_eq_true hdie⟩

/-! ## Frozen contexts (R346) -/

section
variable (die : Nat)

theorem frozen_sendAll (s : State) (ck : Nat) (th : Thread) (kind : Nat) : (((s.sendAll ck th kind).1).die die).frozen = (s.die die).frozen := by
  have hbatch (s : State) (d snd ctx f kind : Nat) (ents : List CountEnt) :
      (((s.sendBatch d snd ctx f kind ents).1).die die).frozen = (s.die die).frozen := by
    unfold State.sendBatch
    extract_lets ck key seq next s' dies
    have hs : (s'.die die).frozen = (s.die die).frozen := by
      dsimp only [s']
      split
      · by_cases hd : die = d
        · subst hd; rw [State.die_modDie_self]
        · rw [State.die_modDie_ne _ _ hd]
      · rfl
    clear_value s' dies
    dsimp only
    split <;> exact hs
  refine view_foldl (fun p : State × Thread => (p.1.die die).frozen) (fun p b => ?_) th.batches (s, th)
  unfold State.sendOpen
  split
  · rfl
  · exact hbatch ..

/-- Draining a comb leaves the contexts that the die holds frozen. -/
theorem frozen_freezeComb (s : State) (ck ctx : Nat) : ((s.freezeComb ck ctx).die die).frozen = (s.die die).frozen := by
  unfold State.freezeComb
  extract_lets gone s'
  refine (view_foldl (fun s : State => (s.die die).frozen) (fun s g => ?_) _ s').trans rfl
  split
  · exact frozen_sendAll ..
  · rfl

end

/-- A die acknowledges a freeze while it holds the context frozen (R346). -/
theorem frozen_of_freeze {s t : State} {die uid ctx : Nat} (h : s.applyBcast die uid (.freeze ctx) = some t) :
    (t.die die).frozen.contains ctx = true := by
  dsimp only [State.applyBcast] at h
  split at h
  · next hfrozen =>
    split at h
    · rw [← Option.some.inj h, view_foldl (fun s : State => (s.die die).frozen) (fun s ck => frozen_freezeComb ..)]
      exact hfrozen
    · contradiction
  · contradiction

/-- After a thaw the die holds the context frozen no more (R348). -/
theorem frozen_of_thaw {s t : State} {die uid ctx : Nat} (h : s.applyBcast die uid (.thaw ctx) = some t) :
    (t.die die).frozen.contains ctx = false := by
  rw [← Option.some.inj h, State.die_modDie_self]
  simp

/-! ## The effects -/

theorem tlbs_of_tlbinv {s t : State} {die uid : Nat} {ctx page : Option Nat} {p : Option (Nat × Nat × Nat × List Nat)}
    (h : s.applyBcast die uid (.tlbinv ctx page p) = some t) : tlbs t = tlbs (s.dropTlbs die ctx page) := by
  dsimp only [State.applyBcast] at h
  split at h
  · rw [← Option.some.inj h]
    split
    · exact tlbs_purge ..
    · rfl
  · contradiction

theorem broadcastEffects : Claim.BroadcastEffects := by
  intro s t die done
  refine ⟨fun ctx page p ⟨uid, h⟩ => ?tlbinv, fun ctx n ⟨uid, h⟩ => ?tdinv, fun ctx n scope ck ⟨uid, h⟩ => ?tsync, fun ⟨uid, h⟩ => ?icinv,
    fun kind key x ⟨uid, h⟩ => (Option.some.inj h).symm, fun ctx ⟨uid, h⟩ => frozen_of_freeze h, fun ctx ⟨uid, h⟩ => frozen_of_thaw h⟩
  case tlbinv =>
    obtain ⟨hdie, hcombs⟩ := inRange_of_dropTlbs s die ctx page
    have htlbs : tlbs t = tlbs (s.dropTlbs die ctx page) := tlbs_of_tlbinv h
    have hdtlb : (t.die die).dtlb = ((s.dropTlbs die ctx page).die die).dtlb := congrFun (congrArg Prod.fst htlbs) die
    refine ⟨hdtlb ▸ hdie, fun ck hck => ?_⟩
    have hcomb : ((t.comb ck).dtlb, (t.comb ck).itlb) = _ := congrFun (congrArg Prod.snd htlbs) ck
    obtain ⟨hd, hi⟩ := Prod.mk.inj hcomb
    rw [hd, hi]
    exact hcombs ck hck
  case tdinv =>
    have ht : t = s.dropDescs (s.combsOf die) die ctx n := (Option.some.inj h).symm
    subst ht
    refine ⟨fun d hd => ?_, fun ck hck => ?_⟩
    · rw [State.dropDescs, State.die_modDie_self] at hd
      exact eq_false_of_mem_filter_not hd
    · exact comb_each_holds (Q := fun c => ∀ d ∈ c.dcache, d.covered ctx n = false) (fun c d hd => eq_false_of_mem_filter_not hd) _ s (.inl hck)
  case tsync =>
    intro gone
    have ht : t = tsynced s die ctx n scope ck := eq_tsynced h
    subst ht
    obtain ⟨htiles, hl1⟩ := covers_of_tsynced s die ctx n scope ck
    have hgone {x : TileRef} (hx : covers ctx n x = false) : gone x := fun hc => absurd (hx.symm.trans (covers_iff.2 hc)) (by decide)
    refine ⟨fun l hl => hgone (htiles l hl), fun k hk hdie l hl x sec hx => hgone ?_⟩
    have hdrops := hl1 k hk hdie l hl
    simpa only [tsyncDrops, hx] using hdrops
  case icinv =>
    intro ck hck
    have ht : t = s.dropIcaches (s.combsOf die) := (Option.some.inj h).symm
    subst ht
    exact comb_each_holds (Q := fun c => c.icache = []) (fun _ => rfl) _ s (.inl hck)

/-! ## Acknowledgements (R203, R208, R219, R245, R277) -/

theorem exec_acknowledge (s : State) (die : Nat) (tlb : Bool) :
    exec (if tlb then .tlbinvAcknowledge die else .broadcastAcknowledge die) s = .next (s.acknowledge die tlb) := by
  cases tlb <;> rfl

/-- A die that does its part takes itself out of the broadcast, or hands its issuer the answer when it is the last (R203). -/
theorem acknowledge_of_applied {s t : State} {die : Nat} {tlb : Bool} {b : Bcast}
    (hb : s.bcasts.find? (fun x => x.dies.contains die && decide (x.body.isTlbinv = tlb)) = some b)
    (ht : (s.startFreeze die b.body).applyBcast die b.uid b.body = some t) :
    s.acknowledge die tlb = if (b.dies.filter fun d => decide (d ≠ die)).isEmpty then
        ({ t with bcasts := t.bcasts.filter fun x => decide (x.uid ≠ b.uid) } : State).answer b.agent b.agentUid b.uid (.answered 0)
      else { t with bcasts := t.bcasts.map fun x => if x.uid = b.uid then { b with dies := b.dies.filter fun d => decide (d ≠ die) } else x } := by
  simp only [State.acknowledge, hb, ht]

theorem acknowledgements : Claim.Acknowledgements := by
  intro s die b t event hb ht
  have hexec : exec event s = .next (s.acknowledge die b.body.isTlbinv) := exec_acknowledge s die b.body.isTlbinv
  rw [hexec, acknowledge_of_applied hb ht]
  exact ⟨fun hmore => congrArg _ (if_neg (by simpa using hmore)), fun hlast => congrArg _ (if_pos (by rw [hlast]; rfl))⟩

/-- Settles O15: what is asked and when the issuer goes on, each body's effect on a die, and the acknowledgements. -/
theorem broadcasts : Obligations.Broadcasts := ⟨tableInvalidation, broadcastEffects, acknowledgements⟩

end Sys2Proof.Proofs
end

section
namespace Sys2Proof.Proofs
open Sys2Proof Sys2Proof.Machine

/-! # Cache control and fences (R245 to R247, R268, R275, R276) -/

/-! ## The addressed line (R246) -/

/-- The L2 line that a CCTL's access addresses. -/
def lineNumber (a : LaneAcc) : Nat := a.locs.headD 0 / 128

/-- A CCTL addresses the byte of an access. -/
def Addresses (f : MForm) (e : Env) (a : LaneAcc) : Prop := e.laneAccs .read (fun _ => 1) 1 false [(0, e.ea f 0)] = .ok [a]

/-- Whether a store of the group is on its way to the line (R246). -/
def storeOnWay (e : Env) (line : Nat) : Bool :=
  e.s.stores.any fun st => decide (st.agentUid = e.th.uid) && st.locs.any fun l => decide (l / 128 = line)

/-- The machine once the addressed access is in the TLBs. -/
def addressed (e : Env) (a : LaneAcc) : State := e.s.noteAccs e.ck ((e.s.agentCtx e.ag).getD 0) .read [a]

section
variable {f : MForm} {e : Env} {a : LaneAcc} (ha : Addresses f e a)
include ha

/-- Elsewhere than in cacheable memory of the package an addressed CCTL does what it does there (R246). -/
theorem cctlLine_elsewhere (h : 2 ≤ a.mtype ∨ a.place = 3) (other : Eff) (k : State → Nat → Eff) : e.cctlLine f other k = other := by
  have ha' : e.laneAccs .read (fun _ => 1) 1 false [(0, e.ea f 0)] = .ok [a] := ha
  simp only [Env.cctlLine, ha', if_pos h]

theorem cctlLine_cacheable (hm : a.mtype < 2) (hp : a.place ≠ 3) (other : Eff) (k : State → Nat → Eff) :
    e.cctlLine f other k = if storeOnWay e (lineNumber a) then e.block .again else k (addressed e a) (lineNumber a) := by
  have ha' : e.laneAccs .read (fun _ => 1) 1 false [(0, e.ea f 0)] = .ok [a] := ha
  have hin : ¬ (2 ≤ a.mtype ∨ a.place = 3) := not_or.2 ⟨hm.not_ge, hp⟩
  simp only [Env.cctlLine, ha', if_neg hin]
  rfl

/-- An addressed CCTL acts on its line once no store of the group is on its way there (R246). -/
theorem cctlLine_acts (hm : a.mtype < 2) (hp : a.place ≠ 3) (hs : storeOnWay e (lineNumber a) = false) (other : Eff) (k : State → Nat → Eff) :
    e.cctlLine f other k = k (addressed e a) (lineNumber a) :=
  (cctlLine_cacheable ha hm hp other k).trans (if_neg (by rw [hs]; decide))

theorem cctlLine_waits (hm : a.mtype < 2) (hp : a.place ≠ 3) (hs : storeOnWay e (lineNumber a) = true) (other : Eff) (k : State → Nat → Eff) :
    e.cctlLine f other k = e.block .again :=
  (cctlLine_cacheable ha hm hp other k).trans (if_pos hs)

end

/-! ## Pins (R247) -/

/-- The pin of a line. -/
def pinOf (s : State) (l : Nat) : Option Nat := (Sparse.find? s.l2 l).bind (·.pin)

/-- The machine with the pin of a line that the L2 holds set or taken away. -/
def withPin (s : State) (l : Nat) (p : Option Nat) : State :=
  match Sparse.find? s.l2 l with
  | some x => { s with l2 := Sparse.put s.l2 l { x with pin := p } }
  | none => s

theorem withPin_of_some {s : State} {l : Nat} {x : Line} (h : Sparse.find? s.l2 l = some x) (p : Option Nat) :
    withPin s l p = { s with l2 := Sparse.put s.l2 l { x with pin := p } } := by
  simp only [withPin, h]

theorem withPin_of_none {s : State} {l : Nat} (h : Sparse.find? s.l2 l = none) (p : Option Nat) : withPin s l p = s := by
  simp only [withPin, h]

theorem find?_withPin_ne (s : State) {l j : Nat} (h : j ≠ l) (p : Option Nat) :
    Sparse.find? (withPin s l p).l2 j = Sparse.find? s.l2 j := by
  cases hl : Sparse.find? s.l2 l with
  | none => rw [withPin_of_none hl]
  | some x => rw [withPin_of_some hl]; exact Sparse.find?_put_ne _ _ h

/-- A line that the L2 holds has the pin it is given; another has none. -/
theorem pinOf_withPin (s : State) (l : Nat) (p : Option Nat) : pinOf (withPin s l p) l = if (Sparse.find? s.l2 l).isSome then p else none := by
  cases hl : Sparse.find? s.l2 l with
  | none => rw [withPin_of_none hl, pinOf, hl]; rfl
  | some x => rw [withPin_of_some hl, pinOf, Sparse.find?_put_self]; rfl

/-- A pin leaves which words of its line are valid. -/
theorem wordValid_withPin (s : State) (l : Nat) (p : Option Nat) (w : Nat) : (withPin s l p).wordValid w = s.wordValid w := by
  cases hl : Sparse.find? s.l2 l with
  | none => rw [withPin_of_none hl]
  | some x =>
    rw [withPin_of_some hl]
    by_cases hw : w / 32 = l
    · simp only [State.wordValid, hw, hl, Sparse.find?_put_self]
    · simp only [State.wordValid, Sparse.find?_put_ne _ _ hw]

/-- The machine once a line is fetched in full and pinned (R247). -/
def fetchedAndPinned (s : State) (l ctx : Nat) : State := withPin (s.fillLine l) l (some ctx)

theorem pinOf_fetchedAndPinned (s : State) (l ctx : Nat) : pinOf (fetchedAndPinned s l ctx) l = some ctx := by
  have hl : (Sparse.find? (s.fillLine l).l2 l).isSome = true := by simp only [State.fillLine, Sparse.find?_put_self, Option.isSome_some]
  rw [fetchedAndPinned, pinOf_withPin, if_pos hl]

theorem find?_fetchedAndPinned_ne (s : State) {l j : Nat} (h : j ≠ l) (ctx : Nat) :
    Sparse.find? (fetchedAndPinned s l ctx).l2 j = Sparse.find? s.l2 j :=
  (find?_withPin_ne _ h _).trans (Sparse.find?_put_ne _ _ h)

/-- Every word of a pinned line is valid but those that HBM holds bad (R247, R249). -/
theorem wordValid_fetchedAndPinned (s : State) (l ctx : Nat) {i : Nat} (hi : i < 32) :
    (fetchedAndPinned s l ctx).wordValid (32 * l + i) = true ∨ s.badAt (32 * l + i) 0 = true := by
  obtain ⟨hvalid, -, -⟩ := fillLineReads s l i hi
  rw [fetchedAndPinned, wordValid_withPin, hvalid]
  cases s.badAt (32 * l + i) 0 <;> simp

/-- Whether a pin that is not there yet is refused (R247). -/
def refusesPin (e : Env) (s : State) (l : Nat) : Bool := !(pinOf s l).isSome && e.pinRefused s l

/-- A line that is pinned already, or on a die with room for a pin, is pinned (R247). -/
theorem refusesPin_of_may {e : Env} {s : State} {l : Nat} (h : (pinOf s l).isSome = true ∨ s.pinned (locDie (l * 128)) < 12) :
    refusesPin e s l = false := by
  rcases h with h | h
  · simp [refusesPin, h]
  · simp [refusesPin, Env.pinRefused, h]

/-- What CCTL.pin does to the line it addresses: a 0 for a pin refused, a 1 for one taken (R247). -/
def pinEffect (f : MForm) (e : Env) (s : State) (l : Nat) : Out :=
  if refusesPin e s l then ⟨s, e.th, e.write32 f.d false [(0, 0)], 0, none, .seq⟩
  else ⟨fetchedAndPinned s l ((e.s.agentCtx e.ag).getD 0), e.th, e.write32 f.d false [(0, 1)], 0, none, .seq⟩

theorem pinEffect_refused {f : MForm} {e : Env} {s : State} {l : Nat} (h : refusesPin e s l = true) :
    pinEffect f e s l = ⟨s, e.th, e.write32 f.d false [(0, 0)], 0, none, .seq⟩ := if_pos h

theorem pinEffect_taken {f : MForm} {e : Env} {s : State} {l : Nat} (h : refusesPin e s l = false) :
    pinEffect f e s l = ⟨fetchedAndPinned s l ((e.s.agentCtx e.ag).getD 0), e.th, e.write32 f.d false [(0, 1)], 0, none, .seq⟩ :=
  if_neg (by rw [h]; decide)

/-! ## The instructions (R245 to R247) -/

theorem exec_cctlWb (f : MForm) (s : State) : exec (.cctlWb f) s = issue s (ruleCctlWb f) fun e =>
    e.cctlLine f (e.done []) fun s l => .ok ⟨s.writeBackLine l, e.th, [], 0, none, .seq⟩ := rfl

theorem exec_cctlWbinv (f : MForm) (s : State) : exec (.cctlWbinv f) s = issue s (ruleCctlWbinv f) fun e =>
    e.cctlLine f (e.done []) fun s l =>
      .ok ⟨((s.writeBackLine l).dropLine l).dropL1Where e.ck fun x => x.tile = none && decide (x.line = l), e.th, [], 0, none, .seq⟩ := rfl

theorem exec_cctlPin (f : MForm) (s : State) : exec (.cctlPin f) s = issue s (ruleCctlPin f) fun e =>
    e.cctlLine f (e.done (e.write32 f.d false [(0, 0)])) fun s l => .ok (pinEffect f e s l) := by
  show execCctlPin f s = _
  unfold execCctlPin
  refine congrArg (issue s (ruleCctlPin f)) (funext fun e => congrArg (e.cctlLine f _) (funext fun s => funext fun l => ?_))
  refine (if_congr ?_ rfl rfl).trans (apply_ite Eff.ok ..).symm
  unfold refusesPin pinOf
  cases Sparse.find? s.l2 l <;> exact Iff.rfl

theorem exec_cctlUnpin (f : MForm) (s : State) : exec (.cctlUnpin f) s = issue s (ruleCctlUnpin f) fun e =>
    e.cctlLine f (e.done []) fun s l => .ok ⟨withPin s l none, e.th, [], 0, none, .seq⟩ := rfl

theorem exec_cctlL1inv (f : MForm) (s : State) : exec (.cctlL1inv f) s = issue s (ruleCctlL1inv f) fun e => e.out (e.s.dropL1 e.ck) e.th := rfl

/-- What CCTL.icinv does after its release: the instruction caches in scope dropped, or every live die asked (R245). -/
def icinvEffect (f : MForm) (e : Env) : Eff :=
  if f.scope.toNat ≤ 2 then e.out (e.s.dropIcaches (e.s.scopeCombs e.ck f.scope.toNat)) e.th else e.broadcast .icinv fun _ => e.done []

/-- What CCTL.icinv does: its release first, unless it waits for its answer or has it. -/
def icinvBody (f : MForm) (e : Env) : Eff :=
  match e.th.wait with
  | .answered _ => icinvEffect f e
  | .answer _ => icinvEffect f e
  | _ => e.afterRelease f.scope.toNat fun _ => icinvEffect f e

theorem exec_cctlIcinv (f : MForm) (s : State) : exec (.cctlIcinv f) s = issue s (ruleCctlIcinv f) (icinvBody f) := rfl

theorem icinvBody_of_released {f : MForm} {e : Env} (hf : Fresh e) (hr : e.s.releaseDone e.ck e.th.uid f.scope.toNat e.s.nextUid = true) :
    icinvBody f e = icinvEffect f e := by
  rcases hf with hw | hw <;> simp only [icinvBody, hw, Env.afterRelease, hr, if_true]

theorem icinvBody_of_answered {f : MForm} {e : Env} (ha : Answered e) : icinvBody f e = icinvEffect f e := by
  obtain ⟨v, hw⟩ := ha
  simp only [icinvBody, hw]

theorem cacheControl : Claim.CacheControl := by
  intro f lineOf ctx noted at' one busy other on pinOf' answer may sc fresh released
  -- the three things that an addressed CCTL can meet: an access elsewhere, a store on its way, and neither
  have elsewhere {i : Instr} {r : Rule} {a : LaneAcc} {ws : Env → List RegWrite} {k : Env → State → Nat → Eff}
      (hx : ∀ s, exec i s = issue s r fun e => e.cctlLine f (e.done (ws e)) (k e)) : Writes i r (other a) ws :=
    .of_body fun s => ⟨_, hx s, fun e ⟨ha, h⟩ => cctlLine_elsewhere ha h _ _⟩
  have waits {i : Instr} {r : Rule} {a : LaneAcc} {ws : Env → List RegWrite} {k : Env → State → Nat → Eff}
      (hx : ∀ s, exec i s = issue s r fun e => e.cctlLine f (e.done (ws e)) (k e)) :
      Blocks i r (busy a) fun e s th => s = e.s ∧ th = { e.th with wait := .again } :=
    .of_body fun s => ⟨_, hx s, fun e ⟨ha, hm, hp, hs⟩ => ⟨_, _, cctlLine_waits ha hm hp hs _ _, rfl, rfl⟩⟩
  have acts {i : Instr} {r : Rule} {a : LaneAcc} {ws : Env → List RegWrite} {k : Env → State → Nat → Out} {P : Env → Prop}
      {Q : Env → Out → Prop} (hx : ∀ s, exec i s = issue s r fun e => e.cctlLine f (e.done (ws e)) fun s l => .ok (k e s l))
      (hP : ∀ e, P e → one a e) (hQ : ∀ e, P e → (k e (addressed e a) (lineNumber a)).trap = none ∧ Q e (k e (addressed e a) (lineNumber a))) :
      Completes i r P Q :=
    .of_body fun s => ⟨_, hx s, fun e he =>
      have ⟨ha, hm, hp, hs⟩ := hP e he
      ⟨_, cctlLine_acts ha hm hp hs _ _, hQ e he⟩⟩
  refine ⟨fun a => acts (exec_cctlWb f) (fun _ h => h) fun _ _ => ⟨rfl, rfl⟩, fun a => acts (exec_cctlWbinv f) (fun _ h => h) fun _ _ => ⟨rfl, rfl⟩,
    fun a => acts (exec_cctlPin f) (fun _ h => h.1) fun e ⟨_, hmay⟩ => ?pinned, fun a => acts (exec_cctlPin f) (fun _ h => h.1) fun e ⟨_, hmay⟩ => ?full,
    fun a => acts (exec_cctlUnpin f) (fun _ h => h) fun e _ => ?unpinned,
    fun a => ⟨elsewhere (exec_cctlWb f), elsewhere (exec_cctlWbinv f), elsewhere (exec_cctlUnpin f), elsewhere (exec_cctlPin f)⟩,
    fun a => ⟨waits (exec_cctlWb f), waits (exec_cctlWbinv f), waits (exec_cctlPin f), waits (exec_cctlUnpin f)⟩,
    .of_body fun s => ⟨_, exec_cctlL1inv f s, fun e _ => ⟨_, rfl, rfl, rfl⟩⟩,
    fun hsc => .of_body fun s => ⟨_, exec_cctlIcinv f s, fun e ⟨hf, hr⟩ => ⟨_, (icinvBody_of_released hf hr).trans (if_pos hsc), rfl, rfl⟩⟩,
    fun hsc => .of_body fun s => ⟨_, exec_cctlIcinv f s, fun e ⟨hf, hr⟩ => ?asked⟩,
    fun hsc => .of_body fun s => ⟨_, exec_cctlIcinv f s, fun e ⟨v, hv⟩ => ?answered⟩⟩
  case pinned =>
    have htaken : refusesPin e (addressed e a) (lineNumber a) = false := refusesPin_of_may hmay
    rw [pinEffect_taken htaken]
    exact ⟨rfl, rfl, rfl, rfl, pinOf_fetchedAndPinned .., fun i hi => wordValid_fetchedAndPinned _ _ _ hi, fun l hl => find?_fetchedAndPinned_ne _ hl _⟩
  case full =>
    cases hr : refusesPin e (addressed e a) (lineNumber a) with
    | true =>
      rw [pinEffect_refused hr]
      exact ⟨rfl, rfl, rfl, .inl ⟨rfl, rfl⟩⟩
    | false =>
      rw [pinEffect_taken hr]
      exact ⟨rfl, rfl, rfl, .inr ⟨rfl, pinOf_fetchedAndPinned ..⟩⟩
  case unpinned =>
    exact ⟨rfl, rfl, rfl, rfl, (pinOf_withPin ..).trans (ite_self _), fun l hl => find?_withPin_ne _ hl none⟩
  case asked =>
    exact ⟨_, _, ((icinvBody_of_released hf hr).trans (if_neg hsc.not_ge)).trans (broadcast_of_fresh _ _ hf), rfl, rfl⟩
  case answered =>
    exact ((icinvBody_of_answered ⟨v, hv⟩).trans (if_neg hsc.not_ge)).trans (broadcast_of_answered _ _ hv)

/-! ## FENCE (R275, R276) -/

/-- Whether a load or an atomic of the group still has reads to return (R276). -/
def readsLeft (e : Env) : Bool := (e.s.comb e.ck).ops.any fun o => decide (o.agent = e.th.uid) && decide (o.cls = 0) && o.unread

/-- The acquire half of a fence waits for the group's reads, and then drops the comb's L1 from DIE scope on (R276). -/
theorem fenceAcquire_eq (e : Env) (scope : Nat) : e.fenceAcquire scope =
    if readsLeft e then e.block .again else .ok ⟨if 2 ≤ scope then e.s.dropL1 e.ck else e.s, e.th, [], 0, none, .seq⟩ := rfl

/-- An issuer whose fence has released: its asynchronous instructions come behind it (R269). -/
def fencedNow (e : Env) : Env := { e with th := { e.th with fenced := e.s.nextUid } }

/-- What a fence does: its release half, then its acquire half (R275, R276). -/
def fenceBody (f : MForm) (e : Env) : Eff :=
  if isRel f then e.afterRelease f.scope.toNat fun _ => if isAcq f then (fencedNow e).fenceAcquire f.scope.toNat else e.out e.s (fencedNow e).th
  else if isAcq f then e.fenceAcquire f.scope.toNat else e.done []

theorem fence_eq (f : MForm) (s : State) : fence f s = issue s (fenceRule f) (fenceBody f) := rfl

section
variable {f : MForm} {e : Env}

theorem fenceAcquire_of_read (h : readsLeft e = false) (scope : Nat) :
    e.fenceAcquire scope = .ok ⟨if 2 ≤ scope then e.s.dropL1 e.ck else e.s, e.th, [], 0, none, .seq⟩ :=
  (fenceAcquire_eq e scope).trans (if_neg (by rw [h]; decide))

theorem fenceAcquire_of_unread (h : ¬ readsLeft e = false) (scope : Nat) : e.fenceAcquire scope = e.block .again :=
  (fenceAcquire_eq e scope).trans (if_pos (Bool.of_not_eq_false h))

theorem fenceBody_of_acquire (h : f.ord = 1) : fenceBody f e = e.fenceAcquire f.scope.toNat := by
  simp only [fenceBody, isRel, isAcq, h]
  rfl

theorem fenceBody_of_released (hrel : isRel f = true) (h : e.s.releaseDone e.ck e.th.uid f.scope.toNat e.s.nextUid = true) :
    fenceBody f e = if isAcq f then (fencedNow e).fenceAcquire f.scope.toNat else e.out e.s (fencedNow e).th :=
  (if_pos hrel).trans (if_pos h)

/-- A fence with a release half waits first for the group's writes (R275). -/
theorem fenceBody_of_unreleased (hrel : isRel f = true) (h : ¬ e.s.releaseDone e.ck e.th.uid f.scope.toNat e.s.nextUid = true) :
    fenceBody f e = e.block (.release f.scope.toNat) :=
  (if_pos hrel).trans (if_neg h)

end

theorem halves_of_ord_two {f : MForm} (h : f.ord = 2) : isRel f = true ∧ isAcq f = false := by simp only [isRel, isAcq, h]; decide
theorem halves_of_ord_three {f : MForm} (h : f.ord = 3) : isRel f = true ∧ isAcq f = true := by simp only [isRel, isAcq, h]; decide

theorem exec_fenceAcq (f : MForm) (s : State) : exec (.fenceAcq f) s = issue s (fenceRule f) (fenceBody f) := rfl
theorem exec_fenceRel (f : MForm) (s : State) : exec (.fenceRel f) s = issue s (fenceRule f) (fenceBody f) := rfl
theorem exec_fenceAcqrel (f : MForm) (s : State) : exec (.fenceAcqrel f) s = issue s (fenceRule f) (fenceBody f) := rfl
theorem exec_fenceSc (f : MForm) (s : State) : exec (.fenceSc f) s = issue s (fenceRule f) (fenceBody f) := rfl
theorem exec_fenceI (f : MForm) (s : State) : exec (.fenceI f) s = issue s (ruleFenceI f) fun e => e.out e.s { e.th with lbuf := [] } := rfl

theorem fences : Claim.Fences := by
  intro f reads released noted dropped again both
  have bothHalves {i : Instr} (hx : ∀ s, exec i s = issue s (fenceRule f) (fenceBody f)) (ho : f.ord = 3) : both i := by
    obtain ⟨hrel, hacq⟩ := halves_of_ord_three ho
    have acquires (e : Env) (h : released e) : fenceBody f e = (fencedNow e).fenceAcquire f.scope.toNat :=
      (fenceBody_of_released hrel h).trans (if_pos hacq)
    exact ⟨.of_body fun s => ⟨_, hx s, fun e ⟨hr, h⟩ => ⟨_, (acquires e h).trans (fenceAcquire_of_read (e := fencedNow e) hr _), rfl, rfl⟩⟩,
      .of_body fun s => ⟨_, hx s, fun e h => ⟨_, _, fenceBody_of_unreleased hrel h, rfl, rfl⟩⟩,
      .of_body fun s => ⟨_, hx s, fun e ⟨h, hr⟩ => ⟨_, _, (acquires e h).trans (fenceAcquire_of_unread (e := fencedNow e) hr _), rfl, rfl⟩⟩⟩
  refine ⟨fun ho => .of_body fun s => ⟨_, exec_fenceAcq f s, fun e hr => ⟨_, (fenceBody_of_acquire ho).trans (fenceAcquire_of_read hr _), rfl, rfl⟩⟩,
    fun ho => .of_body fun s => ⟨_, exec_fenceAcq f s, fun e hr => ⟨_, _, (fenceBody_of_acquire ho).trans (fenceAcquire_of_unread hr _), rfl, rfl⟩⟩,
    fun ho => .of_body fun s => ⟨_, exec_fenceRel f s, fun e h => ?released⟩,
    fun ho => .of_body fun s => ⟨_, exec_fenceRel f s, fun e h => ⟨_, _, fenceBody_of_unreleased (halves_of_ord_two ho).1 h, rfl, rfl⟩⟩,
    bothHalves (exec_fenceAcqrel f), bothHalves (exec_fenceSc f), .of_body fun s => ⟨_, exec_fenceI f s, fun e _ => ⟨_, rfl, rfl, rfl⟩⟩⟩
  case released =>
    obtain ⟨hrel, hacq⟩ := halves_of_ord_two ho
    exact ⟨_, (fenceBody_of_released hrel h).trans (if_neg (by rw [hacq]; decide)), rfl, rfl⟩

/-- Settles O16: each CCTL by what its access meets, and each fence by its halves. -/
theorem cachesAndFences : Obligations.CachesAndFences := ⟨cacheControl, fences⟩

end Sys2Proof.Proofs
end

section
namespace Sys2Proof.Proofs
open Sys2Proof Sys2Proof.Machine

/-! # The host's side (R248, R356, R446 to R448, R451 to R453, R456) -/

/-! ## The adapter's registers (R447, R448, R452) -/

section
variable (s : State) (v : BitVec 64)

theorem queueOpen_iff {ad : Adapter} : ad.queueOpen = true ↔ ad.qbaseOk = true ∧ ad.qsizeOk = true := Bool.and_eq_true_iff

/-- Whether the doorbell's QTAIL overruns the queue (R448). -/
def overruns (ad : Adapter) (v : BitVec 64) : Prop :=
  (ad.qhead + ad.qsize + ad.qsize - ad.qtail - 1) % ad.qsize < (v.toNat % ad.qsize + ad.qsize - ad.qtail) % ad.qsize

theorem exec_qtailWrite_closed (h : ¬ s.adapter.queueOpen = true) : exec (.qtailWrite v) s = .next s := if_neg h

theorem exec_qtailWrite_overruns (h : s.adapter.queueOpen = true) (ho : overruns s.adapter v) :
    exec (.qtailWrite v) s = .next (s.notify 4 (v.toNat % 2 ^ 32) 0 0) := (if_pos h).trans (if_pos ho)

theorem exec_qtailWrite_fits (h : s.adapter.queueOpen = true) (ho : ¬ overruns s.adapter v) :
    exec (.qtailWrite v) s = .next ({ s with adapter := { s.adapter with qtail := v.toNat % s.adapter.qsize } } : State).doorbell :=
  (if_pos h).trans (if_neg ho)

/-- The entries of the notice ring that a write to NSIZE and NHEAD names (R447). -/
def newNsize (v : BitVec 64) : Nat := v.toNat % 2 ^ 32

theorem exec_nsizeNheadWrite_bad (h : pow2In (newNsize v) 16 65536 = false) : exec (.nsizeNheadWrite v) s = .next s :=
  if_pos (by rw [Bool.not_eq_true']; exact h)

theorem exec_nsizeNheadWrite_sound (h : pow2In (newNsize v) 16 65536 = true) : exec (.nsizeNheadWrite v) s =
    if newNsize v = s.adapter.nsize then
      .next (({ s with adapter := { s.adapter with nhead := v.toNat / 2 ^ 32 % newNsize v } } : State).drainNotices s.adapter.held.length)
    else if s.adapter.nhead = s.adapter.ntail then
      .next (({ s with adapter := { s.adapter with nsize := newNsize v, nsizeOk := true, nhead := 0, ntail := 0 } } : State).drainNotices s.adapter.held.length)
    else .next s :=
  if_neg (by rw [Bool.not_eq_true', Bool.not_eq_false]; exact h)

end

theorem adapterRegisters : Claim.AdapterRegisters := by
  intro s v fa ad up q new overrun baseOk sizeOk ringOk n queueOpen
  refine ⟨fun h => if_pos h, fun h => if_neg h, fun h => if_pos h, fun h => if_neg h,
    fun h ho => exec_qtailWrite_fits s v (queueOpen_iff.2 h) ho, fun h ho => exec_qtailWrite_overruns s v (queueOpen_iff.2 h) ho,
    fun h => exec_qtailWrite_closed s v (mt queueOpen_iff.1 h), fun h => if_pos h, fun h => if_neg h,
    fun hp hne he => ((exec_nsizeNheadWrite_sound s v hp).trans (if_neg hne)).trans (if_pos he), fun hp he => ?moved, ?refused,
    fun hup ha => if_pos ⟨hup, by rw [Bool.not_eq_true']; exact ha⟩, fun h => if_neg ?taken, ⟨_, _, rfl⟩⟩
  case moved =>
    have hn : newNsize v = ad.nsize := he
    rw [exec_nsizeNheadWrite_sound s v hp, if_pos hn, hn]
  case refused =>
    rintro (hp | ⟨hne, he⟩)
    · exact exec_nsizeNheadWrite_bad s v hp
    · cases hp : pow2In (newNsize v) 16 65536 with
      | false => exact exec_nsizeNheadWrite_bad s v hp
      | true => exact ((exec_nsizeNheadWrite_sound s v hp).trans (if_neg hne)).trans (if_neg he)
  case taken =>
    rintro ⟨hup, ha⟩
    rw [Bool.not_eq_true'] at ha
    exact h.elim (· hup) fun h => absurd (ha.symm.trans h) (by decide)

/-! ## Registers of the hive controller and error counts (R248, R356, R451, R453, R456) -/

section
variable {s : State} {off : Nat} {v : BitVec 64}

theorem clearErr_of_lt (die : Nat) {word : Nat} (h : word < 16) :
    s.clearErr die word = s.modDie die fun d => { d with errCounts := Sparse.set 0 d.errCounts word 0 } := if_pos h

theorem exec_registerWrite_plain (h : hiveReg off = .plain) :
    exec (.registerWrite off v) s = .next { s with hive := { s.hive with regs := Sparse.set 0 s.hive.regs (off / 8 * 8) v } } := by
  simp only [exec, execRegisterWrite, h]

theorem exec_registerWrite_errors (h : hiveReg off = .errors) :
    exec (.registerWrite off v) s = .next (if v = 0 then s.clearErr (off / 2 ^ 12 % 64) (off % 2 ^ 12 / 4) else s) := by
  simp only [exec, execRegisterWrite, h]

theorem exec_registerWrite_steward (h : hiveReg off = .steward) :
    exec (.registerWrite off v) s = .next (s.driverMsg (off / 2 ^ 12 % 64) (off % 2 ^ 12 / 8) v) := by
  simp only [exec, execRegisterWrite, h]

theorem exec_registerWrite_pairing (h : hiveReg off = .pairing) (hp : off % 2 ^ 20 / 8 < 48) : exec (.registerWrite off v) s =
    .next { s with hive := { s.hive with pairing := Sparse.set 0 s.hive.pairing (off % 2 ^ 20 / 8) v.toNat } } := by
  simp only [exec, execRegisterWrite, h, if_pos hp]

theorem exec_registerWrite_cap (h : hiveReg off = .cap) : exec (.registerWrite off v) s =
    .next (if off / 2 ^ 12 % 64 < 36 ∧ 200 ≤ v.toNat ∧ v.toNat ≤ 360 then s.modDie (off / 2 ^ 12 % 64) fun d => { d with cap := v.toNat } else s) := by
  simp only [exec, execRegisterWrite, h]

/-- What the driver only reads keeps what it holds. -/
theorem exec_registerWrite_readOnly (h : hiveReg off ∉ [.plain, .errors, .steward, .pairing, .cap]) : exec (.registerWrite off v) s = .next s := by
  simp only [exec, execRegisterWrite]
  split
  iterate 5 next hr => simp [hr] at h
  rfl

end

/-! ## Flits (R446) -/

/-- The machine once a link's next flit has moved its sequence on. -/
def sequenced (s : State) (link : Nat) : State :=
  { s with adapter := { s.adapter with rxSeq := s.adapter.rxSeq.set link ((s.adapter.rxSeq.getD link 0 + 1) % 256) } }

/-- The machine once a flit that is not an acknowledgement is acknowledged (R446). -/
def acknowledged (s : State) (link : Nat) (f : Flit) : State :=
  (sequenced s link).sendFlit link 4 f.tag 0 (leBytes 1 (s.adapter.rxSeq.getD link 0))

/-- A flit with the CRC of its bytes that is the next of its live link, with a length that R446 allows. -/
def Taken (s : State) (link : Nat) (f : Flit) : Prop :=
  f.crc = flitCrc f ∧ link < 2 ∧ (s.die (linkDie link)).live = true ∧ f.seq % 256 = s.adapter.rxSeq.getD link 0 ∧ 0 < f.len ∧ f.len ≤ 240

/-- What a flit does after its acknowledgement, by its type (R446). -/
def flitEffect (link : Nat) (f : Flit) (s : State) : Host.Outcome State Fault Refusal :=
  match f.kind with
  | 1 => .next (if s.hostMay f.addr f.len then s.sendFlit link 2 f.tag 0 (s.bytesNow f.addr f.len) else s)
  | 3 =>
    if s.hostMay f.addr (f.payload.take f.len).length then
      .next (s.putBytes 0xFF 2 (byteItems ((List.range (f.payload.take f.len).length).map (f.addr + ·)) (leNat (f.payload.take f.len))))
    else .next s
  | 4 => .next (s.acked link (leNat (f.payload.take 1)))
  | 5 => s.hostRegister link f.tag f.len f.addr (f.payload.take f.len)
  | _ => .next s

section
variable {s : State} {link : Nat} {f : Flit}

theorem exec_flitReceive_taken (h : Taken s link f) : exec (.flitReceive link f) s =
    flitEffect link f (if f.kind = 4 then sequenced s link else acknowledged s link f) := by
  obtain ⟨hcrc, hlink, hlive, hseq, hpos, hlen⟩ := h
  exact (if_pos ⟨hcrc, hlink, hlive, hseq⟩).trans (if_neg (by omega))

/-- A flit with another CRC or out of its sequence has no effect (R446). -/
theorem exec_flitReceive_wrong (h : f.crc ≠ flitCrc f ∨ f.seq % 256 ≠ s.adapter.rxSeq.getD link 0) : exec (.flitReceive link f) s = .next s :=
  if_neg fun ⟨hcrc, _, _, hseq⟩ => h.elim (· hcrc) (· hseq)

theorem exec_flitReceive_acknowledged (h : Taken s link f) (hk : f.kind ≠ 4) :
    exec (.flitReceive link f) s = flitEffect link f (acknowledged s link f) := by
  rw [exec_flitReceive_taken h, if_neg hk]

theorem exec_flitReceive_read (h : Taken s link f) (hk : f.kind = 1) (hm : (acknowledged s link f).hostMay f.addr f.len = true) :
    exec (.flitReceive link f) s =
      .next ((acknowledged s link f).sendFlit link 2 f.tag 0 ((acknowledged s link f).bytesNow f.addr f.len)) := by
  rw [exec_flitReceive_acknowledged h (by omega)]
  simp only [flitEffect, hk, hm, if_true]

theorem exec_flitReceive_write (h : Taken s link f) (hk : f.kind = 3)
    (hm : (acknowledged s link f).hostMay f.addr (f.payload.take f.len).length = true) : exec (.flitReceive link f) s =
      .next ((acknowledged s link f).putBytes 0xFF 2
        (byteItems ((List.range (f.payload.take f.len).length).map (f.addr + ·)) (leNat (f.payload.take f.len)))) := by
  rw [exec_flitReceive_acknowledged h (by omega)]
  simp only [flitEffect, hk, hm, if_true]

theorem exec_flitReceive_ack (h : Taken s link f) (hk : f.kind = 4) :
    exec (.flitReceive link f) s = .next ((sequenced s link).acked link (leNat (f.payload.take 1))) := by
  rw [exec_flitReceive_taken h, if_pos hk]
  simp only [flitEffect, hk]

theorem exec_flitReceive_register (h : Taken s link f) (hk : f.kind = 5) :
    exec (.flitReceive link f) s = (acknowledged s link f).hostRegister link f.tag f.len f.addr (f.payload.take f.len) := by
  rw [exec_flitReceive_acknowledged h (by omega)]
  simp only [flitEffect, hk]

end

/-! ## Register accesses of flits (R446, R447) -/

theorem hostRegister_read (s : State) (link tag n off : Nat) :
    s.hostRegister link tag n off [] = .next (s.reply link tag (((s.adapterBytes off).getD (s.hiveBytes off)).take n)) := rfl

/-- The offsets of the adapter's registers (R447). -/
def adapterOffsets : List Nat := [0x000, 0x010, 0x020, 0x040, 0x048, 0x050, 0x058, 0x060, 0x068, 0x070]

/-- A write to another offset than the adapter's goes to the hive controller. -/
theorem hostRegister_hive (s : State) (link tag n : Nat) {off : Nat} {bs : List Byte} (h : bs ≠ []) (ho : adapterOffsets.contains off = false) :
    s.hostRegister link tag n off bs = exec (.registerWrite off (BitVec.ofNat 64 (leNat (bs.take 8)))) s := by
  have hb : ¬ bs.isEmpty = true := mt List.isEmpty_iff.1 h
  simp only [State.hostRegister, if_neg hb]
  split
  iterate 10 exact absurd ho (by decide)
  rfl

/-! ## The replay buffer (R446) -/

/-- An acknowledgement of the first flit of its number drops the link's flits up to it and keeps the others. -/
theorem dropAcked_append {link : Nat} {g : Flit} (post : List (Nat × Flit)) : ∀ pre : List (Nat × Flit), (∀ y ∈ pre, y.1 = link → y.2.seq ≠ g.seq) →
    dropAcked link g.seq (pre ++ (link, g) :: post) = (pre.filter fun y => decide (y.1 ≠ link)) ++ post
  | [], _ => (if_pos rfl).trans (if_pos rfl)
  | y :: ys, h => by
    have ih := dropAcked_append post ys fun z hz => h z (List.mem_cons_of_mem _ hz)
    by_cases hy : y.1 = link
    · have hne : y.2.seq ≠ g.seq := h y (List.mem_cons_self ..) hy
      rw [List.cons_append, dropAcked, if_pos hy, if_neg hne, ih, List.filter_cons_of_neg (by simpa using hy)]
    · rw [List.cons_append, dropAcked, if_neg hy, ih, List.filter_cons_of_pos (by simpa using hy), List.cons_append]

theorem replay_acked {s : State} {link : Nat} {g : Flit} {pre post : List (Nat × Flit)} (hr : s.adapter.replay = pre ++ (link, g) :: post)
    (hpre : ∀ y ∈ pre, y.1 = link → y.2.seq ≠ g.seq) :
    (s.acked link g.seq).adapter.replay = (pre.filter fun y => decide (y.1 ≠ link)) ++ post := by
  have hin : (s.adapter.replay.any fun x => decide (x.1 = link) && decide (x.2.seq = g.seq)) = true :=
    List.any_eq_true.2 ⟨(link, g), hr ▸ List.mem_append_right _ (List.mem_cons_self ..), by simp⟩
  rw [State.acked, if_pos hin]
  exact (congrArg _ hr).trans (dropAcked_append post pre hpre)

theorem hostAccesses : Claim.HostAccesses := by
  intro s off die word link v f want takes wrong r s' bs cleared at' w
  refine ⟨exec_registerWrite_plain, fun h hv hw => ?cleared, fun h hv => (exec_registerWrite_errors h).trans (congrArg _ (if_neg hv)),
    exec_registerWrite_steward, exec_registerWrite_pairing, fun h hd hlo hhi => (exec_registerWrite_cap h).trans (congrArg _ (if_pos ⟨hd, hlo, hhi⟩)),
    fun h hv => (exec_registerWrite_cap h).trans (congrArg _ (if_neg ?outside)), exec_registerWrite_readOnly,
    fun hw => congrArg _ (clearErr_of_lt die hw), exec_flitReceive_wrong, exec_flitReceive_read, exec_flitReceive_write, exec_flitReceive_ack,
    fun h hk hb => ?read, ⟨rfl, fun hl => ?sequence, fun pre post g => replay_acked⟩, fun h hk hb => ?written⟩
  case cleared =>
    exact (exec_registerWrite_errors h).trans (congrArg _ ((if_pos hv).trans (clearErr_of_lt at' hw)))
  case outside => omega
  case read =>
    have hb' : f.payload.take f.len = [] := hb
    rw [exec_flitReceive_register h hk, hb']
    rfl
  case sequence =>
    exact (List.getD_eq_getElem _ _ ((List.length_set ..).symm ▸ hl)).trans (List.getElem_set_self ..)
  case written =>
    have hne : ¬ bs.isEmpty = true := mt List.isEmpty_iff.1 hb
    have reg {x : Nat} (ha : f.addr = x) : exec (.flitReceive link f) s = s'.hostRegister link f.tag f.len x bs :=
      ha ▸ exec_flitReceive_register h hk
    refine ⟨fun ha => (reg ha).trans (if_neg hne), fun ha => (reg ha).trans (if_neg hne), fun ha => (reg ha).trans (if_neg hne),
      fun ha => (reg ha).trans (if_neg hne), fun ha => (reg ha).trans (if_neg hne), fun ha => (reg ha).trans (if_neg hne), ?_,
      fun ho => (reg rfl).trans (hostRegister_hive s' link f.tag f.len hb ho)⟩
    rintro (ha | ha | ha | ha)
    all_goals exact (reg ha).trans (if_neg hne)

/-- Settles O42: the adapter's registers by their checks, and the host's accesses by what they name. -/
theorem hostInterface : Obligations.HostInterface := ⟨adapterRegisters, hostAccesses⟩

end Sys2Proof.Proofs
end

section
namespace Sys2Proof.Proofs
open Sys2Proof Sys2Proof.Machine

/-! # The frame of loads, stores and atomics of a group (R225, R256, R257, R265, R285, R292) -/

/-! ## What stands outside a group's slot -/

/-- The parts of a machine that hold its combs, its bytes, its messages, its contexts and the host's side. -/
def framedParts (s : State) : List (Nat × Comb) × (List Host.Cell × List Host.Cell × List (Nat × Line)) × (List Msg × List (Nat × CtxRec) × Hive × Adapter) :=
  (s.combs, (s.hbm, s.host, s.l2), (s.msgs, s.ctxs, s.hive, s.adapter))

/-- Of two machines the bytes, the messages, the contexts, the host's side, every other comb than `ck`, and of that comb the
teams and every other group than that of `slot` are the same. -/
structure SlotFrame (ck slot : Nat) (s t : State) : Prop where
  rawByte : ∀ loc, t.rawByte loc = s.rawByte loc
  hbm : t.hbm = s.hbm
  l2 : t.l2 = s.l2
  msgs : t.msgs = s.msgs
  ctxs : t.ctxs = s.ctxs
  hive : t.hive = s.hive
  adapter : t.adapter = s.adapter
  combs : ∀ k, k ≠ ck → t.comb k = s.comb k
  groups : ∀ j, j ≠ slot → Sparse.find? (t.comb ck).groups j = Sparse.find? (s.comb ck).groups j
  teams : (t.comb ck).teams = (s.comb ck).teams

namespace SlotFrame

variable {ck slot : Nat} {s t u : State}

theorem byteNow (h : SlotFrame ck slot s t) (loc : Nat) : t.byteNow loc = s.byteNow loc := byteNow_congr h.l2 h.hbm h.rawByte loc

theorem refl (ck slot : Nat) (s : State) : SlotFrame ck slot s s :=
  ⟨fun _ => rfl, rfl, rfl, rfl, rfl, rfl, rfl, fun _ _ => rfl, fun _ _ => rfl, rfl⟩

theorem trans (h : SlotFrame ck slot s t) (g : SlotFrame ck slot t u) : SlotFrame ck slot s u :=
  ⟨fun loc => (g.rawByte loc).trans (h.rawByte loc), g.hbm.trans h.hbm, g.l2.trans h.l2, g.msgs.trans h.msgs, g.ctxs.trans h.ctxs,
    g.hive.trans h.hive, g.adapter.trans h.adapter, fun k hk => (g.combs k hk).trans (h.combs k hk),
    fun j hj => (g.groups j hj).trans (h.groups j hj), g.teams.trans h.teams⟩

/-- Steps that each keep the frame keep it together. -/
theorem foldl {α : Type} {f : State → α → State} (h : ∀ s x, SlotFrame ck slot s (f s x)) (xs : List α) (s : State) :
    SlotFrame ck slot s (xs.foldl f s) :=
  foldl_inv (SlotFrame ck slot s) f (fun t x ht => ht.trans (h t x)) xs s (.refl ck slot s)

theorem of_parts (h : framedParts t = framedParts s) : SlotFrame ck slot s t := by
  simp only [framedParts, Prod.mk.injEq] at h
  obtain ⟨hcombs, ⟨hhbm, hhost, hl2⟩, hmsgs, hctxs, hhive, hadapter⟩ := h
  have hcomb (k : Nat) : t.comb k = s.comb k := congrArg (Sparse.get Comb.reset · k) hcombs
  exact ⟨rawByte_congr hcombs hhbm hhost, hhbm, hl2, hmsgs, hctxs, hhive, hadapter, fun k _ => hcomb k,
    fun j _ => by rw [hcomb], by rw [hcomb]⟩

/-- A change of the comb that leaves its scratch, its other groups and its teams. -/
theorem modComb (s : State) {f : Comb → Comb} (hscratch : ∀ c, (f c).scratch = c.scratch)
    (hgroups : ∀ c, ∀ j, j ≠ slot → Sparse.find? (f c).groups j = Sparse.find? c.groups j) (hteams : ∀ c, (f c).teams = c.teams) :
    SlotFrame ck slot s (s.modComb ck f) where
  rawByte := rawByte_modComb s ck f (hscratch _)
  hbm := rfl
  l2 := rfl
  msgs := rfl
  ctxs := rfl
  hive := rfl
  adapter := rfl
  combs _ hk := State.comb_modComb_ne s f hk
  groups j hj := (congrArg (fun c : Comb => Sparse.find? c.groups j) (State.comb_modComb_self s ck f)).trans (hgroups _ j hj)
  teams := (congrArg Comb.teams (State.comb_modComb_self s ck f)).trans (hteams _)

end SlotFrame

section
variable (ck slot : Nat) (s : State)

theorem slotFrame_modL1 (f : Comb → List L1Line) : SlotFrame ck slot s (s.modComb ck fun c => { c with l1 := f c }) :=
  .modComb s (fun _ => rfl) (fun _ _ _ => rfl) fun _ => rfl

theorem slotFrame_modOps (f : Comb → List AsyncOp) : SlotFrame ck slot s (s.modComb ck fun c => { c with ops := f c }) :=
  .modComb s (fun _ => rfl) (fun _ _ _ => rfl) fun _ => rfl

/-! ## Translations and loads served (R200, R242, R249, R261) -/

theorem slotFrame_tlbNote (ctx : Nat) (acc : Access) (l : Leaf) : SlotFrame ck slot s (s.tlbNote ck ctx acc l) := by
  refine SlotFrame.trans (.modComb s (f := fun c => if acc = .exec then { c with itlb := tlbAdd 32 c.itlb ctx l }
    else { c with dtlb := tlbAdd 128 c.dtlb ctx l }) (fun c => ?_) (fun c j _ => ?_) fun c => ?_) (.of_parts rfl)
  all_goals split <;> rfl

theorem slotFrame_noteAccs_write (ctx : Nat) (as : List LaneAcc) : SlotFrame ck slot s (s.noteAccs ck ctx .write as) :=
  .foldl (f := fun s (a : LaneAcc) => (s.tlbNote ck ctx .write a.leaf).tlbNote ck ctx .write a.last)
    (fun s a => (slotFrame_tlbNote ck slot s ctx .write a.leaf).trans (slotFrame_tlbNote ck slot _ ctx .write a.last)) as s

theorem replicaReads_of_place {l : Leaf} (h : l.place ≠ 2) (va n : Nat) : l.replicaReads va n = [] := if_neg h

/-- Reads on pages that are not REPLICATED bring nothing into the die's copies (R225). -/
theorem slotFrame_noteAccs_read (ctx : Nat) (as : List LaneAcc) (h : ∀ a ∈ as, a.leaf.place ≠ 2 ∧ a.last.place ≠ 2) :
    SlotFrame ck slot s (s.noteAccs ck ctx .read as) := by
  have hnone : (as.flatMap fun a => a.leaf.replicaReads a.va a.locs.length ++
      (if a.last = a.leaf then [] else a.last.replicaReads a.va a.locs.length)) = [] :=
    List.flatMap_eq_nil_iff.2 fun a ha => by
      rw [replicaReads_of_place (h a ha).1, replicaReads_of_place (h a ha).2, ite_self, List.nil_append]
  unfold State.noteAccs
  dsimp only
  rw [if_pos rfl, hnone]
  exact .foldl (f := fun s (a : LaneAcc) => (s.tlbNote ck ctx .read a.leaf).tlbNote ck ctx .read a.last)
    (fun s a => (slotFrame_tlbNote ck slot s ctx .read a.leaf).trans (slotFrame_tlbNote ck slot _ ctx .read a.last)) as s

theorem framedParts_startFill (x : Fill) : framedParts (s.startFill x) = framedParts s := by
  unfold State.startFill
  split <;> rfl

theorem framedParts_laneFills (uid : Nat) (r : LaneRead) : framedParts (s.laneFills uid r) = framedParts s := by
  have hfill (s : State) (c : Prop) [Decidable c] (x : Fill) : framedParts (if c then s else s.startFill x) = framedParts s := by
    split
    · rfl
    · exact framedParts_startFill s x
  unfold State.laneFills
  split
  · exact view_foldl framedParts (fun s _ => hfill s _ _) _ s
  · exact view_foldl framedParts (fun s _ => hfill s _ _) _ s

theorem slotFrame_serveLane (op : AsyncOp) (useL1 acq : Bool) (r : LaneRead) : SlotFrame ck slot s (s.serveLane ck op useL1 acq r).1 := by
  have hadd (t : State) (o : Option L1Line) : SlotFrame ck slot t (match o with
      | some l => t.modComb ck fun c => c.addL1 l
      | none => t) := by
    cases o with
    | none => exact .refl ck slot t
    | some l =>
      have h := slotFrame_modL1 ck slot t fun c => (c.addL1 l).l1
      simpa only [← addL1_frame] using h
  have hdrop (b : Bool) (p : L1Line → Bool) : SlotFrame ck slot s (if b then s.dropL1 ck else s.dropL1Where ck p) := by
    split
    · exact slotFrame_modL1 ck slot s fun _ => []
    · exact slotFrame_modL1 ck slot s fun c => c.l1.filter fun l => !p l
  unfold State.serveLane
  split
  · exact .refl ck slot s
  split
  · exact .refl ck slot s
  split
  · exact .refl ck slot s
  split
  · exact .refl ck slot s
  split
  · exact .of_parts (framedParts_laneFills s op.uid r)
  dsimp only
  refine (hdrop acq fun l => l.holds r).trans ?_
  generalize (if acq then s.dropL1 ck else s.dropL1Where ck fun l => l.holds r) = t
  split
  · exact hadd _ _
  · exact .refl ck slot _

theorem slotFrame_serveLanes (op : AsyncOp) (useL1 acq : Bool) (rs : List LaneRead) (d : Served) :
    SlotFrame ck slot s (s.serveLanes ck op useL1 acq rs d).1 := by
  induction rs generalizing s d with
  | nil => exact .refl ck slot s
  | cons r rs ih =>
    have h := slotFrame_serveLane ck slot s op useL1 acq r
    unfold State.serveLanes
    split
    all_goals
      next he =>
      rw [he] at h
      exact h.trans (ih ..)

theorem slotFrame_noteBad (ctx : Nat) (rs : List LaneRead) : SlotFrame ck slot s (s.noteBad ck ctx rs) := by
  refine .foldl (fun t r => ?_) rs s
  have hcount (u : State) (es : List (Nat × Nat × Bool)) : SlotFrame ck slot u (es.foldl (fun x e => x.countLost e.2.1 e.2.2) u) :=
    .foldl (f := fun x (e : Nat × Nat × Bool) => x.countLost e.2.1 e.2.2) (fun _ _ => .of_parts rfl) es u
  refine SlotFrame.trans ?_ (hcount _ _)
  split
  · exact .modComb t (fun _ => rfl) (fun _ _ _ => rfl) fun _ => rfl
  · exact .refl ck slot t

theorem slotFrame_serveOp (op : AsyncOp) : SlotFrame ck slot s (s.serveOp ck op).1 := by
  unfold State.serveOp
  split
  · next sh p got tog l1 acq n _ =>
    have h := slotFrame_serveLanes ck slot s op l1 (acq && decide (2 ≤ op.scope)) p ⟨[], got, []⟩
    generalize State.serveLanes .. = x at h ⊢
    have hserved (op' : AsyncOp) : SlotFrame ck slot s (if tog && !x.2.left.isEmpty then (x.1, op) else (x.1.noteBad ck op.ctx x.2.bad, op')).1 := by
      split
      · exact h
      · exact h.trans (slotFrame_noteBad ..)
    dsimp only
    cases op.release with
    | none => exact hserved _
    | some sc =>
      dsimp only
      split
      · exact hserved _
      · exact .refl ck slot s
  · exact .refl ck slot s

theorem slotFrame_serveComb : SlotFrame ck slot s (s.serveComb ck) :=
  .foldl (fun s op => (slotFrame_serveOp ck slot s op).trans (slotFrame_modOps ck slot _ _)) _ s

end

/-! ## Writes sent and operations registered (R242, R256, R264, R265, R270) -/

section
variable (e : Env) (slot : Nat) (s : State)

theorem slotFrame_addStore (ck ctx : Nat) (w : Writer) (release : Option Nat) (mtype : Nat) (kind : StoreKind) (op : Option Nat) :
    SlotFrame ck slot s (s.addStore ck ctx w release mtype kind op) := .of_parts rfl

theorem slotFrame_storeL1 (ck : Nat) (b : Bool) (items : List (Nat × Byte × Byte)) :
    SlotFrame ck slot s (if b then s.modComb ck fun c => c.storeL1 items else s) := by
  split
  · exact slotFrame_modL1 ck slot s fun c => (c.storeL1 items).l1
  · exact .refl ck slot s

theorem slotFrame_storeLane (who : Writer) (rel : Bool) (scope : Nat) (a : LaneAcc) (x : Nat) :
    SlotFrame e.ck slot s (e.storeLane s who rel scope a x) := by
  unfold Env.storeLane
  extract_lets ctx r items s'
  have hl1 : SlotFrame e.ck slot s s' := slotFrame_storeL1 slot s e.ck r.isNone items
  split
  · exact hl1.trans (slotFrame_addStore ..)
  · exact hl1.trans (.foldl (f := fun s it => s.addStore e.ck ctx who r a.mtype (.bytes [it]) none) (fun s _ => slotFrame_addStore slot s ..) items s')

theorem slotFrame_storeLanes (who : Writer) (rel : Bool) (scope n : Nat) (as : List LaneAcc) (x : Nat → Nat) :
    SlotFrame e.ck slot s (e.storeLanes s who rel scope n as x) := by
  unfold Env.storeLanes
  split
  · extract_lets items mtype r s'
    exact (slotFrame_storeL1 slot s e.ck r.isNone items).trans (slotFrame_addStore ..)
  · exact .foldl (fun s a => slotFrame_storeLane e slot s who rel scope a _) as s

theorem slotFrame_atomLanes (who : Writer) (op : Option Nat) (rel : Bool) (scope code : Nat) (as : List LaneAcc) (d cmp : Nat → Nat) :
    SlotFrame e.ck slot s (e.atomLanes s who op rel scope code as d cmp) :=
  .foldl (fun s _ => slotFrame_addStore slot s ..) as s

theorem slotFrame_async (th : Thread) (cls scope : Nat) (release : Option Nat) (kind : OpKind) (dsts : List (Nat × List Nat)) (due : Nat)
    (inv engine : Bool) : SlotFrame e.ck slot s (e.async s th cls scope release kind dsts due inv engine).1 := by
  unfold Env.async
  extract_lets after op s'
  exact SlotFrame.trans (t := s') (.of_parts rfl) (slotFrame_modOps e.ck slot s' fun c => c.ops ++ [op])

theorem slotFrame_scratchPort (lanes : List (Nat × Nat)) : SlotFrame e.ck slot s (e.scratchPort s lanes).1 := by
  unfold Env.scratchPort Env.takePort
  dsimp only
  split
  · exact .refl e.ck slot s
  · dsimp only
    refine .modComb s ?_ ?_ ?_ <;> intros <;> rfl

end

/-! ## Effects -/

/-- An effect that leaves what stands outside the slot, and its thread as doomed as the issuer's. -/
def FramedEff (slot : Nat) (e : Env) : Eff → Prop
  | .ok o => SlotFrame e.ck slot e.s o.s ∧ o.th.doomed = e.th.doomed
  | .fault _ => True
  | .wait s th => SlotFrame e.ck slot e.s s ∧ th.doomed = e.th.doomed

section
variable {slot : Nat} {e : Env}

theorem framedEff_out {s : State} (hs : SlotFrame e.ck slot e.s s) : FramedEff slot e (e.out s e.th) := ⟨hs, rfl⟩

/-- A load that is issued completes, and leaves what stands outside the slot. -/
theorem load_completes (e : Env) (slot : Nat) (s : State) (shape : LoadShape) (reads : List LaneRead) (together l1 acq : Bool) (scope : Nat)
    (inv : Bool) (engine : Option (Option Nat)) (due : Nat) :
    ∃ o, e.load s shape reads together l1 acq scope inv engine due = .ok o ∧ o.trap = none ∧ o.th.doomed = e.th.doomed ∧ SlotFrame e.ck slot s o.s :=
  ⟨_, rfl, rfl, rfl, (slotFrame_async ..).trans (slotFrame_serveComb ..)⟩

theorem framedEff_loadScratch (lanes : List (Nat × Nat)) (size dst scope : Nat) (acq : Bool) :
    FramedEff slot e (e.loadScratch lanes size dst scope acq) := by
  unfold Env.loadScratch
  dsimp only
  split
  · trivial
  · obtain ⟨o, ho, -, hth, hs⟩ := load_completes e slot (e.scratchPort e.s lanes).1 ⟨sizeSext size, dst, sizeRegs size⟩
      (lanes.map fun l => ⟨l.1, l.2, scratchLocs e.ck l.2 (sizeBytes size), 0, 8 * sizeBytes size, none, 1, [], none⟩) false false acq scope
      false none (e.scratchPort e.s lanes).2
    rw [ho]
    exact ⟨(slotFrame_scratchPort ..).trans hs, hth⟩

theorem framedEff_buffer {s : State} (hs : SlotFrame e.ck slot e.s s) (es : List CommitEnt) :
    FramedEff slot e (e.buffer s es fun s th => e.out s th) := by
  unfold Env.buffer
  dsimp only
  split
  · trivial
  · exact ⟨hs, rfl⟩

theorem framedEff_atomGlobal (f : MForm) (code : Nat) (lanes : List (Nat × Nat)) (d cmp : Nat → Nat) :
    FramedEff slot e (e.atomGlobal f code lanes d cmp) := by
  unfold Env.atomGlobal
  dsimp only
  split
  · trivial
  · exact ⟨(slotFrame_noteAccs_write ..).trans ((slotFrame_async ..).trans (slotFrame_atomLanes ..)), rfl⟩

theorem framedEff_remoteOp (f : MForm) {s : State} {put : State → Writer → State} (hs : SlotFrame e.ck slot e.s s)
    (hput : ∀ t w, SlotFrame e.ck slot t (put t w)) : FramedEff slot e (e.remoteOp f s put) := by
  unfold Env.remoteOp
  extract_lets u r s' items
  have hs' : SlotFrame e.ck slot e.s s' := hs.trans ((slotFrame_async ..).trans (hput _ _))
  refine ⟨hs'.trans ?_, rfl⟩
  dsimp only
  exact slotFrame_modOps e.ck slot s' _

end

/-! ## Issues of a group's instruction -/

section
variable (s : State) (d c k : Nat)

theorem slotFrame_setThread (th : Thread) : SlotFrame (combKey d c) k s (s.setThread (.group d c k) th) :=
  .modComb s (f := fun x => { x with groups := Sparse.put x.groups k th }) (fun _ => rfl) (fun _ _ hj => Sparse.find?_put_ne _ _ hj) fun _ => rfl

theorem slotFrame_ranOn (x : Thread) (slots : Comb → List (Nat × Nat)) (clk : Comb → Nat) :
    SlotFrame (combKey d c) k s (ranOn s (.group d c k) x slots clk) := by
  have htick : SlotFrame (combKey d c) k (s.setThread (.group d c k) x) ((s.setThread (.group d c k) x).modComb (combKey d c) (ticked slots clk)) :=
    .modComb _ (fun _ => rfl) (fun _ _ _ => rfl) fun _ => rfl
  exact (slotFrame_setThread s d c k x).trans (htick.trans (.of_parts rfl))

/-- The end of an issue of a thread that no GKILL has named changes only its slot. -/
theorem slotFrame_endIssue {th : Thread} (hd : th.doomed = none) (r : Rule) (t due : Nat) :
    SlotFrame (combKey d c) k s (s.endIssue (.group d c k) th r t due) := by
  obtain ⟨x, slots, clk, -, h⟩ := endIssue_of_not_doomed s (.group d c k) th r t due hd
  rw [h]
  exact slotFrame_ranOn s d c k x slots clk

/-- A thread that waits and that no GKILL has named is stored, and takes the issue slot at most. -/
theorem slotFrame_endWait {th : Thread} (hd : th.doomed = none) (t : Nat) : SlotFrame (combKey d c) k s (s.endWait (.group d c k) th t) := by
  unfold State.endWait
  extract_lets waited stalls th' s1 s2
  have hs2 : s2 = ranOn s (.group d c k) th' (fun c' => (if waited = true then c' else c'.occupy (.group d c k) (t + 1)).slotFree) (fun c' => Nat.max c'.clk t) := by
    simp only [s2, s1, tick_frame]
    rfl
  have hdoom : ¬ th'.doomed.isSome = true := by rw [show th'.doomed = none from hd]; decide
  have h2 : SlotFrame (combKey d c) k s s2 := hs2 ▸ slotFrame_ranOn ..
  dsimp only
  rwa [if_neg hdoom]

theorem postTrap_frame (c : Comb) (th : Thread) : c.postTrap k th =
    { c with evq := (c.postTrap k th).evq, groups := (c.postTrap k th).groups, pendTraps := (c.postTrap k th).pendTraps, overflow := (c.postTrap k th).overflow } := by
  unfold Comb.postTrap
  extract_lets
  repeat' split
  all_goals rfl

theorem slotFrame_postTrap (th : Thread) : SlotFrame (combKey d c) k s (s.modComb (combKey d c) fun x => x.postTrap k th) :=
  .modComb s (fun x => by rw [postTrap_frame]) (fun x j hj => by rw [groups_postTrap, Sparse.find?_put_ne _ _ hj]) fun x => by rw [postTrap_frame]

theorem slotFrame_takeTrap {th : Thread} (hd : th.doomed = none) (f : TrapInfo) : SlotFrame (combKey d c) k s (s.takeTrap (.group d c k) th f) := by
  obtain ⟨cur, h⟩ := takeTrap_group hd s d c k f
  rw [h]
  exact SlotFrame.trans (t := { s with cur := cur }) (.of_parts rfl) (slotFrame_postTrap _ d c k _)

theorem slotFrame_trapAgent {th : Thread} (hd : th.doomed = none) (f : TrapInfo) : SlotFrame (combKey d c) k s (s.trapAgent (.group d c k) th f) :=
  slotFrame_takeTrap s d c k hd f

theorem slotFrame_tick (ck t : Nat) : SlotFrame ck k s (s.tick ck t) := .modComb s (fun _ => rfl) (fun _ _ _ => rfl) fun _ => rfl

theorem framedParts_countTables (ck : Nat) (ctx : Option Nat) (code va : Nat) : framedParts (s.countTables ck ctx code va) = framedParts s := by
  unfold State.countTables
  split
  · rfl
  · refine view_foldl framedParts (fun t w => ?_) _ s
    split <;> rfl

end

section
variable {d c k : Nat} {x : Issue} (ha : x.env.ag = .group d c k) (hck : x.env.ck = combKey d c) (hd : x.env.th.doomed = none)
include ha hck hd

theorem slotFrame_issueTrap (f : TrapInfo) : SlotFrame (combKey d c) k x.env.s (x.trap f) := by
  unfold Issue.trap
  rw [ha, hck]
  exact SlotFrame.trans (.of_parts (framedParts_countTables ..)) ((slotFrame_tick ..).trans (slotFrame_trapAgent _ d c k hd f))

theorem slotFrame_halted (r : Rule) (h : Halt) : SlotFrame (combKey d c) k x.env.s (x.halted r h) := by
  cases h with
  | trap f => exact slotFrame_issueTrap ha hck hd f
  | off =>
    unfold Issue.halted
    dsimp only
    rw [ha]
    refine slotFrame_endIssue _ d c k ?_ ..
    exact hd
  | derr f =>
    unfold Issue.halted
    dsimp only
    rw [ha, hck]
    refine (slotFrame_tick ..).trans (slotFrame_trapAgent _ d c k ?_ f)
    exact hd
  | wait =>
    unfold Issue.halted
    dsimp only
    rw [ha]
    refine slotFrame_endWait _ d c k ?_ _
    exact hd

omit hd in
theorem slotFrame_done (r : Rule) {o : Out} (ho : SlotFrame (combKey d c) k x.env.s o.s) (hth : o.th.doomed = none) :
    SlotFrame (combKey d c) k x.env.s (x.done r o) := by
  have hcommit : (o.th.commitWrites false x.due o r.fp).doomed = none :=
    (congrArg Thread.doomed (still_commitWrites o.th x.due o r.fp)).trans hth
  refine ho.trans ?_
  unfold Issue.done
  dsimp only
  rw [ha, hck]
  split
  · refine (slotFrame_tick ..).trans (slotFrame_takeTrap _ d c k ?_ _)
    exact hcommit
  split
  · exact slotFrame_tick ..
  · refine slotFrame_endIssue _ d c k ?_ ..
    exact hcommit
  · refine slotFrame_endIssue _ d c k ?_ ..
    exact hcommit

theorem slotFrame_finish (r : Rule) {y : Eff} (hy : FramedEff k x.env y) : SlotFrame (combKey d c) k x.env.s (x.finish r y) := by
  cases y with
  | ok o => exact slotFrame_done ha hck r (hck ▸ hy.1) (hy.2.trans hd)
  | fault f => exact slotFrame_issueTrap ha hck hd f
  | wait s th =>
    unfold Issue.finish
    dsimp only
    rw [ha]
    exact SlotFrame.trans (hck ▸ hy.1) (slotFrame_endWait s d c k (hy.2.trans hd) _)

end

/-- An instruction whose every effect leaves what stands outside its group's slot. -/
def Framed (i : Instr) : Prop := ∀ s, ∃ (r : Rule) (body : Env → Eff), exec i s = issue s r body ∧ ∀ e slot, FramedEff slot e (body e)

/-- Whether it completes, traps or waits, an instruction of a group that no GKILL has named leaves what stands outside its slot. -/
theorem slotFrame_issue {s t : State} {d c k : Nat} {r : Rule} {body : Env → Eff} (hcur : s.cur = some (.group d c k))
    (hd : ∀ th, s.thread (.group d c k) = some th → th.doomed = none) (hb : ∀ e slot, FramedEff slot e (body e)) (h : issue s r body = .next t) :
    SlotFrame (combKey d c) k s t := by
  unfold issue at h
  rw [hcur] at h
  dsimp only at h
  split at h
  · cases h; exact .of_parts rfl
  next th hth =>
  split at h
  · cases h; exact .of_parts rfl
  have hdoom : (s.env (.group d c k) th r).th.doomed = none := (settle_keeps (fun _ _ _ _ _ _ _ _ => rfl) th _).trans (hd th hth)
  split at h
  · cases h; exact slotFrame_halted (x := s.issueOf (.group d c k) th r) rfl rfl hdoom r _
  · cases h; exact slotFrame_finish (x := s.issueOf (.group d c k) th r) rfl rfl hdoom r (hb _ _)

/-! ## The instructions -/

section
variable (f : MForm)

theorem exec_ld (s : State) : exec (.ld f) s = issue s (ruleLd f) fun e =>
    e.loadGlobal (e.each (e.ea f)) f.size.toNat f.d.code (decide (f.hint ≠ 2)) (isAcq f) f.scope.toNat (inv := f.inv) := rfl

theorem exec_getv (s : State) : exec (.getv f) s = issue s (ruleGetv f) fun e =>
    e.loadGlobal (e.each (e.ea f)) f.size.toNat f.d.code false false f.scope.toNat (engine := some (if isRel f then some f.scope.toNat else none)) := rfl

theorem framed_st : Framed (.st f) := fun s => by
  dsimp only [exec, execSt]
  refine ⟨_, _, rfl, fun e slot => ?_⟩
  split
  · trivial
  next as _ =>
  have hs := slotFrame_noteAccs_write e.ck slot e.s ((e.s.agentCtx e.ag).getD 0) as
  split
  · exact framedEff_buffer hs _
  · exact framedEff_out (hs.trans (slotFrame_storeLanes ..))

theorem framed_putv : Framed (.putv f) := fun s => by
  dsimp only [exec, execPutv]
  refine ⟨_, _, rfl, fun e slot => ?_⟩
  split
  · trivial
  · exact framedEff_remoteOp f (slotFrame_noteAccs_write ..) fun t w => slotFrame_storeLanes e slot t w ..

theorem framed_atom : Framed (.atom f) := fun s => by
  dsimp only [exec, execAtom]
  exact ⟨_, _, rfl, fun e slot => framedEff_atomGlobal f ..⟩

theorem framed_atomcas : Framed (.atomcas f) := fun s => by
  dsimp only [exec, execAtomcas]
  exact ⟨_, _, rfl, fun e slot => framedEff_atomGlobal f ..⟩

theorem framed_red : Framed (.red f) := fun s => by
  dsimp only [exec, execRed]
  refine ⟨_, _, rfl, fun e slot => ?_⟩
  split
  · trivial
  next as _ =>
  have hs := slotFrame_noteAccs_write e.ck slot e.s ((e.s.agentCtx e.ag).getD 0) as
  exact framedEff_out (hs.trans (slotFrame_atomLanes e slot ..))

theorem framed_redv : Framed (.redv f) := fun s => by
  dsimp only [exec, execRedv]
  refine ⟨_, _, rfl, fun e slot => ?_⟩
  split
  · trivial
  · exact framedEff_remoteOp f (slotFrame_noteAccs_write ..) fun t w => slotFrame_atomLanes e slot t w ..

theorem framed_ldsc : Framed (.ldsc f) := fun s => by
  dsimp only [exec, execLdsc]
  exact ⟨_, _, rfl, fun e slot => framedEff_loadScratch ..⟩

end

/-- A load whose lanes read no REPLICATED page completes and leaves every byte (R225). -/
theorem loadGlobal_keeps_bytes {e : Env} {lanes : List (Nat × Nat)} {size : Nat} {as : List LaneAcc}
    (hok : e.laneAccs .read (fun _ => sizeBytes size) (sizeBytes size) false lanes = .ok as)
    (hplain : ∀ a ∈ as, a.leaf.place ≠ 2 ∧ a.last.place ≠ 2) (dst : Nat) (l1 acq : Bool) (scope : Nat) (inv : Bool) (engine : Option (Option Nat)) :
    ∃ o, e.loadGlobal lanes size dst l1 acq scope inv engine = .ok o ∧ o.trap = none ∧
      ∀ loc, o.s.rawByte loc = e.s.rawByte loc ∧ o.s.byteNow loc = e.s.byteNow loc := by
  simp only [Env.loadGlobal, hok]
  obtain ⟨o, ho, htrap, -, hs⟩ := load_completes e 0 (e.s.noteAccs e.ck ((e.s.agentCtx e.ag).getD 0) .read as) ⟨sizeSext size, dst, sizeRegs size⟩
    (as.map fun a => a.read e.th.commit) (coalesced e (sizeBytes size) as) l1 acq scope inv engine 0
  have hf := (slotFrame_noteAccs_read e.ck 0 e.s ((e.s.agentCtx e.ag).getD 0) as hplain).trans hs
  exact ⟨o, ho, htrap, fun loc => ⟨hf.rawByte loc, hf.byteNow loc⟩⟩

/-- Settles O56: whatever its effect, each instruction leaves what stands outside its group's slot, and a load that brings in no
replica leaves every byte. -/
theorem memoryInstructionFrame : Obligations.MemoryInstructionFrame := by
  intro f bytes same n plain
  have frames {i : Instr} (hi : Framed i) : same i := fun s t d c k hcur hd h => by
    obtain ⟨r, body, hx, hb⟩ := hi s
    have hf := slotFrame_issue hcur hd hb (hx.symm.trans h)
    exact ⟨fun loc => ⟨hf.rawByte loc, hf.byteNow loc⟩, hf.msgs, hf.ctxs, hf.hive, hf.adapter, hf.combs, hf.groups, hf.teams⟩
  exact ⟨frames (framed_st f), frames (framed_putv f), frames (framed_atom f), frames (framed_atomcas f), frames (framed_red f),
    frames (framed_redv f), frames (framed_ldsc f),
    fun as => .of_body fun s => ⟨_, exec_ld f s, fun e ⟨hok, hplain⟩ => loadGlobal_keeps_bytes hok hplain ..⟩,
    fun as => .of_body fun s => ⟨_, exec_getv f s, fun e ⟨hok, hplain⟩ => loadGlobal_keeps_bytes hok hplain ..⟩⟩

end Sys2Proof.Proofs
end

section
namespace Sys2Proof.Proofs
open Sys2Proof Sys2Proof.Machine

/-! # What loads, stores and atomics leave on its way (R256, R257, R261, R265, R285, R291 to R293, R301) -/

/-! ## The writes on their way and the operations of a comb -/

/-- The next number, the writes on their way, and the operations of a comb. -/
def outstanding (ck : Nat) (s : State) : Nat × List Store × List AsyncOp := (s.nextUid, s.stores, (s.comb ck).ops)

section
variable {ck : Nat} {s t : State}

theorem nextUid_of_outstanding (h : outstanding ck t = outstanding ck s) : t.nextUid = s.nextUid := congrArg Prod.fst h

theorem stores_of_outstanding (h : outstanding ck t = outstanding ck s) : t.stores = s.stores := congrArg (fun x => x.2.1) h

theorem ops_of_outstanding (h : outstanding ck t = outstanding ck s) : (t.comb ck).ops = (s.comb ck).ops := congrArg (fun x => x.2.2) h

end

section
variable (ck : Nat) (s : State)

theorem outstanding_modComb {f : Comb → Comb} (h : ∀ c, (f c).ops = c.ops) : outstanding ck (s.modComb ck f) = outstanding ck s :=
  congrArg (fun ops => (s.nextUid, s.stores, ops)) ((congrArg Comb.ops (State.comb_modComb_self ..)).trans (h _))

theorem outstanding_tlbNote (ctx : Nat) (acc : Access) (l : Leaf) : outstanding ck (s.tlbNote ck ctx acc l) = outstanding ck s := by
  refine outstanding_modComb ck s (f := fun c => if acc = .exec then { c with itlb := tlbAdd 32 c.itlb ctx l }
    else { c with dtlb := tlbAdd 128 c.dtlb ctx l }) fun c => ?_
  split <;> rfl

theorem outstanding_tileWordBack (a : Nat) (x : Word) : outstanding ck (s.tileWordBack a x) = outstanding ck s := by
  have hword : outstanding ck (s.wordBack (a / 4) x) = outstanding ck s := by
    unfold State.wordBack
    dsimp only
    split <;> rfl
  refine Eq.trans ?_ hword
  unfold State.tileWordBack
  dsimp only
  split
  · rfl
  · split <;> rfl

theorem outstanding_replicaFetch (die : Nat) (reads : List (Nat × Nat)) : outstanding ck (s.replicaFetch die reads) = outstanding ck s := by
  unfold State.replicaFetch
  exact (view_foldl (outstanding ck) (fun _ _ => by rfl) _ _).trans
    (view_foldl (outstanding ck) (fun _ _ => view_foldl (outstanding ck) (fun _ _ => outstanding_tileWordBack ..) _ _) _ _)

/-- Translations noted, and replicas brought in, leave what is on its way (R200, R225). -/
theorem outstanding_noteAccs (ctx : Nat) (acc : Access) (as : List LaneAcc) : outstanding ck (s.noteAccs ck ctx acc as) = outstanding ck s := by
  have htlb : outstanding ck (as.foldl (fun s a => (s.tlbNote ck ctx acc a.leaf).tlbNote ck ctx acc a.last) s) = outstanding ck s :=
    view_foldl (outstanding ck) (fun _ _ => (outstanding_tlbNote ..).trans (outstanding_tlbNote ..)) as s
  unfold State.noteAccs
  dsimp only
  split
  · exact (outstanding_replicaFetch ..).trans htlb
  · exact htlb

theorem outstanding_storeL1 (b : Bool) (items : List (Nat × Byte × Byte)) :
    outstanding ck (if b then s.modComb ck fun c => c.storeL1 items else s) = outstanding ck s := by
  split
  · exact outstanding_modComb ck s fun _ => rfl
  · rfl

theorem outstanding_scratchPort (e : Env) (lanes : List (Nat × Nat)) : outstanding e.ck (e.scratchPort s lanes).1 = outstanding e.ck s := by
  unfold Env.scratchPort Env.takePort
  dsimp only
  split
  · rfl
  · dsimp only
    exact outstanding_modComb e.ck s fun _ => rfl

end

/-- An operation registered joins its comb's under the next number, and no write is sent (R90, R270). -/
theorem async_joins (e : Env) (s : State) (th : Thread) (cls scope : Nat) (release : Option Nat) (kind : OpKind) (dsts : List (Nat × List Nat))
    (due : Nat) (inv engine : Bool) :
    ∃ op : AsyncOp, (e.async s th cls scope release kind dsts due inv engine).1.stores = s.stores ∧
      ((e.async s th cls scope release kind dsts due inv engine).1.comb e.ck).ops = (s.comb e.ck).ops ++ [op] ∧
      op.uid = s.nextUid ∧ op.owner = e.ag ∧ op.ownerUid = th.uid ∧ op.cls = cls ∧ op.kind = kind :=
  ⟨_, rfl, congrArg Comb.ops (State.comb_modComb_self ..), rfl, rfl, rfl, rfl, rfl⟩

/-! ## Loads that stand as operations (R90, R256, R261) -/

/-- An effect after which an operation of the LD class stands for the load's registers and reads these locations in these lanes,
served as far as it can be. -/
def StandsAsLoad (e : Env) (shape : LoadShape) (locs : List (Nat × List Nat)) (o : Out) : Prop :=
  o.trap = none ∧ o.next = .seq ∧ o.writes = [] ∧ ∃ (s' : State) (op : AsyncOp) (reads : List LaneRead) (together l1 acq : Bool),
    o.s = s'.serveComb e.ck ∧ (s'.comb e.ck).ops = (e.s.comb e.ck).ops ++ [op] ∧
    op.uid = e.s.nextUid ∧ op.owner = e.ag ∧ op.ownerUid = e.th.uid ∧ op.cls = 0 ∧
    op.kind = .load shape reads [] together l1 acq 0 ∧ reads.map (fun r => (r.lane, r.locs)) = locs ∧
    ∀ k < shape.regs, shape.dst ≠ 0xFF → ∃ u ∈ o.th.uncov, u.op = op.uid ∧ u.code = shape.dst + k ∧ u.landed = false

theorem mem_loadRegs {dst regs k : Nat} (hk : k < regs) (hd : dst ≠ 0xFF) (lanes : List Nat) : (dst + k, lanes) ∈ loadRegs dst regs lanes := by
  rw [loadRegs, if_neg hd]
  exact List.mem_map.2 ⟨k, List.mem_range.2 hk, rfl⟩

section
variable {e : Env}

/-- A load issued from a machine on which nothing else was registered or sent stands as an operation. -/
theorem load_stands {s : State} (hs : outstanding e.ck s = outstanding e.ck e.s) (shape : LoadShape) (reads : List LaneRead) (together l1 acq : Bool)
    (scope : Nat) (inv : Bool) (engine : Option (Option Nat)) (due : Nat) :
    ∃ o, e.load s shape reads together l1 acq scope inv engine due = .ok o ∧ o.trap = none ∧
      StandsAsLoad e shape (reads.map fun r => (r.lane, r.locs)) o := by
  unfold Env.load
  extract_lets strong lanes dsts r
  obtain ⟨op, -, hops, huid, howner, hown, hcls, hkind⟩ := async_joins e s e.th 0 (if strong then 4 else scope) (if strong then some 4 else engine.join)
    (.load shape reads [] together (l1 && !strong) (acq || strong) 0) dsts due inv engine.isSome
  rw [ops_of_outstanding hs] at hops
  refine ⟨_, rfl, rfl, rfl, rfl, rfl, r.1, op, reads, together, _, _, rfl, hops, huid.trans (nextUid_of_outstanding hs), howner, hown, hcls, hkind, rfl,
    fun k hk hd => ⟨e.uncover s.nextUid 0 (shape.dst + k) lanes, ?_, huid.symm, rfl, rfl⟩⟩
  exact List.mem_append_right _ (List.mem_map.2 ⟨_, mem_loadRegs hk hd lanes, rfl⟩)

theorem loadGlobal_stands {lanes : List (Nat × Nat)} {size : Nat} {as : List LaneAcc}
    (hok : e.laneAccs .read (fun _ => sizeBytes size) (sizeBytes size) false lanes = .ok as) (dst : Nat) (l1 acq : Bool) (scope : Nat) (inv : Bool)
    (engine : Option (Option Nat)) :
    ∃ o, e.loadGlobal lanes size dst l1 acq scope inv engine = .ok o ∧ o.trap = none ∧
      StandsAsLoad e ⟨sizeSext size, dst, sizeRegs size⟩ (as.map fun a => (a.lane, a.locs)) o := by
  obtain ⟨o, ho, htrap, hload⟩ := load_stands (outstanding_noteAccs e.ck e.s ((e.s.agentCtx e.ag).getD 0) .read as) ⟨sizeSext size, dst, sizeRegs size⟩
    (as.map fun a => a.read e.th.commit) (coalesced e (sizeBytes size) as) l1 acq scope inv engine 0
  rw [List.map_map] at hload
  exact ⟨o, by simpa only [Env.loadGlobal, hok] using ho, htrap, hload⟩

theorem loadScratch_stands {addr : Nat → Nat} {size : Nat} (hok : e.scratchFault (sizeBytes size) (sizeBytes size) (e.each addr) = none)
    (dst scope : Nat) (acq : Bool) :
    ∃ o, e.loadScratch (e.each addr) size dst scope acq = .ok o ∧ o.trap = none ∧
      StandsAsLoad e ⟨sizeSext size, dst, sizeRegs size⟩ (e.each fun i => scratchLocs e.ck (addr i) (sizeBytes size)) o := by
  obtain ⟨o, ho, htrap, hload⟩ := load_stands (outstanding_scratchPort e.s e (e.each addr)) ⟨sizeSext size, dst, sizeRegs size⟩
    ((e.each addr).map fun l => ⟨l.1, l.2, scratchLocs e.ck l.2 (sizeBytes size), 0, 8 * sizeBytes size, none, 1, [], none⟩) false false acq scope
    false none (e.scratchPort e.s (e.each addr)).2
  rw [List.map_map, Env.each, List.map_map] at hload
  exact ⟨o, by simpa only [Env.loadScratch, hok] using ho, htrap, hload⟩

end

theorem exec_ldsc (f : MForm) (s : State) : exec (.ldsc f) s = issue s (ruleLdsc f) fun e =>
    e.loadScratch (e.each (e.eaScratch f)) f.size.toNat f.d.code f.scope.toNat (isAcq f) := rfl

/-- Global loads, scratch loads and parameters by where they read; a prefetch by its body, which hands its thread on. -/
theorem loadsIssue : Claim.LoadsIssue := by
  intro f n load shape global locs param off
  refine ⟨fun as => .of_body fun s => ⟨_, exec_ld f s, fun e hok => loadGlobal_stands hok ..⟩,
    fun as => .of_body fun s => ⟨_, exec_getv f s, fun e hok => loadGlobal_stands hok ..⟩,
    .of_body fun s => ⟨_, exec_ldsc f s, fun e hok => loadScratch_stands hok ..⟩,
    fun as => .of_body ?grid, .of_body ?task, .of_body ?prefetch⟩
  case grid =>
    intro s
    dsimp only [exec, execLdp]
    refine ⟨_, rfl, fun e ⟨hgroup, hparam, hok⟩ => ?_⟩
    rw [if_neg (by rw [hgroup]; decide), if_neg hparam]
    exact loadGlobal_stands hok ..
  case task =>
    intro s
    dsimp only [exec, execLdp]
    refine ⟨_, rfl, fun e ⟨htask, hok⟩ => ?_⟩
    rw [if_pos htask]
    exact loadScratch_stands hok ..
  case prefetch =>
    intro s
    dsimp only [exec, execPrf]
    exact ⟨_, rfl, fun e _ => ⟨_, rfl, rfl, rfl, rfl⟩⟩

/-! ## Writes sent (R257, R265, R292) -/

/-- What machine `t` has beyond machine `s`: writes on their way, which `view` reads as `sent`, and on a comb the operations `ops`. -/
structure Sends {β : Type} (ck : Nat) (view : StoreKind → List β) (s t : State) (sent : List β) (ops : List AsyncOp) : Prop where
  stores : ∃ new : List Store, t.stores = s.stores ++ new ∧ new.flatMap (fun st => view st.kind) = sent
  ops : (t.comb ck).ops = (s.comb ck).ops ++ ops

namespace Sends

variable {α β : Type} {ck : Nat} {view : StoreKind → List β} {s t u : State} {xs ys : List β} {ops ops' : List AsyncOp}

theorem of_outstanding (h : outstanding ck t = outstanding ck s) : Sends ck view s t [] [] :=
  ⟨⟨[], by rw [stores_of_outstanding h, List.append_nil], rfl⟩, by rw [ops_of_outstanding h, List.append_nil]⟩

/-- An operation registered. -/
theorem of_async {op : AsyncOp} (hstores : t.stores = s.stores) (hops : (t.comb ck).ops = (s.comb ck).ops ++ [op]) : Sends ck view s t [] [op] :=
  ⟨⟨[], by rw [hstores, List.append_nil], rfl⟩, hops⟩

theorem trans (h : Sends ck view s t xs ops) (g : Sends ck view t u ys ops') : Sends ck view s u (xs ++ ys) (ops ++ ops') := by
  obtain ⟨new, hnew, hx⟩ := h.stores
  obtain ⟨new', hnew', hy⟩ := g.stores
  exact ⟨⟨new ++ new', by rw [hnew', hnew, List.append_assoc], by rw [List.flatMap_append, hx, hy]⟩, by rw [g.ops, h.ops, List.append_assoc]⟩

/-- Nothing changes before what is sent. -/
theorem after (h : outstanding ck t = outstanding ck s) (g : Sends ck view t u xs ops) : Sends ck view s u xs ops :=
  (of_outstanding h).trans g

theorem addStore (s : State) (k ctx : Nat) (w : Writer) (release : Option Nat) (mtype : Nat) (kind : StoreKind) (op : Option Nat) :
    Sends ck view s (s.addStore k ctx w release mtype kind op) (view kind) [] :=
  ⟨⟨_, rfl, List.append_nil _⟩, (List.append_nil _).symm⟩

theorem foldl {f : State → α → State} {g : α → List β} (h : ∀ s x, Sends ck view s (f s x) (g x) []) (l : List α) (s : State) :
    Sends ck view s (l.foldl f s) (l.flatMap g) [] := by
  induction l generalizing s with
  | nil => exact of_outstanding rfl
  | cons x l ih => exact (h s x).trans (ih _)

/-- The writes that were on their way still are. -/
theorem take_stores (h : Sends ck view s t xs ops) : t.stores.take s.stores.length = s.stores := by
  obtain ⟨new, hnew, -⟩ := h.stores
  rw [hnew, List.take_left]

theorem drop_stores (h : Sends ck view s t xs ops) : (t.stores.drop s.stores.length).flatMap (fun st => view st.kind) = xs := by
  obtain ⟨new, hnew, hx⟩ := h.stores
  rw [hnew, List.drop_left, hx]

end Sends

/-- The bytes that a write carries. -/
def sentBytes : StoreKind → List (Nat × Byte × Byte)
  | .bytes items => items
  | _ => []

section
variable (e : Env) (s : State)

/-- Aligned or not, a lane's write sends the bytes of its datum (R265). -/
theorem sends_storeLane (who : Writer) (rel : Bool) (scope : Nat) (a : LaneAcc) (x : Nat) :
    Sends e.ck sentBytes s (e.storeLane s who rel scope a x) (byteItems a.locs x) [] := by
  unfold Env.storeLane
  extract_lets ctx r items s'
  refine .after (t := s') (outstanding_storeL1 e.ck s r.isNone items) ?_
  clear_value s'
  split
  · exact .addStore ..
  · have hbytes := Sends.foldl (view := sentBytes) (f := fun s it => s.addStore e.ck ctx who r a.mtype (.bytes [it]) none)
      (fun s it => .addStore (ck := e.ck) s ..) items s'
    rwa [show items.flatMap (fun it => sentBytes (.bytes [it])) = items from List.flatMap_singleton' items] at hbytes

/-- Coalesced or lane by lane, a group's write sends the bytes of each lane's datum (R264, R265). -/
theorem sends_storeLanes (who : Writer) (rel : Bool) (scope n : Nat) (as : List LaneAcc) (x : Nat → Nat) :
    Sends e.ck sentBytes s (e.storeLanes s who rel scope n as x) (as.flatMap fun a => byteItems a.locs (x a.lane)) [] := by
  unfold Env.storeLanes
  split
  · extract_lets items mtype r s'
    exact .after (outstanding_storeL1 e.ck s r.isNone items) (.addStore ..)
  · exact .foldl (fun s a => sends_storeLane e s who rel scope a (x a.lane)) as s

end

/-- A remote operation that sends its writes stands last among its comb's operations, in the class RM (R301). -/
theorem remoteOp_sends {e : Env} {β : Type} {view : StoreKind → List β} {s : State} {put : State → Writer → State} {xs : List β} (f : MForm)
    (hs : outstanding e.ck s = outstanding e.ck e.s) (hput : ∀ t w, Sends e.ck view t (put t w) xs []) :
    ∃ o, e.remoteOp f s put = .ok o ∧ o.trap = none ∧ o.writes = [] ∧ o.s.stores.take e.s.stores.length = e.s.stores ∧
      (o.s.stores.drop e.s.stores.length).flatMap (fun st => view st.kind) = xs ∧
      ∃ op : AsyncOp, (o.s.comb e.ck).ops.getLast? = some op ∧ op.cls = 2 ∧ op.ownerUid = e.th.uid := by
  unfold Env.remoteOp
  extract_lets u r s' items
  obtain ⟨op, hstores, hops, -, -, hown, hcls, -⟩ := async_joins e s e.th 2 f.scope.toNat none (.remote []) [] 0 false (OpKind.engine (.remote []))
  have hsent : Sends e.ck view e.s s' xs [op] := .after hs ((Sends.of_async hstores hops).trans (hput ..))
  refine ⟨_, rfl, rfl, rfl, hsent.take_stores, hsent.drop_stores,
    if op.uid = u then { op with kind := .remote items } else op, ?_, ?_, ?_⟩
  · dsimp only
    rw [State.comb_modComb_self]
    dsimp only
    rw [hsent.ops, List.map_append, List.map_singleton, List.getLast?_concat]
  · split <;> exact hcls
  · split <;> exact hown

/-- Entries of one size use their number times the size (R340). -/
theorem commitUsed_map {α : Type} (g : α → CommitEnt) {n : Nat} (h : ∀ x, (g x).bytes = n) (xs : List α) : commitUsed (xs.map g) = xs.length * n := by
  have step (m : Nat) : (xs.map g).foldl (fun m c => m + c.bytes) m = m + xs.length * n := by
    induction xs generalizing m with
    | nil => simp
    | cons x xs ih =>
      rw [List.map_cons, List.foldl_cons, ih, h, List.length_cons, Nat.succ_mul]
      omega
  exact (step 0).trans (Nat.zero_add _)

/-- Entries that fit are buffered, and the action goes on (R339, R340). -/
theorem buffer_fits {e : Env} {es : List CommitEnt} (h : commitUsed e.th.commit + commitUsed es ≤ 4096) (s : State) (k : State → Thread → Eff) :
    e.buffer s es k = k s { e.th with commit := e.th.commit ++ es } := if_neg (by omega)

/-- Stores by what they send, and in an atomic task by what they buffer. -/
theorem storesIssue : Claim.StoresIssue := by
  intro f n datum global sent bytes kept
  refine ⟨fun as => .of_body ?st, fun as => .of_body ?buffered, fun as => .of_body ?putv, .of_body ?stsc⟩
  case st =>
    intro s
    dsimp only [exec, execSt]
    refine ⟨_, rfl, fun e ⟨hplain, hok⟩ => ?_⟩
    simp only [global, n] at hok
    simp only [hok, hplain]
    have hsent := Sends.after (outstanding_noteAccs e.ck e.s ((e.s.agentCtx e.ag).getD 0) .write as)
      (sends_storeLanes e _ (Writer.thread e.th.uid) (isRel f) f.scope.toNat n as (datum e))
    exact ⟨_, rfl, rfl, rfl, rfl, hsent.take_stores, hsent.drop_stores⟩
  case buffered =>
    intro s
    dsimp only [exec, execSt]
    refine ⟨_, rfl, fun e ⟨hatomic, hok, hfits⟩ => ?_⟩
    simp only [global, n] at hok
    simp only [hok, hatomic, if_true]
    rw [buffer_fits ?fits]
    · exact ⟨_, rfl, rfl, rfl, stores_of_outstanding (outstanding_noteAccs e.ck e.s _ .write as), _, rfl, List.map_map⟩
    case fits =>
      rw [commitUsed_map (n := 16 + round8 n)]
      · exact hfits
      · exact fun _ => rfl
  case putv =>
    intro s
    dsimp only [exec, execPutv]
    refine ⟨_, rfl, fun e hok => ?_⟩
    simp only [global, n] at hok
    simp only [hok]
    obtain ⟨o, ho, htrap, hwrites, htake, hdrop, hop⟩ := remoteOp_sends f (outstanding_noteAccs e.ck e.s ((e.s.agentCtx e.ag).getD 0) .write as)
      fun t w => sends_storeLanes e t w (isRel f) f.scope.toNat n as (datum e)
    exact ⟨o, ho, htrap, hwrites, htake, hdrop, hop⟩
  case stsc =>
    intro s
    dsimp only [exec, execStsc]
    refine ⟨_, rfl, fun e hok => ?_⟩
    simp only [n] at hok
    simp only [hok]
    exact ⟨_, rfl, rfl, rfl, rfl⟩

/-- Settles O18: loads by the operation they stand as, stores by what they send or buffer, and the words by the shape's cases. -/
theorem loadsAndStores : Obligations.LoadsAndStores :=
  ⟨loadsIssue, storesIssue, fun _ _ _ => ⟨rfl, rfl, fun _ => rfl⟩⟩

/-! ## Atomics sent (R291 to R293) -/

/-- The read-modify-write that a write on its way is: its operation, lane, locations and operands. -/
def sentAtomic : StoreKind → Option (Nat × Nat × List Nat × Nat × Nat)
  | .atomic op lane _ locs d c => some (op, lane, locs, d, c)
  | _ => none

/-- The read-modify-writes that a write on its way is: one, or none. -/
def sentAtomics (k : StoreKind) : List (Nat × Nat × List Nat × Nat × Nat) := (sentAtomic k).toList

theorem sends_atomLanes (e : Env) (s : State) (who : Writer) (op : Option Nat) (rel : Bool) (scope code : Nat) (as : List LaneAcc) (d cmp : Nat → Nat) :
    Sends e.ck sentAtomics s (e.atomLanes s who op rel scope code as d cmp) (as.map fun a => (code, a.lane, a.locs, d a.lane, cmp a.lane)) [] := by
  rw [List.map_eq_flatMap]
  exact .foldl (fun s a => .addStore (view := sentAtomics) s e.ck _ who _ a.mtype
    (.atomic code a.lane a.va a.locs (d a.lane) (cmp a.lane)) op) as s

/-- What `sentAtomics` reads of writes, found in one filter. -/
theorem filterMap_of_sent {stores : List Store} {xs : List (Nat × Nat × List Nat × Nat × Nat)} (h : stores.flatMap (fun st => sentAtomics st.kind) = xs) :
    stores.filterMap (fun st => sentAtomic st.kind) = xs :=
  (List.filterMap_eq_flatMap_toList ..).trans h

/-- An operation of the LD class that waits for the old values of some lanes, for the registers of the instruction. -/
def AwaitsOld (e : Env) (f : MForm) (op : AsyncOp) (lanes : Nat) : Prop :=
  op.cls = 0 ∧ op.ownerUid = e.th.uid ∧ ∃ acq, op.kind = .load ⟨0, f.d.code, sizeRegs f.size.toNat⟩ [] [] false false acq lanes

section
variable {e : Env} {f : MForm}

/-- An atomic with a result sends a read-modify-write for each lane, and an operation stands that waits for their old values. -/
theorem atomGlobal_sends {lanes : List (Nat × Nat)} {as : List LaneAcc}
    (hok : e.laneAccs .write (fun _ => sizeBytes f.size.toNat) (sizeBytes f.size.toNat) true lanes = .ok as) (code : Nat) (d cmp : Nat → Nat) :
    ∃ o, e.atomGlobal f code lanes d cmp = .ok o ∧ o.trap = none ∧ o.writes = [] ∧ ∃ op, AwaitsOld e f op as.length ∧
      Sends e.ck sentAtomics e.s o.s (as.map fun a => (code, a.lane, a.locs, d a.lane, cmp a.lane)) [op] := by
  simp only [Env.atomGlobal, hok]
  have hnote := outstanding_noteAccs e.ck e.s ((e.s.agentCtx e.ag).getD 0) .write as
  generalize e.s.noteAccs e.ck ((e.s.agentCtx e.ag).getD 0) .write as = s at hnote ⊢
  unfold Env.atomOp
  extract_lets regs strong dsts p uid who r s'
  obtain ⟨op, hstores, hops, -, -, hown, hcls, hkind⟩ := async_joins e s e.th 0 (if strong then 4 else f.scope.toNat) none
    (.load ⟨0, f.d.code, regs⟩ [] [] false false (isAcq f || strong) as.length) dsts p.2 false false
  exact ⟨_, rfl, rfl, rfl, op, ⟨hcls, hown, _, hkind⟩, .after hnote ((Sends.of_async hstores hops).trans (sends_atomLanes e ..))⟩

/-- An atomic on scratch goes to its bank lane by lane, each lane performed when nothing holds it up, and an operation stands that
waits for the old values. -/
theorem atomScratch_performs {addr : Nat → Nat} (hok : e.scratchFault (sizeBytes f.size.toNat) (sizeBytes f.size.toNat) (e.each addr) = none)
    (code : Nat) (d cmp : Nat → Nat) :
    ∃ o, e.atomScratch f code (e.each addr) d cmp = .ok o ∧ o.trap = none ∧ o.writes = [] ∧ ∃ (s' : State) (op : AsyncOp),
      (s'.comb e.ck).ops = (e.s.comb e.ck).ops ++ [op] ∧ op.uid = e.s.nextUid ∧ AwaitsOld e f op e.lanes.length ∧
      o.s = (scratchAccs e.ck (sizeBytes f.size.toNat) (e.each addr)).foldl (fun s a =>
        (e.atomLanes s (Writer.thread e.th.uid) (some op.uid) (isRel f) f.scope.toNat code [a] d cmp).performLast) s' := by
  simp only [Env.atomScratch, hok]
  have hlen : (scratchAccs e.ck (sizeBytes f.size.toNat) (e.each addr)).length = e.lanes.length := by simp [scratchAccs, Env.each]
  rw [← hlen]
  generalize scratchAccs e.ck (sizeBytes f.size.toNat) (e.each addr) = as
  unfold Env.atomOp
  extract_lets regs strong dsts p uid who r s'
  have hport : outstanding e.ck p.1 = outstanding e.ck e.s := outstanding_scratchPort ..
  obtain ⟨op, -, hops, huid, -, hown, hcls, hkind⟩ := async_joins e p.1 e.th 0 (if strong then 4 else f.scope.toNat) none
    (.load ⟨0, f.d.code, regs⟩ [] [] false false (isAcq f || strong) as.length) dsts p.2 false false
  rw [ops_of_outstanding hport] at hops
  refine ⟨_, rfl, rfl, rfl, r.1, op, hops, huid.trans (nextUid_of_outstanding hport), ⟨hcls, hown, _, hkind⟩, ?_⟩
  rw [huid]
  rfl

end

/-- Settles O21: atomics on memory by what they send, and those on scratch by what goes to the banks. -/
theorem atomicsIssue : Obligations.AtomicsIssue := by
  intro f n global dat sent all answer zero bank
  have returning {lanes : Env → List (Nat × Nat)} {i : Instr} {r : Rule} {as : List LaneAcc} {code : Nat} {d c : Env → Nat → Nat}
      (hx : ∀ s, exec i s = issue s r fun e => e.atomGlobal f code (lanes e) (d e) (c e)) :
      Completes i r (fun e => e.laneAccs .write (fun _ => n) n true (lanes e) = .ok as) fun e o => all e o as code (d e) (c e) ∧ answer e o as.length :=
    .of_body fun s => ⟨_, hx s, fun e hok => by
      obtain ⟨o, ho, htrap, hwrites, op, ⟨hcls, hown, acq, hkind⟩, hsent⟩ := atomGlobal_sends hok code (d e) (c e)
      exact ⟨o, ho, htrap, ⟨hwrites, hsent.take_stores, filterMap_of_sent hsent.drop_stores⟩, op, acq, hsent.ops, hcls, hown, hkind⟩⟩
  have banked {addr : Env → Nat → Nat} {i : Instr} {r : Rule} {code : Nat} {d c : Env → Nat → Nat}
      (hx : ∀ s, exec i s = issue s r fun e => e.atomScratch f code (e.each (addr e)) (d e) (c e)) :
      Completes i r (fun e => e.scratchFault n n (e.each (addr e)) = none) fun e o => bank e o (addr e) code (d e) (c e) :=
    .of_body fun s => ⟨_, hx s, fun e hok => by
      obtain ⟨o, ho, htrap, hwrites, s', op, hops, huid, ⟨hcls, hown, acq, hkind⟩, hs⟩ := atomScratch_performs hok code (d e) (c e)
      exact ⟨o, ho, htrap, hwrites, s', op, acq, hops, huid, hcls, hown, hkind, hs⟩⟩
  refine ⟨fun as => returning fun s => rfl, fun as => returning fun s => rfl, fun as => .of_body ?red,
    fun as => .of_body ?redv, banked fun s => rfl, banked fun s => rfl⟩
  case red =>
    intro s
    dsimp only [exec, execRed]
    refine ⟨_, rfl, fun e hok => ?_⟩
    simp only [global, n] at hok
    simp only [hok]
    have hsent := Sends.after (outstanding_noteAccs e.ck e.s ((e.s.agentCtx e.ag).getD 0) .write as) (sends_atomLanes e _
      ⟨e.th.uid, e.th.uid, if isAcq f then some f.scope.toNat else none, 0⟩ none (isRel f) f.scope.toNat f.aop.toNat as (dat e f.c) zero)
    exact ⟨_, rfl, rfl, ⟨rfl, hsent.take_stores, filterMap_of_sent hsent.drop_stores⟩, rfl⟩
  case redv =>
    intro s
    dsimp only [exec, execRedv]
    refine ⟨_, rfl, fun e hok => ?_⟩
    simp only [global, n] at hok
    simp only [hok]
    obtain ⟨o, ho, htrap, hwrites, htake, hdrop, hop⟩ := remoteOp_sends f (outstanding_noteAccs e.ck e.s ((e.s.agentCtx e.ag).getD 0) .write as)
      fun t w => sends_atomLanes e t w none (isRel f) f.scope.toNat f.aop.toNat as (dat e f.c) zero
    exact ⟨o, ho, htrap, ⟨hwrites, htake, filterMap_of_sent hdrop⟩, hop⟩

end Sys2Proof.Proofs
end

section
namespace Sys2Proof.Proofs
open Sys2Proof Sys2Proof.Machine

/-! # Stores and atomics performed at the scratch (R285, R292, R293) -/

/-! ## What the end of an issue leaves, also of a group that GKILL has named -/

/-- The scratch of a comb and its operations. -/
def scratchAndOps (c : Comb) : List Host.Cell × List AsyncOp := (c.scratch, c.ops)

theorem rawByte_of_memory {s t : State} (hmem : memory t = memory s) (hcomb : ∀ k, (t.comb k).scratch = (s.comb k).scratch) (loc : Nat) :
    t.rawByte loc = s.rawByte loc := by
  obtain ⟨hhbm, hhost⟩ := Prod.mk.inj hmem
  simp only [State.rawByte, hcomb, hhbm, hhost]

section
variable (s : State) (ck slot k : Nat) (th : Thread)

theorem scratchAndOps_modComb {f : Comb → Comb} (h : ∀ c, scratchAndOps (f c) = scratchAndOps c) :
    scratchAndOps ((s.modComb ck f).comb k) = scratchAndOps (s.comb k) := by
  rw [State.comb_modComb]
  split
  · next hk => rw [h, hk]
  · rfl

theorem scratchAndOps_freeSlot : scratchAndOps ((s.freeSlot ck slot th).comb k) = scratchAndOps (s.comb k) := by
  unfold State.freeSlot
  extract_lets s'
  have hs' : scratchAndOps (s'.comb k) = scratchAndOps (s.comb k) := by
    refine scratchAndOps_modComb s ck k fun c => ?_
    dsimp only
    split <;> rfl
  repeat' split
  all_goals exact hs'

/-- A killed group leaves the scratch, and the operations that it has registered (R191). -/
theorem scratchAndOps_kill : scratchAndOps ((s.kill ck slot th).comb k) = scratchAndOps (s.comb k) := by
  unfold State.kill
  extract_lets s1 s2
  refine (comb_flushKilled (g := scratchAndOps) (fun _ _ => rfl) (fun _ _ => rfl) ..).trans ?_
  exact (scratchAndOps_modComb (f := fun c => { c with killed := c.killed ++ [⟨{ th with commit := [] }⟩] }) s2 ck k fun _ => rfl).trans
    (scratchAndOps_freeSlot s ck slot k { th with commit := [] })

theorem scratchAndOps_setThread (a : Agent) : scratchAndOps ((s.setThread a th).comb k) = scratchAndOps (s.comb k) := by
  unfold State.setThread
  refine scratchAndOps_modComb s (agentKey a) k fun c => ?_
  cases a with
  | group => rfl
  | steward => rfl
  | stream =>
    dsimp only
    split <;> rfl

theorem scratchAndOps_endIssue (a : Agent) (r : Rule) (t due : Nat) :
    scratchAndOps ((s.endIssue a th r t due).comb k) = scratchAndOps (s.comb k) := by
  unfold State.endIssue
  extract_lets waited n at' leaves th0 th' s1 s2
  have hs2 : scratchAndOps (s2.comb k) = scratchAndOps (s.comb k) := by
    refine (scratchAndOps_modComb (f := fun c => { (if waited = true then c else c.occupy a (t + n)) with clk := Nat.max c.clk t })
      (s.setThread a th') (agentKey a) k fun c => ?_).trans (scratchAndOps_setThread s k th' a)
    rw [tick_frame]
    rfl
  clear_value s2 th' leaves
  split
  · split
    · exact (scratchAndOps_kill ..).trans hs2
    · exact hs2
  · exact hs2

end

section
variable (x : Issue) (r : Rule) {o : Out} (htrap : o.trap = none) (hnext : o.next = .seq)
include htrap hnext

theorem scratchAndOps_done (k : Nat) : scratchAndOps ((x.done r o).comb k) = scratchAndOps (o.s.comb k) := by
  unfold Issue.done
  simp only [htrap, hnext]
  exact scratchAndOps_endIssue ..

theorem rawByte_done (loc : Nat) : (x.done r o).rawByte loc = o.s.rawByte loc := by
  refine rawByte_of_memory ?_ (fun k => congrArg Prod.fst (scratchAndOps_done x r htrap hnext k)) loc
  unfold Issue.done
  simp only [htrap, hnext]
  exact memory_endIssue ..

theorem ops_done (k : Nat) : ((x.done r o).comb k).ops = (o.s.comb k).ops := congrArg Prod.snd (scratchAndOps_done x r htrap hnext k)

end

/-! ## A write with nothing before it (R256, R257) -/

theorem combKey_of_parts (ck : Nat) : combKey (keyDie ck) (keyComb ck) = ck := by
  unfold combKey keyDie keyComb
  omega

section
variable {s : State} {st : Store}

/-- A write is held up by no other when it is the only one, releases nothing, and no load of its comb waits. -/
theorem storeReady_alone (hs : s.stores = [st]) (hrel : st.release = none)
    (hidle : ∀ op ∈ (s.comb (combKey st.die st.comb)).ops, op.pending = []) : s.storeReady st = true := by
  have hsent : s.sent st = true := by simp only [State.sent, hrel]
  have hops : ((s.comb (combKey st.die st.comb)).ops.any fun op => decide (op.uid < st.uid) && st.follows op.agent op.uid &&
      op.pending.any fun r => (!op.unordered r && overlaps r.locs st.locs) ||
        (decide (st.mtype = 2) && decide (r.mtype = 2) && overlaps (r.locs.map locDie) (st.locs.map locDie))) = false := by
    refine List.any_eq_false.2 fun op hop => ?_
    rw [hidle op hop, List.any_nil, Bool.and_false]
    exact Bool.false_ne_true
  have hwaits : s.storeWaits st = false := by
    unfold State.storeWaits
    dsimp only
    rw [hs, hops]
    simp only [List.any_cons, List.any_nil, Nat.lt_irrefl, decide_false, Bool.false_and, Bool.or_false]
  rw [State.storeReady, hsent, hwaits]
  rfl

/-- A write sent while no other is on its way, and no load of its comb waits, reaches its home at once. -/
theorem performLast_addStore {ck : Nat} (hs : s.stores = []) (hidle : ∀ op ∈ (s.comb ck).ops, op.pending = []) (ctx mtype : Nat) (w : Writer)
    (kind : StoreKind) (op : Option Nat) :
    ∃ st : Store, (s.addStore ck ctx w none mtype kind op).performLast = (s.addStore ck ctx w none mtype kind op).storeHome st ∧
      st.kind = kind ∧ st.op = op ∧ combKey st.die st.comb = ck := by
  obtain ⟨st, hst, hrel, hkind, hop, hck⟩ : ∃ st : Store, (s.addStore ck ctx w none mtype kind op).stores = [st] ∧ st.release = none ∧
      st.kind = kind ∧ st.op = op ∧ combKey st.die st.comb = ck :=
    ⟨⟨s.nextUid, w.agent, w.issuer, ctx, keyDie ck, keyComb ck, none, if mtype = 3 then some 4 else w.acq, w.after, mtype, kind, op⟩,
      by simp only [State.addStore, hs, List.nil_append], rfl, rfl, rfl, combKey_of_parts ck⟩
  have hready : (s.addStore ck ctx w none mtype kind op).storeReady st = true := storeReady_alone hst hrel (by rw [hck]; exact hidle)
  refine ⟨st, ?_, hkind, hop, hck⟩
  unfold State.performLast
  rw [hst, List.getLast?_singleton]
  exact if_pos hready

section
variable {t : State} (h : s.performStore st = some t)
include h

theorem rawByte_storeHome (loc : Nat) : (s.storeHome st).rawByte loc = t.rawByte loc := by
  unfold State.storeHome
  rw [h]
  refine ((serveAll_frame _).rawByte loc).trans ?_
  split <;> exact rawByte_congr rfl rfl rfl loc

/-- Operations that wait for no read stay as the write leaves them. -/
theorem ops_storeHome {k : Nat} {op : AsyncOp} (hops : (t.comb k).ops = [op]) (hidle : op.pending = []) : ((s.storeHome st).comb k).ops = [op] := by
  have hserve (u : State) (hu : u.combs = t.combs) : (u.serveAll.comb k).ops = [op] := by
    have huops : (u.comb k).ops = [op] := (congrArg (fun cs => (Sparse.get Comb.reset cs k).ops) hu).trans hops
    rw [serveAll_ops_idle u k, huops]
    all_goals
      rw [huops]
      simp only [List.mem_singleton, forall_eq]
    · exact hidle
    · exact fun _ => trivial
  unfold State.storeHome
  rw [h]
  refine hserve _ ?_
  split <;> rfl

end

end

/-! ## Bytes written to scratch -/

theorem scratchLocs_eq_run (ck x n : Nat) : scratchLocs ck x n = (List.range n).map fun k => scratchLoc ck x + k := by
  simp only [scratchLocs, scratchLoc, Nat.add_assoc]

theorem rawByte_putBytes_scratch (s : State) (ctx mtype ck x n d loc : Nat) :
    (s.putBytes ctx mtype (byteItems (scratchLocs ck x n) d)).rawByte loc =
      if scratchLoc ck x ≤ loc ∧ loc < scratchLoc ck x + n then BitVec.ofNat 8 (d / 256 ^ (loc - scratchLoc ck x)) else s.rawByte loc := by
  rw [putBytes_outside ctx mtype _ s (byteItems_scratch ck x n d), scratchLocs_eq_run]
  exact rawByte_run ..

/-- A byte of the run that a number was written to. -/
theorem rawByte_putBytes_scratch_run (s : State) (ctx mtype ck x d : Nat) {n k : Nat} (hk : k < n) :
    (s.putBytes ctx mtype (byteItems (scratchLocs ck x n) d)).rawByte (scratchLoc ck (x + k)) = BitVec.ofNat 8 (d / 256 ^ k) := by
  have hloc : scratchLoc ck (x + k) = scratchLoc ck x + k := by simp only [scratchLoc, Nat.add_assoc]
  rw [rawByte_putBytes_scratch, hloc, if_pos ⟨Nat.le_add_right .., by omega⟩, Nat.add_sub_cancel_left]

theorem ops_setRaw (s : State) (loc : Nat) (b : Byte) (k : Nat) : ((s.setRaw loc b).comb k).ops = (s.comb k).ops := by
  unfold State.setRaw
  split
  · rw [State.comb_modComb]
    split
    · next h => exact congrArg (fun k => (s.comb k).ops) h.symm
    · rfl
  · split <;> rfl

theorem ops_putBytes_scratch (s : State) (ctx mtype ck x n d k : Nat) :
    ((s.putBytes ctx mtype (byteItems (scratchLocs ck x n) d)).comb k).ops = (s.comb k).ops := by
  rw [putBytes_outside ctx mtype _ s (byteItems_scratch ck x n d)]
  exact view_foldl (fun s : State => (s.comb k).ops) (fun s (it : Nat × Byte × Byte) => ops_setRaw s it.1 it.2.1 k) _ s

/-- A store to scratch writes the bytes of its datum (R285). -/
theorem performStore_scratch {s : State} {st : Store} {ck x n d : Nat} (hkind : st.kind = .bytes (byteItems (scratchLocs ck x n) d)) :
    ∃ t, s.performStore st = some t ∧ ∀ loc, t.rawByte loc =
      if scratchLoc ck x ≤ loc ∧ loc < scratchLoc ck x + n then BitVec.ofNat 8 (d / 256 ^ (loc - scratchLoc ck x)) else s.rawByte loc := by
  have hwritable : s.writable st.mtype (byteItems (scratchLocs ck x n) d) = true := by
    refine Bool.or_eq_true_iff.2 (.inr (List.all_eq_true.2 fun it hit => ?_))
    rw [decide_eq_true (byteItems_scratch ck x n d it hit).1]
    simp only [Bool.true_or]
  unfold State.performStore
  simp only [hkind, hwritable, if_true]
  refine ⟨_, rfl, fun loc => ?_⟩
  rw [rawByte_putBytes_scratch, rawByte_modComb]
  split <;> rfl

/-! ## Atomics on scratch (R292, R293) -/

/-- The number that bytes hold has them as its bytes. -/
theorem byte_leNat {bs : List Byte} {k : Nat} (hk : k < bs.length) : BitVec.ofNat 8 (leNat bs / 256 ^ k) = bs[k] := by
  induction bs generalizing k with
  | nil => exact absurd hk (Nat.not_lt_zero k)
  | cons b bs ih =>
    have hb : b.toNat < 256 := b.isLt
    cases k with
    | zero =>
      refine BitVec.eq_of_toNat_eq ?_
      simp only [leNat, BitVec.toNat_ofNat, List.getElem_cons_zero]
      omega
    | succ k =>
      rw [List.getElem_cons_succ, ← ih (Nat.lt_of_succ_lt_succ hk), leNat, Nat.pow_succ', ← Nat.div_div_eq_div_mul]
      congr 2
      omega

/-- The number that `n` bytes of a comb's scratch hold. -/
def scratchValue (s : State) (ck x n : Nat) : Nat := leNat ((List.range n).map fun k => s.rawByte (scratchLoc ck (x + k)))

theorem byte_scratchValue (s : State) (ck x : Nat) {n k : Nat} (hk : k < n) :
    BitVec.ofNat 8 (scratchValue s ck x n / 256 ^ k) = s.rawByte (scratchLoc ck (x + k)) := by
  have hlen : k < ((List.range n).map fun k => s.rawByte (scratchLoc ck (x + k))).length := by simpa using hk
  rw [scratchValue, byte_leNat hlen, List.getElem_map, List.getElem_range]

theorem hostBase_le_scratchLoc (ck x : Nat) : hostBase ≤ scratchLoc ck x := by
  unfold scratchLoc scratchBase hostBase
  omega

theorem valueNow_scratch (s : State) (ck x n : Nat) : s.valueNow (scratchLocs ck x n) = scratchValue s ck x n := by
  rw [State.valueNow, scratchLocs, List.map_map, scratchValue]
  congr 1
  refine List.map_congr_left fun k _ => ?_
  rw [Function.comp_apply, State.byteNow, if_pos (hostBase_le_scratchLoc ck (x + k))]

/-- The new value of a read-modify-write: code 15 is the compare and swap (R291, R293). -/
def rmwNew (code w d cmp old : Nat) : Nat := if code = 15 then (if old = cmp then d else old) else atomNew code w old d

/-- The machine once a read-modify-write of scratch has written: a compare and swap that fails writes nothing (R293). -/
def rmwWritten (s : State) (ctx mtype ck x n code d cmp : Nat) : State :=
  if decide (code = 15) && decide (scratchValue s ck x n ≠ cmp) then s
  else s.putBytes ctx mtype (byteItems (scratchLocs ck x n) (rmwNew code (8 * n) d cmp (scratchValue s ck x n)))

theorem rmwWritten_scratch (s : State) (ctx mtype ck x n code d cmp : Nat) :
    (∀ k < n, (rmwWritten s ctx mtype ck x n code d cmp).rawByte (scratchLoc ck (x + k)) =
      BitVec.ofNat 8 (rmwNew code (8 * n) d cmp (scratchValue s ck x n) / 256 ^ k)) ∧
    ∀ c, ((rmwWritten s ctx mtype ck x n code d cmp).comb c).ops = (s.comb c).ops := by
  unfold rmwWritten
  split
  · next hfails =>
    obtain ⟨hcode, hne⟩ : code = 15 ∧ scratchValue s ck x n ≠ cmp := by simpa using hfails
    refine ⟨fun k hk => ?_, fun _ => rfl⟩
    rw [rmwNew, if_pos hcode, if_neg hne, byte_scratchValue s ck x hk]
  · exact ⟨fun k hk => rawByte_putBytes_scratch_run s ctx mtype ck x _ hk, fun c => ops_putBytes_scratch ..⟩

/-- L1 lines dropped leave bytes and operations. -/
theorem dropL1_leaves (s : State) (ck : Nat) (b : Bool) (p : L1Line → Bool) :
    (∀ loc, (if b = true then s.dropL1 ck else s.dropL1Where ck p).rawByte loc = s.rawByte loc) ∧
      ∀ k, ((if b = true then s.dropL1 ck else s.dropL1Where ck p).comb k).ops = (s.comb k).ops := by
  have hkeep (l1 : Comb → List L1Line) : (∀ loc, (s.modComb ck fun c => { c with l1 := l1 c }).rawByte loc = s.rawByte loc) ∧
      ∀ k, ((s.modComb ck fun c => { c with l1 := l1 c }).comb k).ops = (s.comb k).ops :=
    ⟨rawByte_modComb s ck _ rfl, fun k => congrArg Prod.snd (scratchAndOps_modComb (f := fun c => { c with l1 := l1 c }) s ck k fun _ => rfl)⟩
  split
  · exact hkeep fun _ => []
  · exact hkeep fun c => c.l1.filter fun l => !p l

/-- An atomic on scratch leaves the new value in the bytes and hands the old one to the operation that waits for it (R292, R293). -/
theorem performStore_scratchAtomic {s : State} {st : Store} {ck x n code lane va d cmp u : Nat}
    (hkind : st.kind = .atomic code lane va (scratchLocs ck x n) d cmp) (hop : st.op = some u) :
    ∃ t bad, s.performStore st = some t ∧
      (∀ k < n, t.rawByte (scratchLoc ck (x + k)) = BitVec.ofNat 8 (rmwNew code (8 * n) d cmp (scratchValue s ck x n) / 256 ^ k)) ∧
      (t.comb (combKey st.die st.comb)).ops =
        (s.comb (combKey st.die st.comb)).ops.map fun o => if o.uid = u then o.atomDone lane va (scratchValue s ck x n) bad else o := by
  have hmem (l : Nat) (hl : l ∈ scratchLocs ck x n) : hostBase ≤ l := by
    obtain ⟨k, -, rfl⟩ := List.mem_map.1 hl
    exact hostBase_le_scratchLoc ..
  have hhome : ((scratchLocs ck x n).all fun l => (s.homeByte st.mtype l).isSome) = true := by
    refine List.all_eq_true.2 fun l hl => ?_
    simp [State.homeByte, hmem l hl]
  have hgood : (scratchLocs ck x n).any s.locBad = false := by
    refine List.any_eq_false.2 fun l hl => ?_
    simp [State.locBad, Nat.not_lt.2 (hmem l hl)]
  have hlen : (scratchLocs ck x n).length = n := by simp [scratchLocs]
  obtain ⟨hbytes, hops⟩ := rmwWritten_scratch s st.ctx st.mtype ck x n code d cmp
  unfold State.performStore
  simp only [hkind, hop, hhome, hgood, hlen, valueNow_scratch, if_true, Bool.false_eq_true, if_false]
  obtain ⟨hdropBytes, hdropOps⟩ := dropL1_leaves (rmwWritten s st.ctx st.mtype ck x n code d cmp) (combKey st.die st.comb) st.drops
    fun l => l.tile = none && decide (l.line = (scratchLocs ck x n).headD 0 / 128)
  refine ⟨_, false, rfl, fun k hk => ?_, ?_⟩
  · exact (rawByte_modComb _ _ _ rfl _).trans ((hdropBytes _).trans (hbytes k hk))
  · rw [State.comb_modComb_self]
    exact congrArg (List.map fun o : AsyncOp => if o.uid = u then o.atomDone lane va (scratchValue s ck x n) false else o) ((hdropOps _).trans (hops _))

/-! ## The instructions -/

/-- Checks that are all passed. -/
theorem firstFault_eq_none {fs : List (Option TrapInfo)} (h : firstFault fs = none) : ∀ f ∈ fs, f = none := by
  induction fs with
  | nil => exact fun _ hf => absurd hf List.not_mem_nil
  | cons f fs ih =>
    cases f with
    | some f => contradiction
    | none => exact List.forall_mem_cons.2 ⟨rfl, ih h⟩

theorem laneFault_eq_none {e : Env} {code : Nat} {bad : List (Nat × Nat)} (h : e.laneFault code bad = none) : bad = [] := by
  cases bad with
  | nil => rfl
  | cons => contradiction

/-- A lane whose scratch access meets no fault is aligned (R283). -/
theorem aligned_of_scratchFault {e : Env} {n align i x : Nat} (h : e.scratchFault n align [(i, x)] = none) : x % align = 0 := by
  unfold Env.scratchFault at h
  have hbad := laneFault_eq_none (firstFault_eq_none h _ (List.mem_cons_of_mem _ (List.mem_cons_of_mem _ (List.mem_singleton_self _))))
  by_contra hx
  simp [hx] at hbad

/-- The bytes of a lane's aligned write that releases nothing are sent as one write (R257, R265). -/
theorem storeLane_scratch {e : Env} {n i x : Nat} (hx : x % n = 0) (s : State) (w : Writer) (scope d : Nat) :
    e.storeLane s w false scope ⟨i, x, scratchLocs e.ck x n, 1, 0, ⟨0, 0, 0⟩, ⟨0, 0, 0⟩⟩ d =
      (s.modComb e.ck fun c => c.storeL1 (byteItems (scratchLocs e.ck x n) d)).addStore e.ck ((e.s.agentCtx e.ag).getD 0) w none 1
        (.bytes (byteItems (scratchLocs e.ck x n) d)) none := by
  have hlen : (scratchLocs e.ck x n).length = n := by simp [scratchLocs]
  unfold Env.storeLane
  dsimp only
  rw [hlen, if_pos hx]
  rfl

theorem rawByte_addStore (s : State) (ck ctx : Nat) (w : Writer) (release : Option Nat) (mtype : Nat) (kind : StoreKind) (op : Option Nat) (loc : Nat) :
    (s.addStore ck ctx w release mtype kind op).rawByte loc = s.rawByte loc := rfl

theorem rawByte_storeL1 (s : State) (ck : Nat) (items : List (Nat × Byte × Byte)) (loc : Nat) :
    (s.modComb ck fun c => c.storeL1 items).rawByte loc = s.rawByte loc := rawByte_modComb s ck _ rfl loc

/-- A store of one aligned lane to scratch, with no write or read before it, writes the bytes of its datum at once (R285). -/
theorem rawByte_storeScratch {e : Env} {s : State} {n i x : Nat} (hx : x % n = 0) (hstores : s.stores = [])
    (hidle : ∀ op ∈ (s.comb e.ck).ops, op.pending = []) (w : Writer) (scope d loc : Nat) :
    ((e.storeLane s w false scope ⟨i, x, scratchLocs e.ck x n, 1, 0, ⟨0, 0, 0⟩, ⟨0, 0, 0⟩⟩ d).performLast).rawByte loc =
      if scratchLoc e.ck x ≤ loc ∧ loc < scratchLoc e.ck x + n then BitVec.ofNat 8 (d / 256 ^ (loc - scratchLoc e.ck x)) else s.rawByte loc := by
  rw [storeLane_scratch hx]
  obtain ⟨st, hlast, hkind, -, -⟩ := performLast_addStore (s := s.modComb e.ck fun c => c.storeL1 (byteItems (scratchLocs e.ck x n) d)) (ck := e.ck)
    hstores (by rw [State.comb_modComb_self]; exact hidle) ((e.s.agentCtx e.ag).getD 0) 1 w (.bytes (byteItems (scratchLocs e.ck x n) d)) none
  obtain ⟨t, ht, hbytes⟩ := performStore_scratch (s := (s.modComb e.ck fun c => c.storeL1 (byteItems (scratchLocs e.ck x n) d)).addStore e.ck
    ((e.s.agentCtx e.ag).getD 0) w none 1 (.bytes (byteItems (scratchLocs e.ck x n) d)) none) hkind
  rw [hlast, rawByte_storeHome ht, hbytes, rawByte_addStore, rawByte_storeL1]

theorem scratchStoreWrites : Claim.ScratchStoreWrites := by
  intro f s a th i r e n hready hlanes hord hstores hidle hok
  have hx : e.eaScratch f i % n = 0 := aligned_of_scratchFault hok
  have hrel : isRel f = false := by rw [isRel, hord]; rfl
  have hport : outstanding e.ck (e.scratchPort e.s [(i, e.eaScratch f i)]).1 = outstanding e.ck s := outstanding_scratchPort s e _
  have hexec : exec (.stsc f) s = .next (s.after a th r ⟨((e.storeLane (e.scratchPort e.s [(i, e.eaScratch f i)]).1 (Writer.thread e.th.uid) false
      f.scope.toNat ⟨i, e.eaScratch f i, scratchLocs e.ck (e.eaScratch f i) n, 1, 0, ⟨0, 0, 0⟩, ⟨0, 0, 0⟩⟩ (e.datum f.c f.size.toNat i)).performLast),
      e.th, [], 0, none, .seq⟩) := by
    dsimp only [exec, execStsc]
    rw [issue_ready hready, each_one hlanes, hok, hrel]
    rfl
  have hbytes := rawByte_storeScratch (e := e) (i := i) hx ((stores_of_outstanding hport).trans hstores)
    (by rw [ops_of_outstanding hport]; exact hidle) (Writer.thread e.th.uid) f.scope.toNat (e.datum f.c f.size.toNat i)
  have hbefore (loc : Nat) : (e.scratchPort e.s [(i, e.eaScratch f i)]).1.rawByte loc = s.rawByte loc := (slotFrame_scratchPort e 0 s _).rawByte loc
  refine ⟨_, hexec, fun k hk => ?_, fun loc hloc => ?_⟩
  · have hloc : scratchLoc e.ck (e.eaScratch f i + k) = scratchLoc e.ck (e.eaScratch f i) + k := by simp only [scratchLoc, Nat.add_assoc]
    rw [State.after, rawByte_done _ _ rfl rfl, hbytes, hloc, if_pos ⟨Nat.le_add_right .., by omega⟩, Nat.add_sub_cancel_left]
  · rw [State.after, rawByte_done _ _ rfl rfl, hbytes, if_neg hloc, hbefore]

theorem scratchValue_congr {s t : State} (h : ∀ loc, t.rawByte loc = s.rawByte loc) (ck x n : Nat) : scratchValue t ck x n = scratchValue s ck x n := by
  simp only [scratchValue, h]

/-- The old value of an atomic's one lane ends the wait of its operation (R292). -/
theorem kind_atomDone {op : AsyncOp} {shape : LoadShape} {together l1 acq : Bool} (h : op.kind = .load shape [] [] together l1 acq 1) (lane va old : Nat)
    (bad : Bool) : (op.atomDone lane va old bad).kind = .load shape [] [(lane, old)] together l1 acq 0 := by
  simp only [AsyncOp.atomDone, h, List.nil_append, Nat.sub_self]

theorem uid_atomDone (op : AsyncOp) (lane va old : Nat) (bad : Bool) : (op.atomDone lane va old bad).uid = op.uid := by
  unfold AsyncOp.atomDone
  split <;> rfl

theorem pending_of_kind {op : AsyncOp} {shape : LoadShape} {got : List (Nat × Nat)} {together l1 acq : Bool} {n : Nat}
    (h : op.kind = .load shape [] got together l1 acq n) : op.pending = [] := by
  simp only [AsyncOp.pending, h]

/-- A read-modify-write of scratch that an operation waits for, with no other write or operation before it, is performed as it is sent. -/
theorem rmwSent_scratch {s : State} {ck i x n code d cmp : Nat} {op : AsyncOp} {shape : LoadShape} {acq : Bool} (hstores : s.stores = [])
    (hops : (s.comb ck).ops = [op]) (hkind : op.kind = .load shape [] [] false false acq 1) (ctx mtype : Nat) (w : Writer) :
    let t := (s.addStore ck ctx w none mtype (.atomic code i x (scratchLocs ck x n) d cmp) (some op.uid)).performLast
    (∀ k < n, t.rawByte (scratchLoc ck (x + k)) = BitVec.ofNat 8 (rmwNew code (8 * n) d cmp (scratchValue s ck x n) / 256 ^ k)) ∧
      ∃ op' : AsyncOp, (t.comb ck).ops = [op'] ∧ op'.uid = op.uid ∧ op'.kind = .load shape [] [(i, scratchValue s ck x n)] false false acq 0 := by
  intro t
  obtain ⟨st, hlast, hst, hop, hck⟩ := performLast_addStore hstores
    (fun o ho => by rw [hops, List.mem_singleton] at ho; exact ho ▸ pending_of_kind hkind)
    ctx mtype w (.atomic code i x (scratchLocs ck x n) d cmp) (some op.uid)
  obtain ⟨u, bad, hu, hbytes, huops⟩ := performStore_scratchAtomic (s := s.addStore ck ctx w none mtype (.atomic code i x (scratchLocs ck x n) d cmp)
    (some op.uid)) hst hop
  rw [hck, show ((s.addStore ck ctx w none mtype (.atomic code i x (scratchLocs ck x n) d cmp) (some op.uid)).comb ck).ops = [op] from hops,
    List.map_singleton, if_pos rfl] at huops
  have hdone := kind_atomDone hkind i x (scratchValue s ck x n) bad
  have ht : t = (s.addStore ck ctx w none mtype (.atomic code i x (scratchLocs ck x n) d cmp) (some op.uid)).storeHome st := hlast
  rw [ht]
  exact ⟨fun k hk => (rawByte_storeHome hu _).trans (hbytes k hk), _, ops_storeHome hu huops (pending_of_kind hdone), uid_atomDone .., hdone⟩

/-- An atomic of one lane on scratch, with no write or operation before it, leaves the new value in the bytes and an operation with the old
one (R292, R293). -/
theorem atomScratch_done {e : Env} {f : MForm} {i x : Nat} (hstores : e.s.stores = []) (hops : (e.s.comb e.ck).ops = []) (hrel : isRel f = false)
    (hok : e.scratchFault (sizeBytes f.size.toNat) (sizeBytes f.size.toNat) [(i, x)] = none) (code : Nat) (d cmp : Nat → Nat) :
    let n := sizeBytes f.size.toNat
    ∃ o, e.atomScratch f code [(i, x)] d cmp = .ok o ∧ o.trap = none ∧ o.next = .seq ∧
      (∀ k < n, o.s.rawByte (scratchLoc e.ck (x + k)) = BitVec.ofNat 8 (rmwNew code (8 * n) (d i) (cmp i) (scratchValue e.s e.ck x n) / 256 ^ k)) ∧
      ∃ op : AsyncOp, (o.s.comb e.ck).ops = [op] ∧ op.uid = e.s.nextUid ∧
        ∃ acq, op.kind = .load ⟨0, f.d.code, sizeRegs f.size.toNat⟩ [] [(i, scratchValue e.s e.ck x n)] false false acq 0 := by
  intro n
  simp only [Env.atomScratch, hok, hrel]
  unfold Env.atomOp
  extract_lets regs strong dsts p uid who r s'
  have hport : outstanding e.ck p.1 = outstanding e.ck e.s := outstanding_scratchPort ..
  obtain ⟨op, hrstores, hrops, huid, -, -, -, hkind⟩ := async_joins e p.1 e.th 0 (if strong then 4 else f.scope.toNat) none
    (.load ⟨0, f.d.code, regs⟩ [] [] false false (isAcq f || strong) 1) dsts p.2 false false
  rw [stores_of_outstanding hport, hstores] at hrstores
  rw [ops_of_outstanding hport, hops, List.nil_append] at hrops
  have hvalue : scratchValue r.1 e.ck x n = scratchValue e.s e.ck x n :=
    scratchValue_congr (fun loc => ((slotFrame_async e 0 ..).rawByte loc).trans ((slotFrame_scratchPort e 0 e.s _).rawByte loc)) ..
  obtain ⟨hbytes, op', hops', huid', hkind'⟩ := rmwSent_scratch (s := r.1) (ck := e.ck) (i := i) (x := x) (n := n) (code := code) (d := d i) (cmp := cmp i)
    hrstores hrops hkind ((e.s.agentCtx e.ag).getD 0) 1 who
  rw [hvalue] at hbytes hkind'
  have hs' : s' = (r.1.addStore e.ck ((e.s.agentCtx e.ag).getD 0) who none 1 (.atomic code i x (scratchLocs e.ck x n) (d i) (cmp i)) (some op.uid)).performLast := by
    rw [huid]
    rfl
  rw [← hs'] at hbytes hops'
  exact ⟨_, rfl, rfl, rfl, hbytes, op', hops', huid'.trans (huid.trans (nextUid_of_outstanding hport)), _, hkind'⟩

/-- What an agent that is ready leaves of an atomic on scratch that nothing holds up. -/
theorem exec_scratchAtomic {ins : Instr} {f : MForm} {s : State} {a : Agent} {th : Thread} {r : Rule} {i code : Nat} {addr : Env → Nat → Nat}
    {d cmp : Env → Nat → Nat} (hexec : exec ins s = issue s r fun e => e.atomScratch f code (e.each (addr e)) (d e) (cmp e))
    (hready : Ready s a th r) (hstores : s.stores = []) (hops : (s.comb (agentKey a)).ops = []) (hord : f.ord.toNat < 2)
    (hlanes : (s.env a th r).lanes = [i])
    (hok : (s.env a th r).scratchFault (sizeBytes f.size.toNat) (sizeBytes f.size.toNat) [(i, addr (s.env a th r) i)] = none) :
    let e := s.env a th r
    let n := sizeBytes f.size.toNat
    let old := scratchValue s e.ck (addr e i) n
    ∃ t, exec ins s = .next t ∧
      (∀ k < n, t.rawByte (scratchLoc e.ck (addr e i + k)) = BitVec.ofNat 8 (rmwNew code (8 * n) (d e i) (cmp e i) old / 256 ^ k)) ∧
      ∃ op ∈ (t.comb e.ck).ops, op.uid = s.nextUid ∧ ∃ acq, op.kind = .load ⟨0, f.d.code, sizeRegs f.size.toNat⟩ [] [(i, old)] false false acq 0 := by
  intro e n old
  have hrel : isRel f = false := by
    rw [isRel, BitVec.getLsbD, Nat.testBit_eq_decide_div_mod_eq, Nat.div_eq_of_lt hord]
    rfl
  obtain ⟨o, ho, htrap, hnext, hbytes, op, hoops, huid, hkind⟩ := atomScratch_done (e := e) hstores hops hrel hok code (d e) (cmp e)
  refine ⟨s.after a th r o, ?_, fun k hk => ?_, op, ?_, huid, hkind⟩
  · rw [hexec, issue_ready hready, each_one hlanes, ho]
    rfl
  · rw [State.after, rawByte_done _ _ htrap hnext]
    exact hbytes k hk
  · rw [State.after, ops_done _ _ htrap hnext, hoops]
    exact List.mem_singleton_self op

theorem scratchAtomicReturnsOldValue : Claim.ScratchAtomicReturnsOldValue := by
  intro f s a th i n quiet done
  refine ⟨fun hready ⟨hstores, hops⟩ haop hord hlanes hok => ?atomsc, fun hready ⟨hstores, hops⟩ hord hlanes hok => ?cassc⟩
  case atomsc =>
    obtain ⟨t, ht, hbytes, hop⟩ := exec_scratchAtomic (ins := .atomsc f) (addr := fun e => e.eaScratch f) (code := f.aop.toNat) (d := fun e => e.datum f.c f.size.toNat)
      (cmp := fun _ _ => 0) rfl hready hstores hops hord hlanes hok
    have hcode : f.aop.toNat ≠ 15 := by omega
    simp only [rmwNew, if_neg hcode] at hbytes
    exact ⟨t, ht, hbytes, hop⟩
  case cassc =>
    obtain ⟨t, ht, hbytes, hop⟩ := exec_scratchAtomic (ins := .cassc f) (addr := fun e => e.eaCasScratch f) (code := 15) (d := fun e => e.datum f.b f.size.toNat)
      (cmp := fun e => e.datum f.c f.size.toNat) rfl hready hstores hops hord hlanes hok
    simp only [rmwNew, if_true] at hbytes
    exact ⟨t, ht, hbytes, hop⟩

/-- Settles O19: with nothing before it, what is sent to scratch reaches its bank within the instruction, whose end leaves bytes and
operations. -/
theorem scratchEffects : Obligations.ScratchEffects := ⟨scratchStoreWrites, scratchAtomicReturnsOldValue⟩

end Sys2Proof.Proofs
end

section
namespace Sys2Proof.Proofs
open Sys2Proof Sys2Proof.Machine

/-! # Tensor elements (R289, R290, R339) -/

/-! ## Loads (R289) -/

/-- An effect after which an operation of the LD class stands last on its comb for a load's registers, which no WAITC covers yet (R90),
and is served as far as it can be. -/
def StandsLast (e : Env) (shape : LoadShape) (reads : List LaneRead) (o : Out) : Prop :=
  o.trap = none ∧ o.writes = [] ∧ o.next = .seq ∧ ∃ (s' : State) (op : AsyncOp) (acq l1 : Bool), o.s = s'.serveComb e.ck ∧
    (s'.comb e.ck).ops.getLast? = some op ∧ op.cls = 0 ∧ op.ownerUid = e.th.uid ∧ op.kind = .load shape reads [] false l1 acq 0 ∧
    ∀ k < shape.regs, shape.dst ≠ 0xFF → ∃ u ∈ o.th.uncov, u.op = op.uid ∧ u.code = shape.dst + k ∧ u.landed = false

/-- What holds of every effect after which a load stands holds of the one that a load answers. -/
theorem load_stands_last {e : Env} {s : State} {shape : LoadShape} {reads : List LaneRead} {l1 acq : Bool} {scope : Nat} {Q : Out → Prop}
    (h : ∀ o, StandsLast e shape reads o → Q o) : ∃ o, e.load s shape reads false l1 acq scope = .ok o ∧ o.trap = none ∧ Q o := by
  unfold Env.load
  extract_lets strong lanes dsts r
  obtain ⟨op, -, hops, huid, -, hown, hcls, hkind⟩ := async_joins e s e.th 0 (if strong then 4 else scope) (if strong then some 4 else none)
    (.load shape reads [] false (l1 && !strong) (acq || strong) 0) dsts 0 false false
  refine ⟨_, rfl, rfl, h _ ⟨rfl, rfl, rfl, r.1, op, _, _, rfl, ?_, hcls, hown, hkind,
    fun k hk hd => ⟨e.uncover s.nextUid 0 (shape.dst + k) lanes, ?_, huid.symm, rfl, rfl⟩⟩⟩
  · exact (congrArg List.getLast? hops).trans List.getLast?_concat
  · exact List.mem_append_right _ (List.mem_map.2 ⟨_, mem_loadRegs hk hd lanes, rfl⟩)

/-! ## Stores (R289, R290) -/

/-- A write on its way as what it does. -/
def sentKind (k : StoreKind) : List StoreKind := [k]

/-- The words of a tile line that a write carries. -/
def sentTile : StoreKind → Option (TileRef × List (Nat × Word × Word))
  | .tile line items => some (line.tile, items)
  | _ => none

theorem kinds_of_sent {ck : Nat} {s t : State} {ks : List StoreKind} {ops : List AsyncOp} (h : Sends ck sentKind s t ks ops) :
    (t.stores.drop s.stores.length).map (fun st => st.kind) = ks := by
  rw [← h.drop_stores, List.map_eq_flatMap]
  rfl

section
variable (s : State) (ck ctx : Nat) (who : Writer) (rel : Bool) (scope n : Nat) (d : Desc)

/-- An element of a tiled tensor is sent as one write of its words in its tile line. -/
theorem storeElem_viaTile {a : LaneAcc} (hv : d.viaTile a = true) (cs : List Nat) (x : Nat) :
    ∃ line : TileLine, line.tile = d.tileRef ctx (keyDie ck) n (d.tileOf cs) ∧
      Sends ck sentKind s (s.storeElem ck ctx who rel scope n d a cs x) [.tile line (tileItems (d.tileBit cs) d.ebits x)] [] := by
  unfold State.storeElem
  extract_lets r items line s'
  have hs' : outstanding ck s' = outstanding ck s := by
    dsimp only [s']
    split
    · exact outstanding_modComb ck s fun _ => rfl
    · rfl
  rw [if_pos hv]
  exact ⟨line, rfl, .after hs' (.addStore ..)⟩

/-- An element of a linear tensor is sent as one write of its bytes, as two where it is split between two words, or byte by byte where
it is misaligned. -/
theorem storeElem_linear {a : LaneAcc} (hv : d.viaTile a = false) (cs : List Nat) (x : Nat) :
    ∃ ks, Sends ck sentKind s (s.storeElem ck ctx who rel scope n d a cs x) ks [] ∧ ks.filterMap sentTile = [] ∧
      (ks.flatMap sentBytes).Perm (maskItems a.locs (d.bitAddr cs % 8) d.ebits x) := by
  unfold State.storeElem
  extract_lets r items line s1 items s' w0 first rest
  have hs' : outstanding ck s' = outstanding ck s := outstanding_storeL1 ck s r.isNone items
  rw [if_neg (by rw [hv]; exact Bool.false_ne_true)]
  clear_value s'
  split
  · have hsplit : (first ++ rest).Perm items := by
      have hrest : rest = items.filter fun it => !decide (it.1 / 4 = w0) := List.filter_congr fun it _ => decide_not
      rw [hrest]
      exact List.filter_append_perm ..
    refine ⟨[.bytes first, .bytes rest], .after hs' (Sends.trans (.addStore ..) (.addStore ..)), rfl, ?_⟩
    simpa [sentBytes] using hsplit
  · split
    · have hitems := Sends.foldl (ck := ck) (view := sentKind) (fun s it => .addStore s ck ctx who r a.mtype (.bytes [it]) none) items s'
      refine ⟨_, .after hs' hitems, ?_, ?_⟩
      · simp [sentKind, List.filterMap_flatMap, sentTile]
      · simp [sentKind, List.flatMap_assoc, sentBytes, items]
    · refine ⟨[.bytes items], .after hs' (.addStore ..), rfl, ?_⟩
      simp [sentBytes, items]

/-- What the elements of some lanes send: the bytes of the linear ones, and the words of the others in their tile lines. -/
theorem storeElems_sends (as : List LaneAcc) (cs : Nat → List Nat) (x : Nat → Nat) :
    ∃ ks, Sends ck sentKind s (as.foldl (fun s a => s.storeElem ck ctx who rel scope n d a (cs a.lane) (x a.lane)) s) ks [] ∧
      (ks.flatMap sentBytes).Perm ((as.filter fun a => !d.viaTile a).flatMap fun a =>
        maskItems a.locs (d.bitAddr (cs a.lane) % 8) d.ebits (x a.lane)) ∧
      ks.filterMap sentTile = (as.filter d.viaTile).map fun a =>
        (d.tileRef ctx (keyDie ck) n (d.tileOf (cs a.lane)), tileItems (d.tileBit (cs a.lane)) d.ebits (x a.lane)) := by
  induction as generalizing s with
  | nil => exact ⟨[], .of_outstanding rfl, .refl _, rfl⟩
  | cons a as ih =>
    obtain ⟨ks, hks, hbytes, htiles⟩ := ih (s.storeElem ck ctx who rel scope n d a (cs a.lane) (x a.lane))
    cases hv : d.viaTile a with
    | true =>
      obtain ⟨line, hline, hsent⟩ := storeElem_viaTile s ck ctx who rel scope n d hv (cs a.lane) (x a.lane)
      refine ⟨_, hsent.trans hks, ?_, ?_⟩
      · simpa [hv, sentBytes] using hbytes
      · simpa [hv, sentTile, hline] using htiles
    | false =>
      obtain ⟨new, hsent, hnone, hnew⟩ := storeElem_linear s ck ctx who rel scope n d hv (cs a.lane) (x a.lane)
      refine ⟨_, hsent.trans hks, ?_, ?_⟩
      · simpa [hv] using hnew.append hbytes
      · simpa [hv, hnone] using htiles

end

/-- Settles O20: an LDTE stands as the load it issues, and an STTE sends or buffers the elements of its lanes one by one. -/
theorem tensorElements : Obligations.TensorElements := by
  intro f n ctx desc accs cs x ref read new bytes tiles
  refine ⟨fun s d as => .of_body ?ldte, fun s d as => .of_body ?stte, fun s d as => .of_body ?buffered⟩
  case ldte =>
    intro s0
    dsimp only [exec, execLdte]
    refine ⟨_, rfl, fun e ⟨hdesc, hrun, haccs⟩ => ?_⟩
    simp only [desc, n] at hdesc
    simp only [accs, n] at haccs
    simp only [hdesc, hrun, haccs]
    refine load_stands_last fun o ⟨htrap, hwrites, hnext, s', op, acq, l1, hs, hop, hcls, hown, hkind, huncov⟩ => ?_
    simp only [decide_eq_true_eq] at hkind huncov
    refine ⟨htrap, hwrites, hnext, s', op, _, acq, l1, hs, hop, hcls, hown, hkind, ?_, huncov⟩
    rw [List.map_map]
    refine List.map_congr_left fun i _ => ?_
    simp only [Function.comp_apply, read, ref, cs]
    cases as.find? fun a => decide (a.lane = i) with
    | none => rfl
    | some a =>
      generalize (e.insideLanes f d).find? (fun x => decide (x.1 = i)) = found
      cases found <;> rfl
  case stte =>
    intro s0
    dsimp only [exec, execStte]
    refine ⟨_, rfl, fun e ⟨hdesc, hrun, hw, hplain, haccs⟩ => ?_⟩
    simp only [desc, n] at hdesc
    simp only [accs, n] at haccs
    simp only [hdesc, hrun, haccs, hw, hplain, Bool.not_true, Bool.false_eq_true, if_false, decide_eq_true_eq]
    obtain ⟨ks, hsent, hbytes, htiles⟩ := storeElems_sends (s.noteAccs e.ck ((e.s.agentCtx e.ag).getD 0) .write as) e.ck ((e.s.agentCtx e.ag).getD 0)
      (Writer.thread e.th.uid) (isRel f) f.scope.toNat (n e) d as (cs e d) (x e d)
    have hall := Sends.after (outstanding_noteAccs e.ck s ((e.s.agentCtx e.ag).getD 0) .write as) hsent
    have hnew := kinds_of_sent hall
    refine ⟨⟨_, e.th, [], 0, none, .seq⟩, congrArg (fun g => e.out (as.foldl g (s.noteAccs e.ck ((e.s.agentCtx e.ag).getD 0) .write as)) e.th)
      (funext fun s => funext fun a => ?_), rfl, rfl, rfl, rfl, rfl, hall.take_stores, ?_, ?_⟩
    · simp only [cs]
      generalize (e.insideLanes f d).find? (fun x => decide (x.1 = a.lane)) = found
      cases found <;> rfl
    · simp only [bytes, new, hnew]
      exact hbytes
    · simp only [tiles, new, hnew]
      exact htiles
  case buffered =>
    intro s0
    dsimp only [exec, execStte]
    refine ⟨_, rfl, fun e ⟨hdesc, hrun, hw, hatomic, haccs, hfits⟩ => ?_⟩
    simp only [desc, n] at hdesc
    simp only [accs, n] at haccs
    simp only [hdesc, hrun, haccs, hw, hatomic, Bool.not_true, Bool.false_eq_true, if_false, if_true, decide_eq_true_eq]
    rw [buffer_fits ?fits]
    · refine ⟨_, rfl, rfl, rfl, rfl, stores_of_outstanding (outstanding_noteAccs e.ck s _ .write as), _, rfl, ?_⟩
      rw [List.map_map]
      refine List.map_congr_left fun a _ => ?_
      simp only [Function.comp_apply, cs]
      generalize (e.insideLanes f d).find? (fun x => decide (x.1 = a.lane)) = found
      cases found <;> rfl
    case fits =>
      rw [commitUsed_map (n := 16 + round8 ((d.ebits + 7) / 8))]
      · exact hfits
      · exact fun _ => rfl

end Sys2Proof.Proofs
end

section
namespace Sys2Proof.Proofs
open Sys2Proof Sys2Proof.Machine

/-! # Copies (R283, R294 to R296, R299, R300, R387) -/

/-! ## Scratch ranges that are held -/

/-- The addresses at which a scratch range is checked: one in each granule, or one that is out of range. -/
def rangeSteps (r : Nat × Nat × Nat) : List Nat :=
  if r.2.1 = 0 then []
  else if 2 ^ 21 < r.1 + r.2.1 then [2 ^ 21]
  else r.1 :: (List.range ((r.1 + r.2.1 - 1) / 8192 - r.1 / 8192)).map fun k => (r.1 / 8192 + k + 1) * 8192

/-- Whether an address lies in a bank that is no scratch. -/
def offScratch (e : Env) (a : Nat) : Bool := decide (((e.s.comb e.ck).bank (a / 2 ^ 17 % 16)).mode ≠ .scratch)

section
variable {e : Env}

/-- Ranges meet no fault when each of three searches finds none: out of range, in another bank, misaligned (R283). -/
theorem scratchRanges_eq_none {rs : List (Nat × Nat × Nat)} : e.scratchRanges rs = none ↔
    rs.find? (fun r => (rangeSteps r).any e.scRange) = none ∧ (rs.flatMap rangeSteps).find? (offScratch e) = none ∧
      rs.find? (fun r => decide (r.1 % r.2.2 ≠ 0)) = none := by
  have hunfold : e.scratchRanges rs = match rs.find? (fun r => (rangeSteps r).any e.scRange) with
    | some r => some ⟨codeSCRANGE, e.tmask, r.1, 0⟩
    | none => match (rs.flatMap rangeSteps).find? (offScratch e) with
      | some a => some ⟨codeBANKMODE, e.tmask, a / 2 ^ 17 % 16, ((e.s.comb e.ck).bank (a / 2 ^ 17 % 16)).mode.code⟩
      | none => match rs.find? (fun r => decide (r.1 % r.2.2 ≠ 0)) with
        | some r => some ⟨codeDALIGN, e.tmask, r.1, 0⟩
        | none => none := rfl
  rw [hunfold]
  generalize rs.find? (fun r => (rangeSteps r).any e.scRange) = out
  generalize (rs.flatMap rangeSteps).find? (offScratch e) = off
  generalize rs.find? (fun r => decide (r.1 % r.2.2 ≠ 0)) = misaligned
  cases out with
  | some => simp
  | none =>
    cases off with
    | some => simp
    | none => cases misaligned <;> simp

/-- Some of the ranges that meet no fault meet none. -/
theorem scratchRanges_of_subset {rs qs : List (Nat × Nat × Nat)} (h : e.scratchRanges rs = none) (hsub : ∀ r ∈ qs, r ∈ rs) :
    e.scratchRanges qs = none := by
  have still {α : Type} {xs ys : List α} {p : α → Bool} (hnone : xs.find? p = none) (hxy : ∀ y ∈ ys, y ∈ xs) : ys.find? p = none :=
    List.find?_eq_none.2 fun y hy => List.find?_eq_none.1 hnone y (hxy y hy)
  obtain ⟨hout, hoff, haligned⟩ := scratchRanges_eq_none.1 h
  refine scratchRanges_eq_none.2 ⟨still hout hsub, still hoff fun a ha => ?_, still haligned hsub⟩
  obtain ⟨r, hr, har⟩ := List.mem_flatMap.1 ha
  exact List.mem_flatMap.2 ⟨r, hsub r hr, har⟩

/-- Rows that are held fault in no lane. -/
theorem rowFault_of_held {len : Nat} {rows : List (Nat × Nat)} (h : ∀ r ∈ rows, e.scratchRanges [(r.2, len, 1)] = none) (cause : Nat) :
    e.rowFault cause len rows = none := by
  have hnone : (rows.filter fun r => (e.scratchRanges [(r.2, len, 1)]).any fun t => decide (t.cause = cause)) = [] :=
    List.filter_eq_nil_iff.2 fun r hr => by
      rw [h r hr]
      exact Bool.false_ne_true
  unfold Env.rowFault
  dsimp only
  rw [hnone, laneFault_nil]

theorem barrierRange_copyBarrier (e : Env) (f : MForm) :
    barrierRange (e.copyBarrier f) = if f.d = .sink then [] else [((e.read32 f.d 0).toNat, 16, 16)] := by
  unfold Env.copyBarrier
  split <;> rfl

end

/-! ## Copies that start (R294 to R296, R299, R387) -/

/-- An effect after which a copy stands in the CP class of its issuer, on a machine that is otherwise as before. -/
def StandsAsCopy (e : Env) (s : State) (o : Out) (c : CopyOp) : Prop :=
  o.writes = [] ∧ o.th = e.th ∧ o.next = .seq ∧ ∃ op : AsyncOp, o.s = { s with nextUid := s.nextUid + 1 }.modComb e.ck (fun k => { k with ops := k.ops ++ [op] }) ∧
    op.uid = s.nextUid ∧ op.owner = e.ag ∧ op.ownerUid = e.th.uid ∧ op.cls = 1 ∧ op.kind = .copy c

theorem copyStart_stands (e : Env) (s : State) (f : MForm) (c : CopyOp) :
    ∃ o, e.copyStart s f c = .ok o ∧ o.trap = none ∧ StandsAsCopy e s o c := by
  unfold Env.copyStart
  extract_lets r
  have hth : r.2 = e.th := by
    dsimp only [r]
    rw [async_uncov, List.map_nil, List.append_nil]
  exact ⟨_, rfl, rfl, rfl, hth, rfl, async_state e s e.th 1 f.scope.toNat (if isRel f then some f.scope.toNat else none) (.copy c) []⟩

section
variable {e : Env} {s : State} {d : Desc} {f : MForm}
  (hdesc : e.s.descriptor e.ck (e.s.agentCtx e.ag) ((e.read32 f.a 0).toNat % 4096) = .ok s d) (hrun : e.runFault f.b d.ndim [] false = none)
include hdesc hrun

/-- A tile copy whose descriptor, coordinates and scratch are valid starts with the values of its operands (R294). -/
theorem tileCopy_stands {op : Nat} {range : Nat → List (Nat × Nat × Nat)} (hw : op ≠ 0x121 ∨ d.w = true)
    (hrange : e.scratchRanges (range (e.read32 f.c 0).toNat) = none) (bar : Option Nat) (recvs : State → List CopyRecv) :
    ∃ o, e.tileCopy f op bar range recvs = .ok o ∧ o.trap = none ∧ StandsAsCopy e s o
      { op := op, nums := (e.read32 f.a 0).toNat % 4096 :: (e.read32 f.c 0).toNat ::
          ((List.range 5).map fun k => if k < d.ndim then (BitVec.ofInt 32 (e.runReg f.b k 0)).toNat else 0) ++ d.nums
        ntf := copyNtf f, ru := decide (op = 0x121) && copyRu f, barrier := bar, sectors := 8, done := [], recvs := recvs s, paused := none
        ended := false, ruDone := false } := by
  have hwrite : ¬ (op = 0x121 ∧ (!d.w) = true) := by
    rintro ⟨hop, hnw⟩
    rcases hw with h | h
    · exact h hop
    · rw [h] at hnw
      contradiction
  simp only [Env.tileCopy, hdesc, hrun, if_neg hwrite, hrange]
  exact copyStart_stands ..

/-- A COPYO to a tensor without W faults (R294). -/
theorem tileCopy_of_not_writable {range : Nat → List (Nat × Nat × Nat)} (hw : d.w = false) (bar : Option Nat) (recvs : State → List CopyRecv) :
    e.tileCopy f 0x121 bar range recvs = .fault ⟨codeTDBAD, e.tmask, (e.read32 f.a 0).toNat % 4096, 8⟩ := by
  simp only [Env.tileCopy, hdesc, hrun, hw, Bool.not_false, and_self, if_true]
  rfl

end

/-- A GATHER whose rows and barrier are held has no scratch fault (R283). -/
theorem gatherFault_of_held {e : Env} {f : MForm} {b len : Nat}
    (h : e.scratchRanges ((e.lanes.map fun i => (b + i * len, len, 1)) ++ barrierRange (e.copyBarrier f)) = none) :
    e.gatherFault f b len = none ∧ e.scratchRanges (barrierRange (e.copyBarrier f)) = none := by
  have hbar : e.scratchRanges (barrierRange (e.copyBarrier f)) = none :=
    scratchRanges_of_subset h fun r hr => List.mem_append_right _ hr
  have hrows : ∀ r ∈ e.lanes.map fun i => (i, b + i * len), e.scratchRanges [(r.2, len, 1)] = none := fun r hr => by
    obtain ⟨i, hi, rfl⟩ := List.mem_map.1 hr
    refine scratchRanges_of_subset h fun q hq => List.mem_append_left _ ?_
    rw [List.mem_singleton.1 hq]
    exact List.mem_map.2 ⟨i, hi, rfl⟩
  refine ⟨?_, hbar⟩
  simp only [Env.gatherFault, hbar, rowFault_of_held hrows, firstFault]

theorem ops_post (s : State) (ck : Nat) (r : EvRec) : ((s.post ck r).comb ck).ops = (s.comb ck).ops := by
  rw [State.post, State.comb_modComb_self]
  unfold Comb.post
  dsimp only
  split <;> rfl

/-- Tile copies by their one body; GATHER by its rows' translation; COPYL by its length. -/
theorem copiesIssue : Claim.CopiesIssue := by
  intro f started n a bar barRange tile coords copy rows len at' ds ss lineOk
  have hbar (e : Env) : barRange e = barrierRange (e.copyBarrier f) := (barrierRange_copyBarrier e f).symm
  refine ⟨fun s d => .of_body ?copy, fun s d => .of_body ?copyo, fun s d => .of_body ?copym, fun as => .of_body ?gather, .of_body ?copyl,
    .of_body ?empty, .of_body ?emptyNtf, fun s d => ?readOnly⟩
  case copy =>
    intro s0
    dsimp only [exec, execCopy]
    refine ⟨_, rfl, fun e ⟨⟨hdesc, hrun⟩, hheld⟩ => ?_⟩
    rw [hbar] at hheld
    exact tileCopy_stands (range := fun a => (a, 1024, 128) :: barrierRange (e.copyBarrier f)) hdesc hrun (.inl (by decide)) hheld (e.copyBarrier f) fun _ => []
  case copyo =>
    intro s0
    dsimp only [exec, execCopyo]
    refine ⟨_, rfl, fun e ⟨⟨hdesc, hrun⟩, hw, hheld⟩ => ?_⟩
    exact tileCopy_stands (range := fun a => [(a, 1024, 128)]) hdesc hrun (.inr hw) hheld none fun _ => []
  case copym =>
    intro s0
    dsimp only [exec, execCopym]
    refine ⟨_, rfl, fun e ⟨⟨hdesc, hrun⟩, hheld⟩ => ?_⟩
    exact tileCopy_stands (range := fun a => [(a, 16 * (f.size.toNat + 1), 16)]) hdesc hrun (.inl (by decide)) hheld none
      (e.receivers (e.read32 f.c 0).toNat (f.size.toNat + 1))
  case gather =>
    intro s0
    dsimp only [exec, execGather]
    refine ⟨_, rfl, fun e ⟨hrows, haligned, hheld⟩ => ?_⟩
    rw [hbar] at hheld
    obtain ⟨hfault, hb⟩ := gatherFault_of_held hheld
    have hvas : ((e.each fun i => (e.read64 f.a i).toNat).filter fun l => decide (l.2 % 2 ^ f.size.toNat ≠ 0)) = [] := by
      refine List.filter_eq_nil_iff.2 fun l hl => ?_
      obtain ⟨i, hi, rfl⟩ := List.mem_map.1 hl
      simp [haligned i hi]
    simp only [rows] at hrows
    simp only [a] at hfault
    simp only [hfault, hvas, laneFault_nil, hb, firstFault, hrows]
    obtain ⟨o, ho, htrap, hstands⟩ := copyStart_stands e (e.s.noteAccs e.ck ((e.s.agentCtx e.ag).getD 0) .read as) f _
    exact ⟨o, ho, htrap, _, hstands, rfl, rfl, rfl, rfl, rfl⟩
  case copyl =>
    intro s0
    dsimp only [exec, execCopyl]
    refine ⟨_, rfl, fun e ⟨hheld, hlen⟩ => ?_⟩
    simp only [lineOk, hbar, at', len, ds, ss] at hheld hlen
    simp only [hheld, if_pos hlen]
    obtain ⟨o, ho, htrap, hstands⟩ := copyStart_stands e e.s f _
    exact ⟨o, ho, htrap, _, hstands, rfl, rfl, rfl, rfl, rfl, rfl⟩
  case empty =>
    intro s0
    dsimp only [exec, execCopyl]
    refine ⟨_, rfl, fun e ⟨hheld, hlen, hntf⟩ => ?_⟩
    simp only [lineOk, hbar, at', len, ds, ss] at hheld hlen
    simp only [hheld, if_neg (not_not.2 hlen), copyNtf, hntf, Bool.not_false, if_true]
    exact ⟨_, rfl, rfl, rfl, rfl, rfl, rfl⟩
  case emptyNtf =>
    intro s0
    dsimp only [exec, execCopyl]
    refine ⟨_, rfl, fun e ⟨hheld, hlen, hntf, hpost⟩ => ?_⟩
    simp only [lineOk, hbar, at', len, ds, ss] at hheld hlen
    simp only [hheld, if_neg (not_not.2 hlen), copyNtf, hntf, Bool.not_true, Bool.false_eq_true, if_false, hpost, if_true]
    exact ⟨_, rfl, rfl, rfl, rfl, rfl, ops_post ..⟩
  case readOnly =>
    rintro s0 ag th hready ⟨⟨hdesc, hrun⟩, hw⟩
    rw [show exec (.copyo f) s0 = issue s0 (ruleCopyo f) fun e => e.tileCopy f 0x121 none (fun a => [(a, 1024, 128)]) fun _ => [] from rfl,
      issue_ready hready, tileCopy_of_not_writable hdesc hrun hw]
    rfl

/-! ## Operations replaced one after another -/

/-- Each of some operations put in the place of those with its number. -/
def replaceAll (rs ops : List AsyncOp) : List AsyncOp := rs.foldl (fun ops r => ops.map fun o => if o.uid = r.uid then r else o) ops

section
variable {rs ops : List AsyncOp} {op r : AsyncOp}

theorem uids_replaceAll (rs ops : List AsyncOp) : (replaceAll rs ops).map (·.uid) = ops.map (·.uid) := by
  refine view_foldl (fun ops : List AsyncOp => ops.map (·.uid)) (fun ops r => ?_) rs ops
  rw [List.map_map]
  refine List.map_congr_left fun o _ => ?_
  dsimp only [Function.comp_apply]
  split
  · next h => exact h.symm
  · rfl

/-- What stands after the replacement is one of the new operations, or an old one with a number that none of them has. -/
theorem mem_replaceAll (h : op ∈ replaceAll rs ops) : op ∈ rs ∨ op ∈ ops ∧ ∀ r ∈ rs, r.uid ≠ op.uid := by
  induction rs generalizing ops with
  | nil => exact .inr ⟨h, fun r hr => absurd hr List.not_mem_nil⟩
  | cons r rs ih =>
    rcases ih h with hrs | ⟨hmap, hne⟩
    · exact .inl (List.mem_cons_of_mem _ hrs)
    · obtain ⟨o, ho, rfl⟩ := List.mem_map.1 hmap
      split
      · exact .inl (List.mem_cons_self ..)
      · next huid =>
        rw [if_neg huid] at hne
        exact .inr ⟨ho, List.forall_mem_cons.2 ⟨fun h => huid h.symm, hne⟩⟩

/-- An operation that every new one of its number equals is kept. -/
theorem mem_replaceAll_of_kept (hop : op ∈ ops) (h : ∀ r ∈ rs, r.uid = op.uid → r = op) : op ∈ replaceAll rs ops := by
  induction rs generalizing ops with
  | nil => exact hop
  | cons r rs ih =>
    refine ih (List.mem_map.2 ⟨op, hop, ?_⟩) fun q hq => h q (List.mem_cons_of_mem _ hq)
    split
    · next huid => exact h r (List.mem_cons_self ..) huid.symm
    · rfl

/-- A new operation stands in the place of the old one when no other has its number. -/
theorem mem_replaceAll_of_new (hop : op ∈ ops) (hr : r ∈ rs) (huid : r.uid = op.uid) (h : ∀ q ∈ rs, q.uid = op.uid → q = r) : r ∈ replaceAll rs ops := by
  induction rs generalizing ops with
  | nil => exact absurd hr List.not_mem_nil
  | cons q rs ih =>
    by_cases hq : q.uid = op.uid
    · have hqr : q = r := h q (List.mem_cons_self ..) hq
      have hput : r ∈ ops.map fun o => if o.uid = q.uid then q else o := List.mem_map.2 ⟨op, hop, by rw [if_pos hq.symm, hqr]⟩
      exact mem_replaceAll_of_kept (rs := rs) hput fun p hp hpr => h p (List.mem_cons_of_mem _ hp) (hpr.trans huid)
    · have hne : r ≠ q := fun he => hq (he ▸ huid)
      refine ih (List.mem_map.2 ⟨op, hop, if_neg fun he => hq he.symm⟩) ?_ fun p hp => h p (List.mem_cons_of_mem _ hp)
      exact (List.mem_cons.1 hr).resolve_left hne

end

/-! ## CCANCEL (R300) -/

/-- The copies of an agent that have not ended, with their operations. -/
def stoppedCopy (uid : Nat) (op : AsyncOp) : Option (AsyncOp × CopyOp) :=
  match op.kind with
  | .copy c => if op.ownerUid = uid ∧ c.ended = false then some (op, c) else none
  | _ => none

/-- A copy's operation once it has ended. -/
def endedCopy (x : AsyncOp × CopyOp) : AsyncOp := { x.1 with kind := .copy { x.2 with ended := true } }

theorem stoppedCopy_eq_some {uid : Nat} {op : AsyncOp} {x : AsyncOp × CopyOp} :
    stoppedCopy uid op = some x ↔ ∃ c, op.kind = .copy c ∧ op.ownerUid = uid ∧ c.ended = false ∧ x = (op, c) := by
  unfold stoppedCopy
  split
  · next c hc =>
    by_cases h : op.ownerUid = uid ∧ c.ended = false
    · rw [if_pos h]
      refine ⟨fun hx => ⟨c, hc, h.1, h.2, (Option.some.inj hx).symm⟩, ?_⟩
      rintro ⟨c', hc', -, -, rfl⟩
      rw [OpKind.copy.inj (hc.symm.trans hc')]
    · rw [if_neg h]
      refine ⟨nofun, fun ⟨c', hc', hown, hended, _⟩ => absurd ⟨hown, ?_⟩ h⟩
      rwa [OpKind.copy.inj (hc.symm.trans hc')]
  · next hne => exact ⟨nofun, fun ⟨c, hc, _⟩ => absurd hc (hne c)⟩

/-- What CCANCEL looks at of a machine: the writes on their way, main memory, and of a comb its records and operations. -/
def cancelParts (ck : Nat) (s : State) : (List Store × List Host.Cell) × (List EvRec × List EvRec) × List AsyncOp :=
  ((s.stores, s.hbm), ((s.comb ck).evq, (s.comb ck).overflow), (s.comb ck).ops)

/-- A part of a comb beside its scratch is as before a write to it. -/
theorem putScratch_keeps {α : Type} {g : Comb → α} (hwritten : ∀ c x, g { c with written := x } = g c) (hscratch : ∀ c x, g { c with scratch := x } = g c)
    (c : Comb) (a : Nat) (bs : List Byte) : g (c.putScratch a bs) = g c := by
  have hmark (n : Nat) : g (c.markWritten a n) = g c := by
    induction n with
    | zero => rfl
    | succ n ih => exact (hwritten _ _).trans ih
  exact (hscratch _ _).trans (hmark _)

theorem cancelParts_modTxBar (ck k : Nat) (s : State) (a : Nat) (g : TxBar → TxBar) :
    cancelParts ck (s.modComb k fun c => c.modTxBar a g) = cancelParts ck s := by
  unfold cancelParts
  rw [State.comb_modComb]
  split
  · next h =>
    have hkeep := putScratch_keeps (g := fun c : Comb => ((c.evq, c.overflow), c.ops)) (fun _ _ => rfl) (fun _ _ => rfl)
      (s.comb k) a (leBytes 16 (g ((s.comb k).txBar a)).toNat)
    exact congrArg (Prod.mk (s.stores, s.hbm)) (hkeep.trans (by rw [h]))
  · rfl

/-- The sectors that a copy will not deliver are lost at barriers only (R298, R300). -/
theorem cancelParts_loseSectors (ck : Nat) (s : State) (op : AsyncOp) (c : CopyOp) : cancelParts ck (s.loseSectors ck op c) = cancelParts ck s := by
  have hrecv (s : State) (r : CopyRecv) : cancelParts ck (s.loseRecv op.ctx r c.done) = cancelParts ck s := by
    unfold State.loseRecv State.modRecvBar
    split
    · split
      · exact cancelParts_modTxBar ..
      · rfl
    · rfl
  unfold State.loseSectors
  extract_lets n s'
  have hs' : cancelParts ck s' = cancelParts ck s := by
    dsimp only [s']
    split
    · exact cancelParts_modTxBar ..
    · rfl
  refine (view_foldl (cancelParts ck) (fun s r => ?_) c.recvs s').trans hs'
  split
  · rfl
  · exact hrecv s r

/-- Copies stopped one after another end, and no record is posted and nothing written (R300). -/
theorem cancelParts_stop (ck : Nat) (xs : List (AsyncOp × CopyOp)) (s : State) :
    cancelParts ck (xs.foldl (fun s x => (s.loseSectors ck x.1 x.2).modComb ck fun c => c.setOp (endedCopy x)) s) =
      ((cancelParts ck s).1, (cancelParts ck s).2.1, replaceAll (xs.map endedCopy) (cancelParts ck s).2.2) := by
  induction xs generalizing s with
  | nil => rfl
  | cons x xs ih =>
    have hstep : cancelParts ck ((s.loseSectors ck x.1 x.2).modComb ck fun c => c.setOp (endedCopy x)) =
        ((cancelParts ck s).1, (cancelParts ck s).2.1, (cancelParts ck s).2.2.map fun o => if o.uid = (endedCopy x).uid then endedCopy x else o) := by
      rw [← cancelParts_loseSectors ck s x.1 x.2]
      unfold cancelParts
      rw [State.comb_modComb_self]
      rfl
    rw [List.foldl_cons, ih, hstep]
    rfl

/-- Whether CCANCEL stops an operation. -/
theorem isSome_stoppedCopy (uid : Nat) (op : AsyncOp) : (stoppedCopy uid op).isSome = match op.kind with
    | .copy c => decide (op.ownerUid = uid) && !c.ended
    | _ => false := by
  unfold stoppedCopy
  split
  · next c _ => by_cases hown : op.ownerUid = uid <;> cases c.ended <;> simp [hown]
  · rfl

theorem isSome_stoppedCopy_endedCopy (uid : Nat) (x : AsyncOp × CopyOp) : (stoppedCopy uid (endedCopy x)).isSome = false := by
  simp [isSome_stoppedCopy, endedCopy]

section
variable {uid : Nat} {ops : List AsyncOp}

/-- The operations that CCANCEL leaves: the copies it stops have ended. -/
def cancelled (uid : Nat) (ops : List AsyncOp) : List AsyncOp := replaceAll ((ops.filterMap (stoppedCopy uid)).map endedCopy) ops

/-- An ended copy stands for one of the operations, which it stops and whose number it has. -/
theorem mem_stopped {r : AsyncOp} (h : r ∈ (ops.filterMap (stoppedCopy uid)).map endedCopy) :
    ∃ m ∈ ops, ∃ c, stoppedCopy uid m = some (m, c) ∧ r = endedCopy (m, c) ∧ m.uid = r.uid := by
  obtain ⟨x, hx, rfl⟩ := List.mem_map.1 h
  obtain ⟨m, hm, hmx⟩ := List.mem_filterMap.1 hx
  obtain ⟨c, -, -, -, rfl⟩ := stoppedCopy_eq_some.1 hmx
  exact ⟨m, hm, c, hmx, rfl, rfl⟩

theorem endedCopy_mem {m : AsyncOp} {x : AsyncOp × CopyOp} (hm : m ∈ ops) (hx : stoppedCopy uid m = some x) :
    endedCopy x ∈ (ops.filterMap (stoppedCopy uid)).map endedCopy :=
  List.mem_map_of_mem (List.mem_filterMap.2 ⟨m, hm, hx⟩)

/-- No copy of the agent goes on (R300). -/
theorem no_stopped_of_cancelled {op : AsyncOp} (h : op ∈ cancelled uid ops) : (stoppedCopy uid op).isSome = false := by
  rcases mem_replaceAll h with hr | ⟨hop, hne⟩
  · obtain ⟨m, -, c, -, rfl, -⟩ := mem_stopped hr
    exact isSome_stoppedCopy_endedCopy uid (m, c)
  · cases hx : stoppedCopy uid op with
    | none => rfl
    | some x =>
      obtain ⟨c, -, -, -, rfl⟩ := stoppedCopy_eq_some.1 hx
      exact absurd rfl (hne (endedCopy (op, c)) (endedCopy_mem hop hx))

/-- An operation whose number no stopped copy has is as before. -/
theorem mem_cancelled_of_other {op : AsyncOp} (hop : op ∈ ops) (h : ∀ m ∈ ops, (stoppedCopy uid m).isSome = true → m.uid ≠ op.uid) :
    op ∈ cancelled uid ops := by
  refine mem_replaceAll_of_kept hop fun r hr huid => ?_
  obtain ⟨m, hm, c, hmc, -, hmr⟩ := mem_stopped hr
  exact absurd (hmr.trans huid) (h m hm (by rw [hmc]; rfl))

/-- A copy of the agent with a number of its own has ended. -/
theorem ended_mem_cancelled {op : AsyncOp} {c : CopyOp} (hop : op ∈ ops) (hkind : op.kind = .copy c) (hown : op.ownerUid = uid)
    (hunique : ∀ m ∈ ops, m.uid = op.uid → m = op) : endedCopy (op, c) ∈ cancelled uid ops := by
  cases hended : c.ended with
  | true =>
    have hself : endedCopy (op, c) = op := by
      obtain ⟨_, _, _, _, _, _, _, _, _, _, _, _, _, _⟩ := op
      obtain ⟨_, _, _, _, _, _, _, _, _, _, _⟩ := c
      simp_all [endedCopy]
    rw [hself]
    refine mem_cancelled_of_other hop fun m hm hstop huid => ?_
    rw [hunique m hm huid, isSome_stoppedCopy, hkind] at hstop
    simp [hended] at hstop
  | false =>
    have hx : stoppedCopy uid op = some (op, c) := stoppedCopy_eq_some.2 ⟨c, hkind, hown, hended, rfl⟩
    refine mem_replaceAll_of_new hop (endedCopy_mem hop hx) rfl fun q hq huid => ?_
    obtain ⟨m, hm, c', hmc, rfl, hmq⟩ := mem_stopped hq
    rw [hunique m hm (hmq.trans huid), hx] at hmc
    rw [hunique m hm (hmq.trans huid), (Prod.mk.inj (Option.some.inj hmc)).2]

end

theorem exec_ccancel (f : MForm) (s : State) : exec (.ccancel f) s = issue s (ruleCcancel f) fun e =>
    let xs := (e.s.comb e.ck).ops.filterMap (stoppedCopy e.th.uid)
    .ok ⟨xs.foldl (fun s x => (s.loseSectors e.ck x.1 x.2).modComb e.ck fun c => c.setOp (endedCopy x)) e.s, e.th,
      e.write32 f.d false [(0, BitVec.ofNat 32 xs.length)], 0, none, .seq⟩ := rfl

theorem copyCancel : Claim.CopyCancel := by
  intro f old stops
  have hstops (e : Env) (op : AsyncOp) : stops e op = (stoppedCopy e.th.uid op).isSome := (isSome_stoppedCopy ..).symm
  have hcount (e : Env) : ((old e).filterMap (stoppedCopy e.th.uid)).length = ((old e).filter (stops e)).length := by
    rw [List.length_filterMap_eq_countP, List.countP_eq_length_filter, funext (hstops e)]
  refine .of_body fun s => ⟨_, exec_ccancel f s, fun e _ => ?_⟩
  have hparts := cancelParts_stop e.ck ((old e).filterMap (stoppedCopy e.th.uid)) e.s
  simp only [cancelParts, Prod.mk.injEq] at hparts
  obtain ⟨⟨hstores, hhbm⟩, ⟨hevq, hoverflow⟩, hops⟩ := hparts
  refine ⟨_, rfl, rfl, rfl, rfl, ?_, ?_, ?_, ?_, ?_, hevq, hoverflow, hstores, hhbm⟩
  · rw [← hcount]
  · rw [hops]
    exact uids_replaceAll ..
  · intro op hop
    rw [hops] at hop
    rw [hstops]
    exact no_stopped_of_cancelled hop
  · intro op hop hother
    rw [hops]
    exact mem_cancelled_of_other hop fun m hm hm' => hother m hm (by rw [hstops]; exact hm')
  · intro op hop c hkind hown hunique
    rw [hops]
    exact ended_mem_cancelled hop hkind hown hunique

/-- Settles O24: a copy stands as its issue registers it, and CCANCEL puts the ended copies in the places of those it stops. -/
theorem copies : Obligations.Copies := ⟨copiesIssue, copyCancel⟩

end Sys2Proof.Proofs
end

section
namespace Sys2Proof.Proofs
open Sys2Proof Sys2Proof.Machine

/-! # The engines' own events (R297, R298, R309, R314, R315, R371) -/

/-! ## The bin router (R371) -/

/-- The view-set words read one by one are those of the four that are read first. -/
theorem getD_viewWords (words : Nat → Word) {v : Nat} (hv : v < 128) : ((List.range 4).map words).getD (v / 32) 0 = words (v / 32) := by
  rw [List.getD_eq_getElem?_getD, List.getElem?_map, List.getElem?_range (by omega)]
  rfl

theorem primitiveBinning : Claim.PrimitiveBinning := by
  intro s die p rest hrouter s' views
  have hsets : (s'.die die).viewSets = (s.die die).viewSets := by
    rw [State.die_modComb, State.die_modDie_self]
  have hviews : ((List.range 128).filter fun v =>
      (((List.range 4).map fun k => Sparse.get 0 (s'.die die).viewSets (p.rset * 4096 + 4 * p.set + k)).getD (v / 32) 0).getLsbD (v % 32)) = views := by
    refine List.filter_congr fun v hv => ?_
    rw [getD_viewWords _ (List.mem_range.1 hv), hsets]
  rw [← hviews]
  dsimp only [exec, execPrimitiveBinning]
  rw [hrouter]

/-! ## The matrix array (R309, R314, R315) -/

theorem modSeq_of_find {c : Comb} {q : Nat} {x : Seq} (h : Sparse.find? c.seqs q = some x) (g : Seq → Seq) :
    c.modSeq q g = { c with seqs := Sparse.put c.seqs q (g x) } := by
  simp only [Comb.modSeq, h]

/-- Noting who has become eligible keeps the numbers of the entries. -/
theorem uids_noteEligible (old : Comb) (frozen : List Nat) (c : Comb) : (old.noteEligible frozen c).passes.map (·.uid) = c.passes.map (·.uid) := by
  unfold Comb.noteEligible
  rw [List.map_map]
  refine List.map_congr_left fun p _ => ?_
  dsimp only [Function.comp_apply]
  split <;> rfl

/-- A pass that completes leaves its flags in MSTAT of its stream and is on the table no more (R315). -/
theorem completePass_lands {c : Comb} {frozen : List Nat} {p : Pass} {x : Seq} (hx : Sparse.find? c.seqs p.seq = some x) :
    Sparse.find? (c.completePass frozen p).seqs p.seq = some { x with th := { x.th with fstat := x.th.fstat ||| p.excs.setWidth 32 } } ∧
      ∀ y ∈ (c.completePass frozen p).passes, y.uid ≠ p.uid := by
  unfold Comb.completePass
  rw [modSeq_of_find hx]
  refine ⟨Sparse.find?_put_self .., fun y hy => ?_⟩
  have huid := List.mem_map_of_mem (f := fun q : Pass => q.uid) hy
  rw [uids_noteEligible] at huid
  obtain ⟨q, hq, hqy⟩ := List.mem_map.1 huid
  have hne : q.uid ≠ p.uid := of_decide_eq_true (List.mem_filter.1 hq).2
  exact hqy ▸ hne

section
variable {s : State} {die comb : Nat}

theorem exec_passGrant {p : Pass} {x : Seq × Team} (hfree : (s.comb (combKey die comb)).arrayFree = true)
    (hnext : (s.comb (combKey die comb)).nextPass (s.die die).frozen = some p) (hteam : (s.comb (combKey die comb)).seqTeam p.seq = some x) :
    exec (.passGrant die comb) s = .next { s.modComb (combKey die comb) fun c =>
      c.noteEligible (s.die die).frozen (c.setPass { p with running := true, grant := s.nextUid }) with nextUid := s.nextUid + 1 } := by
  simp only [exec, execPassGrant, hfree, hnext, hteam, if_true]

/-- The holder of the array goes on to its next boundary when no fault meets it (R314). -/
theorem advancePass_of_no_fault {ck : Nat} {p : Pass} {x : Seq × Team} (hteam : (s.comb ck).seqTeam p.seq = some x)
    (hfault : (s.stepPass ck x.2.ctx x.1.th.uid p).fault = none) :
    s.advancePass ck p = (s.stepPass ck x.2.ctx x.1.th.uid p).s.modComb ck fun c =>
      c.setPass { p with kstep := (s.stepPass ck x.2.ctx x.1.th.uid p).kstep, excs := p.excs ||| (s.stepPass ck x.2.ctx x.1.th.uid p).excs,
                         fin := decide (p.total ≤ (s.stepPass ck x.2.ctx x.1.th.uid p).kstep) } := by
  simp only [State.advancePass, hteam, hfault]

/-! ## The copy engines (R297, R298) -/

section
variable {i : Nat} {op : AsyncOp} {cp : CopyOp} (hop : (s.comb (combKey die comb)).ops[i]? = some op) (hkind : op.kind = .copy cp)
include hop hkind

/-- A sector of a copy that may move is tried. -/
theorem exec_copySectorWrite {k : Nat} (hready : s.copyReady (combKey die comb) op cp = true) (hk : k < cp.sectors) (hnew : cp.done.contains k = false) :
    exec (.copySectorWrite die comb i k) s = match s.copySector (combKey die comb) op cp k with
      | .error f => .next (s.copyFault (combKey die comb) op cp f)
      | .ok (s', cp') =>
        .next (((match cp'.barrier with
          | some b => if cp'.counts then s'.modComb (combKey die comb) fun x => x.modTxBar b TxBar.sector else s'
          | none => s').modComb (combKey die comb) fun x => x.setOp { op with kind := .copy { cp' with done := cp'.done ++ [k] } }).serveComb
            (combKey die comb)) := by
  simp only [exec, execCopySectorWrite, Comb.op, hop, hkind, hready, hnew, decide_eq_true hk, Bool.not_false, Bool.and_self, if_true] <;> rfl

theorem exec_copyResume {va : Nat} {l : Leaf} (hpaused : cp.paused = some va)
    (hleaf : s.translate (combKey die comb) (some op.ctx) va .read = .ok l) :
    exec (.copyResume die comb i) s = .next (s.modComb (combKey die comb) fun x => x.setOp { op with kind := .copy { cp with paused := none } }) := by
  simp only [exec, execCopyResume, Comb.op, hop, hkind, hpaused, hleaf]

end

end

theorem engineEvents : Claim.EngineEvents := by
  intro s die comb i k ck c frozen
  refine ⟨fun p x hfree hnext hteam => exec_passGrant hfree hnext hteam, fun p hdone => ?completes, fun p x hnone hholder hpost hteam hfault => ?runs,
    fun p x hx => completePass_lands hx, fun p x l hpaused hteam hleaf => ?resumes, fun op cp s' cp' hop hkind hready hk hnew hmoved => ?moved,
    fun op cp f hop hkind hready hk hnew hfault => ?fault, fun op cp va l hop hkind hpaused hleaf => exec_copyResume hop hkind hpaused hleaf⟩
  case completes =>
    simp only [exec, execPassCompletion]
    rw [hdone]
  case runs =>
    simp only [exec, execPassCompletion]
    rw [hnone, hholder]
    dsimp only
    rw [if_pos hpost, advancePass_of_no_fault hteam hfault]
  case resumes =>
    simp only [exec, execPassResume]
    rw [hpaused, hteam]
    dsimp only
    rw [hleaf]
  case moved =>
    rw [exec_copySectorWrite hop hkind hready hk hnew, hmoved] <;> rfl
  case fault => rw [exec_copySectorWrite hop hkind hready hk hnew, hfault]

/-- Settles O40: the router bins for the views of its four words, and each engine event takes the branch that its condition names. -/
theorem engineProgress : Obligations.EngineProgress := ⟨primitiveBinning, engineEvents⟩

end Sys2Proof.Proofs
end

section
namespace Sys2Proof.Proofs
open Sys2Proof Sys2Proof.Machine

/-! # Path summaries (R400) -/

theorem pOf_eq_sum (widths : List Nat) (k : Nat) : pOf widths k = (widths.drop (k + 1)).sum := by
  rw [pOf, ← List.sum_eq_foldl]

/-- A summary of K = 4 is the identity (R400). -/
theorem applyS_of_four {x : Nat} (h : x % 8 = 4) (widths : List Nat) (t : Nat) : applyS widths x t = some t := if_pos h

/-- Any other summary adds INC to the counter cK and zeroes the deeper ones, or is ∞ (R400). -/
theorem applyS_of_ne_four {x : Nat} (h : x % 8 ≠ 4) (widths : List Nat) (t : Nat) :
    applyS widths x t = if 2 ^ 64 ≤ (t / 2 ^ (widths.drop (x % 8 + 1)).sum + x / 8 % 2) * 2 ^ (widths.drop (x % 8 + 1)).sum then none
      else some ((t / 2 ^ (widths.drop (x % 8 + 1)).sum + x / 8 % 2) * 2 ^ (widths.drop (x % 8 + 1)).sum) := by
  rw [← pOf_eq_sum]
  exact if_neg h

/-- A later time has a later result: the quotient, the sum and the product only grow (R400). -/
theorem applyS_mono (widths : List Nat) (x : Nat) {t t' y : Nat} (h : t ≤ t') (hy : applyS widths x t' = some y) :
    ∃ z, applyS widths x t = some z ∧ z ≤ y := by
  by_cases hk : x % 8 = 4
  · rw [applyS_of_four hk] at hy
    exact ⟨t, applyS_of_four hk .., h.trans (Option.some.inj hy).le⟩
  · rw [applyS_of_ne_four hk] at hy ⊢
    generalize (widths.drop (x % 8 + 1)).sum = p at hy ⊢
    have hle : (t / 2 ^ p + x / 8 % 2) * 2 ^ p ≤ (t' / 2 ^ p + x / 8 % 2) * 2 ^ p := by gcongr
    split at hy
    · contradiction
    · next hfit => exact ⟨_, if_neg fun hbig => hfit (hbig.trans hle), hle.trans (Option.some.inj hy).le⟩

/-- Settles O30: the value of a summary by its K, and that it grows with the time. -/
theorem summariesApply : Obligations.SummariesApply := fun widths x _ _ =>
  ⟨fun h => applyS_of_four h .., fun h => applyS_of_ne_four h .., fun h _ hy => applyS_mono widths x h hy, rfl, rfl⟩

end Sys2Proof.Proofs
end

section
namespace Sys2Proof.Proofs
open Sys2Proof Sys2Proof.Machine

/-! # Traps of uniform and of vector instructions (R7, R185) -/

/-- What a uniform instruction sees says that it is one. -/
def Uniform (e : Env) : Prop := e.vec = false

/-- TMASK of a uniform instruction's own fault is `em` (R185). -/
theorem fault_of_uniform {e : Env} (h : Uniform e) (cause tval tval2 : Nat) :
    e.fault cause tval tval2 = .fault ⟨cause, e.th.em, tval, tval2⟩ := by
  simp only [Env.fault, Env.tmask, show e.vec = false from h, Bool.false_eq_true, if_false]

/-- TMASK of a vector instruction's own fault is `act` (R185). -/
theorem fault_of_vector {e : Env} (h : e.vec = true) (cause tval tval2 : Nat) : e.fault cause tval tval2 = .fault ⟨cause, e.act, tval, tval2⟩ := by
  simp only [Env.fault, Env.tmask, h, if_true]

section
variable {i : Instr} {r : Rule} {P : Env → Prop} {f : Env → TrapInfo}

/-- To show that an instruction traps, show that its body answers the trap for what its class sees. -/
theorem traps_of_class {c : Bool} (hr : r.vec = c)
    (h : ∀ s, ∃ body : Env → Eff, exec i s = issue s r body ∧ ∀ e : Env, e.vec = c → P e → body e = .fault (f e)) : Traps i r P f := by
  intro s a th hready hp
  obtain ⟨body, hx, hbody⟩ := h s
  rw [hx, issue_ready hready, hbody (s.env a th r) hr hp]
  rfl

theorem traps_of_uniform (hr : r.vec = false)
    (h : ∀ s, ∃ body : Env → Eff, exec i s = issue s r body ∧ ∀ e : Env, Uniform e → P e → body e = .fault (f e)) : Traps i r P f :=
  traps_of_class hr h

theorem traps_of_vector (hr : r.vec = true)
    (h : ∀ s, ∃ body : Env → Eff, exec i s = issue s r body ∧ ∀ e : Env, e.vec = true → P e → body e = .fault (f e)) : Traps i r P f :=
  traps_of_class hr h

end

end Sys2Proof.Proofs
end

section
namespace Sys2Proof.Proofs
open Sys2Proof Sys2Proof.Machine

/-! # Instructions of logical time (R404, R416 to R420) -/

/-! ## The location an instruction names (R416) -/

/-- The location in a register lies below the NLOC of the flow it names. -/
def NamedBelow (e : Env) (a : Spec) : Prop :=
  ∀ y, e.s.findFlow (keyDie e.ck) e.ctxNo (flowOf (e.read32 a 0)) = some y → locOf (e.read32 a 0) < y.nloc

section
variable {e : Env} {a : Spec} {k : Nat → Nat → Eff}

theorem flowLoc_of_below (h : NamedBelow e a) : e.flowLoc a k = k (flowOf (e.read32 a 0)) (locOf (e.read32 a 0)) := by
  dsimp only [Env.flowLoc]
  split
  · next y hy => exact if_neg (h y hy).not_ge
  · rfl

theorem flowLoc_of_not_below (hu : Uniform e) (h : ¬ NamedBelow e a) : e.flowLoc a k = .fault ⟨codeBADSPEC, e.th.em, a.code, 0⟩ := by
  dsimp only [Env.flowLoc]
  split
  · next y hy =>
    rw [← fault_of_uniform hu]
    refine if_pos (le_of_not_gt fun hlt => h fun z hz => ?_)
    rwa [← Option.some.inj (hy.symm.trans hz)]
  · next hnone => exact absurd (fun y hy => nomatch hnone.symm.trans hy) h

end

/-! ## TIMEW, PCNT and PFLUSH (R417, R419, R420) -/

/-- TIMEW's counts: the task's pointstamp at its new time, then away from its old one (R419). -/
def timeMoved (e : Env) (r : TaskRec) (n : DWord) : State × Thread :=
  let c := e.s.count e.ck e.ctxNo e.th r.flow r.station n false 1
  c.1.count e.ck e.ctxNo c.2 r.flow r.station r.time false (-1)

/-- What TIMEW does for the task of a record: a time before the task's faults, its own time sends the batches, a later one moves the
pointstamp first (R419). -/
theorem exec_timew (f : SForm) (s : State) : exec (.timew f) s = issue s (ruleTimew f) fun e =>
    match e.th.place.record with
    | none => e.done []
    | some r =>
      if e.read64 f.a 0 < r.time then e.timeBack (e.read64 f.a 0).toNat
      else
        let c := if e.read64 f.a 0 = r.time then (e.s, e.th) else timeMoved e r (e.read64 f.a 0)
        let c := c.1.sendAll e.ck c.2 0
        e.out c.1 { c.2 with place := { c.2.place with record := some { r with time := e.read64 f.a 0 } } } := rfl

/-- The replica of the own die lets a count of a time through (R417): there is a flow that has not failed, and its frontier is not past it. -/
def CountsOnTime (e : Env) (fl l t : Nat) (d : Int) : Prop :=
  d ≤ 0 ∨ ∃ y, (e.s.die (keyDie e.ck)).flow e.ctxNo fl = some y ∧ y.failed = false ∧ aboveO (y.frontier l none) t = false

/-- PCNT of a count (R417). -/
def pcntBody (e : Env) (fl l : Nat) (t : DWord) (d : Int) : Eff :=
  let late := match (e.s.die (keyDie e.ck)).flow e.ctxNo fl with
    | some x => x.failed || aboveO (x.frontier l none) t.toNat
    | none => true
  if decide (0 < d) && late then e.timeBack t.toNat
  else
    let c := e.s.count e.ck e.ctxNo e.th fl l t false d
    e.out c.1 c.2

theorem exec_pcnt (f : SForm) (s : State) : exec (.pcnt f) s = issue s (rulePcnt f) fun e =>
    e.flowLoc f.a fun fl l => pcntBody e fl l (e.read64 f.b 0) (f.imm.setWidth 16).toInt := rfl

/-- Whether a count comes too late says the replica of the own die (R417). -/
theorem late_iff {e : Env} {fl l : Nat} {t : DWord} {d : Int} :
    (decide (0 < d) && match (e.s.die (keyDie e.ck)).flow e.ctxNo fl with
      | some x => x.failed || aboveO (x.frontier l none) t.toNat
      | none => true) = true ↔ ¬ CountsOnTime e fl l t.toNat d := by
  unfold CountsOnTime
  cases hflow : (e.s.die (keyDie e.ck)).flow e.ctxNo fl with
  | none => simp
  | some y => cases hfailed : y.failed <;> simp [hfailed]

theorem pcntBody_of_onTime {e : Env} {fl l : Nat} {t : DWord} {d : Int} (h : CountsOnTime e fl l t.toNat d) :
    pcntBody e fl l t d = e.out (e.s.count e.ck e.ctxNo e.th fl l t false d).1 (e.s.count e.ck e.ctxNo e.th fl l t false d).2 :=
  if_neg fun hlate => late_iff.1 hlate h

theorem pcntBody_of_late {e : Env} {fl l : Nat} {t : DWord} {d : Int} (h : ¬ CountsOnTime e fl l t.toNat d) :
    pcntBody e fl l t d = e.timeBack t.toNat := if_pos (late_iff.2 h)

theorem exec_pflush (f : SForm) (s : State) : exec (.pflush f) s = issue s (rulePflush f) fun e =>
    if (e.s.sendAll e.ck e.th 1).1.flushed e.ck (e.s.sendAll e.ck e.th 1).2 then e.out (e.s.sendAll e.ck e.th 1).1 (e.s.sendAll e.ck e.th 1).2
    else .wait (e.s.sendAll e.ck e.th 1).1 { (e.s.sendAll e.ck e.th 1).2 with wait := .flush } := rfl

/-! ## CREST and CWAIT (R418) -/

theorem exec_crest (f : SForm) (s : State) : exec (.crest f) s = issue s (ruleCrest f) fun e =>
    e.flowLoc f.a fun fl l => e.done (e.write32 f.d false [(0, BitVec.ofNat 32 (e.crestCode fl l (e.read64 f.b 0).toNat))]) := rfl

theorem exec_cwait (f : SForm) (s : State) : exec (.cwait f) s = issue s (ruleCwait f) fun e =>
    e.flowLoc f.a fun fl l =>
      if e.crestCode fl l (e.read64 f.b 0).toNat = 0 then e.block .again
      else .ok ⟨if e.crestCode fl l (e.read64 f.b 0).toNat = 1 then e.s.dropL1 e.ck else e.s, e.th,
        e.write32 f.d false [(0, BitVec.ofNat 32 (e.crestCode fl l (e.read64 f.b 0).toNat))], 0, none, .seq⟩ := rfl

/-- Settles O29: TIMEW by its new time against the task's, PCNT by what the replica says of its time, PFLUSH by the acknowledgements, and
CREST and CWAIT by the code of the crest. -/
theorem timeInstructions : Obligations.TimeInstructions := by
  intro f die x fl loc below n task t moved onTime d flushed code
  have hcode (e : Env) : code e = e.crestCode (fl e) (loc e) (t e).toNat := rfl
  refine ⟨fun r => .of_body fun s => ⟨_, exec_timew f s, fun e ⟨hr, hlt⟩ => ?later⟩,
    fun r => .of_body fun s => ⟨_, exec_timew f s, fun e ⟨hr, heq⟩ => ?same⟩,
    fun r => traps_of_uniform rfl fun s => ⟨_, exec_timew f s, fun e hu ⟨hr, hlt⟩ => ?back⟩,
    .of_body fun s => ⟨_, exec_pcnt f s, fun e ⟨hb, hon⟩ => ⟨_, (flowLoc_of_below hb).trans (pcntBody_of_onTime hon), rfl, rfl⟩⟩,
    traps_of_uniform rfl fun s => ⟨_, exec_pcnt f s, fun e hu ⟨hb, hoff⟩ =>
      ((flowLoc_of_below hb).trans (pcntBody_of_late hoff)).trans (fault_of_uniform hu ..)⟩,
    .of_body fun s => ⟨_, exec_pflush f s, fun e he => ⟨_, if_pos he, rfl, rfl⟩⟩,
    .of_body fun s => ⟨_, exec_pflush f s, fun e he => ⟨_, _, if_neg (ne_true_of_eq_false he), rfl, rfl⟩⟩,
    .of_body fun s => ⟨_, exec_crest f s, fun e hb => flowLoc_of_below hb⟩,
    .of_body fun s => ⟨_, exec_cwait f s, fun e ⟨hb, hc⟩ => ⟨_, (flowLoc_of_below hb).trans (if_neg hc), rfl, rfl, rfl, rfl⟩⟩,
    .of_body fun s => ⟨_, exec_cwait f s, fun e ⟨hb, hc⟩ => ⟨_, _, (flowLoc_of_below hb).trans (if_pos hc), rfl, rfl⟩⟩,
    traps_of_uniform rfl fun s => ⟨_, exec_crest f s, fun e hu hb => flowLoc_of_not_below hu hb⟩,
    traps_of_uniform rfl fun s => ⟨_, exec_cwait f s, fun e hu hb => flowLoc_of_not_below hu hb⟩⟩
  case later =>
    simp only [task] at hr
    have hne : ¬ e.read64 f.a 0 = r.time := fun h => absurd (h ▸ hlt) (BitVec.lt_irrefl _)
    have hnot : ¬ e.read64 f.a 0 < r.time := BitVec.not_lt.2 (BitVec.le_of_lt hlt)
    simp only [hr, if_neg hnot, if_neg hne]
    exact ⟨_, rfl, rfl, rfl, rfl, rfl⟩
  case same =>
    simp only [task] at hr
    have hnot : ¬ e.read64 f.a 0 < r.time := fun h => absurd (show r.time < r.time from (show e.read64 f.a 0 = r.time from heq) ▸ h) (BitVec.lt_irrefl _)
    simp only [hr, if_neg hnot, if_pos (show e.read64 f.a 0 = r.time from heq)]
    exact ⟨_, rfl, rfl, rfl, rfl⟩
  case back =>
    simp only [task] at hr
    simp only [hr, if_pos (show e.read64 f.a 0 < r.time from hlt)]
    exact fault_of_uniform hu ..

end Sys2Proof.Proofs
end

section
namespace Sys2Proof.Proofs
open Sys2Proof Sys2Proof.Machine

/-! # Tasks (R326, R327, R336, R337, R340, R367) -/

/-! ## The bytes of a record (R326) -/

theorem leBytes_add (m n x : Nat) : leBytes (m + n) x = leBytes m x ++ leBytes n (x / 256 ^ m) := by
  induction m generalizing x with
  | zero => simp [leBytes]
  | succ m ih => rw [Nat.succ_add, leBytes, leBytes, ih, Nat.div_div_eq_div_mul, Nat.pow_succ', List.cons_append]

theorem leBytes_mod (n x : Nat) : leBytes n (x % 256 ^ n) = leBytes n x := by
  induction n generalizing x with
  | zero => rfl
  | succ n ih =>
    have hlow : BitVec.ofNat 8 (x % 256 ^ (n + 1)) = BitVec.ofNat 8 x := by
      refine BitVec.eq_of_toNat_eq ?_
      rw [BitVec.toNat_ofNat, BitVec.toNat_ofNat]
      exact Nat.mod_mod_of_dvd x ⟨256 ^ n, Nat.pow_succ' ..⟩
    rw [leBytes, leBytes, hlow, Nat.pow_succ', Nat.mod_mul_right_div_self, ih]

/-- A word's bytes read as it. -/
theorem ofNat_leNat_leBytes (w : Word) : BitVec.ofNat 32 (leNat (leBytes 4 w.toNat)) = w := by
  rw [leNat_leBytes, show 256 ^ 4 = 2 ^ 32 from rfl, Nat.mod_eq_of_lt w.isLt, BitVec.ofNat_toNat, BitVec.setWidth_eq]

/-- The bytes of a doubleword are those of its low and its high word. -/
theorem leBytes_dword (x : DWord) : leBytes 8 x.toNat = leBytes 4 (x.setWidth 32).toNat ++ leBytes 4 (hiWord x).toNat := by
  have hlow : leBytes 4 (x.setWidth 32).toNat = leBytes 4 x.toNat := by
    rw [BitVec.toNat_setWidth]
    exact leBytes_mod 4 _
  have hhigh : (hiWord x).toNat = x.toNat / 256 ^ 4 := by
    unfold hiWord
    rw [BitVec.toNat_setWidth, BitVec.toNat_ushiftRight, Nat.shiftRight_eq_div_pow]
    exact Nat.mod_eq_of_lt (by omega)
  rw [hlow, hhigh]
  exact leBytes_add 4 4 _

theorem hiWord_append (x : DWord) : hiWord x ++ x.setWidth 32 = x := by
  ext i hi
  simp only [hiWord, BitVec.getElem_append, BitVec.getElem_setWidth, BitVec.getLsbD_ushiftRight]
  split
  · exact BitVec.getLsbD_eq_getElem hi
  · rw [Nat.add_sub_cancel' (by omega)]
    exact BitVec.getLsbD_eq_getElem hi

/-- Words laid one after another are read back at their places. -/
theorem word_of_flatMap {ws : List Word} {k : Nat} {w : Word} (hw : ws[k]? = some w) :
    BitVec.ofNat 32 (leNat (((ws.flatMap fun w => leBytes 4 w.toNat).drop (4 * k)).take 4)) = w := by
  induction ws generalizing k with
  | nil => exact nomatch hw
  | cons x ws ih =>
    have hlen : (leBytes 4 x.toNat).length = 4 := leBytes_length ..
    rw [List.flatMap_cons]
    cases k with
    | zero =>
      rw [Nat.mul_zero, List.drop_zero, List.take_left' hlen, ofNat_leNat_leBytes]
      exact Option.some.inj hw
    | succ k =>
      rw [show 4 * (k + 1) = (leBytes 4 x.toNat).length + 4 * k by omega, List.drop_length_add_append]
      exact ih hw

/-- The words of a record: ENTRY, TIME, TARGET, CTRL, PLACE, a reserved 0 and the arguments (R326). -/
def recordWords (r : TaskRec) : List Word :=
  [r.entry.setWidth 32, hiWord r.entry, r.time.setWidth 32, hiWord r.time, r.target, r.ctrl, r.place, 0] ++ r.args

theorem bytes_eq_recordWords (r : TaskRec) : r.bytes = (recordWords r).flatMap fun w => leBytes 4 w.toNat := by
  simp only [TaskRec.bytes, recordWords, leBytes_dword, List.flatMap_append, List.flatMap_cons, List.flatMap_nil, List.append_assoc,
    List.append_nil]
  rfl

theorem recordBytes : Claim.RecordBytes := by
  intro r hargs
  have hword {k : Nat} {w : Word} (hw : (recordWords r)[k]? = some w) : BitVec.ofNat 32 (leNat ((r.bytes.drop (4 * k)).take 4)) = w := by
    rw [bytes_eq_recordWords]
    exact word_of_flatMap hw
  constructor
  · rw [bytes_eq_recordWords, List.length_flatMap]
    simp only [leBytes_length, List.map_const', List.sum_replicate, recordWords, List.length_append, hargs]
    rfl
  · have hargWords : ((List.range 8).map fun k => BitVec.ofNat 32 (leNat ((r.bytes.drop (4 * (8 + k))).take 4))) = r.args := by
      refine List.ext_getElem (by rw [List.length_map, List.length_range, hargs]) fun k _ hk => ?_
      rw [List.getElem_map, List.getElem_range]
      refine hword ?_
      exact (List.getElem?_append_right (Nat.le_add_right 8 k)).trans
        ((congrArg (r.args[·]?) (Nat.add_sub_cancel_left 8 k)).trans (List.getElem?_eq_getElem hk))
    unfold TaskRec.ofBytes
    dsimp only
    rw [hargWords, hword (k := 0) rfl, hword (k := 1) rfl, hword (k := 2) rfl, hword (k := 3) rfl, hword (k := 4) rfl, hword (k := 5) rfl,
      hword (k := 6) rfl, hiWord_append, hiWord_append]

/-! ## Records that leave (R327, R336, R337, R340, R367) -/

/-- The record at the scratch address in a register, byte by byte. -/
def recordAt (e : Env) (a : Spec) : List Byte := (List.range 64).map fun i => e.s.rawByte (scratchLoc e.ck ((e.read32 a 0).toNat + i))

section
variable {e : Env} {a : Spec} {k : TaskRec → Target → Eff} (hread : e.scratchFault 64 64 [(0, (e.read32 a 0).toNat)] = none)
include hread

/-- A record that breaks no rule goes on to its target (R327). -/
theorem taskRec_of_good (hgood : e.s.recBad (keyDie e.ck) ((e.s.agentCtx e.ag).getD 0) (recordAt e a) = false)
    (hthere : e.s.recTarget e.ck (TaskRec.ofBytes (recordAt e a)) ≠ .nothing) (hcurrent : e.s.recTarget e.ck (TaskRec.ofBytes (recordAt e a)) ≠ .stale) :
    e.taskRec a k = k (TaskRec.ofBytes (recordAt e a)) (e.s.recTarget e.ck (TaskRec.ofBytes (recordAt e a))) := by
  simp only [recordAt] at hgood hthere hcurrent ⊢
  simp only [Env.taskRec, hread, hgood, Bool.false_eq_true, if_false]

theorem taskRec_of_bad (hu : Uniform e) (hbad : e.s.recBad (keyDie e.ck) ((e.s.agentCtx e.ag).getD 0) (recordAt e a) = true) :
    e.taskRec a k = .fault ⟨codeBADSPEC, e.th.em, a.code, 0⟩ := by
  simp only [recordAt] at hbad
  simp only [Env.taskRec, hread, hbad, if_true, fault_of_uniform hu]

end

/-- A count of a record is not before what its issuer holds (R404). -/
def CountsInTime (e : Env) (r : TaskRec) (l : Nat) : Prop :=
  ∀ fl, e.s.findFlow (keyDie e.ck) ((e.s.agentCtx e.ag).getD 0) r.flow = some fl → e.th.timeBack fl l r.time.toNat = false

theorem timeCheck_of_inTime {e : Env} {r : TaskRec} {l : Nat} (h : CountsInTime e r l) (k : Unit → Eff) : e.timeCheck r l k = k () := by
  unfold Env.timeCheck
  split
  · next fl hfl => exact if_neg (by rw [h fl hfl]; decide)
  · rfl

theorem afterRelease_of_done {e : Env} {scope : Nat} (h : e.s.releaseDone e.ck e.th.uid scope e.s.nextUid = true) (k : Unit → Eff) :
    e.afterRelease scope k = k () := if_pos h

/-- What is sent stands among the messages on their way. -/
theorem mem_send_other (s : State) (op ck ctx : Nat) (sender : Option Nat) (name die : Nat) (body : MsgBody) :
    ∃ m ∈ (s.send op ck ctx sender (.other name die) body).msgs, m.op = op ∧ m.ctx = ctx ∧ m.name = BitVec.ofNat 32 name ∧ m.carriesGen = true ∧
      m.stage = .outbound ∧ m.sender = sender ∧ m.body = body :=
  ⟨_, List.mem_append_right _ (List.mem_singleton.2 rfl), rfl, rfl, rfl, rfl, rfl, rfl, rfl⟩

theorem recordsLeave : Claim.RecordsLeave := by
  intro f ctx x bytes r ch fits open' away here counted sent buffered
  -- a record that fits goes on with its target
  have goes (e : Env) (loc : Nat) (h : fits e loc) (k : TaskRec → Target → Eff) : e.taskRec f.a k = k (r e) (e.s.recTarget e.ck (r e)) :=
    taskRec_of_good h.1 h.2.1 h.2.2.1 h.2.2.2.1
  have inTime (e : Env) (loc : Nat) (h : fits e loc) : CountsInTime e (r e) loc := h.2.2.2.2
  -- a channel of the flow
  have onChannel (e : Env) (h : open' e) : ∃ fl, e.s.findFlow (keyDie e.ck) ((e.s.agentCtx e.ag).getD 0) (r e).flow = some fl ∧
      fl.chan.testBit ((e.read32 f.b 0).toNat % 64) = true := h
  have hcommit (e : Env) (c : CommitEnt) (hc : c.bytes = 80) (hroom : commitUsed e.th.commit + 80 ≤ 4096) :
      commitUsed e.th.commit + commitUsed [c] ≤ 4096 := by
    rw [show commitUsed [c] = 0 + c.bytes from rfl, hc]
    exact hroom
  refine ⟨fun name die => .of_body ?spawnAway, fun s h => .of_body ?spawnHere, .of_body ?spawnBuffered, fun name die => .of_body ?sendAway,
    .of_body ?sendHere, .of_body ?sendBuffered, traps_of_uniform rfl ?badRecord,
    traps_of_uniform rfl ?noChannel⟩
  case spawnAway =>
    intro s
    dsimp only [exec, execSpawn]
    refine ⟨_, rfl, fun e ⟨hfits, hatomic, htarget, hrel, hroom⟩ => ?_⟩
    rw [goes e _ hfits, timeCheck_of_inTime (inTime e _ hfits), htarget]
    simp only [hatomic, Bool.false_eq_true, if_false, afterRelease_of_done hrel, if_neg hroom.not_ge]
    exact ⟨_, rfl, rfl, rfl, mem_send_other _ _ _ _ _ name die _⟩
  case spawnHere =>
    intro s0
    dsimp only [exec, execSpawn]
    refine ⟨_, rfl, fun e ⟨hfits, ⟨hatomic, htarget, hrel⟩, hcreate⟩ => ?_⟩
    simp only [ctx] at hcreate
    rw [goes e _ hfits, timeCheck_of_inTime (inTime e _ hfits), htarget, hcreate]
    simp only [hatomic, Bool.false_eq_true, if_false, afterRelease_of_done (scope := Target.here.scope e.ck) hrel]
    exact ⟨_, rfl, rfl, rfl⟩
  case spawnBuffered =>
    intro s
    dsimp only [exec, execSpawn]
    refine ⟨_, rfl, fun e ⟨hfits, hatomic, hroom⟩ => ?_⟩
    rw [goes e _ hfits, timeCheck_of_inTime (inTime e _ hfits), if_pos hatomic, buffer_fits (hcommit e _ rfl hroom)]
    exact ⟨_, rfl, rfl, rfl, rfl⟩
  case sendAway =>
    intro s
    dsimp only [exec, execSend]
    refine ⟨_, rfl, fun e ⟨hfits, hop, hatomic, htarget, hrel, hroom⟩ => ?_⟩
    rw [goes e _ hfits, htarget]
    obtain ⟨fl, hfl, hch⟩ := onChannel e hop
    simp only [hfl, hch, Bool.not_true, timeCheck_of_inTime (l := (e.read32 f.b 0).toNat % 64) (inTime e _ hfits), hatomic, Bool.false_eq_true, if_false,
      afterRelease_of_done hrel, if_neg hroom.not_ge]
    exact ⟨_, rfl, rfl, rfl, mem_send_other _ _ _ _ _ name die _⟩
  case sendHere =>
    intro s
    dsimp only [exec, execSend]
    refine ⟨_, rfl, fun e ⟨hfits, hop, hatomic, htarget, hrel⟩ => ?_⟩
    rw [goes e _ hfits, htarget]
    obtain ⟨fl, hfl, hch⟩ := onChannel e hop
    simp only [hfl, hch, Bool.not_true, timeCheck_of_inTime (l := (e.read32 f.b 0).toNat % 64) (inTime e _ hfits), hatomic, Bool.false_eq_true, if_false,
      afterRelease_of_done (scope := Target.here.scope e.ck) hrel]
    exact ⟨_, rfl, rfl, rfl, rfl, _, List.mem_append_right _ (List.mem_singleton.2 rfl), rfl, rfl⟩
  case sendBuffered =>
    intro s
    dsimp only [exec, execSend]
    refine ⟨_, rfl, fun e ⟨hfits, hop, hatomic, hroom⟩ => ?_⟩
    rw [goes e _ hfits]
    obtain ⟨fl, hfl, hch⟩ := onChannel e hop
    simp only [hfl, hch, Bool.not_true, Bool.false_eq_true, if_false, timeCheck_of_inTime (l := (e.read32 f.b 0).toNat % 64) (inTime e _ hfits),
      hatomic, if_true]
    rw [buffer_fits (hcommit e _ rfl hroom)]
    exact ⟨_, rfl, rfl, rfl, rfl⟩
  case badRecord =>
    intro s
    dsimp only [exec, execSpawn]
    exact ⟨_, rfl, fun e hu ⟨hread, hbad⟩ => taskRec_of_bad hread hu hbad⟩
  case noChannel =>
    intro s
    dsimp only [exec, execSend]
    refine ⟨_, rfl, fun e hu ⟨hfits, fl, hfl, hch⟩ => ?_⟩
    simp only [ctx] at hfl
    simp only [ch] at hch
    rw [goes e _ hfits]
    simp only [hfl, hch, Bool.not_false, if_true, fault_of_uniform hu]

/-- Settles O26: a record that fits by where its target lies, and its bytes by its words. -/
theorem taskRecords : Obligations.TaskRecords := ⟨recordsLeave, recordBytes⟩

end Sys2Proof.Proofs
end

section
namespace Sys2Proof.Proofs
open Sys2Proof Sys2Proof.Machine

/-! # Dependency counters (R389, R390) -/

section
variable {s : State} {ck v : Nat} {set : Bool} {h : Word}

/-- At a slot without a task DEPDEC is an underflow and DEPSET a bad handle (R389). -/
theorem dep_of_no_task (ht : ((s.comb ck).slot (h.toNat % 1024)).task.isNone = true) : s.dep ck set h v = if set then .bad else .under :=
  if_pos ht

section
variable (ht : ((s.comb ck).slot (h.toNat % 1024)).task.isSome = true) (hseq : h.toNat / 2 ^ 28 = ((s.comb ck).slot (h.toNat % 1024)).seq)
  (hwaits : ((s.comb ck).slot (h.toNat % 1024)).roomOnly = false)
include ht hseq hwaits

/-- At a waiting task's slot an operation turns on whether a DEPDEC takes more than the counter holds (R389). -/
theorem dep_of_waiting : s.dep ck set h v =
    if !set && decide (((s.comb ck).slot (h.toNat % 1024)).counter < v) then .under
    else
      let n := if set then v % 2 ^ 16 else ((s.comb ck).slot (h.toNat % 1024)).counter - v
      let c := { s.comb ck with table := Sparse.set TaskSlot.reset (s.comb ck).table (h.toNat % 1024) { (s.comb ck).slot (h.toNat % 1024) with counter := n } }
      .done (if n = 0 then (s.setComb ck (c.releaseSlot (h.toNat % 1024))).stampJournal ck else s.setComb ck c) := by
  refine (if_neg ?task).trans ((if_neg (not_not.2 hseq)).trans (if_neg (ne_true_of_eq_false hwaits)))
  case task =>
    obtain ⟨r, hr⟩ := Option.isSome_iff_exists.1 ht
    rw [hr]
    exact Bool.false_ne_true

end

end

section
variable {e : Env} {op v : Nat} {a : Spec} {set : Bool}

/-- A DEPSET or DEPDEC for a slot of the issuing comb, whose release is complete. -/
def DepHere (e : Env) (a : Spec) : Prop :=
  e.th.wait = .none ∧ e.th.place.atomic = false ∧ e.s.nameTarget e.ck (handleName (e.read32 a 0)) = .here ∧
    e.s.releaseDone e.ck e.th.uid 2 e.s.nextUid = true

/-- How the instruction ends by what it meets at the slot. -/
def depEnd (e : Env) (a : Spec) : DepRes → Eff
  | .done s => e.out s e.th
  | .under => e.fault codeDEPUNDER (handleName (e.read32 a 0)) ((e.read32 a 0).toNat % 1024)
  | .bad => e.fault codeBADSPEC a.code 0

theorem depEff_of_here (h : DepHere e a) : e.dep op a set v = depEnd e a (e.s.dep e.ck set (e.read32 a 0) v) := by
  obtain ⟨hw, hatomic, hname, hrel⟩ := h
  simp only [Env.dep, hw, hname, hatomic, Bool.false_eq_true, if_false, afterRelease_of_done (scope := Target.here.scope e.ck) hrel]
  rfl

/-- For a slot of another comb the request leaves, and the issuer waits for its answer (R389). -/
theorem depEff_of_away {name die : Nat} (hw : e.th.wait = .none) (hatomic : e.th.place.atomic = false)
    (hname : e.s.nameTarget e.ck (handleName (e.read32 a 0)) = .other name die)
    (hrel : e.s.releaseDone e.ck e.th.uid ((Target.other name die).scope e.ck) e.s.nextUid = true) (hroom : (e.s.comb e.ck).outstanding e.th.uid 3 < 63) :
    ∃ s th, e.dep op a set v = .wait s th ∧ ∃ u, th.wait = .answer u ∧ ∃ m ∈ s.msgs, m.op = op ∧ m.name = BitVec.ofNat 32 name ∧
      m.stage = .outbound ∧ m.body = .dep set (e.read32 a 0) v (some u) none := by
  simp only [Env.dep, hw, hname, hatomic, Bool.false_eq_true, if_false, afterRelease_of_done hrel, if_neg hroom.not_ge]
  exact ⟨_, _, rfl, _, rfl, _, List.mem_append_right _ (List.mem_singleton.2 rfl), rfl, rfl, rfl, rfl⟩

theorem depEff_of_answered {n : Nat} (h : e.th.wait = .answered n) : e.dep op a set v = e.done [] := by
  simp only [Env.dep, h]

/-- In an atomic task the operation is buffered where its target exists (R390). -/
theorem depEff_of_atomic (hw : e.th.wait = .none) (hatomic : e.th.place.atomic = true)
    (hname : e.s.nameTarget e.ck (handleName (e.read32 a 0)) = .here ∨ ∃ n d, e.s.nameTarget e.ck (handleName (e.read32 a 0)) = .other n d)
    (hroom : commitUsed e.th.commit + 16 ≤ 4096) :
    e.dep op a set v = e.out e.s { e.th with commit := e.th.commit ++ [⟨op, 16, e.th.pc, [(e.read32 a 0).toNat, v], []⟩] } := by
  have hbuffer (k : State → Thread → Eff) := buffer_fits (e := e) (es := [⟨op, 16, e.th.pc, [(e.read32 a 0).toNat, v], []⟩]) hroom e.s k
  rcases hname with hname | ⟨n, d, hname⟩ <;> simp only [Env.dep, hw, hname, hatomic, if_true, hbuffer]

end

theorem exec_depset (f : SForm) (s : State) : exec (.depset f) s = issue s (ruleDepset f) fun e =>
    e.dep 0x1C8 f.a true (if f.sub.getLsbD 0 then f.imm.toNat % 2 ^ 16 else (e.read32 f.b 0).toNat % 2 ^ 16) := rfl

theorem exec_depdec (f : SForm) (s : State) : exec (.depdec f) s = issue s (ruleDepdec f) fun e => e.dep 0x1C9 f.a false (f.imm.toNat % 256) := rfl

/-- Settles O27: by where the slot lies, and there by whether it holds a waiting task and what its counter holds. -/
theorem dependencyCounters : Obligations.DependencyCounters := by
  intro f h v w first here away slot waiting set left under asked buffered ready
  have hvalue (e : Env) : v e % 2 ^ 16 = v e := by
    simp only [v]
    split <;> exact Nat.mod_mod ..
  refine ⟨.of_body fun s => ⟨_, exec_depset f s, fun e ⟨hh, ht, hseq, hwaits⟩ => ⟨_, (depEff_of_here hh).trans ?set, rfl, rfl⟩⟩,
    .of_body fun s => ⟨_, exec_depdec f s, fun e ⟨hh, ⟨ht, hseq, hwaits⟩, hle⟩ => ⟨_, (depEff_of_here hh).trans ?dec, rfl, rfl⟩⟩,
    traps_of_uniform rfl fun s => ⟨_, exec_depdec f s, fun e hu ⟨hh, ⟨ht, hseq, hwaits⟩, hlt⟩ => (depEff_of_here hh).trans ?under⟩,
    traps_of_uniform rfl fun s => ⟨_, exec_depdec f s, fun e hu ⟨hh, ht⟩ => (depEff_of_here hh).trans ?noTask⟩,
    traps_of_uniform rfl fun s => ⟨_, exec_depset f s, fun e hu ⟨hh, ht⟩ => (depEff_of_here hh).trans ?noTaskToSet⟩,
    fun name die => .of_body fun s => ⟨_, exec_depset f s, fun e ⟨hw, hatomic, hname, hrel, hroom⟩ => depEff_of_away hw hatomic hname hrel hroom⟩,
    fun name die => .of_body fun s => ⟨_, exec_depdec f s, fun e ⟨hw, hatomic, hname, hrel, hroom⟩ => depEff_of_away hw hatomic hname hrel hroom⟩,
    fun n => .of_body fun s => ⟨_, exec_depset f s, fun e hw => ⟨_, depEff_of_answered hw, rfl, rfl⟩⟩,
    fun n => .of_body fun s => ⟨_, exec_depdec f s, fun e hw => ⟨_, depEff_of_answered hw, rfl, rfl⟩⟩,
    .of_body fun s => ⟨_, exec_depset f s, fun e ⟨hw, hatomic, hname, hroom⟩ => ⟨_, depEff_of_atomic hw hatomic hname hroom, rfl, rfl⟩⟩,
    .of_body fun s => ⟨_, exec_depdec f s, fun e ⟨hw, hatomic, hname, hroom⟩ => ⟨_, depEff_of_atomic hw hatomic hname hroom, rfl, rfl⟩⟩⟩
  case set =>
    rw [dep_of_waiting ht hseq hwaits, Bool.not_true, Bool.false_and, if_neg Bool.false_ne_true, if_pos rfl]
    dsimp only
    rw [show (if f.sub.getLsbD 0 then f.imm.toNat % 2 ^ 16 else (e.read32 f.b 0).toNat % 2 ^ 16) % 2 ^ 16 = v e from hvalue e]
    rfl
  case dec =>
    have hnot : ¬ (!false && decide ((slot e).counter < w)) = true := by simpa using hle
    rw [dep_of_waiting ht hseq hwaits, if_neg hnot]
    rfl
  case under =>
    have hlt' : (!false && decide ((slot e).counter < w)) = true := by simpa using hlt
    rw [dep_of_waiting ht hseq hwaits, if_pos hlt']
    exact fault_of_uniform hu ..
  case noTask =>
    rw [dep_of_no_task ht, if_neg Bool.false_ne_true]
    exact fault_of_uniform hu ..
  case noTaskToSet =>
    rw [dep_of_no_task ht, if_pos rfl]
    exact fault_of_uniform hu ..

end Sys2Proof.Proofs
end

section
namespace Sys2Proof.Proofs
open Sys2Proof Sys2Proof.Machine

/-! # FIFO banks, the event queue and primitives (R343, R344, R358 to R365, R369, R370) -/

/-! ## The order of entries (R360 to R362) -/

/-- All entries of a bank, the oldest first (R362). -/
def entries (b : Bank) : List FifoEnt := b.ents ++ b.spilled

theorem push_cons (b : Bank) (x : FifoEnt) (es : List FifoEnt) : b.push (x :: es) = (b.push [x]).push es := rfl

/-- One entry stays resident where there is room and nothing has spilled, else it spills (R362). -/
theorem push_singleton (b : Bank) (x : FifoEnt) :
    b.push [x] = if b.spilled = [] ∧ b.ents.length < b.capacity then { b with ents := b.ents ++ [x] } else { b with spilled := b.spilled ++ [x] } := by
  simp only [Bank.push, List.foldl_cons, List.foldl_nil, Bool.and_eq_true, List.isEmpty_iff, decide_eq_true_eq]

theorem entries_push (b : Bank) (es : List FifoEnt) : entries (b.push es) = entries b ++ es := by
  induction es generalizing b with
  | nil => exact (List.append_nil _).symm
  | cons x es ih =>
    have hone : entries (b.push [x]) = entries b ++ [x] := by
      rw [push_singleton, apply_ite entries]
      split
      · next h => simp only [entries, h.1, List.append_nil]
      · exact (List.append_assoc ..).symm
    rw [push_cons, ih, hone, List.append_assoc, List.singleton_append]

theorem length_ents_push {b : Bank} (es : List FifoEnt) (h : b.ents.length ≤ b.capacity) : (b.push es).ents.length ≤ b.capacity := by
  induction es generalizing b with
  | nil => exact h
  | cons x es ih =>
    have hcap : (b.push [x]).capacity = b.capacity := by
      rw [push_singleton]
      split <;> rfl
    have hone : (b.push [x]).ents.length ≤ b.capacity := by
      rw [push_singleton]
      split
      · next hroom => exact (List.length_append ..).trans_le hroom.2
      · exact h
    exact (ih (hone.trans_eq hcap.symm)).trans_eq hcap

/-- What finds room with nothing spilled before it stays resident (R360). -/
theorem push_of_room {b : Bank} {es : List FifoEnt} (hspilled : b.spilled = []) (hroom : b.ents.length + es.length ≤ b.capacity) :
    b.push es = { b with ents := b.ents ++ es } := by
  induction es generalizing b with
  | nil => rw [List.append_nil]; rfl
  | cons x es ih =>
    rw [List.length_cons] at hroom
    have hlen : (b.ents ++ [x]).length + es.length ≤ b.capacity := by
      rw [List.length_append, List.length_singleton]
      omega
    rw [push_cons, push_singleton, if_pos ⟨hspilled, by omega⟩, ih (b := { b with ents := b.ents ++ [x] }) hspilled hlen]
    simp only [List.append_assoc, List.singleton_append]

/-- What comes after spilled entries spills (R362). -/
theorem push_of_spilled {b : Bank} (es : List FifoEnt) (hspilled : b.spilled ≠ []) : b.push es = { b with spilled := b.spilled ++ es } := by
  induction es generalizing b with
  | nil => rw [List.append_nil]; rfl
  | cons x es ih =>
    rw [push_cons, push_singleton, if_neg fun h => hspilled h.1, ih (List.append_ne_nil_of_left_ne_nil hspilled _)]
    simp only [List.append_assoc, List.singleton_append]

theorem entries_popPlain (b : Bank) (n : Nat) : entries (b.popPlain n).2 = (entries b).drop n := (List.drop_append ..).symm

theorem fifoOrder : Claim.FifoOrder := fun b es n =>
  ⟨entries_push b es, length_ents_push es, push_of_room, push_of_spilled es, rfl, entries_popPlain b n⟩

/-! ## Pushes (R343, R362 to R364) -/

section
variable {e : Env} {op : Nat} {f : SForm} {ord : Bool}

/-- The bank that a push names on the issuing comb. -/
def pushedBank (f : SForm) (e : Env) : Bank := (e.s.comb e.ck).bank ((e.read32 f.b 0).toNat % 16)

/-- A bank of a kind that belongs to the agent's context (R363). -/
def OwnKind (e : Env) (b : Bank) (ord : Bool) : Prop := b.mode = .fifo ∧ b.ord = ord ∧ b.owner = (e.s.agentCtx e.ag).getD 0

theorem refuse_of_ownKind {b : Bank} (h : OwnKind e b ord) : b.refuse ord ((e.s.agentCtx e.ag).getD 0) = none := refuse_eq_none.2 h

theorem refuse_of_not_ownKind {b : Bank} (h : ¬ OwnKind e b ord) : b.refuse ord ((e.s.agentCtx e.ag).getD 0) = some b.mode.code := if_neg h

/-- A push that its target's bank accepts is buffered in an atomic task, performed here, or sent (R343, R363). -/
theorem push_here (hname : e.s.nameTarget e.ck (e.read32 f.a 0).toNat = .here) (hkind : OwnKind e (pushedBank f e) ord)
    (hatomic : e.th.place.atomic = false) :
    e.push op f ord = e.out (e.s.pushBank e.ck ((e.s.agentCtx e.ag).getD 0) ((e.read32 f.b 0).toNat % 16) (pushedBank f e) (e.pushEnts f.c ord)) e.th := by
  have hkind := refuse_of_ownKind hkind
  simp only [pushedBank] at hkind
  simp only [Env.push, hname, if_true, hkind, hatomic, Bool.false_eq_true, if_false]
  rfl

theorem push_away {name die : Nat} (hname : e.s.nameTarget e.ck (e.read32 f.a 0).toNat = .other name die) (hatomic : e.th.place.atomic = false)
    (hroom : (e.s.comb e.ck).outstanding e.th.uid 3 < 63) :
    ∃ o, e.push op f ord = .ok o ∧ o.trap = none ∧ o.th = e.th ∧ o.writes = [] ∧
      ∃ m ∈ o.s.msgs, m.op = op ∧ m.name = BitVec.ofNat 32 name ∧ m.body = .push ord ((e.read32 f.b 0).toNat % 16) (e.pushEnts f.c ord) := by
  have hth : (e.async e.s e.th 3 3 none (.message none none) []).2 = e.th := by rw [async_uncov, List.map_nil, List.append_nil]
  simp only [Env.push, hname, reduceCtorEq, if_false, hatomic, Bool.false_eq_true, if_neg hroom.not_ge]
  exact ⟨_, rfl, rfl, hth, rfl, _, List.mem_append_right _ (List.mem_singleton.2 rfl), rfl, rfl, rfl⟩

/-- The bytes that one entry of a push takes in the commit buffer (R340). -/
def pushSize (ord : Bool) : Nat := if ord then 80 else 32

/-- An entry of a push as an atomic task buffers it (R340, R364). -/
def pushEntry (e : Env) (op : Nat) (f : SForm) (ord : Bool) (x : FifoEnt) : CommitEnt :=
  ⟨op, pushSize ord, e.th.pc, [(e.read32 f.a 0).toNat, (e.read32 f.b 0).toNat % 16, bit ord, x.ordinal, e.th.commit.length], x.words.map (·.toNat)⟩

theorem push_buffered (hatomic : e.th.place.atomic = true) (hroom : commitUsed e.th.commit + (e.pushEnts f.c ord).length * pushSize ord ≤ 4096)
    (hname : e.s.nameTarget e.ck (e.read32 f.a 0).toNat = .here ∧ OwnKind e (pushedBank f e) ord ∨
      ∃ n d, e.s.nameTarget e.ck (e.read32 f.a 0).toNat = .other n d) :
    ∃ es : List CommitEnt, e.push op f ord = e.out e.s { e.th with commit := e.th.commit ++ es } ∧
      es.map (·.payload) = (e.pushEnts f.c ord).map fun x => x.words.map (·.toNat) := by
  have hfits : commitUsed e.th.commit + commitUsed ((e.pushEnts f.c ord).map (pushEntry e op f ord)) ≤ 4096 := by
    rw [commitUsed_map (n := pushSize ord) (pushEntry e op f ord) fun _ => rfl]
    exact hroom
  refine ⟨(e.pushEnts f.c ord).map (pushEntry e op f ord), ?_, by rw [List.map_map]; rfl⟩
  rw [← buffer_fits hfits e.s fun s th => e.out s th]
  rcases hname with ⟨hname, hkind⟩ | ⟨n, d, hname⟩
  · have hkind := refuse_of_ownKind hkind
    simp only [pushedBank] at hkind
    simp only [Env.push, hname, if_true, hkind, hatomic]
    rfl
  · simp only [Env.push, hname, reduceCtorEq, if_false, hatomic, if_true]
    rfl

/-- A bank of another kind or context refuses a push (R363). -/
theorem push_refused (hv : e.vec = true) (hname : e.s.nameTarget e.ck (e.read32 f.a 0).toNat = .here) (hkind : ¬ OwnKind e (pushedBank f e) ord) :
    e.push op f ord = .fault ⟨codeBANKMODE, e.act, (e.read32 f.b 0).toNat % 16, (pushedBank f e).mode.code⟩ := by
  have hkind := refuse_of_not_ownKind hkind
  simp only [pushedBank] at hkind
  simp only [Env.push, hname, if_true, hkind, fault_of_vector hv]
  rfl

/-- A push ends the context where the firmware cannot extend the spill area it needs (R362). -/
theorem pushBank_eq (s : State) (ck ctx k : Nat) (b : Bank) (es : List FifoEnt) : s.pushBank ck ctx k b es =
    if decide (s.spillCap ctx < (b.push es).spilled.length) && decide (b.spilled.length < (b.push es).spilled.length) then
      (s.modComb ck fun c => c.setBank k (b.push es)).endContext ctx 3 0 0
    else s.modComb ck fun c => c.setBank k (b.push es) := by
  have hcap : (s.modComb ck fun c => c.setBank k (b.push es)).spillCap ctx = s.spillCap ctx := rfl
  unfold State.pushBank
  extract_lets b' s'
  rw [show s'.spillCap ctx = s.spillCap ctx from hcap]
  by_cases h : s.spillCap ctx < b'.spilled.length ∧ b.spilled.length < b'.spilled.length
  · rw [if_neg (by omega), if_pos (by simpa using h)]
  · rw [if_pos (by omega), if_neg (by simpa using h)]

end

theorem exec_wqpush (f : SForm) (s : State) : exec (.wqpush f) s = issue s (ruleWqpush f) fun e => e.push 0x183 f false := rfl
theorem exec_fpush (f : SForm) (s : State) : exec (.fpush f) s = issue s (ruleFpush f) fun e => e.push 0x191 f (f.sub.getLsbD 0) := rfl

/-! ## REFILL and FPOP (R344, R365) -/

/-- The bank that REFILL and FPOP take from. -/
def poppedBank (f : SForm) (e : Env) : Bank := (e.s.comb e.ck).bank ((e.read32 f.a 0).toNat % 16)

/-- REFILL's words of some entries and their number (R344). -/
def refillWrites (f : SForm) (e : Env) (es : List FifoEnt) : List RegWrite :=
  (if (e.lanes.take es.length).isEmpty then [] else entWrites f.d.code 4 (e.lanes.take es.length) es) ++
    e.write32 f.e false [(0, BitVec.ofNat 32 (e.lanes.take es.length).length)]

/-- A REFILL that waits for entries finds some (R344). -/
def HasEntries (f : SForm) (e : Env) : Prop := f.sub.getLsbD 0 = true → entries (poppedBank f e) ≠ []

/-- REFILL of the issuer's own bank. -/
def refillTake (f : SForm) (e : Env) (b : Bank) : Eff :=
  if 0 < (e.s.comb e.ck).outstanding e.th.uid 0 then e.block .again
  else if f.sub.getLsbD 0 && decide (b.ents.length + b.spilled.length = 0) then e.block .again
  else
    let r := b.popPlain e.lanes.length
    .ok ⟨e.s.modComb e.ck fun c => c.setBank ((e.read32 f.a 0).toNat % 16) r.2,
      { e.th with lm := e.th.lm ||| laneMask (e.lanes.take r.1.length), em := e.th.em ||| laneMask (e.lanes.take r.1.length) },
      refillWrites f e r.1, 0, none, .seq⟩

theorem exec_refill (f : SForm) (s : State) : exec (.refill f) s = issue s (ruleRefill f) fun e =>
    match (poppedBank f e).refuse false ((e.s.agentCtx e.ag).getD 0) with
    | some m => e.fault codeBANKMODE ((e.read32 f.a 0).toNat % 16) m
    | none => refillTake f e (poppedBank f e) := rfl

/-- With no load of its group outstanding REFILL waits only where it is to find entries and there are none. -/
theorem refillTake_of_quiet {f : SForm} {e : Env} (h : (e.s.comb e.ck).outstanding e.th.uid 0 = 0) :
    (¬ HasEntries f e → refillTake f e (poppedBank f e) = e.block .again) ∧
    (HasEntries f e → refillTake f e (poppedBank f e) =
      let r := (poppedBank f e).popPlain e.lanes.length
      .ok ⟨e.s.modComb e.ck fun c => c.setBank ((e.read32 f.a 0).toNat % 16) r.2,
        { e.th with lm := e.th.lm ||| laneMask (e.lanes.take r.1.length), em := e.th.em ||| laneMask (e.lanes.take r.1.length) },
        refillWrites f e r.1, 0, none, .seq⟩) := by
  have hin : ¬ 0 < (e.s.comb e.ck).outstanding e.th.uid 0 := by rw [h]; exact Nat.lt_irrefl 0
  have hempty : (f.sub.getLsbD 0 && decide ((poppedBank f e).ents.length + (poppedBank f e).spilled.length = 0)) = true ↔ ¬ HasEntries f e := by
    rw [← List.length_append, Bool.and_eq_true_iff, decide_eq_true_iff, List.length_eq_zero_iff]
    simp only [HasEntries, entries, Classical.not_imp, ne_eq, not_not]
  exact ⟨fun hnot => (if_neg hin).trans (if_pos (hempty.2 hnot)), fun hhas => (if_neg hin).trans (if_neg fun ht => hempty.1 ht hhas)⟩

theorem bank_modComb_setBank {s : State} {ck k : Nat} {b : Bank} (h : ((s.comb ck).bank k).mode = .fifo) :
    ((s.modComb ck fun c => c.setBank k b).comb ck).bank k = b := by
  rw [State.comb_modComb_self]
  exact bank_setBank b (by rw [h]; decide)

theorem minEnt_mem {es : List FifoEnt} {x : FifoEnt} (h : minEnt es = some x) : x ∈ es := by
  induction es generalizing x with
  | nil => exact nomatch h
  | cons y ys ih =>
    rw [minEnt] at h
    split at h
    · exact Option.some.inj h ▸ List.mem_cons_self ..
    · next z hz =>
      split at h
      · exact Option.some.inj h ▸ List.mem_cons_of_mem _ (ih hz)
      · exact Option.some.inj h ▸ List.mem_cons_self ..

/-- Taking an entry out of a bank leaves its bound. -/
theorem released_remove (b : Bank) (x : FifoEnt) : (b.remove x).released = b.released := by
  unfold Bank.remove
  split <;> rfl

/-- At most `n` entries are popped, each released and of the time asked for (R361, R365). -/
theorem popTime_released (t : DWord) (n : Nat) (b : Bank) :
    (b.popTime t n).1.length ≤ n ∧ ∀ x ∈ (b.popTime t n).1, b.released x = true ∧ x.time = t := by
  induction n generalizing b with
  | zero => exact ⟨Nat.le_refl 0, nofun⟩
  | succ n ih =>
    rw [Bank.popTime]
    split
    · exact ⟨Nat.zero_le _, nofun⟩
    · next x hx =>
      obtain ⟨hlen, hall⟩ := ih (b.remove x)
      rw [released_remove] at hall
      obtain ⟨-, hmin⟩ := List.mem_filter.1 (minEnt_mem hx)
      refine ⟨Nat.succ_le_succ hlen, List.forall_mem_cons.2 ⟨?_, hall⟩⟩
      simpa using hmin

/-- What FPOP takes of a bank (R365): of an ordered one entries of its smallest released time. -/
def popped (b : Bank) (n : Nat) : List FifoEnt × Bank :=
  if b.ord then (match b.popAt with
    | some t => b.popTime t n
    | none => ([], b)) else b.popPlain n

theorem popped_ordered {b : Bank} (h : b.ord = true) (n : Nat) :
    (popped b n).1.length ≤ n ∧ ∀ x ∈ (popped b n).1, b.released x = true ∧ some x.time = b.popAt := by
  rw [popped, if_pos h]
  split
  · next t ht =>
    obtain ⟨hlen, hall⟩ := popTime_released t n b
    exact ⟨hlen, fun x hx => ⟨(hall x hx).1, by rw [(hall x hx).2, ht]⟩⟩
  · exact ⟨Nat.zero_le _, nofun⟩

/-- How many words FPOP lands from an entry of a bank (R365). -/
def popWords (b : Bank) : Nat := if b.ord then 16 else 4

/-- The results of FPOP behind the entries: their number, and of an ordered bank what is left and the time (R365). -/
def popTail (b : Bank) (r : List FifoEnt × Bank) : List Word :=
  let rest := r.2.ents ++ r.2.spilled
  let t : DWord := if r.1.isEmpty then 0 else b.popAt.getD 0
  BitVec.ofNat 32 r.1.length ::
    (if b.ord then [BitVec.ofNat 32 (bit (rest.any fun x => !b.released x) + 2 * bit (rest.any b.released)), t.setWidth 32, hiWord t] else [])

/-- The registers that FPOP lands. -/
def popWrites (f : SForm) (e : Env) (b : Bank) (r : List FifoEnt × Bank) : List RegWrite :=
  (if (e.lanes.take r.1.length).isEmpty then [] else entWrites f.d.code (popWords b) (e.lanes.take r.1.length) r.1) ++
    (((List.range (popTail b r).length).zip (popTail b r)).map fun (x : Nat × Word) => (⟨f.e.code + x.1, [(0, x.2)]⟩ : RegWrite))

/-- FPOP lands the number of entries it took in E (R365). -/
theorem count_mem_popWrites (f : SForm) (e : Env) (b : Bank) (r : List FifoEnt × Bank) :
    (⟨f.e.code, [(0, BitVec.ofNat 32 r.1.length)]⟩ : RegWrite) ∈ popWrites f e b r := by
  refine List.mem_append_right _ (List.mem_map.2 ⟨(0, BitVec.ofNat 32 r.1.length), ?_, rfl⟩)
  rw [popTail, List.length_cons, List.range_succ_eq_map]
  exact List.mem_cons_self ..

/-- The machine once FPOP has taken entries: the bank without them, and the crest's acquire (R273). -/
def afterPop (f : SForm) (e : Env) (b : Bank) (r : List FifoEnt × Bank) : State :=
  let s := e.s.modComb e.ck fun c => c.setBank ((e.read32 f.a 0).toNat % 16) r.2
  if b.ord && !r.1.isEmpty then s.dropL1 e.ck else s

/-- FPOP past the look at its bank: REGRANGE and STALLSHORT of the registers that depend on the bank, then the pop (log entry 26). -/
def fpopTake (f : SForm) (e : Env) (b : Bank) : Eff :=
  let wide : List Use := [useV f.d (popWords b) 1 true]
  if wide.any fun u => u.range e.th.budget then e.fault codeREGRANGE f.d.code 0
  else if e.th.mode.getLsbD 4 && (hazard e.rv (e.t + 4) wide).isSome then e.fault codeSTALLSHORT f.d.code 0
  else
    let ws := popWrites f e b (popped b e.lanes.length)
    let q := e.takePort (afterPop f e b (popped b e.lanes.length)) 2
    let p := e.async q.1 e.th 0 0 none (.values ws) (ws.map fun w => (w.code, w.lanes.map (·.1))) (q.2 + 12)
    e.out p.1 p.2

theorem exec_fpop (f : SForm) (s : State) : exec (.fpop f) s = issue s (ruleFpop f) fun e =>
    match (poppedBank f e).refuse (poppedBank f e).ord ((e.s.agentCtx e.ag).getD 0) with
    | some m => e.fault codeBANKMODE ((e.read32 f.a 0).toNat % 16) m
    | none => fpopTake f e (poppedBank f e) := rfl

section
variable {e : Env} {f : SForm} {ord : Bool}

theorem ops_afterPop (b : Bank) (r : List FifoEnt × Bank) : ((afterPop f e b r).comb e.ck).ops = (e.s.comb e.ck).ops := by
  unfold afterPop State.dropL1
  extract_lets s
  have hs : (s.comb e.ck).ops = (e.s.comb e.ck).ops := by
    dsimp only [s]
    rw [State.comb_modComb_self]
    rfl
  split
  · rw [State.comb_modComb_self]
    exact hs
  · exact hs

/-- Past its checks FPOP stands as an LD operation with the entries it took (R365). -/
theorem fpopTake_stands {b : Bank} {n : Nat} (hn : popWords b = n) (hrange : (useV f.d n 1 true).range e.th.budget = false)
    (hhazard : e.th.mode.getLsbD 4 = true → hazard e.rv (e.t + 4) [useV f.d n 1 true] = none) :
    ∃ o, fpopTake f e b = .ok o ∧ o.trap = none ∧ o.writes = [] ∧ ∃ op : AsyncOp, (o.s.comb e.ck).ops = (e.s.comb e.ck).ops ++ [op] ∧ op.cls = 0 ∧
      op.ownerUid = e.th.uid ∧ op.kind = .values (popWrites f e b (popped b e.lanes.length)) := by
  subst hn
  have hwide : ¬ ([useV f.d (popWords b) 1 true].any fun u => u.range e.th.budget) = true := by simp [hrange]
  have hclear : ¬ (e.th.mode.getLsbD 4 && (hazard e.rv (e.t + 4) [useV f.d (popWords b) 1 true]).isSome) = true := by
    intro h
    obtain ⟨hchk, hsome⟩ := Bool.and_eq_true_iff.1 h
    rw [hhazard hchk] at hsome
    exact Bool.false_ne_true hsome
  dsimp only [fpopTake]
  rw [if_neg hwide, if_neg hclear]
  obtain ⟨op, -, hops, -, -, hown, hcls, hkind⟩ := async_joins e (e.takePort (afterPop f e b (popped b e.lanes.length)) 2).1 e.th 0 0 none
    (.values (popWrites f e b (popped b e.lanes.length))) ((popWrites f e b (popped b e.lanes.length)).map fun w => (w.code, w.lanes.map (·.1)))
    ((e.takePort (afterPop f e b (popped b e.lanes.length)) 2).2 + 12) false (OpKind.engine (.values (popWrites f e b (popped b e.lanes.length))))
  rw [ops_takePort, ops_afterPop] at hops
  exact ⟨_, rfl, rfl, rfl, op, hops, hcls, hown, hkind⟩

end

theorem fifoBanks : Claim.FifoBanks := by
  intro f ctx k bank target kind ents ord full pushed local' away sent size buffers buffered mode took filled quiet some'
  have here {i : Instr} {r : Rule} {op : Nat} {o : Bool} (hx : ∀ s, exec i s = issue s r fun e => e.push op f o) :
      Completes i r (fun e => local' e o) (fun e out => pushed out e o) :=
    .of_body fun s => ⟨_, hx s, fun e ⟨hatomic, hname, hkind⟩ => ⟨_, push_here hname hkind hatomic, rfl, by rw [pushBank_eq]; rfl⟩⟩
  have leaves {i : Instr} {r : Rule} {op : Nat} {o : Bool} (hx : ∀ s, exec i s = issue s r fun e => e.push op f o) (name die : Nat) :
      Completes i r (fun e => away e name die) (fun e out => sent e out op name o) :=
    .of_body fun s => ⟨_, hx s, fun e ⟨hatomic, hname, hroom⟩ => push_away hname hatomic hroom⟩
  have waits {i : Instr} {r : Rule} {op : Nat} {o : Bool} (hx : ∀ s, exec i s = issue s r fun e => e.push op f o) :
      Completes i r (fun e => buffers e o) (fun e out => buffered e out o) :=
    .of_body fun s => ⟨_, hx s, fun e ⟨hatomic, hroom, hname⟩ => by
      obtain ⟨es, heff, hpayload⟩ := push_buffered (op := op) hatomic hroom hname
      exact ⟨_, heff, rfl, rfl, rfl, es, rfl, hpayload⟩⟩
  refine ⟨here (exec_wqpush f), leaves (exec_wqpush f), waits (exec_wqpush f), here (exec_fpush f), leaves (exec_fpush f), waits (exec_fpush f),
    traps_of_vector rfl fun s => ⟨_, exec_fpush f s, fun e hv ⟨hname, hkind⟩ => push_refused hv hname hkind⟩,
    .of_body fun s => ⟨_, exec_refill f s, fun e ⟨⟨hkind, hnone⟩, hsome⟩ => ?refill⟩,
    .of_body fun s => ⟨_, exec_refill f s, fun e ⟨⟨hkind, hnone⟩, hsome⟩ => ?refillWaits⟩,
    traps_of_vector rfl fun s => ⟨_, exec_refill f s, fun e hv hkind => ?refillTraps⟩,
    .of_body fun s => ⟨_, exec_fpop f s, fun e ⟨hkind, hrange, hhazard⟩ => ?plain⟩,
    .of_body fun s => ⟨_, exec_fpop f s, fun e ⟨hkind, hrange, hhazard⟩ => ?ordered⟩⟩
  case refill =>
    simp only [refuse_of_ownKind (b := poppedBank f e) hkind]
    have hwrites : refillWrites f e (took e) = (if filled e = [] then [] else entWrites f.d.code 4 (filled e) (took e)) ++
        e.write32 f.e false [(0, BitVec.ofNat 32 (filled e).length)] := by
      simp only [refillWrites, List.isEmpty_iff]
      rfl
    have hleft : entries ((poppedBank f e).popPlain e.lanes.length).2 = (entries (poppedBank f e)).drop (took e).length := by
      have hlen : (took e).length = min e.lanes.length (entries (poppedBank f e)).length := List.length_take ..
      rw [entries_popPlain, List.drop_eq_drop_iff, hlen, Nat.min_assoc, Nat.min_self]
    exact ⟨_, (refillTake_of_quiet hnone).2 hsome, rfl, rfl, hwrites, (congrArg entries (bank_modComb_setBank hkind.1)).trans hleft⟩
  case refillWaits =>
    simp only [refuse_of_ownKind (b := poppedBank f e) hkind]
    exact ⟨_, _, (refillTake_of_quiet hnone).1 hsome, rfl, rfl⟩
  case refillTraps =>
    simp only [refuse_of_not_ownKind (b := poppedBank f e) hkind]
    exact fault_of_vector hv ..
  case plain =>
    have hord : (poppedBank f e).ord = false := hkind.2.1
    have hwords : popWords (poppedBank f e) = 4 := if_neg (ne_true_of_eq_false hord)
    have htook : (popped (poppedBank f e) e.lanes.length).1 = took e := by
      rw [popped, if_neg (ne_true_of_eq_false hord)]
      rfl
    have hwrites : popWrites f e (poppedBank f e) (popped (poppedBank f e) e.lanes.length) =
        (if filled e = [] then [] else entWrites f.d.code 4 (filled e) (took e)) ++ [⟨f.e.code, [(0, BitVec.ofNat 32 (took e).length)]⟩] := by
      simp only [popWrites, popTail, hord, hwords, htook, List.isEmpty_iff]
      rfl
    simp only [refuse_of_ownKind (b := poppedBank f e) (hord ▸ hkind)]
    obtain ⟨o, ho, htrap, hnone, op, hops, hcls, hown, hop⟩ := fpopTake_stands hwords hrange hhazard
    exact ⟨o, ho, htrap, hnone, op, hops, hcls, hown, hop.trans (congrArg OpKind.values hwrites)⟩
  case ordered =>
    have hord : (poppedBank f e).ord = true := hkind.2.1
    have hwords : popWords (poppedBank f e) = 16 := if_pos hord
    simp only [refuse_of_ownKind (b := poppedBank f e) (hord ▸ hkind)]
    obtain ⟨o, ho, htrap, hnone, op, hops, hcls, hown, hop⟩ := fpopTake_stands hwords hrange hhazard
    obtain ⟨hlen, hall⟩ := popped_ordered hord e.lanes.length
    exact ⟨o, ho, htrap, hnone, op, _, _, hops, hcls, hop, hlen, hall, count_mem_popWrites ..⟩

/-! ## EVPOP (R358, R359) -/

/-- The four words that EVPOP writes. -/
def recordQuad (f : SForm) (ws : List Word) : List RegWrite :=
  ((List.range 4).zip ws).map fun (x : Nat × Word) => (⟨f.d.code + x.1, [(0, x.2)]⟩ : RegWrite)

/-- The machine once the oldest record is popped: the others move up, and one that closes an acquire drops the L1 (R359). -/
def afterRecord (e : Env) (r : EvRec) (rest : List EvRec) : State :=
  let s := e.s.modComb e.ck fun c => ({ c with evq := rest } : Comb).refillEvq
  match r.acq with
  | some sc => if 2 ≤ sc then s.dropL1 e.ck else s
  | none => s

theorem exec_evpop (f : SForm) (s : State) : exec (.evpop f) s = issue s (ruleEvpop f) fun e =>
    match (e.s.comb e.ck).evq with
    | [] => if f.sub.getLsbD 0 then e.block .again else e.done (recordQuad f [0, 0, 0, 0])
    | r :: rest => .ok ⟨afterRecord e r rest, e.th, recordQuad f [r.w0, r.w1, r.w2, r.w3], 0, none, .seq⟩ := rfl

/-! ## PRIMEMIT (R369, R370) -/

/-- The render set of the agent's context; 7 selects none (R219). -/
def primSet (e : Env) : Nat :=
  match Sparse.find? e.s.ctxs ((e.s.agentCtx e.ag).getD 0) with
  | some c => c.rset
  | none => 7

/-- The primitives of the lanes, in lane order (R369). -/
def primsOf (f : SForm) (e : Env) : List Prim :=
  ((List.range e.lanes.length).zip e.lanes).map fun (x : Nat × Nat) =>
    ⟨(e.s.agentCtx e.ag).getD 0, primSet e, e.ck, e.th.uid, e.s.nextUid, (List.range 12).map fun k => e.reg (f.a.code + k) x.2, e.read32 f.b x.2,
      (e.read32 f.c x.2).toNat % 64, e.th.time, e.th.ordinal + x.1⟩

/-- A primitive as an atomic task buffers it (R340). -/
def primEntry (e : Env) (p : Prim) : CommitEnt := ⟨0x194, 80, e.th.pc, [p.ordinal, p.set], (p.verts ++ [p.attr]).map (·.toNat)⟩

/-- PRIMEMIT of a render set: buffered in an atomic task, else handed to the die's router (R370). -/
def primemitEffect (f : SForm) (e : Env) : Eff :=
  if e.th.place.atomic then
    e.buffer e.s ((primsOf f e).map (primEntry e)) fun s th => e.out s { th with ordinal := e.th.ordinal + e.lanes.length }
  else if 63 ≤ (e.s.comb e.ck).outstanding e.th.uid 3 then e.stall
  else
    let p := e.async e.s { e.th with ordinal := e.th.ordinal + e.lanes.length } 3 3 none (.emit e.lanes.length) []
    e.out (p.1.modDie (keyDie e.ck) fun d => { d with router := d.router ++ primsOf f e }) p.2

theorem exec_primemit (f : SForm) (s : State) : exec (.primemit f) s = issue s (rulePrimemit f) fun e =>
    if primSet e = 7 then e.fault codeILLOP 0 0
    else if 65536 < e.th.ordinal + e.lanes.length then e.fault codeILLOP 0 0
    else primemitEffect f e := rfl

section
variable (f : SForm) (e : Env)

theorem length_zip_lanes : (List.range e.lanes.length).length = e.lanes.length := List.length_range ..

/-- The primitives take the ordinals from the thread's on, one each (R370). -/
theorem ordinals_primsOf : (primsOf f e).map (·.ordinal) = (List.range e.lanes.length).map (e.th.ordinal + ·) := by
  rw [primsOf, List.map_map]
  conv_rhs => rw [← List.map_fst_zip (length_zip_lanes e).le, List.map_map]
  rfl

/-- Each lane's primitive holds the lane's words (R369). -/
theorem verts_primsOf : (primsOf f e).map (·.verts) = e.lanes.map fun i => (List.range 12).map fun k => e.reg (f.a.code + k) i := by
  rw [primsOf, List.map_map]
  conv_rhs => rw [← List.map_snd_zip (length_zip_lanes e).ge, List.map_map]
  rfl

theorem length_primsOf : (primsOf f e).length = e.lanes.length := by
  rw [primsOf, List.length_map, List.length_zip, length_zip_lanes, Nat.min_self]

theorem primsOf_same {p : Prim} (hp : p ∈ primsOf f e) : p.rset = primSet e ∧ p.time = e.th.time := by
  obtain ⟨x, -, rfl⟩ := List.mem_map.1 hp
  exact ⟨rfl, rfl⟩

end

theorem eventQueueAndPrimitives : Claim.EventQueueAndPrimitives := by
  intro f quad ctx rset fits
  have emits (e : Env) (h : fits e) : (if primSet e = 7 then e.fault codeILLOP 0 0
      else if 65536 < e.th.ordinal + e.lanes.length then e.fault codeILLOP 0 0 else primemitEffect f e) = primemitEffect f e :=
    (if_neg h.1).trans (if_neg h.2.not_gt)
  refine ⟨fun r rest => .of_body fun s => ⟨_, exec_evpop f s, fun e ⟨hq, hacq⟩ => ?plain⟩,
    fun r rest a => .of_body fun s => ⟨_, exec_evpop f s, fun e ⟨hq, hacq⟩ => ?acquire⟩,
    .of_body fun s => ⟨_, exec_evpop f s, fun e ⟨hq, hsub⟩ => ?empty⟩,
    .of_body fun s => ⟨_, exec_evpop f s, fun e ⟨hq, hsub⟩ => ?waits⟩,
    .of_body fun s => ⟨_, exec_primemit f s, fun e ⟨hfits, hatomic, hroom⟩ => ?emitted⟩,
    .of_body fun s => ⟨_, exec_primemit f s, fun e ⟨hfits, hatomic, hroom⟩ => ?buffered⟩,
    traps_of_vector rfl fun s => ⟨_, exec_primemit f s, fun e hv hnone => (if_pos hnone).trans (fault_of_vector hv ..)⟩⟩
  case plain =>
    simp only [hq]
    refine ⟨_, rfl, rfl, ?_⟩
    simp only [afterRecord, hacq]
    rfl
  case acquire =>
    simp only [hq]
    refine ⟨_, rfl, rfl, rfl, rfl, fun ha => ?_⟩
    simp only [afterRecord, hacq, if_pos ha, State.dropL1, State.comb_modComb_self]
  case empty =>
    simp only [hq, hsub, Bool.false_eq_true, if_false]
    exact ⟨_, rfl, rfl, rfl⟩
  case waits =>
    simp only [hq, hsub, if_true]
    exact ⟨_, _, rfl, rfl, rfl⟩
  case emitted =>
    have heff := (emits e hfits).trans ((if_neg (ne_true_of_eq_false hatomic)).trans (if_neg hroom.not_ge))
    refine ⟨_, heff, rfl, rfl, rfl, primsOf f e, ?_, ordinals_primsOf f e, verts_primsOf f e, fun p hp => primsOf_same f e hp⟩
    exact (congrArg Die.router (State.die_modDie_self ..)).trans rfl
  case buffered =>
    have hfit : commitUsed e.th.commit + commitUsed ((primsOf f e).map (primEntry e)) ≤ 4096 := by
      rw [commitUsed_map (n := 80) (primEntry e) fun _ => rfl, length_primsOf]
      exact hroom
    have heff := (emits e hfits).trans ((if_pos hatomic).trans (buffer_fits hfit ..))
    refine ⟨_, heff, rfl, rfl, rfl, rfl, ?_⟩
    exact (List.length_append ..).trans (congrArg (_ + ·) ((List.length_map ..).trans (length_primsOf f e)))

/-- Settles O28: pushes, REFILL and FPOP by the bank's kind, the order by each entry pushed, EVPOP by its queue and PRIMEMIT by its render set. -/
theorem queues : Obligations.Queues := ⟨fifoBanks, fifoOrder, eventQueueAndPrimitives⟩

end Sys2Proof.Proofs
end

section
namespace Sys2Proof.Proofs
open Sys2Proof Sys2Proof.Machine

/-! # Barriers, outstanding operations and region order counters (R379 to R388, R391) -/

/-! ## Named barriers (R379 to R381) -/

section
variable {x : Barrier} {n : Nat}

/-- An arrival of the count that a barrier expects completes its phase, or joins it (R380). -/
theorem arrive_of_fitting (hlow : 1 ≤ n) (hhigh : n ≤ 255) (hn : x.expect = 0 ∨ n = x.expect) :
    x.arrive n = .ok (if x.arrivals + 1 = n then (⟨0, 0, (x.phases + 1) % 2 ^ 16⟩, x.phases) else (⟨n, x.arrivals + 1, x.phases⟩, x.phases)) := by
  rw [Barrier.arrive, if_neg (by omega)]
  split <;> rfl

theorem arrive_of_impossible (h : n = 0 ∨ 255 < n ∨ (x.expect ≠ 0 ∧ n ≠ x.expect)) : x.arrive n = .error x.expect :=
  if_pos (by omega)

end

section
variable {e : Env} {f : SForm} {k : State → Nat → Eff}

/-- An arrival of BARA or BARW at the barrier it names, after the release at TEAM scope (R380). -/
def BarArrives (f : SForm) (e : Env) (y : Except Nat (Comb × Nat)) : Prop :=
  e.s.releaseDone e.ck e.th.uid 1 e.s.nextUid = true ∧ (e.s.comb e.ck).arrive e.th.place.team (f.imm.toNat % 16) (e.barCount f) = y

theorem bar_of_ok {x : Comb × Nat} (h : BarArrives f e (.ok x)) : e.bar f k = k (e.s.setComb e.ck x.1) x.2 := by
  obtain ⟨hrel, harrive⟩ := h
  simp only [Env.bar, afterRelease_of_done hrel, harrive]

theorem bar_of_error {x : Nat} (h : BarArrives f e (.error x)) : e.bar f k = .fault ⟨codeBARCOUNT, e.th.em, f.imm.toNat % 16, x⟩ := by
  obtain ⟨hrel, harrive⟩ := h
  simp only [Env.bar, afterRelease_of_done hrel, harrive]

end

theorem exec_bari (f : SForm) (s : State) : exec (.bari f) s = issue s (ruleBari f) fun e =>
    e.out (e.s.modComb e.ck fun c => c.modTeam e.th.place.team fun t =>
      { t with barriers := t.barriers.set (f.imm.toNat % 16) { t.barrier (f.imm.toNat % 16) with arrivals := 0, expect := 0 } }) e.th := rfl

theorem exec_bara (f : SForm) (s : State) : exec (.bara f) s = issue s (ruleBara f) fun e => e.bar f fun s _ => e.out s e.th := rfl

/-- BARW goes on once the phase it joined is complete (R380). -/
def barwGo (f : SForm) (e : Env) (s : State) (ph : Nat) : Eff :=
  if (s.comb e.ck).phases e.th.place.team (f.imm.toNat % 16) ≠ ph then e.out s e.th else .wait s { e.th with wait := .phase (f.imm.toNat % 16) ph }

/-- BARW that waits looks again, one that does not arrives first (R380). -/
def barwBody (f : SForm) (e : Env) : Eff :=
  match e.th.wait with
  | .phase _ ph => barwGo f e e.s ph
  | _ => e.bar f (barwGo f e)

theorem exec_barw (f : SForm) (s : State) : exec (.barw f) s = issue s (ruleBarw f) (barwBody f) := rfl

theorem barwBody_of_arrival {f : SForm} {e : Env} {x : Comb × Nat} (hw : e.th.wait = .none) (h : BarArrives f e (.ok x)) :
    barwBody f e = barwGo f e (e.s.setComb e.ck x.1) x.2 := by
  rw [barwBody, hw]
  exact bar_of_ok h

theorem barwBody_of_phase {f : SForm} {e : Env} {b ph : Nat} (hw : e.th.wait = .phase b ph) : barwBody f e = barwGo f e e.s ph := by
  rw [barwBody, hw]

theorem find?_modTeam {c : Comb} {k : Nat} {t : Team} (h : Sparse.find? c.teams k = some t) (g : Team → Team) :
    Sparse.find? (c.modTeam k g).teams k = some (g t) := by
  simp only [Comb.modTeam, h]
  exact Sparse.find?_put_self ..

theorem namedBarriers : Claim.NamedBarriers := by
  intro f b released arrives team
  refine ⟨fun t => .of_body fun s => ⟨_, exec_bari f s, fun e ⟨hteam, hb⟩ => ?bari⟩,
    fun x => .of_body fun s => ⟨_, exec_bara f s, fun e h => ⟨_, bar_of_ok h, rfl, rfl⟩⟩,
    fun x => .of_body fun s => ⟨_, exec_barw f s, fun e ⟨hw, h, hph⟩ => ⟨_, (barwBody_of_arrival hw h).trans (if_pos hph), rfl, rfl⟩⟩,
    fun x => .of_body fun s => ⟨_, exec_barw f s, fun e ⟨hw, h, hph⟩ => ⟨_, _, (barwBody_of_arrival hw h).trans (if_neg (not_not.2 hph)), rfl, rfl⟩⟩,
    fun b' ph => .of_body fun s => ⟨_, exec_barw f s, fun e ⟨hw, hph⟩ => ⟨_, (barwBody_of_phase hw).trans (if_pos hph), rfl, rfl⟩⟩,
    fun x => .of_body fun s => ⟨_, exec_bara f s, fun e h => bar_of_error h⟩,
    fun x n => arrive_of_fitting, fun x n => arrive_of_impossible⟩
  case bari =>
    refine ⟨_, rfl, rfl, rfl, rfl, ?_⟩
    dsimp only [team]
    rw [State.comb_modComb_self, find?_modTeam hteam]
    exact congrArg some ((List.getD_eq_getElem _ _ (by rwa [List.length_set])).trans (List.getElem_set_self ..))

/-! ## Transaction barriers (R382 to R386) -/

/-- The fields of a transaction barrier stand apart in its 128 bits (R383). -/
theorem ofNat_toNat {t : TxBar} (hphase : t.phase < 16) (harr : t.arr < 2 ^ 20) (hsect : t.sect < 2 ^ 24) (hexpect : t.expect < 2 ^ 20) :
    TxBar.ofNat t.toNat = t := by
  obtain ⟨expect, err, sect, arr, phase⟩ := t
  dsimp only at *
  have herr : Nat.testBit (TxBar.toNat ⟨expect, err, sect, arr, phase⟩) 48 = err := by
    rw [Nat.testBit_eq_decide_div_mod_eq, TxBar.toNat]
    cases err <;> simp only [Bool.toNat_false, Bool.toNat_true, decide_eq_false_iff_not, decide_eq_true_eq] <;> omega
  rw [TxBar.ofNat, herr]
  have hlt := Bool.toNat_lt err
  simp only [TxBar.toNat, TxBar.mk.injEq, true_and]
  omega

section
variable {e : Env} {a : Spec} {k : Nat → Eff}

/-- A barrier's address that is aligned and in range, with nothing of the group on its way to it (R283, R383). -/
def BarrierFree (e : Env) (a : Spec) : Prop :=
  e.scratchFault 16 16 [(0, (e.read32 a 0).toNat)] = none ∧ e.txBusy (e.read32 a 0).toNat = false

theorem txAddr_of_free (h : BarrierFree e a) : e.txAddr a k = k (e.read32 a 0).toNat := by
  simp only [Env.txAddr, h.1]

theorem not_busy (h : BarrierFree e a) : ¬ e.txBusy (e.read32 a 0).toNat = true := ne_true_of_eq_false h.2

end

/-- TBINIT of a barrier at an address. -/
theorem exec_tbinit (f : SForm) (s : State) : exec (.tbinit f) s = issue s (ruleTbinit f) fun e =>
    e.txAddr f.a fun x =>
      if e.txBusy x then e.block .again
      else e.out (e.s.modComb e.ck fun c => c.modTxBar x fun _ => (⟨f.imm.toNat, false, 0, f.imm.toNat, 0⟩ : TxBar).flip) e.th := rfl

/-- The sectors that TBEXP adds or takes (R384). -/
def tbexpCount (f : SForm) (e : Env) : Nat := if f.sub.getLsbD 0 then f.imm.toNat else (e.read32 f.b 0).toNat % 2 ^ 24

/-- The barrier at an address on the issuing comb. -/
def barrierAt (e : Env) (x : Nat) : TxBar := (e.s.comb e.ck).txBar x

/-- TBEXP's count fits the barrier's sectors (R384). -/
def TbexpFits (f : SForm) (e : Env) (x : Nat) : Prop :=
  if f.sub.getLsbD 1 then tbexpCount f e ≤ (barrierAt e x).sect else (barrierAt e x).sect + tbexpCount f e < 2 ^ 24

/-- TBEXP at an address that it may change now (R384). -/
def tbexpEffect (f : SForm) (e : Env) (x : Nat) : Eff :=
  if (f.sub.getLsbD 1 && decide ((barrierAt e x).sect < tbexpCount f e)) || (!f.sub.getLsbD 1 && decide (2 ^ 24 ≤ (barrierAt e x).sect + tbexpCount f e)) then
    .fault ⟨codeTBOVER, e.th.em, x, 0⟩
  else
    let sect := if f.sub.getLsbD 1 then (barrierAt e x).sect - tbexpCount f e else (barrierAt e x).sect + tbexpCount f e
    e.out (e.s.modComb e.ck fun c => c.modTxBar x fun t =>
      let t := { t with sect := sect }
      (if f.sub.getLsbD 2 then t.arrive else t).flip) e.th

/-- TBEXP at a checked address, after its release where it arrives. -/
def tbexpAt (f : SForm) (e : Env) (x : Nat) : Eff :=
  let go (_ : Unit) : Eff := if e.txBusy x then e.block .again else tbexpEffect f e x
  if f.sub.getLsbD 2 then e.afterRelease 1 go else go ()

theorem exec_tbexp (f : SForm) (s : State) : exec (.tbexp f) s = issue s (ruleTbexp f) fun e => e.txAddr f.a (tbexpAt f e) := rfl

theorem tbexp_over_iff {f : SForm} {e : Env} {x : Nat} : ((f.sub.getLsbD 1 && decide ((barrierAt e x).sect < tbexpCount f e)) ||
    (!f.sub.getLsbD 1 && decide (2 ^ 24 ≤ (barrierAt e x).sect + tbexpCount f e))) = true ↔ ¬ TbexpFits f e x := by
  unfold TbexpFits
  cases f.sub.getLsbD 1 <;> simp

/-- Past its release and its wait TBEXP turns on whether its count fits. -/
theorem tbexp_of_free {f : SForm} {e : Env} (h : BarrierFree e f.a)
    (hrel : f.sub.getLsbD 2 = true → e.s.releaseDone e.ck e.th.uid 1 e.s.nextUid = true) :
    e.txAddr f.a (tbexpAt f e) = tbexpEffect f e (e.read32 f.a 0).toNat := by
  rw [txAddr_of_free h]
  dsimp only [tbexpAt]
  split
  · next harr => exact (afterRelease_of_done (hrel harr) _).trans (if_neg (not_busy h))
  · exact if_neg (not_busy h)

/-- The machine once TBARR has arrived, with the core's port taken (R286). -/
def tbarrArrived (e : Env) (x : Nat) : State × Nat := e.takePort (e.s.modComb e.ck fun c => c.modTxBar x fun t => t.arrive.flip) 1

/-- The phase that a TBARR joins, as it lands in D (R384). -/
def tbarrWrites (f : SForm) (e : Env) (x : Nat) : List RegWrite := e.write32 f.d false [(0, BitVec.ofNat 32 (barrierAt e x).phase)]

theorem exec_tbarr (f : SForm) (s : State) : exec (.tbarr f) s = issue s (ruleTbarr f) fun e =>
    e.txAddr f.a fun x =>
      e.afterRelease 1 fun _ =>
        if e.txBusy x then e.block .again
        else
          let r := e.async (tbarrArrived e x).1 e.th 0 0 none (.values (tbarrWrites f e x)) ((tbarrWrites f e x).map fun w => (w.code, [0]))
            ((tbarrArrived e x).2 + 12)
          e.out r.1 r.2 := rfl

theorem exec_tbwait (f : SForm) (s : State) : exec (.tbwait f) s = issue s (ruleTbwait f) fun e =>
    e.txAddr f.a fun x =>
      if e.txBusy x || decide ((barrierAt e x).phase = if f.sub.getLsbD 0 then f.imm.toNat % 16 else (e.read32 f.b 0).toNat % 16) then e.block .again
      else e.done (e.write32 f.d false [(0, BitVec.ofNat 32 ((barrierAt e x).phase + 16 * (barrierAt e x).err.toNat))]) := rfl

theorem ops_modTxBar (c : Comb) (a : Nat) (g : TxBar → TxBar) : (c.modTxBar a g).ops = c.ops :=
  putScratch_keeps (g := Comb.ops) (fun _ _ => rfl) (fun _ _ => rfl) c a _

theorem scratch_takePort (e : Env) (s : State) (n : Nat) : ((e.takePort s n).1.comb e.ck).scratch = (s.comb e.ck).scratch := by
  unfold Env.takePort
  split
  · rfl
  · rw [State.comb_modComb_self]

/-- Values registered to land join the comb's operations, and the scratch is as before (R90, R286). -/
theorem async_values (e : Env) (s : State) (ws : List RegWrite) (dsts : List (Nat × List Nat)) (due : Nat) :
    ∃ op : AsyncOp, ((e.async s e.th 0 0 none (.values ws) dsts due).1.comb e.ck).ops = (s.comb e.ck).ops ++ [op] ∧ op.cls = 0 ∧ op.ownerUid = e.th.uid ∧
      op.kind = .values ws ∧ ((e.async s e.th 0 0 none (.values ws) dsts due).1.comb e.ck).scratch = (s.comb e.ck).scratch := by
  obtain ⟨op, -, hops, -, -, hown, hcls, hkind⟩ := async_joins e s e.th 0 0 none (.values ws) dsts due false false
  refine ⟨op, hops, hcls, hown, hkind, ?_⟩
  dsimp only [Env.async]
  rw [State.comb_modComb_self]
  rfl

theorem transactionBarriers : Claim.TransactionBarriers := by
  intro f x ok bar into k p arr less fits released full
  refine ⟨.of_body fun s => ⟨_, exec_tbinit f s, fun e hok => ⟨_, (txAddr_of_free hok).trans (if_neg (not_busy hok)), rfl, rfl⟩⟩,
    .of_body fun s => ⟨_, exec_tbexp f s, fun e ⟨hok, hfits, hrel⟩ =>
      ⟨_, (tbexp_of_free hok hrel).trans (if_neg fun hover => tbexp_over_iff.1 hover hfits), rfl, rfl⟩⟩,
    .of_body fun s => ⟨_, exec_tbexp f s, fun e ⟨hok, hover, hrel⟩ => (tbexp_of_free hok hrel).trans (if_pos (tbexp_over_iff.2 hover))⟩,
    .of_body fun s => ⟨_, exec_tbarr f s, fun e ⟨hok, hrel⟩ => ?tbarr⟩,
    .of_body fun s => ⟨_, exec_tbwait f s, fun e ⟨hok, hph⟩ => (txAddr_of_free hok).trans (if_neg ?differs)⟩,
    .of_body fun s => ⟨_, exec_tbwait f s, fun e ⟨hok, hph⟩ => ⟨_, _, (txAddr_of_free hok).trans (if_pos ?same), rfl, rfl⟩⟩,
    fun t => ofNat_toNat⟩
  case tbarr =>
    rw [txAddr_of_free hok, afterRelease_of_done hrel, if_neg (not_busy hok)]
    obtain ⟨op, hops, hcls, hown, hkind, hscratch⟩ := async_values e (tbarrArrived e (x e)).1 (tbarrWrites f e (x e))
      ((tbarrWrites f e (x e)).map fun w => (w.code, [0])) ((tbarrArrived e (x e)).2 + 12)
    rw [tbarrArrived, ops_takePort, State.comb_modComb_self, ops_modTxBar] at hops
    rw [tbarrArrived, scratch_takePort, State.comb_modComb_self] at hscratch
    exact ⟨_, rfl, rfl, rfl, op, hops, hcls, hown, hkind, hscratch⟩
  case differs =>
    have hbusy : e.txBusy (e.read32 f.a 0).toNat = false := hok.2
    rw [hbusy, Bool.false_or, decide_eq_true_eq]
    exact hph
  case same =>
    rw [Bool.or_eq_true, decide_eq_true_eq]
    exact .inr hph

/-! ## Outstanding operations and region order counters (R387, R388, R391) -/

/-- What a WAITC covers of the registers that are not covered yet (R388). -/
def waitcCovers (f : SForm) (u : Uncov) : Bool := u.landed && (f.imm.toNat % 16).testBit u.cls

/-- Some class that WAITC names still has more operations than it allows (R388). -/
def waitcHeld (f : SForm) (e : Env) : Bool :=
  (List.range 4).any fun k => (f.imm.toNat % 16).testBit k && decide (f.imm.toNat / 16 < (e.s.comb e.ck).outstanding e.th.uid k)

theorem exec_waitc (f : SForm) (s : State) : exec (.waitc f) s = issue s (ruleWaitc f) fun e =>
    if waitcHeld f e then e.block .again
    else .ok ⟨e.s, { e.th with uncov := e.th.uncov.filter fun u => !waitcCovers f u }, [], 0,
      if ((e.th.uncov.filter (waitcCovers f)).flatMap (·.bad)).isEmpty then none
        else some (derrTrap ((e.th.uncov.filter (waitcCovers f)).flatMap (·.bad))), .seq⟩ := rfl

theorem exec_owait (f : SForm) (s : State) : exec (.owait f) s = issue s (ruleOwait f) fun e =>
    if (e.s.comb e.ck).order (f.imm.toNat % 64) = (e.read32 f.a 0).toNat % 2 ^ 16 then e.out (e.s.dropL1 e.ck) e.th else e.block .again := rfl

theorem exec_orels (f : SForm) (s : State) : exec (.orels f) s = issue s (ruleOrels f) fun e => e.orels f (· + 1) := rfl
theorem exec_orelsSet (f : SForm) (s : State) : exec (.orelsSet f) s = issue s (ruleOrelsSet f) fun e => e.orels f fun _ => (e.read32 f.a 0).toNat := rfl

theorem waitsAndOrder : Claim.WaitsAndOrder := by
  intro f mask low covered good r now want released
  refine ⟨.of_body fun s => ⟨_, exec_waitc f s, fun e ⟨hlow, hgood⟩ => ⟨_, if_neg (ne_true_of_eq_false hlow), ?clean, ?rest⟩⟩,
    .of_body fun s => ⟨_, exec_waitc f s, fun e hheld => ⟨_, _, if_pos ((Bool.eq_false_or_eq_true _).resolve_right hheld), rfl, rfl⟩⟩,
    .of_body fun s => ⟨_, exec_owait f s, fun e he => ⟨_, if_pos he, rfl, rfl⟩⟩,
    .of_body fun s => ⟨_, exec_owait f s, fun e he => ⟨_, _, if_neg he, rfl, rfl⟩⟩,
    .of_body fun s => ⟨_, exec_orels f s, fun e hrel => ⟨_, afterRelease_of_done hrel _, rfl, rfl, rfl, rfl⟩⟩,
    .of_body fun s => ⟨_, exec_orelsSet f s, fun e hrel => ⟨_, afterRelease_of_done hrel _, rfl, rfl, rfl, rfl⟩⟩⟩
  case clean => exact if_pos (List.isEmpty_iff.2 hgood)
  case rest => exact congrArg (Out.mk _ _ _ _ · _) (if_pos (List.isEmpty_iff.2 hgood))

/-- Settles O23: named barriers by the arrival, those in scratch by their address and the fields, WAITC, OWAIT and ORELS by their condition. -/
theorem barriersAndWaits : Obligations.BarriersAndWaits := ⟨namedBarriers, transactionBarriers, waitsAndOrder⟩

end Sys2Proof.Proofs
end

section
namespace Sys2Proof.Proofs
open Sys2Proof Sys2Proof.Machine

/-! # The matrix engine: what its instructions post, and the barriers of a stream (R308, R311 to R319) -/

/-! ## Posting (R308, R311, R313) -/

section
variable {e : Env} {f : SForm} {s : State} {op tile n : Nat}

/-- The reservation table has an entry for the stream of the issuer (R308). -/
def HasRoom (e : Env) (s : State) : Prop :=
  (s.comb e.ck).passes.length < 16 ∧ ((s.comb e.ck).passes.filter fun p => p.seq = e.ag.src % 0x40).length < 8

/-- The state with one pass more, at the end of the queue of the issuer's stream (R308). -/
def withPass (e : Env) (f : SForm) (s : State) (op tile : Nat) (xs : List DWord) (ds : List (List Nat)) : State :=
  { s with nextUid := s.nextUid + 1 }.modComb e.ck fun c => { c with passes := c.passes ++
    [(⟨s.nextUid, e.ag.src % 0x40, op, tile, f.sub.toNat, f.imm.toNat, xs, ds, e.th.pc, 0, false, 0, false, none, e.t, 0⟩ : Pass)] }

theorem post_of_room (po : Posting) (h : HasRoom e s) : e.post s f op tile po = e.out (withPass e f s op tile po.regs po.descs) e.th := by
  obtain ⟨htable, hstream⟩ := h
  exact if_neg (by omega)

/-- The registers of the block that A names (R311). -/
def passBlock (f : SForm) (n : Nat) (e : Env) : List DWord := (List.range n).map fun i => e.xreg (f.a.code - 0x80 + i)

/-- The block that A names lies within x0 to x31 and the accumulator is the team's (R313 steps 1 to 3). -/
def BlockInRange (f : SForm) (e : Env) (n tile : Nat) : Prop := (∃ k, f.a = .s k ∧ k.val + n ≤ 32) ∧ e.accTile f.d = .ok tile

theorem posting_of_inRange {k : Nat → List DWord → Eff} (h : BlockInRange f e n tile) : e.posting f n k = k tile (passBlock f n e) := by
  obtain ⟨⟨a, ha, hle⟩, htile⟩ := h
  have hblock : passBlock f n e = e.xblock (.s a) n := by simp [passBlock, ha, Spec.code, Env.xblock]
  rw [hblock]
  simp only [Env.posting, ha, if_neg (show ¬ 32 < a.val + n by omega), htile]

theorem misaligned_eq_none {xs : List Nat} (h : ∀ x ∈ xs, x % n = 0) : e.misaligned n xs = none := by
  simpa [Env.misaligned] using h

/-- A posting whose checks of R313 pass, step by step. -/
def ChecksPass (f : SForm) (e : Env) (n op tile : Nat) (bad : Pass → Option Nat) (aligned : Pass → List Nat) (runs : Pass → List (Nat × Nat)) : Prop :=
  BlockInRange f e n tile ∧ bad (.draft op tile f (passBlock f n e)) = none ∧
    (∀ x ∈ aligned (.draft op tile f (passBlock f n e)), x % 16 = 0) ∧ e.matScratch (runs (.draft op tile f (passBlock f n e))) = none

end

/-- What a posting of MMA, MLD or MST does with its block: the checks of R313 from step 4 on, then the pass. -/
def postChecked (f : SForm) (op : Nat) (bad : Pass → Option Nat) (aligned : Pass → List Nat) (runs : Pass → List (Nat × Nat))
    (descs : Env → Pass → Except TrapInfo (State × List (List Nat))) (e : Env) (tile : Nat) (xs : List DWord) : Eff :=
  match bad (.draft op tile f xs) with
  | some k => e.fault codeBADSPEC (f.a.code + k) 0
  | none =>
    match e.misaligned 16 (aligned (.draft op tile f xs)) with
    | some t => .fault t
    | none =>
      match descs e (.draft op tile f xs) with
      | .error t => .fault t
      | .ok (s, ds) =>
        match e.matScratch (runs (.draft op tile f xs)) with
        | some t => .fault t
        | none => e.post s f op tile ⟨xs, ds⟩

section
variable {e : Env} {f : SForm} {s : State} {op tile n : Nat} {ds : List (List Nat)} {bad : Pass → Option Nat} {aligned : Pass → List Nat}
  {runs : Pass → List (Nat × Nat)} {descs : Env → Pass → Except TrapInfo (State × List (List Nat))}

theorem postChecked_of_pass (h : ChecksPass f e n op tile bad aligned runs) (hd : descs e (.draft op tile f (passBlock f n e)) = .ok (s, ds))
    (hroom : HasRoom e s) :
    e.posting f n (postChecked f op bad aligned runs descs e) = e.out (withPass e f s op tile (passBlock f n e) ds) e.th := by
  obtain ⟨hstart, hbad, hal, hruns⟩ := h
  rw [posting_of_inRange hstart]
  simp only [postChecked, hbad, misaligned_eq_none hal, hd, hruns, post_of_room _ hroom]

end

/-- The addresses of an MLD's or MST's block that must be multiples of 16 (R313 step 5). -/
def moveAligns (p : Pass) : List Nat := if p.imm % 4 = 2 then [] else [p.reg 0, p.opM.stride]

theorem exec_mma (f : SForm) (s : State) : exec (.mma f) s = issue s (ruleMma f) fun e =>
    e.posting f (mmaBlock f) (postChecked f 0x140 Pass.mmaBad Pass.mmaAligns Pass.mmaRuns Env.mmaDescs e) := rfl

theorem exec_mst (f : SForm) (s : State) : exec (.mst f) s = issue s (matMoveRule 0x142 f) fun e =>
    e.posting f 2 (postChecked f 0x142 Pass.moveBad moveAligns Pass.moveRuns (Env.moveDescs · · true) e) := rfl

theorem exec_mld (f : SForm) (s : State) : exec (.mld f) s = issue s (matMoveRule 0x143 f) fun e =>
    e.posting f 2 (postChecked f 0x143 Pass.moveBad moveAligns Pass.moveRuns (Env.moveDescs · · false) e) := rfl

/-- What a row pass does with its block: the checks of R317, then the pass. -/
def postRow (f : SForm) (op : Nat) (e : Env) (tile : Nat) (xs : List DWord) : Eff :=
  let p := Pass.draft op tile f xs
  if badMN (p.reg 1) || decide (p.reg 1 % 2 ^ 32 ≠ 0) then e.fault codeBADSPEC (f.a.code + 1) 0
  else if badAddr 0 (p.reg 0) then e.fault codeBADSPEC f.a.code 0
  else match e.misaligned 4 [p.reg 0] with
    | some t => .fault t
    | none =>
      match e.matScratch [(p.reg 0, 128)] with
      | some t => .fault t
      | none => e.post e.s f op tile ⟨xs, []⟩

/-- A row pass that meets the checks of R317. -/
def RowChecksPass (f : SForm) (e : Env) (op tile : Nat) : Prop :=
  let p := Pass.draft op tile f (passBlock f 2 e)
  BlockInRange f e 2 tile ∧ badMN (p.reg 1) = false ∧ p.reg 1 % 2 ^ 32 = 0 ∧ p.reg 0 < 2 ^ 21 ∧ p.reg 0 % 4 = 0 ∧
    e.matScratch [(p.reg 0, 128)] = none ∧ HasRoom e e.s

theorem postRow_of_pass {e : Env} {f : SForm} {op tile : Nat} (h : RowChecksPass f e op tile) :
    e.posting f 2 (postRow f op e) = e.out (withPass e f e.s op tile (passBlock f 2 e) []) e.th := by
  obtain ⟨hstart, hmn, hlow, hsmall, hal, hruns, hroom⟩ := h
  have haddr : badAddr 0 ((Pass.draft op tile f (passBlock f 2 e)).reg 0) = false := by simpa [badAddr] using hsmall
  rw [posting_of_inRange hstart]
  simp only [postRow, hmn, hlow, haddr, misaligned_eq_none (List.forall_mem_singleton.mpr hal), hruns, post_of_room _ hroom]
  rfl

theorem exec_mrows (f : SForm) (s : State) : exec (.mrows f) s = issue s (matRowRule 0x144 f) fun e => e.posting f 2 (postRow f 0x144 e) := rfl

theorem exec_mrowmax (f : SForm) (s : State) : exec (.mrowmax f) s = issue s (matRowRule 0x145 f) fun e => e.posting f 2 (postRow f 0x145 e) := rfl

theorem exec_mrowsum (f : SForm) (s : State) : exec (.mrowsum f) s = issue s (matRowRule 0x146 f) fun e => e.posting f 2 (postRow f 0x146 e) := rfl

/-- MZERO posts its pass as soon as its accumulator is the team's (R316). -/
def mzeroBody (f : SForm) (e : Env) : Eff :=
  match e.accTile f.d with
  | .error t => .fault t
  | .ok tile => e.post e.s f 0x141 tile ⟨[], []⟩

theorem exec_mzero (f : SForm) (s : State) : exec (.mzero f) s = issue s (ruleMzero f) (mzeroBody f) := rfl

theorem mzeroBody_of_tile {e : Env} {f : SForm} {tile : Nat} (ht : e.accTile f.d = .ok tile) (hroom : HasRoom e e.s) :
    mzeroBody f e = e.out (withPass e f e.s 0x141 tile [] []) e.th := by
  simp only [mzeroBody, ht, post_of_room _ hroom]

theorem passesPost : Claim.PassesPost := by
  intro f
  refine ⟨fun s tile ds => .of_body fun st => ⟨_, exec_mma f st, fun e ⟨hfine, hd, hroom⟩ => ?mma⟩,
    fun tile => .of_body fun st => ⟨_, exec_mzero f st, fun e ⟨ht, hroom⟩ => ?mzero⟩,
    fun s tile ds => .of_body fun st => ⟨_, exec_mst f st, fun e ⟨hfine, hd, hroom⟩ => ?mst⟩,
    fun s tile ds => .of_body fun st => ⟨_, exec_mld f st, fun e ⟨hfine, hd, hroom⟩ => ?mld⟩,
    fun tile => .of_body fun st => ⟨_, exec_mrows f st, fun e hrow => ?mrows⟩,
    fun tile => .of_body fun st => ⟨_, exec_mrowmax f st, fun e hrow => ?mrowmax⟩,
    fun tile => .of_body fun st => ⟨_, exec_mrowsum f st, fun e hrow => ?mrowsum⟩⟩
  case mma => exact ⟨_, postChecked_of_pass hfine hd hroom, rfl, rfl, rfl, rfl, rfl⟩
  case mzero => exact ⟨_, mzeroBody_of_tile ht hroom, rfl, rfl, rfl, rfl, rfl⟩
  case mst => exact ⟨_, postChecked_of_pass hfine hd hroom, rfl, rfl, rfl, rfl, rfl⟩
  case mld => exact ⟨_, postChecked_of_pass hfine hd hroom, rfl, rfl, rfl, rfl, rfl⟩
  case mrows => exact ⟨_, postRow_of_pass hrow, rfl, rfl, rfl, rfl, rfl⟩
  case mrowmax => exact ⟨_, postRow_of_pass hrow, rfl, rfl, rfl, rfl, rfl⟩
  case mrowsum => exact ⟨_, postRow_of_pass hrow, rfl, rfl, rfl, rfl, rfl⟩

/-! ## Barriers of a stream (R318, R319) -/

/-- The passes that the issuer's stream has posted, by number. -/
def earlierPasses (e : Env) : List Nat := ((e.s.comb e.ck).passes.filter fun p => p.seq = e.ag.src % 0x40).map (·.uid)

/-- Whether an arrival of the issuer's stream waits behind passes already. -/
def hasDeferred (e : Env) : Bool :=
  match Sparse.find? (e.s.comb e.ck).seqs (e.ag.src % 0x40) with
  | some x => !x.deferred.isEmpty
  | none => false

/-- The arrival that the issuer's stream puts behind its passes (R318). -/
def deferredArrival (f : SForm) (e : Env) : Deferred :=
  ⟨e.s.nextUid, e.ag.src % 0x40, earlierPasses e, e.th.pc, f.imm.toNat % 16, f.imm.toNat / 16 % 256, none⟩

/-- The state with an arrival of the issuer's stream put behind the passes posted before it (R318). -/
def withDeferred (f : SForm) (e : Env) : State :=
  { e.s with nextUid := e.s.nextUid + 1 }.modComb e.ck fun c => c.modSeq (e.ag.src % 0x40) fun x =>
    { x with deferred := x.deferred ++ [deferredArrival f e] }

/-- An MBAR that does not wait yet: it arrives, at once or behind the passes before it (R318). -/
def mbarArrive (f : SForm) (e : Env) : Eff :=
  if f.sub.getLsbD 0 && (hasDeferred e || !(earlierPasses e).isEmpty) then
    if f.sub.getLsbD 1 then .wait (withDeferred f e) { e.th with wait := .deferred e.s.nextUid } else e.out (withDeferred f e) e.th
  else match (e.s.comb e.ck).arrive e.th.place.team (f.imm.toNat % 16) (f.imm.toNat / 16 % 256) with
    | .error x => .fault ⟨codeBARCOUNT, e.tmask, f.imm.toNat % 16, x⟩
    | .ok (c, ph) => e.mbarWait (e.s.setComb e.ck c) (f.sub.getLsbD 1) (f.imm.toNat % 16) ph

/-- MBAR, by what its thread waits for (R318). -/
def mbarBody (f : SForm) (e : Env) : Eff :=
  match e.th.wait with
  | .phase b ph => e.mbarWait e.s (f.sub.getLsbD 1) b ph
  | .deferred u => e.block (.deferred u)
  | _ => mbarArrive f e

theorem exec_mbar (f : SForm) (s : State) : exec (.mbar f) s = issue s (ruleMbar f) (mbarBody f) := rfl

theorem exec_mwaitb (f : SForm) (s : State) : exec (.mwaitb f) s = issue s (ruleMwaitb f) fun e =>
    if ((e.s.comb e.ck).phases e.th.place.team (f.imm.toNat % 16) + 2 ^ 16 - (e.s.comb e.ck).seen (e.ag.src % 0x40) (f.imm.toNat % 16)) % 2 ^ 16 = 0
    then e.block .again
    else e.out (e.s.modComb e.ck fun c => c.setSeen (e.ag.src % 0x40) (f.imm.toNat % 16)
      (((e.s.comb e.ck).seen (e.ag.src % 0x40) (f.imm.toNat % 16) + 1) % 2 ^ 16)) e.th := rfl

section
variable {e : Env} {f : SForm} {x : Comb × Nat} {y : Seq}

/-- Nothing of the issuer's stream is queued before an arrival. -/
def NothingBefore (e : Env) (y : Seq) : Prop :=
  Sparse.find? (e.s.comb e.ck).seqs (e.ag.src % 0x40) = some y ∧ y.deferred = [] ∧
    ((e.s.comb e.ck).passes.filter fun p => p.seq = e.ag.src % 0x40) = []

/-- An MBAR with nothing to follow arrives at once (R318). -/
theorem mbarBody_of_arrival (hw : e.th.wait = .none) (hfirst : f.sub.getLsbD 0 = true → NothingBefore e y)
    (ha : (e.s.comb e.ck).arrive e.th.place.team (f.imm.toNat % 16) (f.imm.toNat / 16 % 256) = .ok x) :
    mbarBody f e = e.mbarWait (e.s.setComb e.ck x.1) (f.sub.getLsbD 1) (f.imm.toNat % 16) x.2 := by
  simp only [mbarBody, hw, mbarArrive, ha]
  refine if_neg fun h => ?_
  obtain ⟨hdone, hbefore⟩ := Bool.and_eq_true_iff.mp h
  obtain ⟨hseq, hdef, hpasses⟩ := hfirst hdone
  simp [hasDeferred, hseq, hdef, earlierPasses, hpasses] at hbefore

/-- An MBAR with DONE behind passes of its stream is queued behind them (R318). -/
theorem mbarBody_of_deferred (hw : e.th.wait = .none) (hdone : f.sub.getLsbD 0 = true) (hwait : f.sub.getLsbD 1 = false)
    (hp : ((e.s.comb e.ck).passes.filter fun p => p.seq = e.ag.src % 0x40) ≠ []) : mbarBody f e = e.out (withDeferred f e) e.th := by
  have hbehind : (earlierPasses e).isEmpty = false := by simpa [earlierPasses] using hp
  simp only [mbarBody, hw, mbarArrive, hdone, hwait, hbehind, Bool.not_false, Bool.or_true, Bool.and_true]
  rfl

theorem mbarWait_of_complete {s : State} {b ph : Nat} (h : (s.comb e.ck).phases e.th.place.team b ≠ ph) :
    e.mbarWait s true b ph = e.out (s.modComb e.ck fun c => c.setSeen (e.ag.src % 0x40) b ((s.comb e.ck).phases e.th.place.team b)) e.th :=
  if_pos h

theorem mbarWait_of_running {s : State} {b ph : Nat} (h : (s.comb e.ck).phases e.th.place.team b = ph) :
    e.mbarWait s true b ph = .wait s { e.th with wait := .phase b ph } := if_neg (not_not_intro h)

end

theorem streamBarriers : Claim.StreamBarriers := by
  intro f
  refine ⟨fun x y => .of_body fun s => ⟨_, exec_mbar f s, fun e ⟨hw, hwait, hfirst, ha⟩ => ?arrives⟩,
    fun x => .of_body fun s => ⟨_, exec_mbar f s, fun e ⟨hw, hdone, hwait, hx, hp⟩ => ?deferred⟩,
    fun x y => .of_body fun s => ⟨_, exec_mbar f s, fun e ⟨hw, hwait, hfirst, ha, hph⟩ => ?waits⟩,
    fun b ph => .of_body fun s => ⟨_, exec_mbar f s, fun e ⟨hw, hwait, hph⟩ => ?goesOn⟩,
    fun x y => .of_body fun s => ⟨_, exec_mbar f s, fun e ⟨hw, hwait, hfirst, ha, hph⟩ => ?passes⟩,
    .of_body fun s => ⟨_, exec_mwaitb f s, fun e hne => ?takes⟩,
    .of_body fun s => ⟨_, exec_mwaitb f s, fun e heq => ?nothing⟩⟩
  case arrives => exact ⟨_, (mbarBody_of_arrival hw hfirst ha).trans (by rw [hwait]; rfl), rfl, rfl⟩
  case deferred =>
    refine ⟨_, mbarBody_of_deferred hw hdone hwait hp, rfl, rfl, rfl, deferredArrival f e, ?_, rfl⟩
    have hx' : Sparse.find? (({ e.s with nextUid := e.s.nextUid + 1 } : State).comb e.ck).seqs (e.ag.src % 0x40) = some x := hx
    simp only [withDeferred, State.comb_modComb_self, modSeq_of_find hx', Sparse.find?_put_self]
  case waits => exact ⟨_, _, (mbarBody_of_arrival hw hfirst ha).trans (by rw [hwait, mbarWait_of_running hph]), rfl, rfl⟩
  case goesOn => exact ⟨_, by simp only [mbarBody, hw, hwait, mbarWait_of_complete hph]; rfl, rfl, rfl, rfl, rfl, rfl⟩
  case passes =>
    refine ⟨_, (mbarBody_of_arrival hw hfirst ha).trans (by rw [hwait, mbarWait_of_complete hph]; rfl), rfl, rfl, rfl, rfl, ?_⟩
    simp only [State.comb_setComb_self]
  case takes => exact ⟨_, if_neg hne, rfl, rfl⟩
  case nothing => exact ⟨_, _, if_pos heq, rfl, rfl⟩

/-- Settles O25: an instruction that passes the checks of R313 adds one pass, and MBAR and MWAITB go by what is queued. -/
theorem matrixPasses : Obligations.MatrixPasses := ⟨passesPost, streamBarriers⟩

end Sys2Proof.Proofs
end

section
namespace Sys2Proof.Proofs
open Sys2Proof Sys2Proof.Machine

/-! # Subscriptions and flow images (R402, R403, R413 to R415) -/

/-! ## What the notes of accesses leave of a die (R200, R225) -/

section
variable {β : Type} {g : Die → β}

theorem view_die_modDie {f : Die → Die} (h : ∀ x, g (f x) = g x) (s : State) (d k : Nat) : g ((s.modDie d f).die k) = g (s.die k) := by
  by_cases hk : k = d
  · rw [hk, State.die_modDie_self, h]
  · rw [State.die_modDie_ne _ _ hk]

theorem dies_tileWordBack (s : State) (a : Nat) (x : Word) : (s.tileWordBack a x).dies = s.dies := by
  have h : (s.wordBack (a / 4) x).dies = s.dies := by
    unfold State.wordBack
    dsimp only
    split <;> rfl
  unfold State.tileWordBack
  dsimp only
  split
  · exact h
  · split <;> exact h

/-- Noting accesses changes nothing of a die but its TLB and its replica directory. -/
theorem view_die_noteAccs (htlb : ∀ d t, g { d with dtlb := t } = g d) (hrep : ∀ d r, g { d with replicas := r } = g d)
    (s : State) (ck ctx : Nat) (acc : Access) (as : List LaneAcc) (k : Nat) : g ((s.noteAccs ck ctx acc as).die k) = g (s.die k) := by
  have hnote (s : State) (l : Leaf) : g ((s.tlbNote ck ctx acc l).die k) = g (s.die k) := view_die_modDie (fun _ => htlb _ _) _ _ _
  have hnotes := view_foldl (fun s : State => g (s.die k)) (f := fun s (a : LaneAcc) => (s.tlbNote ck ctx acc a.leaf).tlbNote ck ctx acc a.last)
    (fun s a => (hnote _ _).trans (hnote _ _)) as s
  unfold State.noteAccs
  dsimp only
  split
  · refine Eq.trans ?_ hnotes
    unfold State.replicaFetch
    refine (view_foldl (fun s : State => g (s.die k)) (fun s r => view_die_modDie (fun _ => hrep _ _) _ _ _) _ _).trans ?_
    refine view_foldl (fun s : State => g (s.die k)) (fun s r => view_foldl (fun s : State => g (s.die k)) (fun s i => ?_) _ _) _ _
    exact congrArg (fun x : List (Nat × Die) => g (Sparse.get Die.reset x k)) (dies_tileWordBack ..)
  · exact hnotes

theorem liveDies_of_live {s t : State} (h : ∀ d, (t.die d).live = (s.die d).live) : t.liveDies = s.liveDies :=
  List.filter_congr fun d _ => h d

theorem liveDies_noteAccs (s : State) (ck ctx : Nat) (acc : Access) (as : List LaneAcc) : (s.noteAccs ck ctx acc as).liveDies = s.liveDies :=
  liveDies_of_live (view_die_noteAccs (fun _ _ => rfl) (fun _ _ => rfl) s ck ctx acc as)

/-- What a change of dies establishes on each die holds, after the change of a list of dies, on each die of the list. -/
theorem foldl_modDie_of_mem {P : Nat → Die → Prop} {f : Nat → Die → Die} (hf : ∀ d x, P d (f d x)) {d : Nat} {ds : List Nat} (hd : d ∈ ds) (s : State) :
    P d ((ds.foldl (fun s d => s.modDie d (f d)) s).die d) := by
  have keep : ∀ (ds : List Nat) (s : State), P d (s.die d) → P d ((ds.foldl (fun s d => s.modDie d (f d)) s).die d) := fun ds s h =>
    foldl_inv (fun s => P d (s.die d)) _ (fun s k hs => by
      by_cases hk : d = k
      · rw [← hk, State.die_modDie_self]; exact hf d _
      · rwa [State.die_modDie_ne _ _ hk]) ds s h
  induction ds generalizing s with
  | nil => cases hd
  | cons k ds ih =>
    rcases List.mem_cons.mp hd with rfl | hmem
    · exact keep ds _ (by rw [State.die_modDie_self]; exact hf _ _)
    · exact ih hmem _

end

/-! ## CSUB and its cancel (R413 to R415) -/

/-- A part of a subscription record in scratch: `n` bytes from the offset `o` of the address in A. -/
def csubBytes (f : SForm) (e : Env) (o n : Nat) : List Byte :=
  (List.range n).map fun i => e.s.rawByte (scratchLoc e.ck ((e.read32 f.a 0).toNat + o + i))

section
variable (bytes : Nat → Nat → List Byte) (f : SForm) (e : Env)

/-- A field of a subscription record (R413). The record's bytes are an argument of all that follows: only CSUB itself says where
they stand. -/
def csubField (o n : Nat) : Nat := leNat (((bytes 0 64).drop o).take n)

/-- The flow and the location of a subscription, its time, its action, and whether the flow has the location (R413). -/
def csubFlowNo : Nat := csubField bytes 8 4 % 16
def csubLoc : Nat := csubField bytes 8 4 / 256 % 64
def csubTime : Nat := csubField bytes 0 8
def csubAction : Nat := csubField bytes 8 4 / 2 ^ 16 % 4
def csubFlow : Option Flow := e.s.findFlow (keyDie e.ck) e.ctxNo (csubFlowNo bytes)
def csubHigh : Bool :=
  match csubFlow bytes e with
  | some y => decide (y.nloc ≤ csubLoc bytes)
  | none => false

/-- The request that a subscription record makes (R414). -/
def csubAsk (a : SubAction) : Eff :=
  e.csubReq (keyDie e.ck) none (some ⟨e.ctxNo, csubFlowNo bytes, csubLoc bytes, BitVec.ofNat 64 (csubTime bytes), a, e.ck, none⟩)
    (e.th.holds (csubFlowNo bytes))

/-- The task record of a SPAWN action (R414). -/
def csubRecord : TaskRec := TaskRec.ofBytes (bytes 64 64)

/-- Whether the record of a SPAWN action lies before what the crest allows it (R404, R414). -/
def csubEarly : Bool :=
  match csubFlow bytes e with
  | some y =>
    if summValid (y.summary (csubLoc bytes) (csubRecord bytes).station) then
      (match applyS y.widths (y.summary (csubLoc bytes) (csubRecord bytes).station) (csubTime bytes) with
        | some b => decide ((csubRecord bytes).time.toNat < b)
        | none => true) else true
  | none => false

/-- Whether the subscription lies before what the issuer's own pointstamp allows it (R404). -/
def csubBack : Bool :=
  match csubFlow bytes e with
  | some y => e.th.timeBack y (csubLoc bytes) (csubTime bytes)
  | none => false

/-- A SPAWN action whose record breaks no rule and whose target is known (R414). -/
def csubSpawn (die lc : Nat) : Eff :=
  if (csubRecord bytes).flow ≠ csubFlowNo bytes then e.fault codeBADSPEC f.a.code 0 else
  if csubEarly bytes e then e.timeBack (csubRecord bytes).time.toNat
  else if csubBack bytes e then e.timeBack (csubTime bytes)
  else csubAsk bytes e (.spawn (csubRecord bytes) die lc)

/-- What a subscription record asks for by its ACTION (R413, R414). -/
def csubAct : Nat → Eff
  | 0 => e.subTarget f.a (csubField bytes 12 4) fun die lc => csubAsk bytes e (.post die lc)
  | 2 => e.subTarget f.a (csubField bytes 12 4) fun die lc => csubAsk bytes e (.fifo die lc (csubField bytes 16 4))
  | _ =>
    if e.s.recBad (keyDie e.ck) e.ctxNo (bytes 64 64) then e.fault codeBADSPEC f.a.code 0
    else e.spawnTarget f.a (csubRecord bytes) (csubSpawn bytes f e)

/-- The second half of a record's range, which the SPAWN action alone has (R415). -/
def csubSpawnFault (act : Nat) : Option TrapInfo :=
  if act = 1 then e.scratchFault 128 64 [(0, (e.read32 f.a 0).toNat)] else none

/-- A record of an action in range (R415). -/
def csubOf (act : Nat) : Eff :=
  match csubSpawnFault f e act with
  | some g => .fault g
  | none => if csubBad (bytes 0 64) || csubHigh bytes e then e.fault codeBADSPEC f.a.code 0 else csubAct bytes f e act

/-- CSUB that has asked nothing yet (R415). -/
def csubBody : Eff :=
  match e.scratchFault 64 64 [(0, (e.read32 f.a 0).toNat)] with
  | some t => .fault t
  | none => csubOf bytes f e (csubAction bytes)

end

/-- CSUB, with the record's bytes abstracted before its branches are compared: they are not to be evaluated. -/
theorem exec_csub (f : SForm) (s : State) : exec (.csub f) s = issue s (ruleCsub f) fun e => e.answered f.d fun _ => csubBody (csubBytes f e) f e := by
  show execCsub f s = _
  unfold execCsub
  refine congrArg (issue s (ruleCsub f)) (funext fun e => congrArg (e.answered f.d) (funext fun _ => ?_))
  extract_lets -underBinder x bytes bad
  show _ = csubBody bytes f e
  obtain ⟨b, hb⟩ : ∃ b, b = bytes := ⟨_, rfl⟩
  rw [← hb]
  rfl

/-- CSUB.cancel that has asked nothing yet (R415). -/
def csubCancelBody (f : SForm) (e : Env) : Eff :=
  match (e.s.die (keyDie e.ck)).lmap[(e.read32 f.a 0).toNat / 256 % 64]? with
  | none => e.fault codeBADSPEC f.a.code 0
  | some phys =>
    if (e.read32 f.a 0).toNat / 2 ^ 18 ≠ 0 then e.fault codeBADSPEC f.a.code 0
    else if (e.read32 f.a 0).toNat / 2 ^ 14 % 16 ≠ (e.s.die (keyDie e.ck)).gen.toNat then e.fault codeSTALEGEN f.a.code 0
    else e.csubReq phys (some ((e.read32 f.a 0).toNat % 256)) none false

theorem exec_csubCancel (f : SForm) (s : State) :
    exec (.csubCancel f) s = issue s (ruleCsubCancel f) fun e => e.answered f.d fun _ => csubCancelBody f e := rfl

section
variable {e : Env} {f : SForm} {bytes : Nat → Nat → List Byte}

theorem answered_of_first {d : Spec} {k : Unit → Eff} (h : e.th.wait = .none) : e.answered d k = k () := by
  simp only [Env.answered, h]

theorem answered_of_answer {d : Spec} {k : Unit → Eff} {v : Nat} (h : e.th.wait = .answered v) :
    e.answered d k = e.done (e.write32 d false [(0, BitVec.ofNat 32 v)]) := by
  simp only [Env.answered, h]

/-- A location that every flow found has is not past any flow's NLOC. -/
theorem csubHigh_of_below (h : ∀ y, csubFlow bytes e = some y → csubLoc bytes < y.nloc) : csubHigh bytes e = false := by
  unfold csubHigh
  split
  next y hy => simpa using h y hy
  next => rfl

theorem csubSpawnFault_eq_none {act : Nat} (h : act = 1 → e.scratchFault 128 64 [(0, (e.read32 f.a 0).toNat)] = none) : csubSpawnFault f e act = none := by
  unfold csubSpawnFault
  split
  next h1 => exact h h1
  next => rfl

/-- A subscription record of an action that no check stops (R413). -/
structure CsubGood (bytes : Nat → Nat → List Byte) (f : SForm) (e : Env) (act : Nat) : Prop where
  fault : e.scratchFault 64 64 [(0, (e.read32 f.a 0).toNat)] = none
  bad : csubBad (bytes 0 64) = false
  action : csubAction bytes = act
  below : ∀ y, csubFlow bytes e = some y → csubLoc bytes < y.nloc

theorem csubBody_of_good {act : Nat} (h : CsubGood bytes f e act) (hspawn : act = 1 → e.scratchFault 128 64 [(0, (e.read32 f.a 0).toNat)] = none) :
    csubBody bytes f e = csubAct bytes f e act := by
  simp only [csubBody, h.fault, h.action, csubOf, csubSpawnFault_eq_none hspawn, h.bad, csubHigh_of_below h.below, Bool.or_self, Bool.false_eq_true, if_false]

theorem csubBody_of_bad (hf : e.scratchFault 64 64 [(0, (e.read32 f.a 0).toNat)] = none)
    (hspawn : csubAction bytes = 1 → e.scratchFault 128 64 [(0, (e.read32 f.a 0).toNat)] = none)
    (hbad : csubBad (bytes 0 64) = true) : csubBody bytes f e = e.fault codeBADSPEC f.a.code 0 := by
  simp only [csubBody, hf, csubOf, csubSpawnFault_eq_none hspawn, hbad, Bool.true_or, if_true]

theorem subTarget_of_ok {a : Spec} {name p l : Nat} {k : Nat → Nat → Eff} (h : e.s.nameRes (keyDie e.ck) name = .ok p l) :
    e.subTarget a name k = k p l := by
  simp only [Env.subTarget, h]

/-- Where the record of a SPAWN action goes: the issuing comb, a comb by name, or any comb of a die (R414). -/
def SpawnsTo (e : Env) (r : TaskRec) (p l : Nat) : Prop :=
  (r.sel = 0 ∧ p = keyDie e.ck ∧ l = (e.s.die (keyDie e.ck)).lcomb (keyComb e.ck)) ∨ (r.sel = 1 ∧ e.s.nameRes (keyDie e.ck) r.target.toNat = .ok p l) ∨
    (r.sel = 2 ∧ l = 0xFF ∧ (e.s.die (keyDie e.ck)).lmap[r.target.toNat % 64]? = some p ∧ r.target.toNat < 2 ^ 10 ∧
      r.target.toNat / 64 % 16 = (e.s.die (keyDie e.ck)).gen.toNat)

theorem spawnTarget_of_target {a : Spec} {r : TaskRec} {p l : Nat} {k : Nat → Nat → Eff} (h : SpawnsTo e r p l) : e.spawnTarget a r k = k p l := by
  rcases h with ⟨hsel, rfl, rfl⟩ | ⟨hsel, hname⟩ | ⟨hsel, rfl, hmap, hsmall, hgen⟩
  · simp only [Env.spawnTarget, hsel]
  · simp only [Env.spawnTarget, hsel, subTarget_of_ok hname]
  · simp only [Env.spawnTarget, hsel, hmap]
    rw [if_neg (by omega), if_neg (not_not_intro hgen)]

/-- The record of a SPAWN action at or after what the crest allows it (R404). -/
def CsubLate (bytes : Nat → Nat → List Byte) (e : Env) : Prop :=
  ∃ y b, csubFlow bytes e = some y ∧ summValid (y.summary (csubLoc bytes) (csubRecord bytes).station) = true ∧
    applyS y.widths (y.summary (csubLoc bytes) (csubRecord bytes).station) (csubTime bytes) = some b ∧ b ≤ (csubRecord bytes).time.toNat

theorem csubEarly_of_late (h : CsubLate bytes e) : csubEarly bytes e = false := by
  obtain ⟨y, b, hy, hv, hb, hle⟩ := h
  simpa only [csubEarly, hy, hv, hb, if_true, decide_eq_false_iff_not, not_lt] using hle

theorem csubBack_of_onTime (h : ∀ y, csubFlow bytes e = some y → e.th.timeBack y (csubLoc bytes) (csubTime bytes) = false) : csubBack bytes e = false := by
  unfold csubBack
  split
  next y hy => exact h y hy
  next => rfl

theorem csubAct_of_spawn {p l : Nat} (hrec : e.s.recBad (keyDie e.ck) e.ctxNo (bytes 64 64) = false)
    (hflow : (csubRecord bytes).flow = csubFlowNo bytes) (hlate : CsubLate bytes e)
    (htime : ∀ y, csubFlow bytes e = some y → e.th.timeBack y (csubLoc bytes) (csubTime bytes) = false) (hto : SpawnsTo e (csubRecord bytes) p l) :
    csubAct bytes f e 1 = csubAsk bytes e (.spawn (csubRecord bytes) p l) := by
  simp only [csubAct, hrec, spawnTarget_of_target hto, csubSpawn, hflow, csubEarly_of_late hlate, csubBack_of_onTime htime, ne_eq, not_true_eq_false,
    Bool.false_eq_true, if_false]

theorem csubCancelBody_of_handle {p : Nat} (hmap : (e.s.die (keyDie e.ck)).lmap[(e.read32 f.a 0).toNat / 256 % 64]? = some p)
    (hsmall : (e.read32 f.a 0).toNat < 2 ^ 18) :
    csubCancelBody f e = if (e.read32 f.a 0).toNat / 2 ^ 14 % 16 ≠ (e.s.die (keyDie e.ck)).gen.toNat then e.fault codeSTALEGEN f.a.code 0
      else e.csubReq p (some ((e.read32 f.a 0).toNat % 256)) none false := by
  simp only [csubCancelBody, hmap]
  exact if_neg (by omega)

theorem csubCancelBody_of_nothing (h : (e.s.die (keyDie e.ck)).lmap[(e.read32 f.a 0).toNat / 256 % 64]? = none ∨ 2 ^ 18 ≤ (e.read32 f.a 0).toNat) :
    csubCancelBody f e = e.fault codeBADSPEC f.a.code 0 := by
  unfold csubCancelBody
  split
  next => rfl
  next p hp => exact if_pos (by rcases h with h | h; · simp [h] at hp
                                · omega)

end

theorem subscriptions : Claim.Subscriptions := by
  intro f
  refine ⟨fun p l => .of_body fun s => ⟨_, exec_csub f s, fun e ⟨⟨hw, hf, hbad, hact, hbelow⟩, hn⟩ => ?post⟩,
    fun p l => .of_body fun s => ⟨_, exec_csub f s, fun e ⟨⟨hw, hf, hbad, hact, hbelow⟩, hn⟩ => ?fifo⟩,
    fun p l => .of_body fun s => ⟨_, exec_csub f s, fun e ⟨⟨hw, hf, hbad, hact, hbelow⟩, hf', hrec, hflow, hlate, htime, hto⟩ => ?spawn⟩,
    fun v => .of_body fun s => ⟨_, exec_csub f s, fun e hv => ⟨_, answered_of_answer hv, rfl, rfl⟩⟩,
    traps_of_uniform rfl fun s => ⟨_, exec_csub f s, fun e hu ⟨hw, hf, hf', hbad⟩ => ?reserved⟩,
    fun p => .of_body fun s => ⟨_, exec_csubCancel f s, fun e ⟨⟨hw, hmap⟩, hsmall, hgen⟩ => ?cancel⟩,
    fun v => .of_body fun s => ⟨_, exec_csubCancel f s, fun e hv => ⟨_, answered_of_answer hv, rfl, rfl⟩⟩,
    fun p => traps_of_uniform rfl fun s => ⟨_, exec_csubCancel f s, fun e hu ⟨⟨hw, hmap⟩, hsmall, hgen⟩ => ?stale⟩,
    traps_of_uniform rfl fun s => ⟨_, exec_csubCancel f s, fun e hu ⟨hw, hbad⟩ => ?nothing⟩⟩
  case post =>
    have hb := (csubBody_of_good (bytes := csubBytes f e) ⟨hf, hbad, hact, hbelow⟩ nofun).trans (subTarget_of_ok (a := f.a) hn)
    exact ⟨_, _, (answered_of_first hw).trans hb, rfl, rfl⟩
  case fifo =>
    have hb := (csubBody_of_good (bytes := csubBytes f e) ⟨hf, hbad, hact, hbelow⟩ nofun).trans (subTarget_of_ok (a := f.a) hn)
    exact ⟨_, _, (answered_of_first hw).trans hb, rfl, rfl⟩
  case spawn =>
    have hb := (csubBody_of_good (bytes := csubBytes f e) ⟨hf, hbad, hact, hbelow⟩ fun _ => hf').trans (csubAct_of_spawn hrec hflow hlate htime hto)
    exact ⟨_, _, (answered_of_first hw).trans hb, rfl, rfl⟩
  case reserved => exact (answered_of_first hw).trans ((csubBody_of_bad (bytes := csubBytes f e) hf hf' hbad).trans (fault_of_uniform hu ..))
  case cancel => exact ⟨_, _, (answered_of_first hw).trans ((csubCancelBody_of_handle hmap hsmall).trans (if_neg (not_not_intro hgen))), rfl, rfl⟩
  case stale =>
    exact (answered_of_first hw).trans (((csubCancelBody_of_handle hmap hsmall).trans (if_pos hgen)).trans (fault_of_uniform hu ..))
  case nothing => exact (answered_of_first hw).trans ((csubCancelBody_of_nothing hbad).trans (fault_of_uniform hu ..))

/-! ## PSWR (R402, R403) -/

/-- What a die holds once a flow is installed on it, or taken off it (R403). -/
def flowInstalled (fl : Flow) (senders : List (Nat × Nat)) (d : Nat) (x : Die) : Die :=
  let rest := x.flows.filter fun y => !(decide (y.ctx = fl.ctx) && decide (y.num = fl.num))
  { x with flows := if fl.dieset.contains d then rest ++ [fl] else rest, subs := x.subs.filter fun b => !(decide (b.2.ctx = fl.ctx) && decide (b.2.flow = fl.num)),
           applied := senders.foldl (fun m n => Sparse.set 0 m ((fl.ctx * 16 + fl.num) * 2 ^ 16 + n.1) n.2) x.applied }

/-- The state without the batches of a flow that a load replaces (R403). -/
def withoutBatches (s : State) (fl : Flow) : State :=
  { s with batches := s.batches.filter fun b => !(decide (b.ctx = fl.ctx) && decide (b.flow = fl.num)) }

theorem installFlow_eq (s : State) (fl : Flow) : s.installFlow fl = (withoutBatches s fl).liveDies.foldl
    (fun t d => t.modDie d (flowInstalled fl (s.flowSenders fl.ctx fl.num) d)) (withoutBatches s fl) := rfl

/-- A die that has a flow as a load leaves it: its image, or none of that number, and no subscription to it (R403). -/
def HoldsImage (fl : Flow) (d : Nat) (x : Die) : Prop :=
  x.flow fl.ctx fl.num = (if fl.dieset.contains d then some fl else none) ∧ ∀ y ∈ x.subs, ¬ (y.2.ctx = fl.ctx ∧ y.2.flow = fl.num)

theorem holdsImage_flowInstalled (fl : Flow) (senders : List (Nat × Nat)) (d : Nat) (x : Die) : HoldsImage fl d (flowInstalled fl senders d x) := by
  have hrest : (x.flows.filter fun y => !(decide (y.ctx = fl.ctx) && decide (y.num = fl.num))).find?
      (fun y => decide (y.ctx = fl.ctx) && decide (y.num = fl.num)) = none := by
    simp only [List.find?_eq_none, List.mem_filter]
    exact fun y hy => by simpa [Bool.and_eq_true, imp_iff_not_or] using hy.2
  refine ⟨?_, fun y hy => ?_⟩
  · simp only [flowInstalled, Die.flow]
    split
    · rw [List.find?_append, hrest]
      simp
    · exact hrest
  · simpa [imp_iff_not_or] using (List.mem_filter.mp hy).2

/-- An installed flow stands on each live die as its image says. -/
theorem holdsImage_installFlow {s : State} {fl : Flow} {d : Nat} (h : d ∈ s.liveDies) : HoldsImage fl d ((s.installFlow fl).die d) := by
  rw [installFlow_eq]
  exact foldl_modDie_of_mem (P := HoldsImage fl) (holdsImage_flowInstalled fl _) h _

/-- A misaligned image's fault (R403). -/
def pswrMisaligned (f : SForm) (e : Env) : Eff :=
  .fault ⟨codeDALIGN, e.th.em, (e.read64 f.a 0).toNat % 2 ^ 32, (e.read64 f.a 0).toNat / 2 ^ 32⟩

/-- The flow that an image's bytes say, for the number in B (R402). -/
def imageFlow (f : SForm) (e : Env) (bytes : List Byte) : Flow := Flow.ofImage e.ctxNo ((e.read32 f.b 0).toNat % 16) bytes

/-- PSWR with the bytes of its image, on the state with its accesses noted (R403). -/
def pswrImage (f : SForm) (e : Env) (s : State) (bytes : List Byte) : Eff :=
  if e.s.flowStatus bytes (imageFlow f e bytes) = 0 then
    { e with s := s.installFlow (imageFlow f e bytes) }.broadcast (.flow (imageFlow f e bytes)) fun v => e.done (e.write32 f.d false [(0, BitVec.ofNat 32 v)])
  else .ok ⟨s, e.th, e.write32 f.d false [(0, BitVec.ofNat 32 (e.s.flowStatus bytes (imageFlow f e bytes)))], 0, none, .seq⟩

/-- PSWR that has asked nothing yet (R403). -/
def pswrAsk (f : SForm) (e : Env) : Eff :=
  match e.laneAccs .read (fun _ => 4160) 1 false [(0, (e.read64 f.a 0).toNat)] with
  | .error t => if t.cause = codeDERR ∧ (e.read64 f.a 0).toNat % 64 ≠ 0 then pswrMisaligned f e else .fault t
  | .ok as =>
    if (e.read64 f.a 0).toNat % 64 ≠ 0 then pswrMisaligned f e
    else if e.s.stores.any fun st => decide (st.agentUid = e.th.uid) && overlaps st.locs (as.flatMap (·.locs)) then e.block .again
    else pswrImage f e (e.s.noteAccs e.ck e.ctxNo .read as) ((as.flatMap (·.locs)).map e.s.byteNow)

/-- PSWR, by what its thread waits for (R403). -/
def pswrBody (f : SForm) (e : Env) : Eff :=
  match e.th.wait with
  | .answered v => e.done (e.write32 f.d false [(0, BitVec.ofNat 32 v)])
  | .answer u => e.block (.answer u)
  | _ => pswrAsk f e

theorem exec_pswr (f : SForm) (s : State) : exec (.pswr f) s = issue s (rulePswr f) (pswrBody f) := rfl

section
variable {e : Env} {f : SForm} {as : List LaneAcc}

theorem pswrBody_of_first (h : e.th.wait = .none) : pswrBody f e = pswrAsk f e := by simp only [pswrBody, h]

/-- An image that no store of the issuer still has to reach (R403). -/
theorem pswrAsk_of_readable (has : e.laneAccs .read (fun _ => 4160) 1 false [(0, (e.read64 f.a 0).toNat)] = .ok as)
    (hal : (e.read64 f.a 0).toNat % 64 = 0)
    (hst : (e.s.stores.any fun st => decide (st.agentUid = e.th.uid) && overlaps st.locs (as.flatMap (·.locs))) = false) :
    pswrAsk f e = pswrImage f e (e.s.noteAccs e.ck e.ctxNo .read as) ((as.flatMap (·.locs)).map e.s.byteNow) := by
  simp only [pswrAsk, has, hal, hst, ne_eq, not_true_eq_false, Bool.false_eq_true, if_false]

theorem pswrAsk_of_misaligned (has : e.laneAccs .read (fun _ => 4160) 1 false [(0, (e.read64 f.a 0).toNat)] = .ok as)
    (hal : (e.read64 f.a 0).toNat % 64 ≠ 0) : pswrAsk f e = pswrMisaligned f e := by
  simp only [pswrAsk, has, hal, ne_eq, not_false_eq_true, if_true]

/-- The live dies stay live as a flow is installed. -/
theorem liveDies_installFlow (s : State) (fl : Flow) : (s.installFlow fl).liveDies = s.liveDies := by
  refine liveDies_of_live fun d => ?_
  rw [installFlow_eq]
  exact view_foldl (fun t : State => (t.die d).live) (f := fun t d => t.modDie d (flowInstalled fl (s.flowSenders fl.ctx fl.num) d))
    (fun t k => view_die_modDie (g := Die.live) (f := flowInstalled fl _ k) (fun _ => rfl) t k d) _ _

theorem pswrImage_of_accepted {s : State} {bytes : List Byte} (h : e.s.flowStatus bytes (imageFlow f e bytes) = 0) (hw : e.th.wait = .none) :
    pswrImage f e s bytes = .wait { s.installFlow (imageFlow f e bytes) with
        nextUid := (s.installFlow (imageFlow f e bytes)).nextUid + 1
        bcasts := (s.installFlow (imageFlow f e bytes)).bcasts ++
          [⟨(s.installFlow (imageFlow f e bytes)).nextUid, e.ag, e.th.uid, s.liveDies, .flow (imageFlow f e bytes)⟩] }
      { e.th with wait := .answer (s.installFlow (imageFlow f e bytes)).nextUid } := by
  rw [pswrImage, if_pos h, ← liveDies_installFlow]
  exact broadcast_of_fresh (e := { e with s := s.installFlow (imageFlow f e bytes) }) _ _ (.inl hw)

end

theorem flowImages : Claim.FlowImages := by
  intro f
  refine ⟨fun as => .of_body fun s => ⟨_, exec_pswr f s, fun e ⟨⟨hw, has, hal, hst⟩, hok⟩ => ?installs⟩,
    fun v => .of_body fun s => ⟨_, exec_pswr f s, fun e hv => ?answered⟩,
    fun as => .of_body fun s => ⟨_, exec_pswr f s, fun e ⟨⟨hw, has, hal, hst⟩, hbad⟩ => ?refused⟩,
    fun as => .of_body fun s => ⟨_, exec_pswr f s, fun e ⟨hw, has, hal⟩ => ?misaligned⟩⟩
  case installs =>
    have hbody := (pswrBody_of_first hw).trans ((pswrAsk_of_readable has hal hst).trans (pswrImage_of_accepted hok hw))
    refine ⟨_, _, hbody, _, rfl, ⟨_, List.mem_append_right _ (List.mem_singleton_self _), rfl, rfl, liveDies_noteAccs ..⟩, fun d hd => ?_⟩
    exact holdsImage_installFlow ((liveDies_noteAccs e.s e.ck e.ctxNo .read as).symm ▸ hd)
  case answered => exact ⟨_, by simp only [pswrBody, hv]; rfl, rfl, rfl⟩
  case refused => exact ⟨_, (pswrBody_of_first hw).trans ((pswrAsk_of_readable has hal hst).trans (if_neg hbad)), rfl, rfl, rfl⟩
  case misaligned => exact (pswrBody_of_first hw).trans (pswrAsk_of_misaligned has hal)

/-! ## What a subscription answers (R415) -/

theorem subscriptionAnswers : Claim.SubscriptionAnswers := by
  intro s die q b
  refine ⟨fun h => ?noFlow, fun f h hf => ?failed, fun f h hf hn => ?full, fun f n h hf hn ha => ?taken⟩
  case noFlow => simp only [State.subscribe, h]
  case failed => simp only [State.subscribe, h, hf, if_true]
  case full => simp only [State.subscribe, h, hf, hn, Bool.false_eq_true, if_false]
  case taken =>
    refine ⟨s.modDie die fun d => { d with subs := Sparse.put d.subs n b }, ?_, ?_⟩
    · simp only [State.subscribe, h, hf, hn, ha, Bool.false_and, Bool.false_eq_true, if_false, State.dieName, State.die_modDie_self]
      rfl
    · rw [State.die_modDie_self]
      exact Sparse.find?_put_self ..

/-- Settles O31: the request of a record that no check stops, the install of an image, and what the unit answers. -/
theorem subscriptionsAndFlows : Obligations.SubscriptionsAndFlows := ⟨subscriptions, flowImages, subscriptionAnswers⟩

end Sys2Proof.Proofs
end

section
namespace Sys2Proof.Proofs
open Sys2Proof Sys2Proof.Machine

/-! # The frontier unit (R405 to R410, R413, R415) -/

/-! ## Counts (R405, R408) -/

/-- What an entry adds to the count of a location, a time and a side. -/
def addsAt (x : CountEnt) (loc : Nat) (t : DWord) (note : Bool) : Int := if x.loc = loc ∧ x.time = t ∧ x.note = note then x.delta else 0

/-- The count of a location, a time and a side: the sum of its entries (R405). -/
def countOf (l : List CountEnt) (loc : Nat) (t : DWord) (note : Bool) : Int :=
  ((l.filter fun x => x.loc = loc ∧ x.time = t ∧ x.note = note).map (·.delta)).sum

section
variable (x e : CountEnt) (xs : List CountEnt) (loc : Nat) (t : DWord) (note : Bool)

theorem countOf_nil : countOf [] loc t note = 0 := rfl

theorem countOf_cons : countOf (x :: xs) loc t note = addsAt x loc t note + countOf xs loc t note := by
  rw [countOf, List.filter_cons, addsAt]
  split
  next h => rw [if_pos (by simpa using h)]; rfl
  next h => rw [if_neg (by simpa using h), zero_add]; rfl

/-- Two entries of one location, time and side add up as one of their sum. -/
theorem addsAt_add (h : x.loc = e.loc ∧ x.time = e.time ∧ x.note = e.note) :
    addsAt { x with delta := x.delta + e.delta } loc t note = addsAt x loc t note + addsAt e loc t note := by
  obtain ⟨hloc, htime, hnote⟩ := h
  simp only [addsAt, hloc, htime, hnote]
  split <;> rfl

/-- An entry at 0 adds nothing. -/
theorem addsAt_of_zero (h : x.delta = 0) : addsAt x loc t note = 0 := by
  rw [addsAt, h, ite_self]

/-- Adding an entry adds its delta to its count and to no other (R408). -/
theorem countOf_addCount : countOf (addCount xs e) loc t note = countOf xs loc t note + addsAt e loc t note := by
  induction xs with
  | nil =>
    rw [addCount]
    split
    next h => rw [countOf_nil, addsAt_of_zero e loc t note h]; rfl
    next => rw [countOf_cons, countOf_nil, add_comm]
  | cons x xs ih =>
    rw [addCount, countOf_cons]
    split
    next hsame =>
      have hadd := addsAt_add x e loc t note hsame
      split
      next hzero =>
        rw [addsAt_of_zero { x with delta := x.delta + e.delta } loc t note hzero] at hadd
        omega
      next => rw [countOf_cons, hadd]; omega
    next => rw [countOf_cons, ih]; omega

/-- No entry that is added, or that it is added to, is left at 0 (R408). -/
theorem addCount_ne_zero (h : ∀ y ∈ xs, y.delta ≠ 0) : ∀ y ∈ addCount xs e, y.delta ≠ 0 := by
  induction xs with
  | nil =>
    rw [addCount]
    split
    next => simp
    next hne => simpa using hne
  | cons x xs ih =>
    obtain ⟨hx, hxs⟩ := List.forall_mem_cons.mp h
    rw [addCount]
    split
    next =>
      split
      next => exact hxs
      next hne => exact List.forall_mem_cons.mpr ⟨hne, hxs⟩
    next => exact List.forall_mem_cons.mpr ⟨hx, ih hxs⟩

end

theorem countsAdd : Claim.CountsAdd := fun es e loc t note => ⟨countOf_addCount e es loc t note, addCount_ne_zero e es⟩

/-! ## Events (R406 to R410, R413, R415) -/

theorem frontierEvents : Claim.FrontierEvents := by
  intro s die
  refine ⟨fun i b hi hb => ?apply, fun i b hi hb => ?acknowledge, fun i e hroom he => ?merge, fun q b hq hring hcancel hsub => ?subscribe,
    fun q n hq hring hcancel => ?unsubscribe⟩
  case apply =>
    show execBatchApply die s = _
    simp only [execBatchApply, hi, hb]
  case acknowledge =>
    show execBatchAcknowledgement die s = _
    simp only [execBatchAcknowledgement, hi, hb]
  case merge =>
    show execPendingTimeMerge die s = _
    simp only [execPendingTimeMerge, if_pos hroom, he]
  case subscribe =>
    show execCsubRequestArrival die s = _
    simp only [execCsubRequestArrival, hq, hring, hcancel, hsub]
  case unsubscribe =>
    show execCsubRequestArrival die s = _
    simp only [execCsubRequestArrival, hq, hring, hcancel]

/-- Settles O39: each event acts on the entry it finds, and adding an entry adds its delta to its own count alone. -/
theorem frontierUnit : Obligations.FrontierUnit := ⟨frontierEvents, countsAdd⟩

end Sys2Proof.Proofs
end

section
namespace Sys2Proof.Proofs
open Sys2Proof Sys2Proof.Machine

/-! # Reduction trees (R427, R428) -/

/-! ## The trees of the dies -/

section
variable (s : State) (die t : Nat) (x : Tree)

@[simp] theorem tree_setTree_self : (s.setTree die t x).tree die t = some x := by
  rw [State.setTree, State.tree, State.die_modDie_self]
  exact Sparse.find?_put_self ..

theorem tree_setTree_ne {d : Nat} (h : d ≠ die) : (s.setTree die t x).tree d t = s.tree d t := by
  rw [State.setTree, State.tree, State.die_modDie_ne _ _ h]
  rfl

end

/-! ## NRED (R428) -/

section
variable (f : SForm) (e : Env)

/-- NRED's own trap: no tree of the context that takes a local input, or one with an operation of the die under way (R428). -/
def nredTrap : Eff := .fault ⟨codeNREDEXP, e.th.em, f.imm.toNat % 16, 0⟩

/-- The scratch bytes of a vector of a tree, in whole 128 byte lines (R428). -/
def nredBytes (x : Tree) : Nat := (4 * x.count + 127) / 128 * 128

/-- The register that NRED lands its status in, if it names one (R428). -/
def nredDst : Option Nat := if f.d.kind = .sink then none else some f.d.code

/-- The lanes of the register that NRED lands in. -/
def nredLanes : List (Nat × List Nat) :=
  match nredDst f with
  | some d => [(d, [0])]
  | none => []

/-- The state with the round of a tree advanced by its NRED (R428). -/
def nextRound (x : Tree) : State := e.s.setTree (keyDie e.ck) (f.imm.toNat % 16) { x with round := (x.round + 1) % 2 ^ 32 }

/-- The operation of an NRED on a tree: it stands in RM for the tree's round (R428). -/
def nredStarts (x : Tree) : State × Thread :=
  e.async (nextRound f e x) e.th 2 1 (some 1)
    (.nred (f.imm.toNat % 16) x.round (e.read32 f.a 0).toNat (e.read32 f.b 0).toNat (nredDst f) none) (nredLanes f)

/-- NRED, by the tree that its number has on the die (R428). -/
def nredBody : Eff :=
  match e.s.tree (keyDie e.ck) (f.imm.toNat % 16) with
  | none => nredTrap f e
  | some x =>
    if decide (x.ctx ≠ e.ctxNo) || !x.mask.testBit 0 || (e.s.nredOf (keyDie e.ck) (f.imm.toNat % 16)).isSome then nredTrap f e
    else
      match e.scratchFault (nredBytes x) 128 [(0, (e.read32 f.a 0).toNat), (0, (e.read32 f.b 0).toNat)] with
      | some g => .fault g
      | none => e.out (nredStarts f e x).1 (nredStarts f e x).2

end

theorem exec_nred (f : SForm) (s : State) : exec (.nred f) s = issue s (ruleNred f) (nredBody f) := rfl

theorem reductions : Claim.Reductions := by
  intro f
  refine ⟨fun x => .of_body fun s => ⟨_, exec_nred f s, fun e ⟨⟨htree, hctx, hlocal, hnone⟩, hf⟩ => ?starts⟩,
    .of_body fun s => ⟨_, exec_nred f s, fun e htree => ?noTree⟩,
    fun x => .of_body fun s => ⟨_, exec_nred f s, fun e ⟨htree, hwrong⟩ => ?wrong⟩⟩
  case starts =>
    have hbody : nredBody f e = e.out (nredStarts f e x).1 (nredStarts f e x).2 := by
      simp only [nredBody, htree, hctx, hlocal, hnone, ne_eq, not_true_eq_false, decide_false, Bool.not_true, Option.isSome_none, Bool.or_self,
        Bool.false_eq_true, if_false]
      rw [show e.scratchFault (nredBytes x) 128 _ = none from hf]
    obtain ⟨op, hops, -, -, howner, hcls, hkind⟩ := async_ops e (nextRound f e x) e.th 2 1 (some 1)
      (.nred (f.imm.toNat % 16) x.round (e.read32 f.a 0).toNat (e.read32 f.b 0).toNat (nredDst f) none) (nredLanes f)
    exact ⟨_, hbody, rfl, rfl, tree_setTree_self .., op, hops, hcls, howner, hkind⟩
  case noTree => simp only [nredBody, htree, nredTrap]
  case wrong =>
    simp only [nredBody, htree]
    refine if_pos ?_
    rcases hwrong with h | h | h <;> simp [h]

/-! ## A node's partial (R427) -/

section
variable {s : State} {die t : Nat} {x : Tree}

/-- The tree of a node's parent once the node has sent its partial (R427). -/
def parentTree (s : State) (die t : Nat) (y : Tree) (r : Nat) : Option (Nat × Tree) :=
  (neighbour die y.parent).bind fun d => ((s.setTree die t { y with sent := some r }).tree d t).map fun z => (d, z)

/-- A node whose inputs of a round are all there: the root has the result, another node sends its partial to its parent (R427). -/
def partialSent (s : State) (die t : Nat) (y : Tree) (r : Nat) : State :=
  if y.parent = 0 then s.setTree die t { y with sent := some r, result := some (r, y.partialOf r) }
  else
    match parentTree s die t y r with
    | some (d, z) => (s.setTree die t { y with sent := some r }).setTree d t
        { z with inputs := z.inputs ++ [⟨opposite y.parent, r, (y.partialOf r).1, (y.partialOf r).2⟩] }
    | none => s.setTree die t { y with sent := some r }

theorem exec_reductionPartial_of_full {r : Nat} (hx : s.tree die t = some x) (hr : (s.takeLocal die t x).next = some r)
    (hfull : s.treeFull die t (s.takeLocal die t x) r = true) :
    exec (.reductionPartial die t) s = .next (partialSent s die t (s.takeLocal die t x) r) := by
  show execReductionPartial die t s = _
  simp only [execReductionPartial, hx, hr, hfull, if_true, partialSent]
  split
  · rfl
  · cases h : parentTree s die t (s.takeLocal die t x) r <;> rw [parentTree] at h <;> simp only [h]

theorem partialSent_of_root {y : Tree} {r : Nat} (h : y.parent = 0) :
    partialSent s die t y r = s.setTree die t { y with sent := some r, result := some (r, y.partialOf r) } := if_pos h

theorem partialSent_of_parent {y z : Tree} {r d : Nat} (h : y.parent ≠ 0) (hd : neighbour die y.parent = some d) (hne : d ≠ die) (hz : s.tree d t = some z) :
    partialSent s die t y r = (s.setTree die t { y with sent := some r }).setTree d t
      { z with inputs := z.inputs ++ [⟨opposite y.parent, r, (y.partialOf r).1, (y.partialOf r).2⟩] } := by
  simp only [partialSent, parentTree, if_neg h, hd, Option.bind_some, tree_setTree_ne _ _ _ _ hne, hz, Option.map_some]

end

/-! ## A node's result (R427, R428) -/

section
variable (s : State) (die t : Nat) (x : Tree) (v : Nat × List Word × Nat)

/-- The result of a round written at the destination of the die's NRED of that round, which ends (R428). -/
def resultLanded (r : Nat) (ws : List Word) (n : Nat) : State :=
  match s.nredOf die t with
  | some (ck, o) =>
    match o.kind with
    | .nred _ r' _ b _ none => if r' = r then (s.putScratch ck b (ws.flatMap fun (w : Word) => leBytes 4 w.toNat)).endNred ck o n else s
    | _ => s
  | none => s

/-- A result passed to the child in a direction, if MASK names it (R427). -/
def resultPassed (s : State) (k : Nat) : State :=
  if x.mask.testBit k then
    match (neighbour die k).bind fun d => (s.tree d t).map fun y => (d, y) with
    | some (d, y) => s.setTree d t { y with result := some v }
    | none => s
  else s

theorem exec_reductionResult_of_result {r n : Nat} {ws : List Word} (hx : s.tree die t = some x) (hv : x.result = some (r, ws, n)) :
    exec (.reductionResult die t) s =
      .next ([1, 2, 3, 4].foldl (resultPassed die t x (r, ws, n)) ((resultLanded s die t r ws n).setTree die t (x.finish r))) := by
  show execReductionResult die t s = _
  simp only [execReductionResult, hx, hv]
  rfl

/-- A die is the child of a node in one of some directions. -/
def ChildIn (d : Nat) (ks : List Nat) : Prop := ∃ k ∈ ks, x.mask.testBit k = true ∧ neighbour die k = some d

/-- A tree with a result that has come. -/
def withResult (y : Tree) : Tree := { y with result := some v }

theorem tree_resultPassed (k d : Nat) : (resultPassed die t x v s k).tree d t =
    if x.mask.testBit k = true ∧ neighbour die k = some d then (s.tree d t).map (withResult v) else s.tree d t := by
  unfold resultPassed
  split
  next hmask =>
    by_cases hd : neighbour die k = some d
    · rw [if_pos ⟨hmask, hd⟩, hd]
      cases hy : s.tree d t with
      | none => simp [hy]
      | some y => simp [hy, withResult]
    · rw [if_neg fun h => hd h.2]
      split
      next d' y hsome =>
        obtain ⟨d'', hd'', hy⟩ := Option.bind_eq_some_iff.mp hsome
        obtain ⟨z, -, hz⟩ := Option.map_eq_some_iff.mp hy
        cases hz
        exact tree_setTree_ne _ _ _ _ fun h => hd (h ▸ hd'')
      next => rfl
  next hmask => rw [if_neg fun h => hmask h.1]

open Classical in
/-- After the results have been passed, the children have them and no other node of the tree differs. -/
theorem tree_foldl_resultPassed (ks : List Nat) (d : Nat) : (ks.foldl (resultPassed die t x v) s).tree d t =
    if ChildIn die x d ks then (s.tree d t).map (withResult v) else s.tree d t := by
  induction ks generalizing s with
  | nil => rw [if_neg (by simp [ChildIn])]; rfl
  | cons k ks ih =>
    rw [List.foldl_cons, ih, tree_resultPassed]
    by_cases hk : x.mask.testBit k = true ∧ neighbour die k = some d
    · have hin : ChildIn die x d (k :: ks) := ⟨k, List.mem_cons_self, hk⟩
      rw [if_pos hk, if_pos hin]
      split
      · cases s.tree d t <;> rfl
      · rfl
    · have hin : ChildIn die x d (k :: ks) ↔ ChildIn die x d ks := by simp [ChildIn, hk]
      simp only [if_neg hk, hin]

theorem combs_resultPassed (k : Nat) : (resultPassed die t x v s k).combs = s.combs := by
  unfold resultPassed
  split
  · split <;> rfl
  · rfl

theorem dies_resultLanded (r : Nat) (ws : List Word) (n : Nat) : (resultLanded s die t r ws n).dies = s.dies := by
  unfold resultLanded
  split
  · split
    · split
      · unfold State.endNred
        split <;> rfl
      · rfl
    · rfl
  · rfl

/-- No die is its own neighbour. -/
theorem neighbour_ne_self (k : Nat) : neighbour die k ≠ some die := by
  unfold neighbour
  split
  · split <;> simp; omega
  · split <;> simp
  · split <;> simp
  · split <;> simp; omega
  · simp

end

theorem treeEvents : Claim.TreeEvents := by
  intro s die t x hx
  refine ⟨fun r hr hfull hroot => ?root, fun r d z hr hfull hparent hd hne hz => ?parent, fun r hr hfull => ?waits, fun hr => ?idle,
    fun r ws n hv => ?result, fun hv => ?noResult⟩
  case root => rw [exec_reductionPartial_of_full hx hr hfull, partialSent_of_root hroot]
  case parent => rw [exec_reductionPartial_of_full hx hr hfull, partialSent_of_parent hparent hd hne hz]
  case waits =>
    show execReductionPartial die t s = _
    simp only [execReductionPartial, hx, hr, hfull, Bool.false_eq_true, if_false]
  case idle =>
    show execReductionPartial die t s = _
    simp only [execReductionPartial, hx, hr]
  case noResult =>
    show execReductionResult die t s = _
    simp only [execReductionResult, hx, hv]
  case result =>
    have htree (d : Nat) (hne : d ≠ die) : ((resultLanded s die t r ws n).setTree die t (x.finish r)).tree d t = s.tree d t :=
      (tree_setTree_ne _ _ _ _ hne).trans (congrArg (fun ds : List (Nat × Die) => Sparse.find? (Sparse.get Die.reset ds d).trees t) (dies_resultLanded ..))
    have hcomb (k : Nat) : ([1, 2, 3, 4].foldl (resultPassed die t x (r, ws, n)) ((resultLanded s die t r ws n).setTree die t (x.finish r))).comb k =
        (resultLanded s die t r ws n).comb k :=
      congrArg (fun cs : List (Nat × Comb) => Sparse.get Comb.reset cs k) (view_foldl State.combs (fun s k => combs_resultPassed s die t x (r, ws, n) k) ..)
    refine ⟨_, exec_reductionResult_of_result s die t x hx hv, ?_, fun k d z hlow hhigh hmask hd hz => ?_, fun d hne hout => ?_,
      fun ck o t' a b dst ho hkind k => ?_, fun hnone k => ?_⟩
    · rw [tree_foldl_resultPassed, if_neg fun ⟨k, _, _, h⟩ => neighbour_ne_self die k h, tree_setTree_self]
    · have hin : ChildIn die x d [1, 2, 3, 4] := ⟨k, by simp; omega, hmask, hd⟩
      rw [tree_foldl_resultPassed, if_pos hin, htree d fun h => neighbour_ne_self die k (h ▸ hd), hz]
      rfl
    · have hin : ¬ ChildIn die x d [1, 2, 3, 4] := fun ⟨k, hk, hmask, hd⟩ => hout k (by simp at hk; omega) (by simp at hk; omega) hmask hd
      rw [tree_foldl_resultPassed, if_neg hin, htree d hne]
    · rw [hcomb]
      simp only [resultLanded, ho, hkind, if_true]
    · rw [hcomb]
      unfold resultLanded
      split
      next ck o ho =>
        split
        next t' r' a b dst hkind => exact congrArg (State.comb · k) (if_neg fun h => hnone ck o t' a b dst ho (by rw [hkind, h]))
        next => rfl
      next => rfl

/-- Settles O32: an NRED that nothing stands against opens its round, and a node goes by what it holds of a round. -/
theorem reductionTrees : Obligations.ReductionTrees := ⟨reductions, treeEvents⟩

end Sys2Proof.Proofs
end

section
namespace Sys2Proof.Proofs
open Sys2Proof Sys2Proof.Machine

/-! # The ring of a die (R431 to R436) -/

/-! ## WRING (R431, R432) -/

section
variable (bytes : List Byte) (f : SForm) (e : Env)

/-- What a field of a ring record names as a peer (R431). The record's bytes are an argument of all that follows: only WRING itself
says where they stand. -/
def peerField (o : Nat) : Except Nat Nat := ringPeer e.s (keyDie e.ck) (leNat ((bytes.drop o).take 4))

/-- The ring that WRING makes of a record and its peers (R432). -/
def ringMade (su pr : Nat) : Ring :=
  { e.ringOf (f.imm.toNat % 8) bytes with succ := su, pred := pr, sub := (e.s.die (keyDie e.ck)).freeSub.getD 0 }

/-- WRING on a record within its limits: the ring starts, or the code of what stands against it is written (R432). -/
def wringMake (su pr : Nat) : Eff :=
  if e.ringCode (e.ringOf (f.imm.toNat % 8) bytes) su pr ≠ 0 then
    e.done (e.write32 f.d false [(0, BitVec.ofNat 32 (e.ringCode (e.ringOf (f.imm.toNat % 8) bytes) su pr))])
  else e.ringStart (ringMade bytes f e su pr)

/-- WRING with a record's bytes (R431, R432). -/
def wringOf : Eff :=
  match peerField bytes e 36, peerField bytes e 40 with
  | .error 0, _ => e.fault codeBADSPEC f.a.code 0
  | _, .error 0 => e.fault codeBADSPEC f.a.code 0
  | succ, pred =>
    if ringBad bytes (e.ringOf (f.imm.toNat % 8) bytes) || e.ringLeaves bytes (e.ringOf (f.imm.toNat % 8) bytes) then e.fault codeBADSPEC f.a.code 0
    else match succ, pred with
    | .ok su, .ok pr => wringMake bytes f e su pr
    | _, _ => e.fault codeSTALEGEN f.a.code 0

/-- WRING that has asked nothing yet, with a record's bytes (R432). -/
def wringBody : Eff :=
  match e.scratchFault 64 64 [(0, (e.read32 f.a 0).toNat)] with
  | some g => .fault g
  | none => wringOf bytes f e

end

/-- WRING, with the record's bytes abstracted before its branches are compared: they are not to be evaluated. -/
theorem exec_wring (f : SForm) (s : State) :
    exec (.wring f) s = issue s (ruleWring f) fun e => e.answered f.d fun _ => wringBody (ringRec e (e.read32 f.a 0).toNat) f e := by
  show execWring f s = _
  unfold execWring
  refine congrArg (issue s (ruleWring f)) (funext fun e => congrArg (e.answered f.d) (funext fun _ => ?_))
  extract_lets -underBinder die x
  obtain ⟨b, hb⟩ : ∃ b, b = ringRec e x := ⟨_, rfl⟩
  show _ = wringBody (ringRec e x) f e
  rw [← hb]
  rfl

section
variable {bytes : List Byte} {f : SForm} {e : Env} {su pr : Nat}

theorem wringBody_of_inRange (h : e.scratchFault 64 64 [(0, (e.read32 f.a 0).toNat)] = none) : wringBody bytes f e = wringOf bytes f e := by
  simp only [wringBody, h]

theorem wringOf_of_sound (hbad : ringBad bytes (e.ringOf (f.imm.toNat % 8) bytes) = false)
    (hleaves : e.ringLeaves bytes (e.ringOf (f.imm.toNat % 8) bytes) = false) (hsu : peerField bytes e 36 = .ok su) (hpr : peerField bytes e 40 = .ok pr) :
    wringOf bytes f e = wringMake bytes f e su pr := by
  simp only [wringOf, hsu, hpr, hbad, hleaves, Bool.or_self, Bool.false_eq_true, if_false]

theorem wringOf_of_noPeer (h : peerField bytes e 36 = .error 0 ∨ peerField bytes e 40 = .error 0) : wringOf bytes f e = e.fault codeBADSPEC f.a.code 0 := by
  unfold wringOf
  split
  next => rfl
  next => rfl
  next hsu hpr => exact (h.elim hsu hpr).elim

theorem wringOf_of_bad (h : ringBad bytes (e.ringOf (f.imm.toNat % 8) bytes) = true) : wringOf bytes f e = e.fault codeBADSPEC f.a.code 0 := by
  unfold wringOf
  split
  next => rfl
  next => rfl
  next => exact if_pos (by rw [h, Bool.true_or])

end

/-- A batch that is sent leaves the rings of the dies as they are. -/
theorem rings_sendBatch (s : State) (die snd ctx fl kind : Nat) (es : List CountEnt) (d : Nat) :
    ((s.sendBatch die snd ctx fl kind es).1.die d).rings = (s.die d).rings := by
  unfold State.sendBatch
  extract_lets ck key seq next t dies
  have ht : (t.die d).rings = (s.die d).rings := by
    unfold t
    split
    · exact view_die_modDie (g := Die.rings) (f := fun d => { d with seqOut := Sparse.set 0 d.seqOut key next }) (fun _ => rfl) ..
    · rfl
  dsimp only
  split <;> exact ht

/-- A ring that starts stands on its die, and its subscription is asked for (R432). -/
theorem ringStart_eq (e : Env) (r : Ring) : ∃ s u, e.ringStart r = .wait s { e.th with wait := .answer u } ∧
    (s.die (keyDie e.ck)).rings = (e.s.die (keyDie e.ck)).rings ++ [r] ∧ ∃ q ∈ (s.die (keyDie e.ck)).csubs, q.uid = u := by
  refine ⟨_, _, rfl, ?_, ?_⟩
  · rw [State.die_modDie_self]
    exact congrArg (· ++ [r]) (rings_sendBatch ..)
  · rw [State.die_modDie_self]
    exact ⟨_, List.mem_append_right _ (List.mem_singleton_self _), rfl⟩

theorem ringCreation : Claim.RingCreation := by
  intro f
  refine ⟨fun su pr => .of_body fun s => ⟨_, exec_wring f s, fun e ⟨⟨⟨hw, hf⟩, hbad, hleaves, hsu, hpr⟩, hcode⟩ => ?made⟩,
    fun su pr => .of_body fun s => ⟨_, exec_wring f s, fun e ⟨⟨⟨hw, hf⟩, hbad, hleaves, hsu, hpr⟩, hcode⟩ => ?refused⟩,
    fun v => .of_body fun s => ⟨_, exec_wring f s, fun e hv => answered_of_answer hv⟩,
    traps_of_uniform rfl fun s => ⟨_, exec_wring f s, fun e hu ⟨⟨hw, hf⟩, hpeer⟩ => ?noPeer⟩,
    traps_of_uniform rfl fun s => ⟨_, exec_wring f s, fun e hu ⟨⟨hw, hf⟩, hbad⟩ => ?bad⟩⟩
  case made =>
    have hbody := (answered_of_first (d := f.d) (k := fun _ => wringBody (ringRec e (e.read32 f.a 0).toNat) f e) hw).trans
      ((wringBody_of_inRange (bytes := ringRec e _) hf).trans (wringOf_of_sound hbad hleaves hsu hpr))
    obtain ⟨s', u, hstart, hrings, hq⟩ := ringStart_eq e (ringMade (ringRec e (e.read32 f.a 0).toNat) f e su pr)
    exact ⟨s', _, hbody.trans ((if_neg (not_not_intro hcode)).trans hstart), u, rfl, hrings, hq⟩
  case refused =>
    exact (answered_of_first hw).trans ((wringBody_of_inRange (bytes := ringRec e _) hf).trans ((wringOf_of_sound hbad hleaves hsu hpr).trans (if_pos hcode)))
  case noPeer =>
    exact (answered_of_first hw).trans ((wringBody_of_inRange (bytes := ringRec e _) hf).trans ((wringOf_of_noPeer hpeer).trans (fault_of_uniform hu ..)))
  case bad =>
    exact (answered_of_first hw).trans ((wringBody_of_inRange (bytes := ringRec e _) hf).trans ((wringOf_of_bad hbad).trans (fault_of_uniform hu ..)))

/-! ## WRING.close (R432) -/

/-- The state as WRING.close leaves it: the ring's counts are taken back, its WPOSTs end, and it and its subscription are gone (R432). -/
def ringClosed (e : Env) (r : Ring) : State :=
  let s := (e.s.ringCounts (keyDie e.ck) r r.remaining).ringEvent (keyDie e.ck) r 1 (e.s.lastStep r)
  (s.dropPosts (keyDie e.ck) r).modDie (keyDie e.ck) fun d =>
    { d with rings := d.rings.filter (fun x => !(decide (x.ctx = r.ctx) && decide (x.num = r.num))), subs := Sparse.erase d.subs r.sub }

/-- The ring of the issuer's context that an instruction names. -/
def ringNamed (f : SForm) (e : Env) : Option Ring := (e.s.die (keyDie e.ck)).ring e.ctxNo (f.imm.toNat % 8)

/-- WRING.close, by the ring that its number names (R432). -/
def wringCloseBody (f : SForm) (e : Env) : Eff :=
  match ringNamed f e with
  | none => e.done (e.write32 f.d false [(0, 1)])
  | some r => .ok ⟨ringClosed e r, e.th, e.write32 f.d false [(0, 0)], 0, none, .seq⟩

theorem exec_wringClose (f : SForm) (s : State) : exec (.wringClose f) s = issue s (ruleWringClose f) (wringCloseBody f) := rfl

theorem ring_ringClosed (f : SForm) {e : Env} {r : Ring} (h : ringNamed f e = some r) :
    ((ringClosed e r).die (keyDie e.ck)).ring e.ctxNo (f.imm.toNat % 8) = none := by
  have hr : r.ctx = e.ctxNo ∧ r.num = f.imm.toNat % 8 := by simpa using List.find?_some h
  rw [ringClosed, State.die_modDie_self]
  simp only [Die.ring, List.find?_eq_none, List.mem_filter, hr]
  exact fun x hx => by simpa [imp_iff_not_or] using hx.2

/-! ## WPOST (R435) -/

/-- The source of a WPOST, in scratch or a virtual address (R435). -/
def wpostSource (f : SForm) (e : Env) : Nat := if f.sub.getLsbD 0 then (e.read32 f.a 0).toNat else (e.read64 f.a 0).toNat

/-- The step that B names. -/
def wpostStep (f : SForm) (e : Env) : Nat := (e.read32 f.b 0).toNat

/-- The operation that a WPOST whose checks all pass leaves: its step is posted (R435). -/
def wpostStarts (f : SForm) (e : Env) (r : Ring) (s : State) : State × Thread :=
  e.async (s.setRing (keyDie e.ck) { r with posted := r.posted ++ [wpostStep f e] }) e.th 2 3 (some 3)
    (.wpost (f.imm.toNat % 8) (wpostStep f e) (wpostSource f e) (f.sub.getLsbD 0) false) []

/-- The accesses of a WPOST's global source, sector by sector, or their fault (R435). -/
def wpostAccs (f : SForm) (e : Env) (r : Ring) : Except TrapInfo (List LaneAcc) :=
  let parts := sectorsOf (wpostSource f e) r.bytes
  e.laneAccs .read (fun k => (parts.getD k (0, 0)).2) 1 false ((List.range parts.length).zip (parts.map (·.1)))

/-- WPOST of a step that may be posted: its source is checked, then the operation starts (R435). -/
def wpostChecked (f : SForm) (e : Env) (r : Ring) : Eff :=
  if f.sub.getLsbD 0 then
    match e.scratchFault r.bytes 1 [(0, wpostSource f e)] with
    | some g => .fault g
    | none => e.out (wpostStarts f e r e.s).1 (wpostStarts f e r e.s).2
  else
    match wpostAccs f e r with
    | .error g => .fault g
    | .ok as => e.out (wpostStarts f e r (e.s.noteAccs e.ck e.ctxNo .read as)).1 (wpostStarts f e r (e.s.noteAccs e.ck e.ctxNo .read as)).2

/-- WPOST, by the ring that its number names (R435). -/
def wpostBody (f : SForm) (e : Env) : Eff :=
  match ringNamed f e with
  | none => .fault (e.ringSeq (f.imm.toNat % 8) 0xFFFFFFFF)
  | some r =>
    if decide (r.nstep ≤ wpostStep f e) || !r.origin (wpostStep f e) || r.posted.contains (wpostStep f e) then
      .fault (e.ringSeq (f.imm.toNat % 8) (wpostStep f e))
    else wpostChecked f e r

theorem exec_wpost (f : SForm) (s : State) : exec (.wpost f) s = issue s (ruleWpost f) (wpostBody f) := rfl

section
variable {f : SForm} {e : Env} {r : Ring}

/-- WPOST has no register to cover, so its thread goes on as it was. -/
theorem thread_wpostStarts (f : SForm) (e : Env) (r : Ring) (s : State) : (wpostStarts f e r s).2 = e.th := by
  rw [wpostStarts, async_uncov, List.map_nil, List.append_nil]

/-- A step that a ring may still post (R435). -/
structure MayPost (f : SForm) (e : Env) (r : Ring) : Prop where
  ring : ringNamed f e = some r
  inRange : wpostStep f e < r.nstep
  origin : r.origin (wpostStep f e) = true
  fresh : r.posted.contains (wpostStep f e) = false

theorem wpostBody_of_may (h : MayPost f e r) : wpostBody f e = wpostChecked f e r := by
  simp only [wpostBody, h.ring]
  refine if_neg ?_
  rw [h.origin, h.fresh]
  simpa using h.inRange

theorem wpostBody_of_bad (hr : ringNamed f e = some r)
    (hbad : r.nstep ≤ wpostStep f e ∨ r.origin (wpostStep f e) = false ∨ r.posted.contains (wpostStep f e) = true) :
    wpostBody f e = .fault (e.ringSeq (f.imm.toNat % 8) (wpostStep f e)) := by
  simp only [wpostBody, hr]
  refine if_pos ?_
  rcases hbad with h | h | h
  · rw [decide_eq_true h, Bool.true_or, Bool.true_or]
  · rw [h, Bool.not_false, Bool.or_true, Bool.true_or]
  · rw [h, Bool.or_true]

end

/-! ## WTAKE (R436) -/

/-- WTAKE, by the ring that its number names (R436). -/
def wtakeBody (f : SForm) (e : Env) : Eff :=
  match ringNamed f e with
  | none => .fault (e.ringSeq (f.imm.toNat % 8) 0xFFFFFFFF)
  | some r =>
    if (e.read32 f.a 0).toNat < r.lo ∨ Nat.min (r.lo + r.slots) r.nstep ≤ (e.read32 f.a 0).toNat then
      .fault (e.ringSeq (f.imm.toNat % 8) (e.read32 f.a 0).toNat)
    else if r.present.contains (e.read32 f.a 0).toNat then
      .ok ⟨e.s.dropL1 e.ck, e.th, e.write64 f.d [(0, BitVec.ofNat 64 (r.slotVa (e.read32 f.a 0).toNat))], 0, none, .seq⟩
    else e.block .again

theorem exec_wtake (f : SForm) (s : State) : exec (.wtake f) s = issue s (ruleWtake f) (wtakeBody f) := rfl

/-- WTAKE of a step in its ring's window goes by whether the step is present (R436). -/
theorem wtakeBody_of_window {f : SForm} {e : Env} {r : Ring} (hr : ringNamed f e = some r) (hlow : r.lo ≤ (e.read32 f.a 0).toNat)
    (hhigh : (e.read32 f.a 0).toNat < Nat.min (r.lo + r.slots) r.nstep) :
    wtakeBody f e = if r.present.contains (e.read32 f.a 0).toNat then
      .ok ⟨e.s.dropL1 e.ck, e.th, e.write64 f.d [(0, BitVec.ofNat 64 (r.slotVa (e.read32 f.a 0).toNat))], 0, none, .seq⟩ else e.block .again := by
  simp only [wtakeBody, hr]
  exact if_neg (by omega)

/-! ## WDONE (R436) -/

/-- A stream's WDONE put behind the passes posted before it (R436). -/
def deferredDone (f : SForm) (e : Env) : Deferred :=
  ⟨e.s.nextUid, e.ag.src % 0x40, earlierPasses e, e.th.pc, 0, 0, some (f.imm.toNat % 8, (e.read32 f.a 0).toNat)⟩

/-- The state with a stream's WDONE put behind the passes posted before it (R436). -/
def withDeferredDone (f : SForm) (e : Env) : State :=
  { e.s with nextUid := e.s.nextUid + 1 }.modComb e.ck fun c => c.modSeq (e.ag.src % 0x40) fun x => { x with deferred := x.deferred ++ [deferredDone f e] }

/-- The effect of a WDONE at once (R436). -/
def wdoneNow (f : SForm) (e : Env) (r : Ring) : Eff := e.out (e.s.wdone (keyDie e.ck) r (e.read32 f.a 0).toNat) e.th

/-- Whether the issuer's group has an LD or CP operation outstanding (R436). -/
def hasLoads (e : Env) : Bool := (e.s.comb e.ck).ops.any fun o => decide (o.ownerUid = e.th.uid) && (decide (o.cls = 0) || decide (o.cls = 1))

/-- WDONE of a step in sequence (R436). -/
def wdoneInSequence (f : SForm) (e : Env) (r : Ring) : Eff :=
  if e.ag.isStream then
    if hasDeferred e || !(earlierPasses e).isEmpty || !e.s.releaseDone e.ck e.th.uid 3 e.s.nextUid then e.out (withDeferredDone f e) e.th
    else wdoneNow f e r
  else if hasLoads e then e.block .again
  else e.afterRelease 3 fun _ => wdoneNow f e r

/-- WDONE, by the ring that its number names (R436). -/
def wdoneBody (f : SForm) (e : Env) : Eff :=
  match ringNamed f e with
  | none => .fault (e.ringSeq (f.imm.toNat % 8) 0xFFFFFFFF)
  | some r => if r.doneBad (e.read32 f.a 0).toNat then .fault (e.ringSeq (f.imm.toNat % 8) (e.read32 f.a 0).toNat) else wdoneInSequence f e r

theorem exec_wdone (f : SForm) (s : State) : exec (.wdone f) s = issue s (ruleWdone f) (wdoneBody f) := rfl

section
variable {f : SForm} {e : Env} {r : Ring} {x : Seq}

theorem wdoneBody_of_due (hr : ringNamed f e = some r) (hdue : r.doneBad (e.read32 f.a 0).toNat = false) : wdoneBody f e = wdoneInSequence f e r := by
  simp only [wdoneBody, hr, hdue, Bool.false_eq_true, if_false]

theorem doneBad_of_outOfRange {n : Nat} (h : n < r.lo ∨ r.lo + r.slots ≤ n ∨ r.present.contains n = false ∨ r.cons ≤ Sparse.get 0 r.dones n) :
    r.doneBad n = true := by
  rcases h with h | h | h | h
  · rw [Ring.doneBad, decide_eq_true h, Bool.true_or, Bool.true_or, Bool.true_or]
  · rw [Ring.doneBad, decide_eq_true h, Bool.or_true, Bool.true_or, Bool.true_or]
  · rw [Ring.doneBad, h, Bool.not_false, Bool.or_true, Bool.true_or]
  · rw [Ring.doneBad, decide_eq_true h, Bool.or_true]

theorem wdoneInSequence_of_group (hstream : e.ag.isStream = false) (hidle : ∀ op ∈ (e.s.comb e.ck).ops, op.ownerUid = e.th.uid → op.cls ≠ 0 ∧ op.cls ≠ 1)
    (hrel : e.s.releaseDone e.ck e.th.uid 3 e.s.nextUid = true) : wdoneInSequence f e r = wdoneNow f e r := by
  have hloads : hasLoads e = false := by
    simp only [hasLoads, List.any_eq_false]
    intro op hop
    simpa using hidle op hop
  simp only [wdoneInSequence, hstream, hloads, Bool.false_eq_true, if_false, afterRelease_of_done hrel]

theorem wdoneInSequence_of_stream (hstream : e.ag.isStream = true)
    (hpasses : ((e.s.comb e.ck).passes.filter fun p => p.seq = e.ag.src % 0x40) = [])
    (hrel : e.s.releaseDone e.ck e.th.uid 3 e.s.nextUid = true) (hx : Sparse.find? (e.s.comb e.ck).seqs (e.ag.src % 0x40) = some x) (hdef : x.deferred = []) :
    wdoneInSequence f e r = wdoneNow f e r := by
  have hqueued : hasDeferred e = false := by simp [hasDeferred, hx, hdef]
  have hearlier : earlierPasses e = [] := by simp [earlierPasses, hpasses]
  simp [wdoneInSequence, hstream, hqueued, hearlier, hrel]

theorem wdoneInSequence_of_deferred (hstream : e.ag.isStream = true) (hpasses : ((e.s.comb e.ck).passes.filter fun p => p.seq = e.ag.src % 0x40) ≠ []) :
    wdoneInSequence f e r = e.out (withDeferredDone f e) e.th := by
  have hearlier : (earlierPasses e).isEmpty = false := by simpa [earlierPasses] using hpasses
  simp only [wdoneInSequence, hstream, hearlier, Bool.not_false, Bool.or_true, Bool.true_or, if_true]

/-- The deferred WDONE stands at the end of what its stream holds back. -/
theorem seq_withDeferredDone (hx : Sparse.find? (e.s.comb e.ck).seqs (e.ag.src % 0x40) = some x) :
    Sparse.find? ((withDeferredDone f e).comb e.ck).seqs (e.ag.src % 0x40) = some { x with deferred := x.deferred ++ [deferredDone f e] } := by
  have hx' : Sparse.find? (({ e.s with nextUid := e.s.nextUid + 1 } : State).comb e.ck).seqs (e.ag.src % 0x40) = some x := hx
  simp only [withDeferredDone, State.comb_modComb_self, modSeq_of_find hx', Sparse.find?_put_self]

end

theorem ringInstructions : Claim.RingInstructions := by
  intro f
  refine ⟨.of_body fun s => ⟨_, exec_wringClose f s, fun e hnone => ?noRing⟩,
    fun r => .of_body fun s => ⟨_, exec_wringClose f s, fun e hr => ?closes⟩,
    fun r => .of_body fun s => ⟨_, exec_wpost f s, fun e ⟨⟨hr, hn, horigin, hfresh⟩, hsc, hf⟩ => ?postsScratch⟩,
    fun r as => .of_body fun s => ⟨_, exec_wpost f s, fun e ⟨⟨hr, hn, horigin, hfresh⟩, hsc, has⟩ => ?postsGlobal⟩,
    fun r => .of_body fun s => ⟨_, exec_wpost f s, fun e ⟨hr, hbad⟩ => wpostBody_of_bad hr hbad⟩,
    fun r => .of_body fun s => ⟨_, exec_wtake f s, fun e ⟨⟨hr, hlow, hhigh⟩, hpresent⟩ => ?takes⟩,
    fun r => .of_body fun s => ⟨_, exec_wtake f s, fun e ⟨⟨hr, hlow, hhigh⟩, habsent⟩ => ?waits⟩,
    fun r => .of_body fun s => ⟨_, exec_wtake f s, fun e ⟨hr, hout⟩ => ?outside⟩,
    fun r => .of_body fun s => ⟨_, exec_wdone f s, fun e ⟨⟨hr, hdue⟩, hstream, hidle, hrel⟩ => ?groupDone⟩,
    fun r => .of_body fun s => ⟨_, exec_wdone f s, fun e ⟨⟨hr, hdue⟩, hstream, hpasses, hrel, x, hx, hdef⟩ => ?streamDone⟩,
    fun r x => .of_body fun s => ⟨_, exec_wdone f s, fun e ⟨⟨hr, hdue⟩, hstream, hpasses, hx⟩ => ?deferred⟩,
    fun r => .of_body fun s => ⟨_, exec_wdone f s, fun e ⟨hr, hbad⟩ => ?outOfSequence⟩,
    .of_body fun s => ⟨_, exec_wpost f s, fun e hnone => ?postNone⟩,
    .of_body fun s => ⟨_, exec_wtake f s, fun e hnone => ?takeNone⟩,
    .of_body fun s => ⟨_, exec_wdone f s, fun e hnone => ?doneNone⟩⟩
  case noRing => simp only [wringCloseBody, show ringNamed f e = none from hnone]
  case closes =>
    have hbody : wringCloseBody f e = .ok ⟨ringClosed e r, e.th, e.write32 f.d false [(0, 0)], 0, none, .seq⟩ := by
      simp only [wringCloseBody, show ringNamed f e = some r from hr]
    exact ⟨_, hbody, rfl, rfl, rfl, ring_ringClosed f hr⟩
  case postsScratch =>
    have hcheck : wpostChecked f e r = e.out (wpostStarts f e r e.s).1 (wpostStarts f e r e.s).2 := by
      simp only [wpostChecked, hsc, if_true, show e.scratchFault r.bytes 1 [(0, wpostSource f e)] = none from hf]
    exact ⟨_, (wpostBody_of_may ⟨hr, hn, horigin, hfresh⟩).trans hcheck, rfl, thread_wpostStarts .., rfl, _, rfl, rfl, rfl, rfl⟩
  case postsGlobal =>
    have hcheck : wpostChecked f e r =
        e.out (wpostStarts f e r (e.s.noteAccs e.ck e.ctxNo .read as)).1 (wpostStarts f e r (e.s.noteAccs e.ck e.ctxNo .read as)).2 := by
      simp only [wpostChecked, hsc, Bool.false_eq_true, if_false, show wpostAccs f e r = .ok as from has]
    exact ⟨_, (wpostBody_of_may ⟨hr, hn, horigin, hfresh⟩).trans hcheck, rfl, thread_wpostStarts .., rfl, _, rfl, rfl, rfl, rfl⟩
  case takes => exact ⟨_, (wtakeBody_of_window hr hlow hhigh).trans (if_pos hpresent), rfl, rfl⟩
  case waits => exact ⟨_, _, (wtakeBody_of_window hr hlow hhigh).trans (if_neg (by simp only [habsent, Bool.false_eq_true, not_false_eq_true])), rfl, rfl⟩
  case outside =>
    simp only [wtakeBody, show ringNamed f e = some r from hr]
    exact if_pos hout
  case groupDone => exact ⟨_, (wdoneBody_of_due hr hdue).trans (wdoneInSequence_of_group hstream hidle hrel), rfl, rfl⟩
  case streamDone => exact ⟨_, (wdoneBody_of_due hr hdue).trans (wdoneInSequence_of_stream hstream hpasses hrel hx hdef), rfl, rfl⟩
  case deferred =>
    exact ⟨_, (wdoneBody_of_due hr hdue).trans (wdoneInSequence_of_deferred hstream hpasses), rfl, rfl, rfl, deferredDone f e, seq_withDeferredDone hx, rfl⟩
  case outOfSequence =>
    simp only [wdoneBody, show ringNamed f e = some r from hr]
    exact if_pos (doneBad_of_outOfRange hbad)
  case postNone => simp only [wpostBody, show ringNamed f e = none from hnone]; rfl
  case takeNone => simp only [wtakeBody, show ringNamed f e = none from hnone]; rfl
  case doneNone => simp only [wdoneBody, show ringNamed f e = none from hnone]; rfl

/-! ## Steps as they travel (R433, R434) -/

section
variable {s : State} {die num step : Nat} {r : Ring}

theorem exec_ringTransfer_of_inbound {n : Nat} {bytes : List Byte} {rest : List (Nat × List Byte)} (hr : (s.die die).rings[num]? = some r)
    (hgo : r.stopped = false) (hin : r.inbound = (n, bytes) :: rest) :
    exec (.ringTransfer die num) s = .next (s.ringWrite die { r with inbound := rest } n bytes) := by
  show execRingTransfer die num s = _
  simp only [execRingTransfer, hr, hgo, hin, Bool.false_eq_true, if_false]

/-- A step captured on its way: its count goes, and it is forwarded (R433, R434). -/
def stepCaptured (s : State) (die step : Nat) (r : Ring) : State :=
  (s.ringCounts die r [(step, -1)]).setRing die { r with forwarded := r.forwarded ++ [step] }

/-- A step that its ring may send on: present, granted at the successor, and not sent yet (R434). -/
structure MayForward (r : Ring) (step : Nat) : Prop where
  present : r.present.contains step = true
  forwards : r.forwards step = true
  granted : r.grants.contains (step + 1) = true
  fresh : r.forwarded.contains step = false
  reaches : r.reaches r.succ = true

theorem exec_ringForwardComplete_of_read {bytes : List Byte} {q : Ring} (hr : (s.die die).rings[num]? = some r) (h : MayForward r step)
    (hread : s.ringRead (combKey die r.comb) r.ctx (r.slotVa step) r.bytes = .ok bytes) (hport : isPort r.succ = false)
    (hq : ((stepCaptured s die step r).die r.succ).ringOf r.key r.ctx = some q) :
    exec (.ringForwardComplete die num step) s = .next ((stepCaptured s die step r).setRing r.succ { q with inbound := q.inbound ++ [(step + 1, bytes)] }) := by
  show execRingForwardComplete die num step s = _
  simp only [stepCaptured] at hq
  simp only [execRingForwardComplete, hr, h.present, h.forwards, h.granted, h.fresh, h.reaches, hread, hport, hq, Bool.not_false, Bool.and_self,
    Bool.false_eq_true, if_false, if_true, stepCaptured]

theorem exec_ringGrant_of_waiting {g : Nat × Nat} {rest : List (Nat × Nat)} (hw : (s.die die).grantsWaiting = g :: rest)
    (hr : (s.die die).ringOf (g.1 / 256) (g.1 % 256) = some r) (hreach : r.reaches r.succ = true) :
    exec (.ringGrant die) s = .next ((s.modDie die fun d => { d with grantsWaiting := rest }).setRing die (r.grant g.2)) := by
  have hfirst : (s.die die).grantsWaiting.findIdx? (fun g => ((s.die die).ringOf (g.1 / 256) (g.1 % 256)).isSome) = some 0 := by
    rw [hw, List.findIdx?_cons, hr]
    rfl
  have htaken : (s.modDie die fun d => { d with grantsWaiting := d.grantsWaiting.eraseIdx 0 }) = s.modDie die fun d => { d with grantsWaiting := rest } := by
    simp only [State.modDie, hw, List.eraseIdx_cons_zero]
  show execRingGrant die s = _
  simp only [execRingGrant, hfirst, htaken]
  rw [show (s.die die).grantsWaiting.getD 0 (0, 0) = g by rw [hw]; rfl]
  simp only [hr, hreach, if_true]

end

theorem ringEvents : Claim.RingEvents := fun _ _ _ _ _ =>
  ⟨fun hr hgo => ⟨fun _ _ _ hin => exec_ringTransfer_of_inbound hr hgo hin,
      fun _ _ hpresent hforwards hgranted hfresh hreaches hread hport hq =>
        exec_ringForwardComplete_of_read hr ⟨hpresent, hforwards, hgranted, hfresh, hreaches⟩ hread hport hq⟩,
    fun _ _ hw hr hreach => exec_ringGrant_of_waiting hw hr hreach, rfl⟩

/-- Settles O33: WRING by its record, the other instructions by the ring they name, and the events by what a ring holds. -/
theorem rings : Obligations.Rings := ⟨ringCreation, ringInstructions, ringEvents⟩

end Sys2Proof.Proofs
end

section
namespace Sys2Proof.Proofs
open Sys2Proof Sys2Proof.Machine

/-! # Launch records (R392, R448 to R450) -/

section
variable {s : State} {at' : Nat} {bs : List Byte}

/-! ## CTXNEW and CTXEND (R449, R450) -/

/-- The state with the context of a record created (R449). -/
def ctxCreated (t : State) (bs : List Byte) : State :=
  { t with ctxs := Sparse.put t.ctxs (recField bs 1 1) (ctxOfRec bs (Config.spillCap t.freeN)), freeN := t.freeN + 1 }

theorem exec_ctxnew_of_good (h : s.launchRec = some (at', bs)) (hk : recField bs 0 1 = 1) (hgood : s.takeRec.ctxnewBad bs = 0) :
    exec .ctxnew s = .next (((ctxCreated s.takeRec bs).setStatus at' 2).advanceHead) := by
  show execCtxnew s = _
  simp only [execCtxnew, h, hk, hgood, if_true, ctxCreated]

theorem exec_ctxnew_of_bad (h : s.launchRec = some (at', bs)) (hk : recField bs 0 1 = 1) (hbad : s.takeRec.ctxnewBad bs ≠ 0) :
    exec .ctxnew s = .next (s.takeRec.reject at' (s.takeRec.ctxnewBad bs)) := by
  show execCtxnew s = _
  simp only [execCtxnew, h, hk, if_true]

/-- A context with the end of a record that waits for its tear-down (R449). -/
def endRecorded (bs : List Byte) (at' : Nat) (x : CtxRec) : CtxRec :=
  { x with endRecs := x.endRecs ++ [(at', BitVec.ofNat 64 (recField bs 32 8), BitVec.ofNat 64 (recField bs 40 8))] }

theorem exec_ctxend_of_some {x : CtxRec} (h : s.launchRec = some (at', bs)) (hk : recField bs 0 1 = 3)
    (hz : zeroOutside bs [(0, 2), (4, 1), (32, 16)] = true) (hx : Sparse.find? s.takeRec.ctxs (recField bs 1 1) = some x) :
    exec .ctxend s = .next (((({ s.takeRec with ctxs := Sparse.put s.takeRec.ctxs (recField bs 1 1) (endRecorded bs at' x) } : State).setStatus at' 1).endContext
      (recField bs 1 1) 5 0 0).advanceHead) := by
  show execCtxend s = _
  simp only [execCtxend, h, hk, hz, hx, if_true, Bool.not_true, Bool.false_eq_true, if_false, endRecorded]

theorem exec_ctxend_of_none (h : s.launchRec = some (at', bs)) (hk : recField bs 0 1 = 3)
    (hz : zeroOutside bs [(0, 2), (4, 1), (32, 16)] = true) (hx : Sparse.find? s.takeRec.ctxs (recField bs 1 1) = none) :
    exec .ctxend s = .next (s.takeRec.reject at' 3) := by
  show execCtxend s = _
  simp only [execCtxend, h, hk, hz, hx, if_true, Bool.not_true, Bool.false_eq_true, if_false]

/-! ## TREE (R425, R426, R450) -/

/-- A tree's entries of a table on the live dies: a die without an entry holds none (R426). -/
def treeInstalled (t : State) (bs : List Byte) (ts : List (Option Tree)) : State :=
  t.liveDies.foldl (fun s d => s.modDie d fun x => { x with trees := match treeAt ts d with
    | some t => Sparse.put x.trees (recField bs 2 1) t
    | none => Sparse.erase x.trees (recField bs 2 1) }) t

theorem exec_tree_of_whole {ts : List (Option Tree)} (h : s.launchRec = some (at', bs)) (hk : recField bs 0 1 = 4)
    (hform : (s.takeRec.earlyReject 4 || !zeroOutside bs [(0, 3), (4, 1), (8, 8), (32, 16)] || decide (16 ≤ recField bs 2 1)) = false)
    (halive : s.takeRec.ctxAlive (recField bs 1 1) = true) (hts : s.takeRec.treeTable (recField bs 1 1) (recField bs 8 8) = some ts)
    (hok : s.takeRec.treeOk ts = true) :
    exec .tree s = .next ((treeInstalled s.takeRec bs ts).recordDone (recField bs 1 1) at' (BitVec.ofNat 64 (recField bs 32 8))
      (BitVec.ofNat 64 (recField bs 40 8))).advanceHead := by
  show execTree s = _
  simp only [execTree, h, hk, hform, halive, hts, hok, if_true, Bool.not_true, Bool.false_eq_true, if_false, treeInstalled] <;> rfl

/-! ## GRID (R392, R449, R450) -/

/-- The state with the grid of a record, waiting for its counters (R392). -/
def gridAccepted (g : State) (at' : Nat) (bs : List Byte) : State :=
  { g with grids := g.grids ++ [gridOfRec bs at' g.nextUid], nextUid := g.nextUid + 1 }

theorem exec_grid_of_good (h : s.startGrids.launchRec = some (at', bs)) (hk : recField bs 0 1 = 2) (hgood : s.startGrids.takeRec.gridBad bs = 0)
    (hprev : bs.getD 2 0 &&& 8 = 0 ∨ s.startGrids.takeRec.grids = []) :
    exec .grid s = .next (((gridAccepted s.startGrids.takeRec at' bs).setStatus at' 1).advanceHead).startGrids := by
  have hgo : ¬ (bs.getD 2 0 &&& 8 ≠ 0 ∧ (!s.startGrids.takeRec.grids.isEmpty) = true) := by
    exact fun ⟨hwait, hsome⟩ => hprev.elim hwait fun hnil => by simp [hnil] at hsome
  show execGrid s = _
  simp only [execGrid, h, hk, hgood, if_true, if_neg hgo, gridAccepted]

theorem exec_grid_of_bad (h : s.startGrids.launchRec = some (at', bs)) (hk : recField bs 0 1 = 2) (hbad : s.startGrids.takeRec.gridBad bs ≠ 0) :
    exec .grid s = .next (s.startGrids.takeRec.reject at' (s.startGrids.takeRec.gridBad bs)) := by
  show execGrid s = _
  simp only [execGrid, h, hk, if_true]

end

/-- Settles O43: each kind of record by the checks of R450 that it passes or fails. -/
theorem launchRecords : Obligations.LaunchRecords := by
  intro s at' bs
  refine ⟨fun h => ⟨fun hk hgood => ?created, fun hk hbad => ?notCreated, fun hk hz x hx => ?ends, fun hk hz hx => ?noContext,
    fun ts hk hform halive hts hok => ?installed⟩, fun h hk hgood hprev => ?accepted, fun h hk hbad => ?refused⟩
  case created => exact exec_ctxnew_of_good h hk hgood
  case notCreated => exact exec_ctxnew_of_bad h hk hbad
  case ends => exact exec_ctxend_of_some h hk hz hx
  case noContext => exact exec_ctxend_of_none h hk hz hx
  case installed => exact exec_tree_of_whole h hk hform halive hts hok
  case accepted => exact exec_grid_of_good h hk hgood hprev
  case refused => exact exec_grid_of_bad h hk hbad

end Sys2Proof.Proofs
end

section
namespace Sys2Proof.Proofs
open Sys2Proof Sys2Proof.Machine

/-! # Starts, power, temperature, alarms and reports (R454, R456, R458, R461 to R463) -/

/-! ## Maps and meshes -/

section
variable {α : Type}

/-- A filter that keeps no entry of a key leaves the default there. -/
theorem get_filter_of_removed {d : α} {p : Nat × α → Bool} {i : Nat} (h : ∀ v, p (i, v) = false) (m : List (Nat × α)) :
    Sparse.get d (m.filter p) i = d := by
  have hnone : Sparse.find? (m.filter p) i = none := by
    induction m with
    | nil => rfl
    | cons x m ih =>
      rw [List.filter_cons]
      split
      next hp =>
        have hne : i ≠ x.1 := fun hi => by
          subst hi
          exact absurd (h x.2) (by simpa using hp)
        rw [Sparse.find?, if_neg hne, ih]
      next => exact ih
  rw [Sparse.get, hnone]

/-- The entries of some keys set in turn: each has its value, every other key what it had. -/
theorem get_foldl_set [DecidableEq α] (d : α) (g : Nat → α) (ks : List Nat) (m : List (Nat × α)) (i : Nat) :
    Sparse.get d ((ks.map fun k => (k, g k)).foldl (fun m x => Sparse.set d m x.1 x.2) m) i = if i ∈ ks then g i else Sparse.get d m i := by
  induction ks generalizing m with
  | nil => rfl
  | cons k ks ih =>
    rw [List.map_cons, List.foldl_cons, ih]
    by_cases hmem : i ∈ ks
    · rw [if_pos hmem, if_pos (List.mem_cons_of_mem _ hmem)]
    · rw [if_neg hmem]
      by_cases hk : i = k
      · rw [if_pos (hk ▸ List.mem_cons_self), hk, Sparse.get_set_self]
      · rw [if_neg (by simp [hk, hmem]), Sparse.get_set_ne _ _ _ hk]

end

/-- The dies that a set reaches are some of the live ones, in their order. -/
theorem spread_eq_filter (live : List Nat) (n : Nat) (seen : List Nat) : ∃ p : Nat → Bool, spread live (n + 1) seen = live.filter p := by
  induction n generalizing seen with
  | zero => exact ⟨_, rfl⟩
  | succ n ih => exact ih _

/-- The part of a mesh that is kept is some of its dies, in their order (R213). -/
theorem keptPart_eq_filter (live : List Nat) : ∃ p : Nat → Bool, keptPart live = live.filter p := by
  unfold keptPart
  split
  · exact spread_eq_filter live 35 [0]
  · split
    · exact spread_eq_filter live 35 [35]
    · exact ⟨fun _ => false, by simp⟩

/-! ## What a start leaves (R210, R454) -/

/-- The machine without anything that runs. -/
def Quiet (t : State) : Prop :=
  t.ctxs = [] ∧ t.grids = [] ∧ t.msgs = [] ∧ t.stores = [] ∧ t.bcasts = [] ∧ t.combs = [] ∧ t.l2 = [] ∧ t.tiles = [] ∧ t.cur = none

section
variable (s : State) (cold : Bool) (gen : BitVec 4) (err : Nat) (c : StartFindings)

/-- The cairn table of a die as a start leaves it (R454). -/
def startCairn (d : Nat) : List (Nat × Cairn) :=
  if cold then selfTest (s.die d) ((c.failedCombs.filter fun x => decide (x.1 = d) && decide (x.2 < 156)).map (·.2)) else (s.die d).cairn

/-- The dies whose memory a start cannot train, and those that are retired (R454). -/
def startUntrained : List Nat := if cold then c.failedDies.filter fun d => decide (d < 36) else s.hive.untrained
def startRetired : List Nat := if cold then [] else s.hive.retired

/-- The dies that a start finds able to work (R211, R454). -/
def startAble : List Nat := (List.range 36).filter fun d =>
  !(startUntrained s cold c).contains d && !(startRetired s cold).contains d && (gradeDie (((startCairn s cold c d).filter fun x => x.2.dead).map (·.1))).isSome

/-- The dies that live after a start (R213). -/
def startLive : List Nat := keptPart (startAble s cold c)

/-- The shadow tables of a die after a start (R210 to R213). -/
def startTables (d : Nat) : Shadow :=
  startShadow gen (startLive s cold c) (overridesOf (overrides (startLive s cold c)) d) (startCairn s cold c d)

/-- A die after a start. -/
def startDie (d : Nat) : Die :=
  Die.take { Die.reset with live := (startLive s cold c).contains d, cairn := startCairn s cold c d } (startTables s cold gen c d)

/-- The dies of a start with their tables, and with what they hold. -/
def startShadows : List (Nat × Shadow) := (List.range 36).map fun d => (d, startTables s cold gen c d)
def startDies : List (Nat × Die) := (List.range 36).map fun d => (d, startDie s cold gen c d)

/-- The slot of the cairn tables and of the retired list (R460). -/
def startSlot : BitVec 256 :=
  extendSlot ((startDies s cold gen c).foldl (fun m d => extendSlot m (cairnBytes d.2)) 0) ((startRetired s cold).map (BitVec.ofNat 8))

end

/-- A machine with tables, dies and measurements that a start has found (R454, R460). -/
def withFound (s : State) (shadows : List (Nat × Shadow)) (dies : List (Nat × Die)) (untrained retired : List Nat) (meas stored : List (BitVec 256)) : State :=
  let s' := s.writeShadow shadows
  { s' with freeN := s'.freeN + 1, dies := dies.foldl (fun m (d : Nat × Die) => Sparse.set Die.reset m d.1 d.2) [],
            hive := { s'.hive with untrained := untrained, retired := retired, meas := meas, stored := stored, session := some (Config.freeWide s'.freeN) } }

/-- The end of a start: it halts without a die, else HBM is zeroed and the package is up (R454). -/
def broughtUp (t : State) (halts : Bool) (err : Nat) : State :=
  if halts then t.halt 2 else { t.zeroHbm with hive := { t.hive with state := 3, err := err } }

section
variable (s : State) (cold : Bool) (gen : BitVec 4) (err : Nat) (c : StartFindings)

/-- The machine with its dies numbered and its slots measured, before HBM is zeroed (R454, R460). -/
def numbered : State :=
  withFound s (startShadows s cold gen c) (startDies s cold gen c) (startUntrained s cold c) (startRetired s cold)
    (measured c ++ [startSlot s cold gen c, 0, 0, 0, 0]) (measured c)

theorem bringUp_eq : s.bringUp cold gen err c =
    broughtUp (numbered s cold gen c) (startLive s cold c).isEmpty err := by
  rfl

theorem die_numbered {d : Nat} (h : d < 36) : (numbered s cold gen c).die d = startDie s cold gen c d := by
  have hdies : (numbered s cold gen c).dies = (startDies s cold gen c).foldl (fun m x => Sparse.set Die.reset m x.1 x.2) [] := rfl
  rw [State.die, hdies, startDies, get_foldl_set, if_pos (List.mem_range.mpr h)]

/-- The live dies after a start are those that it kept, in their order. -/
theorem liveDies_numbered : (numbered s cold gen c).liveDies = startLive s cold c := by
  obtain ⟨p, hp⟩ := keptPart_eq_filter (startAble s cold c)
  have hlive : (numbered s cold gen c).liveDies = (List.range 36).filter (startLive s cold c).contains :=
    List.filter_congr fun d hd => congrArg Die.live (die_numbered s cold gen c (List.mem_range.mp hd))
  rw [hlive, startLive, hp, startAble, List.filter_filter]
  refine List.filter_congr fun d hd => ?_
  simp [List.mem_range.mp hd]

theorem gen_startDie (d : Nat) : (startDie s cold gen c d).gen = gen := by
  show (startTables s cold gen c d).gen = gen
  unfold startTables startShadow
  split <;> rfl

theorem lmap_startDie (d : Nat) : (startDie s cold gen c d).lmap = startLive s cold c := by
  show (startTables s cold gen c d).lmap = _
  unfold startTables startShadow
  split <;> rfl

end

/-- HBM below the firmware region of the live dies reads as 0 once it is zeroed (R454). -/
theorem rawByte_zeroHbm (s : State) {d x : Nat} (hd : d ∈ s.liveDies) (hx : x < firmwareBase) : s.zeroHbm.rawByte (d * 2 ^ 50 + x) = 0 := by
  obtain ⟨hrange, hlive⟩ := List.mem_filter.mp hd
  have hlt : d < 36 := List.mem_range.mp hrange
  have hfw : firmwareBase = 0xBC0000000 := rfl
  have hhost : hostBase = 2 ^ 60 := rfl
  have hscratch : scratchBase = 2 ^ 62 := rfl
  rw [State.rawByte, if_neg (by omega), if_neg (by omega)]
  refine get_filter_of_removed (fun v => ?_) s.hbm
  have hdie : (d * 2 ^ 50 + x) / 2 ^ 50 = d := by omega
  have hoff : (d * 2 ^ 50 + x) % 2 ^ 50 = x := by omega
  simp only [hdie, hoff, hlive, Bool.not_true, Bool.false_or, decide_eq_false_iff_not]
  omega

/-- A package that is up in a generation, with its dies numbered and HBM zeroed, or halted without a die (R454). -/
def Up (t : State) (gen : BitVec 4) (err : Nat) : Prop :=
  (t.hive.state = 3 ∧ t.hive.err = err ∧ t.liveDies ≠ [] ∧ (∀ d ∈ t.liveDies, (t.die d).gen = gen ∧ (t.die d).lmap = t.liveDies) ∧
    ∀ d ∈ t.liveDies, ∀ x < firmwareBase, t.rawByte (d * 2 ^ 50 + x) = 0) ∨
  (t.hive.state = 4 ∧ t.hive.err = 2 ∧ t.liveDies = [])

section
variable (s : State) (cold : Bool) (gen : BitVec 4) (err : Nat) (c : StartFindings)

theorem up_of_live {t : State} (hlive : t.liveDies ≠ []) (h : ∀ d ∈ t.liveDies, (t.die d).gen = gen ∧ (t.die d).lmap = t.liveDies) :
    Up (broughtUp t false err) gen err :=
  .inl ⟨rfl, rfl, hlive, h, fun _ hd _ hx => rawByte_zeroHbm t hd hx⟩

theorem up_of_noDie {t : State} (h : t.liveDies = []) : Up (broughtUp t true err) gen err := .inr ⟨rfl, rfl, h⟩

/-- A start from verified firmware brings the package up, or halts it with ERR 2 when no die is left (R454). -/
theorem up_bringUp : Up (s.bringUp cold gen err c) gen err := by
  have hdies := liveDies_numbered s cold gen c
  rw [bringUp_eq]
  cases hempty : (startLive s cold c).isEmpty with
  | true => exact up_of_noDie gen err (hdies.trans (List.isEmpty_iff.mp hempty))
  | false =>
    refine up_of_live gen err (fun h => ?_) fun d hd => ?_
    · rw [← hdies, h] at hempty
      cases hempty
    · have hdie := die_numbered s cold gen c (List.mem_range.mp (List.mem_filter.mp hd).1)
      rw [hdie, hdies]
      exact ⟨gen_startDie .., lmap_startDie ..⟩

/-- What depends neither on the dies, on HBM, on the free values nor on what a start writes of the hive controller. -/
structure Unstarted {β : Type} (g : State → β) : Prop where
  freeN : ∀ t n, g { t with freeN := n } = g t
  dies : ∀ t ds, g { t with dies := ds } = g t
  hbm : ∀ t m, g { t with hbm := m } = g t
  shadow : ∀ t x, g { t with hive := { t.hive with shadow := x } } = g t
  found : ∀ t u r m st se, g { t with hive := { t.hive with untrained := u, retired := r, meas := m, stored := st, session := se } } = g t
  state : ∀ t n e, g { t with hive := { t.hive with state := n, err := e } } = g t

theorem withFound_keeps {β : Type} {g : State → β} (h : Unstarted g) (shadows : List (Nat × Shadow)) (dies : List (Nat × Die)) (untrained retired : List Nat)
    (meas stored : List (BitVec 256)) : g (withFound s shadows dies untrained retired meas stored) = g s := by
  have hfound := h.found (s.writeShadow shadows) untrained retired meas stored (some (Config.freeWide s.freeN))
  have hdies := h.dies { withFound s shadows dies untrained retired meas stored with dies := s.dies } (withFound s shadows dies untrained retired meas stored).dies
  have hfree := h.freeN { withFound s shadows dies untrained retired meas stored with dies := s.dies, freeN := s.freeN } (s.freeN + 1)
  exact hdies.trans (hfree.trans (hfound.trans (h.shadow s (s.writeShadow shadows).hive.shadow)))

theorem broughtUp_keeps {β : Type} {g : State → β} (h : Unstarted g) (t : State) (halts : Bool) : g (broughtUp t halts err) = g t := by
  cases halts with
  | true => exact h.state t 4 2
  | false => exact (h.state t.zeroHbm 3 err).trans (h.hbm t _)

/-- What a start from verified firmware leaves as it was. -/
theorem bringUp_keeps {β : Type} {g : State → β} (h : Unstarted g) : g (s.bringUp cold gen err c) = g s := by
  rw [bringUp_eq, broughtUp_keeps err h]
  exact withFound_keeps s h ..

theorem quiet_bringUp (h : Quiet s) : Quiet (s.bringUp cold gen err c) :=
  (bringUp_keeps (g := Quiet) s cold gen err c ⟨fun _ _ => rfl, fun _ _ => rfl, fun _ _ => rfl, fun _ _ => rfl, fun _ _ _ _ _ _ => rfl, fun _ _ _ => rfl⟩).mpr h

theorem starts_bringUp : (s.bringUp cold gen err c).hive.starts = s.hive.starts :=
  bringUp_keeps (g := fun t => t.hive.starts) s cold gen err c
    ⟨fun _ _ => rfl, fun _ _ => rfl, fun _ _ => rfl, fun _ _ => rfl, fun _ _ _ _ _ _ => rfl, fun _ _ _ => rfl⟩

theorem power_bringUp : (s.bringUp cold gen err c).hive.power = s.hive.power :=
  bringUp_keeps (g := fun t => t.hive.power) s cold gen err c
    ⟨fun _ _ => rfl, fun _ _ => rfl, fun _ _ => rfl, fun _ _ => rfl, fun _ _ _ _ _ _ => rfl, fun _ _ _ => rfl⟩

theorem floors_bringUp : (s.bringUp cold gen err c).hive.floors = s.hive.floors :=
  bringUp_keeps (g := fun t => t.hive.floors) s cold gen err c
    ⟨fun _ _ => rfl, fun _ _ => rfl, fun _ _ => rfl, fun _ _ => rfl, fun _ _ _ _ _ _ => rfl, fun _ _ _ => rfl⟩

theorem adapter_bringUp : (s.bringUp cold gen err c).adapter = s.adapter :=
  bringUp_keeps (g := State.adapter) s cold gen err c
    ⟨fun _ _ => rfl, fun _ _ => rfl, fun _ _ => rfl, fun _ _ => rfl, fun _ _ _ _ _ _ => rfl, fun _ _ _ => rfl⟩

end

theorem quiet_wiped (s : State) : Quiet s.wiped := ⟨rfl, rfl, rfl, rfl, rfl, rfl, rfl, rfl, rfl⟩

/-! ## Cold and warm starts (R454) -/

/-- A start as the hive controller counts it: with power, the trip forgotten, and nothing running (R454, R456). -/
def Counted (s t : State) : Prop := t.hive.starts = s.hive.starts + 1 ∧ t.hive.power = true ∧ t.hive.tripErr = false ∧ Quiet t

/-- What a cold start of some findings leaves: halted by the verification, or up in generation 0 with the floors raised (R454, R459). -/
def Coldly (s : State) (c : StartFindings) (t : State) (err : Nat) : Prop := Counted s t ∧ t.adapter = Adapter.reset ∧
  (verifyErr s.hive.floors c ≠ 0 → t.hive.state = 4 ∧ t.hive.err = verifyErr s.hive.floors c ∧ t.hive.floors = s.hive.floors) ∧
  (verifyErr s.hive.floors c = 0 → t.hive.floors = (List.range 3).map (fun k => ((image c k).map fun i => i.version.toNat).getD 0) ∧ Up t 0 err)

/-- The state with a thermal trip forgotten. -/
def tripForgotten (t : State) : State := { t with hive := { t.hive with tripErr := false } }

/-- The machine as a start begins (R454, R460). -/
def begun (s : State) : State := { s.wiped with hive := s.hive.begin }

/-- The floors raised to the versions of the images (R459). -/
def floorsRaised (c : StartFindings) (t : State) : State :=
  { t with hive := { t.hive with floors := (List.range 3).map fun k => ((image c k).map fun (i : FwImage) => i.version.toNat).getD 0 } }

section
variable (s : State) (c : StartFindings)

theorem cold_of_verified {was : Nat} (h : verifyErr s.hive.floors c = 0) : s.cold was c = (floorsRaised c (begun s)).bringUp true 0 was c := by
  unfold State.cold
  extract_lets -underBinder _ t
  split
  next => rfl
  next hne => exact absurd h hne

theorem cold_of_refused {was : Nat} (h : verifyErr s.hive.floors c ≠ 0) : s.cold was c = (begun s).halt (verifyErr s.hive.floors c) := by
  unfold State.cold
  extract_lets -underBinder _ t
  split
  next h0 => exact absurd h0 h
  next => rfl

/-- A cold start leaves what it says, whatever ERR it reports otherwise (R454). -/
theorem coldly_cold (was : Nat) : Coldly s c (tripForgotten (s.cold was c)) was := by
  by_cases h : verifyErr s.hive.floors c = 0
  · rw [cold_of_verified s c h]
    refine ⟨⟨starts_bringUp .., power_bringUp .., rfl, quiet_bringUp _ _ _ _ _ (quiet_wiped s)⟩, adapter_bringUp .., fun hne => absurd h hne,
      fun _ => ⟨floors_bringUp .., up_bringUp ..⟩⟩
  · rw [cold_of_refused s c h]
    exact ⟨⟨rfl, rfl, rfl, quiet_wiped s⟩, rfl, fun _ => ⟨rfl, rfl, rfl⟩, fun h0 => absurd h0 h⟩

/-- The ERR that a start reports after a thermal trip (R456). -/
def tripCode : Nat := if s.hive.tripErr then 3 else 0

theorem exec_coldStart : exec (.coldStart c) s = .next (tripForgotten (s.cold (tripCode s) c)) := rfl

/-- The generation after the present one (R19). -/
def nextGen : BitVec 4 := (s.die (s.liveDies.headD 0)).gen + 1

/-- A warm start before the driver is told of it (R454). -/
def warmed : State := ({ begun s with hive := { s.hive.begin with state := 2 } } : State).bringUp false (nextGen s) (tripCode s) c

theorem warm_eq : s.warm c = if (warmed s c).hive.state = 3 then
    (warmed s c).notify 1 ((warmed s c).die ((warmed s c).liveDies.headD 0)).gen.toNat (warmed s c).liveDies.length 0 else warmed s c := rfl

/-- A notice to an adapter as it is after a reset is held (R451). -/
theorem notify_of_reset {t : State} (h : t.adapter = Adapter.reset) (kind v1 v2 v3 : Nat) : t.notify kind v1 v2 v3 =
    { t with adapter := { Adapter.reset with held := [[BitVec.ofNat 32 kind, BitVec.ofNat 32 v1, BitVec.ofNat 32 v2, BitVec.ofNat 32 v3]] } } := by
  simp only [State.notify, State.notice, h]
  rfl

/-- What the driver is told of a package that is up (R451). -/
def toldOf (t : State) : List (List Word) :=
  if t.hive.state = 3 then [[1, BitVec.ofNat 32 (t.die (t.liveDies.headD 0)).gen.toNat, BitVec.ofNat 32 t.liveDies.length, 0]] else []

/-- A warm start holds the notice that the package is up, and is else as it was before the driver is told. -/
theorem warm_eq_warmed : s.warm c = { warmed s c with adapter := { Adapter.reset with held := toldOf (warmed s c) } } := by
  have hadapter : (warmed s c).adapter = Adapter.reset := adapter_bringUp ..
  rw [warm_eq, toldOf]
  split
  · exact notify_of_reset hadapter ..
  · exact congrArg (fun a => ({ warmed s c with adapter := a } : State)) hadapter

theorem counted_warm : Counted s (tripForgotten (s.warm c)) := by
  rw [warm_eq_warmed]
  exact ⟨starts_bringUp .., power_bringUp .., rfl, quiet_bringUp _ _ _ _ _ (quiet_wiped s)⟩

theorem up_warm : Up (tripForgotten (s.warm c)) (nextGen s) (tripCode s) := by
  rw [warm_eq_warmed]
  exact up_bringUp ..

theorem adapter_warm : (tripForgotten (s.warm c)).adapter = { Adapter.reset with held := toldOf (tripForgotten (s.warm c)) } := by
  rw [warm_eq_warmed]
  rfl

theorem exec_warmStart_of_coldOnly (h : s.hive.coldOnly = true) : exec (.warmStart c) s = .next s := if_pos h

theorem exec_warmStart_of_same (h : s.hive.coldOnly = false) (hsame : measured c = s.hive.stored) :
    exec (.warmStart c) s = .next (tripForgotten (s.warm c)) := by
  show execWarmStart c s = _
  simp only [execWarmStart, h, hsame, Bool.false_eq_true, if_false, if_true, tripForgotten]

theorem exec_warmStart_of_other (h : s.hive.coldOnly = false) (hother : measured c ≠ s.hive.stored) :
    exec (.warmStart c) s = .next (tripForgotten (s.cold 1 c)) := by
  show execWarmStart c s = _
  simp only [execWarmStart, h, Bool.false_eq_true, if_false, if_neg hother, tripForgotten]

end

theorem startsAndPower : Claim.StartsAndPower := by
  intro s c die temp power
  refine ⟨⟨_, exec_coldStart s c, coldly_cold s c _⟩,
    fun hgo hsame => ⟨_, exec_warmStart_of_same s c hgo hsame, counted_warm s c, adapter_warm s c, up_warm s c⟩,
    fun hgo hother => ⟨_, exec_warmStart_of_other s c hgo hother, coldly_cold s c 1⟩, fun h => exec_warmStart_of_coldOnly s c h,
    ⟨rfl, rfl, rfl, quiet_wiped s, rfl, rfl, rfl, rfl, rfl, rfl, rfl⟩, rfl, fun h => if_pos h, fun h => if_neg (Nat.not_le.mpr h)⟩

/-! ## Alarms (R462, R463) -/

section
variable (s : State) (level sensor die : Nat)

/-- The hive controller with an alarm noted: slot 5 is extended, and the highest level kept (R462). -/
def alarmNoted : Hive :=
  let n := s.notify 6 level sensor die
  { n.hive with meas := n.hive.meas.modify 5 (fun m => extendSlot m (alarmRecord level sensor die)), alarm := Nat.max n.hive.alarm level }

theorem exec_securityAlarm_one : exec (.securityAlarm 1 sensor die) s = .next { s.notify 6 1 sensor die with hive := alarmNoted s 1 sensor die } := rfl

theorem exec_securityAlarm_two : exec (.securityAlarm 2 sensor die) s = .next { s.notify 6 2 sensor die with
    cur := none, hive := { ({ alarmNoted s 2 sensor die with session := none } : Hive).giveUp 1 with coldOnly := true, state := 4, err := 6 } } := rfl

theorem exec_securityAlarm_three : exec (.securityAlarm 3 sensor die) s = .next { s.notify 6 3 sensor die with
    cur := none, hive := { ({ alarmNoted s 3 sensor die with session := none, seeds := none, nextLeaf := 0 } : Hive).giveUp 3 with
      coldOnly := true, state := 4, err := 7 } } := rfl

end

/-! ## Reports (R458, R461, R463) -/

section
variable {s : State} {nonce : BitVec 256}

/-- Whether no report can be signed: the key is erased or exhausted (R461, R462). -/
def NoKey (h : Hive) : Prop := h.seeds = none ∨ 2 ^ 20 ≤ h.nextLeaf

theorem noKey_iff (h : Hive) : NoKey h ↔ h.keyErased = true ∨ leaves ≤ h.nextLeaf := by
  rw [NoKey, Hive.keyErased, Option.isNone_iff_eq_none]
  rfl

/-- A request answered with a status (R461). -/
def withStatus (h : Hive) (x : Nat) : Hive := { h with statuses := h.statuses ++ [x] }

theorem exec_reportRequest_of_noKey (h : NoKey s.hive) : exec (.reportRequest nonce) s = .next { s with hive := withStatus s.hive 3 } :=
  if_pos ((noKey_iff s.hive).mp h)

theorem exec_reportRequest_of_key (h : ¬ NoKey s.hive) : exec (.reportRequest nonce) s =
    if s.hive.state ≠ 3 then .next { s with hive := withStatus s.hive 1 }
    else if !s.hive.reports.isEmpty then .next { s with hive := { withStatus s.hive 2 with reports := s.hive.reports ++ [s.reportNow nonce none] } }
    else .next { s with hive :=
      { withStatus s.hive 2 with nextLeaf := s.hive.nextLeaf + 1, reports := [s.reportNow nonce (some s.hive.nextLeaf)] } } :=
  if_neg fun hk => h ((noKey_iff s.hive).mpr hk)

/-- The first report released, with its status, and the others left (R461). -/
def withReleased (h : Hive) (r : Report) (rs : List Report) : Hive :=
  { h with released := h.released ++ [r], statuses := h.statuses.set r.num 0, reports := rs }

theorem exec_reportComplete_of_none (h : s.hive.reports = []) : exec .reportComplete s = .next s := by
  show execReportComplete s = _
  simp only [execReportComplete, h]

theorem exec_reportComplete_of_one {r : Report} (h : s.hive.reports = [r]) :
    exec .reportComplete s = .next { s with hive := withReleased s.hive r [] } := by
  show execReportComplete s = _
  simp only [execReportComplete, h, withReleased]

theorem exec_reportComplete_of_more {r q : Report} {qs : List Report} (h : s.hive.reports = r :: q :: qs) : exec .reportComplete s =
    if leaves ≤ s.hive.nextLeaf then .next { s with hive := (withReleased s.hive r (q :: qs)).giveUp 3 }
    else .next { s with hive := { withReleased s.hive r ({ q with leaf := some s.hive.nextLeaf } :: qs) with nextLeaf := s.hive.nextLeaf + 1 } } := by
  show execReportComplete s = _
  simp only [execReportComplete, h, withReleased]

/-! ## Reports given up (R463) -/

/-- The statuses with those of some reports set. -/
def setStatuses (rs : List Report) (x : Nat) (l : List Nat) : List Nat := rs.foldl (fun l r => l.set r.num x) l

theorem length_setStatuses (rs : List Report) (x : Nat) (l : List Nat) : (setStatuses rs x l).length = l.length := by
  induction rs generalizing l with
  | nil => rfl
  | cons r rs ih => exact (ih _).trans List.length_set

/-- Every other status stays. -/
theorem setStatuses_of_other {rs : List Report} {k : Nat} (h : ∀ r ∈ rs, r.num ≠ k) (x : Nat) (l : List Nat) : (setStatuses rs x l)[k]? = l[k]? := by
  induction rs generalizing l with
  | nil => rfl
  | cons r rs ih =>
    obtain ⟨hr, hrs⟩ := List.forall_mem_cons.mp h
    exact (ih hrs _).trans (List.getElem?_set_ne hr)

/-- The status of each report is the one set. -/
theorem setStatuses_of_some {rs : List Report} {k : Nat} (h : ∃ r ∈ rs, r.num = k) (x : Nat) {l : List Nat} (hl : k < l.length) :
    (setStatuses rs x l)[k]? = some x := by
  induction rs generalizing l with
  | nil => simp at h
  | cons q rs ih =>
    by_cases htail : ∃ r ∈ rs, r.num = k
    · exact ih htail (by rwa [List.length_set])
    · have hq : q.num = k := by simpa [htail] using h
      have hset : (l.set q.num x)[k]? = some x := hq ▸ List.getElem?_set_self (hq ▸ hl)
      exact (setStatuses_of_other (fun r hr hk => htail ⟨r, hr, hk⟩) x _).trans hset

end

theorem alarmsAndReports : Claim.AlarmsAndReports := by
  intro s level sensor die nonce
  refine ⟨fun h => ?one, fun h => ?two, fun h => ?three, exec_reportRequest_of_noKey, fun hkey hstate => ?outside, fun hkey hstate hnone => ?takesLeaf,
    fun hkey hstate hsome => ?queued, fun r h => exec_reportComplete_of_one h, fun r q qs h hleaf => ?next, fun r q qs h hleaf => ?exhausted,
    exec_reportComplete_of_none, fun x => ⟨rfl, rfl, length_setStatuses .., fun r hr hlt => ?given, fun k hk => setStatuses_of_other hk ..⟩⟩
  case one => subst h; exact exec_securityAlarm_one ..
  case two => subst h; exact exec_securityAlarm_two ..
  case three => subst h; exact exec_securityAlarm_three ..
  case outside => exact (exec_reportRequest_of_key hkey).trans (if_pos hstate)
  case takesLeaf => exact (exec_reportRequest_of_key hkey).trans ((if_neg (not_not_intro hstate)).trans (if_neg (by simp [show s.hive.reports = [] from hnone])))
  case queued => exact (exec_reportRequest_of_key hkey).trans ((if_neg (not_not_intro hstate)).trans (if_pos (by simpa using hsome)))
  case next => exact (exec_reportComplete_of_more h).trans (if_neg (Nat.not_le.mpr hleaf))
  case exhausted => exact (exec_reportComplete_of_more h).trans (if_pos hleaf)
  case given => exact setStatuses_of_some ⟨r, hr, rfl⟩ x hlt

/-- Settles O44: a start by what its findings and the stored measurement say, an alarm by its level, a report by the key and the queue. -/
theorem startsAlarmsAndReports : Obligations.StartsAlarmsAndReports := ⟨startsAndPower, alarmsAndReports⟩

end Sys2Proof.Proofs
end

section
namespace Sys2Proof.Proofs
open Sys2Proof Sys2Proof.Machine

/-! # Images of a frozen context (R322, R323, R345 to R352) -/

/-! ## CTXSAVE (R346, R347, R349 to R351) -/

/-- What a save answers: a context, its image's bytes by number, the hidden part and what the save leaves; or a code. -/
abbrev Saving : Type := Except Nat (Nat × (Nat → List Byte) × ImageBody × (State → State))

section
variable {f : SForm} {i : Instr} {what : Env → Nat → Saving} (hx : ∀ s, exec i s = ctxsave f s what)
include hx

/-- Without the feature a save writes 7. -/
theorem writes_ctxsave_of_off : Writes i (ctxsaveRule f) (fun e => e.s.feature 3 = false) fun e => e.write32 f.d false [(0, BitVec.ofNat 32 7)] :=
  .of_body fun s => ⟨_, hx s, fun e hoff => if_pos (by rw [hoff]; rfl)⟩

/-- A save that finds nothing to write at its address writes the code of why not. -/
theorem writes_ctxsave_of_error {P : Env → Prop} {k : Nat} (h : ∀ e, P e → what e (e.read32 f.b 0).toNat = .error k) :
    Writes i (ctxsaveRule f) (fun e => e.s.feature 3 = true ∧ P e) fun e => e.write32 f.d false [(0, BitVec.ofNat 32 k)] :=
  .of_body fun s => ⟨_, hx s, fun e ⟨hon, hP⟩ => by simp only [hon, h e hP]; rfl⟩

variable {P : Env → Prop} {ctx : Env → Nat} {bs : Env → List Byte} {body : Env → ImageBody} (left : Env → State → State)

/-- A save of a context where `P` holds, by what its instruction says of one that is frozen and of one that is not. -/
theorem saves_of_what
    (hok : ∀ e, P e → e.s.isFrozen e.ck (ctx e) = true →
      ∃ bytes, what e (e.read32 f.b 0).toNat = .ok (ctx e, bytes, body e, left e) ∧ bytes e.s.nextUid = bs e)
    (hnot : ∀ e, P e → e.s.isFrozen e.ck (ctx e) = false → what e (e.read32 f.b 0).toNat = .error 1) :
    Completes i (ctxsaveRule f)
      (fun e => e.s.feature 3 = true ∧ P e ∧ e.s.isFrozen e.ck (ctx e) = true ∧ e.s.imageOk (e.read64 f.a 0).toNat (bs e).length = true) (fun e o =>
      o = ⟨left e (e.s.putImage e.ck (ctx e) (e.read64 f.a 0).toNat (bs e) (body e)), e.th, e.write32 f.d false [(0, BitVec.ofNat 32 0)], 0, none, .seq⟩) ∧
    Writes i (ctxsaveRule f)
      (fun e => e.s.feature 3 = true ∧ P e ∧ e.s.isFrozen e.ck (ctx e) = true ∧ e.s.imageOk (e.read64 f.a 0).toNat (bs e).length = false)
      (fun e => e.write32 f.d false [(0, BitVec.ofNat 32 3)]) ∧
    Writes i (ctxsaveRule f) (fun e => e.s.feature 3 = true ∧ P e ∧ e.s.isFrozen e.ck (ctx e) = false)
      (fun e => e.write32 f.d false [(0, BitVec.ofNat 32 1)]) ∧
    Writes i (ctxsaveRule f) (fun e => e.s.feature 3 = false) (fun e => e.write32 f.d false [(0, BitVec.ofNat 32 7)]) := by
  refine ⟨.of_body fun s => ⟨_, hx s, ?saved⟩, .of_body fun s => ⟨_, hx s, ?badAddress⟩,
    writes_ctxsave_of_error hx fun e ⟨hP, hf⟩ => hnot e hP hf, writes_ctxsave_of_off hx⟩
  case saved =>
    intro e ⟨hon, hP, hf, himg⟩
    obtain ⟨bytes, hwhat, hbs⟩ := hok e hP hf
    refine ⟨⟨left e (e.s.putImage e.ck (ctx e) (e.read64 f.a 0).toNat (bs e) (body e)), e.th, _, 0, none, .seq⟩, ?_, rfl, rfl⟩
    simp only [hon, hwhat, hbs, himg]
    rfl
  case badAddress =>
    intro e ⟨hon, hP, hf, himg⟩
    obtain ⟨bytes, hwhat, hbs⟩ := hok e hP hf
    simp only [hon, hwhat, hbs, himg]
    rfl

end

/-! ### What each form finds -/

/-- The context's cancelled copies on the comb (R347). -/
def cancelledOf (c : Comb) (ctx : Nat) : List AsyncOp := c.cancelled.filter fun o => decide (o.ctx = ctx)

/-- What CTXSAVE.copies leaves: the other contexts' cancelled copies. -/
def copiesLeft (ck ctx : Nat) (s : State) : State :=
  s.modComb ck fun c => { c with cancelled := c.cancelled.filter fun o => decide (o.ctx ≠ ctx) }

/-- What CTXSAVE.copies saves. -/
def copiesToSave (e : Env) (b : Nat) : Saving :=
  let ctx := b % 256
  let mine := cancelledOf (e.s.comb e.ck) ctx
  if !e.s.isFrozen e.ck ctx then .error 1
  else if mine.isEmpty then .error 2
  else .ok (ctx, fun n => copiesImage n ctx mine, .copies mine, copiesLeft e.ck ctx)

/-- A group with the results of its last run in place. -/
def landedGroup (th : Thread) : Thread := th.flights.foldl Thread.land { th with flights := [] }

/-- What a save of a slot's group saves (R351). -/
def slotToSave (e : Env) (k : Nat) (th : Thread) : Saving :=
  if !e.s.isFrozen e.ck (th.place.ctx.getD 0xFF) then .error 1
  else .ok (th.place.ctx.getD 0xFF, fun n => groupImage e.s e.ck k n (landedGroup th),
    .group (landedGroup th) k ((e.s.comb e.ck).rclaims.find? fun r => r.uid = (landedGroup th).uid) ((landedGroup th).stopped && (landedGroup th).undisp),
    fun s => s.unslot e.ck k (landedGroup th))

/-- What CTXSAVE.group saves: the group of the slot that B names. -/
def groupToSave (e : Env) (b : Nat) : Saving :=
  match Sparse.find? (e.s.comb e.ck).groups (b % 64) with
  | none => .error 2
  | some th => slotToSave e (b % 64) th

/-- Whether a group of a team that is no task's still has its slot (R349). -/
def groupHeld (c : Comb) (key : Nat) (t : Team) : Bool := !t.isTask && c.groups.any fun g => g.2.place.team = key

/-- A team's sequencer. -/
def teamSeq (c : Comb) (t : Team) : Option Seq := t.seq.bind fun q => Sparse.find? c.seqs q

/-- A team's passes in the reservation table. -/
def teamPasses (c : Comb) (t : Team) : List Pass := c.passes.filter fun p => t.seq = some p.seq

/-- The matrix image inside a team's image, if the team holds tiles or a sequencer (R322). -/
def matrixPart (c : Comb) (t : Team) : List Byte :=
  if (teamSeq c t).isSome || !t.tiles.isEmpty then matrixHead c (teamSeq c t) t (teamPasses c t) else []

/-- What a save of a team by its key saves (R349 to R351). -/
def keyToSave (e : Env) (key : Nat) (t : Team) : Saving :=
  let c := e.s.comb e.ck
  if !e.s.isFrozen e.ck t.ctx then .error 1
  else if groupHeld c key t then .error 6
  else .ok (t.ctx, fun n => teamImage c n t (matrixPart c t), .team key t (teamSeq c t) (c.teamCells t) (teamPasses c t),
    fun s => s.setComb e.ck ((s.comb e.ck).withoutTeam key t))

/-- What CTXSAVE.team saves: the team that B names. -/
def teamToSave (e : Env) (b : Nat) : Saving :=
  match ((e.s.comb e.ck).namedTeam b).bind fun k => (Sparse.find? (e.s.comb e.ck).teams k).map fun t => (k, t) with
  | none => .error 2
  | some (key, t) => keyToSave e key t

/-- The context's tasks in the slots of the task table. -/
def slotsToSave (c : Comb) (ctx : Nat) : List (Nat × TaskSlot) := c.table.filter fun t => t.2.task.isSome && decide (t.2.ctx = ctx)

/-- The context's ready tasks, in the order of the queue. -/
def readyToSave (c : Comb) (ctx : Nat) : List ReadyEnt := c.readyOrder.filter fun r => decide (r.ctx = ctx)

/-- What CTXSAVE.queues leaves: the slots free, and room for the tasks that wait for it. -/
def queuesLeft (ck ctx : Nat) (slots : List (Nat × TaskSlot)) (s : State) : State :=
  (s.modComb ck fun c => slots.foldl (fun c t => c.freeTableSlot t.1) { c with ready := c.ready.filter fun r => decide (r.ctx ≠ ctx) }).admitRoom ck

/-- What CTXSAVE.queues saves (R351). -/
def queuesToSave (e : Env) (b : Nat) : Saving :=
  let ctx := b % 256
  let c := e.s.comb e.ck
  if !e.s.isFrozen e.ck ctx then .error 1
  else if (slotsToSave c ctx).isEmpty && (readyToSave c ctx).isEmpty then .error 2
  else .ok (ctx, fun n => queueImage c n ctx (slotsToSave c ctx) (readyToSave c ctx), .queues (slotsToSave c ctx) (readyToSave c ctx) c.clk,
    queuesLeft e.ck ctx (slotsToSave c ctx))

/-- What CTXSAVE.fifo leaves: the bank in its mode, without entries. -/
def fifoLeft (ck k : Nat) (bank : Bank) (s : State) : State := s.modComb ck fun c => c.setBank k { bank with ents := [], spilled := [] }

/-- What CTXSAVE.fifo saves: a bank in its FIFO mode (R349). -/
def fifoToSave (e : Env) (b : Nat) : Saving :=
  let bank := (e.s.comb e.ck).bank (b % 16)
  if bank.mode ≠ .fifo then .error 2
  else if !e.s.isFrozen e.ck bank.owner then .error 1
  else .ok (bank.owner, fun n => fifoImage n (b % 16) bank, .fifo (b % 16) bank, fifoLeft e.ck (b % 16) bank)

theorem exec_ctxsaveCopies (f : SForm) (s : State) : exec (.ctxsaveCopies f) s = ctxsave f s copiesToSave := rfl
theorem exec_ctxsaveGroup (f : SForm) (s : State) : exec (.ctxsaveGroup f) s = ctxsave f s groupToSave := rfl
theorem exec_ctxsaveTeam (f : SForm) (s : State) : exec (.ctxsaveTeam f) s = ctxsave f s teamToSave := rfl
theorem exec_ctxsaveQueues (f : SForm) (s : State) : exec (.ctxsaveQueues f) s = ctxsave f s queuesToSave := rfl
theorem exec_ctxsaveFifo (f : SForm) (s : State) : exec (.ctxsaveFifo f) s = ctxsave f s fifoToSave := rfl

theorem exec_ctxsaveFreeze (f : SForm) (s : State) : exec (.ctxsaveFreeze f) s = issue s (ruleCtxsaveFreeze f) fun e =>
    if !e.s.feature 3 then e.status f e.s 7
    else e.broadcast (.freeze ((e.read32 f.b 0).toNat % 256)) fun _ =>
      e.status f e.s (((e.s.comb e.ck).ctxSlots ((e.read32 f.b 0).toNat % 256)).length * 256) := rfl

section
variable {e : Env} {b : Nat}

theorem not_not_frozen {ctx : Nat} (h : e.s.isFrozen e.ck ctx = true) : ¬ (!e.s.isFrozen e.ck ctx) = true := by
  rw [h]
  exact Bool.false_ne_true

theorem copiesToSave_of_running (h : e.s.isFrozen e.ck (b % 256) = false) : copiesToSave e b = .error 1 :=
  if_pos (by rw [h]; rfl)

theorem copiesToSave_of_none (h : e.s.isFrozen e.ck (b % 256) = true) (hn : cancelledOf (e.s.comb e.ck) (b % 256) = []) : copiesToSave e b = .error 2 :=
  (if_neg (not_not_frozen h)).trans (if_pos (List.isEmpty_iff.2 hn))

theorem copiesToSave_of_some (h : e.s.isFrozen e.ck (b % 256) = true) (hn : cancelledOf (e.s.comb e.ck) (b % 256) ≠ []) : copiesToSave e b =
    .ok (b % 256, fun n => copiesImage n (b % 256) (cancelledOf (e.s.comb e.ck) (b % 256)), .copies (cancelledOf (e.s.comb e.ck) (b % 256)),
      copiesLeft e.ck (b % 256)) :=
  (if_neg (not_not_frozen h)).trans (if_neg fun hb => hn (List.isEmpty_iff.1 hb))

theorem groupToSave_of_none (h : Sparse.find? (e.s.comb e.ck).groups (b % 64) = none) : groupToSave e b = .error 2 := by
  simp only [groupToSave, h]

theorem groupToSave_of_some {th : Thread} (h : Sparse.find? (e.s.comb e.ck).groups (b % 64) = some th) : groupToSave e b = slotToSave e (b % 64) th := by
  simp only [groupToSave, h]

theorem slotToSave_of_running {k : Nat} {th : Thread} (h : e.s.isFrozen e.ck (th.place.ctx.getD 0xFF) = false) : slotToSave e k th = .error 1 :=
  if_pos (by rw [h]; rfl)

theorem slotToSave_of_frozen {k : Nat} {th : Thread} (h : e.s.isFrozen e.ck (th.place.ctx.getD 0xFF) = true) : slotToSave e k th =
    .ok (th.place.ctx.getD 0xFF, fun n => groupImage e.s e.ck k n (landedGroup th),
      .group (landedGroup th) k ((e.s.comb e.ck).rclaims.find? fun r => r.uid = (landedGroup th).uid) ((landedGroup th).stopped && (landedGroup th).undisp),
      fun s => s.unslot e.ck k (landedGroup th)) :=
  if_neg (not_not_frozen h)

theorem teamToSave_of_none (h : (e.s.comb e.ck).namedTeam b = none) : teamToSave e b = .error 2 := by
  simp only [teamToSave, h, Option.bind_none]

theorem teamToSave_of_named {k : Nat} {t : Team} (hk : (e.s.comb e.ck).namedTeam b = some k) (ht : Sparse.find? (e.s.comb e.ck).teams k = some t) :
    teamToSave e b = keyToSave e k t := by
  simp only [teamToSave, hk, Option.bind_some, ht, Option.map_some]

section
variable {k : Nat} {t : Team}

theorem keyToSave_of_running (h : e.s.isFrozen e.ck t.ctx = false) : keyToSave e k t = .error 1 :=
  if_pos (by rw [h]; rfl)

theorem keyToSave_of_held (h : e.s.isFrozen e.ck t.ctx = true) (hheld : groupHeld (e.s.comb e.ck) k t = true) : keyToSave e k t = .error 6 :=
  (if_neg (not_not_frozen h)).trans (if_pos hheld)

theorem keyToSave_of_frozen (h : e.s.isFrozen e.ck t.ctx = true) (hheld : groupHeld (e.s.comb e.ck) k t = false) : keyToSave e k t =
    .ok (t.ctx, fun n => teamImage (e.s.comb e.ck) n t (matrixPart (e.s.comb e.ck) t),
      .team k t (teamSeq (e.s.comb e.ck) t) ((e.s.comb e.ck).teamCells t) (teamPasses (e.s.comb e.ck) t),
      fun s => s.setComb e.ck ((s.comb e.ck).withoutTeam k t)) :=
  (if_neg (not_not_frozen h)).trans (if_neg (ne_true_of_eq_false hheld))

end

theorem queuesToSave_of_running (h : e.s.isFrozen e.ck (b % 256) = false) : queuesToSave e b = .error 1 :=
  if_pos (by rw [h]; rfl)

theorem queuesToSave_of_none (h : e.s.isFrozen e.ck (b % 256) = true) (hs : slotsToSave (e.s.comb e.ck) (b % 256) = [])
    (hr : readyToSave (e.s.comb e.ck) (b % 256) = []) : queuesToSave e b = .error 2 :=
  (if_neg (not_not_frozen h)).trans (if_pos (by rw [hs, hr]; rfl))

theorem queuesToSave_of_some (h : e.s.isFrozen e.ck (b % 256) = true)
    (hn : slotsToSave (e.s.comb e.ck) (b % 256) ≠ [] ∨ readyToSave (e.s.comb e.ck) (b % 256) ≠ []) : queuesToSave e b =
    .ok (b % 256, fun n => queueImage (e.s.comb e.ck) n (b % 256) (slotsToSave (e.s.comb e.ck) (b % 256)) (readyToSave (e.s.comb e.ck) (b % 256)),
      .queues (slotsToSave (e.s.comb e.ck) (b % 256)) (readyToSave (e.s.comb e.ck) (b % 256)) (e.s.comb e.ck).clk,
      queuesLeft e.ck (b % 256) (slotsToSave (e.s.comb e.ck) (b % 256))) := by
  refine (if_neg (not_not_frozen h)).trans (if_neg fun hempty => ?_)
  rw [Bool.and_eq_true, List.isEmpty_iff, List.isEmpty_iff] at hempty
  exact hn.elim (· hempty.1) (· hempty.2)

theorem fifoToSave_of_mode (h : ((e.s.comb e.ck).bank (b % 16)).mode ≠ .fifo) : fifoToSave e b = .error 2 := if_pos h

theorem fifoToSave_of_running (hm : ((e.s.comb e.ck).bank (b % 16)).mode = .fifo)
    (h : e.s.isFrozen e.ck ((e.s.comb e.ck).bank (b % 16)).owner = false) : fifoToSave e b = .error 1 :=
  (if_neg (not_not.2 hm)).trans (if_pos (by rw [h]; rfl))

theorem fifoToSave_of_frozen (hm : ((e.s.comb e.ck).bank (b % 16)).mode = .fifo)
    (h : e.s.isFrozen e.ck ((e.s.comb e.ck).bank (b % 16)).owner = true) : fifoToSave e b =
    .ok (((e.s.comb e.ck).bank (b % 16)).owner, fun n => fifoImage n (b % 16) ((e.s.comb e.ck).bank (b % 16)),
      .fifo (b % 16) ((e.s.comb e.ck).bank (b % 16)), fifoLeft e.ck (b % 16) ((e.s.comb e.ck).bank (b % 16))) :=
  (if_neg (not_not.2 hm)).trans (if_neg (not_not_frozen h))

end

/-! ### The obligation's clauses -/

/-- What is saved of a frozen context (R346, R347, R349 to R351). -/
theorem savedState : Claim.SavedState := by
  intro f
  refine ⟨.of_body fun s => ⟨_, exec_ctxsaveFreeze f s, ?freeze⟩, .of_body fun s => ⟨_, exec_ctxsaveFreeze f s, ?frozen⟩,
    .of_body fun s => ⟨_, exec_ctxsaveFreeze f s, fun e hoff => if_pos (by rw [hoff]; rfl)⟩,
    saves_of_what (exec_ctxsaveCopies f) (fun e => copiesLeft e.ck ((e.read32 f.b 0).toNat % 256)) ?copies ?copiesRunning,
    writes_ctxsave_of_error (exec_ctxsaveCopies f) ?noCopies,
    fun th => saves_of_what (exec_ctxsaveGroup f) (fun e s => s.unslot e.ck ((e.read32 f.b 0).toNat % 64) (landedGroup th)) ?group ?groupRunning,
    writes_ctxsave_of_error (exec_ctxsaveGroup f) ?noGroup,
    fun k t => saves_of_what (exec_ctxsaveTeam f) (fun e s => s.setComb e.ck ((s.comb e.ck).withoutTeam k t)) ?team ?teamRunning,
    fun k t => writes_ctxsave_of_error (exec_ctxsaveTeam f) ?teamHeld,
    writes_ctxsave_of_error (exec_ctxsaveTeam f) ?noTeam,
    saves_of_what (exec_ctxsaveQueues f)
      (fun e => queuesLeft e.ck ((e.read32 f.b 0).toNat % 256) (slotsToSave (e.s.comb e.ck) ((e.read32 f.b 0).toNat % 256)))
      ?queues ?queuesRunning, writes_ctxsave_of_error (exec_ctxsaveQueues f) ?noQueues,
    saves_of_what (exec_ctxsaveFifo f)
      (fun e => fifoLeft e.ck ((e.read32 f.b 0).toNat % 16) ((e.s.comb e.ck).bank ((e.read32 f.b 0).toNat % 16))) ?fifo ?fifoRunning,
    writes_ctxsave_of_error (exec_ctxsaveFifo f) ?noFifo⟩
  case freeze =>
    intro e ⟨hon, hfresh⟩
    exact ⟨_, _, (if_neg (by rw [hon]; exact Bool.false_ne_true)).trans (broadcast_of_fresh _ _ (.inl hfresh)), rfl, rfl⟩
  case frozen =>
    intro e ⟨hon, v, hv⟩
    exact (if_neg (by rw [hon]; exact Bool.false_ne_true)).trans (broadcast_of_answered _ _ hv)
  case copies => exact fun e hmine hf => ⟨_, copiesToSave_of_some hf hmine, rfl⟩
  case copiesRunning => exact fun e _ hf => copiesToSave_of_running hf
  case noCopies => exact fun e ⟨hf, hmine⟩ => copiesToSave_of_none hf hmine
  case group => exact fun e hth hf => ⟨_, (groupToSave_of_some hth).trans (slotToSave_of_frozen hf), rfl⟩
  case groupRunning => exact fun e hth hf => (groupToSave_of_some hth).trans (slotToSave_of_running hf)
  case noGroup => exact fun e hth => groupToSave_of_none hth
  case team => exact fun e ⟨hk, ht, hheld⟩ hf => ⟨_, (teamToSave_of_named hk ht).trans (keyToSave_of_frozen hf hheld), rfl⟩
  case teamRunning => exact fun e ⟨hk, ht, _⟩ hf => (teamToSave_of_named hk ht).trans (keyToSave_of_running hf)
  case teamHeld => exact fun e ⟨hk, ht, hf, hheld⟩ => (teamToSave_of_named hk ht).trans (keyToSave_of_held hf hheld)
  case noTeam => exact fun e hk => teamToSave_of_none hk
  case queues => exact fun e hsome hf => ⟨_, queuesToSave_of_some hf hsome, rfl⟩
  case queuesRunning => exact fun e _ hf => queuesToSave_of_running hf
  case noQueues => exact fun e ⟨hf, hslots, hready⟩ => queuesToSave_of_none hf hslots hready
  case fifo => exact fun e hmode hf => ⟨_, fifoToSave_of_frozen hmode hf, rfl⟩
  case fifoRunning => exact fun e hmode hf => fifoToSave_of_running hmode hf
  case noFifo => exact fun e hmode => fifoToSave_of_mode hmode

/-! ## An image at its address (R349, R351) -/

/-- Whole bytes for the locations from one upward. -/
def wholeBytes (x : Nat) : List Byte → List (Nat × Byte × Byte)
  | [] => []
  | b :: bs => (x, b, 0xFF) :: wholeBytes (x + 1) bs

/-- The items that an image's store writes are whole bytes from its address upward. -/
theorem putImage_items (x : Nat) (bs : List Byte) :
    (((List.range bs.length).zip bs).map fun kb => (x + kb.1, kb.2, (0xFF : Byte))) = wholeBytes x bs := by
  induction bs generalizing x with
  | nil => rfl
  | cons b bs ih =>
    rw [List.length_cons, List.range_succ_eq_map, List.zip_cons_cons, List.map_cons, wholeBytes, ← ih, List.zip_map_left, List.map_map]
    refine congrArg _ (List.map_congr_left fun kb _ => ?_)
    simp only [Function.comp, Prod.map, id, Nat.succ_eq_add_one, Nat.add_assoc, Nat.add_comm 1]

theorem lt_of_mem_wholeBytes {x : Nat} {bs : List Byte} {it : Nat × Byte × Byte} (h : it ∈ wholeBytes x bs) : it.1 < x + bs.length := by
  induction bs generalizing x with
  | nil => exact nomatch h
  | cons b bs ih =>
    rw [List.length_cons]
    rcases List.mem_cons.1 h with rfl | h
    · dsimp only
      omega
    · exact (ih h).trans_eq (by omega)

/-- Bytes of HBM that a NORMAL access writes go to their lines (R231). -/
theorem putBytes_hbm {items : List (Nat × Byte × Byte)} (h : ∀ it ∈ items, it.1 < hostBase) (s : State) (ctx : Nat) :
    s.putBytes ctx 0 items = items.foldl (fun s it => s.putLine ctx it) (s.rewrite 0 items) := by
  refine List.foldl_ext _ _ _ fun s it hit => if_neg ?_
  simp [(h it hit).not_ge]

/-- A whole byte written to its line is read there, and every other byte is as before. -/
theorem byteNow_putLine (s : State) (ctx : Nat) {x : Nat} (hx : x < hostBase) (b : Byte) (loc : Nat) :
    (s.putLine ctx (x, b, 0xFF)).byteNow loc = if loc = x then b else s.byteNow loc := by
  by_cases hloc : hostBase ≤ loc
  · rw [if_neg (by omega), State.byteNow, State.byteNow, if_pos hloc, if_pos hloc]
    rfl
  · rw [byteNow_eq (not_le.1 hloc), byteNow_eq (not_le.1 hloc)]
    by_cases hw : loc / 4 = x / 4
    · rw [hw, (putLine_self s ctx (x, b, 0xFF)).2, byteOf_mergeByte _ _ (Nat.mod_lt _ (by decide)) (Nat.mod_lt _ (by decide))]
      exact if_congr (by dsimp only; omega) rfl rfl
    · rw [(putLine_other s ctx (x, b, 0xFF) hw).1, if_neg (fun h : loc = x => hw (by rw [h]))]

/-- Bytes written from a location upward are read there, and every other byte is as before. -/
theorem byteNow_putLines (s : State) (ctx : Nat) {x : Nat} {bs : List Byte} (hx : x + bs.length ≤ hostBase) (loc : Nat) :
    ((wholeBytes x bs).foldl (fun s it => s.putLine ctx it) s).byteNow loc =
      if x ≤ loc ∧ loc < x + bs.length then bs.getD (loc - x) 0 else s.byteNow loc := by
  induction bs generalizing x s with
  | nil => exact (if_neg (by rw [List.length_nil]; omega)).symm
  | cons b bs ih =>
    rw [List.length_cons] at hx
    rw [wholeBytes, List.foldl_cons, ih _ (by omega), byteNow_putLine _ _ (by omega), List.length_cons]
    rcases Nat.lt_trichotomy loc x with h | rfl | h
    · rw [if_neg (by omega), if_neg (by omega), if_neg (by omega)]
    · rw [if_neg (by omega), if_pos rfl, if_pos (by omega), Nat.sub_self, List.getD_cons_zero]
    · rw [if_neg (c := loc = x) (by omega), show loc - x = (loc - (x + 1)) + 1 by omega, List.getD_cons_succ]
      exact if_congr (by omega) rfl rfl

theorem byteNow_rewrite (s : State) (m : Nat) (items : List (Nat × Byte × Byte)) (loc : Nat) : (s.rewrite m items).byteNow loc = s.byteNow loc := by
  rw [rewrite_frame]
  rfl

/-- What writing lines keeps: the images, the number that is next, and the combs. -/
theorem imageParts_putLines (s : State) (ctx m : Nat) (items : List (Nat × Byte × Byte)) :
    (fun s : State => (s.images, s.nextUid, s.combs)) (items.foldl (fun s it => s.putLine ctx it) (s.rewrite m items)) = (s.images, s.nextUid, s.combs) := by
  refine (view_foldl (fun s : State => (s.images, s.nextUid, s.combs)) (f := fun s it => s.putLine ctx it) (fun _ _ => rfl) items _).trans ?_
  rw [rewrite_frame]

/-- An image's address and length that a save accepts lie in HBM (R221). -/
theorem imageOk_lt {s : State} {x n : Nat} (h : s.imageOk x n = true) : x + n ≤ hostBase := by
  simp only [State.imageOk, Bool.and_eq_true, decide_eq_true_eq] at h
  obtain ⟨⟨⟨⟨_, hdie⟩, _⟩, _⟩, hend⟩ := h
  unfold hbmEnd at hend
  unfold hostBase
  omega

/-- The bytes that name an image's hidden part hold its number. -/
theorem refNum_refBytes {n : Nat} (h : n < 2 ^ 192) : refNum (refBytes n) = n := by
  have hlt : (BitVec.ofNat 192 n ^^^ Config.imageMask).toNat < 256 ^ 24 := BitVec.isLt _
  rw [refNum, refBytes, leNat_leBytes, Nat.mod_eq_of_lt hlt, BitVec.ofNat_toNat, BitVec.setWidth_eq, BitVec.xor_assoc, BitVec.xor_self, BitVec.xor_zero,
    BitVec.toNat_ofNat, Nat.mod_eq_of_lt h]

/-- A stored image's bytes and its hidden part (R349, R351). -/
theorem imageStored : Claim.ImageStored := by
  intro s ck ctx x bs body t hok _
  have hlt := imageOk_lt hok
  have hput : s.putBytes 0xFF 0 (((List.range bs.length).zip bs).map fun kb => (x + kb.1, kb.2, 0xFF)) =
      (wholeBytes x bs).foldl (fun s it => s.putLine 0xFF it) (s.rewrite 0 (wholeBytes x bs)) := by
    rw [putImage_items]
    exact putBytes_hbm (fun it hit => (lt_of_mem_wholeBytes hit).trans_le hlt) s 0xFF
  obtain ⟨u, hu⟩ : ∃ u, u = s.putBytes 0xFF 0 (((List.range bs.length).zip bs).map fun kb => (x + kb.1, kb.2, 0xFF)) := ⟨_, rfl⟩
  have hbyte (loc : Nat) : t.byteNow loc = if x ≤ loc ∧ loc < x + bs.length then bs.getD (loc - x) 0 else s.byteNow loc := by
    refine Eq.trans (b := u.byteNow loc) (by rw [hu]; rfl) ?_
    rw [hu, hput, byteNow_putLines _ _ hlt, byteNow_rewrite]
  have hparts : (u.images, u.nextUid, u.combs) = (s.images, s.nextUid, s.combs) := by
    rw [hu, hput]
    exact imageParts_putLines ..
  obtain ⟨himages, huid, hcombs⟩ : u.images = s.images ∧ u.nextUid = s.nextUid ∧ u.combs = s.combs := by simpa using hparts
  have ht : t = { u with
      nextUid := u.nextUid + 1
      images := u.images ++ [⟨u.nextUid, ctx, keyDie ck, (u.die (keyDie ck)).lcomb (keyComb ck), false, body⟩] } := by
    rw [hu]
    rfl
  refine ⟨fun k hk => ?_, fun loc hloc => ?_, ⟨_, by rw [ht, himages], huid, rfl, rfl, rfl⟩, by rw [ht, huid], by rw [ht, hcombs], fun n => refNum_refBytes⟩
  · rw [hbyte, if_pos (by omega), Nat.add_sub_cancel_left]
  · rw [hbyte, if_neg (by omega)]

/-! ## CTXLOAD (R323, R347, R350, R352) -/

/-- What a load puts back: the machine with it, or the code of why not. -/
abbrev Loading : Type := Except Nat State

section
variable {f : SForm} {ins : Instr} {kind : Nat} {put : Env → Nat → List Byte → Image → Loading} (hx : ∀ s, exec ins s = ctxload f s kind put)
include hx

/-- A load of an image that may not be loaded writes the code of why not. -/
theorem writes_ctxload_of_refused (k : Nat) : Writes ins (ctxloadRule f) (fun e => e.loadImage kind (e.read64 f.a 0).toNat = .error k)
    fun e => e.write32 f.d false [(0, BitVec.ofNat 32 k)] :=
  .of_body fun s => ⟨_, hx s, fun e hk => by simp only [hk]; rfl⟩

variable {bs : List Byte} {i : Image} {P : Env → Prop}

/-- A load that cannot be put back writes the code of why not. -/
theorem writes_ctxload_of_error {k : Nat} (h : ∀ e, P e → put e (e.read32 f.b 0).toNat bs i = .error k) :
    Writes ins (ctxloadRule f) (fun e => e.loadImage kind (e.read64 f.a 0).toNat = .ok (bs, i) ∧ P e) fun e => e.write32 f.d false [(0, BitVec.ofNat 32 k)] :=
  .of_body fun s => ⟨_, hx s, fun e ⟨himg, hP⟩ => by simp only [himg, h e hP]; rfl⟩

/-- A load puts back what the image holds, marks the image, and writes 0. -/
theorem completes_ctxload (new : Env → State) (h : ∀ e, P e → put e (e.read32 f.b 0).toNat bs i = .ok (new e)) :
    Completes ins (ctxloadRule f) (fun e => e.loadImage kind (e.read64 f.a 0).toNat = .ok (bs, i) ∧ P e) fun e o =>
      o = ⟨(new e).markLoaded i.num, e.th, e.write32 f.d false [(0, BitVec.ofNat 32 0)], 0, none, .seq⟩ :=
  .of_body fun s => ⟨_, hx s, fun e ⟨himg, hP⟩ =>
    ⟨⟨(new e).markLoaded i.num, e.th, _, 0, none, .seq⟩, by simp only [himg, h e hP]; rfl, rfl, rfl⟩⟩

end

/-! ### Copies (R347) -/

/-- A copy with its issuer's slot as its owner, if the issuer is on the comb. -/
def homeOf (c : Comb) (ck : Nat) (o : AsyncOp) : AsyncOp :=
  match c.groups.find? fun g => g.2.uid = o.ownerUid with
  | some g => { o with owner := .group (keyDie ck) (keyComb ck) g.1 }
  | none => o

/-- The copies of an image registered again. -/
def copiesBack (e : Env) (os : List AsyncOp) : State :=
  e.s.modComb e.ck fun c => { c with ops := os.foldl (fun l o => insertOp (homeOf (e.s.comb e.ck) e.ck o) l) c.ops }

/-- What CTXLOAD.copies puts back: the context's copies. -/
def putCopies (e : Env) (b : Nat) (_ : List Byte) (i : Image) : Loading :=
  match i.body with
  | .copies os => if b % 256 ≠ i.ctx then .error 4 else .ok (copiesBack e os)
  | _ => .error 4

theorem exec_ctxloadCopies (f : SForm) (s : State) : exec (.ctxloadCopies f) s = ctxload f s 5 putCopies := rfl

theorem putCopies_of_body {e : Env} {b : Nat} {bs : List Byte} {i : Image} {os : List AsyncOp} (hbody : i.body = .copies os) (hctx : b % 256 = i.ctx) :
    putCopies e b bs i = .ok (copiesBack e os) := by
  simp only [putCopies, hbody]
  exact if_neg (not_not.2 hctx)

/-! ### Groups -/

/-- Whether a slot is not what a saved group needs: on its core, free, with its budget, and with its team there (R352). -/
def misfits (c : Comb) (bs : List Byte) (k : Nat) (th : Thread) : Bool :=
  decide (k / 16 ≠ imageField bs 10 1) || (Sparse.find? c.groups k).isSome || decide (c.freeRegs (k / 16) < th.budget) ||
    (Sparse.find? c.teams th.place.team).isNone

theorem misfits_iff {c : Comb} {bs : List Byte} {k : Nat} {th : Thread} : misfits c bs k th = false ↔
    k / 16 = imageField bs 10 1 ∧ Sparse.find? c.groups k = none ∧ th.budget ≤ c.freeRegs (k / 16) ∧ (Sparse.find? c.teams th.place.team).isSome = true := by
  simp only [misfits, Bool.or_eq_false_iff, decide_eq_false_iff_not, not_not, not_lt, Option.isSome_eq_false_iff, Option.isNone_eq_false_iff,
    Option.isNone_iff_eq_none, and_assoc]

/-- A comb with a group in a slot again, and its claim in its place (R174). -/
def seatGroup (c : Comb) (k ctx slot : Nat) (claim : Option Claim) (th : Thread) : Comb :=
  { c with groups := Sparse.put c.groups k th, rclaims := claim.toList.foldl (fun l x => insertClaim x l) c.rclaims,
           savedSlots := Sparse.erase c.savedSlots k,
           steward := { c.steward with kept := c.steward.kept.filter fun r => !r.isTrapOf ctx slot } }

/-- The group in its slot; one that stopped posts its record again, if it was not dispatched (R192). -/
def groupBack (e : Env) (k ctx slot : Nat) (claim : Option Claim) (trap : Bool) (th : Thread) : State :=
  let c := e.s.comb e.ck
  let th := { th with issueAt := c.clk, readyAt := c.clk }
  e.s.setComb e.ck (if trap then (seatGroup c k ctx slot claim th).postTrap k th else seatGroup c k ctx slot claim th)

/-- What CTXLOAD.group puts back: a group, where its slot fits. -/
def putGroup (e : Env) (b : Nat) (bs : List Byte) (i : Image) : Loading :=
  match i.body with
  | .group th slot claim trap =>
    if misfits (e.s.comb e.ck) bs (b % 64) (groupOf bs th) then .error 5
    else .ok (groupBack e (b % 64) i.ctx slot claim trap (groupOf bs th))
  | _ => .error 4

theorem exec_ctxloadGroup (f : SForm) (s : State) : exec (.ctxloadGroup f) s = ctxload f s 1 putGroup := rfl

section
variable {e : Env} {b slot : Nat} {bs : List Byte} {i : Image} {th : Thread} {claim : Option Claim} {trap : Bool} (hbody : i.body = .group th slot claim trap)
include hbody

theorem putGroup_of_fits (h : misfits (e.s.comb e.ck) bs (b % 64) (groupOf bs th) = false) :
    putGroup e b bs i = .ok (groupBack e (b % 64) i.ctx slot claim trap (groupOf bs th)) := by
  simp only [putGroup, hbody]
  exact if_neg (ne_true_of_eq_false h)

theorem putGroup_of_misfits (h : misfits (e.s.comb e.ck) bs (b % 64) (groupOf bs th) = true) : putGroup e b bs i = .error 5 := by
  simp only [putGroup, hbody]
  exact if_pos h

end

/-! ### Teams -/

/-- Whether a matrix image's version or its reserved bytes are not as they must be (R323). -/
def matrixBad (bs : List Byte) : Bool :=
  decide (imageField bs (imageField bs 92 4) 2 ≠ 1) || decide (imageField bs (imageField bs 92 4 + 10) 2 ≠ 0) ||
    decide (imageField bs (imageField bs 92 4 + 24) 40 ≠ 0) || decide (4 ≤ imageField bs (imageField bs 92 4 + 3) 1)

theorem matrixBad_iff {bs : List Byte} : matrixBad bs = false ↔
    imageField bs (imageField bs 92 4) 2 = 1 ∧ imageField bs (imageField bs 92 4 + 10) 2 = 0 ∧ imageField bs (imageField bs 92 4 + 24) 40 = 0 ∧
      imageField bs (imageField bs 92 4 + 3) 1 < 4 := by
  simp only [matrixBad, Bool.or_eq_false_iff, decide_eq_false_iff_not, not_not, not_le, and_assoc]

/-- Whether a team's granules, its pools' registers or the entries for its passes are not free (R352). -/
def noRoom (c : Comb) (t : Team) (passes : List Pass) : Bool :=
  !(t.granules.all fun g => c.granuleFree g) || (List.range 4).any (fun k => decide (c.freeRegs k < poolRegs t.pools k)) ||
    decide (16 < c.passes.length + passes.length)

theorem noRoom_iff {c : Comb} {t : Team} {passes : List Pass} : noRoom c t passes = false ↔
    (t.granules.all fun g => c.granuleFree g) = true ∧ (∀ k < 4, poolRegs t.pools k ≤ c.freeRegs k) ∧ c.passes.length + passes.length ≤ 16 := by
  simp only [noRoom, Bool.or_eq_false_iff, Bool.not_eq_false', List.any_eq_false, List.mem_range, decide_eq_true_eq, decide_eq_false_iff_not, not_lt, and_assoc]

/-- A comb with a team again, on tiles and with a sequencer. -/
def seatTeam (c : Comb) (bs : List Byte) (key : Nat) (t : Team) (q : Option Nat) (ts : List Nat) (acc : List (Nat × Nat × Word)) : Comb :=
  let g := restoreGranules bs t (c.grant t.granules key)
  { g with teams := Sparse.put g.teams key { t with tiles := ts, seq := q }, tileOwner := ts.foldl (fun m n => Sparse.put m n key) g.tileOwner,
           acc := acc.foldl (fun m x => Sparse.set 0 m (ts.getD x.1 0 * 2048 + x.2.1) x.2.2) g.acc }

/-- A comb with a team's sequencer and its passes again. -/
def seatSeq (k : Comb) (t : Team) (ts : List Nat) (q : Nat) (x : Seq) (passes : List Pass) : Comb :=
  { k with seqs := Sparse.put k.seqs q { x with deferred := x.deferred.map fun d => { d with seq := q } }
           passes := k.passes ++ passes.map fun p => { p with seq := q, tile := ts.getD ((t.tiles.findIdx? (· = p.tile)).getD 0) 0 } }

/-- A comb with a team again, and with its sequencer and passes where it has one. -/
def teamComb (k : Comb) (t : Team) (ts : List Nat) (x : Option Seq) (q : Option Nat) (passes : List Pass) : Comb :=
  match x, q with
  | some x, some q => seatSeq k t ts q x passes
  | _, _ => k

/-- A team on free tiles, with a free sequencer if it needs one. -/
def teamOnTiles (e : Env) (bs : List Byte) (key : Nat) (t : Team) (x : Option Seq) (acc : List (Nat × Nat × Word)) (passes : List Pass) (ts : List Nat)
    (q : Option Nat) : Loading :=
  if x.isSome && q.isNone then .error 5
  else .ok (e.s.setComb e.ck (teamComb (seatTeam (e.s.comb e.ck) bs key t (if x.isSome then q else none) ts acc) t ts x (if x.isSome then q else none) passes))

/-- A team back on the comb, if its matrix image is sound and there is room for it. -/
def teamBack (e : Env) (bs : List Byte) (key : Nat) (t : Team) (x : Option Seq) (acc : List (Nat × Nat × Word)) (passes : List Pass) : Loading :=
  if (x.isSome || !t.tiles.isEmpty) && matrixBad bs then .error 4
  else if noRoom (e.s.comb e.ck) t passes then .error 5
  else match (e.s.comb e.ck).freeTiles t.tiles.length, (e.s.comb e.ck).freeSeq with
    | none, _ => .error 5
    | some ts, q => teamOnTiles e bs key t x acc passes ts q

/-- What CTXLOAD.team puts back. -/
def putTeam (e : Env) (_ : Nat) (bs : List Byte) (i : Image) : Loading :=
  match i.body with
  | .team key t x acc passes => teamBack e bs key (teamOf bs t) x acc passes
  | _ => .error 4

theorem exec_ctxloadTeam (f : SForm) (s : State) : exec (.ctxloadTeam f) s = ctxload f s 2 putTeam := by rfl

section
variable {e : Env} {bs : List Byte} {key : Nat} {t : Team} {x : Option Seq} {acc : List (Nat × Nat × Word)} {passes : List Pass}

theorem putTeam_of_body {b : Nat} {i : Image} {t0 : Team} (hbody : i.body = .team key t0 x acc passes) :
    putTeam e b bs i = teamBack e bs key (teamOf bs t0) x acc passes := by
  simp only [putTeam, hbody]

theorem teamBack_of_no_room (hsound : matrixBad bs = false) (h : noRoom (e.s.comb e.ck) t passes = true) : teamBack e bs key t x acc passes = .error 5 :=
  (if_neg (by rw [hsound, Bool.and_false]; exact Bool.false_ne_true)).trans (if_pos h)

section
variable (hmatrix : ((x.isSome || !t.tiles.isEmpty) && matrixBad bs) = false) (hroom : noRoom (e.s.comb e.ck) t passes = false)
include hmatrix hroom

theorem teamBack_of_no_tiles (h : (e.s.comb e.ck).freeTiles t.tiles.length = none) : teamBack e bs key t x acc passes = .error 5 := by
  refine (if_neg (ne_true_of_eq_false hmatrix)).trans ((if_neg (ne_true_of_eq_false hroom)).trans ?_)
  simp only [h]

theorem teamBack_of_tiles {ts : List Nat} (h : (e.s.comb e.ck).freeTiles t.tiles.length = some ts) :
    teamBack e bs key t x acc passes = teamOnTiles e bs key t x acc passes ts (e.s.comb e.ck).freeSeq := by
  refine (if_neg (ne_true_of_eq_false hmatrix)).trans ((if_neg (ne_true_of_eq_false hroom)).trans ?_)
  simp only [h]

end

theorem teamOnTiles_of_no_seq {ts : List Nat} {q : Option Nat} (hx : x.isSome = true) (hq : q = none) :
    teamOnTiles e bs key t x acc passes ts q = .error 5 :=
  if_pos (by rw [hx, hq]; rfl)

/-- What keeps a team with a matrix image from coming back (R352): no room, no tiles, or no sequencer. -/
theorem teamBack_of_busy (hsound : matrixBad bs = false)
    (h : noRoom (e.s.comb e.ck) t passes = true ∨ (e.s.comb e.ck).freeTiles t.tiles.length = none ∨ (x.isSome = true ∧ (e.s.comb e.ck).freeSeq = none)) :
    teamBack e bs key t x acc passes = .error 5 := by
  have hmatrix : ((x.isSome || !t.tiles.isEmpty) && matrixBad bs) = false := by rw [hsound, Bool.and_false]
  cases hroom : noRoom (e.s.comb e.ck) t passes with
  | true => exact teamBack_of_no_room hsound hroom
  | false =>
    cases htiles : (e.s.comb e.ck).freeTiles t.tiles.length with
    | none => exact teamBack_of_no_tiles hmatrix hroom htiles
    | some ts =>
      obtain ⟨hx, hseq⟩ := (h.resolve_left (ne_true_of_eq_false hroom)).resolve_left (by rw [htiles]; exact Option.some_ne_none ts)
      exact (teamBack_of_tiles hmatrix hroom htiles).trans (teamOnTiles_of_no_seq hx hseq)

end

/-! ### Queues and FIFO banks -/

/-- The greatest age in a queue image. -/
def oldestAge (slots : List (Nat × TaskSlot)) (ready : List ReadyEnt) (clk : Nat) : Nat :=
  (slots.map (·.2.entered) ++ ready.map (·.entered)).foldl (fun m x => Nat.max m (clk - x)) 0

/-- The comb with an image's tasks in their slots and in the ready queue again, at a count of clk. -/
def seatTasks (c : Comb) (slots : List (Nat × TaskSlot)) (ready : List ReadyEnt) (clk now : Nat) : Comb :=
  let k := slots.foldl (fun k t => k.claimSlot t.1 { t.2 with entered := now - (clk - t.2.entered) }) { c with clk := now }
  { k with ready := k.ready ++ ready.map fun r => { r with entered := now - (clk - r.entered) } }

/-- Whether a task's slot is taken or the ready queue is too full (R352). -/
def noSlots (c : Comb) (slots : List (Nat × TaskSlot)) (ready : List ReadyEnt) : Bool :=
  (slots.any fun t => (c.slot t.1).task.isSome) || decide (256 < c.ready.length + ready.length)

/-- A context's tasks back, their ages going on from what they were; others that wait for room may enter. -/
def queuesBack (e : Env) (slots : List (Nat × TaskSlot)) (ready : List ReadyEnt) (clk : Nat) : State :=
  let c := e.s.comb e.ck
  (e.s.setComb e.ck (seatTasks c slots ready clk (Nat.max c.clk (oldestAge slots ready clk)))).admitRoom e.ck

/-- What CTXLOAD.queues puts back, where the slots are free and the ready queue has room. -/
def putQueues (e : Env) (b : Nat) (_ : List Byte) (i : Image) : Loading :=
  match i.body with
  | .queues slots ready clk =>
    if b % 256 ≠ i.ctx then .error 4
    else if noSlots (e.s.comb e.ck) slots ready then .error 5
    else .ok (queuesBack e slots ready clk)
  | _ => .error 4

theorem exec_ctxloadQueues (f : SForm) (s : State) : exec (.ctxloadQueues f) s = ctxload f s 3 putQueues := by rfl

section
variable {e : Env} {b : Nat} {bs : List Byte} {i : Image} {slots : List (Nat × TaskSlot)} {ready : List ReadyEnt} {clk : Nat}
  (hbody : i.body = .queues slots ready clk) (hctx : b % 256 = i.ctx)
include hbody hctx

theorem putQueues_of_full (h : noSlots (e.s.comb e.ck) slots ready = true) : putQueues e b bs i = .error 5 := by
  simp only [putQueues, hbody]
  exact (if_neg (not_not.2 hctx)).trans (if_pos h)

theorem putQueues_of_room (h : noSlots (e.s.comb e.ck) slots ready = false) : putQueues e b bs i = .ok (queuesBack e slots ready clk) := by
  simp only [putQueues, hbody]
  exact (if_neg (not_not.2 hctx)).trans (if_neg (ne_true_of_eq_false h))

end

/-- The comb with a bank's entries again. -/
def bankBack (e : Env) (k : Nat) (bank : Bank) : State := e.s.modComb e.ck fun c => c.setBank k bank

/-- What CTXLOAD.fifo puts back, where the bank is the image's and empty. -/
def putFifo (e : Env) (b : Nat) (_ : List Byte) (i : Image) : Loading :=
  match i.body with
  | .fifo k bank =>
    let now := (e.s.comb e.ck).bank k
    if b % 16 = k ∧ now.mode = .fifo ∧ now.ord = bank.ord ∧ now.owner = bank.owner ∧ now.empty then .ok (bankBack e k bank)
    else .error 5
  | _ => .error 4

theorem exec_ctxloadFifo (f : SForm) (s : State) : exec (.ctxloadFifo f) s = ctxload f s 4 putFifo := rfl

section
variable {e : Env} {b k : Nat} {bs : List Byte} {i : Image} {bank : Bank} (hbody : i.body = .fifo k bank)
include hbody

theorem putFifo_of_fits (h : b % 16 = k ∧ ((e.s.comb e.ck).bank k).mode = .fifo ∧ ((e.s.comb e.ck).bank k).ord = bank.ord ∧
    ((e.s.comb e.ck).bank k).owner = bank.owner ∧ ((e.s.comb e.ck).bank k).empty = true) : putFifo e b bs i = .ok (bankBack e k bank) := by
  simp only [putFifo, hbody]
  exact if_pos h

theorem putFifo_of_misfits (h : b % 16 ≠ k ∨ ((e.s.comb e.ck).bank k).mode ≠ .fifo ∨ ((e.s.comb e.ck).bank k).empty = false) :
    putFifo e b bs i = .error 5 := by
  simp only [putFifo, hbody]
  refine if_neg ?_
  rintro ⟨hk, hmode, -, -, hempty⟩
  rcases h with h | h | h
  · exact h hk
  · exact h hmode
  · exact Bool.false_ne_true (h.symm.trans hempty)

end

/-! ### Thaw (R345, R350) -/

/-- Whether an image of a context is not loaded yet. -/
def pendingImage (s : State) (ctx : Nat) : Bool := s.images.any fun i => decide (i.ctx = ctx) && !i.loaded

/-- What CTXLOAD.thaw does. -/
def thawBody (f : SForm) (e : Env) : Eff :=
  let ctx := (e.read32 f.b 0).toNat % 256
  if !e.s.feature 3 then e.status f e.s 7
  else if pendingImage e.s ctx then e.status f e.s 6
  else e.broadcast (.thaw ctx) fun _ => e.status f e.s 0

theorem exec_ctxloadThaw (f : SForm) (s : State) : exec (.ctxloadThaw f) s = issue s (ruleCtxloadThaw f) (thawBody f) := rfl

section
variable {f : SForm} {e : Env} (hon : e.s.feature 3 = true)
include hon

theorem thawBody_of_pending (h : pendingImage e.s ((e.read32 f.b 0).toNat % 256) = true) : thawBody f e = e.status f e.s 6 :=
  (if_neg (by rw [hon]; exact Bool.false_ne_true)).trans (if_pos h)

theorem thawBody_of_loaded (h : pendingImage e.s ((e.read32 f.b 0).toNat % 256) = false) :
    thawBody f e = e.broadcast (.thaw ((e.read32 f.b 0).toNat % 256)) fun _ => e.status f e.s 0 :=
  (if_neg (by rw [hon]; exact Bool.false_ne_true)).trans (if_neg (ne_true_of_eq_false h))

end

/-! ### The obligation's clauses -/

/-- What is loaded of an image that its checks pass (R323, R347, R350, R352). -/
theorem loadedState : Claim.LoadedState := by
  intro f
  refine ⟨fun bs i os => completes_ctxload (exec_ctxloadCopies f) (fun e => copiesBack e os) ?copies,
    fun bs i th slot claim trap => completes_ctxload (exec_ctxloadGroup f)
      (fun e => groupBack e ((e.read32 f.b 0).toNat % 64) i.ctx slot claim trap (groupOf bs th)) ?group,
    fun bs i th slot claim trap => writes_ctxload_of_error (exec_ctxloadGroup f) ?groupMisfits,
    fun bs i key t0 acc passes => completes_ctxload (exec_ctxloadTeam f)
      (fun e => e.s.setComb e.ck (seatTeam (e.s.comb e.ck) bs key (teamOf bs t0) none [] acc)) ?plainTeam,
    fun bs i key t0 acc passes ts => completes_ctxload (exec_ctxloadTeam f)
      (fun e => e.s.setComb e.ck (seatTeam (e.s.comb e.ck) bs key (teamOf bs t0) none ts acc)) ?tiledTeam,
    fun bs i key t0 x acc passes ts q => completes_ctxload (exec_ctxloadTeam f)
      (fun e => e.s.setComb e.ck (seatSeq (seatTeam (e.s.comb e.ck) bs key (teamOf bs t0) (some q) ts acc) (teamOf bs t0) ts q x passes)) ?streamTeam,
    fun bs i key t0 x acc passes => writes_ctxload_of_error (exec_ctxloadTeam f) ?teamBusy,
    fun bs i slots ready clk => completes_ctxload (exec_ctxloadQueues f) (fun e => queuesBack e slots ready clk) ?queues,
    fun bs i slots ready clk => writes_ctxload_of_error (exec_ctxloadQueues f) ?queuesFull,
    fun bs i k bank => completes_ctxload (exec_ctxloadFifo f) (fun e => bankBack e k bank) ?fifo,
    fun bs i k bank => writes_ctxload_of_error (exec_ctxloadFifo f) ?fifoMisfits,
    writes_ctxload_of_refused (exec_ctxloadCopies f), writes_ctxload_of_refused (exec_ctxloadGroup f), writes_ctxload_of_refused (exec_ctxloadTeam f),
    writes_ctxload_of_refused (exec_ctxloadQueues f), writes_ctxload_of_refused (exec_ctxloadFifo f),
    .of_body fun s => ⟨_, exec_ctxloadThaw f s, ?thaw⟩, .of_body fun s => ⟨_, exec_ctxloadThaw f s, ?thawed⟩,
    .of_body fun s => ⟨_, exec_ctxloadThaw f s, ?thawEarly⟩, .of_body fun s => ⟨_, exec_ctxloadThaw f s, fun e hoff => if_pos (by rw [hoff]; rfl)⟩⟩
  case copies => exact fun e ⟨hbody, hctx⟩ => putCopies_of_body hbody hctx
  case group => exact fun e ⟨hbody, hfits⟩ => putGroup_of_fits hbody (misfits_iff.2 hfits)
  case groupMisfits =>
    exact fun e ⟨hbody, hfits⟩ => putGroup_of_misfits hbody (Bool.eq_true_of_not_eq_false fun h => hfits (misfits_iff.1 h))
  case plainTeam =>
    intro e ⟨hbody, htiles, hroom, hfree⟩
    have hmatrix : (((none : Option Seq).isSome || !(teamOf bs t0).tiles.isEmpty) && matrixBad bs) = false := by rw [htiles]; rfl
    exact (putTeam_of_body hbody).trans (teamBack_of_tiles hmatrix (noRoom_iff.2 hroom) (by rw [htiles]; exact hfree))
  case tiledTeam =>
    intro e ⟨hbody, htiles, hsound, hroom, hfree⟩
    exact (putTeam_of_body hbody).trans (teamBack_of_tiles (by rw [matrixBad_iff.2 hsound, Bool.and_false]) (noRoom_iff.2 hroom) hfree)
  case streamTeam =>
    intro e ⟨hbody, hsound, hroom, hfree, hseq⟩
    refine (putTeam_of_body hbody).trans ((teamBack_of_tiles (by rw [matrixBad_iff.2 hsound, Bool.and_false]) (noRoom_iff.2 hroom) hfree).trans ?_)
    rw [hseq]
    rfl
  case teamBusy =>
    intro e ⟨hbody, hsound, hbusy⟩
    exact (putTeam_of_body hbody).trans (teamBack_of_busy (matrixBad_iff.2 hsound)
      (hbusy.imp_left fun hroom => Bool.eq_true_of_not_eq_false fun h => hroom (noRoom_iff.1 h)))
  case queues =>
    exact fun e ⟨hbody, hctx, hslots, hready⟩ => putQueues_of_room hbody hctx (Bool.or_eq_false_iff.2 ⟨hslots, decide_eq_false hready.not_gt⟩)
  case queuesFull =>
    exact fun e ⟨hbody, hctx, hfull⟩ => putQueues_of_full hbody hctx (Bool.or_eq_true_iff.2 (hfull.imp_right decide_eq_true))
  case fifo => exact fun e ⟨hbody, hfits⟩ => putFifo_of_fits hbody hfits
  case fifoMisfits => exact fun e ⟨hbody, hmisfits⟩ => putFifo_of_misfits hbody hmisfits
  case thaw =>
    intro e ⟨hon, hfresh, hloaded⟩
    exact ⟨_, _, (thawBody_of_loaded hon hloaded).trans (broadcast_of_fresh _ _ (.inl hfresh)), rfl, rfl⟩
  case thawed =>
    intro e ⟨hon, ⟨v, hv⟩, hloaded⟩
    exact (thawBody_of_loaded hon hloaded).trans (broadcast_of_answered _ _ hv)
  case thawEarly => exact fun e ⟨hon, hpending⟩ => thawBody_of_pending hon hpending

/-- Settles O17: by what each form of CTXSAVE finds to save, the bytes that an image's store leaves, and what each form of CTXLOAD
puts back. -/
theorem contextImages : Obligations.ContextImages := ⟨savedState, imageStored, loadedState⟩

end Sys2Proof.Proofs
end
